-- ==== Sys2Proof/Word.lean ====
section
/-! DEFINITION. The word types of the Choten 48 model. Registers are 64 bits wide (R8), the byte is the
smallest addressable unit of every memory (pond, Lovor memory, host memory, flash). -/

namespace Sys2Proof

/-- One byte. -/
abbrev Byte := BitVec 8

/-- One 64-bit register value (00_scope.md, "Registers"). -/
abbrev Word := BitVec 64

end Sys2Proof
end

