-- ==== Sys2Proof/Syntax.lean ====
section
/-! DEFINITION. The commands of the block, one constructor per row of spec/opcode_table.json, in the table's
order, and the data they carry. The table gives no operands; the operands are the model's choice (log 1):
the unit the step happens at, and what reaches the chip from outside it with the step. -/

namespace Sys2Proof

/-- Collective tag (Table 4-4). -/
structure CollTag where
  coll : Nat
  kind : Nat
  tile : Nat
  rank : Nat
  offset : Nat
  stage : Nat
  last : Bool
deriving DecidableEq, Repr, Inhabited

/-- The tag that TAGK names (Table 11-7). -/
inductive Tag where
  | plain (mtype : Nat)
  | coll (t : CollTag)
  | txn (id rlen status op : Nat) (target : Nat)
  | sync (obj : Nat) (addr : Nat)
deriving DecidableEq, Repr, Inhabited

/-- A copy that a mirror session makes of a packet, by the session's fields at the packet's first cell (R275, R276), and the port
that the packet leaves at when it is taken. -/
structure CopyPlan where
  ses : Nat
  prio : Nat
  trunc : Nat
  dest : Nat
  port : Nat
deriving DecidableEq, Repr, Inhabited

/-- A packet: header (Table 11-6), tag (Table 11-7), payload and the stomp code of its last cell
(Table 8-1). Addresses are the 22-bit layout of R287. The last four fields are no part of the packet but what this chip keeps with
it (log 130): the payload bytes still to arrive, a number that tells packets in the chip apart, the copies to make of it when
it leaves, and the landing counter and pond address that the stream of a newt of this chip names (DLAND of Table 4-6). -/
structure Packet where
  dst : Nat := 0
  dchip : Bool := false
  schip : Bool := false
  src : Nat := 0
  cls : Nat := 3
  vc : Nat := 0
  seqv : Bool := false
  chan : Nat := 0
  colour : Nat := 0
  prio : Nat := 0
  seq : Nat := 0
  first : Bool := false
  last : Bool := false
  tag : Tag := .plain 0
  dunit : Nat := 0
  sunit : Nat := 0
  payload : List Byte := []
  stomp : Nat := 0
  left : Nat := 0
  sid : Nat := 0
  mirs : List CopyPlan := []
  land : Option (Nat × Nat) := none
deriving DecidableEq, Repr, Inhabited

/-- What reaches a quad in one pad: the 2,240 bytes of each of its four lanes, none for a lane without signal, in the order of its
lanes, from the frame's boundary on (R374). `stamp` is the chip's croak count at the frame's first bit at its contacts,
in sixteenths of a tick (R188), `skews` by how much the frame comes later on each lane, in units of 0.125 ns (R375). -/
structure LaneFrame where
  lanes : List (List Byte)
  stamp : Nat := 0
  skews : List Nat := []
deriving DecidableEq, Repr, Inhabited

/-- A torus link of another chip in service, as that chip has measured it: the offset of the chip at its far end, in 1/16 tick
(R188, R190). -/
structure ChipLink where
  chip : Nat
  dir : Nat
  offset : Int
deriving DecidableEq, Repr, Inhabited

/-- A received identity record (Table 9-5). -/
structure IdentRec where
  kind : Nat
  vendor : Nat := 0
  device : Nat := 0
  step : Nat := 0
  serial : Nat := 0
  major : Nat := 0
  minor : Nat := 0
  coord : Nat := 0
  dir : Nat := 0
  qidx : Nat := 0
  fp : List Byte := []
  caps : Nat := 0
deriving DecidableEq, Repr, Inhabited

/-- The place of a fault as completion records carry it (Table 4-9). -/
structure FaultPlace where
  fchip : Nat := 0
  funit : Nat := 0
  fkind : Nat := 0
deriving DecidableEq, Repr, Inhabited

/-- A cell as a newt's receive port takes it (R87, R89): the pond address and landing counter that the
schedule or the posted collective names, its collective tag and its bytes. -/
structure LandCell where
  addr : Nat
  lc : Nat
  tag : CollTag
  data : List Byte
deriving DecidableEq, Repr, Inhabited

/-- An escape record (R62, R102): collective, tile, rank, block number, whether it is of the binary64
chain, and for each of the 32 elements its tag byte and register bytes. -/
structure EscapeRec where
  coll : Nat
  tile : Nat
  rank : Nat
  block : Nat
  wide : Bool
  data : List Byte
deriving DecidableEq, Repr, Inhabited

/-- The work the collective library places on one free newt (R128, R432, R511): program words, PROG_SIZE in
4 KiB units, pond bytes, stream entries, and the landing counter each contribution names. -/
structure Placement where
  newt : Fin 2048
  progk : Nat
  words : List Word
  pond : List (Nat × List Byte)
  streams : List (Nat × List Byte)
deriving DecidableEq, Repr, Inhabited

/-- What the start of a posted collective brings to this chip: the epilogue table that its post carried, if any (R240), and
the work placed on free newts. -/
structure CollWork where
  table : List Byte
  places : List Placement
deriving DecidableEq, Repr, Inhabited

/-- A BID message of an election (R461). -/
structure Bid where
  term : Nat
  mprio : Nat
  coord : Nat
deriving DecidableEq, Repr, Inhabited

/-- One chip's drain report (R314): for each class 1 to 5, whether it holds no cell, and the cells
it has sent and received on its torus links since reset. -/
structure DrainRep where
  chip : Nat
  empty : List Bool
  sent : List Nat
  recvd : List Nat
deriving DecidableEq, Repr, Inhabited

/-- A FLOW_ACK payload (Table 11-15), with the flow's identity. -/
structure FlowAck where
  fsrc : Nat
  fdst : Nat
  fsunit : Nat
  fdunit : Nat
  cls : Nat
  chan : Nat
  nak : Bool
  closed : Bool
  win : Nat
  reason : Nat
  next : Nat
  nseq : Nat
deriving DecidableEq, Repr, Inhabited

/-- The outcome of a read of a Lovor block (R386). -/
inductive ReadResult where
  | clean | corrected | uncorrectable
deriving DecidableEq, Repr

/-- The test access port's instructions (R503). -/
inductive JtagInstr where
  | bypass | idcode | samplePreload | extest | extestPulse | extestTrain
deriving DecidableEq, Repr, Inhabited

/-- How firmware names a log entry it writes (R467): type, core, id and data. -/
structure LogInput where
  typ : Nat
  core : Nat
  id : Nat
  data : List Byte
deriving DecidableEq, Repr, Inhabited

/-- The error of a unit that fails: its code and its source (Table 15-1). -/
structure UnitErr where
  code : Nat
  kind : Nat
  unit : Nat
deriving DecidableEq, Repr, Inhabited

/-- ACTIVATE_LAYOUT in a mailbox slot, with the unit that fails during the activation, if one does (R245). -/
structure Activation where
  slot : Fin 256
  fault : Option UnitErr
deriving DecidableEq, Repr, Inhabited

/-- Why a packet is stomped: its code (Table 8-1) and, for a buffer error, the buffer segment it stands in; code 0 is a buffer
error that was corrected (R254). -/
structure StompCause where
  code : Nat
  seg : Nat
deriving DecidableEq, Repr, Inhabited

/-- Why a chip opens an election (R461). -/
inductive ElectionCause where
  | masterLost | noHeartbeat | termDiffers (term : Nat) | otherMaster
deriving DecidableEq, Repr, Inhabited

/-- The steps of the part (spec/opcode_table.json). -/
inductive Instr where
  -- power, reset and the board
  | powerGood (recov test : Bool)
  | boot (excl : List (Nat × Word))
  | pwrgoodFall
  | conventionalReset
  | functionLevelReset
  | railFault (rail : Fin 10) (mv : Nat)
  | referenceFault (khz : Nat)
  | sensorReading (raw : List (Option Int))
  | powerReading (rails avg10ms avg1ms avg100us : List Nat)
  | emergencyClear
  | wantFallIdle
  | stackCoolReturn (st : Fin 4)
  | jtagInstruction (i : JtagInstr)
  | cxlLinkDown
  | cxlRefclkLoss
  -- host memory range and windows
  | hdmRead (off : Nat)
  | hdmWrite (off : Nat) (data : List Byte) (poison : Bool)
  | registerWrite (off : Nat) (value : Word) (width : Nat)
  | mailboxSlotWrite (off : Nat) (value : Word) (width : Nat)
  | mailboxPost (slot : Fin 256) (word : Word)
  | mailboxScan
  | commandTimeout (slot : Fin 256)
  -- mailbox commands, named by the slot that holds them
  | identify (slot : Fin 256)
  | loadLayout (slot : Fin 256)
  | activateLayout (act : Activation)
  | jobOpen (slot : Fin 256)
  | jobLaunch (slot : Fin 256)
  | jobAbort (slot : Fin 256)
  | jobCheckpoint (slot : Fin 256)
  | jobResume (slot : Fin 256)
  | collPost (slot : Fin 256)
  | drain (slot : Fin 256)
  | tableSwap (slot : Fin 256)
  | fwStage (slot : Fin 256)
  | fwMolt (slot : Fin 256)
  | selftest (slot : Fin 256)
  | selftestDone (slot : Fin 256) (failed : List (Nat × Nat))
  | calRead (slot : Fin 256)
  | calWrite (slot : Fin 256)
  | runRecord (slot : Fin 256)
  | adopt (slot : Fin 256) (hostOk : Bool)
  | logSnapshot (slot : Fin 256)
  -- host registers
  | heartbeatWrite (value : Word)
  | heartbeatLoss
  | hdmSizeWrite (value : Word)
  | eventRingWrite (value : Word)
  | eventWrite
  | completionRecordWrite (job : Fin 64)
  | ringReadAdvance (job : Option (Fin 64)) (rd : Nat)
  | attestGo
  | attestDone (hostOk : Bool)
  | progCustkey (confirm : Byte)
  | setSigreq (confirm : Byte)
  | raiseSvn (confirm : Byte)
  | monitorKeyWrite (i : Fin 4) (value : Word)
  | monitorLockWrite (value : Word)
  | rasInject (value : Word)
  | rasRecordClear (code : Fin 4096)
  | logEntryWrite (entry : Option LogInput)
  -- pools and DMA
  | poolFree (value : Word)
  | poolCarve (die : Fin 2) (pool : Fin 7) (value : Word)
  | dmaRingWrite (ch : Fin 64) (value : Word)
  | dmaDoorbell (ch : Fin 64) (value : Word)
  | resume (ch : Fin 64)
  | abandon (ch : Fin 64)
  | dmaNop (ch : Fin 64) (desc : List Byte)
  | dmaH2d (ch : Fin 64) (desc data : List Byte)
  | dmaD2h (ch : Fin 64) (desc : List Byte)
  | dmaFill (ch : Fin 64) (desc : List Byte)
  | dmaWait (ch : Fin 64) (desc : List Byte)
  | dmaSig (ch : Fin 64) (desc : List Byte)
  | dmaBarr (ch : Fin 64) (desc : List Byte)
  | dmaCompletion (ch : Fin 64)
  | dmaBusError (haddr : Word)
  -- sync objects
  | syncCreate (obj : Fin 8192) (value : Word)
  | syncDestroy (obj : Fin 8192) (value : Word)
  | syncPost (obj : Fin 8192) (value : Word)
  | syncWaitTimeout (obj : Fin 8192) (agent : Nat)
  | syncTaggedWrite (quad : Fin 128) (obj : Fin 8192) (src addr : Nat) (data : List Byte)
  | heldSignalApply (obj : Fin 8192)
  -- newt instructions: the newt whose head instruction it is
  | nop (n : Fin 2048)
  | endProgram (n : Fin 2048)
  | loop (n : Fin 2048)
  | wland (n : Fin 2048)
  | wso (n : Fin 2048)
  | sig (n : Fin 2048)
  | barr (n : Fin 2048)
  | cmt (n : Fin 2048)
  | tbnd (n : Fin 2048)
  | send (n : Fin 2048)
  | copy (n : Fin 2048)
  | red (n : Fin 2048)
  | ctr (n : Fin 2048)
  | epi (n : Fin 2048)
  | wclr (n : Fin 2048)
  | wsv (n : Fin 2048)
  | wld (n : Fin 2048)
  | newtInstructionComplete (n : Fin 2048) (pc : Nat)
  | cellLanding (n : Fin 2048) (cell : LandCell)
  | escapeRecordLand (n : Fin 2048) (rec : EscapeRec)
  | asbPacketMerge (n : Fin 2048) (cell : LandCell)
  | wlandTimeout (n : Fin 2048)
  | newtPause (n : Fin 2048)
  | newtAbort (n : Fin 2048) (coll : Nat)
  -- collectives
  | abortRequest (coll cause : Nat) (place : FaultPlace)
  | collTimeout (coll : Nat)
  | noticeReceive (coll status cause : Nat) (place : FaultPlace) (asb : List Byte)
  | outcomeDecided (coll : Nat)
  | deliveredSend (coll : Nat) (port : Fin 128)
  | postedCollectiveStart (coll : Nat) (work : CollWork)
  -- schedule
  | padBoundary
  | launchCountReached (job : Fin 64)
  | freezeBegin
  | extensionCall
  | freezeEnd
  | densitySample
  | epochBoundary
  | pauseRequest
  | checkpointWrite (slot : Fin 256)
  | jobDone (job : Fin 64)
  | masterHeartbeat
  | schMasterLost
  | alignmentCorrection (xLinks yLinks zLinks : List ChipLink)
  | electionOpen (cause : ElectionCause)
  | bidReceive (bid : Bid)
  | electionDecide
  | electionRetry
  -- links
  | padFrameSend (q : Fin 128)
  | padFrameReceive (q : Fin 128) (frame : LaneFrame)
  | linkRetryFail (q : Fin 128)
  | trainingStart (q : Fin 128)
  | trainingStepEnd (q : Fin 128)
  | lnkTrainFail (q : Fin 128)
  | trainingRestart (q : Fin 128)
  | lnkRqWrite (q : Fin 128) (lane : Fin 4) (value : Word)
  | lnkSlip (q : Fin 128) (value : Word)
  | maint (q : Fin 128) (value : Word)
  | retrain (q : Fin 128) (value : Word)
  | quadLinkFailure (q : Fin 128)
  | identity (q : Fin 128) (rec : IdentRec)
  | identityRepeat (q : Fin 128)
  -- fabric and routing
  | chipLost (chip : Nat)
  | chipLostNotice (chip : Nat)
  | depart (addr : Nat)
  | faultReroute (lostLinks : List (Nat × Nat)) (lostChips : List Nat)
  | packetArrival (q : Fin 128) (p : Packet)
  | packetAdmit (src : Fin 129) (stream : Nat)
  | resequence (p : Packet)
  | flowAck (ack : FlowAck)
  | resendTimeout (src dst cls chan sunit dunit : Nat)
  | packetForwardStart (q : Fin 128) (stream : Nat)
  | stomp (port cls vc : Nat) (cause : StompCause)
  | overflowMoveBack (port cls vc : Nat)
  | rspReservationTimeout (port : Fin 128)
  | swcStall (port cls vc : Nat)
  | mirrorEnable (session : Fin 16) (value : Word)
  | clearHigh
  | clearCounters
  | bankwinWrite (w : Fin 4096) (value : Word)
  | drainReport
  | drainReportReceive (rep : DrainRep)
  | drained
  | released
  | rteDrainTimeout
  -- shaping
  | tokenRefill
  | nodeConfigWrite (node : Nat) (value : Word)
  | policerConfigWrite (k : Fin 512) (value : Word)
  | subscriberKeyWrite (n : Fin 16384) (value : Word)
  | adaptiveShaping
  | densityPoll
  | powerTrace
  -- stacks and control complex
  | refreshInstant (st : Fin 4) (pch : Fin 32)
  | stackPlanChange
  | patrolScrub (block : Nat) (result : ReadResult)
  | stkCeRate (st : Fin 4)
  | stkFault (st : Fin 4)
  | watchdogExpiry (core : Fin 8)
  | mgmtInboxArrival (p : Packet)
  | moltHandover
  | moltPauseEnd (pauseNs : Nat)
  | moltTimeout
  -- UART monitor
  | help
  | ver
  | stat
  | map (w : Nat)
  | peek (off n : Nat)
  | log (n : Nat)
  | eye (q : Nat) (lane : Nat)
  | baud (rate : Nat)
  | chal
  | unlock (token : List Nat)
  | lock
  | poke (off : Nat) (value : Word)
  | mpeek (addr n : Nat)
  | fwMonSyntax
  | monitorIdleLock
  | unlockLockoutEnd
  -- completions of work in progress
  | cxlLinkUp (x8 gt32 flit68 : Bool)
  | listRebuildDone (die : Fin 2) (pool : Fin 7)
  | drainReleaseReceive (chip : Nat)
  | fuseActionDone
  | cxlIoTransferDone (slot : Fin 256) (ok : Bool) (data : List Byte)
  | flashWriteDone (slot : Fin 256) (ok : Bool)
deriving DecidableEq, Repr

end Sys2Proof
end

