-- ==== Sys2Proof/WellFormed.lean ====
section
/-! DEFINITION. Which commands are well formed: the operands that arrive from outside lie in the ranges their
formats give them. Meanings read operands through fixed-width fields and do not rely on these checks. -/

namespace Sys2Proof

/-- A collective tag's fields fit Table 4-4. -/
def CollTag.wf (t : CollTag) : Bool :=
  decide (t.coll < 2 ^ 24 ∧ t.kind < 13 ∧ t.tile < 2 ^ 32 ∧ t.rank < 2 ^ 32 ∧ t.offset < 2 ^ 16 ∧ t.stage < 8)

/-- A tag's fields fit the tag that TAGK names (Table 11-7). -/
def Tag.wf (t : Tag) : Bool :=
  match t with
  | .plain m => decide (m < 2 ^ 16)
  | .coll t => t.wf
  | .txn id rlen status op target =>
    decide (id < 2 ^ 32 ∧ rlen ≤ 4096 ∧ status < 256 ∧ op < 256 ∧ target < 2 ^ 64)
  | .sync obj addr => decide (obj < 8192 ∧ addr < 2 ^ 38)

/-- A packet's fields fit its header, its payload is at most 4,096 bytes, and what the chip keeps with it is not set. -/
def Packet.wf (p : Packet) : Bool :=
  decide (p.dst < 2 ^ 22 ∧ p.src < 2 ^ 22 ∧ p.cls < 8 ∧ p.vc < 2 ∧ p.chan < 16 ∧ p.colour < 4 ∧ p.prio < 4 ∧
    p.seq < 2 ^ 16 ∧ p.dunit < 2 ^ 16 ∧ p.sunit < 2 ^ 16 ∧ p.payload.length ≤ 4096 ∧ p.stomp < 16 ∧ p.left = 0 ∧ p.sid = 0 ∧
    p.mirs = [] ∧ p.land = none) && p.tag.wf

/-- A frame has four lanes, each of 2,240 bytes unless it has no signal. -/
def LaneFrame.wf (f : LaneFrame) : Bool :=
  decide (f.lanes.length = 4) && f.lanes.all (fun l => decide (l.length = 0 ∨ l.length = 2240))

/-- A landing cell holds at most 256 bytes, at an address of the pond, for one of 64 counters. -/
def LandCell.wf (c : LandCell) : Bool :=
  decide (c.addr < 2 ^ 19 ∧ c.lc < 64 ∧ c.data.length ≤ 256) && c.tag.wf

/-- The operands of a command lie in the ranges their formats give them. -/
def Instr.wf (i : Instr) : Bool :=
  match i with
  | .sensorReading raw => decide (raw.length = 64)
  | .hdmRead off => decide (off % 64 = 0)
  | .hdmWrite off data _ => decide (off % 64 = 0 ∧ data.length = 64)
  | .registerWrite off _ width => decide (off < 2 ^ 26 ∧ width ≤ 8)
  | .mailboxSlotWrite off _ width => decide (off < 2 ^ 20 ∧ width ≤ 64)
  | .dmaNop _ d => decide (d.length = 64)
  | .dmaH2d _ d data => decide (d.length = 64 ∧ data.length < 2 ^ 32)
  | .dmaD2h _ d => decide (d.length = 64)
  | .dmaFill _ d => decide (d.length = 64)
  | .dmaWait _ d => decide (d.length = 64)
  | .dmaSig _ d => decide (d.length = 64)
  | .dmaBarr _ d => decide (d.length = 64)
  | .activateLayout a => a.fault.all (fun e => decide (e.code < 2 ^ 12 ∧ e.kind < 32 ∧ e.unit < 2 ^ 16))
  | .syncWaitTimeout _ agent => decide (agent < 2 ^ 16)
  | .syncTaggedWrite _ _ src addr data => decide (src < 2 ^ 23 ∧ addr + data.length ≤ 2 ^ 38 ∧ data.length ≤ 256)
  | .newtInstructionComplete _ pc => decide (pc < 2 ^ 13)
  | .cellLanding _ c => c.wf
  | .asbPacketMerge _ c => c.wf && decide (c.data.length = 40)
  | .newtAbort _ c => decide (c < 2 ^ 24)
  | .abortRequest c cause _ => decide (c < 2 ^ 24 ∧ cause < 2 ^ 16)
  | .collTimeout c => decide (c < 2 ^ 24)
  | .noticeReceive c st cause _ asb => decide (c < 2 ^ 24 ∧ st < 4 ∧ cause < 2 ^ 16 ∧ asb.length = 40)
  | .outcomeDecided c => decide (c < 2 ^ 24)
  | .deliveredSend c _ => decide (c < 2 ^ 24)
  | .postedCollectiveStart c w => decide (c < 2 ^ 24 ∧ w.table.length ≤ 8224)
  | .alignmentCorrection x y z => x.all (fun l => l.dir / 2 == 0) && y.all (fun l => l.dir / 2 == 1) && z.all (fun l => l.dir / 2 == 2)
  | .padFrameReceive _ f => f.wf
  | .chipLost c => decide (c < 2 ^ 15)
  | .chipLostNotice c => decide (c < 2 ^ 15)
  | .depart a => decide (a < 2 ^ 22)
  | .packetArrival _ p => p.wf
  | .resequence p => p.wf
  | .mgmtInboxArrival p => p.wf
  | .stomp port cls vc c => decide (port < 134 ∧ cls < 8 ∧ vc < 2 ∧ c.code < 16 ∧ c.seg < 208)
  | .overflowMoveBack port cls vc => decide (port < 134 ∧ cls < 8 ∧ vc < 2)
  | .swcStall port cls vc => decide (port < 134 ∧ cls < 8 ∧ vc < 2)
  | .nodeConfigWrite n _ => decide (n < 2 ^ 16)
  | .drainReleaseReceive c => decide (c < 2 ^ 15)
  | .map w => decide (w < 72)
  | .peek _ n => decide (1 ≤ n ∧ n ≤ 16)
  | .log n => decide (1 ≤ n ∧ n ≤ 64)
  | .eye q l => decide (q < 128 ∧ l < 4)
  | .unlock t => decide (t.length = 12) && t.all (fun d => decide (d < 32))
  | .mpeek _ n => decide (1 ≤ n ∧ n ≤ 16)
  | _ => true

end Sys2Proof
end

