-- ==== Sys2Proof/Machine/Table.lean ====
section
/-! DEFINITION. Sparse tables in one canonical form: keys strictly rising, no entry equal to what an unlisted
key reads as. Memories (pond, Lovor, host memory, flash) are tables of bytes with default 0. -/

namespace Sys2Proof.Machine

/-- A sparse table: (key, value) pairs. -/
abbrev Table (α : Type) := List (Nat × α)

/-- The value at a key; an unlisted key reads as `d`. -/
def tget {α : Type} (d : α) (t : Table α) (k : Nat) : α :=
  match t with
  | [] => d
  | (i, v) :: r => if i = k then v else tget d r k

/-- The table with `v` at `k`: the entry is left out when `v` is what an unlisted key reads as. -/
def tset {α : Type} [DecidableEq α] (d : α) (t : Table α) (k : Nat) (v : α) : Table α :=
  t.takeWhile (fun e => decide (e.1 < k)) ++ (if v = d then [] else [(k, v)]) ++
    t.dropWhile (fun e => decide (e.1 ≤ k))

/-- The table with `f` applied to the value at `k`. -/
def tmod {α : Type} [DecidableEq α] (d : α) (t : Table α) (k : Nat) (f : α → α) : Table α :=
  tset d t k (f (tget d t k))

/-- Keys strictly rising. -/
abbrev tsorted {α : Type} (t : Table α) : Prop := t.Pairwise (fun a b => a.1 < b.1)

/-- The canonical form. -/
def twf {α : Type} [DecidableEq α] (d : α) (t : Table α) : Bool :=
  decide (t.Pairwise (fun a b => a.1 < b.1)) && t.all (fun e => decide (e.2 ≠ d))

/-- A byte memory; an unwritten byte reads 0. -/
abbrev Mem := Table Byte

/-- The entries that `bs` leaves at `a`, `a + 1`, …: zero bytes are not listed. -/
def memCells (a : Nat) (bs : List Byte) : Mem :=
  match bs with
  | [] => []
  | b :: r => if b = 0 then memCells (a + 1) r else (a, b) :: memCells (a + 1) r

/-- Write the bytes `bs` at address `a`. -/
def memWrite (m : Mem) (a : Nat) (bs : List Byte) : Mem :=
  m.takeWhile (fun e => decide (e.1 < a)) ++ memCells a bs ++
    m.dropWhile (fun e => decide (e.1 < a + bs.length))

/-- Read `n` bytes from address `a`. -/
def memRead (m : Mem) (a n : Nat) : List Byte :=
  match n with
  | 0 => []
  | n + 1 =>
    let rest := m.dropWhile (fun e => decide (e.1 < a))
    match rest with
    | [] => 0 :: memRead [] (a + 1) n
    | (k, v) :: _ => (if k = a then v else 0) :: memRead rest (a + 1) n

/-- One byte of a memory. -/
def memByte (m : Mem) (a : Nat) : Byte := tget 0 m a

/-- The canonical form of a memory. -/
def memWf (m : Mem) : Bool := twf (0 : Byte) m

end Sys2Proof.Machine
end

