-- ==== Sys2Proof/Machine/Bytes.lean ====
section
/-! DEFINITION. Bit fields and little-endian byte fields (R7), shared by every unit. Values are natural
numbers while they are computed; registers are read and written whole as 64-bit words. -/

namespace Sys2Proof.Machine

/-- Bits [hi:lo] of `w`. -/
def bits (w hi lo : Nat) : Nat := w / 2 ^ lo % 2 ^ (hi + 1 - lo)

/-- Bit `i` of `w`. -/
def bitOf (w i : Nat) : Bool := decide (w / 2 ^ i % 2 = 1)

/-- A field as a signed number of `n` bits. -/
def signed (n v : Nat) : Int := if v < 2 ^ (n - 1) then (v : Int) else (v : Int) - 2 ^ n

/-- A signed number as an `n`-bit field. -/
def unsigned (n : Nat) (v : Int) : Nat := (v % (2 ^ n : Int)).toNat

/-- The number 1 or 0. -/
def bnat (b : Bool) : Nat := if b then 1 else 0

/-- Fields (width, value) packed from bit 0 upwards. -/
def pack (fs : List (Nat × Nat)) : Nat :=
  match fs with
  | [] => 0
  | (w, v) :: r => v % 2 ^ w + 2 ^ w * pack r

/-- `n` bytes of `v`, least significant first. -/
def leBytes (n v : Nat) : List Byte :=
  match n with
  | 0 => []
  | n + 1 => BitVec.ofNat 8 v :: leBytes n (v / 256)

/-- The number whose little-endian bytes are `bs`. -/
def leNat (bs : List Byte) : Nat :=
  match bs with
  | [] => 0
  | b :: r => b.toNat + 256 * leNat r

/-- `n` bytes of `bs` from offset `off`; bytes past the end read 0. -/
def slice (bs : List Byte) (off n : Nat) : List Byte :=
  let part := (bs.drop off).take n
  part ++ List.replicate (n - part.length) 0

/-- The little-endian field of `n` bytes at offset `off`. -/
def fieldAt (bs : List Byte) (off n : Nat) : Nat := leNat (slice bs off n)

/-- `bs` with `new` stored at offset `off`, within its length. -/
def putBytes (bs : List Byte) (off : Nat) (new : List Byte) : List Byte :=
  bs.take off ++ (new.take (bs.length - off) ++ bs.drop (off + new.length))

/-- Whether every byte is zero. -/
def allZero (bs : List Byte) : Bool := bs.all (fun b => decide (b = 0))

/-- `n` zero bytes. -/
def zeros (n : Nat) : List Byte := List.replicate n 0

/-- The list with `v` at index `i` (unchanged past its end). -/
def lset {α : Type} (l : List α) (i : Nat) (v : α) : List α := l.set i v

/-- The list with `f` applied at index `i`. -/
def lmod {α : Type} (l : List α) (i : Nat) (f : α → α) : List α := l.modify i f

/-- `v` added to a counter that stops at `top`. -/
def satAdd (top a v : Nat) : Nat := min top (a + v)

/-- The ASCII bytes of a string. -/
def ascii (t : String) : List Byte := t.toList.map (fun c => BitVec.ofNat 8 c.toNat)

/-- Insert into a list of rising numbers without repeats. -/
def insertNat (l : List Nat) (v : Nat) : List Nat :=
  match l with
  | [] => [v]
  | a :: r => if v < a then v :: a :: r else if v = a then a :: r else a :: insertNat r v

/-- The bits of `w` numbered below `n`, ascending. -/
def bitList (n w : Nat) : List Nat := (List.range n).filter (fun i => bitOf w i)

/-- The number whose set bits are `l`. -/
def ofBits (l : List Nat) : Nat := l.foldl (fun a i => a ||| 2 ^ i) 0

/-- One byte shifted into a cyclic redundancy check of `n` bits, most significant bit first. -/
def crcBit (n poly : Nat) (crc : Nat) (b : Bool) : Nat :=
  let top := bitOf crc (n - 1)
  let sh := crc * 2 % 2 ^ n
  if top != b then sh ^^^ poly else sh

/-- A cyclic redundancy check of `n` bits over bits in the order they are sent. -/
def crcBits (n poly init : Nat) (bs : List Bool) : Nat := bs.foldl (crcBit n poly) init

/-- The bits of a byte, least significant first. -/
def byteBitsLsb (b : Byte) : List Bool := (List.range 8).map (fun i => b.getLsbD i)

/-- The bits of a byte, most significant first. -/
def byteBitsMsb (b : Byte) : List Bool := (List.range 8).map (fun i => b.getLsbD (7 - i))

/-- The eight bytes of a word. -/
def wordBytes (w : Word) : List Byte := leBytes 8 w.toNat

end Sys2Proof.Machine
end

