-- ==== Sys2Proof/Config.lean ====
section
/-! DEFINITION. What one part fixes and the spec leaves open. Every constant here is opaque: it has no
body, so no statement can rest on a value of it (assumption log 2, 3, 4). -/

namespace Sys2Proof.Config

/-- A free value of 64 bits, applied to the model's counter of free values (log 2). -/
opaque freeWord : Nat → Word

/-- A free byte, applied to the model's counter of free values and a position (log 2). -/
opaque freeByte : Nat → Nat → Byte

/-- The serial number of the part (R429, Table 13-5). -/
opaque serial : Word

/-- The ML-DSA-65 identity public key, 1,952 bytes (R452, Table 14-7). -/
opaque identityKey : Nat → Byte

/-- Boots since manufacture before the first reset the model sees (Table 14-7). -/
opaque bootsBefore : Nat

/-- Bytes of the 4 MiB ROM (R453 measurement 0): its 32-byte digest. -/
opaque romDigest : Nat → Byte

/-- An ML-DSA-65 signature (FIPS 204) with the identity key over a message under a context string: byte
`i` of the 3,309 (R216, R454). The private key never leaves the root of trust (R452). -/
opaque sign : List Byte → List Byte → Nat → Byte

/-- The vendor's ML-DSA-65 public key held in ROM (R446). -/
opaque vendorKey : Nat → Byte

/-- Byte `i` of the calibration defaults held in ROM (R465). -/
opaque romCalibration : Nat → Byte

end Sys2Proof.Config
end

