-- ==== Sys2Proof/Machine/State.lean ====
section
/-! DEFINITION. The state of one Choten 48 as plain data: every register, buffer, queue, counter, mode and pin
the spec names, grouped by the block that holds it, and the queue of waiting commands. A field's default
is its value right after reset; docstrings name the rule, and INVENTORY.md lists every one. -/

namespace Sys2Proof.Machine

/-- Why the machine stops with a fault. -/
inductive Fault where
  /-- Raised by no meaning: every command of the table has an effect or changes nothing (log 5). Safe. -/
  | illFormed
deriving DecidableEq, Repr

/-- Why a command is refused by the model. -/
inductive Refusal where
  /-- No meaning yet: raised by the arms of exec that name their mnemonic. Safe. -/
  | notModelled (mnemonic : String)
deriving DecidableEq, Repr

/-- Where the chip is between reset and running (R451, R494, R495, R496, R502, R505). -/
inductive Phase where
  | off       -- in reset
  | testHeld  -- STRAP_TEST high: held in reset with FAULT_N low (R502)
  | booting   -- power-good, boot steps running
  | running   -- boot ended
  | stopped   -- rail fault, reference fault or trip: only the always-on island runs
deriving DecidableEq, Repr, Inhabited

/-- The low-speed signals (Table 16-5) and PERST_N. Input pins are low before power-up (log 6). `refBad`: the reference was found out of
its range and has not come back (R498). `boundary` is the boundary register of the test access port (R503). -/
structure Pins where
  phase : Phase := .off
  pwrgood : Bool := false
  perstN : Bool := false
  recov : Bool := false
  test : Bool := false
  faultN : Bool := true
  thermtripN : Bool := true
  jtag : JtagInstr := .idcode
  cold : Bool := true
  refBad : Bool := false
  uartTx : Bool := true
  trstN : Bool := false
  boundary : List Bool := []
deriving DecidableEq, Repr

/-- The occurrences of one code in the cycle at croak count `tick`: their number, and the one with the lowest (KIND, UNIT) (R476). -/
structure RasCycle where
  tick : Nat
  n : Nat
  inj : Bool
  src : Word
  data : List Word
deriving DecidableEq, Repr

/-- One error record of the RAS block (R474, Table 15-5). `logAt` is the croak count of the last log
entry of the code (R480), `cyc` the latest cycle in which it was raised (R476). -/
structure RasRec where
  set : Bool := false
  evt : Bool := false
  irq : Bool := false
  inj : Bool := false
  count : Nat := 0
  rtime : Nat := 0
  rlast : Nat := 0
  rsrc : Word := 0
  rdata : List Word := [0, 0, 0, 0]
  logAt : Option Nat := none
  cyc : Option RasCycle := none
deriving DecidableEq, Repr

/-- The RAS block: records by code, the enables whose value differs from reset (R484), by code, the codes whose records
survived the last reset and are not yet reported (R483), and the sticky bits that errors set in the cycle at croak count `freshAt`
(R11), by 64 times the register's offset plus the bit. -/
structure Ras where
  recs : Table RasRec := []
  evenOff : Table Bool := []
  irqenFlip : Table Bool := []
  survived : List Nat := []
  fresh : List Nat := []
  freshAt : Nat := 0
deriving DecidableEq, Repr

/-- One entry of the log (Table 14-12) before its SEQ is given. -/
structure LogItem where
  typ : Nat
  core : Nat
  id : Nat
  croak : Nat
  data : List Byte
deriving DecidableEq, Repr

/-- The log (R467 to R469): HEAD, dropped traces, the snapshot in progress, the staging buffer, the queue of
entries not yet writable (R483), trace mask words. The ring itself lies in Lovor memory. -/
structure LogSt where
  head : Nat := 0
  trdrop : Nat := 0
  snap : Bool := false
  snapEarly : Option Nat := none
  staging : List LogItem := []
  queued : List LogItem := []
  trmask : Table Word := []
  ready : Bool := false
deriving DecidableEq, Repr

/-- The disabled-unit map (R31, R33): fused words, boot exclusions, selection, units added this boot. -/
structure UnitMap where
  fused : Table Word := []
  excl : Table Word := []
  sel : Nat := 0
  bootExcl : Nat := 0
deriving DecidableEq, Repr

/-- One endpoint's last identity record and port state (Table 9-12). -/
structure EpStat where
  state : Nat := 0
  caps : Nat := 0
  vendor : Nat := 0
  device : Nat := 0
  jminor : Nat := 0
  ident : List Byte := []
deriving DecidableEq, Repr

/-- One flash slot of the layout-image store (R243). -/
structure LaySlot where
  complete : Bool := false
  gen : Nat := 0
  coord : Nat := 0
  fp : List Byte := []
  digest : List Byte := []
  file : List Byte := []
deriving DecidableEq, Repr

/-- Layout handling (R241 to R251): the active image's sections, the staged file, the flash
store, and the GLB layout registers. -/
structure Layout where
  active : Bool := false
  startupDone : Bool := false
  signed : Bool := false
  compat : Bool := false
  busy : Bool := false
  routeBank : Nat := 0
  sched : Bool := false
  lastErr : Nat := 0
  activations : Nat := 0
  fp : List Byte := []
  program : List Byte := []
  routeRev : Nat := 0
  shaperRev : Nat := 0
  epitabRev : Nat := 0
  header : List Byte := []
  linkdiv : List Byte := []
  coordSec : List Byte := []
  padgrp : List Byte := []
  pads : List (List Byte) := []
  epitab : Table (List Byte) := []
  logic : List Byte := []
  nspan : Nat := 0
  chipIdx : Nat := 0
  spanChips : List Nat := []
  syncObjs : List Nat := []
  slotOf : Table Nat := []
  staged : Option (List Byte) := none
  stagedCoord : Nat := 0
  stagedKind : Nat := 0
  stagedSigned : Bool := false
  storeA : LaySlot := {}
  storeB : LaySlot := {}
deriving DecidableEq, Repr

/-- One firmware slot of the flash (R445). -/
structure FwSlot where
  gen : Nat := 0
  committed : Bool := false
  fails : Nat := 0
  image : List Byte := []
deriving DecidableEq, Repr

/-- Where a molt stands (R455 to R458). -/
inductive MoltPhase where
  | none | waiting | paused
deriving DecidableEq, Repr

/-- A post that another chip of a block has told this commit chip of (R434): the chip, FJOB, COLL and the digest of its descriptor and
objects. -/
structure HeardPost where
  chip : Nat
  fjob : Nat
  coll : Nat
  digest : List Byte
deriving DecidableEq, Repr

/-- The control complex and its firmware (R443 to R459): GLB_FWVER, GLB_FWSTAT, GLB_FWERR, the two slots, the
molt in progress, the MGMT inbox and the measurements; `copy` is the image that a molt has copied to FD0 (R456), `blob` the state blob
in FD1 (R457), `posts` the posts heard of that have no match here yet. -/
structure Firmware where
  ver : Word := 0
  slot : Nat := 0
  recovery : Bool := false
  molt : MoltPhase := .none
  moltSlot : Nat := 0
  staged : Option Nat := none
  copy : List Byte := []
  blob : List Byte := []
  posts : List HeardPost := []
  emerg : Bool := false
  bootStep : Nat := 0
  schema : Nat := 0
  inboxLost : Nat := 0
  err : Nat := 0
  shape : Bool := false
  slotA : FwSlot := {}
  slotB : FwSlot := {}
  lost : Bool := false
  inbox : List Packet := []
  orphanDue : Nat := 0
  meas : Table (List Byte) := []
  boots : Nat := 0
deriving DecidableEq, Repr

/-- Fuses and the fuse action in progress (R450). -/
structure Fuses where
  custkey : Option (List Byte) := none
  sigreq : Bool := false
  svn : Nat := 0
  key : List Word := [0, 0, 0, 0]
  busy : Option Nat := none
  done : Bool := false
  doneAt : Option Nat := none
  status : Nat := 0
deriving DecidableEq, Repr

/-- Attestation registers (R454). -/
structure Attest where
  nonce : List Word := [0, 0, 0, 0]
  addr : Word := 0
  busy : Bool := false
  done : Bool := false
  doneAt : Option Nat := none
  status : Nat := 0
  report : List Byte := []
deriving DecidableEq, Repr

/-- The UART monitor (R470, R471). -/
structure Monitor where
  key : List Word := [0, 0, 0, 0]
  keyset : Bool := false
  unlocked : Bool := false
  fast : Bool := false
  tokfail : Nat := 0
  wrongRun : Nat := 0
  lockout : Bool := false
  challenge : Option Word := none
deriving DecidableEq, Repr

/-- A copy of the calibration store with the digest stored beside it (R465). -/
structure CalCopy where
  set : List Byte
  digest : List Byte
deriving DecidableEq, Repr

/-- The calibration store (R464 to R466): the copies in flash with their digests, which one is in use, the set in use, and the stack
trims that boot applied. -/
structure Calib where
  copy0 : Option CalCopy := none
  copy1 : Option CalCopy := none
  inUse : Nat := 0
  set : List Byte := []
  valid : Bool := false
  sensorOff : List Int := []
  stackTrims : List Byte := []
deriving DecidableEq, Repr

/-- Where a slot's command stands once taken (R426 to R430). -/
inductive SlotWork where
  | idle            -- not TAKEN
  | preop           -- TAKEN, waiting in its pre-operation (R427)
  | ready           -- TAKEN, header and state checks passed; the command itself comes next
  | transfer        -- TAKEN, a host-memory access is in progress (R430)
  | flash           -- TAKEN, a flash write is in progress
  | waiting         -- TAKEN, the command waits for its reply condition
deriving DecidableEq, Repr

/-- A mailbox slot: its 256 bytes (R425), the work in progress, what the command has set aside, and its place
in the order the slots were taken (R428). -/
structure Slot where
  bytes : List Byte := List.replicate 256 0
  work : SlotWork := .idle
  scratch : List Nat := []
  buffer : List Byte := []
  order : Nat := 0
  unruled : Bool := false
deriving DecidableEq, Repr

/-- An event waiting to be written (Table 13-7). -/
structure EventItem where
  typ : Nat
  croak : Nat
  data : List Byte
deriving DecidableEq, Repr

/-- Host interface states (Table 13-2). -/
inductive HifState where
  | booting | unowned | owned | orphan
deriving DecidableEq, Repr

/-- The host interface (Table 13-10), the CXL link (R414) and the MSI-X table (R440). -/
structure Hif where
  state : HifState := .booting
  epoch : Nat := 0
  lastBeat : Nat := 0
  orphanAt : Nat := 0
  hdm : Nat := 12
  hdmNext : Nat := 12
  evLog2 : Nat := 0
  evBase : Nat := 0
  evWr : Nat := 0
  evRd : Nat := 0
  evLost : Nat := 0
  held : List EventItem := []
  evGiven : Bool := true
  err : Nat := 0
  mbDone : Nat := 0
  mbDiscarded : Nat := 0
  msix : Table (List Word) := []
  pba : Table Bool := []
  cxlUp : Bool := false
  cxlX8 : Bool := false
  cxl32 : Bool := false
  cxlIoOnly : Bool := false
  cxlRegs : Table Word := []
  slots : Table Slot := []
deriving DecidableEq, Repr

/-- Job states seen by the host (Table 13-6). -/
inductive JobState where
  | free | opened | armed | running | paused | ended
deriving DecidableEq, Repr

/-- A snapshot of one sync object at launch (R182, Table 5-5). -/
structure ObjSnap where
  obj : Nat
  cfg : Word
  diff : Nat
  isSet : Bool
  out : Bool
deriving DecidableEq, Repr

/-- One job slot (R431 to R433) with the accumulators of its run record (Table 6-9). -/
structure Job where
  state : JobState := .free
  handle : Word := 0
  seed : Word := 0
  fjob : Word := 0
  cring : Nat := 0
  clog2 : Nat := 0
  vec : Nat := 0xFF
  ringGiven : Bool := true
  wr : Nat := 0
  rd : Nat := 0
  held : List (List Byte × Bool) := []
  sched : Bool := false
  launchL : Nat := 0
  firstL : Nat := 0
  lastL : Nat := 0
  launched : Bool := false
  finishing : Bool := false
  stopped : Bool := false
  ckptPending : Option Nat := none
  ckptAddr : Nat := 0
  ckptLimit : Nat := 0
  orphaned : Bool := false
  resumed : Bool := false
  resumes : Nat := 0
  epochs : List Nat := [0, 0, 0]
  ncomp : Nat := 0
  nfail : Nat := 0
  sat : Nat := 0
  nan : Nat := 0
  esc : Nat := 0
  aflags : Nat := 0
  endc : Nat := 0
  endTerm : Nat := 0
  snaps : List ObjSnap := []
  touched : List Nat := []
  digests : Table (List Byte) := []
  record : List Byte := []
deriving DecidableEq, Repr

/-- Outcome states of a collective on this chip (Table 4-8). -/
inductive CollState where
  | pending | committed | aborting | completed | aborted | lost
deriving DecidableEq, Repr

/-- A result tile part way through a die's digest tap (R218): its index, the port it is delivered to, the bytes still to
come, and the payload and sidecar so far. -/
structure TapTile where
  tile : Nat
  port : Nat
  left : Nat
  payload : List Byte
  sidecar : List Byte
deriving DecidableEq, Repr

/-- One collective on this chip (R137 to R148). `ctxs` are its open tile contexts (R136), `resSent` the result tiles sent whole, with
their ports, `acked` the result bytes that the link has acknowledged, by port (R142). Of a BARRIER: the member ports that have
arrived, whether the fabric barrier line has released this chip, and whether the releases have been sent. -/
structure Coll where
  job : Nat := 0
  posted : Bool := true
  desc : List Byte := []
  state : CollState := .pending
  cause : Nat := 0
  place : FaultPlace := {}
  group : List Byte := []
  members : List (Nat × Nat) := []
  chips : List Nat := []
  commitChip : Nat := 0
  commitNewt : Option Nat := none
  parts : List Nat := []
  started : Bool := false
  reported : Bool := false
  asb : List Byte := []
  delivered : List Nat := []
  abortSlots : List Nat := []
  digest : Bool := false
  tap : List TapTile := []
  tiles : Table (List Byte) := []
  weights : List Byte := []
  epipar : List Byte := []
  ctxs : List Nat := []
  resSent : List (Nat × Nat) := []
  acked : Table Nat := []
  arrived : List Nat := []
  lineDone : Bool := false
  freed : Bool := false
  postDig : List Byte := []
deriving DecidableEq, Repr

/-- States of a newt (Table 3-15). -/
inductive NewtState where
  | idle | run | stall | paused | done | error
deriving DecidableEq, Repr

/-- Roles of a newt (Table 3-15). -/
inductive Role where
  | unbound | scheduled | free
deriving DecidableEq, Repr

/-- A wide register (R53): the 640-bit integer and the five tags. -/
structure WReg where
  w : BitVec 640 := 0
  nan : Bool := false
  pinf : Bool := false
  ninf : Bool := false
  notNegZ : Bool := false
  added : Bool := false
deriving DecidableEq, Repr, Inhabited

/-- One level of the loop state (R98, Table 6-7): remaining iterations, body start and length, iteration
number, OBSTEP. -/
structure LoopLvl where
  remaining : Nat
  start : Nat
  len : Nat
  iter : Nat
  obstep : Nat
deriving DecidableEq, Repr, Inhabited

/-- The unit groups of R90 condition 2. -/
inductive UnitGroup where
  | none | register | epilogue | sendPort | moveUnit
deriving DecidableEq, Repr, Inhabited

/-- An issued and uncompleted instruction (R90, R113): its ranges, and what its completion does, from croak count `due` on. -/
structure Inflight where
  pc : Nat
  groups : List UnitGroup
  reads : List (Nat × Nat)
  writes : List (Nat × Nat)
  occupancy : Nat := 0
  issuedAt : Nat := 0
  land : List (Nat × List Byte) := []
  asb : Option (Nat × List Byte) := none
  packets : List Packet := []
  newEscapes : List (EscapeRec × Nat) := []
  due : Nat := 0
  dropEscapes : List (Nat × Nat × Nat × Nat) := []
  clearArrivals : List (Nat × Nat) := []
  sigObj : Option (Nat × Nat) := none
  ob : Nat := 0
  coll : Nat := 0
deriving DecidableEq, Repr, Inhabited

/-- An escape record held for a newt (R102): in its window, or in a pool buffer at an address. `hdrs` are the pond
addresses of the headers of the escaped block that this newt wrote, or copied. -/
structure HeldEscape where
  er : EscapeRec
  spill : Option Nat
  hdrs : List Nat := []
deriving DecidableEq, Repr

/-- A scheduled cell: the header of its packet, the packet's length and the cell's place in it, and its bytes. -/
structure SCell where
  hdr : Packet
  len : Nat
  pos : Nat
  data : List Byte
deriving DecidableEq, Repr, Inhabited

/-- A scheduled cell in the island pipeline (R27, R233): its route record, cell index in its stream, the hop it is at, the island that this
is, and the pad boundaries until it enters its first hop. -/
structure Flight where
  rno : Nat
  idx : Nat
  hop : Nat := 0
  island : Nat := 0
  wait : Nat := 0
  cell : SCell
deriving DecidableEq, Repr, Inhabited

/-- Where the byte stream of a partial began to land in a pond (R102, R131): collective, tile, rank, and the pond address. -/
structure PartAt where
  coll : Nat
  tile : Nat
  rank : Nat
  addr : Nat
deriving DecidableEq, Repr

/-- A contribution cell that has landed in a slot (R133): its stream (collective, kind, tile, rank), pond address and length. -/
structure Arrival where
  coll : Nat
  kind : Nat
  tile : Nat
  rank : Nat
  addr : Nat
  len : Nat
deriving DecidableEq, Repr

/-- The errors of one newt in the cycle at croak count `tick`: their number, and the code and PC of the one with the lowest PC (R93). -/
structure ErrCycle where
  tick : Nat
  n : Nat
  code : Nat
  pc : Nat
deriving DecidableEq, Repr

/-- One newt (03_newts.md). `errAt` is the croak count of the first error (R93), `issuedAt` that of the last issue (R90), `wrAdds` the
addends that each held sum has taken, by its first register (R54). `rx` are the scheduled cells, with their route records, that wait
at the receive port for the last cell of their packet (R261, log 137). -/
structure Newt where
  state : NewtState := .idle
  role : Role := .unbound
  stall : Nat := 0
  slot : Nat := 0x7FF
  pc : Nat := 0
  held : Bool := false
  aborted : Bool := false
  coll : Nat := 0
  errCode : Nat := 0
  errPc : Nat := 0
  errAt : Nat := 0
  errCyc : Option ErrCycle := none
  err : Bool := false
  more : Nat := 0
  issued : Nat := 0
  issuedAt : Option Nat := none
  stalled : Nat := 0
  progSize : Nat := 0
  pond : Mem := []
  lc : Table Nat := []
  wr : Table WReg := []
  wrAdds : Table Nat := []
  loops : List LoopLvl := []
  inflight : List Inflight := []
  sent : List (Nat × Nat × SCell) := []
  waitPassed : Bool := false
  registered : Bool := false
  pausePend : Bool := false
  abortPend : Bool := false
  rx : List (Nat × LandCell) := []
  escapes : List HeldEscape := []
  partAt : List PartAt := []
  streams : Table (List Byte) := []
  colls : List Nat := []
  arrivals : List Arrival := []
  asbOf : Table Nat := []
  epochs : Nat := 0
  reserved : Bool := false
deriving DecidableEq, Repr

/-- A waiter registered with a sync object (R163, R164): agent id, D (0 for a barrier). -/
structure Waiter where
  agent : Nat
  d : Nat
deriving DecidableEq, Repr

/-- A signal in an object's hold queue (R178): D, the object's ANN after the signal, and the agent that sent it, with the PC of a
newt's SIG. -/
structure HeldSig where
  d : Nat
  ann : Nat
  agent : Nat := 0
  pc : Nat := 0
deriving DecidableEq, Repr, Inhabited

/-- One sync object (R155, Tables 5-7 to 5-14). Kinds: 0 free, 1 COUNTER, 2 BARRIER, 3 EVENT. -/
structure SyncObj where
  kind : Nat := 0
  proxy : Bool := false
  counted : Bool := false
  bl : Nat := 0
  fabric : Bool := false
  fbl : Nat := 0
  depth : Nat := 0
  prod : Nat := 0
  cons : Nat := 0
  peer : Nat := 0
  cnt : Nat := 0
  ann : Nat := 0
  waiters : List Waiter := []
  holdq : List HeldSig := []
  timeout : Bool := false
  overpost : Bool := false
  badop : Bool := false
  badsrc : Bool := false
  leftBit : Bool := false
  quar : Bool := false
  merged : Bool := false
  mergedAt : Option Nat := none
deriving DecidableEq, Repr

/-- One on-chip barrier line (R168 to R170): enabled leaves, leaves that differ from OUT, OUT, bound object.
Leaf numbers: newt n is n, DMA channel c is 2048 + c, the control complex is 2112. -/
structure BLine where
  mask : List Nat := []
  arrived : List Nat := []
  out : Bool := false
  bound : Option Nat := none
deriving DecidableEq, Repr

/-- One fabric barrier line on this chip (R173 to R175): round, stage, and the last byte received from each
of the six directions. -/
structure FLine where
  round : Nat := 0
  stage : Nat := 0
  recv : List Nat := [0, 0, 0, 0, 0, 0]
deriving DecidableEq, Repr

/-- A signal slot of a control flit (Table 5-4). -/
structure SigSlot where
  tgt : Nat
  obj : Nat
  d : Nat
  ncell : Nat
  src : Nat
deriving DecidableEq, Repr

/-- The sync-object unit: objects, on-chip lines, fabric lines, and signal slots waiting to leave, each with
the direction it leaves in. -/
structure Sync where
  objs : Table SyncObj := []
  lines : Table BLine := []
  fbl : Table FLine := []
  sigOut : List (Nat × SigSlot) := []
deriving DecidableEq, Repr

/-- Schedule states of a chip (Table 6-3). -/
inductive SchState where
  | idle | armed | run | frozen | paused | done | stopped
deriving DecidableEq, Repr

/-- Alignment states (Table 6-12). -/
inductive AlignState where
  | unaligned | measuring | aligned | outOfBound
deriving DecidableEq, Repr

/-- The schedule and croak unit (06_schedule_and_determinism.md). -/
structure Sch where
  croak : Nat := 0
  align : AlignState := .unaligned
  master : Bool := false
  masterXyz : Nat := 0
  hops : Nat := 0
  bound : Nat := 0
  term : Nat := 0
  state : SchState := .idle
  level : Nat := 0
  lastLevel : Nat := 0
  pausePend : Bool := false
  quantum : Nat := 0
  epoch : Nat := 0
  launchL : Nat := 0
  slipPads : Nat := 0
  slipEvents : Nat := 0
  jp : Nat := 0
  epochStart : Nat := 0
  called : Bool := false
  extended : Bool := false
  thinned : Bool := false
  calledAt : Option Nat := none
  extendedAt : Option Nat := none
  thinnedAt : Option Nat := none
  drift : Bool := false
  masterLostBit : Bool := false
  lineFault : Bool := false
  pipeFault : Bool := false
  job : Option Nat := none
  callPend : Option Nat := none
  frozenPads : Nat := 0
  extQuantum : Nat := 0
  waits : Table Nat := []
  fbl62 : Nat := 0
  sampled : Option Nat := none
  stopSent : Bool := false
  hbSeq : Nat := 0
  flights : List Flight := []
  routeCnt : Table Nat := []
  hist : List (Nat × Nat) := []
  lastJ : Option Nat := none
  electing : Bool := false
  electTerm : Nat := 0
  bids : List Bid := []
deriving DecidableEq, Repr

/-- A packet held by the switch core, with the account each of its cells was taken from. -/
structure Held where
  pkt : Packet
  outPort : Nat
  vc : Nat
  cells : Nat
  acct : Nat          -- 0 reply reservation, 1 GMIN, 2 shared pool, 3 overflow, 4 copy area
  started : Bool := false
  shortBy : List Nat := []
  copyOf : Option (Nat × Nat) := none   -- session and priority of a copy
  own : Bool := false     -- of a copy: made on this chip, with its original's number
  quad : Nat := 0         -- the quad it leaves on, once started
  loc : Nat := 0          -- Lovor address of an overflow packet
  stalled : Bool := false
deriving DecidableEq, Repr

/-- A packet whose header has been looked up, waiting for admission (R263): where it came from (a quad, or 128 for a
unit of this chip), its stream there, the port it leaves on (134 for a unit of this chip), and its header with the
virtual channel it leaves in. -/
structure Waiting where
  src : Nat
  inStream : Nat
  out : Nat
  pkt : Packet
  stalled : Bool := false
deriving DecidableEq, Repr

/-- A reply reservation (R265): endpoint port, cells left, transaction. -/
structure RspRes where
  port : Nat
  cells : Nat
  txn : Nat
deriving DecidableEq, Repr

/-- A mirror session (Table 8-9); `pos` counts its matches from its enabling (R274). -/
structure Mirror where
  en : Bool := false
  inp : Bool := false
  outp : Bool := false
  flow : Bool := false
  port : Nat := 0xFF
  prio : Nat := 0
  trunc : Nat := 0
  sched : Bool := false
  dest : Nat := 0
  src : Word := 0
  dst : Word := 0
  key : Nat := 0
  keym : Nat := 0
  n : Nat := 1
  pos : Nat := 0
  cnt : Nat := 0
  dropped : Nat := 0
  evicted : Nat := 0
deriving DecidableEq, Repr

/-- Port and class counters (Table 8-8). -/
structure PortCtr where
  rxPkt : Nat := 0
  rxByte : Nat := 0
  txPkt : Nat := 0
  txByte : Nat := 0
  stompRx : Nat := 0
  stompTx : Nat := 0
  highOn : Nat := 0
  highOvf : Nat := 0
  stallCyc : Nat := 0
deriving DecidableEq, Repr

/-- The switch core (08_switch_core.md). `ingress` holds packets waiting at a quad for admission, `nextId` the number of the next
packet whose first cell arrives (log 130). -/
structure Swc where
  bufpart : List Byte := []
  valid : Bool := false
  queues : List Held := []
  unitOut : List Packet := []
  ingress : List Waiting := []
  res : List RspRes := []
  sharedHigh : List Nat := [0, 0]
  ovfHigh : List Nat := [0, 0]
  copyHigh : List Nat := [0, 0]
  ovfFullSeen : List Bool := [false, false]
  stat : Nat := 0
  ceAt : Option Nat := none
  stallTmo : Nat := 0x00C
  disc : List Nat := [0, 0, 0, 0, 0, 0, 0, 0]
  ctr : Table PortCtr := []
  mirrors : Table Mirror := []
  nextId : Nat := 1
deriving DecidableEq, Repr

/-- States of a quad (Table 9-4). -/
inductive QState where
  | down | train | ident | measure | up | mgmtOnly | quarantine
deriving DecidableEq, Repr

/-- A flow's entry at its egress chip (R306). The key is (source, destination, class, channel, units). -/
structure Flow where
  key : Nat × Nat × Nat × Nat × Nat × Nat
  next : Nat
  ctx : Option Nat
  slots : List (Nat × Packet) := []
deriving DecidableEq, Repr

/-- A flow at its source unit on this chip (R305). -/
structure SrcFlow where
  key : Nat × Nat × Nat × Nat × Nat × Nat
  win : Nat := 1
  opened : Bool := false
  nextSeq : Nat := 0
  unacked : List Packet := []
  waitq : List Packet := []
deriving DecidableEq, Repr

/-- The drain in effect (Table 9-13) and the coordinator's rounds (R314, R315). -/
structure DrainSt where
  classes : Nat := 0
  scope : Nat := 0
  drained : Bool := false
  releasePend : Bool := false
  fw : Bool := false
  id : Nat := 0
  round : List DrainRep := []
  prevRound : List DrainRep := []
  good : Bool := false
  releases : List Nat := []
deriving DecidableEq, Repr

/-- Routing and fabric (09_fabric_and_routing.md). `mgmtHeld` are messages that a drain of MGMT holds (R312), `busyWait` packets that
wait after a NAK with reason BUSY, with the croak count at which they may be sent again (R305), and `bridgeLost` says that the
die-to-die bridge is gone (R317). -/
structure Rte where
  coord : Nat := 0
  extX : Nat := 1
  extY : Nat := 1
  extZ : Nat := 1
  compat : Bool := false
  valid : Bool := false
  ep : Table EpStat := []
  bank0 : Table Nat := []
  bank1 : Table Nat := []
  flows : List Flow := []
  ctxHigh : Nat := 0
  dup : Nat := 0
  busy : Nat := 0
  srcFlows : List SrcFlow := []
  drain : DrainSt := {}
  err : Nat := 0
  sentCells : List Nat := [0, 0, 0, 0, 0, 0]
  recvCells : List Nat := [0, 0, 0, 0, 0, 0]
  lost : List Nat := []
  declDown : List Nat := []
  mgmtHeld : List (String × Nat × List Nat) := []
  busyWait : List (Nat × Packet) := []
  bridgeLost : Bool := false
deriving DecidableEq, Repr

/-- A shaping node (Table 10-5). -/
structure ShpNode where
  en : Bool := false
  rate : Nat := 0
  burst : Nat := 0
  ovh : Int := 0
  lo : Nat := 0
  hi : Nat := 0
  tokens : Nat := 0
  passed : Nat := 0
  held : Nat := 0
  heldPrev : Nat := 0
  src : Nat := 0
  port : Nat := 0
  cls : Nat := 0
deriving DecidableEq, Repr

/-- A policer (Table 10-6): written and in-force bucket settings. -/
structure Policer where
  en : Bool := false
  mode : Bool := false
  caware : Bool := false
  ovh : Int := 0
  port : Nat := 0
  chmask : Nat := 0
  cir : Nat := 0
  cbs : Nat := 0
  erate : Nat := 0
  ebs : Nat := 0
  wCir : Nat := 0
  wCbs : Nat := 0
  wErate : Nat := 0
  wEbs : Nat := 0
  tokC : Nat := 0
  tokE : Nat := 0
  green : Nat := 0
  yellow : Nat := 0
  red : Nat := 0
deriving DecidableEq, Repr

/-- Shaping and policing. Node numbers: port node p is p, service node 0x1000 + 3p + c - 1, subscriber
node 0x4000 + n (Table 15-1). -/
structure Shp where
  nodes : Table ShpNode := []
  pols : Table Policer := []
  redcnt : Nat := 0
  stat : Nat := 0
deriving DecidableEq, Repr

/-- One lane of a quad (Table 11-17). `slipped` is by how many bits its word boundary stands later than that of the frames that it brings, and
`prev` the frame before where it does (R374). -/
structure Lane where
  signal : Bool := false
  cdr : Bool := false
  awseen : Bool := false
  awLast : Bool := false
  aligned : Bool := false
  inverted : Bool := false
  farLane : Nat := 0
  offset : Nat := 0
  markerBad : Nat := 0
  badRun : Nat := 0
  goodRun : Nat := 0
  cm3 : Int := 0
  cm2 : Int := 0
  cm1 : Int := 0
  cp1 : Int := 0
  req : Nat := 0
  farStat : Nat := 0
  farReq : Nat := 0
  stat : Nat := 0
  slipped : Nat := 0
  prev : List Byte := []
deriving DecidableEq, Repr

/-- Credits of one stream (R364, LNK_CREDs): far limit, cells sent, this end's allowance, cells received since the
link entered service, and freed cells whose credit a drain withholds (R312). -/
structure Cred where
  limit : Nat := 0
  sent : Nat := 0
  adv : Nat := 0
  recvd : Nat := 0
  owed : Nat := 0
deriving DecidableEq, Repr

/-- A flit in the replay buffer (R368): its first slot number, its latest slot number, bytes, reports. -/
structure Replay where
  orig : Nat
  latest : Nat
  bytes : List Byte
  ordered : Bool
  bads : Nat := 0
  pending : Bool := false
deriving DecidableEq, Repr

/-- A bad slot at a reserved position (R367, R369): its slot number, the job pad its cell was due in, the index its cell
takes in its stream, and its packet's header and length, where the receiver knows them, with the cell's place. -/
structure LateCell where
  orig : Nat
  jp : Nat
  idx : Nat
  pos : Nat
  hdr : Option (Packet × Nat)
deriving DecidableEq, Repr

/-- A packet open on a received stream (R359): its header, its length (0 when its remaining cells are discarded), and the cells
received so far. -/
structure OpenPkt where
  stream : Nat
  pkt : Packet
  len : Nat
  got : Nat := 0
deriving DecidableEq, Repr

/-- One quad (Tables 9-11, 11-17, 6-17) with its link-retry state. Slot numbers count from the link's entry into
service, 32 to a frame. `unacked` are the result cells sent on an endpoint port and not yet acknowledged: slot number, collective,
bytes (R142). -/
structure Quad where
  state : QState := .down
  use : Nat := 0
  port : Nat := 0
  qidx : Nat := 0
  ncoord : Nat := 0
  cause : Nat := 0
  maint : Bool := false
  step : Nat := 0
  deskewed : Bool := false
  farReady : Bool := false
  nearReady : Bool := false
  readyRun : Nat := 0
  skew : Nat := 0
  trainMs : Nat := 0
  trainAt : Nat := 0
  trims : List Byte := []
  err : Nat := 0
  lanes : List Lane := [{}, {}, {}, {}]
  cwCorr : Nat := 0
  cwUncorr : Nat := 0
  crcBad : Nat := 0
  stompRx : Nat := 0
  replayed : Nat := 0
  late : Nat := 0
  fails : Nat := 0
  creds : List Cred := []
  oneway : Int := 0
  d : Nat := 0
  long : Bool := false
  measured : Bool := false
  offset : Int := 0
  exchanges : Nat := 0
  sums : Int × Int := (0, 0)
  echoTx : Nat := 0
  echoRx : Nat := 0
  schedTx : List (Nat × SCell) := []
  schedRes : List Nat := []
  padBase : Nat := 0
  txSlot : Nat := 0
  resTx : List (Nat × List Nat) := []
  rxNext : Nat := 0
  schedBad : List LateCell := []
  schedOpen : List (Nat × Packet × Nat × Nat) := []
  replay : List Replay := []
  evicted : List Nat := []
  badList : List (Nat × Nat) := []
  accepted : List Nat := []
  reportDue : Option (Nat × Nat) := none
  lastReport : Option Nat := none
  noHdr : Nat := 0
  ctrlSeen : Bool := false
  opens : List OpenPkt := []
  txQueue : List (Nat × List Byte) := []
  drr : List Nat := [0, 0, 0]
  drrAt : Nat := 0
  lastVc : Table Nat := []
  arrivedPkts : List Packet := []
  sentPkts : List (Nat × Packet) := []
  unacked : List (Nat × Nat × Nat) := []
  reserved : Bool := false
deriving DecidableEq, Repr

/-- One Lovor stack (Table 12-8). `hot` says that it has reached 85 °C and not yet returned (R391), `since` at which croak
count that last changed. -/
structure Stack where
  hot : Bool := false
  since : Option Nat := none
  faulted : Bool := false
  ce : Nat := 0
  ceTimes : List Nat := []
  ue : Nat := 0
deriving DecidableEq, Repr

/-- Lovor memory and the stack plan (12_memory_pools_dma.md). The plan is a STACKPLAN body; the empty body is
the built-in plan of R394. `holding` lists the refresh instants that hold a pseudo-channel (stack, pseudo-channel, pad). -/
structure Lovor where
  mem : Mem := []
  poison : List Nat := []
  stk : Table Stack := []
  plan : List Byte := []
  nextPlan : Option (List Byte) := none
  holding : List (Nat × Nat × Nat) := []
deriving DecidableEq, Repr

/-- A held buffer (R399): its address, owner, size in 256-byte units, and its pool half 7d + k. -/
structure Buf where
  addr : Nat
  owner : Nat
  units : Nat
  half : Nat
deriving DecidableEq, Repr

/-- Buffer pools. Halves are numbered 7d + k. A half's list is the buffers freed to it, `order`, head first, then
the buffers never taken, in ascending address from index `front`. `limit` holds LIMIT + 1 where it was written. -/
structure Pool where
  size : Table Nat := []
  list : Table Nat := []
  bufs : List Buf := []
  order : Table (List Nat) := []
  front : Table Nat := []
  rebuild : Table Bool := []
  limit : Table Nat := []
  stat : Nat := 0
deriving DecidableEq, Repr

/-- States of a DMA channel (Table 12-9). -/
inductive DmaState where
  | idle | run | wait | error | busstop
deriving DecidableEq, Repr

/-- One DMA channel. `cur` is the descriptor in progress, `readback` whether its accesses have been made, `due` the croak count from
which those of its window are answered (R395). -/
structure DmaCh where
  log2 : Nat := 3
  base : Nat := 0
  state : DmaState := .idle
  arrived : Bool := false
  next : Nat := 0
  count : Nat := 0
  code : Nat := 0
  irqen : Bool := false
  bytes : Nat := 0
  alloc : Nat := 0
  cur : Option (List Byte) := none
  readback : Bool := false
  due : Nat := 0
deriving DecidableEq, Repr

/-- The DMA engine. -/
structure Dma where
  chans : Table DmaCh := []
  buserr : Bool := false
  busaddr : Word := 0
deriving DecidableEq, Repr

/-- Power and thermal monitoring (R504 to R508). Temperatures are in 1/16 °C. `conds` holds the level
(1, 2 want; 3 emergency) each sensor's condition stands at; `powerHeld` says which power conditions stand: want 1, want 2 by the
10 ms and by the 1 ms average, emergency. `density` holds (level, epoch) of
epochs whose level differs from the one before and whose DENSITY event is not yet written (R460). -/
structure Therm where
  temps : Table Int := []
  ignored : List Nat := []
  conds : Table Nat := []
  powerHeld : List Bool := [false, false, false, false]
  railMw : List Nat := [0, 0, 0, 0, 0, 0, 0, 0, 0, 0]
  want : Nat := 0
  epochMax : Nat := 0
  tripped : List Nat := []
  density : List (Nat × Nat) := []
deriving DecidableEq, Repr

/-- What the chip puts outside itself, newest last: interrupt messages, MGMT and other packets its own units send,
signal slots, monitor reply lines, and HDM read data. A frame is the bytes of each lane, whose symbols `pamLevels` gives. -/
inductive Out where
  | vector (v : Nat)
  | packet (q : Nat) (p : Packet)
  | mgmt (msg : String) (dst : Nat) (vals : List Nat)
  | frame (q : Nat) (lanes : List (List Byte))
  | uart (line : String)
  | hdm (data : List Byte) (poison : Bool)
  | jtag (dr : Nat)
  | pins (i : JtagInstr) (cells : List Bool)
deriving DecidableEq, Repr

/-- The whole chip, with the queue of waiting commands (first in, first out). `free` counts the free values
taken so far: the model's own field (log 2). -/
structure State where
  pins : Pins := {}
  ras : Ras := {}
  log : LogSt := {}
  unit : UnitMap := {}
  lay : Layout := {}
  fw : Firmware := {}
  fuse : Fuses := {}
  att : Attest := {}
  mon : Monitor := {}
  cal : Calib := {}
  hif : Hif := {}
  nonce : Nat := 0
  nextJob : Nat := 1
  jobs : Table Job := []
  colls : Table Coll := []
  newts : Table Newt := []
  sync : Sync := {}
  sch : Sch := {}
  swc : Swc := {}
  rte : Rte := {}
  shp : Shp := {}
  quads : Table Quad := []
  lov : Lovor := {}
  pool : Pool := {}
  dma : Dma := {}
  therm : Therm := {}
  hostMem : Mem := []
  out : List Out := []
  free : Nat := 0
  pending : List Instr := []
deriving DecidableEq, Repr

/-- The chip right after reset, before power-good: every field at the value the spec gives for reset, or the
value an assumption log entry names. -/
def State.reset : State := {}

end Sys2Proof.Machine
end

