-- ==== Sys2Proof/Machine/Ops.lean ====
section
/-! DEFINITION. Operations that every family shares: access to the parts of the state, free values, interrupt
vectors (R440), events (R436), log entries (R467, R469, R480), and the raise of an error (R475 to R483). The
block has no exception entry: raising an error is an effect on State. -/

namespace Sys2Proof.Machine

/-- GLB_IDENT (Table 0-1): vendor, device, revision and ISA version. -/
def identWord : Nat := 0x02A148301D4F

/-- Ticks of 1 ms (R6). -/
def msTicks : Nat := 1600000

/-- The chip runs: its islands are powered and out of reset. A reference fault holds them in boot step 1 (R498). -/
def up (s : State) : Bool := (s.pins.phase == .booting && !s.pins.refBad) || s.pins.phase == .running

/-- Boot has ended and the chip runs. -/
def running (s : State) : Bool := s.pins.phase == .running

/-- The firmware runs: not lost (R443) and not in a molt pause (R457). -/
def fwRuns (s : State) : Bool := up s && !s.fw.lost && !(s.fw.molt == .paused)

/-- The croak count (R187). -/
def croak (s : State) : Nat := s.sch.croak

/-! Parts of the state by unit number. -/

/-- Newt `n`. -/
def newt (s : State) (n : Nat) : Newt := tget {} s.newts n
/-- Replace newt `n`. -/
def setNewt (n : Nat) (v : Newt) (s : State) : State := { s with newts := tset {} s.newts n v }
/-- Change newt `n`. -/
def modNewt (n : Nat) (f : Newt → Newt) (s : State) : State := setNewt n (f (newt s n)) s
/-- Job slot `j`. -/
def job (s : State) (j : Nat) : Job := tget {} s.jobs j
/-- Replace job slot `j`. -/
def setJob (j : Nat) (v : Job) (s : State) : State := { s with jobs := tset {} s.jobs j v }
/-- Change job slot `j`. -/
def modJob (j : Nat) (f : Job → Job) (s : State) : State := setJob j (f (job s j)) s
/-- Collective `c`. -/
def coll (s : State) (c : Nat) : Coll := tget {} s.colls c
/-- Replace collective `c`. -/
def setColl (c : Nat) (v : Coll) (s : State) : State := { s with colls := tset {} s.colls c v }
/-- Change collective `c`. -/
def modColl (c : Nat) (f : Coll → Coll) (s : State) : State := setColl c (f (coll s c)) s
/-- Sync object `o`. -/
def obj (s : State) (o : Nat) : SyncObj := tget {} s.sync.objs o
/-- Replace sync object `o`. -/
def setObj (o : Nat) (v : SyncObj) (s : State) : State :=
  { s with sync := { s.sync with objs := tset {} s.sync.objs o v } }
/-- Change sync object `o`. -/
def modObj (o : Nat) (f : SyncObj → SyncObj) (s : State) : State := setObj o (f (obj s o)) s
/-- On-chip barrier line `l`. -/
def bline (s : State) (l : Nat) : BLine := tget {} s.sync.lines l
/-- Replace barrier line `l`. -/
def setBline (l : Nat) (v : BLine) (s : State) : State :=
  { s with sync := { s.sync with lines := tset {} s.sync.lines l v } }
/-- Fabric barrier line `l`. -/
def fline (s : State) (l : Nat) : FLine := tget {} s.sync.fbl l
/-- Replace fabric barrier line `l`. -/
def setFline (l : Nat) (v : FLine) (s : State) : State :=
  { s with sync := { s.sync with fbl := tset {} s.sync.fbl l v } }
/-- Quad `q`. -/
def quad (s : State) (q : Nat) : Quad := tget {} s.quads q
/-- Replace quad `q`. -/
def setQuad (q : Nat) (v : Quad) (s : State) : State := { s with quads := tset {} s.quads q v }
/-- Change quad `q`. -/
def modQuad (q : Nat) (f : Quad → Quad) (s : State) : State := setQuad q (f (quad s q)) s
/-- Mailbox slot `i`. -/
def mslot (s : State) (i : Nat) : Slot := tget {} s.hif.slots i
/-- Replace mailbox slot `i`. -/
def setMslot (i : Nat) (v : Slot) (s : State) : State :=
  { s with hif := { s.hif with slots := tset {} s.hif.slots i v } }
/-- Change mailbox slot `i`. -/
def modMslot (i : Nat) (f : Slot → Slot) (s : State) : State := setMslot i (f (mslot s i)) s
/-- DMA channel `c`. -/
def chan (s : State) (c : Nat) : DmaCh := tget {} s.dma.chans c
/-- Replace DMA channel `c`. -/
def setChan (c : Nat) (v : DmaCh) (s : State) : State :=
  { s with dma := { s.dma with chans := tset {} s.dma.chans c v } }
/-- Change DMA channel `c`. -/
def modChan (c : Nat) (f : DmaCh → DmaCh) (s : State) : State := setChan c (f (chan s c)) s
/-- Stack `n`. -/
def stack (s : State) (n : Nat) : Stack := tget {} s.lov.stk n
/-- Replace stack `n`. -/
def setStack (n : Nat) (v : Stack) (s : State) : State := { s with lov := { s.lov with stk := tset {} s.lov.stk n v } }
/-- Change stack `n`. -/
def modStack (n : Nat) (f : Stack → Stack) (s : State) : State := setStack n (f (stack s n)) s
/-- Error record of `code`. -/
def rasRec (s : State) (code : Nat) : RasRec := tget {} s.ras.recs code
/-- Replace the error record of `code`. -/
def setRas (code : Nat) (r : RasRec) (s : State) : State :=
  { s with ras := { s.ras with recs := tset {} s.ras.recs code r } }
/-- Something put outside the chip. -/
def emit (o : Out) (s : State) : State := { s with out := s.out ++ [o] }

/-! Free values (log 2). -/

/-- The free word that the next draw gives. -/
def freeW (s : State) : Word := Config.freeWord s.free
/-- Advance the counter of free values. -/
def drawn (s : State) : State := { s with free := s.free + 1 }
/-- `n` free bytes of the next draw. -/
def freeBytes (n : Nat) (s : State) : List Byte := (List.range n).map (fun i => Config.freeByte s.free i)

/-! Lovor memory by address. -/

/-- `n` bytes of Lovor memory. -/
def lovRead (s : State) (a n : Nat) : List Byte := memRead s.lov.mem a n

/-- Store bytes in Lovor memory. Every 64-byte block written whole becomes clean (R386, R387). -/
def lovWrite (a : Nat) (bs : List Byte) (s : State) : State :=
  { s with lov := { s.lov with
      mem := memWrite s.lov.mem a bs
      poison := s.lov.poison.filter (fun b => decide (64 * b < a ∨ a + bs.length < 64 * b + 64)) } }

/-- Whether any 64-byte block of the range is poisoned (R387, R388). -/
def poisoned (s : State) (a n : Nat) : Bool :=
  s.lov.poison.any (fun b => decide (64 * b < a + n ∧ a < 64 * b + 64))

/-- Store bytes in host memory with CXL.io. -/
def hostWrite (a : Nat) (bs : List Byte) (s : State) : State :=
  { s with hostMem := memWrite s.hostMem a bs }

/-! Interrupts and events. -/

/-- An MSI-X table entry with nothing written: masked, as PCI Express has it after reset (log 7). -/
def msixReset : List Word := [0, 0x100000000]

/-- Raise vector `v`: none in ORPHAN (R437); a masked vector sets its pending bit (R440). -/
def vector (v : Nat) (s : State) : State :=
  if s.hif.state = .orphan || !up s then s
  else if ((tget msixReset s.hif.msix v).getD 1 0).getLsbD 32 then
    { s with hif := { s.hif with pba := tset false s.hif.pba v true } }
  else emit (.vector v) s

/-- Hold an event for the event ring (R436): at most 4,096, the oldest discarded beyond that. EVENT_WRITE and
the ring writes move held events to the ring. -/
def pushEvent (typ : Nat) (data : List Byte) (s : State) : State :=
  let h := s.hif.held ++ [{ typ := typ, croak := croak s, data := data }]
  if 4096 < h.length then
    { s with hif := { s.hif with held := h.drop 1, evLost := satAdd 0xFFFF s.hif.evLost 1 } }
  else { s with hif := { s.hif with held := h } }

/-! The log (R467 to R469). -/

/-- Lovor address of the log ring. -/
def logBase : Nat := 0x0183000000

/-- The 64 bytes of a log entry (Table 14-12). -/
def logEntry (seq : Nat) (e : LogItem) : List Byte :=
  leBytes 8 seq ++ leBytes 8 e.croak ++ leBytes 1 e.typ ++ leBytes 1 e.core ++ leBytes 2 e.id ++
    leBytes 1 e.data.length ++ zeros 3 ++ slice e.data 0 40

/-- Write one entry into the ring. -/
def logRing (e : LogItem) (s : State) : State :=
  let s1 := lovWrite (logBase + 64 * (s.log.head % 65536)) (logEntry s.log.head e) s
  { s1 with log := { s1.log with head := s1.log.head + 1 } }

/-- Move every staged entry to the ring. -/
def logUnstage (s : State) : State :=
  s.log.staging.foldl (fun t e => logRing e t) { s with log := { s.log with staging := [] } }

/-- Write an entry now: to the ring, or to the staging buffer while a snapshot runs. A full buffer drops a
trace entry; any other entry ends the copy early at a point the spec leaves open (log 2). -/
def logNow (e : LogItem) (s : State) : State :=
  if !s.log.snap then logRing e s
  else if s.log.staging.length < 4096 then { s with log := { s.log with staging := s.log.staging ++ [e] } }
  else if e.typ = 2 then { s with log := { s.log with trdrop := (s.log.trdrop + 1) % 2 ^ 32 } }
  else
    let s1 := { drawn s with log := { s.log with snap := false, snapEarly := some (freeW s).toNat } }
    logRing e (logUnstage s1)

/-- Write a log entry, or queue it before boot step 4 and during a molt pause (R483). A lost control complex
writes none. -/
def logAdd (typ id : Nat) (data : List Byte) (s : State) : State :=
  if s.fw.lost || s.pins.phase == .stopped then s
  else
    let e : LogItem := { typ := typ, core := 4, id := id, croak := croak s, data := data.take 40 }
    if s.log.ready && !(s.fw.molt == .paused) then logNow e s
    else { s with log := { s.log with queued := s.log.queued ++ [e] } }

/-- A log entry whose DATA the spec does not lay out: 40 free bytes (log 2). -/
def logOpen (typ id : Nat) (s : State) : State := logAdd typ id (freeBytes 40 s) (drawn s)

/-- Write every queued entry, in order of occurrence. -/
def logFlush (s : State) : State :=
  s.log.queued.foldl (fun t e => logNow e t) { s with log := { s.log with queued := [] } }

/-! Errors (R474 to R484). -/

/-- The codes of Table 15-3. -/
def definedCode (c : Nat) : Bool :=
  let n := c % 256
  match c / 256 with
  | 1 => decide (1 ≤ n ∧ n ≤ 0x17)
  | 2 => decide (1 ≤ n ∧ n ≤ 6 ∧ n ≠ 5)
  | 3 => decide (1 ≤ n ∧ n ≤ 5)
  | 4 => decide (1 ≤ n ∧ n ≤ 9)
  | 5 => decide (1 ≤ n ∧ n ≤ 7)
  | 6 => decide (1 ≤ n ∧ n ≤ 0xE)
  | 7 => decide (1 ≤ n ∧ n ≤ 3)
  | 8 => decide (1 ≤ n ∧ n ≤ 8)
  | 9 => decide (1 ≤ n ∧ n ≤ 0xD)
  | 10 => decide (1 ≤ n ∧ n ≤ 0xB)
  | 11 => decide (1 ≤ n ∧ n ≤ 0xA)
  | 12 => decide ((1 ≤ n ∧ n ≤ 0x17) ∨ (0x40 ≤ n ∧ n ≤ 0x4C))
  | 13 => decide (n = 1 ∨ n = 2 ∨ n = 4)
  | 14 => decide (1 ≤ n ∧ n ≤ 9)
  | _ => false

/-- The codes whose IRQEN bit is 1 at reset (R484). -/
def irqResetCodes : List Nat :=
  [0x0201, 0x0606, 0x0607, 0x0B02, 0x0C12, 0x0D01, 0x0D04, 0x0E03, 0x0E04, 0x0E05, 0x0E06, 0x0E08]

/-- The codes of the stops that only a reset ends (R483). -/
def stopCodes : List Nat := [0x0E05, 0x0E06, 0x0E08]

/-- RAS_EVENw bit of a code: 1 at reset for a defined code. -/
def evenOn (s : State) (c : Nat) : Bool := definedCode c && !tget false s.ras.evenOff c

/-- RAS_IRQENw bit of a code: the table lists the codes whose bit differs from its reset value. -/
def irqenOn (s : State) (c : Nat) : Bool :=
  definedCode c && xor (irqResetCodes.contains c) (tget false s.ras.irqenFlip c)

/-- The codes of Table 15-3, ascending. -/
def definedCodes : List Nat := (List.range 0x1000).filter definedCode

/-- An occurrence of an error: its code, source (Table 15-1) and detail (Table 15-2). -/
structure Occ where
  code : Nat
  kind : Nat := 0
  unit : Nat := 0
  unit2 : Nat := 0
  coll : Nat := 0
  d : List Nat := []
  inj : Bool := false
deriving DecidableEq, Repr

/-- RAS_RSRC of an occurrence. -/
def occSrc (o : Occ) : Nat := pack [(5, o.kind), (3, 0), (16, o.unit), (16, o.unit2), (24, o.coll)]

/-- RAS_RDATA0–3 of an occurrence. -/
def occData (o : Occ) : List Word := (List.range 4).map (fun i => BitVec.ofNat 64 (o.d.getD i 0))

/-- The 40 DATA bytes of an error's log entry (R480). -/
def occBytes (src : Word) (d : List Word) : List Byte := wordBytes src ++ d.flatMap wordBytes

/-- The DATA of an error's event (R481). -/
def errEvent (code : Nat) (src : Word) (d : List Word) : List Byte :=
  leBytes 2 code ++ wordBytes src ++ (wordBytes (d.getD 0 0)).take 6

/-- An occurrence has a lower (KIND, UNIT) than a source (R476). -/
def occBefore (o : Occ) (src : Word) : Bool :=
  decide (o.kind < bits src.toNat 4 0 ∨ (o.kind = bits src.toNat 4 0 ∧ o.unit < bits src.toNat 23 8))

/-- The cycle at croak count `now` after one more occurrence of the code in it. -/
def cycRaise (o : Occ) (now : Nat) (r : RasRec) : RasCycle :=
  let c : RasCycle := { tick := now, n := 1, inj := o.inj, src := BitVec.ofNat 64 (occSrc o), data := occData o }
  match if r.set then r.cyc else none with
  | none => c
  | some k =>
    if k.tick ≠ now then c
    else if occBefore o k.src then { c with n := satAdd 0xFFFFFFFF k.n 1 }
    else { k with n := satAdd 0xFFFFFFFF k.n 1 }

/-- The record set by the occurrences of one cycle alone. -/
def recOf (k : RasCycle) (r : RasRec) : RasRec :=
  { r with set := true, count := k.n, rtime := k.tick, rlast := k.tick, inj := k.inj, rsrc := k.src, rdata := k.data, cyc := some k }

/-- The record is set, and by occurrences of the cycle `k` alone. -/
def recOnly (k : RasCycle) (r : RasRec) : Bool := r.set && decide (r.rtime = k.tick ∧ r.count = k.n)

/-- The record after one more occurrence (R475): of those of the cycle that set it, it holds the one with the lowest (KIND, UNIT)
(R476). -/
def recRaise (o : Occ) (now : Nat) (r : RasRec) : RasRec :=
  let k := cycRaise o now r
  if !r.set || r.cyc.any (fun c => c.tick == now && recOnly c r) then recOf k r
  else { r with count := satAdd 0xFFFFFFFF r.count 1, rlast := now, cyc := some k }

/-- Log the occurrence unless the code was logged within 1,600,000 ticks (R480). -/
def rasLog (o : Occ) (s : State) : State :=
  let r := rasRec s o.code
  let due := match r.logAt with
    | none => true
    | some t => decide (t + msTicks ≤ croak s)
  if due then
    logAdd 0 o.code (occBytes (BitVec.ofNat 64 (occSrc o)) (occData o))
      (setRas o.code { r with logAt := some (croak s) } s)
  else s

/-- Write the event of a record that has gone from clear to set (R481). -/
def rasEvent (code : Nat) (s : State) : State :=
  if evenOn s code then
    let r := rasRec s code
    setRas code { r with evt := true } (pushEvent 3 (errEvent code r.rsrc r.rdata) s)
  else s

/-- The event of a record that one cycle sets holds what the record latches, while the event has not been written. -/
def eventAmend (code : Nat) (s : State) : State :=
  let r := rasRec s code
  if r.rtime ≠ croak s then s
  else { s with hif := { s.hif with held := s.hif.held.map (fun e =>
    if e.typ = 3 ∧ e.croak = r.rtime ∧ e.data.take 2 = leBytes 2 code then { e with data := errEvent code r.rsrc r.rdata } else e) } }

/-- Raise vector 449 for a record that has gone from clear to set (R482). -/
def rasIrq (code : Nat) (s : State) : State :=
  if irqenOn s code && !(s.hif.state == .orphan) then
    setRas code { rasRec s code with irq := true } (vector 449 s)
  else s

/-- Whether a log entry and an event follow an occurrence of `code` (R483). -/
def rasWrites (code : Nat) (s : State) : Bool :=
  !(s.fw.lost || s.pins.phase == .stopped || stopCodes.contains code)

/-- The event and vector 449 of a record that has gone from clear to set (R481, R482). -/
def rasFirst (code : Nat) (s : State) : State :=
  let s1 := if rasWrites code s then rasEvent code s else s
  if !stopCodes.contains code && up s then rasIrq code s1 else s1

/-- The RAS block's part of a raise: the record, the log, the event and vector 449 (R475 to R483). -/
def rasRecord (o : Occ) (s : State) : State :=
  if definedCode o.code then
    let s1 := setRas o.code (recRaise o (croak s) (rasRec s o.code)) s
    let s2 := if rasWrites o.code s1 then rasLog o s1 else s1
    if (rasRec s o.code).set then (if rasWrites o.code s1 then eventAmend o.code s2 else s2) else rasFirst o.code s2
  else s

/-- The sticky bit of the block that raises a code, where the block has one register for it (R478). Sticky
bits per unit (SYNC_STAT, LNK_STAT, NWT_ERR, DMA_STATE.CODE) are set where the unit raises. -/
def stickyBit (code : Nat) (s : State) : State :=
  let n := code % 256
  match code / 256 with
  | 1 => { s with hif := { s.hif with err := s.hif.err ||| 2 ^ (n - 1) } }
  | 2 => if n = 1 then { s with dma := { s.dma with buserr := true } } else s
  | 3 => if n < 3 then s else { s with pool := { s.pool with stat := s.pool.stat ||| 2 ^ (n - 3) } }
  | 5 => { s with swc := { s.swc with stat := s.swc.stat ||| 2 ^ (n - 1) } }
  | 6 => { s with rte := { s.rte with err := s.rte.err ||| 2 ^ (n - 1) } }
  | 7 => { s with shp := { s.shp with stat := s.shp.stat ||| 2 ^ (n - 1) } }
  | 11 =>
    if n = 2 then { s with sch := { s.sch with masterLostBit := true } }
    else if n = 5 then { s with sch := { s.sch with drift := true } }
    else if n = 6 then { s with sch := { s.sch with lineFault := true } }
    else if n = 9 then { s with sch := { s.sch with pipeFault := true } } else s
  | 12 => if n < 0x40 then { s with fw := { s.fw with err := s.fw.err ||| 2 ^ (n - 1) } }
          else { s with lay := { s.lay with lastErr := code } }
  | _ => s

/-- The sticky bit that an error sets, as 64 times its register's offset plus the bit (Table 15-3); NWT_ERR keeps its own. -/
def stickyKey (o : Occ) : Option Nat :=
  let n := o.code % 256
  match o.code / 256 with
  | 1 => some (64 * 0x100030 + (n - 1))
  | 2 => if n = 1 then some (64 * 0x201000) else none
  | 3 => if n < 3 then none else some (64 * 0x300308 + (n - 3))
  | 4 => if o.kind = 9 ∧ (n ≤ 4 ∨ n = 6) then some (64 * (0x400038 + 64 * o.unit) + (if n = 6 then 4 else n - 1)) else none
  | 5 => some (64 * 0x800040 + (n - 1))
  | 6 => some (64 * 0xC03018 + (n - 1))
  | 7 => some (64 * 0x1000000 + (n - 1))
  | 8 => if o.kind = 2 then some (64 * (0x1400018 + 4096 * o.unit) + (n - 1)) else none
  | 11 =>
    if n = 5 then some (64 * 0x1C00028 + 3) else if n = 2 then some (64 * 0x1C00028 + 4)
    else if n = 6 then some (64 * 0x1C00028 + 5) else if n = 9 then some (64 * 0x1C00028 + 6) else none
  | 12 => if n < 0x40 then some (64 * 0x310 + (n - 1)) else none
  | _ => none

/-- A sticky bit is set in this cycle. -/
def freshMark (k : Option Nat) (s : State) : State :=
  match k with
  | none => s
  | some k => { s with ras := { s.ras with
      fresh := k :: (if s.ras.freshAt = croak s then s.ras.fresh else []), freshAt := croak s } }

/-- What a write of `w` to the write-1-to-clear register at `off` clears: a bit set in the same cycle stays set (R11). -/
def freshKeep (s : State) (off w : Nat) : Nat :=
  if s.ras.freshAt ≠ croak s then w
  else ofBits ((bitList 64 w).filter (fun b => !s.ras.fresh.contains (64 * off + b)))

/-- A unit raises an error: its block's sticky bit and the RAS record together (R478). -/
def raise (o : Occ) (s : State) : State :=
  if up s then rasRecord o (freshMark (stickyKey o) (stickyBit o.code s)) else s

/-- Clear the record of `code` (R477). The occurrences of this cycle set it afresh, and are routed as first ones (R476). -/
def rasClear (code : Nat) (s : State) : State :=
  let r := rasRec s code
  let clear : State := setRas code { ({} : RasRec) with logAt := r.logAt } s
  match r.cyc with
  | none => clear
  | some k =>
    if !r.set || decide (k.tick ≠ croak s) then clear
    else if recOnly k r then s
    else rasFirst code (setRas code (recOf k { ({} : RasRec) with logAt := r.logAt }) s)

/-! Jobs. -/

/-- Number of a job state (Table 13-6). -/
def jobStateNum (t : JobState) : Nat :=
  match t with
  | .free => 0 | .opened => 1 | .armed => 2 | .running => 3 | .paused => 4 | .ended => 5

/-- Change a job's state and write its JOB_STATE event (R431). -/
def jobState (j : Nat) (t : JobState) (s : State) : State :=
  if (job s j).state = t then s
  else
    let s1 := modJob j (fun v => { v with state := t }) s
    pushEvent 4 (wordBytes (job s j).handle ++ leBytes 1 (jobStateNum t)) s1

/-- The job slot that holds a handle, if any slot does. -/
def jobOf (h : Nat) (s : State) : Option Nat :=
  (List.range 64).find? (fun j => decide ((job s j).state ≠ .free ∧ (job s j).handle.toNat = h))

/-- A job with a scheduled program in states ARMED to PAUSED. -/
def schedJobBusy (s : State) : Bool :=
  (List.range 64).any (fun j =>
    let v := job s j
    v.sched && (v.state == .armed || v.state == .running || v.state == .paused))

/-- A job in states ARMED to PAUSED. -/
def jobBusy (s : State) : Bool :=
  (List.range 64).any (fun j =>
    let v := job s j
    v.state == .armed || v.state == .running || v.state == .paused)

/-! Mailbox slots (R425, R426). -/

/-- Header field of a slot (Table 13-3). -/
def hdr (b : List Byte) (off n : Nat) : Nat := fieldAt b off n

/-- CMD of a slot. -/
def slotCmd (m : Slot) : Nat := hdr m.bytes 2 2

/-- Payload field of a slot's request (Table 13-5). -/
def req (m : Slot) (off n : Nat) : Nat := fieldAt m.bytes (32 + off) n

/-- GLB_LAYSTAT.LAST_ERR after a layout command ends with a status (R251). -/
def layStatus (cmd status : Nat) (s : State) : State :=
  if cmd = 0x10 ∨ cmd = 0x11 ∨ cmd = 0x41 then { s with lay := { s.lay with lastErr := status } } else s

/-- Write the reply of slot `i` (R426): payload, STATUS, RPLEN, DCROAK, then STATE DONE; vector 64 + i when
SFLAGS.IRQ is set and the interface is not in ORPHAN. -/
def reply (i status : Nat) (payload : List Byte) (s : State) : State :=
  let m := mslot s i
  let b := m.bytes.take 20 ++ leBytes 2 status ++ leBytes 2 payload.length ++ leBytes 8 (croak s) ++
    slice payload 0 224
  let s1 := setMslot i { bytes := b.set 0 3 } s
  let s2 := layStatus (slotCmd m) status { s1 with hif := { s1.hif with mbDone := (s1.hif.mbDone + 1) % 2 ^ 32 } }
  if (m.bytes.getD 1 0).getLsbD 0 then vector (64 + i) s2 else s2

/-- The host address that a command names, 0 where it names none. -/
def cmdHaddr (m : Slot) : Nat :=
  match slotCmd m with
  | 0x10 => req m 0 8 | 0x50 => req m 0 8 | 0x70 => req m 0 8 | 0x71 => req m 0 8 | 0xA0 => req m 0 8
  | 0x20 => req m 16 8 | 0x80 => req m 8 8 | 0x90 => req m 8 8 | _ => 0

/-- The occurrence of a command's failure (Table 15-2): the slot, and the detail that the table gives for the code's
block. `chk` numbers the check of Tables 7-10, 7-11 and 14-8 that failed, where one did. -/
def cmdOcc (i code chk : Nat) (s : State) : Occ :=
  let m := mslot s i
  let cmd := slotCmd m
  let jh := if cmd = 0x20 then req m 32 8 else if cmd / 16 = 2 ∨ cmd = 0x30 ∨ cmd = 0x80 then req m 0 8 else 0
  match code / 256 with
  | 9 => { code := code, coll := if cmd = 0x30 then req m 8 3 else 0 }
  | 10 => { code := code, coll := if cmd = 0x30 then req m 8 3 else if cmd = 0x22 then req m 8 3 else 0, d := [0, jh] }
  | 11 => { code := code, d := [0, croak s, s.sch.jp, s.sch.term] }
  | 12 => { code := code, kind := 7, unit := i, unit2 := chk,
            d := [s.fw.ver.toNat, fieldAt s.lay.fp 0 8, fieldAt s.lay.fp 8 8] }
  | _ => { code := code, kind := 7, unit := i, unit2 := cmd,
           d := [if code = 0x010F ∨ code = 0x0110 ∨ code = 0x0114 then cmdHaddr m else 0, jh, hdr m.bytes 4 4, hdr m.bytes 8 4] }

/-- A command fails with the code of an occurrence, which is recorded. -/
def cmdFailWith (i : Nat) (o : Occ) (s : State) : State := reply i o.code [] (raise o s)

/-- A command fails with `code`, which is recorded (R429). -/
def cmdFail (i code : Nat) (s : State) : State := cmdFailWith i (cmdOcc i code 0 s) s

/-- A command fails with `code` at a numbered check. -/
def cmdFailAt (i code chk : Nat) (s : State) : State := cmdFailWith i (cmdOcc i code chk s) s

/-- The status of a failed flash write is open: one of the defined codes (R485), which the free value picks (log 69). -/
def flashCode (s : State) : Nat := definedCodes.getD ((freeW s).toNat % definedCodes.length) 0

/-- A command succeeds. -/
def cmdDone (i : Nat) (payload : List Byte) (s : State) : State := reply i 0 payload s

/-! Tags (Tables 4-4, 11-7). -/

/-- The 16 tag bytes. -/
def tagBytes (t : Tag) : List Byte :=
  match t with
  | .plain m => leBytes 2 m ++ zeros 14
  | .coll c => leBytes 3 c.coll ++ leBytes 1 c.kind ++ leBytes 4 c.tile ++ leBytes 4 c.rank ++ leBytes 2 c.offset ++
      leBytes 1 c.stage ++ leBytes 1 (bnat c.last)
  | .txn id rlen st op target => leBytes 4 id ++ leBytes 2 rlen ++ leBytes 1 st ++ leBytes 1 op ++ leBytes 8 target
  | .sync o a => leBytes 2 o ++ zeros 6 ++ leBytes 8 a

end Sys2Proof.Machine
end

