-- ==== Sys2Proof/Machine/SyncOps.lean ====
section
/-! DEFINITION. The sync-object unit's operations (05_synchronisation.md): signals, waits in service order, barrier
lines, fabric lines, hold queues, remote signal slots and the registers of Tables 5-7 to 5-17. -/

namespace Sys2Proof.Machine

/-! Torus arithmetic (R286, R287). Directions 0 to 5 are X+, X−, Y+, Y−, Z+, Z−. -/

/-- Coordinate of axis `a` (0 X, 1 Y, 2 Z) in a 15-bit chip coordinate. -/
def axisOf (c a : Nat) : Nat := bits c (5 * a + 4) (5 * a)

/-- Torus extent of axis `a`. -/
def extOf (s : State) (a : Nat) : Nat :=
  if a = 0 then s.rte.extX else if a = 1 then s.rte.extY else s.rte.extZ

/-- The chip coordinate one step from `c` in direction `d`. -/
def neighbour (s : State) (c d : Nat) : Nat :=
  let a := d / 2
  let e := max 1 (extOf s a)
  let x := axisOf c a
  let y := if d % 2 = 0 then (x + 1) % e else (x + e - 1) % e
  c - x * 32 ^ a + y * 32 ^ a

/-- The lowest axis on which two chips differ. -/
def diffAxis (c t : Nat) : Option Nat := (List.range 3).find? (fun a => decide (axisOf c a ≠ axisOf t a))

/-- The shorter way round axis `a` from `c` to `t`, the + direction when both are equally short. -/
def shortWay (s : State) (c t a : Nat) : Nat :=
  let e := max 1 (extOf s a)
  let d := (axisOf t a + e - axisOf c a) % e
  if 2 * d ≤ e then 2 * a else 2 * a + 1

/-- The next direction in dimension order to chip `t`, or none at the chip itself. -/
def dimOrder (s : State) (t : Nat) : Option Nat := (diffAxis s.rte.coord t).map (shortWay s s.rte.coord t)

/-- The UP quads of a use (1 + direction, or 7 with a port), ascending. -/
def upQuads (s : State) (use port : Nat) : List Nat :=
  (List.range 128).filter (fun q =>
    let v := quad s q
    decide (v.use = use ∧ (use = 7 → v.port = port) ∧ v.state = .up))

/-- Whether direction `d` has an UP quad. -/
def dirUp (s : State) (d : Nat) : Bool := !(upQuads s (d + 1) 0).isEmpty

/-! Agents (Table 5-2) and leaves (R168). -/

/-- Agent id of DMA channel `c`. -/
def agentDma (c : Nat) : Nat := 0x2000 + c
/-- Agent id of mailbox slot `i`. -/
def agentSlot (i : Nat) : Nat := 0x4000 + i
/-- Agent id of a SYNC_POST write. -/
def agentPost : Nat := 0x6000
/-- Agent id of a remote signal received on quad `q`. -/
def agentRemote (q : Nat) : Nat := 0x8000 + q
/-- Agent id of control complex firmware on core `k`. -/
def agentFw (k : Nat) : Nat := 0xA000 + k

/-- The barrier leaf of an agent: newt n is leaf n, DMA channel c is 2048 + c, the control complex is 2112. -/
def leafOf (agent : Nat) : Nat :=
  if agent < 0x2000 then agent else if agent < 0x4000 then 2048 + agent % 64 else 2112

/-- PROD − CONS of an object, modulo 2^64. -/
def avail (o : SyncObj) : Nat := (o.prod + (2 ^ 64 - o.cons)) % 2 ^ 64

/-- The value of SYNC_CFG (Table 5-7). -/
def cfgWord (o : SyncObj) : Nat :=
  pack [(2, o.kind), (1, bnat o.proxy), (1, bnat o.counted), (4, 0), (6, o.bl), (1, bnat o.fabric), (6, o.fbl),
    (11, 0), (32, o.depth)]

/-- The object with the fields of a SYNC_CFG value. -/
def withCfg (o : SyncObj) (w : Nat) : SyncObj :=
  { o with kind := bits w 1 0, proxy := bitOf w 2, counted := bitOf w 3, bl := bits w 13 8, fabric := bitOf w 14,
           fbl := bits w 20 15, depth := bits w 63 32 }

/-- Set the SYNC_STAT bit of an error code (Table 5-14). -/
def syncStat (code : Nat) (o : SyncObj) : SyncObj :=
  if code = 0x0401 then { o with timeout := true }
  else if code = 0x0402 then { o with overpost := true }
  else if code = 0x0403 then { o with badop := true }
  else if code = 0x0404 then { o with badsrc := true }
  else if code = 0x0406 then { o with leftBit := true, quar := true } else o

/-- Raise a sync error against an agent (R186, Table 15-2). -/
def syncErr (o code agent d ncell src : Nat) (s : State) : State :=
  let v := obj s o
  raise { code := code, kind := 9, unit := o, unit2 := agent, d := [v.prod, v.cons, d + 65536 * ncell, src] }
    (setObj o (syncStat code v) s)

/-- Note that a task's agent operated on an object (R182). -/
def touch (j : Option Nat) (o : Nat) (s : State) : State :=
  match j with
  | none => s
  | some j => modJob j (fun v => { v with touched := insertNat v.touched o }) s

/-- A released waiter goes on: a newt may issue, a channel's descriptor may complete, a slot's command may run. -/
def releaseAgent (agent : Nat) (s : State) : State :=
  if agent < 0x2000 then modNewt agent (fun n => { n with waitPassed := true, registered := false }) s
  else if agent < 0x4000 then modChan (agent % 64)
    (fun c => { c with readback := true, state := if c.state = .wait then .run else c.state }) s
  else modMslot (agent % 256) (fun m => if m.work = .preop then { m with work := .ready } else m) s

/-! Waits in service order (R163). -/

/-- Whether the first waiter's condition holds (Table 5-1). -/
def waitMet (o : SyncObj) (d : Nat) : Bool :=
  if o.kind = 1 then decide (d ≤ avail o) else if o.kind = 3 then decide (0 < avail o) else false

/-- The counts after a waiter is served. -/
def waitTake (o : SyncObj) (d : Nat) : SyncObj :=
  if o.kind = 1 then { o with cons := (o.cons + d) % 2 ^ 64 }
  else if o.kind = 3 ∧ d = 2 then { o with cons := o.prod } else o

/-- Serve waiters strictly in order until one is unmet. -/
def serveN (fuel o : Nat) (s : State) : State :=
  match fuel with
  | 0 => s
  | fuel + 1 =>
    let v := obj s o
    match v.waiters with
    | [] => s
    | w :: r =>
      if waitMet v w.d then
        serveN fuel o (releaseAgent w.agent (setObj o { waitTake v w.d with waiters := r } s))
      else s

/-- Serve the waiters of an object. -/
def serve (o : Nat) (s : State) : State := serveN (obj s o).waiters.length o s

/-- Whether a WSO with D is a valid operation on the object (Table 5-1, R177). -/
def waitValid (o : SyncObj) (d : Nat) : Bool :=
  decide (1 ≤ d ∧ d ≤ 65535) && ((o.kind == 1 && !o.proxy) || (o.kind == 3 && (d == 1 || d == 2)))

/-- An agent's wait reaches the head of its queue: it registers and is served in its turn (R163, R164). The
second part is the error code of an invalid operation. -/
def syncWait (o agent d : Nat) (s : State) : State × Option Nat :=
  if waitValid (obj s o) d then
    (serve o (modObj o (fun v => { v with waiters := v.waiters ++ [{ agent := agent, d := d }] }) s), none)
  else (syncErr o 0x0403 agent d 0 0 s, some 0x0403)

/-- Remove an agent's waits from an object (R165, R167); a barrier arrival stays made. -/
def unwait (o agent : Nat) (s : State) : State :=
  serve o (modObj o (fun v => { v with waiters := v.waiters.filter (fun w => decide (w.agent ≠ agent)) }) s)

/-- Remove an agent's waits wherever it is registered. -/
def unwaitAll (agent : Nat) (s : State) : State :=
  (s.sync.objs.filter (fun e => e.2.waiters.any (fun w => decide (w.agent = agent)))).foldl
    (fun t e => unwait e.1 agent t) s

/-! Barrier lines (R168 to R175). -/

/-- Every enabled leaf differs from OUT. -/
def lineFull (l : BLine) : Bool := l.mask.all (fun i => l.arrived.contains i)

/-- OUT flips, PROD advances and the waiters are released (R170). -/
def lineRelease (o : Nat) (s : State) : State :=
  let v := obj s o
  let l := bline s v.bl
  let s1 := setBline v.bl { l with out := !l.out, arrived := [] } s
  let s2 := setObj o { v with prod := (v.prod + 1) % 2 ^ 64, waiters := [] } s1
  v.waiters.foldl (fun t w => releaseAgent w.agent t) s2

/-- First and last coordinate of a FABRIC barrier's block on axis `a` (Table 5-11). -/
def blockLo (peer a : Nat) : Nat := bits peer (10 * a + 4) (10 * a)
/-- Last coordinate of the block on axis `a`. -/
def blockHi (peer a : Nat) : Nat := bits peer (10 * a + 9) (10 * a + 5)

/-- The value a chip takes from one neighbour's line byte (R175), and whether its round is two apart. -/
def lineValue (own byte : Nat) : Nat × Bool :=
  let r := bits byte 6 5
  if !bitOf byte 7 then (0, false)
  else if r = own % 4 then (bits byte 4 0, false)
  else if r = (own + 1) % 4 then (31, false)
  else if r = (own + 3) % 4 then (0, false)
  else (0, true)

/-- The value from the neighbour in direction `d` for object `o` on fabric line `f`. -/
def lineFrom (s : State) (o f d : Nat) : Nat × Bool :=
  let v := obj s o
  let a := d / 2
  let n := blockHi v.peer a + 1 - blockLo v.peer a
  let c := axisOf s.rte.coord a
  let edge := if d % 2 = 0 then blockHi v.peer a else blockLo v.peer a
  if n < extOf s a ∧ c = edge then (0, false)
  else lineValue (fline s f).round ((fline s f).recv.getD d 0)

/-- Raise 0x0407 for every neighbour whose round stands two apart from that of object `o` (R175). The spec names no agent for
0x0407, which has neither poster nor waiter: the record carries the remote-signal agent of quad 0 (DESIGN CHOICE, log 138). -/
def fblFaults (o : Nat) (ds : List Nat) (s : State) : State :=
  (ds.filter (fun d => (lineFrom s o (obj s o).fbl d).2)).foldl (fun t _ => syncErr o 0x0407 (agentRemote 0) 0 0 0 t) s

/-- Advance the stages of a fabric line while their conditions hold (R173, R175). -/
def fblAdvance (fuel o : Nat) (s : State) : State :=
  match fuel with
  | 0 => s
  | fuel + 1 =>
    let v := obj s o
    let l := bline s v.bl
    let f := fline s v.fbl
    if f.stage = 0 then
      if lineFull l then fblAdvance fuel o (setFline v.fbl { f with stage := 1 } s) else s
    else
      let a := f.stage - 1
      let n := blockHi v.peer a + 1 - blockLo v.peer a
      let m := (lineFrom s o v.fbl (2 * a + 1)).1
      let p := (lineFrom s o v.fbl (2 * a)).1
      if n = 1 ∨ n ≤ m + p + 1 then
        if f.stage = 3 then
          fblAdvance fuel o (fblFaults o (List.range 6)
            (lineRelease o (setFline v.fbl { f with stage := 0, round := (f.round + 1) % 4 } s)))
        else fblAdvance fuel o (setFline v.fbl { f with stage := f.stage + 1 } s)
      else s

/-- The bytes of one fabric line that the chip sends in direction `d` (Table 5-3, R175). -/
def fblByte (s : State) (o d : Nat) : Nat :=
  let v := obj s o
  let f := fline s v.fbl
  let a := d / 2
  let from' := (lineFrom s o v.fbl (if d % 2 = 0 then 2 * a + 1 else 2 * a)).1
  pack [(5, if a + 1 ≤ f.stage then min 31 (from' + 1) else 0), (2, f.round), (1, 1)]

/-- Whether the line of object `o` is complete: release it, or enter the fabric stages. A line with no enabled leaf is complete in
every cycle (R170); the model looks once a croak tick (DESIGN CHOICE, log 12). -/
def lineCheck (o : Nat) (s : State) : State :=
  let v := obj s o
  if v.fabric then fblAdvance 8 o s
  else if lineFull (bline s v.bl) then lineRelease o s else s

/-- One cycle of the lines that no leaf is enabled on. -/
def emptyLines (s : State) : State :=
  (s.sync.objs.filter (fun e => e.2.kind == 2 && (bline s e.2.bl).mask.isEmpty)).foldl (fun t e => lineCheck e.1 t) s

/-- An agent arrives at a barrier and waits (R170, R171). Where an earlier arrival of its leaf was abandoned and stays made (R167), the
leaf toggles back, equals OUT, and all that wait on it leave at once (log 117). -/
def barrArrive (o agent : Nat) (s : State) : State × Option Nat :=
  let v := obj s o
  let l := bline s v.bl
  let leaf := leafOf agent
  if v.kind = 2 ∧ leaf ∈ l.mask then
    if leaf ∈ l.arrived then
      let gone := v.waiters.filter (fun w => leafOf w.agent == leaf)
      ((gone.map (·.agent) ++ [agent]).foldl (fun t a => releaseAgent a t)
        (modObj o (fun v => { v with waiters := v.waiters.filter (fun w => leafOf w.agent != leaf) })
          (setBline v.bl { l with arrived := l.arrived.filter (fun i => decide (i ≠ leaf)) } s)), none)
    else
      let s1 := setBline v.bl { l with arrived := insertNat l.arrived leaf } s
      (lineCheck o (modObj o (fun v => { v with waiters := v.waiters ++ [{ agent := agent, d := 0 }] }) s1), none)
  else (syncErr o 0x0403 agent 0 0 0 s, some 0x0403)

/-- A neighbour's byte of fabric line `f` arrives from direction `d` (R174, R175). -/
def fblReceive (f d byte : Nat) (s : State) : State :=
  let v := fline s f
  let s1 := setFline f { v with recv := v.recv.set d byte } s
  match s.sync.objs.find? (fun e => e.2.kind == 2 && e.2.fabric && e.2.fbl == f) with
  | none => s1
  | some (o, _) =>
    fblAdvance 8 o (fblFaults o [d] s1)

/-! Signals (R155 to R158, R176 to R180). -/

/-- This chip as the source of a signal (Table 5-4 SRC with CHIPSRC). -/
def chipSrc (s : State) : Nat := s.rte.coord + 2 ^ 22

/-- Apply a signal's count to an object that accepts it (Table 5-1): the error code when it does not. -/
def signalApply (o d agent src : Nat) (s : State) : State × Option Nat :=
  let v := obj s o
  if v.kind = 1 then
    if v.depth < avail v + d then (syncErr o 0x0402 agent d 0 src s, some 0x0402)
    else (serve o (setObj o { v with prod := (v.prod + d) % 2 ^ 64 } s), none)
  else if v.kind = 3 ∧ d = 1 then
    (serve o (setObj o { v with prod := if avail v = 0 then (v.cons + 1) % 2 ^ 64 else v.prod } s), none)
  else if v.kind = 3 ∧ d = 2 then (setObj o { v with cons := v.prod } s, none)
  else (syncErr o 0x0403 agent d 0 src s, some 0x0403)

/-- Whether the head of the hold queue may be applied: its announced cells have landed (R178). -/
def heldReady (v : SyncObj) : Bool :=
  match v.holdq with
  | [] => false
  | h :: _ => decide ((v.cnt + (2 ^ 32 - h.ann)) % 2 ^ 32 < 2 ^ 31)

/-- Apply the head of the hold queue: the error code when it is rejected. -/
def heldApply (o : Nat) (s : State) : State × Option Nat :=
  let v := obj s o
  match v.holdq with
  | [] => (s, none)
  | h :: r => signalApply o h.d h.agent v.peer (setObj o { v with holdq := r } s)

/-- A signal from the declared source joins the hold queue of a COUNTED object (R178, R179); it is applied at
once when it alone is held and its cells have landed. A merged signal keeps the later sender's name (log 138). -/
def holdPush (o d ncell agent pc : Nat) (s : State) : State × Option Nat :=
  let v := obj s o
  let ann := (v.ann + ncell) % 2 ^ 32
  let v1 := if v.holdq.length < 16 then
      { v with ann := ann, holdq := v.holdq ++ [{ d := d, ann := ann, agent := agent, pc := pc }] }
    else { v with ann := ann, merged := true, mergedAt := some (croak s), holdq := v.holdq.take 15 ++
      [{ d := (v.holdq.getD 15 default).d + d, ann := ann, agent := agent, pc := pc }] }
  let s1 := setObj o v1 s
  if v1.holdq.length = 1 && heldReady v1 then heldApply o s1 else (s1, none)

/-- The agent id that names the link of direction `d`: that of its lowest-numbered quad. -/
def linkAgent (s : State) (d : Nat) : Nat :=
  agentRemote (((List.range 128).find? (fun q => decide ((quad s q).use = d + 1))).getD 0)

/-- A signal slot is discarded, since the next link on its path, in direction `d`, is down (R181): the record names the link and the
target's object (log 113). -/
def signalLost (d : Nat) (g : SigSlot) (s : State) : State :=
  raise { code := 0x0409, kind := 9, unit := g.obj, unit2 := linkAgent s d, d := [0, 0, g.d + 65536 * g.ncell, g.src] } s

/-- A signal slot leaves for its target, by the minimal path in dimension order (R176); with no UP quad on the path it is
discarded (R181). The answer is whether the target is this chip. -/
def slotSend (g : SigSlot) (s : State) : State × Bool :=
  match dimOrder s (g.tgt % 2 ^ 15) with
  | none => (s, true)
  | some d =>
    if dirUp s d then ({ s with sync := { s.sync with sigOut := s.sync.sigOut ++ [(d, g)] } }, false)
    else (signalLost d g s, false)

/-- A direction has lost its last UP quad: the slots that wait to leave on it cannot be forwarded. -/
def signalsLost (d : Nat) (s : State) : State :=
  (s.sync.sigOut.filter (fun e => e.1 == d)).foldl (fun t e => signalLost d e.2 t)
    { s with sync := { s.sync with sigOut := s.sync.sigOut.filter (fun e => e.1 != d) } }

/-- A remote signal reaches its target chip (R157, R178 to R180). -/
def signalRemote (g : SigSlot) (agent : Nat) (s : State) : State :=
  let v := obj s g.obj
  if g.d = 0 then syncErr g.obj 0x0403 agent 0 g.ncell g.src s
  else if v.kind = 1 && v.counted then
    if bits g.src 22 0 = bits v.peer 22 0 then (holdPush g.obj g.d g.ncell agent 0 s).1
    else syncErr g.obj 0x0404 agent g.d g.ncell g.src s
  else if g.ncell ≠ 0 then syncErr g.obj 0x0404 agent g.d g.ncell g.src s
  else if v.kind = 1 && v.proxy then syncErr g.obj 0x0403 agent g.d 0 g.src s
  else (signalApply g.obj g.d agent g.src s).1

/-- A SIG on a proxy sends a slot with the cells sent since the last one (R177). NCELL of more than 65,535
cells is a free value (log 2): the field cannot hold it. Where SYNC_PEER names this chip itself, no quad receives the slot, and its
agent is the remote-signal agent of quad 0 (DESIGN CHOICE, log 138). -/
def signalProxy (o d : Nat) (s : State) : State :=
  let v := obj s o
  let diff := (v.cnt + (2 ^ 32 - v.ann)) % 2 ^ 32
  let g : SigSlot := { tgt := bits v.peer 14 0 + 2 ^ 15, obj := bits v.peer 27 15, d := d,
                       ncell := if diff < 65536 then diff else (freeW s).toNat % 65536, src := chipSrc s }
  let s1 := setObj o { v with ann := v.cnt, prod := (v.prod + d) % 2 ^ 64 } (if diff < 65536 then s else drawn s)
  let r := slotSend g s1
  if r.2 then signalRemote g (agentRemote 0) r.1 else r.1

/-- A signal from a local agent (Table 5-1, R177, R180), with the PC of a newt's SIG. -/
def signalLocal (o d agent pc : Nat) (s : State) : State × Option Nat :=
  let v := obj s o
  if d = 0 ∨ 65535 < d then (syncErr o 0x0403 agent d 0 0 s, some 0x0403)
  else if v.kind = 1 && v.proxy then (signalProxy o d s, none)
  else if v.kind = 1 && v.counted then
    if bits v.peer 22 0 = chipSrc s then holdPush o d 0 agent pc s
    else (syncErr o 0x0404 agent d 0 (chipSrc s) s, some 0x0404)
  else signalApply o d agent (chipSrc s) s

/-! Registers of an object and of a line. -/

/-- Whether a SYNC_CFG write may create the object (R159). -/
def cfgValid (s : State) (o w : Nat) : Bool :=
  let v := withCfg (obj s o) w
  let diff := avail v
  decide (v.cons ≤ v.prod) &&
  (if v.kind = 1 then
     (if v.proxy then decide (v.depth = 0) else decide (1 ≤ v.depth ∧ diff ≤ v.depth)) &&
       !(v.proxy && v.counted)
   else !v.proxy && !v.counted && decide (v.depth = 0) &&
     (if v.kind = 3 then decide (diff ≤ 1)
      else decide (v.cons = 0) && ((bline s v.bl).bound == none) &&
        (!v.fabric || (decide (v.fbl ≤ 59) &&
          s.sync.objs.all (fun e => !(e.2.kind == 2 && e.2.fabric && e.2.fbl == v.fbl))))))

/-- A SYNC_CFG write (R159, R160, R169). The spec leaves open what becomes of the other fields of a write with KIND 0, to a free object or
one that it destroys: they are stored. It leaves open too what becomes of a fabric line whose object is destroyed: the line keeps its
round, and its stage until the next creation on it (DESIGN CHOICE, log 139). A destroyed object is no longer one of the image's
(R238). -/
def syncCfgWrite (o w : Nat) (s : State) : State :=
  let v := obj s o
  if v.kind = 0 then
    if bits w 1 0 = 0 then setObj o (withCfg v w) s
    else if cfgValid s o w then
      let v1 := { withCfg v w with cnt := 0, ann := 0, holdq := [], waiters := [] }
      let s1 := setObj o v1 s
      if v1.kind = 2 then
        let s2 := setBline v1.bl { bline s1 v1.bl with arrived := [], bound := some o } s1
        if v1.fabric then fblAdvance 8 o (fblFaults o (List.range 6) (setFline v1.fbl { fline s2 v1.fbl with stage := 0 } s2)) else s2
      else s1
    else syncErr o 0x0405 agentPost 0 0 0 s
  else if bits w 1 0 = 0 ∧ v.waiters = [] ∧ v.holdq = [] ∧ (v.kind = 2 → (bline s v.bl).arrived = []) then
    let s1 := if v.kind = 2 then setBline v.bl { bline s v.bl with bound := none } s else s
    setObj o { withCfg v w with quar := false }
      { s1 with lay := { s1.lay with syncObjs := s1.lay.syncObjs.erase o } }
  else syncErr o 0x0405 agentPost 0 0 0 s

/-- A SYNC_PROD, SYNC_CONS or SYNC_PEER write: it takes effect only while KIND is 0. -/
def syncCountWrite (o reg w : Nat) (s : State) : State :=
  if (obj s o).kind = 0 then
    modObj o (fun v => if reg = 1 then { v with prod := w } else if reg = 2 then { v with cons := w }
      else { v with peer := w % 2 ^ 30 }) s
  else s

/-- A write of 1s to SYNC_STAT clears those bits; QUAR is read only (Table 5-14). -/
def syncStatWrite (o v : Nat) (s : State) : State :=
  let w := freshKeep s (0x400038 + 64 * o) v
  modObj o (fun v => { v with
    timeout := v.timeout && !bitOf w 0, overpost := v.overpost && !bitOf w 1, badop := v.badop && !bitOf w 2,
    badsrc := v.badsrc && !bitOf w 3, leftBit := v.leftBit && !bitOf w 4, merged := v.merged && (!bitOf w 6 || v.mergedAt == some (croak s)) }) s

/-- Newts enabled by the disabled-unit map: word n div 64, bit n mod 64 of the map (R31, Table 1-4). -/
def newtEnabled (s : State) (n : Nat) : Bool :=
  !((tget 0 s.unit.fused (n / 64) ||| tget 0 s.unit.excl (n / 64)).getLsbD (n % 64))

/-- A write of word `w` of line `l`'s mask (Table 5-15): ignored while the line is bound, reserved bits and bits of
disabled newts stay 0 (R169). -/
def blMaskWrite (l w v : Nat) (s : State) : State :=
  let b := bline s l
  if b.bound ≠ none ∨ 33 < w then s
  else
    let n := if w = 33 then 1 else 64
    let new := (bitList n v).map (fun i => 64 * w + i)
    let ok := new.filter (fun i => decide (2048 ≤ i) || newtEnabled s i)
    setBline l { b with mask := ok.foldl insertNat (b.mask.filter (fun i => decide (i / 64 ≠ w))) } s

/-- A timed-out wait: the waiter is removed and 0x0401 raised (R165). -/
def syncTimeout (o agent : Nat) (s : State) : State :=
  let d := (((obj s o).waiters.find? (fun w => decide (w.agent = agent))).map (·.d)).getD 0
  unwait o agent (syncErr o 0x0401 agent d 0 0 s)

end Sys2Proof.Machine
end

