-- ==== Sys2Proof/Machine/Memory.lean ====
section
/-! DEFINITION. Lovor addresses, the HDM range and the buffer pools (12_memory_pools_dma.md, R382 to R403, R418
to R421): address maps, range checks, takes, frees, list rebuilds, and uncorrectable reads. -/

namespace Sys2Proof.Machine

/-! HDM (R385, R418, R421). -/

/-- H in bytes. -/
def hdmSize (s : State) : Nat := 2 ^ 34 * s.hif.hdm

/-- The Lovor address behind HDM offset `o` (R385). -/
def hdmAddr (s : State) (o : Nat) : Nat :=
  let h := hdmSize s
  if o < h / 2 then 0x2000000000 - h / 2 + o else 0x4000000000 - h / 2 + (o - h / 2)

/-- Whether a Lovor range lies inside one half of the HDM range. -/
def inHdm (s : State) (a n : Nat) : Bool :=
  let h := hdmSize s / 2
  decide ((0x2000000000 - h ≤ a ∧ a + n ≤ 0x2000000000 ∧ 0 < h) ∨
    (0x4000000000 - h ≤ a ∧ a + n ≤ 0x4000000000 ∧ 0 < h))

/-- Size of a held buffer in bytes. -/
def bufBytes (b : Buf) : Nat := 256 * b.units

/-- Whether a range lies inside one pool buffer that a DMA channel holds. -/
def inDmaBuf (s : State) (a n : Nat) : Bool :=
  s.pool.bufs.any (fun b => decide (b.owner < 64 ∧ b.addr ≤ a ∧ a + n ≤ b.addr + bufBytes b))

/-- A Lovor range that a command may name (R421). -/
def hostRange (s : State) (a n : Nat) : Bool := inHdm s a n || inDmaBuf s a n

/-- Whether a range leaves the Lovor address space or touches a system region (R384, R405). -/
def badDevRange (a n : Nat) : Bool :=
  decide (0x4000000000 < a + n ∨ a < 0x200000000 ∨ (a < 0x2200000000 ∧ 0x2000000000 < a + n))

/-- An uncorrectable read or scrub result at an address (R387): POOL_STK.UE and error 0x0D01. -/
def stkUe (a : Nat) (s : State) : State :=
  let st := a / 2 ^ 36 % 4
  raise { code := 0x0D01, kind := 5, unit := st, unit2 := bits a 12 8, d := [a] }
    (modStack st (fun v => { v with ue := satAdd 0xFFFF v.ue 1 }) s)

/-- Ticks of one hour. -/
def hourTicks : Nat := 3600000 * msTicks

/-- The corrected reads of stack `n` that this hour has counted. -/
def ceHour (s : State) (n : Nat) : List Nat := (stack s n).ceTimes.filter (fun t => decide (croak s < t + hourTicks))

/-- A corrected read at an address (R386): POOL_STK.CE counts it, and the 4,096th within one hour raises 0x0D02. -/
def stkCe (a : Nat) (s : State) : State :=
  let n := a / 2 ^ 36 % 4
  let h := ceHour s n ++ [croak s]
  let v := { stack s n with ce := ((stack s n).ce + 1) % 2 ^ 32, ceTimes := if 4096 ≤ h.length then [] else h }
  if 4096 ≤ h.length then
    raise { code := 0x0D02, kind := 5, unit := n, unit2 := bits a 12 8, d := [a, h.length] } (setStack n v s)
  else setStack n v s

/-- Whether a clean read was corrected is not the spec's to say: the free value decides it (R386; DESIGN CHOICE, log 93). -/
def readDrawn (a : Nat) (s : State) : State := if (freeW s).getLsbD 0 then stkCe a (drawn s) else drawn s

/-- Store bytes in Lovor memory as the stack controller does: a write of part of a poisoned block reads it first, an uncorrectable read
that leaves the block poisoned (R383, R387). -/
def lovStore (a : Nat) (bs : List Byte) (s : State) : State :=
  ((s.lov.poison.filter (fun b => decide (64 * b < a + bs.length ∧ a < 64 * b + 64 ∧ (64 * b < a ∨ a + bs.length < 64 * b + 64)))).foldl
    (fun t b => stkUe (64 * b) t) (lovWrite a bs s))

/-- Address of the first poisoned block of a range. -/
def poisonAt (s : State) (a n : Nat) : Option Nat :=
  (s.lov.poison.find? (fun b => decide (64 * b < a + n ∧ a < 64 * b + 64))).map (64 * ·)

/-! Pools (R396 to R403). -/

/-- Buffer size of pool code `k` in bytes (Table 12-3). -/
def poolBuf (k : Nat) : Nat := 256 * 4 ^ k

/-- Pool area of a die in MiB (R385). -/
def poolArea (s : State) : Nat := 122880 - 8192 * s.hif.hdm

/-- POOL_CARVE.SIZE of a half, MiB. -/
def halfSize (s : State) (h : Nat) : Nat := tget 0 s.pool.size h

/-- Base address of half 7d + k (R396). -/
def halfBase (s : State) (h : Nat) : Nat :=
  (if h < 7 then 0x200000000 else 0x2200000000) +
    2 ^ 20 * ((List.range (h % 7)).map (fun i => halfSize s (h / 7 * 7 + i))).sum

/-- Buffers of a half. -/
def halfBufs (s : State) (h : Nat) : Nat := 2 ^ 20 * halfSize s h / poolBuf (h % 7)

/-- Buffers of its list segment. -/
def halfList (s : State) (h : Nat) : Nat := halfBufs s h * tget 0 s.pool.list h / 8

/-- Whether the buffer at `a` is held. -/
def bufHeld (s : State) (a : Nat) : Bool := s.pool.bufs.any (fun b => decide (b.addr = a))

/-- Held buffers of a half. -/
def halfHeld (s : State) (h : Nat) : List Buf := s.pool.bufs.filter (fun b => decide (b.half = h))

/-- USED of a requester, in units of 256 bytes (R398). -/
def usedOf (s : State) (r : Nat) : Nat := ((s.pool.bufs.filter (fun b => decide (b.owner = r))).map (·.units)).sum

/-- LIMIT of a requester: 256 at reset for newts, 0 for others (Table 12-8). -/
def limitOf (s : State) (r : Nat) : Nat :=
  let v := tget 0 s.pool.limit r
  if v = 0 then (if 0x100 ≤ r ∧ r < 0x900 then 256 else 0) else v - 1

/-- The privileged requesters (R398). -/
def privileged (r : Nat) : Bool := r == 0x900 || r == 0x901 || r == 0x910

/-- The lowest free buffer of the bitmap segment of a half, from buffer index `i`. -/
def bitmapFree (fuel : Nat) (s : State) (h i : Nat) : Option Nat :=
  match fuel with
  | 0 => none
  | fuel + 1 =>
    let a := halfBase s h + i * poolBuf (h % 7)
    if halfBufs s h ≤ i then none
    else if bufHeld s a then bitmapFree fuel s h (i + 1) else some a

/-- The buffers of a half's list, from its head, as far as the next two (R400, R402). -/
def listHead (s : State) (h : Nat) : List Nat :=
  let f := tget 0 s.pool.front h
  let rest := (List.range (min 2 (halfList s h - f))).map (fun i => halfBase s h + (f + i) * poolBuf (h % 7))
  ((tget [] s.pool.order h).take 2 ++ rest).take 2

/-- The number, in its half, of the buffer that starts at `a`. -/
def bufIndex (s : State) (h a : Nat) : Nat := (a - halfBase s h) / poolBuf (h % 7)

/-- An address is the start of a free buffer of a half's list segment (R402). -/
def freeListBuf (s : State) (h a : Nat) : Bool :=
  decide (halfBase s h ≤ a ∧ (a - halfBase s h) % poolBuf (h % 7) = 0 ∧ bufIndex s h a < halfList s h) && !bufHeld s a

/-- The list entry at `a` is the only free buffer of its list segment. -/
def lastFree (s : State) (h : Nat) : Bool :=
  let seg := halfBase s h + halfList s h * poolBuf (h % 7)
  decide (halfList s h ≤ ((halfHeld s h).filter (fun b => decide (b.addr < seg))).length + 1)

/-- The link stored in the list entry at `a` is good (R402): the start of another free buffer of the segment. A stored 0 ends the list at
the last free buffer, and in a buffer never taken stands for the buffer after it (log 103). -/
def linkOk (s : State) (h a : Nat) : Bool :=
  let v := leNat (lovRead s a 8)
  !poisoned s a 8 && ((freeListBuf s h v && v != a) ||
    (v == 0 && (lastFree s h || (decide (tget 0 s.pool.front h ≤ bufIndex s h a) && decide (bufIndex s h a + 1 < halfList s h)))))

/-- Hold a buffer. -/
def holdBuf (r h a : Nat) (s : State) : State :=
  { s with pool := { s.pool with bufs := s.pool.bufs ++
      [{ addr := a, owner := r, units := poolBuf (h % 7) / 256, half := h }] } }

/-- What follows the head of a half's list when its link names buffer `v`: the freed buffers from `v`, or `v` among those never taken,
or `v` alone with what its own link names. -/
def listFollow (s : State) (h v : Nat) : List Nat × Nat :=
  let o := tget [] s.pool.order h
  let f := tget 0 s.pool.front h
  if o.contains v then (o.dropWhile (· != v), f)
  else if f ≤ bufIndex s h v then ([], bufIndex s h v)
  else ([v], f)

/-- Pop the entry at `a`, the head of a half's list: the list goes on where the stored link leads. -/
def listPop (h a : Nat) (s : State) : State :=
  let f := max (tget 0 s.pool.front h) (if (tget [] s.pool.order h).isEmpty then bufIndex s h a + 1 else 0)
  let s1 := { s with pool := { s.pool with order := tset [] s.pool.order h ((tget [] s.pool.order h).drop 1)
                                           front := tset 0 s.pool.front h f } }
  let v := leNat (lovRead s a 8)
  if v = 0 then s1
  else
    let n := listFollow s1 h v
    { s1 with pool := { s1.pool with order := tset [] s1.pool.order h n.1, front := tset 0 s1.pool.front h n.2 } }

/-- Take the lowest free buffer of the bitmap segment. -/
def bitmapTake (r h : Nat) (s : State) : State × Option Nat :=
  match bitmapFree ((halfHeld s h).length + 1) s h (halfList s h) with
  | none => (s, none)
  | some a => (holdBuf r h a s, some a)

/-- The occurrence of a pool error of requester `r` (Table 15-2): its pool code, the buffer, the size asked, USED and LIMIT. -/
def poolOcc (code r k a n : Nat) (s : State) : Occ :=
  { code := code, kind := 18, unit := r, unit2 := k, d := [a, n, usedOf s r, limitOf s r] }

/-- Take from a half for a request of `n` bytes (R399 step 3, R402). A link that reads poisoned is an uncorrectable read (R387). -/
def halfTake (r n h : Nat) (s : State) : State × Option Nat :=
  if privileged r && !tget false s.pool.rebuild h then
    match listHead s h with
    | [] => bitmapTake r h s
    | a :: _ =>
      if linkOk s h a then (holdBuf r h a (listPop h a s), some a)
      else
        let s0 := if poisoned s a 8 then stkUe a s else s
        let s1 := raise (poolOcc 0x0304 r (h % 7) a n s0) s0
        bitmapTake r h { s1 with pool := { s1.pool with rebuild := tset false s1.pool.rebuild h true } }
  else bitmapTake r h s

/-- Pool code of a take of `n` bytes (R399 step 1). -/
def poolCode (n : Nat) : Nat := ((List.range 7).find? (fun k => decide (n ≤ poolBuf k))).getD 6

/-- Free buffers of a half. -/
def halfFree (s : State) (h : Nat) : Nat := halfBufs s h - (halfHeld s h).length

/-- A take (R399): the buffer's address, or the code of the refusal (0x0301 quota, 0x0302 empty). Die 2 means
the die with more free buffers in the pool, FD0 on a tie. -/
def poolTake (r n die : Nat) (s : State) : State × (Nat ⊕ Nat) :=
  let k := poolCode n
  let d := if die = 2 then (if halfFree s k < halfFree s (7 + k) then 1 else 0) else die
  if limitOf s r < usedOf s r + poolBuf k / 256 then (s, .inr 0x0301)
  else
    match halfTake r n (7 * d + k) s with
    | (t, some a) => (t, .inl a)
    | (t, none) => (t, .inr 0x0302)

/-- Make a held buffer free (R400): a list buffer is pushed at the head of its list, its first 8 bytes
overwritten with the address of the next. -/
def bufFree (b : Buf) (s : State) : State :=
  let s1 := { s with pool := { s.pool with bufs := s.pool.bufs.filter (fun c => decide (c.addr ≠ b.addr)) } }
  if b.addr < halfBase s b.half + halfList s b.half * poolBuf (b.half % 7) then
    let next := (listHead s1 b.half).headD 0
    let s2 := lovStore b.addr (leBytes 8 next) s1
    { s2 with pool := { s2.pool with
        order := tset [] s2.pool.order b.half (b.addr :: tget [] s2.pool.order b.half) } }
  else s1

/-- The occurrence of a refused free: the buffer's pool and size where one is held at the address. -/
def freeOcc (a party : Nat) (s : State) : Occ :=
  match s.pool.bufs.find? (fun b => decide (b.addr = a)) with
  | some b => poolOcc 0x0303 party (b.half % 7) a (bufBytes b) s
  | none => poolOcc 0x0303 party 0 a 0 s

/-- A free by a party that may free the buffers `mayFree` allows (R400). -/
def poolFree' (a : Nat) (mayFree : Nat → Bool) (party : Nat) (s : State) : State × Bool :=
  match s.pool.bufs.find? (fun b => decide (b.addr = a)) with
  | some b =>
    if mayFree b.owner then (bufFree b s, true)
    else (raise (freeOcc a party s) s, false)
  | none => (raise (freeOcc a party s) s, false)

/-- Free every buffer of a requester (R403, R438). -/
def freeOwned (r : Nat) (s : State) : State :=
  (s.pool.bufs.filter (fun b => decide (b.owner = r))).foldl (fun t b => bufFree b t) s

/-- An address lies in the link of a list buffer of a die: the first 8 bytes of a buffer in a half's list segment (R400). -/
def inListLink (s : State) (d a : Nat) : Bool :=
  (List.range 7).any (fun k =>
    let b := halfBase s (7 * d + k)
    decide (b ≤ a ∧ a < b + halfList s (7 * d + k) * poolBuf k ∧ (a - b) % poolBuf k < 8))

/-- The links of a die's lists as a re-forming leaves them: of buffers never taken (log 103). -/
def freshLinks (d : Nat) (s : State) : State :=
  { s with lov := { s.lov with mem := s.lov.mem.filter (fun e => !inListLink s d e.1) } }

/-- The links of a half's buffers never taken as threading leaves them (log 103). The write of part of a poisoned block reads it. -/
def threadFresh (h : Nat) (s : State) : State :=
  let b := halfBase s h + tget 0 s.pool.front h * poolBuf (h % 7)
  let e := halfBase s h + halfList s h * poolBuf (h % 7)
  let link (a : Nat) : Bool := decide (b ≤ a ∧ a < e ∧ (a - b) % poolBuf (h % 7) < 8)
  (s.lov.poison.filter (fun k => link (64 * k))).foldl (fun t k => stkUe (64 * k) t)
    { s with lov := { s.lov with mem := s.lov.mem.filter (fun c => !link c.1) } }

/-- Rebuild a half's list from the bitmap, in ascending address (R402): the freed buffers are threaded before those never taken. -/
def listRebuild (h : Nat) (s : State) : State :=
  let f := tget 0 s.pool.front h
  let free := (List.range f).map (fun i => halfBase s h + i * poolBuf (h % 7))
  let order := free.filter (fun a => !bufHeld s a)
  let after := if f < halfList s h then halfBase s h + f * poolBuf (h % 7) else 0
  let s1 := { s with pool := { s.pool with order := tset [] s.pool.order h order
                                           rebuild := tset false s.pool.rebuild h false } }
  (order.zip (order.drop 1 ++ [after])).foldl (fun t e => lovStore e.1 (leBytes 8 e.2) t) (threadFresh h s1)

/-- A POOL_CARVE write (R397). -/
def carveWrite (h w : Nat) (s : State) : State :=
  let size := bits w 17 0
  let lst := bits w 21 18
  let d := h / 7
  let sum := ((List.range 7).map (fun i => if 7 * d + i = h then size else halfSize s (7 * d + i))).sum
  if s.pool.bufs.any (fun b => decide (b.half / 7 = d)) || decide (poolArea s < sum) || decide (8 < lst) then
    raise (poolOcc 0x0305 0x910 (h % 7) 0 (2 ^ 20 * size) s) s
  else
    let clear {α : Type} (t : Table α) : Table α := t.filter (fun e => decide (e.1 / 7 ≠ d))
    freshLinks d { s with pool := { s.pool with
        size := tset 0 s.pool.size h size
        list := tset 0 s.pool.list h lst
        order := clear s.pool.order
        front := clear s.pool.front
        rebuild := clear s.pool.rebuild } }

/-- The default carve of Table 12-3, which firmware writes during boot. -/
def defaultCarve (s : State) : State :=
  let sizes := [256, 256, 1024, 2048, poolArea s - 9728, 2048, 4096]
  let lists := [4, 4, 4, 4, 6, 4, 4]
  (List.range 14).foldl (fun t h =>
    { t with pool := { t.pool with
        size := tset 0 t.pool.size h (sizes.getD (h % 7) 0)
        list := tset 0 t.pool.list h (lists.getD (h % 7) 0) } })
    { s with pool := { s.pool with bufs := [], order := [], front := [], rebuild := [] } }

end Sys2Proof.Machine
end

