-- ==== Sys2Proof/Machine/Operands.lean ====
section
/-! DEFINITION. Operand forms: timeout codes (Table 3-7), newt instruction words (03_newts.md), DMA descriptors
(Table 12-5) and the other records whose fields commands carry. -/

namespace Sys2Proof.Machine

/-- Units of Table 3-7 in croak ticks. -/
def tmoUnit (u : Nat) : Nat := 1600 * 10 ^ u

/-- Ticks of a timeout code, when it is not reserved (Table 3-7, R97): COUNT 1 to 100, UNIT 0 to 6, at most 60 s. -/
def tmoTicks (c : Nat) : Option Nat :=
  let n := bits c 9 3
  let t := n * tmoUnit (bits c 2 0)
  if 1 ≤ n ∧ n ≤ 100 ∧ bits c 2 0 ≤ 6 ∧ t ≤ 96000000000 ∧ c < 1024 then some t else none

/-! DMA descriptors (Table 12-5). -/

/-- OP. -/
def dOp (d : List Byte) : Nat := fieldAt d 0 1
/-- A bit of DFLAGS. -/
def dFlag (d : List Byte) (i : Nat) : Bool := bitOf (fieldAt d 1 1) i
/-- DFLAGS.ALLOC. -/
def dAlloc (d : List Byte) : Bool := dFlag d 0
/-- DFLAGS.FREE. -/
def dFree (d : List Byte) : Bool := dFlag d 1
/-- DFLAGS.SIGDONE. -/
def dSig (d : List Byte) : Bool := dFlag d 2
/-- DFLAGS.DIE. -/
def dDie (d : List Byte) : Nat := bits (fieldAt d 1 1) 4 3
/-- LEN. -/
def dLen (d : List Byte) : Nat := fieldAt d 4 4
/-- HADDR. -/
def dHaddr (d : List Byte) : Nat := fieldAt d 8 8
/-- DADDR. -/
def dDaddr (d : List Byte) : Nat := fieldAt d 16 8
/-- OBJ. -/
def dObj (d : List Byte) : Nat := fieldAt d 24 2
/-- D. -/
def dCount (d : List Byte) : Nat := fieldAt d 26 2

/-- Whether a descriptor carries no reserved encoding (R405, R14). -/
def descOk (d : List Byte) : Bool :=
  let op := dOp d
  let copy := decide (1 ≤ op ∧ op ≤ 3)
  let count := decide (op = 4 ∨ op = 5) || dSig d
  decide (op ≤ 6) && decide (fieldAt d 1 1 < 32) && (!dAlloc d || op == 1) && (!dFree d || op == 2) &&
  (!dSig d || copy) && decide (dDie d ≠ 3) &&
  (if op = 4 ∨ op = 6 then (tmoTicks (fieldAt d 2 2)).isSome else fieldAt d 2 2 == 0) &&
  (if copy then decide (1 ≤ dLen d) && (!dAlloc d || decide (dLen d ≤ 2 ^ 20)) else dLen d == 0) &&
  (decide (op = 1 ∨ op = 2) || dHaddr d == 0) && ((copy && !dAlloc d) || dDaddr d == 0) &&
  decide (dObj d < 8192) && (if count then decide (1 ≤ dCount d) else dCount d == 0) &&
  fieldAt d 28 4 == 0 && fieldAt d 40 8 == 0

end Sys2Proof.Machine
end

