-- ==== Sys2Proof/Machine/StackPlan.lean ====
section
/-! DEFINITION. The stack plan's records (R392) and the window of a DMA channel (R30, R395). -/

namespace Sys2Proof.Machine

/-- PERIOD. -/
def spPeriod (b : List Byte) : Nat := fieldAt b 0 2
/-- Instant records: (OFFSET, STACK, PCH, TAG). -/
def spInst (b : List Byte) : List (Nat × Nat × Nat × Nat) :=
  (List.range (fieldAt b 2 4)).map (fun i =>
    let o := 16 + 8 * i
    (fieldAt b o 2, fieldAt b (o + 2) 1, fieldAt b (o + 3) 1, fieldAt b (o + 4) 1))
/-- Window records. -/
def spWins (b : List Byte) : List (List Byte) :=
  (List.range (fieldAt b 6 4)).map (fun i => slice b (16 + 8 * fieldAt b 2 4 + 16 * i) 16)
/-- The pad number of the croak count. -/
def padNow (s : State) : Nat := croak s / 128

/-- PERIOD of a plan; the empty body is the built-in plan (R394). -/
def planPeriod (b : List Byte) : Nat := if b.isEmpty then 24 else spPeriod b

/-- Windows of a plan. -/
def planWins (b : List Byte) : List (List Byte) := if b.isEmpty then [] else spWins b

/-- The stack and pseudo-channel of an address. -/
def stackPch (a : Nat) : Nat × Nat := (a / 2 ^ 36, bits a 12 8)

/-- The stacks and pseudo-channels that a range touches, by its first and last 33 units of 256 bytes: 32 of them touch every
pseudo-channel of a stack. -/
def rangePchs (a len : Nat) : List (Nat × Nat) :=
  let k := a / 256
  let m := (a + len - 1) / 256
  ((List.range (min 33 (m + 1 - k))).flatMap (fun i => [stackPch (256 * (k + i)), stackPch (256 * (m - i))]))

/-- Window `w` names channel `ch` as OWNER and covers a pseudo-channel that an access of the range uses. -/
def windowOwns (ch a len : Nat) (w : List Byte) : Bool :=
  fieldAt w 3 1 == ch + 1 && (rangePchs a len).any (fun e => e.1 == fieldAt w 2 1 && bitOf (fieldAt w 4 4) e.2)

/-- The device-side accesses of a DMA channel must wait for its window (R395). -/
def windowWaits (ch a len : Nat) (s : State) : Bool :=
  let o := padNow s % planPeriod s.lov.plan
  (planWins s.lov.plan).any (fun w =>
    windowOwns ch a len w && !decide (fieldAt w 8 2 ≤ o ∧ o < fieldAt w 8 2 + fieldAt w 10 2))

/-- The current pad carries no access of a requester to the block at `a` (R390, R395): a refresh instant holds its pseudo-channel, or a
window that does not name the requester in OWNER covers it. DMA channel c is `c + 1`, every other requester 255. -/
def padKept (req a : Nat) (s : State) : Bool :=
  let e := stackPch a
  let o := padNow s % planPeriod s.lov.plan
  s.lov.holding.contains (e.1, e.2, padNow s) ||
  (planWins s.lov.plan).any (fun w => fieldAt w 3 1 != req && fieldAt w 2 1 == e.1 && bitOf (fieldAt w 4 4) e.2 &&
    decide (fieldAt w 8 2 ≤ o ∧ o < fieldAt w 8 2 + fieldAt w 10 2))

/-- The croak count at which accesses of a channel's window that take `ticks` are answered (R395); 0 outside a window, where
nothing is promised. -/
def windowDue (ch a len ticks : Nat) (s : State) : Nat :=
  if (planWins s.lov.plan).any (windowOwns ch a len) then croak s + ticks else 0

end Sys2Proof.Machine
end

