-- ==== Sys2Proof/Machine/Dma.lean ====
section
/-! DEFINITION. The DMA engine (R404 to R411), the writes of the POOL registers, and the end of a list rebuild. A
descriptor reaches its channel as the bytes that the channel read from its ring in host memory, and H2D data as
the bytes read from HADDR (log 1). -/

namespace Sys2Proof.Machine

/-- The outcome of every meaning of the block: a next state. -/
abbrev Res := Host.Outcome State Fault Refusal

/-- Address of the ring descriptor that a channel is at. -/
def descAddr (c : DmaCh) : Nat := 64 * c.base + 64 * (c.next % 2 ^ c.log2)

/-- A channel takes the next descriptor, or goes IDLE (R404); in ORPHAN it goes IDLE with COUNT zero (R437). -/
def chanAdvance (ch : Nat) (s : State) : State :=
  let c := chan s ch
  let n := if s.hif.state = .orphan then 0 else c.count - 1
  setChan ch { c with next := (c.next + 1) % 2 ^ c.log2, count := n, cur := none, readback := false,
                      arrived := false, alloc := 0, state := if n = 0 then .idle else .run } s

/-- Abandon the descriptor that a stopped channel is at (R410), with or without writing STATUS. -/
def abandonOp (ch : Nat) (status : Bool) (s : State) : State :=
  let c := chan s ch
  if c.count = 0 then setChan ch { c with state := .idle, alloc := 0, arrived := false } s
  else
    let s1 := if c.alloc ≠ 0 then (poolFree' c.alloc (· == ch) ch s).1 else s
    let s2 := if status then hostWrite (descAddr c + 48) (leBytes 2 c.code ++ zeros 6) s1 else s1
    chanAdvance ch s2

/-- A channel error (R408): STATUS is written, the vector raised, and the channel enters ERROR; in ORPHAN it goes IDLE at once,
its descriptor abandoned (R437). -/
def chanStop (ch code : Nat) (s : State) : State :=
  let c := chan s ch
  let s1 := hostWrite (descAddr c + 48) (leBytes 2 code ++ zeros 6) s
  let s2 := setChan ch { c with state := .error, code := code, cur := none, readback := false } (vector ch s1)
  if s.hif.state = .orphan then abandonOp ch false s2 else s2

/-- The occurrence of a channel's error (Table 15-2). -/
def chanOcc (ch code : Nat) (d : List Byte) (s : State) : Occ :=
  if code / 256 = 3 then
    { code := code, kind := 18, unit := ch, unit2 := poolCode (dLen d),
      d := [dDaddr d, dLen d, usedOf s ch, limitOf s ch] }
  else { code := code, kind := 6, unit := ch, d := [dHaddr d, dDaddr d, (chan s ch).next, dOp d] }

/-- Raise a channel error of the DMA engine or the pool unit and stop the channel. -/
def chanError (ch code : Nat) (d : List Byte) (s : State) : State :=
  chanStop ch code (raise (chanOcc ch code d s) s)

/-- Complete the current descriptor (R407 steps 4 and 5): STATUS and RESULT, then COUNT, then the vector. -/
def chanDone (ch : Nat) (d : List Byte) (s : State) : State :=
  let c := chan s ch
  let res := if dAlloc d then c.alloc else 0
  let s1 := hostWrite (descAddr c + 48) (zeros 8 ++ leBytes 8 res) s
  let s2 := modChan ch (fun c => { c with bytes := (c.bytes + dLen d) % 2 ^ 64 }) s1
  let s3 := chanAdvance ch s2
  if (chan s3 ch).count = 0 && c.irqen then vector ch s3 else s3

/-- A channel that may take descriptor `d` now: it runs, holds no descriptor, and COUNT is not zero (R404). -/
def chanTakes (ch : Nat) (s : State) : Bool :=
  let c := chan s ch
  up s && c.state == .run && c.cur.isNone && decide (0 < c.count) && !s.dma.buserr

/-- The checks before a channel moves any data (R405): the code of a failure. -/
def descCheck (ch : Nat) (d : List Byte) (s : State) : Option Nat :=
  if !descOk d then some 0x0203
  else if 1 ≤ dOp d ∧ dOp d ≤ 3 ∧ dAlloc d = false ∧ badDevRange (dDaddr d) (dLen d) then some 0x0204
  else if dFree d && !(s.pool.bufs.any (fun b =>
      decide (b.addr = dDaddr d ∧ b.owner = ch ∧ dLen d ≤ bufBytes b))) then some 0x0303
  else none

/-- The device address of a copy: the buffer taken under ALLOC, reused when it was already taken (R410). -/
def chanTake (ch : Nat) (d : List Byte) (s : State) : State × (Nat ⊕ Nat) :=
  if !dAlloc d then (s, .inl (dDaddr d))
  else if (chan s ch).alloc ≠ 0 then (s, .inl (chan s ch).alloc)
  else
    match poolTake ch (dLen d) (dDie d) s with
    | (t, .inl a) => (modChan ch (fun c => { c with alloc := a }) t, .inl a)
    | (t, .inr e) => (t, .inr e)

/-- A descriptor that copies or fills waits for its channel's window (R30, R395), and while a refresh instant or another's window keeps
its first access out (R390). DESIGN CHOICE (log 149): a descriptor's device-side accesses are one command, taken in the pad of their
first access. -/
def chanWaits (ch : Nat) (d : List Byte) (s : State) : Bool :=
  decide (1 ≤ dOp d ∧ dOp d ≤ 3) && (match (chanTake ch d s).2 with
    | .inl a => windowWaits ch a (dLen d) s || padKept (ch + 1) a s
    | .inr _ => false)

/-- Check a descriptor, then run `f` on the state with the descriptor current. -/
def chanRun (ch : Nat) (d : List Byte) (f : State → State) (s : State) : State :=
  if chanTakes ch s then
    match descCheck ch d s with
    | some code => chanError ch code d s
    | none => if chanWaits ch d s then s else f (modChan ch (fun c => { c with cur := some d, readback := false }) s)
  else s

/-- The read-back of a copy is pending (R407 step 2). -/
def chanReadback (ch : Nat) (s : State) : State := modChan ch (fun c => { c with readback := true }) s

/-- The accesses of a copy are issued, to be answered after `ticks` where they are of the channel's window (R395): 96 for its writes
and 160 for the read-back after them, 160 for its reads. -/
def chanIssue (ch a len ticks : Nat) (s : State) : State :=
  modChan ch (fun c => { c with readback := true, due := windowDue ch a len ticks s }) s

/-- H2D: the take, then the writes (R407). -/
def h2d (ch : Nat) (d data : List Byte) (s : State) : State :=
  match chanTake ch d s with
  | (t, .inl a) => chanIssue ch a (dLen d) 256 (lovStore a (slice data 0 (dLen d)) t)
  | (t, .inr e) => chanError ch e d t

/-- D2H: a poisoned block is a channel error (R388). -/
def d2h (ch : Nat) (d : List Byte) (s : State) : State :=
  match poisonAt s (dDaddr d) (dLen d) with
  | some a => chanError ch 0x0202 d (stkUe a s)
  | none => chanIssue ch (dDaddr d) (dLen d) 160 (hostWrite (dHaddr d) (lovRead s (dDaddr d) (dLen d)) (readDrawn (dDaddr d) s))

/-- The bytes that FILL writes: byte (A mod 8) of PATTERN at each address A (Table 12-5). -/
def fillBytes (d : List Byte) : List Byte :=
  (List.range (dLen d)).map (fun i => d.getD (32 + (dDaddr d + i) % 8) 0)

/-- WAIT: the channel waits as a WSO would (R405). -/
def dmaWaitOp (ch : Nat) (d : List Byte) (s : State) : State :=
  match syncWait (dObj d) (agentDma ch) (dCount d) s with
  | (t, some e) => chanStop ch e t
  | (t, none) => if (chan t ch).readback then t else modChan ch (fun c => { c with state := .wait }) t

/-- SIG: the signal is applied and the descriptor completes; a rejected signal is a channel error (R408), with 0x0404 too, which R408
does not name (DESIGN CHOICE, log 141). -/
def dmaSigOp (ch : Nat) (d : List Byte) (s : State) : State :=
  match signalLocal (dObj d) (dCount d) (agentDma ch) 0 s with
  | (t, some e) => chanStop ch e t
  | (t, none) => chanDone ch d t

/-- BARR: arrive and wait; with ARRIVED set, wait without arriving again (R410). -/
def dmaBarrOp (ch : Nat) (d : List Byte) (s : State) : State :=
  let o := dObj d
  let wait (t : State) : State :=
    if (chan t ch).readback then t else modChan ch (fun c => { c with state := .wait }) t
  if (chan s ch).arrived then
    if (bline s (obj s o).bl).arrived.contains (2048 + ch) then
      wait (modObj o (fun v => { v with waiters := v.waiters ++ [{ agent := agentDma ch, d := 0 }] }) s)
    else chanReadback ch s
  else
    match barrArrive o (agentDma ch) (modChan ch (fun c => { c with arrived := true }) s) with
    | (t, some e) => chanStop ch e (modChan ch (fun c => { c with arrived := false }) t)
    | (t, none) => wait t

/-- The read-back has returned, or the wait has been released: free, signal, STATUS, COUNT (R407). -/
def chanComplete (ch : Nat) (s : State) : State :=
  let c := chan s ch
  match c.cur with
  | none => s
  | some d =>
    if !c.readback || !up s || decide (croak s < c.due) then s
    else
      let a := if dAlloc d then c.alloc else dDaddr d
      let last := (a + dLen d - 1) / 64 * 64
      if (dOp d == 1 || dOp d == 3) && poisoned s last 64 then chanError ch 0x0202 d (stkUe last s)
      else
        let fr := if dFree d then poolFree' (dDaddr d) (· == ch) ch s else (s, true)
        let s1 := fr.1
        if !fr.2 then chanStop ch 0x0303 s1
        else if dSig d then
          match signalLocal (dObj d) (dCount d) (agentDma ch) 0 s1 with
          | (t, some e) => chanStop ch e t
          | (t, none) => chanDone ch d t
        else chanDone ch d s1

/-- The destination bytes of an interrupted copy are undefined: free values (R409, log 2). -/
def smudge (c : DmaCh) (s : State) : State :=
  match c.cur with
  | none => s
  | some d =>
    let a := if dAlloc d then c.alloc else dDaddr d
    if dOp d = 1 ∨ dOp d = 3 then lovStore a (freeBytes (dLen d) s) (drawn s)
    else if dOp d = 2 then hostWrite (dHaddr d) (freeBytes (dLen d) s) (drawn s) else s

/-- Stop a channel as for a bus error (R409). -/
def busStop (ch : Nat) (s : State) : State :=
  let c := chan s ch
  let s1 := unwaitAll (agentDma ch) (smudge c s)
  setChan ch { chan s1 ch with state := .busstop, code := 0x0201, cur := none, readback := false,
                               arrived := c.arrived } s1

/-- The DMA engine under R437 when the interface enters ORPHAN: stopped channels go IDLE at once, the others when
their current descriptor completes. -/
def dmaOrphan (s : State) : State :=
  (List.range 64).foldl (fun t ch =>
    let c := chan t ch
    if c.state = .error ∨ c.state = .busstop then
      modChan ch (fun c => { c with state := .idle, count := 0 }) (abandonOp ch false t)
    else t) s

/-- The DMA engine under a function-level reset (R424): no channel completes its current descriptor. -/
def dmaFlr (s : State) : State :=
  (List.range 64).foldl (fun t ch =>
    if (chan t ch).state = .idle then t
    else
      let t1 := if (chan t ch).state = .run ∨ (chan t ch).state = .wait then busStop ch t else t
      modChan ch (fun c => { c with state := .idle, count := 0 }) (abandonOp ch false t1)) s

/-! Register writes. -/

/-- LOG2SIZE of a DMA_RING value. The field has 4 bits and its values run to 16 (R404): 0 stands for 16 (DESIGN CHOICE, log 153). -/
def ringLog2 (w : Nat) : Nat := if bits w 3 0 = 0 then 16 else bits w 3 0

/-- A DMA_RING write (Table 12-9): only while the channel is IDLE; LOG2SIZE is 3 to 16. -/
def dmaRing (ch w : Nat) (s : State) : State :=
  if (chan s ch).state = .idle ∧ 3 ≤ ringLog2 w then
    modChan ch (fun c => { c with log2 := ringLog2 w, base := bits w 63 6 }) s
  else s

/-- A DMA_DOORBELL write (R404); ignored in ORPHAN (R437). -/
def dmaBell (ch w : Nat) (s : State) : State :=
  let c := chan s ch
  let n := bits w 16 0
  if s.hif.state = .orphan then s
  else if 2 ^ c.log2 < c.count + n then
    raise { code := 0x0206, kind := 6, unit := ch, d := [0, 0, c.next] } s
  else setChan ch { c with count := c.count + n,
                           state := if c.state = .idle ∧ 0 < c.count + n then .run else c.state } s

/-- DMA_CCTL.RESUME (R410). -/
def dmaResume (ch : Nat) (s : State) : State :=
  let c := chan s ch
  if s.dma.buserr || !(c.state == .error || c.state == .busstop) then s
  else setChan ch { c with state := if c.count = 0 then .idle else .run, cur := none, readback := false } s

/-- DMA_CCTL.ABANDON (R410). -/
def dmaAbandon (ch : Nat) (s : State) : State :=
  let c := chan s ch
  if s.dma.buserr || !(c.state == .error || c.state == .busstop) then s else abandonOp ch true s

/-- A DMA_CCTL write: IRQEN is stored; RESUME and ABANDON act. -/
def dmaCctl (ch w : Nat) (s : State) : State :=
  let s1 := modChan ch (fun c => { c with irqen := bitOf w 0 }) s
  let s2 := if bitOf w 1 then dmaResume ch s1 else s1
  if bitOf w 2 then dmaAbandon ch s2 else s2

/-- A POOL_FREE write: only a buffer that a DMA channel owns (R400). -/
def poolFreeWrite (w : Nat) (s : State) : State := (poolFree' (bits w 37 0) (fun o => decide (o < 64)) 0 s).1

/-- Effects of a command happen only while the chip runs. -/
def whenUp (f : State → State) (s : State) : Res := .next (if up s then f s else s)

/-! Meanings. -/

/-- POOL_FREE. -/
def execPoolFree (value : Word) (s : State) : Res := whenUp (poolFreeWrite value.toNat) s
/-- POOL_CARVE. -/
def execPoolCarve (die : Fin 2) (pool : Fin 7) (value : Word) (s : State) : Res :=
  whenUp (carveWrite (7 * die.val + pool.val) value.toNat) s
/-- DMA_RING_WRITE. -/
def execDmaRingWrite (ch : Fin 64) (value : Word) (s : State) : Res := whenUp (dmaRing ch.val value.toNat) s
/-- DMA_DOORBELL. -/
def execDmaDoorbell (ch : Fin 64) (value : Word) (s : State) : Res := whenUp (dmaBell ch.val value.toNat) s
/-- RESUME. -/
def execResume (ch : Fin 64) (s : State) : Res := whenUp (dmaResume ch.val) s
/-- ABANDON. -/
def execAbandon (ch : Fin 64) (s : State) : Res := whenUp (dmaAbandon ch.val) s
/-- DMA_NOP: a NOP descriptor completes; a descriptor of a reserved OP is rejected (R405). -/
def execDmaNop (ch : Fin 64) (desc : List Byte) (s : State) : Res :=
  .next (if dOp desc = 0 ∨ 7 ≤ dOp desc then chanRun ch.val desc (chanDone ch.val desc) s else s)
/-- DMA_H2D. -/
def execDmaH2d (ch : Fin 64) (desc data : List Byte) (s : State) : Res :=
  .next (if dOp desc = 1 then chanRun ch.val desc (h2d ch.val desc data) s else s)
/-- DMA_D2H. -/
def execDmaD2h (ch : Fin 64) (desc : List Byte) (s : State) : Res :=
  .next (if dOp desc = 2 then chanRun ch.val desc (d2h ch.val desc) s else s)
/-- DMA_FILL. -/
def execDmaFill (ch : Fin 64) (desc : List Byte) (s : State) : Res :=
  .next (if dOp desc = 3 then
    chanRun ch.val desc (fun t => chanIssue ch.val (dDaddr desc) (dLen desc) 256 (lovStore (dDaddr desc) (fillBytes desc) t)) s
   else s)
/-- DMA_WAIT. -/
def execDmaWait (ch : Fin 64) (desc : List Byte) (s : State) : Res :=
  .next (if dOp desc = 4 then chanRun ch.val desc (dmaWaitOp ch.val desc) s else s)
/-- DMA_SIG. -/
def execDmaSig (ch : Fin 64) (desc : List Byte) (s : State) : Res :=
  .next (if dOp desc = 5 then chanRun ch.val desc (dmaSigOp ch.val desc) s else s)
/-- DMA_BARR. -/
def execDmaBarr (ch : Fin 64) (desc : List Byte) (s : State) : Res :=
  .next (if dOp desc = 6 then chanRun ch.val desc (dmaBarrOp ch.val desc) s else s)
/-- DMA_COMPLETION. -/
def execDmaCompletion (ch : Fin 64) (s : State) : Res := .next (chanComplete ch.val s)
/-- DMA_BUS_ERROR (R409): every channel stops, and every channel that was not IDLE raises its vector; in ORPHAN the stopped
channels go IDLE at once (R437). -/
def execDmaBusError (haddr : Word) (s : State) : Res :=
  whenUp (fun s =>
    let busy := (List.range 64).filter (fun ch => !((chan s ch).state == .idle))
    let s1 := (List.range 64).foldl (fun t ch => busStop ch t) s
    let s2 := busy.foldl (fun t ch => vector ch t) s1
    let s3 := raise { code := 0x0201, kind := 6, d := [haddr.toNat] } { s2 with dma := { s2.dma with busaddr := haddr } }
    if s.hif.state = .orphan then dmaOrphan s3 else s3) s
/-- LIST_REBUILD_DONE (R402). -/
def execListRebuildDone (die : Fin 2) (pool : Fin 7) (s : State) : Res :=
  whenUp (fun s =>
    if tget false s.pool.rebuild (7 * die.val + pool.val) then listRebuild (7 * die.val + pool.val) s else s) s

end Sys2Proof.Machine
end

