-- ==== Sys2Proof/Machine/LineCode.lean ====
section
/-! DEFINITION. The codes of a lane (R348 to R353): CRC-16 of markers, CRC-32 of flits with stomp masks, RS(544,514)
over GF(2^10), and the scrambler. -/

namespace Sys2Proof.Machine

/-- `n` bits reversed. -/
def bitRev (n w : Nat) : Nat := ofBits ((bitList n w).map (fun i => n - 1 - i))

/-- MCRC of a marker (R350): polynomial 0x1021, initial value 0xFFFF, bits least significant first. The check's
highest power is its bit 0, so that the whole marker is sent least significant bit first (log 31). -/
def mcrc (bs : List Byte) : Nat := bitRev 16 (crcBits 16 0x1021 0xFFFF (bs.flatMap byteBitsLsb))

/-- The CRC-32 of IEEE 802.3 (R352). -/
def crc32 (bs : List Byte) : Nat :=
  bitRev 32 (crcBits 32 0x04C11DB7 0xFFFFFFFF (bs.flatMap byteBitsLsb)) ^^^ 0xFFFFFFFF

/-- The flit CRC of a slot's first 257 bytes with a stomp code (R353). -/
def flitCrc (bs : List Byte) (stomp : Nat) : Nat :=
  if stomp = 0 then crc32 bs else crc32 bs ^^^ (0x5A5A5A50 + stomp)

/-- A slot of 261 bytes: header, flit and CRC. -/
def slotOf (hdr : Nat) (flit : List Byte) (stomp : Nat) : List Byte :=
  let b := leBytes 1 hdr ++ slice flit 0 256
  b ++ leBytes 4 (flitCrc b stomp)

/-- The stomp code with which a slot's CRC matches, or none (R353): codes only on a cell with EOP. -/
def slotCode (b : List Byte) : Option Nat :=
  let good := crc32 (slice b 0 257)
  let crc := fieldAt b 257 4
  let hdr := fieldAt b 0 1
  if crc = good then some 0
  else if hdr % 8 = 1 ∧ bitOf hdr 3 then
    ((List.range 16).drop 1).find? (fun c => decide (crc = good ^^^ (0x5A5A5A50 + c)))
  else none

/-! RS(544,514): the field polynomial x^10 + x^3 + 1 and the generator with roots 2^0 to 2^29 of IEEE 802.3 Clause 119,
which the spec names and does not print (log 32). -/

/-- Multiply by x in GF(2^10). -/
def gfX (a : Nat) : Nat := let b := a * 2; if b < 1024 then b else b ^^^ 0x409

/-- Product in GF(2^10). -/
def gfMul (fuel a b : Nat) : Nat :=
  match fuel with
  | 0 => 0
  | fuel + 1 => (if b % 2 = 1 then a else 0) ^^^ gfMul fuel (gfX a) (b / 2)

/-- 2^i in GF(2^10). -/
def gfPow (i : Nat) : Nat := (List.range i).foldl (fun a _ => gfX a) 1

/-- Coefficients of the generator polynomial, highest power first, without the leading 1. -/
def rsGen : List Nat :=
  let mulRoot (g : List Nat) (r : Nat) : List Nat :=
    (g ++ [0]).zipWith (· ^^^ ·) (0 :: g.map (gfMul 10 r))
  ((List.range 30).foldl (fun g i => mulRoot g (gfPow i)) [1]).drop 1

/-- The 30 parity symbols of 514 message symbols. -/
def rsParity (msg : List Nat) : List Nat :=
  msg.foldl (fun r m =>
    let f := m ^^^ r.headD 0
    (r.drop 1 ++ [0]).zipWith (· ^^^ ·) (rsGen.map (gfMul 10 f))) (List.replicate 30 0)

/-- Group a list into lists of `n`. -/
def chunks {α : Type} (fuel n : Nat) (l : List α) : List (List α) :=
  match fuel with
  | 0 => []
  | fuel + 1 => if l.isEmpty then [] else l.take n :: chunks fuel n (l.drop n)

/-- The number whose bits, least significant first, are `bs`. -/
def bitsNat (bs : List Bool) : Nat := bs.foldr (fun b a => bnat b + 2 * a) 0

/-- The message symbols of a frame's 8,352 bytes and 4 zero bits. -/
def frameSymbols (msg : List Byte) : List Nat :=
  (chunks 6682 10 (msg.flatMap byteBitsLsb ++ List.replicate 4 false)).map bitsNat

/-- The 13 codewords. -/
def codewords (msg : List Byte) : List (List Nat) :=
  (chunks 13 514 (frameSymbols msg)).map (fun m => m ++ rsParity m)

/-- The coded bits of lane `n` before scrambling: symbol m of each codeword goes to lane m mod 4. -/
def laneBits (cws : List (List Nat)) (n : Nat) : List Bool :=
  cws.flatMap (fun c => ((c.zipIdx).filter (fun e => decide (e.2 % 4 = n))).flatMap
    (fun e => (List.range 10).map (fun i => bitOf e.1 i)))

/-- One bit of the generator x^31 + x^28 + 1 and its next state (R349). -/
def scramBit (st : Nat) : Bool × Nat :=
  let b := bitOf st 30 != bitOf st 27
  (b, st * 2 % 2 ^ 31 + bnat b)

/-- Scramble bits from a state. -/
def scramble (st : Nat) (bs : List Bool) : List Bool :=
  match bs with
  | [] => []
  | b :: r => let x := scramBit st; (b != x.1) :: scramble x.2 r

/-- State of the generator after a marker. -/
def scramInit (padnum lane : Nat) : Nat := 0x40000000 ||| (padnum % 65536 * 4) ||| lane

/-- The 2,240 bytes that a lane sends in one pad: its marker, then its scrambled coded part. -/
def laneBytes (marker : List Byte) (cws : List (List Nat)) (padnum n : Nat) : List Byte :=
  marker ++ (chunks 2210 8 (scramble (scramInit padnum n) (laneBits cws n))).map
    (fun b => BitVec.ofNat 8 (bitsNat b))

/-- PAM4 level of a pair of bits, the earlier one bit 0 of the symbol (R346). -/
def pamLevel (b0 b1 : Bool) : Nat :=
  match b1, b0 with
  | false, false => 0
  | false, true => 1
  | true, true => 2
  | true, false => 3

/-- The symbols that a lane sends for its bytes, least significant bit first (R346): four to a byte, without precoding. -/
def pamLevels (bs : List Byte) : List Nat :=
  bs.flatMap (fun b => (List.range 4).map (fun i => pamLevel (b.getLsbD (2 * i)) (b.getLsbD (2 * i + 1))))

/-- Alignment word of a lane (Table 11-3). -/
def alignWord (n : Nat) : Nat :=
  match n with
  | 0 => 0x3A5C96E10F2DB487 | 1 => 0x5C3AE1962D0F87B4 | 2 => 0xA3C5691EF0D24B78 | _ => 0xC5A31E69D2F0784B

end Sys2Proof.Machine
end

