-- ==== Sys2Proof/Machine/Packets.lean ====
section
/-! DEFINITION. Packet headers and tags as bytes (R357, Tables 4-4, 11-6, 11-7), streams (Table 11-4), ports (R253), and
the entry of packets into the switch core. -/

namespace Sys2Proof.Machine

/-- Cells of a packet (R254). -/
def cellsOf (n : Nat) : Nat := max 1 ((n + 255) / 256)

/-- Payload bytes of a packet, those still to arrive included: its header's length field. -/
def pktLen (p : Packet) : Nat := p.payload.length + p.left

/-- Cells of a packet (R254). -/
def pktCells (p : Packet) : Nat := cellsOf (pktLen p)

/-- Cells of a packet that have arrived. -/
def gotCells (p : Packet) : Nat := cellsOf p.payload.length

/-- A packet without its payload and what the chip keeps with it: two packets of one header are told apart by their numbers
only. -/
def hdrOf (p : Packet) : Packet := { p with payload := [], stomp := 0, left := 0, sid := 0, mirs := [], land := none }

/-- Stream of a class and virtual channel (Table 11-4). -/
def streamOf (cls vc : Nat) : Nat := if cls = 0 then 0 else if cls = 5 then 9 else 2 * cls - 1 + vc

/-- Class of a stream. -/
def streamCls (st : Nat) : Nat := if st = 9 then 5 else (st + 1) / 2

/-- Virtual channel of a stream. -/
def streamVc (st : Nat) : Nat := if st = 0 ∨ st = 9 then 0 else (st + 1) % 2

/-- TAGK of a tag. -/
def tagKind (t : Tag) : Nat :=
  match t with
  | .plain _ => 0 | .coll _ => 1 | .txn .. => 2 | .sync .. => 3

/-- The 32 header bytes of a packet whose payload has `len` bytes. -/
def headerBytes (p : Packet) (len : Nat) : List Byte :=
  leBytes 16 (pack [(22, p.dst), (1, bnat p.dchip), (1, bnat p.schip), (22, p.src), (13, len), (3, p.cls), (1, p.vc),
    (1, bnat p.seqv), (4, p.chan), (2, p.colour), (2, p.prio), (16, p.seq), (1, bnat p.first), (1, bnat p.last),
    (2, tagKind p.tag), (4, 0), (16, p.dunit), (16, p.sunit)]) ++ tagBytes p.tag

/-- The tag that 16 bytes of a kind hold, unless a reserved field is set. -/
def tagParse (k : Nat) (b : List Byte) : Option Tag :=
  match k with
  | 0 => if allZero (slice b 2 14) then some (.plain (fieldAt b 0 2)) else none
  | 1 =>
    if 13 ≤ fieldAt b 3 1 ∨ 8 ≤ fieldAt b 14 1 ∨ 2 ≤ fieldAt b 15 1 then none
    else some (.coll { coll := fieldAt b 0 3, kind := fieldAt b 3 1, tile := fieldAt b 4 4, rank := fieldAt b 8 4,
                       offset := fieldAt b 12 2, stage := fieldAt b 14 1, last := bitOf (fieldAt b 15 1) 0 })
  | 2 =>
    if 4096 < fieldAt b 4 2 ∨ 3 ≤ fieldAt b 6 1 then none
    else some (.txn (fieldAt b 0 4) (fieldAt b 4 2) (fieldAt b 6 1) (fieldAt b 7 1) (fieldAt b 8 8))
  | _ => if allZero (slice b 2 6) && decide (fieldAt b 0 2 < 8192) then some (.sync (fieldAt b 0 2) (fieldAt b 8 8))
         else none

/-- The packet and payload length of a header, unless it carries a reserved encoding (R360). -/
def headerParse (b : List Byte) : Option (Packet × Nat) :=
  let w := fieldAt b 0 16
  let len := bits w 58 46
  let cls := bits w 61 59
  if len = 0 ∨ 4096 < len ∨ 6 ≤ cls ∨ bits w 95 92 ≠ 0 ∨ bits w 111 96 / 8192 ≥ 5 ∨ bits w 127 112 / 8192 ≥ 5 ∨
      (cls ≠ 3 ∧ bits w 71 70 ≠ 0) ∨ ((cls = 0 ∨ cls = 5) ∧ bitOf w 62) ∨ (cls = 5 ∧ bits w 87 83 ≠ 0) ∨
      (bitOf w 63 ≠ decide (1 ≤ cls ∧ cls ≤ 3) ∧ cls ≠ 4) then none
  else
    (tagParse (bits w 91 90) (slice b 16 16)).map (fun t =>
      ({ dst := bits w 21 0, dchip := bitOf w 22, schip := bitOf w 23, src := bits w 45 24, cls := cls,
         vc := bits w 62 62, seqv := bitOf w 63, chan := bits w 67 64, colour := bits w 69 68, prio := bits w 71 70,
         seq := bits w 87 72, first := bitOf w 88, last := bitOf w 89, tag := t, dunit := bits w 111 96,
         sunit := bits w 127 112 }, len))

/-- Unit id of a newt. -/
def unitNewt (n : Nat) : Nat := 0x2000 + n
/-- Unit id of a quad. -/
def unitQuad (q : Nat) : Nat := 0x8000 + q

/-- The collective tag of a packet. -/
def collTag (p : Packet) : Option CollTag :=
  match p.tag with
  | .coll t => some t
  | _ => none

/-! Ports (R253). -/

/-- Port index of a quad: its endpoint port, or 128 plus its direction. -/
def quadPort (v : Quad) : Option Nat :=
  if v.use = 7 then some v.port else if 1 ≤ v.use ∧ v.use ≤ 6 then some (127 + v.use) else none

/-- Quads of a port, ascending. -/
def portQuads (s : State) (p : Nat) : List Nat :=
  (List.range 128).filter (fun q => decide (quadPort (quad s q) = some p))

/-- UP quads of a port, ascending (R293). -/
def portUpQuads (s : State) (p : Nat) : List Nat := (portQuads s p).filter (fun q => (quad s q).state == .up)

/-- Endpoint ports that LINKDIV makes on this chip. -/
def endpointPort (s : State) (p : Nat) : Bool :=
  (List.range 128).any (fun q => decide ((quad s q).use = 7 ∧ (quad s q).port = p))

/-- Whether a port exists. -/
def portExists (s : State) (p : Nat) : Bool := !(portQuads s p).isEmpty

/-- Whether a port is up. -/
def portUp (s : State) (p : Nat) : Bool := !(portUpQuads s p).isEmpty

/-- Home die of a port: the die of its lowest-numbered quad. -/
def homeDie (s : State) (p : Nat) : Nat := (portQuads s p).headD 0 / 64

/-- The quad of a port that a packet leaves on (R257). -/
def packetQuad (s : State) (port : Nat) (p : Packet) : Option Nat :=
  let qs := portUpQuads s port
  let sum := axisOf p.src 0 + axisOf p.src 1 + axisOf p.src 2 + p.src / 2 ^ 15 + (if p.cls = 5 then 0 else p.chan)
  if qs.isEmpty then none else qs[sum % qs.length]?

/-- Chip part of an address. -/
def chipOf (a : Nat) : Nat := a % 2 ^ 15

/-- Endpoint port part of an address. -/
def portOf (a : Nat) : Nat := a / 2 ^ 15

/-- Whether a packet's destination is on this chip. -/
def dstHere (s : State) (p : Packet) : Bool := chipOf p.dst == s.rte.coord

/-- Add to a discard counter of Table 8-7. -/
def discard (r : Nat) (s : State) : State :=
  { s with swc := { s.swc with disc := s.swc.disc.set r ((s.swc.disc.getD r 0 + 1) % 2 ^ 64) } }

/-- DATA0 of a packet's record: DST in [21:0] and SRC in [53:32] (Table 15-2). -/
def pktData (p : Packet) : Nat := p.dst + 2 ^ 32 * p.src

/-- Whether the drain in effect names a class (R312). -/
def drains (s : State) (cls : Nat) : Bool := bitOf s.rte.drain.classes (cls - 1) && decide (1 ≤ cls)

/-- A management message to another chip, an endpoint or a flow's source (MTYPE of Table 11-14). A drain that names MGMT holds it
until its release (R312). -/
def mgmt (msg : String) (dst : Nat) (vals : List Nat) (s : State) : State :=
  if drains s 4 then { s with rte := { s.rte with mgmtHeld := s.rte.mgmtHeld ++ [(msg, dst, vals)] } }
  else emit (.mgmt msg dst vals) s

end Sys2Proof.Machine
end

