-- ==== Sys2Proof/Machine/Buffers.lean ====
section
/-! DEFINITION. Buffers of the switch core (R253 to R280): the partition of BUFPART, queues and their accounts, credits, the
cells of packets that are still arriving, and stomps (R259, R260). -/

namespace Sys2Proof.Machine

/-- Change the switch core. -/
def modSwc (f : Swc → Swc) (s : State) : State := { s with swc := f s.swc }

/-! BUFPART (Tables 8-4, 8-5). -/

/-- Port record of a port. -/
def bufRec (s : State) (port : Nat) : List Byte :=
  (((List.range (fieldAt s.swc.bufpart 18 2)).map (fun i => slice s.swc.bufpart (64 + 32 * i) 32)).find?
    (fun r => decide (fieldAt r 0 2 = port))).getD (zeros 32)
/-- GMIN of a queue. -/
def gminOf (s : State) (port cls vc : Nat) : Nat := fieldAt (bufRec s port) (2 + 2 * streamOf cls vc) 2
/-- RSP_RES of a port. -/
def rspRes (s : State) (port : Nat) : Nat := fieldAt (bufRec s port) 2 2
/-- COPY_MAX of a die. -/
def copyMax (s : State) (die : Nat) : Nat := fieldAt s.swc.bufpart (8 + 4 * die) 4
/-- ALPHA. -/
def alphaOf (s : State) : Nat := fieldAt s.swc.bufpart 2 1
/-- Overflow cells per die. -/
def ovfSize (s : State) : Nat := 2 ^ 21 * fieldAt s.swc.bufpart 0 1
/-- Ports with a home die. -/
def diePorts (s : State) (die : Nat) : List Nat :=
  (List.range 134).filter (fun p => portExists s p && homeDie s p == die)
/-- SHARED of a die (R277). -/
def sharedSize (s : State) (die : Nat) : Nat :=
  393216 - ((diePorts s die).map (fun p => rspRes s p +
    ((List.range 8).map (fun i => fieldAt (bufRec s p) (4 + 2 * i) 2)).sum)).sum - copyMax s die

/-! Queues. -/

/-- Cells of packets. -/
def cellSum (hs : List Held) : Nat := (hs.map (·.cells)).sum
/-- The originals queued on a port for a class and virtual channel, oldest first. -/
def queueOf (s : State) (port cls vc : Nat) : List Held :=
  s.swc.queues.filter (fun h => h.outPort == port && h.pkt.cls == cls && h.vc == vc)
/-- Cells of a die in an account. -/
def dieCells (s : State) (die acct : Nat) : Nat :=
  cellSum (s.swc.queues.filter (fun h => h.acct == acct && homeDie s h.outPort == die))
/-- Overflow buffers of a die. -/
def ovfBufs (s : State) (die : Nat) : List Buf := s.pool.bufs.filter (fun b => decide (b.owner = 0x900 + die))
/-- Cells of a queue in an account. -/
def acctCells (s : State) (port cls vc acct : Nat) : Nat :=
  cellSum ((queueOf s port cls vc).filter (fun h => h.acct == acct))

/-- Raise each high-water mark to the present use. -/
def noteHigh (port cls : Nat) (s : State) : State :=
  let d := homeDie s port
  let hs := s.swc.queues.filter (fun h => h.outPort == port && h.pkt.cls == cls)
  let up (l : List Nat) (v : Nat) : List Nat := l.set d (max (l.getD d 0) v)
  modSwc (fun w => { w with
    sharedHigh := up w.sharedHigh (dieCells s d 2)
    ovfHigh := up w.ovfHigh (ovfBufs s d).length
    copyHigh := up w.copyHigh (dieCells s d 4)
    ctr := tmod {} w.ctr (8 * port + cls) (fun c => { c with
      highOn := max c.highOn (cellSum (hs.filter (fun h => h.acct ≠ 3)))
      highOvf := max c.highOvf (cellSum (hs.filter (fun h => h.acct == 3))) }) }) s

/-- The on-die account that takes `n` cells for a queue: GMIN, then the shared pool under R264. -/
def onDieAcct (s : State) (port cls vc n : Nat) : Option Nat :=
  let d := homeDie s port
  let free := sharedSize s d - dieCells s d 2
  if acctCells s port cls vc 1 + n ≤ gminOf s port cls vc then some 1
  else if n ≤ free ∧ 16 * (acctCells s port cls vc 2 + n) ≤ 2 ^ alphaOf s * free then some 2
  else none

/-- A place of `n` cells in the overflow buffers that a die holds: the first buffer with room after its last packet. -/
def ovfPlace (s : State) (die n : Nat) : Option Nat :=
  ((ovfBufs s die).map (fun b =>
    let last := (s.swc.queues.filter (fun h => h.acct == 3 && b.addr ≤ h.loc && h.loc < b.addr + 65536)).map
      (fun h => h.loc + 256 * h.cells)
    (b, last.foldl max b.addr))).findSome?
      (fun e => if e.2 + 256 * n ≤ e.1.addr + 65536 then some e.2 else none)

/-- Room for `n` cells in a die's overflow region, taking a buffer from the 64 KiB pool where one is needed. -/
def ovfTake (die n : Nat) (s : State) : State × Option Nat :=
  match ovfPlace s die n with
  | some a => (s, some a)
  | none =>
    match poolTake (0x900 + die) 65536 die s with
    | (t, .inl a) => (t, some a)
    | (t, .inr _) => (t, none)

/-- Give back the overflow buffers that hold no packet, and note when use has fallen below 90 % of SIZE (R270, R279). -/
def ovfTrim (die : Nat) (s : State) : State :=
  let empty := (ovfBufs s die).filter (fun b =>
    !s.swc.queues.any (fun h => h.acct == 3 && b.addr ≤ h.loc && h.loc < b.addr + 65536))
  let s1 := empty.foldl (fun t b => bufFree b t) s
  if 10 * dieCells s1 die 3 < 9 * ovfSize s1 then
    modSwc (fun w => { w with ovfFullSeen := w.ovfFullSeen.set die false }) s1 else s1

/-- A packet enters a queue. -/
def enqueue (port vc acct loc : Nat) (p : Packet) (s : State) : State :=
  noteHigh port p.cls (modSwc (fun w => { w with queues := w.queues ++
    [{ pkt := { p with vc := vc }, outPort := port, vc := vc, cells := pktCells p, acct := acct, loc := loc }] }) s)

/-! Drains at the ingress (R312). -/

/-- Whether the drain withholds the credit of a quad for a class. -/
def withholds (s : State) (q cls : Nat) : Bool :=
  drains s cls && (s.rte.drain.scope == 0 || (quad s q).use == 7)

/-- Credits of a stream of a quad. -/
def credOf (v : Quad) (st : Nat) : Cred := v.creds.getD (st - 1) {}

/-- The quad with the credits of a stream changed. -/
def modCred (st : Nat) (f : Cred → Cred) (v : Quad) : Quad :=
  { v with creds := (List.range 9).map (fun i =>
      if i + 1 = st then f (credOf v (i + 1)) else credOf v (i + 1)) }

/-- Return the credit of `n` freed cells (R364), unless a drain withholds it. -/
def returnCredit (src st n : Nat) (s : State) : State :=
  if 128 ≤ src then s
  else if withholds s src (streamCls st) then modQuad src (modCred st (fun c => { c with owed := c.owed + n })) s
  else modQuad src (modCred st (fun c => { c with adv := (c.adv + n) % 65536 })) s

/-- The end of a drain returns every withheld credit. -/
def releaseOwed (s : State) : State :=
  { s with quads := s.quads.map (fun e => (e.1, { e.2 with
      creds := e.2.creds.map (fun c => { c with adv := (c.adv + c.owed) % 65536, owed := 0 }) })) }

/-! Counters. -/

/-- Change the counters of a port and class. -/
def modCtr (port cls : Nat) (f : PortCtr → PortCtr) (s : State) : State :=
  modSwc (fun w => { w with ctr := tmod {} w.ctr (8 * port + cls) f }) s

/-- Change mirror session `i`. -/
def modMirror (i : Nat) (f : Mirror → Mirror) (s : State) : State :=
  modSwc (fun w => { w with mirrors := tset {} w.mirrors i (f (tget {} w.mirrors i)) }) s

/-! Ingress. -/

/-- The packet at the head of an ingress FIFO. -/
def ingressHead (s : State) (src st : Nat) : Option Waiting :=
  s.swc.ingress.find? (fun w => w.src == src && w.inStream == st)

/-- Remove the head of an ingress FIFO and return its credit. -/
def ingressPop (src st : Nat) (s : State) : State :=
  match ingressHead s src st with
  | none => s
  | some w =>
    returnCredit src st (gotCells w.pkt)
      (modSwc (fun v => { v with ingress := v.ingress.eraseP (fun x => x.src == src && x.inStream == st) }) s)

/-- Replace the first queued packet equal to `h`. -/
def modHeld (h : Held) (f : Held → Held) (s : State) : State :=
  modSwc (fun w => { w with queues := w.queues.set (w.queues.idxOf h) (f h) }) s

/-! Cells (R256, R257). A packet enters as its first cell arrives, and its later cells join it wherever it stands (log 130). -/

/-- A cell's slot on a stream without its CRC. -/
def cellSlot (st : Nat) (last : Bool) (data : List Byte) : List Byte :=
  leBytes 1 (1 + 8 * bnat last + 16 * st) ++ slice data 0 256

/-- Slots of a packet without their CRC: its header flit, then those of its cells that have arrived, with their slot headers. -/
def packetSlots (st : Nat) (p : Packet) : List (List Byte) :=
  let n := gotCells p
  (leBytes 1 0x12 ++ leBytes 1 1 ++ leBytes 1 0xFF ++ zeros 30 ++ headerBytes p (pktLen p) ++ zeros 192) ::
    (List.range n).map (fun i => cellSlot st (i + 1 == n && p.left == 0) (slice p.payload (256 * i) 256))

/-- A packet with one more of its cells, the last to come when `last` is set. -/
def growPkt (b : List Byte) (last : Bool) (p : Packet) : Packet :=
  { p with payload := p.payload ++ b.take p.left, left := if last then 0 else p.left - 256 }

/-- Whether packet number `k` waits for cells. -/
def awaits (k : Nat) (p : Packet) : Bool := p.sid == k && decide (0 < p.left)

/-- A queued packet takes a cell: in overflow it goes to Lovor memory, and a packet that has begun to leave sends it on. -/
def growHeld (b : List Byte) (last : Bool) (h : Held) (s : State) : State :=
  let p := growPkt b last h.pkt
  let s1 := modHeld h (fun h => { h with pkt := p }) s
  let s2 := if h.acct = 3 then lovStore (h.loc + h.pkt.payload.length) (b.take h.pkt.left) s1 else s1
  let st := streamOf h.pkt.cls h.vc
  if h.started then modQuad h.quad (fun v => { v with
    txQueue := v.txQueue ++ [(st, cellSlot st (p.left == 0) (b.take h.pkt.left))] }) s2 else s2

/-- One more cell of packet number `k` joins it in the queues, and the copies of it too, in the order in which cells come (DESIGN CHOICE, log
165). -/
def cellJoins (k : Nat) (b : List Byte) (last : Bool) (s : State) : State :=
  (s.swc.queues.filter (fun h => awaits k h.pkt)).foldl (fun t h => growHeld b last h t) s

/-- One more cell of packet number `k`, which arrives on quad `q`, joins it. -/
def cellIn (q k : Nat) (b : List Byte) (last : Bool) (s : State) : State :=
  let s1 := cellJoins k b last s
  let grow (p : Packet) : Packet := if awaits k p then growPkt b last p else p
  modQuad q (fun v => { v with arrivedPkts := v.arrivedPkts.map grow })
    (modSwc (fun w => { w with ingress := w.ingress.map (fun x => { x with pkt := grow x.pkt }) }) s1)

/-- Whether packet number `k` still waits at its ingress quad, so that its cells are not freed. -/
def atIngress (s : State) (q k : Nat) : Bool :=
  s.swc.ingress.any (fun w => w.pkt.sid == k) || (quad s q).arrivedPkts.any (fun p => p.sid == k)

/-- The number of the next packet. -/
def numbered (p : Packet) (s : State) : State × Packet :=
  if p.sid ≠ 0 then (s, p) else (modSwc (fun w => { w with nextId := w.nextId + 1 }) s, { p with sid := s.swc.nextId })

/-! Stomps (R259, R260). -/

/-- Whether the disabled-unit map leaves buffer segment `g` enabled (Table 1-4). -/
def segEnabled (s : State) (g : Nat) : Bool :=
  !((tget 0 s.unit.fused (32 + g / 64) ||| tget 0 s.unit.excl (32 + g / 64)).getLsbD (g % 64))

/-- The buffer segments of a die's packet buffer: its 96 lowest-numbered enabled ones (R34). -/
def bufferSegs (s : State) (die : Nat) : List Nat :=
  (((List.range 104).map (fun i => 104 * die + i)).filter (segEnabled s)).take 96

/-- Count a packet that leaves its port stomped (R260, Table 8-8). -/
def stompPassed (port cls : Nat) (s : State) : State :=
  discard 1 (modCtr port cls (fun c => { c with stompTx := (c.stompTx + 1) % 2 ^ 32 }) s)

/-- Packets of the numbers from `k` to `k + n - 1` are stomped: this chip's copies of them that have begun to leave carry the code, and the
others are discarded (R275). -/
def stompCopiesOf (k n code : Nat) (s : State) : State :=
  (s.swc.queues.filter (fun h => h.own && decide (k ≤ h.pkt.sid ∧ h.pkt.sid < k + n) && h.pkt.stomp == 0)).foldl (fun t h =>
    if h.started then stompPassed h.outPort 5 (modHeld h (fun h => { h with pkt := { h.pkt with stomp := code } }) t)
    else discard 0 (modSwc (fun w => { w with queues := w.queues.erase h }) t)) s

/-- A packet that is stomped stomps the copies that this chip has made of it (R275). -/
def stompCopies (p : Packet) (code : Nat) (s : State) : State := stompCopiesOf p.sid 1 code s

/-- The error codes of a stomp on this chip (Table 8-10): a buffer error names the segment that failed. -/
def stompErr (h : Held) (code seg : Nat) (s : State) : State :=
  let src (c : Nat) : Occ :=
    { code := c, kind := 3, unit := h.outPort, unit2 := h.pkt.cls + 8 * h.vc, d := [code, h.loc, pktData h.pkt] }
  let s1 := if code ≠ 3 then s
    else if h.acct = 3 then raise { src 0x0503 with kind := 5, unit := h.loc / 2 ^ 36 } s
    else raise { src 0x0502 with kind := 14, unit := seg } s
  raise (src 0x0501) s1

/-- A queued packet is dropped unsent, or leaves with a stomp code in its last cell; the first code stands. Its copies go with it; a copy
that is stomped leaves its original and the other copies as they are. -/
def stompQueued (h : Held) (code : Nat) (s : State) : State :=
  (if h.own then id else stompCopies h.pkt code)
    (if h.started then
      (if h.pkt.stomp ≠ 0 then s
       else stompPassed h.outPort h.pkt.cls (modHeld h (fun h => { h with pkt := { h.pkt with stomp := code } }) s))
    else ovfTrim (homeDie s h.outPort) (discard 0 (modSwc (fun w => { w with queues := w.queues.erase h }) s)))

/-- STOMP of a held packet on this chip. -/
def stompOne (h : Held) (code seg : Nat) (s : State) : State := stompQueued h code (stompErr h code seg s)

/-- Remove a waiting packet wherever it stands in its ingress FIFO, and return its credit. -/
def ingressDrop (w : Waiting) (s : State) : State :=
  returnCredit w.src w.inStream (gotCells w.pkt) (modSwc (fun v => { v with ingress := v.ingress.erase w }) s)

/-- Whether a packet carries the tag of a collective. -/
def ofColl (c : Nat) (p : Packet) : Bool := (collTag p).any (fun t => t.coll == c)

end Sys2Proof.Machine
end

