-- ==== Sys2Proof/Machine/NewtBase.lean ====
section
/-! DEFINITION. Parts of a newt that every family uses (03_newts.md): pond access, instruction fields (Tables 3-4 to
3-8), ranges, the loop state, and stopping by an abort (R94) or the end of a program (R403). -/

namespace Sys2Proof.Machine

/-! Pond (R85). -/

/-- First byte of the escape window. -/
def escBase : Nat := 0x7C000

/-- `n` pond bytes. -/
def pondRead (v : Newt) (a n : Nat) : List Byte := memRead v.pond a n
/-- A little-endian pond field. -/
def pondNat (v : Newt) (a n : Nat) : Nat := leNat (pondRead v a n)
/-- Write pond bytes. -/
def pondWrite (a : Nat) (bs : List Byte) (v : Newt) : Newt := { v with pond := memWrite v.pond a bs }
/-- Bytes of the program region. -/
def progBytes (v : Newt) : Nat := 4096 * v.progSize
/-- Whether a range lies in the general region (R85). -/
def inGeneral (v : Newt) (r : Nat × Nat) : Bool :=
  r.2 == 0 || decide (progBytes v ≤ r.1 ∧ r.1 + r.2 ≤ escBase)
/-- Whether two ranges (address, length) meet at 64-byte granularity (R89, R90). -/
def rangesMeet (a b : Nat × Nat) : Bool :=
  decide (0 < a.2 ∧ 0 < b.2 ∧ a.1 / 64 ≤ (b.1 + b.2 - 1) / 64 ∧ b.1 / 64 ≤ (a.1 + a.2 - 1) / 64)

/-! Instruction fields. -/

/-- OPC. -/
def iOpc (w : Nat) : Nat := bits w 63 58
/-- RPI. -/
def iRpi (w : Nat) : Nat := bits w 57 50
/-- ACW. -/
def iAcw (w : Nat) : Nat := bits w 49 34
/-- OB. -/
def iOb (w : Nat) : Nat := bits w 33 21
/-- ACC. -/
def iAcc (w : Nat) : Bool := bitOf w 20
/-- HOLD. -/
def iHold (w : Nat) : Bool := bitOf w 19
/-- TMO of format W. -/
def iTmo (w : Nat) : Nat := bits w 57 48
/-- PG. -/
def iPg (w : Nat) : Nat := bits w 47 36
/-- N. -/
def iN (w : Nat) : Nat := bits w 31 16
/-- IDX. -/
def iIdx (w : Nat) : Nat := bits w 12 0
/-- ARG. -/
def iArg (w : Nat) : Nat := bits w 31 0
/-- OBSTEP. -/
def iStep (w : Nat) : Nat := bits w 57 45
/-- LEN of LOOP. -/
def iLen (w : Nat) : Nat := bits w 44 32
/-- COUNT. -/
def iCount (w : Nat) : Nat := bits w 31 0
/-- RB. -/
def iRb (w : Nat) : Nat := bits w 57 52
/-- NR. -/
def iNr (w : Nat) : Nat := bits w 51 45
/-- ADDR of format X in bytes. -/
def iAddr (w : Nat) : Nat := 32 * bits w 44 31

/-- The instruction at an index of the program region. -/
def wordAt (v : Newt) (pc : Nat) : Nat := pondNat v (8 * pc) 8
/-- Instructions that the program region holds. -/
def progLen (v : Newt) : Nat := 512 * v.progSize
/-- The newt issues instructions: state RUN or STALL, with no abort in effect. -/
def issuing (v : Newt) : Bool := (v.state == .run || v.state == .stall) && !v.abortPend
/-- An instruction is at the head at croak count `now`: its predecessor issued in an earlier cycle (R90). -/
def mayIssue (now : Nat) (v : Newt) : Bool := issuing v && v.issuedAt != some now
/-- Every earlier instruction has completed; a signal not yet applied does not count. -/
def allDone (v : Newt) : Bool := v.inflight.all (fun i => i.sigObj.isSome)
/-- Operand block address, moved by OBSTEP in every enclosing loop (R98, R99). -/
def obAddr (v : Newt) (w : Nat) : Nat := 64 * (iOb w + (v.loops.map (fun l => l.iter * l.obstep)).sum)

/-- Whether an instruction names an operand block. -/
def hasBlock (opc : Nat) : Bool := opc == 0x10 || opc == 0x11 || opc == 0x18 || opc == 0x19 || opc == 0x1A

/-- COLL of the operand block of a RED, CTR, EPI or SEND, or the id of a CMT. -/
def wordColl (v : Newt) (w ob : Nat) : Nat :=
  match iOpc w with
  | 0x0C => bits w 23 0
  | 0x10 => pondNat v (ob + 12) 3
  | 0x18 => pondNat v (ob + 20) 3
  | 0x19 => pondNat v (ob + 40) 3
  | 0x1A => pondNat v (ob + 20) 3
  | _ => v.coll

/-- Whether the program of a newt holds the CMT of collective `c`. -/
def commits (v : Newt) (c : Nat) : Bool :=
  (List.range (progLen v)).any (fun i => let w := wordAt v i; iOpc w == 0x0C && iArg w == c)

/-! Stopping. -/

/-- The newt's program has ended: every buffer it holds is freed (R403) and its escape records go. -/
def programEnds (n : Nat) (s : State) : State :=
  modNewt n (fun v => { v with escapes := [], partAt := [] }) (freeOwned (0x100 + n) s)

/-- The abort delivered to a newt takes effect once its issued instructions have completed (R94). -/
def abortFinish (n : Nat) (s : State) : State :=
  let v := newt s n
  if v.abortPend && v.inflight.isEmpty then
    programEnds n (setNewt n { v with abortPend := false, state := .done, aborted := true, stall := 0 } s)
  else s

/-- An abort is delivered to a newt (R94): it stops issuing, and a stalled head is abandoned with its wait (R167). A
newt that has stopped on an error stays in ERROR. A scheduled newt whose job has not yet started it has nothing issued, and is
DONE at once. -/
def abortNewt (n : Nat) (s : State) : State :=
  let v := newt s n
  if v.state = .error then setNewt n { v with aborted := true } s
  else if v.state = .run ∨ v.state = .stall ∨ v.state = .paused then
    abortFinish n (unwaitAll n
      (setNewt n { v with abortPend := true, registered := false, waitPassed := false } s))
  else if v.state = .idle ∧ v.role = .scheduled ∧ s.sch.job.isSome then setNewt n { v with state := .done, aborted := true } s
  else s

/-- Whether an abort delivered now stops the newt: it issues, or its job has not yet started it. -/
def stoppable (s : State) (n : Nat) : Bool :=
  let v := newt s n
  ((v.state == .run || v.state == .stall || v.state == .paused) && !v.abortPend) ||
    (v.state == .idle && v.role == .scheduled && s.sch.job.isSome)

/-- The errors of the cycle at croak count `now` after one more: their number, and the one with the lowest PC (R93). -/
def cycErr (now code pc : Nat) (v : Newt) : ErrCycle :=
  match v.errCyc with
  | some k =>
    if k.tick ≠ now then { tick := now, n := 1, code := code, pc := pc }
    else if pc < k.pc then { tick := now, n := k.n + 1, code := code, pc := pc } else { k with n := k.n + 1 }
  | none => { tick := now, n := 1, code := code, pc := pc }

/-- NWT_ERR after one more error, at croak count `now` (Table 3-16): the first one stands, or of those of its cycle the one
with the lowest PC (R93). -/
def errRecord (now code pc : Nat) (v : Newt) : Newt :=
  let k := cycErr now code pc v
  if !v.err then { v with err := true, errCode := code, errPc := pc, errAt := now, errCyc := some k }
  else if v.errAt = now ∧ pc < v.errPc then { v with more := satAdd 255 v.more 1, errCode := code, errPc := pc, errCyc := some k }
  else { v with more := satAdd 255 v.more 1, errCyc := some k }

/-- A write of 1 to NWT_ERR.ERR at croak count `now` clears ERR, CODE, EPC and MORE (Table 3-16); the errors of this cycle set them
afresh (R11). -/
def errClear (now : Nat) (v : Newt) : Newt :=
  match v.errCyc with
  | some k =>
    if k.tick = now ∧ v.err then
      { v with errCode := k.code, errPc := k.pc, errAt := now, more := min v.more (k.n - 1) }
    else { v with err := false, errCode := 0, errPc := 0, more := 0 }
  | none => { v with err := false, errCode := 0, errPc := 0, more := 0 }

end Sys2Proof.Machine
end

