-- ==== Sys2Proof/Machine/Plan.lean ====
section
/-! DEFINITION. The schedule tables of the active image: PADGRP (R231) and PADS (R233), and what they say about one job
pad. -/

namespace Sys2Proof.Machine

/-! PADGRP. -/

/-- H. -/
def pgH (s : State) : Nat := fieldAt s.lay.padgrp 0 1
/-- SLIPQ. -/
def pgSlipq (s : State) : Nat := fieldAt s.lay.padgrp 2 2
/-- NGROUP. -/
def pgGroups (s : State) : Nat := fieldAt s.lay.padgrp 4 4
/-- NEPOCH. -/
def pgEpochs (s : State) : Nat := fieldAt s.lay.padgrp 8 4
/-- Length of an epoch at a level, in job pads. -/
def epochLen (s : State) (e level : Nat) : Nat := fieldAt s.lay.padgrp (16 + 12 * e + 4 * level) 4
/-- Offset of group record `g`. -/
def pgOff (s : State) (g : Nat) : Nat := 16 + 12 * pgEpochs s + 32 * g
/-- EPOCH of a group. -/
def pgEpoch (s : State) (g : Nat) : Nat := fieldAt s.lay.padgrp (pgOff s g) 4
/-- COUNT of a group. -/
def pgCount (s : State) (g : Nat) : Nat := fieldAt s.lay.padgrp (pgOff s g + 4) 4
/-- SLACK of a group. -/
def pgSlack (s : State) (g : Nat) : Nat := fieldAt s.lay.padgrp (pgOff s g + 8) 1
/-- FIRST_DUE of a group at a level. -/
def pgFirst (s : State) (g level : Nat) : Nat := fieldAt s.lay.padgrp (pgOff s g + 12 + 6 * level) 4
/-- PERIOD of a group at a level. -/
def pgPeriod (s : State) (g level : Nat) : Nat := fieldAt s.lay.padgrp (pgOff s g + 16 + 6 * level) 2
/-- W of a group on a chip index. -/
def pgW (s : State) (g i : Nat) : Nat :=
  fieldAt s.lay.padgrp (16 + 12 * pgEpochs s + 32 * pgGroups s + 2 * (g * s.lay.nspan + i)) 2
/-- Tile contexts declared for a chip index. -/
def pgContexts (s : State) (i : Nat) : Nat :=
  fieldAt s.lay.padgrp (16 + 12 * pgEpochs s + 32 * pgGroups s + roundUp4 (2 * pgGroups s * s.lay.nspan) + 4 * i) 4
where
  roundUp4 (n : Nat) : Nat := (n + 3) / 4 * 4
/-- DUE(g, k) as a job pad (R198), from the start of the group's epoch. -/
def dueFrom (s : State) (g k level : Nat) : Nat := pgFirst s g level + k * pgPeriod s g level
/-- The instances of a group whose call point is a job pad of the current epoch. -/
def callAt (s : State) (g j : Nat) : List Nat :=
  (List.range (pgCount s g)).filter (fun k =>
    s.sch.epochStart + dueFrom s g k s.sch.level + pgSlack s g == j + pgH s)

/-! PADS. -/

/-- The PADS body of the current level. -/
def padsBody (s : State) : List Byte := s.lay.pads.getD s.sch.level []
/-- Route records of a PADS body. -/
def padsRecs (b : List Byte) : List (List Byte) := (List.range (fieldAt b 4 4)).map (fun i => slice b (32 + 32 * i) 32)
/-- Route record `i` of the current level. -/
def padRec (s : State) (i : Nat) : List Byte := slice (padsBody s) (32 + 32 * i) 32
/-- ROUTE. -/
def rtNum (r : List Byte) : Nat := fieldAt r 0 2
/-- SKIND. -/
def rtSkind (r : List Byte) : Nat := fieldAt r 2 1
/-- NHOP. -/
def rtHops (r : List Byte) : Nat := fieldAt r 3 1
/-- SRC. -/
def rtSrc (r : List Byte) : Nat := fieldAt r 4 2
/-- DKIND. -/
def rtDkind (r : List Byte) : Nat := fieldAt r 7 1
/-- EPOCH. -/
def rtEpoch (r : List Byte) : Nat := fieldAt r 8 4
/-- FIRST. -/
def rtFirst (r : List Byte) : Nat := fieldAt r 12 4
/-- LAST. -/
def rtLast (r : List Byte) : Nat := fieldAt r 16 4
/-- DEST. -/
def rtDest (r : List Byte) : Nat := fieldAt r 20 2
/-- DLC. -/
def rtLc (r : List Byte) : Nat := fieldAt r 22 1
/-- DADDR. -/
def rtAddr (r : List Byte) : Nat := fieldAt r 24 4
/-- Hop entry `i` of a record in a body. -/
def rtHop (b r : List Byte) (i : Nat) : Nat := fieldAt b (fieldAt r 28 4 + 4 * i) 4
/-- Kind of a hop. -/
def hopKind (h : Nat) : Nat := bits h 2 0
/-- Unit of a hop. -/
def hopUnit (h : Nat) : Nat := bits h 13 3
/-- Cell position at a hop. -/
def hopPos (h : Nat) : Nat := bits h 18 14

/-- The switch-core slice that terminates quad `q` (R22). -/
def quadSlice (q : Nat) : Nat := q / 2
/-- The slice that serves the row of newt `n` (R16, R22, R23). -/
def newtSlice (n : Nat) : Nat := 32 * (n / 1024) + n / 32 % 32

/-- Whether a cell can cross from the island of one hop to that of the next (R22 to R24): a quad's only to or from its own slice, a newt
slot's only to or from a slice of its die, since which row its newt is in differs from part to part (R35), and a slice's to another. -/
def hopsMeet (a b : Nat) : Bool :=
  match hopKind a, hopKind b with
  | 0, 1 => quadSlice (hopUnit a) == hopUnit b
  | 1, 0 => quadSlice (hopUnit b) == hopUnit a
  | 1, 1 => hopUnit a != hopUnit b
  | 1, 2 => hopUnit b / 1000 == hopUnit a / 32
  | _, _ => false

/-- Whether a hop names a unit that the chip has (Table 0-6, R35). -/
def hopUnitOk (h : Nat) : Bool :=
  match hopKind h with
  | 0 => decide (hopUnit h < 128)
  | 1 => decide (hopUnit h < 64)
  | 2 => decide (hopUnit h < 2000)
  | _ => false

/-- Records of the current epoch that hold a position in job pad `j`, with their indices. -/
def activeRecs (s : State) (j : Nat) : List (Nat × List Byte) :=
  ((padsRecs (padsBody s)).zipIdx.map (fun e => (e.2, e.1))).filter (fun e =>
    rtEpoch e.2 == s.sch.epoch && decide (s.sch.epochStart + rtFirst e.2 ≤ j ∧ j ≤ s.sch.epochStart + rtLast e.2))

/-- d_img of a quad's link (R189): DIMG of its direction; for an endpoint port the image states none, and the pad delay
measured is taken (log 36). -/
def quadDimg (s : State) (q : Nat) : Nat :=
  let v := quad s q
  if 1 ≤ v.use ∧ v.use ≤ 6 then fieldAt s.lay.linkdiv (v.use - 1) 1 else max 1 v.d

/-- Records of a received cell: in slot `pos` on quad `q`, sent in job pad `j`. The job pads of a record are those in
which its cells hold their position on the link that brings them (log 35). -/
def entryRecs (s : State) (q pos j : Nat) : List (Nat × List Byte) :=
  (activeRecs s j).filter (fun e =>
    rtSkind e.2 != 1 && (let h := rtHop (padsBody s) e.2 0
      hopKind h == 0 && hopUnit h == q && hopPos h == pos))

/-- Job pads from a record's position at its source to the last hop (R27, R189). -/
def recDelay (s : State) (b r : List Byte) : Nat :=
  (if rtSkind r = 1 then 0 else quadDimg s (hopUnit (rtHop b r 0))) + (rtHops r - 1)

/-- Slots that records reserve for leaving on quad `q` in job pad `j`. -/
def reservedSlots (s : State) (q j : Nat) : List Nat :=
  let b := padsBody s
  (((padsRecs b).filter (fun r =>
    rtDkind r != 0 && rtEpoch r == s.sch.epoch &&
    decide (s.sch.epochStart + rtFirst r + recDelay s b r ≤ j ∧ j ≤ s.sch.epochStart + rtLast r + recDelay s b r) &&
    (let h := rtHop b r (rtHops r - 1); hopKind h == 0 && hopUnit h == q))).map
      (fun r => hopPos (rtHop b r (rtHops r - 1)))).foldl insertNat []

/-- The pad groups of the WLANDs of a program that wait on landing counter `lc` (R88, R198). -/
def waitGroups (words : List Nat) (lc : Nat) : List Nat :=
  ((words.filter (fun w => iOpc w == 8 && bits w 5 0 == lc)).map iPg).foldl insertNat []

/-- The pads in which a record's positions are spare (R199): SLACK of the pad group of its epoch that its stream feeds. `fed` are the groups
of the waits on the landing counter of a destination slot. What a stream feeds elsewhere this chip's image does not say: a newt's stream
ends with an instance's last pad, and on the way of another the last pad is later (log 64). None where no group fits. -/
def spareOf (s : State) (level : Nat) (fed : Option (List Nat)) (r : List Byte) : Option Nat :=
  let fits (g : Nat) : Bool := pgEpoch s g == rtEpoch r && (match fed with
    | some l => l.contains g
    | none => (List.range (pgCount s g)).any (fun k =>
        let last := dueFrom s g k level + pgSlack s g
        if rtSkind r = 1 then last == rtLast r else decide (last ≤ rtLast r)))
  let gs := (List.range (pgGroups s)).filter fits
  if gs.isEmpty then none else some ((gs.map (pgSlack s)).foldl max 0)

/-- Quads that hop entries of a PADS body name (R294). -/
def padsQuads (b : List Byte) : List Nat :=
  ((padsRecs b).flatMap (fun r => (List.range (rtHops r)).filterMap (fun i =>
    let h := rtHop b r i
    if hopKind h = 0 then some (hopUnit h) else none))).foldl insertNat []

/-- The newt of a slot. -/
def newtOfSlot (s : State) (slot : Nat) : Nat := tget 0 s.lay.slotOf slot

/-- The pad groups that a record of the active image feeds on this chip: those of its destination slot's waits. -/
def fedBy (s : State) (r : List Byte) : Option (List Nat) :=
  if rtDkind r ≠ 0 then none
  else
    let v := newt s (newtOfSlot s (rtDest r))
    some (waitGroups ((List.range (progLen v)).map (wordAt v)) (rtLc r))

/-- The island that hop `i` of a record stands for on this part, as a hop entry's kind and unit: the slice beside a slot is that of its
newt's row (R22, R23, log 143). -/
def hopIsland (s : State) (b r : List Byte) (i : Nat) : Nat :=
  let h := rtHop b r i
  let own (slot : Nat) : Nat := 1 + 8 * newtSlice (newtOfSlot s slot)
  if hopKind h = 1 ∧ i = 0 ∧ rtSkind r = 1 then own (rtSrc r)
  else if hopKind h = 1 ∧ rtDkind r = 0 ∧ (i + 1 = rtHops r ∨ hopKind (rtHop b r (i + 1)) = 2) then own (rtDest r)
  else h % 2 ^ 14

end Sys2Proof.Machine
end

