-- ==== Sys2Proof/Machine/AbortCells.lean ====
section
/-! DEFINITION. What the abort of a collective does to its packets in the chip (R148, R259, R260): those in the switch core's buffers, and
those of the scheduled plane in the island pipeline, on the way in, and at newts. -/

namespace Sys2Proof.Machine

/-- Numbers that a scheduled packet takes: one for its copies on entry, and one for those on leaving at each port. -/
def schedIds : Nat := 136

/-- The number of the copies on leaving at a port of scheduled packet number `k`. -/
def leavingId (k port : Nat) : Nat := k + 1 + port

/-- The record of a packet stomped with code 4 (Table 8-10). -/
def abortErr (port : Nat) (p : Packet) (s : State) : State :=
  raise { code := 0x0501, kind := 3, unit := port, unit2 := p.cls + 8 * p.vc, d := [4, 0, pktData p] } s

/-- The copies of a scheduled packet that is stomped: those on entry get no more cells (R275). -/
def schedCopies (p : Packet) (code : Nat) (b : List Byte) (s : State) : State :=
  if p.sid = 0 then s else stompCopiesOf p.sid schedIds code (cellJoins p.sid b true s)

/-- The port where a record's cells leave, 134 for a newt's. -/
def recPort (s : State) (r : List Byte) : Nat :=
  if rtDkind r = 0 then 134 else (quadPort (quad s (hopUnit (rtHop (padsBody s) r (rtHops r - 1))))).getD 134

/-- A packet in the pipeline towards route record `r` has not begun to leave its end: its first cell is still on the way. -/
def pipeWhole (s : State) (r sid : Nat) : Bool :=
  s.sch.flights.any (fun f => f.rno == r && f.cell.hdr.sid == sid && f.cell.pos == 0)

/-- A cell of an aborted collective in the pipeline: of a packet that leaves whole it goes with the packet; a last cell whose others have
left takes code 4. What is bound for a newt is discarded as it lands. -/
def abortFlight (c : Nat) (s : State) (f : Flight) : Option Flight :=
  if !ofColl c f.cell.hdr || f.cell.hdr.stomp != 0 || rtDkind (padRec s f.rno) == 0 then some f
  else if pipeWhole s f.rno f.cell.hdr.sid then none
  else if f.cell.pos + 1 = cellsOf f.cell.len then some { f with cell := { f.cell with hdr := { f.cell.hdr with stomp := 4 } } }
  else some f

/-- The aborted collective's packets in the island pipeline. -/
def abortPipe (c : Nat) (s : State) : State :=
  let hit (f : Flight) : Bool := ofColl c f.cell.hdr && f.cell.hdr.stomp == 0 && rtDkind (padRec s f.rno) != 0
  let fs := s.sch.flights.filter hit
  let s1 : State := { s with sch := { s.sch with flights := s.sch.flights.filterMap (abortFlight c s) } }
  fs.foldl (fun t f =>
    let whole := pipeWhole s f.rno f.cell.hdr.sid
    if whole && f.cell.pos == 0 then schedCopies f.cell.hdr 4 (zeros 256) (discard 0 (abortErr (recPort s (padRec s f.rno)) f.cell.hdr t))
    else if !whole && f.cell.pos + 1 == cellsOf f.cell.len then
      schedCopies f.cell.hdr 4 (zeros 256) (discard 1 (abortErr (recPort s (padRec s f.rno)) f.cell.hdr t))
    else t) s1

/-- A scheduled packet of an aborted collective that quad `q` is receiving: where cells of it have left, the chip supplies its last cell with
code 4, and the cells still to come are discarded (R148, R260). -/
def abortOpen (q : Nat) (e : Nat × Packet × Nat × Nat) (s : State) : State :=
  let (route, p, len, _) := e
  let outs := ((padsRecs (padsBody s)).zipIdx.map (fun x => (x.2, x.1))).filter (fun x =>
    rtEpoch x.2 == s.sch.epoch && rtNum x.2 == route && rtDkind x.2 != 0 && rtSkind x.2 != 1 && !pipeWhole s x.1 p.sid)
  let c : SCell := { hdr := { p with stomp := 4, payload := [] }, len := len, pos := cellsOf len - 1, data := zeros 256 }
  let s1 := modQuad q (fun v => { v with schedOpen := v.schedOpen.map (fun x => if x.1 = route then (route, p, 0, 0) else x) }) s
  if outs.isEmpty then s1
  else schedCopies p 4 (zeros 256) (discard 1 (abortErr (recPort s ((outs.map (·.2)).headD [])) p
    { s1 with sch := { s1.sch with
        flights := s1.sch.flights ++ outs.map (fun x => { rno := x.1, idx := 0, wait := quadDimg s q, cell := c }) } }))

/-- The cells that a newt has handed to its slice: of a packet whose first cell has gone, the last one takes code 4; the others go. -/
def abortSent (c : Nat) (begun : List Nat) (l : List (Nat × Nat × SCell)) : List (Nat × Nat × SCell) :=
  match l with
  | [] => []
  | e :: r =>
    if !ofColl c e.2.2.hdr then e :: abortSent c begun r
    else if e.2.2.pos = 0 then abortSent c (begun ++ [e.1]) r
    else if begun.contains e.1 then abortSent c begun r
    else (if e.2.2.pos + 1 = cellsOf e.2.2.len then (e.1, e.2.1, { e.2.2 with hdr := { e.2.2.hdr with stomp := 4 } }) else e) ::
      abortSent c begun r

/-- The aborted collective's packets that newt `n` has sent and that wait for their positions. -/
def abortAtNewt (c n : Nat) (s : State) : State :=
  let l := (newt s n).sent
  let mine (e : Nat × Nat × SCell) : Bool := ofColl c e.2.2.hdr
  let left := abortSent c [] l
  let s1 := (l.filter (fun e => mine e && e.2.2.pos == 0)).foldl (fun t e => discard 0 (abortErr 134 e.2.2.hdr t)) s
  let s2 := (left.filter (fun e => mine e && e.2.2.hdr.stomp == 4)).foldl (fun t e => discard 1 (abortErr 134 e.2.2.hdr t)) s1
  if l.any mine then modNewt n (fun v => { v with sent := left }) s2 else s2

/-- The scheduled packets of an aborted collective in this chip. -/
def abortSched (c : Nat) (s : State) : State :=
  let s1 := s.quads.foldl (fun t e =>
    (e.2.schedOpen.filter (fun x => ofColl c x.2.1 && x.2.2.1 != 0)).foldl (fun u x => abortOpen e.1 x u) t) s
  s.newts.foldl (fun t e => abortAtNewt c e.1 t) (abortPipe c s1)

/-- The abort of a collective stomps its packets in this chip with code 4 (R148, R259): those that wait at a quad have not left, and go. -/
def abortStomps (c : Nat) (s : State) : State :=
  let s1 := (s.swc.queues.filter (fun h => h.copyOf.isNone && h.pkt.stomp == 0 && ofColl c h.pkt)).foldl
    (fun t h => stompOne h 4 0 t) s
  abortSched c ((s.swc.ingress.filter (fun w => ofColl c w.pkt)).foldl (fun t w =>
    stompCopies w.pkt 4 (discard 0 (abortErr w.out w.pkt (ingressDrop w t)))) s1)

end Sys2Proof.Machine
end

