-- ==== Sys2Proof/Machine/Keccak.lean ====
section
/-! DEFINITION. SHAKE256 of FIPS 202, which the spec uses for every digest (R36, R67, R123, R222, R446,
R452 to R454, R465, R471), and SHAKE128: the Keccak-f[1600] permutation on 25 lanes of 64 bits. -/

namespace Sys2Proof.Machine

/-- Lane (x, y) at index x + 5y; an absent lane reads 0. -/
def kLane (a : List Word) (x y : Nat) : Word := a.getD (x % 5 + 5 * (y % 5)) 0

/-- The 24 round constants of step iota. -/
def kRound : List Word :=
  [0x0000000000000001, 0x0000000000008082, 0x800000000000808A, 0x8000000080008000,
   0x000000000000808B, 0x0000000080000001, 0x8000000080008081, 0x8000000000008009,
   0x000000000000008A, 0x0000000000000088, 0x0000000080008009, 0x000000008000000A] ++
  [0x000000008000808B, 0x800000000000008B, 0x8000000000008089, 0x8000000000008003,
   0x8000000000008002, 0x8000000000000080, 0x000000000000800A, 0x800000008000000A,
   0x8000000080008081, 0x8000000000008080, 0x0000000080000001, 0x8000000080008008]

/-- The rotation offsets of step rho, by lane index. -/
def kRot : List Nat :=
  [0, 1, 62, 28, 27, 36, 44, 6, 55, 20, 3, 10, 43] ++ [25, 39, 41, 45, 15, 21, 8, 18, 2, 61, 56, 14]

/-- Step theta. -/
def kTheta (a : List Word) : List Word :=
  let c := (List.range 5).map (fun x =>
    kLane a x 0 ^^^ kLane a x 1 ^^^ kLane a x 2 ^^^ kLane a x 3 ^^^ kLane a x 4)
  let d := (List.range 5).map (fun x => c.getD ((x + 4) % 5) 0 ^^^ (c.getD ((x + 1) % 5) 0).rotateLeft 1)
  (List.range 25).map (fun i => a.getD i 0 ^^^ d.getD (i % 5) 0)

/-- Steps rho and pi: lane (x, y) of the result is lane (x + 3y, x) rotated. -/
def kRhoPi (a : List Word) : List Word :=
  (List.range 25).map (fun i =>
    let x := i % 5
    let y := i / 5
    let j := (x + 3 * y) % 5 + 5 * x
    (a.getD j 0).rotateLeft (kRot.getD j 0))

/-- Step chi. -/
def kChi (a : List Word) : List Word :=
  (List.range 25).map (fun i =>
    let x := i % 5
    let y := i / 5
    kLane a x y ^^^ (~~~(kLane a (x + 1) y) &&& kLane a (x + 2) y))

/-- One round. -/
def kStep (a : List Word) (rc : Word) : List Word :=
  let b := kChi (kRhoPi (kTheta a))
  b.set 0 (b.getD 0 0 ^^^ rc)

/-- Keccak-f[1600]. -/
def keccakF (a : List Word) : List Word := kRound.foldl kStep a

/-- XOR a block of `r` bytes, the rate, into the state. -/
def kAbsorb (r : Nat) (a : List Word) (block : List Byte) : List Word :=
  keccakF ((List.range 25).map (fun i =>
    if i < r / 8 then a.getD i 0 ^^^ BitVec.ofNat 64 (fieldAt block (8 * i) 8) else a.getD i 0))

/-- Absorb the whole message, padded with 0x1F … 0x80; `fuel` bounds the number of blocks. -/
def kAbsorbAll (r fuel : Nat) (a : List Word) (m : List Byte) : List Word :=
  match fuel with
  | 0 => a
  | fuel + 1 =>
    if m.length < r then
      let padded := m ++ ((0x1F : Byte) :: zeros (r - 1 - m.length))
      kAbsorb r a (padded.set (r - 1) (padded.getD (r - 1) 0 ||| 0x80))
    else kAbsorbAll r fuel (kAbsorb r a (m.take r)) (m.drop r)

/-- Squeeze `blocks` further blocks. -/
def kSqueeze (r blocks : Nat) (a : List Word) : List Byte :=
  let out := (a.take (r / 8)).flatMap wordBytes
  match blocks with
  | 0 => out
  | b + 1 => out ++ kSqueeze r b (keccakF a)

/-- The sponge at rate `r` with an output of `n` bytes. -/
def shake (r : Nat) (m : List Byte) (n : Nat) : List Byte :=
  (kSqueeze r (n / r) (kAbsorbAll r (m.length / r + 1) (List.replicate 25 0) m)).take n

/-- SHAKE256 with an output of `n` bytes. -/
def shake256 (m : List Byte) (n : Nat) : List Byte := shake 136 m n

/-- SHAKE128, which ML-DSA uses. -/
def shake128 (m : List Byte) (n : Nat) : List Byte := shake 168 m n

end Sys2Proof.Machine
end

