-- ==== Sys2Proof/Machine/CollOps.lean ====
section
/-! DEFINITION. Group records (R123 to R125), abort requests and outcomes of collectives (R141 to R148, R511), completion
records (Table 4-9), job stops (R209) and newt errors (R93, R117). -/

namespace Sys2Proof.Machine

/-! Group records (Table 4-2). -/

/-- First coordinate of the block on axis `a`. -/
def grpLo (g : List Byte) (a : Nat) : Nat := fieldAt g (2 * a) 1
/-- Last coordinate of the block on axis `a`. -/
def grpHi (g : List Byte) (a : Nat) : Nat := fieldAt g (2 * a + 1) 1
/-- Extent of the block on axis `a`. -/
def grpExt (g : List Byte) (a : Nat) : Nat := grpHi g a + 1 - grpLo g a
/-- NMEMB. -/
def grpMembers (g : List Byte) : Nat := fieldAt g 8 4
/-- NCHIP as the block's extents give it. -/
def grpChips (g : List Byte) : Nat := grpExt g 0 * grpExt g 1 * grpExt g 2
/-- Whether the record carries a rank table. -/
def grpRanks (g : List Byte) : Bool := fieldAt g 7 1 == 1
/-- MASK of a chip index. -/
def grpMask (g : List Byte) (c : Nat) : Nat := fieldAt g (64 + 16 * c) 16
/-- Whether a chip coordinate lies in the block. -/
def grpHas (g : List Byte) (coord : Nat) : Bool :=
  (List.range 3).all (fun a => decide (grpLo g a ≤ axisOf coord a ∧ axisOf coord a ≤ grpHi g a))
/-- Chip index of a coordinate of the block (R124). -/
def grpIndex (g : List Byte) (coord : Nat) : Nat :=
  (axisOf coord 0 - grpLo g 0) + grpExt g 0 * ((axisOf coord 1 - grpLo g 1) +
    grpExt g 1 * (axisOf coord 2 - grpLo g 2))
/-- Coordinate of a chip index. -/
def grpCoord (g : List Byte) (i : Nat) : Nat :=
  (grpLo g 0 + i % grpExt g 0) + 32 * (grpLo g 1 + i / grpExt g 0 % grpExt g 1) +
    1024 * (grpLo g 2 + i / (grpExt g 0 * grpExt g 1))
/-- Size of the record in bytes. -/
def grpSize (g : List Byte) : Nat := 64 + 16 * grpChips g + (if grpRanks g then 4 * grpMembers g else 0)
/-- Members on a chip index. -/
def grpCount (g : List Byte) (c : Nat) : Nat := (bitList 128 (grpMask g c)).length
/-- Number of the first member of a chip index. -/
def grpFirst (g : List Byte) (c : Nat) : Nat := ((List.range c).map (grpCount g)).sum
/-- Rank of a member number (R124). -/
def grpRank (g : List Byte) (m : Nat) : Nat :=
  if grpRanks g then fieldAt g (64 + 16 * grpChips g + 4 * m) 4 else m
/-- (port, rank) of the members on a chip index. -/
def grpLocal (g : List Byte) (c : Nat) : List (Nat × Nat) :=
  ((bitList 128 (grpMask g c)).zipIdx).map (fun e => (e.1, grpRank g (grpFirst g c + e.2)))
/-- Chip index of the member of a rank. -/
def grpChipOf (g : List Byte) (rank : Nat) : Nat :=
  ((List.range (grpChips g)).find? (fun c => (grpLocal g c).any (fun e => decide (e.2 = rank)))).getD 0

/-- A group record that R125 does not reject, on a fabric of extents `ext` where `isPort` says which ports of a chip are known to be
endpoint ports. -/
def groupRecordOk (ext : Nat → Nat) (isPort : Nat → Nat → Bool) (g : List Byte) : Bool :=
  let n := grpChips g
  (List.range 3).all (fun a => decide (grpHi g a < ext a ∧ grpLo g a ≤ grpHi g a)) &&
  decide (fieldAt g 6 1 < 6 ∧ fieldAt g 7 1 < 2) && allZero (slice g 16 48) &&
  decide (fieldAt g 12 4 = n ∧ 1 ≤ grpMembers g ∧ grpMembers g ≤ 524288) &&
  decide (grpFirst g n = grpMembers g) &&
  (List.range n).all (fun i => (bitList 128 (grpMask g i)).all (isPort (grpCoord g i))) &&
  (!grpRanks g || (List.range (grpMembers g)).all (fun r =>
    (List.range (grpMembers g)).any (fun m => decide (grpRank g m = r))))

/-- A posted group record that R125 does not reject. The masks of other chips are held by those chips: each chip of the block takes the
same record (R434) and knows its own division only. -/
def groupOk (s : State) (g : List Byte) : Bool :=
  groupRecordOk (extOf s) (fun coord p => coord != s.rte.coord || endpointPort s p) g

/-! Descriptor fields (Table 4-7). -/

/-- OP. -/
def cdOp (d : List Byte) : Nat := fieldAt d 3 1
/-- DELIV. -/
def cdDeliv (d : List Byte) : Nat := fieldAt d 4 1
/-- IN_FMT. -/
def cdFmt (d : List Byte) : Nat := fieldAt d 5 1
/-- NTILE. -/
def cdTiles (d : List Byte) : Nat := fieldAt d 12 4
/-- NELEM_LAST. -/
def cdLast (d : List Byte) : Nat := fieldAt d 16 2
/-- ROOT. -/
def cdRoot (d : List Byte) : Nat := fieldAt d 20 4
/-- CFLAGS.IRQ. -/
def cdIrq (d : List Byte) : Bool := bitOf (fieldAt d 48 1) 0
/-- CFLAGS.DIGEST. -/
def cdDigest (d : List Byte) : Bool := bitOf (fieldAt d 48 1) 1

/-- The commit chip of a collective (R141). -/
def commitChipOf (d g : List Byte) : Nat :=
  let root := cdOp d == 4 || cdOp d == 5 || (decide (0x11 ≤ cdOp d) && cdDeliv d == 1)
  grpCoord g (grpChipOf g (if root then cdRoot d else 0))

/-! Abort requests and outcomes. -/

/-- A collective known on the chip whose record has not been written. -/
def unreported (s : State) (c : Nat) : Bool :=
  (s.colls.any (fun e => decide (e.1 = c))) && !(coll s c).reported

/-- The place word of a fault as records carry it. -/
def placeWord (p : FaultPlace) : Nat := pack [(16, p.fchip), (16, p.funit), (8, p.fkind)]

/-- FCHIP of a coordinate: X in [14:10], Y in [9:5], Z in [4:0] (Table 4-9). -/
def fchipOf (coord : Nat) : Nat := 1024 * axisOf coord 0 + 32 * axisOf coord 1 + axisOf coord 2

/-- Record a cause of high byte 0x0A for a collective on the chip that detects it (R151, Table 15-2). -/
def collRaise (c cause : Nat) (p : FaultPlace) (s : State) : State :=
  if cause / 256 = 0x0A then
    raise { code := cause, unit2 := if cause = 0x0A0A then 2 else 1, coll := c,
            d := [placeWord p, (job s (coll s c).job).handle.toNat] } s
  else s

/-- The contents of a message of the collective machinery: the 16 bytes of its tag (R130, Tables 4-4 and 4-5), then what it says
beside it (log 131). -/
def collVals (kind c tile rank : Nat) (body : List Nat) : List Nat :=
  (tagBytes (.coll
    { coll := c, kind := kind, tile := tile, rank := rank, offset := 0, stage := 0, last := true })).map (·.toNat) ++ body

/-- A message of the collective machinery in class MGMT. -/
def collMsg (msg : String) (kind dst c tile rank : Nat) (body : List Nat) (s : State) : State :=
  mgmt msg dst (collVals kind c tile rank body) s

/-- RANK of a tag that names none. -/
def rankNone : Nat := 0xFFFFFFFF

/-- The commit newt's ASB as merged so far (R147). A newt that has been given other work keeps none: what was read of it last
stands. -/
def commitAsb (c : Nat) (s : State) : List Byte :=
  match (coll s c).commitNewt with
  | none => zeros 40
  | some n =>
    let v := newt s n
    let a := tget 0 v.asbOf c
    if a = 0 then slice (coll s c).asb 0 40 else pondRead v a 40

/-- Notices to every other chip of the group (R145): the status, the cause and its place, and the ASB merged so far. -/
def notices (c status cause : Nat) (p : FaultPlace) (s : State) : State :=
  let asb := (commitAsb c s).map (·.toNat)
  (coll s c).chips.foldl
    (fun t ch => collMsg "NOTICE" 12 ch c 0 rankNone ([status, cause, p.fchip, p.funit, p.fkind] ++ asb) t) s

/-- The CMT of collective `c` issues on newt `n` (R115, R141, R145): the commit chip's collective is committed with the ASB as it
stands (R147), and notices go to the other chips. -/
def commitBy (n c : Nat) (s : State) : State :=
  let s1 := modNewt n (fun v => { v with coll := c }) s
  let k := coll s1 c
  if unreported s1 c && k.state == .pending && k.commitChip == s1.rte.coord then
    let s2 := setColl c { k with state := .committed, commitNewt := some n } s1
    notices c 0 0 {} (modColl c (fun v => { v with asb := commitAsb c s2 }) s2)
  else s1

/-- The CMT at the head of a newt meets every condition of issue, so that it issues in this cycle (R90). -/
def cmtDue (s : State) (n : Nat) : Bool :=
  let v := newt s n
  let w := wordAt v v.pc
  mayIssue (croak s) v && iOpc w == 0x0C && bits w 57 24 == 0 && iArg w != 0 && allDone v

/-- A CMT that issues in the cycle in which an abort takes effect is committed, and the abort comes after it (R94): those of
newts `ns` that are due do so first. -/
def cmtFirst (ns : List Nat) (s : State) : State :=
  ns.foldl (fun t n => if cmtDue t n then commitBy n (iArg (wordAt (newt t n) (newt t n).pc)) t else t) s

/-- An abort is delivered to newt `n` (R94). -/
def abortAt (n : Nat) (s : State) : State :=
  abortNewt n (if cmtDue s n then
    modNewt n (fun v => { v with issued := (v.issued + 1) % 2 ^ 32, issuedAt := some (croak s) }) (cmtFirst [n] s) else s)

/-- The newts of this chip that work for a collective. -/
def workers (s : State) (c : Nat) : List Nat := (s.newts.filter (fun e => e.2.colls.contains c)).map (·.1)

/-- An abort request for a collective takes effect on this chip, the commit chip, or goes to the commit chip in class MGMT
(R143 to R145). Stopping the newts is `abortStop`'s. -/
def abortMark (c cause : Nat) (p : FaultPlace) (s0 : State) : State :=
  let s := cmtFirst (workers s0 c) s0
  let v := coll s c
  if !unreported s c || v.state != .pending then s
  else if v.commitChip ≠ s.rte.coord then collMsg "ABORT" 10 v.commitChip c cause rankNone [p.fchip, p.funit, p.fkind] s
  else notices c 1 cause p (abortStomps c
    (setColl c { v with state := .aborting, cause := cause, place := p, ctxs := [], asb := commitAsb c s } s))

/-- The place of a newt of this chip. -/
def newtPlace (s : State) (n : Nat) : FaultPlace := { fchip := fchipOf s.rte.coord, funit := n, fkind := 2 }

/-- The other collectives that newts stopped for `c` take part in, each with the first such newt (R511). -/
def alsoStopped (s : State) (ns seen : List Nat) : List (Nat × Nat) :=
  (ns.flatMap (fun n => (newt s n).colls.map (fun d => (d, n)))).foldl (fun l e =>
    if unreported s e.1 && (coll s e.1).state == .pending && !seen.contains e.1 && !l.any (fun x => x.1 == e.1) then l ++ [e]
    else l) []

/-- The abort of collectives `cs`, already asked for with those of `seen`, reaches their newts (R94). Every other collective
that a stopped newt takes part in is asked to abort with cause 0x0A05, and so on (R511). -/
def abortStop (fuel : Nat) (cs seen : List Nat) (s : State) : State :=
  match fuel, cs with
  | 0, _ => s
  | _, [] => s
  | fuel + 1, c :: r =>
    if (coll s c).state ≠ .aborting then abortStop fuel r seen s
    else
      let ns := (coll s c).parts.filter (stoppable s)
      let s1 := (coll s c).parts.foldl (fun t n => abortAt n t) s
      let more := alsoStopped s1 ns seen
      abortStop fuel (r ++ more.map (·.1)) (seen ++ more.map (·.1))
        (more.foldl (fun t e => abortMark e.1 0x0A05 (newtPlace s e.2) (collRaise e.1 0x0A05 (newtPlace s e.2) t)) s1)

/-- Fuel for a chain of abort requests: each one settles a collective. -/
def abortFuel (s : State) : Nat := 2 * s.colls.length + 2

/-- An abort request reaches this chip (R144): one after the first, or after the outcome, changes nothing. -/
def abortReq (c cause : Nat) (p : FaultPlace) (s : State) : State :=
  if !unreported s c || (coll s c).state != .pending then s
  else abortStop (abortFuel s) [c] [c] (abortMark c cause p s)

/-- The chip detects one cause for the abort of several collectives, each with its place (R143, R209): it is recorded and asked for of
each, and then their newts stop. -/
def abortEach (cause : Nat) (es : List (Nat × FaultPlace)) (s : State) : State :=
  let ds := es.filter (fun e => unreported s e.1 && (coll s e.1).state == .pending)
  abortStop (abortFuel s) (ds.map (·.1)) (ds.map (·.1))
    (ds.foldl (fun t e => abortMark e.1 cause e.2 (collRaise e.1 cause e.2 t)) s)

/-- The same at one place. -/
def abortMany (cs : List Nat) (cause : Nat) (p : FaultPlace) (s : State) : State := abortEach cause (cs.map (fun c => (c, p))) s

/-- The chip detects the cause of an abort (R143). -/
def detectAbort (c cause : Nat) (p : FaultPlace) (s : State) : State := abortMany [c] cause p s

/-- A newt has stopped (R511): every unreported collective it takes part in is asked to abort. -/
def newtStopped (n : Nat) (s : State) : State := abortMany (newt s n).colls 0x0A05 (newtPlace s n) s

/-- Stop participating newts for collective `c`, and ask for the abort of the others they take part in. -/
def stopFor (c : Nat) (ns : List Nat) (s : State) : State :=
  let stops := ns.filter (stoppable s)
  let s1 := ns.foldl (fun t n => abortAt n t) s
  stops.foldl (fun t n => abortMany ((newt t n).colls.filter (fun d => decide (d ≠ c))) 0x0A05 (newtPlace s n) t) s1

/-- A completion record (Table 4-9) as it waits for the ring: CROAK is set when it is written. -/
def recordBytes (c status : Nat) (v : Coll) : List Byte :=
  leBytes 3 c ++ leBytes 1 status ++ leBytes 2 (if status = 0 then 0 else v.cause) ++ zeros 2 ++ zeros 8 ++
    slice v.asb 0 40 ++ leBytes 2 v.place.fchip ++ leBytes 2 v.place.funit ++ leBytes 1 v.place.fkind ++ zeros 3

/-- The output digest over the tile digests, ascending (R218). -/
def outputDigest (tiles : Table (List Byte)) : List Byte := shake256 (tiles.flatMap (·.2)) 32

/-- The digest entry of a collective (Table 6-10). -/
def digestEntry (c status : Nat) (v : Coll) : List Byte :=
  leBytes 3 c ++ leBytes 1 status ++ leBytes 4 v.tiles.length ++ zeros 8 ++
    (if status = 0 ∧ !v.tiles.isEmpty then outputDigest v.tiles else zeros 32)

/-- The job's run accumulators after one more record (Table 6-9). -/
def jobCount (c status : Nat) (v : Coll) (j : Job) : Job :=
  { j with
    ncomp := j.ncomp + (if status = 0 then 1 else 0)
    nfail := j.nfail + (if status = 0 then 0 else 1)
    sat := satAdd 0xFFFFFFFF j.sat (fieldAt v.asb 0 4)
    nan := satAdd 0xFFFFFFFF j.nan (fieldAt v.asb 4 4)
    esc := satAdd 0xFFFFFFFF j.esc (fieldAt v.asb 24 4)
    aflags := j.aflags ||| fieldAt v.asb 28 2
    held := j.held ++ [(recordBytes c status v, cdIrq v.desc)]
    digests := if v.digest then tset [] j.digests c (digestEntry c status v) else j.digests }

/-- A reply payload padded to the command's RPLEN (Table 13-4). -/
def rp (n : Nat) (bs : List Byte) : List Byte := slice bs 0 n

/-- The outcome of a collective that a JOB_ABORT in slot `i` waits for is decided (R432): SCRATCH holds the requests left,
NABORT, NDONE, and whether one collective was named. -/
def abortSettle (i : Nat) (v : Coll) (s : State) : State :=
  let m := mslot s i
  let left := m.scratch.getD 0 1 - 1
  let na := m.scratch.getD 1 0 + (if v.state = .aborted then 1 else 0)
  let nd := m.scratch.getD 2 0 + (if v.state = .completed then 1 else 0)
  if m.work ≠ .waiting ∨ slotCmd m ≠ 0x22 then s
  else if m.scratch.getD 3 0 = 1 ∧ v.state ≠ .aborted then cmdFail i (if v.state = .lost then 0x0A0A else 0x0108) s
  else if left = 0 then cmdDone i (rp 16 (leBytes 4 na ++ leBytes 4 nd)) s
  else setMslot i { m with scratch := [left, na, nd, m.scratch.getD 3 0] } s

/-- The chip reports a collective's outcome (R145): the completion record joins those that wait for the job's ring; a JOB_ABORT
that waited for the outcome goes on. -/
def collReport (c status : Nat) (st : CollState) (s : State) : State :=
  let v := coll s c
  let s1 := setColl c { v with state := st, reported := true, ctxs := [], abortSlots := [] } s
  v.abortSlots.foldl (fun t i => abortSettle i (coll s1 c) t) (modJob v.job (jobCount c status v) s1)

/-- COMPLETE or ABORT packets to this chip's member ports, once the completion record `r` has been written (R145). -/
def memberNotes (r : List Byte) (s : State) : State :=
  let c := fieldAt r 0 3
  (coll s c).members.foldl (fun t m =>
    if fieldAt r 3 1 = 0 then collMsg "COMPLETE" 9 m.1 c 0 rankNone [] t
    else collMsg "ABORT" 10 m.1 c (fieldAt r 4 2) rankNone [] t) s

/-! Job stops and newt errors. -/

/-- The scheduled newts. -/
def scheduledNewts (s : State) : List Nat := (s.newts.filter (fun e => e.2.role == .scheduled)).map (·.1)

/-- The chip's scheduled job is ARMED, RUN, FROZEN or PAUSED. -/
def schActive (s : State) : Bool :=
  s.sch.state == .armed || s.sch.state == .run || s.sch.state == .frozen || s.sch.state == .paused

/-- The collectives of job slot `j` that are not yet committed. -/
def openColls (s : State) (j : Nat) : List Nat :=
  (s.colls.filter (fun e => e.2.job == j && !e.2.reported && e.2.state == .pending)).map (·.1)

/-- The scheduled job stops (R209): STOP goes on FBL63, the state becomes STOPPED, uncommitted collectives abort
with the cause, and the scheduled newts stop. -/
def jobStop (cause : Nat) (p : FaultPlace) (s : State) : State :=
  if !schActive s then s
  else
    let s1 := { s with sch := { s.sch with state := .stopped, stopSent := true, quantum := 0, pausePend := false,
                                           callPend := none } }
    match s.sch.job with
    | none => s1
    | some j =>
      let s2 := modJob j (fun v => { v with stopped := true, endc := croak s, endTerm := s.sch.term }) s1
      let s3 := abortMany (openColls s2 j) cause p s2
      (scheduledNewts s3).foldl (fun t n => abortAt n t) s3

/-- The occurrence of a newt's error at its head (Table 15-2). -/
def newtOcc (n code pc lc : Nat) (s : State) : Occ :=
  let v := newt s n
  let w := wordAt v pc
  let ob := if hasBlock (iOpc w) then obAddr v w else 0
  { code := code, kind := 1, unit := n, unit2 := pc, coll := wordColl v w ob, d := [w, ob, lc] }

/-- A newt has raised an error and stops (R93): NWT_ERR, state ERROR, its collectives abort, and a scheduled newt's job
stops. -/
def newtHalt (n code pc : Nat) (s : State) : State :=
  let v := newt s n
  let s2 := unwaitAll n (setNewt n { errRecord (croak s) code pc v with
    state := .error, stall := 0, registered := false, waitPassed := false, abortPend := false,
    aborted := v.aborted || v.abortPend } s)
  let s3 := newtStopped n (programEnds n s2)
  if v.role = .scheduled then jobStop 0x0A05 (newtPlace s n) s3 else s3

/-- A newt stops on an error of the instruction at its head. `ras` tells whether the newt itself raises the code; a sync
error has been raised by the sync-object unit. -/
def newtError (n code pc lc : Nat) (ras : Bool) (s : State) : State :=
  newtHalt n code pc (if ras then raise (newtOcc n code pc lc s) s else s)

end Sys2Proof.Machine
end

