-- ==== Sys2Proof/Machine/Arith.lean ====
section
/-! DEFINITION. Number formats and exact values (02_number_formats.md, R38 to R62): element encodings, block scales,
packed elements, exact sums in a wide register and its tags, and partial blocks. -/

namespace Sys2Proof.Machine

/-- Parameters of a float format (Table 2-5): exponent bits, mantissa bits. -/
structure FloatFmt where
  eb : Nat
  mb : Nat
deriving DecidableEq, Repr

/-- Bias. E2M1 and E2M3 have bias 1, E3M2 3, and the others 2^(eb − 1) − 1, which gives the same. -/
def FloatFmt.bias (f : FloatFmt) : Nat := 2 ^ (f.eb - 1) - 1
/-- Precision with the hidden bit. -/
def FloatFmt.p (f : FloatFmt) : Nat := f.mb + 1
/-- Exponent of the smallest normal. -/
def FloatFmt.emin (f : FloatFmt) : Int := 1 - f.bias

/-- The float format of a code (Table 2-1); none for the integer formats and reserved codes. -/
def floatFmt (code : Nat) : Option FloatFmt :=
  match code with
  | 0 => some ⟨2, 1⟩
  | 1 => some ⟨2, 3⟩
  | 2 => some ⟨3, 2⟩
  | 3 => some ⟨4, 3⟩
  | 4 => some ⟨5, 2⟩
  | 6 => some ⟨8, 7⟩
  | 7 => some ⟨5, 10⟩
  | 8 => some ⟨8, 23⟩
  | 9 => some ⟨11, 52⟩
  | _ => none

/-- Element width in bits (Table 2-1). -/
def fmtBits (code : Nat) : Nat :=
  match code with
  | 0 => 4 | 1 => 6 | 2 => 6 | 3 => 8 | 4 => 8 | 5 => 8 | 6 => 16 | 7 => 16 | 8 => 32 | 9 => 64 | _ => 32

/-- Whether the format has infinities (Table 2-5). -/
def hasInf (code : Nat) : Bool := code == 4 || (6 ≤ code && code ≤ 9)

/-- Whether the format has a NaN. -/
def hasNan (code : Nat) : Bool := code == 3 || hasInf code

/-- Largest exponent of a finite value (Table 2-5); 0 for the integers, as R73 uses it. -/
def fmtEmax (code : Nat) : Int :=
  match code with
  | 0 => 2 | 1 => 2 | 2 => 4 | 3 => 8 | 4 => 15 | 6 => 127 | 7 => 15 | 8 => 127 | 9 => 1023 | _ => 0

/-- The canonical NaN (R45); zero where the format has none. -/
def canonNan (code : Nat) : Nat :=
  match code with
  | 3 => 0x7F | 4 => 0x7E | 6 => 0x7FC0 | 7 => 0x7E00 | 8 => 0x7FC00000 | 9 => 0x7FF8000000000000 | _ => 0

/-- An exact value: NaN, an infinity with its sign, or ± m × 2^e (m = 0 is a zero with its sign). -/
inductive Val where
  | nan
  | inf (neg : Bool)
  | fin (neg : Bool) (m : Nat) (e : Int)
deriving DecidableEq, Repr, Inhabited

/-- The exact value of a float encoding (R42, R44). -/
def floatVal (code : Nat) (f : FloatFmt) (raw : Nat) : Val :=
  let neg := bitOf raw (f.eb + f.mb)
  let ex : Nat := raw / 2 ^ f.mb % 2 ^ f.eb
  let man := raw % 2 ^ f.mb
  if code = 3 ∧ ex = 15 ∧ man = 7 then .nan
  else if hasInf code && ex == 2 ^ f.eb - 1 then (if man = 0 then .inf neg else .nan)
  else if ex = 0 then .fin neg man (f.emin - f.mb)
  else .fin neg (man + 2 ^ f.mb) ((ex : Int) - f.bias - f.mb)

/-- The exact value of an integer × 2^e. -/
def intVal (v e : Int) : Val := .fin (decide (v < 0)) v.natAbs e

/-- The exact value of one element (R42, R48); `scaled` for elements of a block-scaled form. -/
def elemVal (code : Nat) (scaled : Bool) (raw : Nat) : Val :=
  match floatFmt code with
  | some f => floatVal code f raw
  | none => if code = 5 then intVal (signed 8 raw) (if scaled then -6 else 0) else intVal (signed 32 raw) 0

/-- The exact value of a binary32 encoding. -/
def b32 (raw : Nat) : Val := floatVal 8 ⟨8, 23⟩ raw

/-- Product of two exact values (R55). -/
def valMul (a b : Val) : Val :=
  match a, b with
  | .nan, _ => .nan
  | _, .nan => .nan
  | .inf s, .inf t => .inf (xor s t)
  | .inf s, .fin t m _ => if m = 0 then .nan else .inf (xor s t)
  | .fin s m _, .inf t => if m = 0 then .nan else .inf (xor s t)
  | .fin s m e, .fin t n f => .fin (xor s t) (m * n) (e + f)

/-! Format bytes, packing and sidecars (R39, R46, R49). -/

/-- FMT of a format byte. -/
def fbFmt (b : Nat) : Nat := b % 16
/-- SFORM of a format byte. -/
def fbForm (b : Nat) : Nat := b / 16 % 8
/-- Whether a format byte is no reserved or disallowed encoding (R38 to R40). -/
def fbOk (b : Nat) : Bool :=
  decide (b < 128 ∧ fbFmt b ≤ 10 ∧ fbForm b ≤ 4) && (fbForm b == 0 || decide (fbFmt b ≤ 5))
/-- Block size of a scale form. -/
def formBlock (f : Nat) : Nat := if f % 2 = 1 then 32 else 16
/-- Two-level forms. -/
def twoLevel (f : Nat) : Bool := f == 3 || f == 4
/-- Round up to a multiple of `k`. -/
def roundUp (n k : Nat) : Nat := (n + k - 1) / k * k
/-- Packed size of `n` elements in bytes. -/
def packedSize (code n : Nat) : Nat := (n * fmtBits code + 7) / 8
/-- Elements per tile (Table 2-7). -/
def tileElems (code : Nat) : Nat := if fmtBits code = 6 then 5440 else 4096 * 8 / fmtBits code
/-- Sidecar size in bytes for `n` elements (R49). -/
def sidecarSize (form n : Nat) : Nat :=
  if form = 0 then 0 else (if twoLevel form then 4 else 0) + (n + formBlock form - 1) / formBlock form

/-- Element `i` of packed bytes (R46). -/
def elemRaw (code : Nat) (bs : List Byte) (i : Nat) : Nat :=
  let w := fmtBits code
  bits (fieldAt bs (i * w / 8) (w / 8 + 2)) (i * w % 8 + w - 1) (i * w % 8)

/-- Pack encodings into bytes (R46): the bits of the elements from bit 0 upwards. -/
def packElems (code : Nat) (es : List Nat) : List Byte :=
  let w := fmtBits code
  leBytes ((es.length * w + 7) / 8) (pack (es.map (fun e => (w, e))))

/-- A block's scale: every element NaN, or a factor. -/
inductive Scale where
  | nanBlock (fault : Bool)
  | factor (v : Val)
deriving DecidableEq, Repr, Inhabited

/-- The scale of a block with code `c` and, in a two-level form, tile scale `t` (R47, R51). A zero tile scale has no unbiased
exponent E, and the spec does not say whether the bound on (c − 127) + E then holds: DESIGN CHOICE, no block of such a tile is
held to it, so each has a zero factor and none counts in SCALE_FAULT (log 125). -/
def blockScale (form c t : Nat) : Scale :=
  if c = 0xFF then .nanBlock false
  else if !twoLevel form then .factor (.fin false 1 ((c : Int) - 127))
  else
    let ex : Nat := t / 2 ^ 23 % 256
    let eff : Int := (c : Int) - 127 + ((ex : Int) - 127)
    if t % 2 ^ 31 = 0 then .factor (.fin (bitOf t 31) 0 0)
    else if ex = 0 ∨ ex = 255 then .nanBlock true
    else if eff < -121 ∨ 127 < eff then .nanBlock true
    else .factor (valMul (b32 t) (.fin false 1 ((c : Int) - 127)))

/-- Element value times its block scale. A zero tile scale leaves NaN and infinite elements NaN (R51). -/
def scaleVal (sc : Scale) (v : Val) : Val :=
  match sc with
  | .nanBlock _ => .nan
  | .factor f => valMul f v

/-- The block scales of a sidecar, in order. -/
def sidecarScales (form n : Nat) (sc : List Byte) : List Scale :=
  let off := if twoLevel form then 4 else 0
  let t := fieldAt sc 0 4
  (List.range ((n + formBlock form - 1) / formBlock form)).map (fun b => blockScale form (fieldAt sc (off + b) 1) t)

/-- The `n` element values of packed bytes under a format byte and its sidecar, and SCALE_FAULT (R51). -/
def readVals (fb n : Nat) (bs sc : List Byte) : List Val × Nat :=
  let code := fbFmt fb
  let form := fbForm fb
  if form = 0 then ((List.range n).map (fun i => elemVal code false (elemRaw code bs i)), 0)
  else
    let scales := sidecarScales form n sc
    ((List.range n).map (fun i =>
        scaleVal (scales.getD (i / formBlock form) default) (elemVal code true (elemRaw code bs i))),
      scales.countP (fun x => x == .nanBlock true))

/-! Exact sums (R53 to R58). -/

/-- An accumulated value: the integer in units of 2^-base, and the five tags. -/
structure Acc where
  w : Int := 0
  nan : Bool := false
  pinf : Bool := false
  ninf : Bool := false
  notNegZ : Bool := false
  added : Bool := false
deriving DecidableEq, Repr, Inhabited

/-- Weight of the lowest bit: 320 for one register, 1,280 for a chain of four (R58). -/
def accBase (chain : Bool) : Nat := if chain then 1280 else 320

/-- ± m × 2^e as an integer in units of 2^-base, truncated toward zero. -/
def toUnits (base : Nat) (neg : Bool) (m : Nat) (e : Int) : Int :=
  let k := e + base
  let a := if 0 ≤ k then m * 2 ^ k.toNat else m / 2 ^ (-k).toNat
  if neg then -(a : Int) else a

/-- Add one addend (R55). -/
def accAdd (base : Nat) (a : Acc) (v : Val) : Acc :=
  match v with
  | .nan => { a with nan := true, notNegZ := true, added := true }
  | .inf s => { a with pinf := a.pinf || !s, ninf := a.ninf || s, notNegZ := true, added := true }
  | .fin s m e => { a with w := a.w + toUnits base s m e, notNegZ := a.notNegZ || !(s && m == 0), added := true }

/-- Join two accumulated values exactly: an escape record read by a RED (R62). -/
def accJoin (a b : Acc) : Acc :=
  { w := a.w + b.w, nan := a.nan || b.nan, pinf := a.pinf || b.pinf, ninf := a.ninf || b.ninf,
    notNegZ := a.notNegZ || b.notNegZ, added := a.added || b.added }

/-- The accumulated value (R56). -/
def accVal (base : Nat) (a : Acc) : Val :=
  if a.nan || (a.pinf && a.ninf) then .nan
  else if a.pinf then .inf false
  else if a.ninf then .inf true
  else if a.w = 0 then .fin (!a.notNegZ && a.added) 0 0
  else .fin (decide (a.w < 0)) a.w.natAbs (-(base : Int))

/-- A binary64 product under the window of the chain (R58): the addend, INF_ADDEND, PRODUCT_UNDERFLOW. -/
def chainProduct (v : Val) : Val × Bool × Bool :=
  match v with
  | .fin s m e =>
    if m = 0 then (v, false, false)
    else if 1248 ≤ (Nat.log2 m : Int) + e then (.inf s, true, false)
    else
      let k := e + 1280
      if 0 ≤ k then (v, false, false)
      else
        let t := m / 2 ^ (-k).toNat
        (.fin s t (-1280), false, decide (t * 2 ^ (-k).toNat ≠ m))
  | _ => (v, false, false)

/-- Tags of an accumulated value as bits [4:0] (R53). -/
def accTags (a : Acc) : Nat :=
  bnat a.nan + 2 * bnat a.pinf + 4 * bnat a.ninf + 8 * bnat a.notNegZ + 16 * bnat a.added

/-- An accumulated value from an integer and tags. -/
def accOf (w : Int) (t : Nat) : Acc :=
  { w := w, nan := bitOf t 0, pinf := bitOf t 1, ninf := bitOf t 2, notNegZ := bitOf t 3, added := bitOf t 4 }

/-- A wide register as an accumulated value. -/
def regAcc (r : WReg) : Acc :=
  { w := r.w.toInt, nan := r.nan, pinf := r.pinf, ninf := r.ninf, notNegZ := r.notNegZ, added := r.added }

/-- The wide register that holds an accumulated value. -/
def accReg (a : Acc) : WReg :=
  { w := BitVec.ofInt 640 a.w, nan := a.nan, pinf := a.pinf, ninf := a.ninf, notNegZ := a.notNegZ, added := a.added }

/-- Four chained registers as one accumulated value, the lowest number least significant (R58, R105). -/
def chainAcc (rs : List WReg) : Acc :=
  let n := (List.range 4).foldl (fun t i => t + (rs.getD i default).w.toNat * 2 ^ (640 * i)) 0
  let or (f : WReg → Bool) := rs.any f
  { w := signed 2560 n, nan := or (·.nan), pinf := or (·.pinf), ninf := or (·.ninf), notNegZ := or (·.notNegZ),
    added := or (·.added) }

/-- The four registers of a chain; the tags go with register 0 of the chain (log 14). -/
def accChain (a : Acc) : List WReg :=
  let n := unsigned 2560 a.w
  (List.range 4).map (fun i =>
    let r : WReg := { w := BitVec.ofNat 640 (n / 2 ^ (640 * i)) }
    if i = 0 then { r with nan := a.nan, pinf := a.pinf, ninf := a.ninf, notNegZ := a.notNegZ, added := a.added }
    else r)

/-! Partial blocks (R60 to R62). -/

/-- Bytes of a partial integer. -/
def pwBytes (pw : Nat) : Nat := 4 * 2 ^ pw
/-- Bytes of a partial block. -/
def blockBytes (pw : Nat) : Nat := 8 + 32 * pwBytes pw

/-- The number of trailing zero bits of a non-zero number below 2^fuel. -/
def lowBit (fuel n : Nat) : Nat :=
  match fuel with
  | 0 => 0
  | fuel + 1 => if n % 2 = 1 then 0 else 1 + lowBit fuel (n / 2)

/-- Bytes of an escape record's element values: tag, then 80 or 320 bytes of the register (R62). -/
def escBytes (chain : Bool) (as : List Acc) : List Byte :=
  as.flatMap (fun a => leBytes 1 (accTags a) ++
    leBytes (if chain then 320 else 80) (unsigned (if chain then 2560 else 640) a.w))

/-- The element values of an escape record. -/
def escAccs (chain : Bool) (bs : List Byte) : List Acc :=
  let n := if chain then 321 else 81
  (List.range 32).map (fun i =>
    accOf (signed (8 * (n - 1)) (fieldAt bs (n * i + 1) (n - 1))) (fieldAt bs (n * i) 1))

/-- An element of an escape record in the units of the sum that takes it (R62). One that is no multiple of the sum's unit is a
free value (log 2): the spec gives no result for it. -/
def accRebase (base : Nat) (wide : Bool) (free : Nat) (a : Acc) : Acc :=
  let k := accBase wide
  if k ≤ base then { a with w := a.w * 2 ^ (base - k) }
  else if a.w % 2 ^ (k - base) = 0 then { a with w := a.w / 2 ^ (k - base) }
  else { a with w := ((Config.freeWord free).toNat : Int) }

/-- A partial block of 32 accumulated values (R60, R61), and whether it is escaped. -/
def partialBlock (base pw : Nat) (as : List Acc) : List Byte × Bool :=
  let nz := ofBits ((List.range 32).filter (fun i =>
    let a := as.getD i default
    a.w == 0 && !a.notNegZ && a.added))
  let lows := (as.filter (fun a => a.w ≠ 0)).map (fun a => lowBit 2560 a.w.natAbs)
  let lo := lows.foldl min (lows.headD 0)
  let e : Int := if lows.isEmpty then 0 else (lo : Int) - base
  let ks := as.map (fun a => a.w / 2 ^ lo)
  let w := 8 * pwBytes pw
  let fits := ks.all (fun k => decide (-(2 ^ (w - 1) : Int) ≤ k ∧ k < 2 ^ (w - 1))) &&
    as.all (fun a => !a.nan && !a.pinf && !a.ninf)
  let head (ex : Int) (esc : Bool) := leBytes 2 (unsigned 16 ex) ++ leBytes 2 (bnat esc) ++ leBytes 4 nz
  if fits then (head e false ++ (List.range 32).flatMap (fun i => leBytes (w / 8) (unsigned w (ks.getD i 0))), false)
  else (head e true ++ zeros (32 * (w / 8)), true)

/-- ESC of a partial block. -/
def blockEsc (b : List Byte) : Bool := bitOf (fieldAt b 0 8) 16

/-- Integer `i` of an unescaped partial block as an addend (R61): k × 2^e, exactly. One that is no multiple of the
register's unit or lies outside its window is a free value (log 2): the spec gives no result for it. -/
def partialAddend (base pw : Nat) (b : List Byte) (free : Nat) (i : Nat) : Val :=
  let e := signed 16 (fieldAt b 0 2)
  let k := signed (8 * pwBytes pw) (fieldAt b (8 + i * pwBytes pw) (pwBytes pw))
  if k = 0 then .fin false 0 0
  else if (e + base < 0 ∧ k.natAbs % 2 ^ (-(e + base)).toNat ≠ 0) ∨
      2 * (base : Int) - 1 < (Nat.log2 k.natAbs : Int) + e + base then
    .fin false (Config.freeWord (free + i)).toNat (-(base : Int))
  else intVal k e

/-- Add element `i` of an unescaped partial block (R61): its integer, and NOTNEGZ where its NZMASK bit is clear. One whose
bit is set leaves NOTNEGZ as it is. -/
def partialAdd (base pw : Nat) (b : List Byte) (free : Nat) (a : Acc) (i : Nat) : Acc :=
  let r := accAdd base a (partialAddend base pw b free i)
  if bitOf (fieldAt b 4 4) i then { r with notNegZ := a.notNegZ } else r

end Sys2Proof.Machine
end

