-- ==== Sys2Proof/Machine/WriteOut.lean ====
section
/-! DEFINITION. Write-out (R64 to R77): the one rounding of an exact value to an output format, the output modes,
block-scaled outputs, the arithmetic status block (R70), and the IEEE 754 operations of LEDGER and of the
epilogue (R78 to R80, R106 to R110). -/

namespace Sys2Proof.Machine

/-- Fields of the ACW (Table 2-4). -/
def acwFmt (w : Nat) : Nat := w % 256
/-- AMODE: LEDGER. -/
def acwLedger (w : Nat) : Bool := bitOf w 8
/-- OMODE: LOCATE. -/
def acwLocate (w : Nat) : Bool := bitOf w 9
/-- RMODE. -/
def acwRmode (w : Nat) : Nat := bits w 11 10
/-- PWIDTH. -/
def acwPw (w : Nat) : Nat := bits w 13 12
/-- No reserved encoding in an ACW (R41); LEDGER meets R78 for its output format and rounding mode. -/
def acwOk (w : Nat) : Bool :=
  decide (w < 2 ^ 14 ∧ acwPw w ≠ 3) && fbOk (acwFmt w) &&
    (!acwLedger w || ((acwFmt w == 7 || acwFmt w == 8 || acwFmt w == 9) && acwRmode w == 0))

/-! Rounding (R65, R66). -/

/-- The kept integer after rounding `keep` with remainder `rem` of weight 2^sh. -/
def roundKeep (rmode rnd keep rem sh : Nat) : Nat :=
  let half := if sh = 0 then 1 else 2 ^ (sh - 1)
  match rmode with
  | 0 => if half < rem ∨ (rem = half ∧ keep % 2 = 1) then keep + 1 else keep
  | 1 => keep
  | 2 => if rem ≠ 0 then keep ||| 1 else keep
  | _ => if rnd < 2 ^ 32 * rem / 2 ^ sh then keep + 1 else keep

/-- Round m × 2^e at weight 2^q: the kept integer and whether bits were discarded. -/
def roundAt (rmode rnd m : Nat) (e q : Int) : Nat × Bool :=
  if q ≤ e then (m * 2 ^ (e - q).toNat, false)
  else
    let sh := (q - e).toNat
    (roundKeep rmode rnd (m / 2 ^ sh) (m % 2 ^ sh) sh, decide (m % 2 ^ sh ≠ 0))

/-- A rounded value: kept integer, weight, overflow, inexact. -/
structure Rounded where
  keep : Nat
  q : Int
  ovf : Bool
  inexact : Bool
deriving DecidableEq, Repr

/-- Largest finite value as kept integer and weight. -/
def maxFin (code : Nat) (f : FloatFmt) : Nat × Int :=
  if code = 3 then (14, 5) else (2 ^ f.p - 1, fmtEmax code - f.mb)

/-- Whether k × 2^q exceeds n × 2^r. -/
def gtScaled (k : Nat) (q : Int) (n : Nat) (r : Int) : Bool :=
  if r ≤ q then decide (n < k * 2 ^ (q - r).toNat) else decide (n * 2 ^ (r - q).toNat < k)

/-- Write-out of ± m × 2^e (m ≠ 0) to a format (R65). `iq` is the fixed weight of an integer output. -/
def roundTo (code rmode rnd : Nat) (neg : Bool) (m : Nat) (e iq : Int) : Rounded :=
  match floatFmt code with
  | some f =>
    let ev := max ((Nat.log2 m : Int) + e) f.emin
    let q := ev - f.mb
    let (keep, ix) := roundAt rmode rnd m e q
    let (keep, q) := if keep = 2 ^ f.p then (keep / 2, q + 1) else (keep, q)
    let (mk, mq) := maxFin code f
    { keep := keep, q := q, ovf := gtScaled keep q mk mq, inexact := ix }
  | none =>
    let (keep, ix) := roundAt rmode rnd m e iq
    let lim := 2 ^ (fmtBits code - 1)
    { keep := keep, q := iq, ovf := if neg then decide (lim < keep) else decide (lim - 1 < keep), inexact := ix }

/-- Encoding of a rounded value that does not overflow. -/
def encode (code : Nat) (neg : Bool) (r : Rounded) : Nat :=
  match floatFmt code with
  | some f =>
    let s := if neg then 2 ^ (f.eb + f.mb) else 0
    if r.keep < 2 ^ f.mb then s + r.keep
    else s + (r.q + f.mb + f.bias).toNat * 2 ^ f.mb + (r.keep - 2 ^ f.mb)
  | none => if neg then (2 ^ fmtBits code - r.keep) % 2 ^ fmtBits code else r.keep

/-- The signed largest finite encoding (Table 2-6). -/
def largest (code : Nat) (neg : Bool) : Nat :=
  match floatFmt code with
  | some f =>
    (if neg then 2 ^ (f.eb + f.mb) else 0) +
      (if code = 3 then 0x7E else if hasInf code then (2 ^ f.eb - 1) * 2 ^ f.mb - 1 else 2 ^ (f.eb + f.mb) - 1)
  | none => if neg then 2 ^ (fmtBits code - 1) else 2 ^ (fmtBits code - 1) - 1

/-- A zero of sign `neg`. -/
def zeroEnc (code : Nat) (neg : Bool) : Nat :=
  match floatFmt code with
  | some f => if neg then 2 ^ (f.eb + f.mb) else 0
  | none => 0

/-- What an overflowing or infinite result writes (Table 2-11). -/
def overEnc (code : Nat) (locate neg : Bool) : Nat :=
  if !locate then largest code neg
  else if code = 3 then canonNan 3
  else if hasInf code then
    match floatFmt code with
    | some f => (if neg then 2 ^ (f.eb + f.mb) else 0) + (2 ^ f.eb - 1) * 2 ^ f.mb
    | none => largest code neg
  else largest code neg

/-- One element written out: its encoding, and what it adds to the ASB. `loc` is its LOCATE_KIND when it is
located. -/
structure Elem where
  enc : Nat
  sat : Nat := 0
  nan : Nat := 0
  tile : Nat := 0
  clamp : Nat := 0
  loc : Option Nat := none
deriving DecidableEq, Repr, Inhabited

/-- LOCATE_KIND of a signed overflow. -/
def kindOf (neg : Bool) : Nat := if neg then 2 else 1

/-- Write-out to a plain format (R65, R66, Table 2-11). -/
def writePlain (code rmode rnd : Nat) (locate : Bool) (v : Val) : Elem :=
  match v with
  | .nan => { enc := if hasNan code then canonNan code else largest code false, nan := 1, loc := some 0 }
  | .inf s => { enc := overEnc code locate s, sat := 1, loc := some (kindOf s) }
  | .fin s m e =>
    if m = 0 then { enc := zeroEnc code s }
    else
      let r := roundTo code rmode rnd s m e 0
      if r.ovf then { enc := overEnc code locate s, sat := 1, loc := some (kindOf s) }
      else { enc := if r.keep = 0 then zeroEnc code s else encode code s r }

/-! Block-scaled output (R73 to R77). -/

/-- floor(log2) of the largest finite magnitude of a block, if any value is finite and non-zero. -/
def blockTop (vs : List Val) : Option Int :=
  vs.foldl (fun t v => match v with
    | .fin _ m e => if m = 0 then t else
        let l := (Nat.log2 m : Int) + e
        match t with
        | none => some l
        | some u => some (max l u)
    | _ => t) none

/-- The scale exponent of a block and whether it was clamped at 127 (R73). -/
def blockExp (code : Nat) (vs : List Val) : Int × Bool :=
  match blockTop vs with
  | none => (127, true)
  | some l =>
    let x := l - fmtEmax code
    (max (-127) (min 127 x), decide (127 < x))

/-- One element of a block with scale exponent x (R73, R76, R77). -/
def writeScaled (code rmode rnd : Nat) (locate top : Bool) (x : Int) (v : Val) : Elem :=
  match v with
  | .nan => { enc := canonNan code, nan := 1, loc := some 0 }
  | .inf s => { enc := overEnc code locate s, sat := 1, loc := some (kindOf s) }
  | .fin s m e =>
    if m = 0 then { enc := zeroEnc code s }
    else
      let r := roundTo code rmode rnd s m (e - x) (-6)
      if r.ovf then
        if top then { enc := overEnc code locate s, sat := 1, loc := some (kindOf s) }
        else { enc := largest code s, clamp := 1 }
      else if r.keep = 0 then { enc := zeroEnc code s, tile := 1 }
      else { enc := encode code s r }

/-- Whether a value is an exact zero. -/
def Val.isZero (v : Val) : Bool :=
  match v with
  | .fin _ m _ => m == 0
  | _ => false

/-- Write out one block: its scale code and its elements (R73 to R77). `rnds` are the block's SR values. -/
def writeBlock (code rmode : Nat) (locate : Bool) (rnds : List Nat) (vs : List Val) : Nat × List Elem :=
  if vs.any (· == .nan) then
    (0xFF, vs.map (fun v => if v = .nan then { enc := canonNan code, nan := 1, loc := some 0 }
                            else { enc := canonNan code }))
  else if vs.all Val.isZero then (0, vs.map (fun _ => { enc := 0 }))
  else
    let (x, top) := blockExp code vs
    ((x + 127).toNat, (vs.zipIdx).map (fun e => writeScaled code rmode (rnds.getD e.2 0) locate top x e.1))

/-! The arithmetic status block (Table 2-12). -/

/-- Counts and flags of one instruction. -/
structure Counts where
  sat : Nat := 0
  nan : Nat := 0
  tileU : Nat := 0
  clamp : Nat := 0
  scale : Nat := 0
  prod : Nat := 0
  esc : Nat := 0
  flags : Nat := 0
  loc : Option (Nat × Nat × Nat) := none
deriving DecidableEq, Repr

/-- The lower of two located (tile, element, kind) triples (R71). -/
def locMin (a b : Option (Nat × Nat × Nat)) : Option (Nat × Nat × Nat) :=
  match a, b with
  | none, b => b
  | a, none => a
  | some (t, e, k), some (u, f, l) => if u < t ∨ (u = t ∧ f < e) then some (u, f, l) else some (t, e, k)

/-- The counts of written elements; `pos` gives an element's (tile, element) indices (R510). -/
def elemCounts (locate : Bool) (pos : Nat → Nat × Nat) (es : List Elem) : Counts :=
  { sat := (es.map (·.sat)).sum, nan := (es.map (·.nan)).sum, tileU := (es.map (·.tile)).sum,
    clamp := (es.map (·.clamp)).sum,
    loc := if locate then
        (es.zipIdx).foldl (fun t e => match e.1.loc with
          | none => t
          | some k => locMin t (some ((pos e.2).1, (pos e.2).2, k))) none
      else none }

/-- The located triple that an ASB holds. -/
def asbLoc (b : List Byte) : Option (Nat × Nat × Nat) :=
  if bitOf (fieldAt b 28 2) 0 then some (fieldAt b 32 4, fieldAt b 36 4, bits (fieldAt b 28 2) 2 1) else none

/-- An ASB with its counters, flags, ACW and location (Table 2-12). -/
def asbBytes (cs : List Nat) (flags acw : Nat) (loc : Option (Nat × Nat × Nat)) : List Byte :=
  let (t, e, k, hit) := match loc with
    | none => (0, 0, 0, 0)
    | some (t, e, k) => (t, e, k, 1)
  cs.flatMap (leBytes 4) ++ leBytes 2 (flags / 8 * 8 + 2 * k + hit) ++ leBytes 2 acw ++ leBytes 4 t ++ leBytes 4 e

/-- Counters of an ASB. -/
def asbCtrs (b : List Byte) : List Nat := (List.range 7).map (fun i => fieldAt b (4 * i) 4)

/-- The ASB update of one instruction (R112), in the form of an ASB. -/
def asbOf (c : Counts) (acw : Nat) : List Byte :=
  asbBytes [c.sat, c.nan, c.tileU, c.clamp, c.scale, c.prod, c.esc] c.flags acw c.loc

/-- The ASB `a` after the update or packet `d` (R112, R135): counters add, flags join, the ACW is that of `d`, and
the lower location is kept. -/
def asbMerge (a d : List Byte) : List Byte :=
  asbBytes ((asbCtrs a).zipWith (satAdd 0xFFFFFFFF) (asbCtrs d)) (fieldAt a 28 2 ||| fieldAt d 28 2)
    (fieldAt d 30 2) (locMin (asbLoc a) (asbLoc d))

/-! IEEE 754 operations with roundTiesToEven (R79, R80). -/

/-- IEEE exception flags: INVALID, OVERFLOW, UNDERFLOW, INEXACT as FLAGS bits 3 to 6. -/
def fInvalid : Nat := 8
/-- OVERFLOW. -/
def fOverflow : Nat := 16
/-- UNDERFLOW. -/
def fUnderflow : Nat := 32
/-- INEXACT. -/
def fInexact : Nat := 64

/-- Round an exact value to a float format with roundTiesToEven: the value and its flags. Tininess is detected
after rounding with unbounded exponent; underflow needs an inexact result. -/
def ieeeRound (code : Nat) (v : Val) : Val × Nat :=
  match v, floatFmt code with
  | .fin s m e, some f =>
    if m = 0 then (v, 0)
    else
      let r := roundTo code 0 0 s m e 0
      let l := (Nat.log2 m : Int) + e
      let (k, _) := roundAt 0 0 m e (l - f.mb)
      let tiny := if k = 2 ^ f.p then decide (l + 1 < f.emin) else decide (l < f.emin)
      if r.ovf then (.inf s, fOverflow + fInexact)
      else (.fin s r.keep r.q, (if tiny && r.inexact then fUnderflow else 0) + (if r.inexact then fInexact else 0))
  | v, _ => (v, 0)

/-- Exact sum of two finite values, with the IEEE sign of an exact zero under roundTiesToEven. -/
def exactAdd (s : Bool) (m : Nat) (e : Int) (t : Bool) (n : Nat) (f : Int) : Val :=
  if m = 0 ∧ n = 0 then .fin (s && t) 0 0
  else
    let g := min e f
    let sg (x : Bool) (k : Nat) (h : Int) : Int :=
      let a : Int := (k * 2 ^ (h - g).toNat : Nat)
      if x then -a else a
    let z := sg s m e + sg t n f
    if z = 0 then .fin false 0 0 else .fin (decide (z < 0)) z.natAbs g

/-- Exact sum of two values: infinities of unlike sign are INVALID and give NaN. -/
def ieeeSum (a b : Val) : Val × Nat :=
  match a, b with
  | .nan, _ => (.nan, 0)
  | _, .nan => (.nan, 0)
  | .inf s, .inf t => if s = t then (.inf s, 0) else (.nan, fInvalid)
  | .inf s, _ => (.inf s, 0)
  | _, .inf t => (.inf t, 0)
  | .fin s m e, .fin t n f =>
    if m = 0 ∧ n ≠ 0 then (b, 0) else if n = 0 ∧ m ≠ 0 then (a, 0) else (exactAdd s m e t n f, 0)

/-- Exact product: zero times infinity is INVALID and gives NaN. -/
def ieeeProd (a b : Val) : Val × Nat :=
  let v := valMul a b
  (v, if v = .nan ∧ a ≠ .nan ∧ b ≠ .nan then fInvalid else 0)

/-- addition. -/
def ieeeAdd (code : Nat) (a b : Val) : Val × Nat :=
  let (v, f) := ieeeSum a b
  let (r, g) := ieeeRound code v
  (r, f ||| g)

/-- multiplication. -/
def ieeeMul (code : Nat) (a b : Val) : Val × Nat :=
  let (v, f) := ieeeProd a b
  let (r, g) := ieeeRound code v
  (r, f ||| g)

/-- fusedMultiplyAdd: a quiet NaN addend signals nothing (R80). -/
def ieeeFma (code : Nat) (a b c : Val) : Val × Nat :=
  if c = .nan then (.nan, 0)
  else
    let (p, f) := ieeeProd a b
    let (v, g) := ieeeSum p c
    let (r, h) := ieeeRound code v
    (r, f ||| g ||| h)

/-- Whether a NaN encoding of an input format is signalling (R80). -/
def signalling (code raw : Nat) : Bool :=
  (6 ≤ code && code ≤ 9) &&
    match floatFmt code with
    | some f => floatVal code f raw == .nan && !bitOf raw (f.mb - 1)
    | none => false

/-- A LEDGER input: its value and the flag of its conversion. -/
def ledgerIn (code raw : Nat) : Val × Nat :=
  (elemVal code false raw, if signalling code raw then fInvalid else 0)

/-- Whether a plain input format converts exactly to a ledger format (Table 2-14). -/
def ledgerFmtOk (inFmt ledger : Nat) : Bool :=
  fbForm inFmt == 0 &&
    match fbFmt inFmt with
    | 6 => ledger == 8 || ledger == 9
    | 8 => ledger == 8 || ledger == 9
    | 9 => ledger == 9
    | 10 => ledger == 9
    | c => decide (c ≤ 10) && (ledger == 7 || ledger == 8 || ledger == 9)

/-- The first loop of R79 from a running value. -/
def ledgerSum (code : Nat) (start : Val × Nat) (xs : List (Val × Nat)) : Val × Nat :=
  xs.foldl (fun a x => let r := ieeeAdd code a.1 x.1; (r.1, a.2 ||| x.2 ||| r.2)) start

/-- The second loop of R79, from a held value or from the first product. -/
def ledgerDot (code : Nat) (start : Option Val) (ab : List ((Val × Nat) × (Val × Nat))) : Val × Nat :=
  match start, ab with
  | none, (a, b) :: r =>
    let m := ieeeMul code a.1 b.1
    r.foldl (fun t x => let y := ieeeFma code x.1.1 x.2.1 t.1; (y.1, t.2 ||| x.1.2 ||| x.2.2 ||| y.2))
      (m.1, a.2 ||| b.2 ||| m.2)
  | some v, r =>
    r.foldl (fun t x => let y := ieeeFma code x.1.1 x.2.1 t.1; (y.1, t.2 ||| x.1.2 ||| x.2.2 ||| y.2)) (v, 0)
  | none, [] => (.fin false 0 0, 0)

/-! Epilogue (R107, R108). -/

/-- floor(a × 2^e / 2^k) of a signed exact value. -/
def floorAt (neg : Bool) (m : Nat) (e k : Int) : Int :=
  let z : Int := if neg then -(m : Int) else m
  if k ≤ e then z * 2 ^ (e - k).toNat else z / 2 ^ (k - e).toNat

/-- The negation of a value. -/
def valNeg (v : Val) : Val :=
  match v with
  | .nan => .nan
  | .inf s => .inf !s
  | .fin s m e => .fin (!s) m e

/-- INVALID where a binary32 input of the epilogue is a signalling NaN, as its conversion raises it (R80, R110). -/
def signalFlag (raw : Nat) : Nat := if signalling 8 raw then fInvalid else 0

/-- The table value of t (R108), with the exception flags of its fusedMultiplyAdd and of the entry that it uses. ±0 maps as
+0. `tab` is the 8,224 bytes. -/
def tableValue (tab : List Byte) (t : Val) : Val × Nat :=
  let sk := signed 8 (fieldAt tab 2 1)
  let flags := fieldAt tab 3 1
  let x0 := b32 (fieldAt tab 4 4)
  match t with
  | .nan => (.nan, 0)
  | .inf s => (b32 (fieldAt tab (if s then 8 else 12) 4), 0)
  | .fin s0 m0 e0 =>
    let d := (ieeeSum (.fin (s0 && m0 != 0) m0 e0) (valNeg x0)).1
    let i : Int := match d with
      | .fin s m e => floorAt s m e sk
      | _ => 0
    let ic := (max 0 (min 1023 i)).toNat
    let xi := (ieeeSum d (valNeg (.fin false ic sk))).1
    let u := if i < 0 && !bitOf flags 0 then .fin false 0 0
      else if 1023 < i && !bitOf flags 1 then .fin false 1 sk
      else xi
    let y := fieldAt tab (32 + 8 * ic) 4
    let g := fieldAt tab (36 + 8 * ic) 4
    let (r, f) := ieeeFma 8 (b32 g) u (b32 y)
    (r, f ||| signalFlag y ||| signalFlag g)

/-- ReLU (R107 step 2). -/
def relu (t : Val) : Val :=
  match t with
  | .nan => .nan
  | .inf s => if s then .fin false 0 0 else t
  | .fin s m _ => if s || m == 0 then .fin false 0 0 else t

/-- The value y of an epilogue and its flags: affine step, then activation (R107, R110). -/
def epilogue (scale bias : Nat) (tableId : Nat) (tab : List Byte) (v : Val) : Val × Nat :=
  let (t, f0) := ieeeFma 8 (b32 scale) v (b32 bias)
  let f := f0 ||| signalFlag scale ||| signalFlag bias
  if tableId = 0 then (t, f)
  else if tableId = 1 then (relu t, f)
  else
    let (y, g) := tableValue tab t
    (y, f ||| g)

/-! Stochastic rounding (R67). -/

/-- rnd of an element: seed, collective, rounding-point index, tile, element within the tile. -/
def srWord (seed : Word) (coll rpi tile elem : Nat) : Nat :=
  let h := shake256 (wordBytes seed ++ leBytes 3 coll ++ leBytes 1 rpi ++ leBytes 4 tile ++
    leBytes 2 (elem / 32) ++ zeros 6) 128
  fieldAt h (4 * (elem % 32)) 4

end Sys2Proof.Machine
end

