-- ==== Sys2Proof/Machine/Descr.lean ====
section
/-! DEFINITION. What a collective's descriptor says (Tables 4-1 and 4-7, R118 to R120, R136): contributions, result tiles, the
members that receive them, and the tile contexts that they close. -/

namespace Sys2Proof.Machine

/-! Fields. -/

/-- TABLE_ID. -/
def cdTable (d : List Byte) : Nat := fieldAt d 10 1
/-- Operations that write out a reduction (RPI 0). -/
def opReduces (op : Nat) : Bool := op == 1 || op == 2 || op == 5 || op == 0x11 || op == 0x12
/-- Operations with a contraction (RPI 1). -/
def opContracts (op : Nat) : Bool := op == 0x12 || op == 0x13
/-- Fused operations. -/
def opFused (op : Nat) : Bool := op == 0x11 || opContracts op
/-- ROOT names a member. -/
def cdRooted (d : List Byte) : Bool := cdOp d == 4 || cdOp d == 5 || (opFused (cdOp d) && cdDeliv d == 1)
/-- GROUP. -/
def cdGroup (d : List Byte) : Nat := fieldAt d 24 8
/-- WEIGHT. -/
def cdWeight (d : List Byte) : Nat := fieldAt d 32 8
/-- EPIPAR. -/
def cdEpipar (d : List Byte) : Nat := fieldAt d 40 8

/-- Elements of one member's contribution. -/
def cdElems (d : List Byte) : Nat := (cdTiles d - 1) * tileElems (fbFmt (cdFmt d)) + cdLast d

/-- K. -/
def wtK (w : List Byte) : Nat := fieldAt w 0 4
/-- N. -/
def wtN (w : List Byte) : Nat := fieldAt w 4 4
/-- B_FMT. -/
def wtFmt (w : List Byte) : Nat := fieldAt w 8 1
/-- The id of the table whose place an epilogue parameter object leaves open (R139, R240): TABLE_ID 2 to 255 with TABLE_ADDR none. -/
def epMissing (blk : List Byte) : Option Nat :=
  if 2 ≤ fieldAt blk 20 1 ∧ fieldAt blk 16 4 = 0xFFFFFFFF then some (fieldAt blk 20 1) else none

/-! Contributions. -/

/-- Tiles that a member of a rank contributes (Table 4-1). -/
def contribTiles (v : Coll) (rank : Nat) : Nat :=
  match cdOp v.desc with
  | 4 => if rank = cdRoot v.desc then cdTiles v.desc else 0
  | 6 => grpMembers v.group * cdTiles v.desc
  | 7 => 1
  | _ => cdTiles v.desc

/-- Cells of the element payload (kind 0) or sidecar (kind 1) of a contribution tile. -/
def contribCells (v : Coll) (kind tile : Nat) : Nat :=
  let fb := cdFmt v.desc
  let n := if tile % max 1 (cdTiles v.desc) + 1 = cdTiles v.desc then cdLast v.desc else tileElems (fbFmt fb)
  if kind = 7 then 1
  else if kind = 0 then (packedSize (fbFmt fb) n + 255) / 256
  else (sidecarSize (fbForm fb) n + 255) / 256

/-! Results. -/

/-- Format byte of a collective's results (Table 4-7). -/
def cdOutFmt (d : List Byte) : Nat :=
  if cdOp d = 3 ∨ cdOp d = 4 ∨ cdOp d = 6 then cdFmt d
  else if opContracts (cdOp d) then acwFmt (fieldAt d 8 2)
  else acwFmt (fieldAt d 6 2)

/-- Elements that a contraction writes out for `n` members: each row of K elements, of which GATHER_CONTRACT takes K / NMEMB from
every member, gives N (R120). -/
def contractElems (d w : List Byte) (n : Nat) : Nat :=
  let k := if cdOp d = 0x13 then wtK w / max 1 n else wtK w
  cdElems d / max 1 k * wtN w

/-- Result tiles of a collective of `n` members (Table 4-1, R120). -/
def resultTiles (d w : List Byte) (n : Nat) : Nat :=
  let e := tileElems (fbFmt (cdOutFmt d))
  if opContracts (cdOp d) then (contractElems d w n + e - 1) / e
  else if cdOp d = 3 ∨ cdOp d = 6 then n * cdTiles d
  else if cdOp d = 7 then 0 else cdTiles d

/-- Elements of result tile `t` (R119, R120, Table 4-1). -/
def resultElems (v : Coll) (t : Nat) : Nat :=
  let d := v.desc
  let e := tileElems (fbFmt (cdOutFmt d))
  if opContracts (cdOp d) then min e (contractElems d v.weights (grpMembers v.group) - t * e)
  else if t % max 1 (cdTiles d) + 1 = cdTiles d then cdLast d else tileElems (fbFmt (cdFmt d))

/-- Bytes of result tile `t`: payload and sidecar (R49, R131). -/
def resultBytes (v : Coll) (t : Nat) : Nat :=
  let fb := cdOutFmt v.desc
  packedSize (fbFmt fb) (resultElems v t) + sidecarSize (fbForm fb) (resultElems v t)

/-- Whether the member of a rank receives result tile `t` (Table 4-1). -/
def receives (v : Coll) (rank t : Nat) : Bool :=
  let d := v.desc
  let n := grpMembers v.group
  if cdOp d = 5 ∨ (opFused (cdOp d) ∧ cdDeliv d = 1) then rank == cdRoot d
  else if cdOp d = 2 ∨ (opFused (cdOp d) ∧ cdDeliv d = 2) then t / max 1 (resultTiles d v.weights n / max 1 n) == rank
  else true

/-- Result bytes that the member of a rank receives in all. -/
def bytesFor (v : Coll) (rank : Nat) : Nat :=
  (((List.range (resultTiles v.desc v.weights (grpMembers v.group))).filter (receives v rank)).map (resultBytes v)).sum

/-- The result tiles that contribution tile `t` has a part in. -/
def resultsOf (v : Coll) (t : Nat) : List Nat :=
  let d := v.desc
  let n := grpMembers v.group
  let nt := max 1 (cdTiles d)
  if cdOp d = 3 ∨ cdOp d = 6 then (List.range n).map (fun r => r * nt + t % nt)
  else if opContracts (cdOp d) then
    let e := tileElems (fbFmt (cdFmt d))
    let k := max 1 (if cdOp d = 0x13 then wtK v.weights / max 1 n else wtK v.weights)
    let e2 := tileElems (fbFmt (cdOutFmt d))
    let lo := t * e / k * wtN v.weights / e2
    let hi := ((t * e + e - 1) / k * wtN v.weights + wtN v.weights - 1) / e2
    ((List.range (hi + 1 - lo)).map (· + lo)).filter (fun x => decide (x < resultTiles d v.weights n))
  else [t]

/-- Whether a packet is the last of its result tile: of the sidecar where the format has one (R131). -/
def endsResult (v : Coll) (t : CollTag) : Bool :=
  t.last && t.kind == (if fbForm (cdOutFmt v.desc) = 0 then 4 else 5)

/-! Tile contexts (R136): those of a posted collective open with its first cell at the chip and close when the chip has sent the
results. -/

/-- The member ports of this chip that receive result tile `t`. -/
def tilePorts (v : Coll) (t : Nat) : List Nat := (v.members.filter (fun m => receives v m.2 t)).map (·.1)

/-- Whether the results of tile `t` have been sent: to every member port of this chip that receives one, or, where none does, with
the tile's last packet to another chip (`fwd`). -/
def tileSent (v : Coll) (fwd : Bool) (t : Nat) : Bool :=
  let ps := (resultsOf v t).flatMap (fun x => (tilePorts v x).map (fun p => (x, p)))
  if ps.isEmpty then fwd else ps.all (fun e => v.resSent.contains e)

/-- A packet of a posted collective has left on a port: contexts whose results have been sent close. -/
def ctxLeft (port : Nat) (t : CollTag) (v : Coll) : Coll :=
  if endsResult v t && decide (port < 128) then
    let v1 := { v with resSent := if v.resSent.contains (t.tile, port) then v.resSent else v.resSent ++ [(t.tile, port)] }
    { v1 with ctxs := v1.ctxs.filter (fun x => !tileSent v1 false x) }
  else if t.last && decide (t.kind ≤ 5 ∧ 128 ≤ port) then
    { v with ctxs := v.ctxs.filter (fun x => !(x == t.tile && tileSent v true x)) }
  else v

end Sys2Proof.Machine
end

