-- ==== Sys2Proof/Machine/Landing.lean ====
section
/-! DEFINITION. What reaches a newt's receive port (R87 to R89, R133 to R135): cells, ASB packets, and the packets that newts
of this chip send each other. -/

namespace Sys2Proof.Machine

/-- An ASB update or packet lands at an address (R112, R135), and its reports are raised (R72). -/
def asbLand (n a : Nat) (d : List Byte) (c : Nat) (src : Option (Nat × Nat)) (s : State) : State :=
  let v := newt s n
  let old := pondRead v a 40
  let new := asbMerge old d
  let occ (code : Nat) : Occ := match src with
    | none => { code := code, kind := 1, unit := n, coll := c }
    | some (pc, ob) => { code := code, kind := 1, unit := n, unit2 := pc, coll := c, d := [wordAt v pc, ob] }
  let at0 := if tget 0 v.asbOf c = 0 then tset 0 v.asbOf c a else v.asbOf
  let s1 := setNewt n (pondWrite a new { v with asbOf := at0 }) s
  let s2 := if bitOf (fieldAt new 28 2) 0 && !bitOf (fieldAt old 28 2) 0 then raise (occ 0x0901) s1 else s1
  if fieldAt old 16 4 = 0 ∧ fieldAt new 16 4 ≠ 0 then raise (occ 0x0902) s2 else s2

/-- Whether a landing of a range is one that R89 discards. -/
def landBad (v : Newt) (r : Nat × Nat) : Bool :=
  !inGeneral v r || v.inflight.any (fun i => i.reads.any (rangesMeet r) || i.writes.any (rangesMeet r))

/-- A collective whose cells the chip discards (R148). -/
def collDead (s : State) (c : Nat) : Bool :=
  s.colls.any (fun e => e.1 == c) && ((coll s c).state == .aborting || (coll s c).state == .aborted)

/-- A landing that R89 refuses stops the newt and writes nothing. No instruction raised it, and the spec names no PC or
collective for it: the record takes those of the newt's head (DESIGN CHOICE, log 128). -/
def landErr (n lc : Nat) (s : State) : State := newtError n 0x0908 (newt s n).pc lc true s

/-- Whether a contribution cell of a stream, landing on a range, meets one that landed before (R133): on the same bytes at
64-byte granularity, which is that of a slot's start, or in the same 256 bytes of its stream's slot. -/
def arrivalMeets (t : CollTag) (a n : Nat) (x : Arrival) : Bool :=
  rangesMeet (a, n) (x.addr, x.len) ||
    (x.coll == t.coll && x.kind == t.kind && x.tile == t.tile && x.rank == t.rank &&
      decide (a < x.addr + 256 ∧ x.addr < a + 256))

/-- The arrival of a contribution cell. -/
def arrivalOf (c : LandCell) : Arrival :=
  { coll := c.tag.coll, kind := c.tag.kind, tile := c.tag.tile, rank := c.tag.rank, addr := c.addr, len := c.data.length }

/-- Where a partial lies once one more of its cells has landed: from its lowest cell on. A partial that lay there before is
gone. -/
def partLand (c : LandCell) (ps : List PartAt) : List PartAt :=
  let key (x : PartAt) : Bool := x.coll == c.tag.coll && x.tile == c.tag.tile && x.rank == c.tag.rank
  if c.tag.kind ≠ 2 then ps
  else
    let qs := ps.filter (fun x => key x || x.addr != c.addr)
    match qs.find? key with
    | none => qs ++ [{ coll := c.tag.coll, tile := c.tag.tile, rank := c.tag.rank, addr := c.addr }]
    | some x => qs.set (qs.idxOf x) { x with addr := min x.addr c.addr }

/-- A cell reaches a newt's receive port. -/
def landCell (n : Nat) (c : LandCell) (s : State) : State :=
  let v := newt s n
  let r := (c.addr, c.data.length)
  let k := tget 0 v.lc c.lc
  let contrib := c.tag.kind == 0 || c.tag.kind == 1
  if collDead s c.tag.coll then discard 2 s
  else if landBad v r ∨ 2 ^ 32 ≤ k + 1 then landErr n c.lc s
  else if contrib && v.arrivals.any (arrivalMeets c.tag c.addr c.data.length) then
    let place : FaultPlace := { fchip := fchipOf s.rte.coord, funit := n, fkind := 2 }
    let s1 := discard 3 s
    if unreported s1 c.tag.coll && (coll s1 c.tag.coll).state == .pending then detectAbort c.tag.coll 0x0A08 place s1
    else raise { code := 0x0A08, unit2 := 1, coll := c.tag.coll, d := [placeWord place, 0, c.tag.tile] } s1
  else
    setNewt n { pondWrite c.addr c.data v with
      lc := tset 0 v.lc c.lc (k + 1)
      partAt := partLand c v.partAt
      arrivals := if contrib then v.arrivals ++ [arrivalOf c] else v.arrivals } s

/-- An ASB packet reaches a newt's receive port (R135). -/
def landAsb (n : Nat) (c : LandCell) (s : State) : State :=
  let v := newt s n
  let k := tget 0 v.lc c.lc
  if collDead s c.tag.coll then discard 2 s
  else if landBad v (c.addr, 40) ∨ 2 ^ 32 ≤ k + 1 then landErr n c.lc s
  else asbLand n c.addr (slice c.data 0 40) c.tag.coll none (setNewt n { v with lc := tset 0 v.lc c.lc (k + 1) } s)

/-- A landing of the kind that its tag names. -/
def landAny (n : Nat) (c : LandCell) (s : State) : State := if c.tag.kind = 6 then landAsb n c s else landCell n c s

/-- A packet that a newt of this chip sent to a free newt of this chip arrives there: each of its cells lands where the
stream's DLAND says (R87, R134). -/
def landPacket (p : Packet) (s : State) : State :=
  match p.land, collTag p with
  | some (lc, a), some t =>
    (List.range (pktCells p)).foldl (fun u i =>
      landAny (p.dunit % 8192) { addr := a + 256 * i, lc := lc, tag := t, data := (p.payload.drop (256 * i)).take 256 } u) s
  | _, _ => s

end Sys2Proof.Machine
end

