-- ==== Sys2Proof/Machine/Shaping.lean ====
section
/-! DEFINITION. Shaping and policing (10_traffic_shaping.md): token buckets, the shaping tree, metering, the SHAPER
section, and writes of the SHP registers. -/

namespace Sys2Proof.Machine

/-- Shaping node `n`. -/
def snode (s : State) (n : Nat) : ShpNode := tget {} s.shp.nodes n
/-- Replace shaping node `n`. -/
def setSnode (n : Nat) (v : ShpNode) (s : State) : State :=
  { s with shp := { s.shp with nodes := tset {} s.shp.nodes n v } }
/-- Policer `k`. -/
def policer (s : State) (k : Nat) : Policer := tget {} s.shp.pols k
/-- Replace policer `k`. -/
def setPolicer (k : Nat) (v : Policer) (s : State) : State :=
  { s with shp := { s.shp with pols := tset {} s.shp.pols k v } }

/-- Service node of a port and class (Table 15-1). -/
def serviceNode (port cls : Nat) : Nat := 0x1000 + 3 * port + cls - 1

/-- Charge of a packet in millibits under an overhead (R328). -/
def charge (p : Packet) (ovh : Int) : Nat := 8000 * (max 1 ((32 + pktLen p : Nat) + ovh)).toNat

/-- Tokens of a bucket after one refill (R329). -/
def refill (rate burst t : Nat) : Nat := min (8000 * burst) (t + 4 * rate)

/-- Every enabled bucket is refilled (R329). -/
def refillAll (s : State) : State :=
  { s with shp := { s.shp with
      nodes := s.shp.nodes.map (fun e =>
        (e.1, if e.2.en then { e.2 with tokens := refill e.2.rate e.2.burst e.2.tokens } else e.2))
      pols := s.shp.pols.map (fun e =>
        (e.1, if e.2.en then { e.2 with tokC := refill e.2.cir e.2.cbs e.2.tokC,
                                        tokE := refill e.2.erate e.2.ebs e.2.tokE } else e.2)) } }

/-- The enabled nodes on a packet's path (R331). -/
def shapePath (s : State) (port : Nat) (p : Packet) : List Nat :=
  if p.cls < 1 ∨ 3 < p.cls then []
  else
    let sub := (s.shp.nodes.filter (fun e => decide (0x4000 ≤ e.1) && e.2.en && e.2.port == port && e.2.cls == p.cls &&
      e.2.src == p.src && !p.schip)).map (·.1)
    sub ++ [serviceNode port p.cls, port].filter (fun n => (snode s n).en)

/-- Nodes of the path that are short of the packet's charge (R332). -/
def shapeShort (s : State) (port : Nat) (p : Packet) : List Nat :=
  (shapePath s port p).filter (fun n => decide ((snode s n).tokens < charge p (snode s n).ovh))

/-- Charge every node of the path (R332). -/
def shapeCharge (port : Nat) (p : Packet) (s : State) : State :=
  (shapePath s port p).foldl (fun t n =>
    let v := snode t n
    setSnode n { v with tokens := v.tokens - charge p v.ovh, passed := (v.passed + 1) % 2 ^ 32 } t) s

/-- Count a packet once at each node that it newly finds short (SHP_NCNT.HELD). -/
def shapeHeld (ns : List Nat) (s : State) : State :=
  ns.foldl (fun t n => let v := snode t n; setSnode n { v with held := (v.held + 1) % 2 ^ 32 } t) s

/-! Metering (R337 to R339). -/

/-- The policer that meters a FWD packet entering at an endpoint port. -/
def policerFor (s : State) (port chan : Nat) : Option Nat :=
  (List.range 512).find? (fun k => let v := policer s k; v.en && v.port == port && bitOf v.chmask chan)

/-- Colour and tokens taken (from C, from E) of Table 10-1. -/
def meter (v : Policer) (pre b : Nat) : Nat × Nat × Nat :=
  if v.mode then
    if pre = 2 then (2, 0, 0)
    else if pre = 0 ∧ b ≤ v.tokC then (0, b, 0)
    else if b ≤ v.tokE then (1, 0, b)
    else (2, 0, 0)
  else if pre = 2 ∨ v.tokE < b then (2, 0, 0)
  else if pre = 1 ∨ v.tokC < b then (1, 0, b)
  else (0, b, b)

/-- Meter a packet that enters at endpoint port `port` (R326, R337 to R339). -/
def police (port : Nat) (p : Packet) (s : State) : State × Packet :=
  match if p.cls = 3 then policerFor s port p.chan else none with
  | none => (s, p)
  | some k =>
    let v := policer s k
    let s1 := if v.caware ∧ p.colour = 3 then raise { code := 0x0703, kind := 13, unit := k } s else s
    let pre := if v.caware then min 2 p.colour else 0
    let (col, c, e) := meter v pre (charge p v.ovh)
    let s2 := setPolicer k { v with
      tokC := v.tokC - c, tokE := v.tokE - e
      green := if col = 0 then (v.green + 1) % 2 ^ 32 else v.green
      yellow := if col = 1 then (v.yellow + 1) % 2 ^ 32 else v.yellow
      red := if col = 2 then (v.red + 1) % 2 ^ 64 else v.red } s1
    if col = 2 then
      ({ s2 with shp := { s2.shp with redcnt := (s2.shp.redcnt + 1) % 2 ^ 64 } }, { p with colour := 2, prio := 3 })
    else (s2, { p with colour := col })

/-! Register writes (R330, R336, R343). -/

/-- Whether a node number names a node of a port that LINKDIV creates, or a subscriber node. -/
def nodeExists (s : State) (n : Nat) : Bool :=
  if n < 0x1000 then decide (n < 134) && portExists s n
  else if n < 0x4000 then decide (n < 0x1000 + 402) && portExists s ((n - 0x1000) / 3)
  else decide (n < 0x8000)

/-- Another enabled subscriber node has the same key (R342). -/
def keyTaken (s : State) (n : Nat) : Bool :=
  let v := snode s n
  s.shp.nodes.any (fun e => decide (0x4000 ≤ e.1 ∧ e.1 ≠ n) && e.2.en && e.2.port == v.port && e.2.cls == v.cls &&
    e.2.src == v.src)

/-- BAR0 offset of a node's SHP_NCFG (Table 10-5). UNIT2 of a record holds its low 16 bits (DESIGN CHOICE, log 168). -/
def nodeOffset (n : Nat) : Nat :=
  if n < 0x1000 then 0x01001000 + 32 * n else if n < 0x4000 then 0x01003000 + 32 * (n - 0x1000)
  else 0x01010000 + 64 * (n - 0x4000)

/-- BURST and OVH lie in their ranges (Table 10-3). -/
def burstOk (burst : Nat) (ovh : Int) : Bool := decide (8192 ≤ burst ∧ burst ≤ 16777216 ∧ -64 ≤ ovh ∧ ovh ≤ 255)

/-- A write of SHP_NCFG. A write that breaks both a range of R342 and the limits of R336 raises 0x0701 only (DESIGN CHOICE, log 167); the RATE
of a node that stays disabled is held to the range of Table 10-3 (R343). -/
def nodeWrite (n w : Nat) (s : State) : State :=
  let v := snode s n
  let en := bitOf w 0
  let rate := bits w 22 2
  let burst := bits w 47 23
  let ovh := signed 9 (bits w 56 48)
  let bad (code : Nat) := raise { code := code, kind := 12, unit := n, unit2 := nodeOffset n, d := [w] } s
  if !nodeExists s n || !burstOk burst ovh ||
      (en && decide (0x4000 ≤ n) && (keyTaken s n || !portExists s v.port)) then bad 0x0701
  else if decide (rate < v.lo ∨ v.hi < rate) then bad (if en then 0x0702 else 0x0701)
  else if rate == 0 || decide (1800000 < rate) then bad 0x0701
  else setSnode n { v with en := en, rate := rate, burst := burst, ovh := ovh,
                           tokens := if bitOf w 1 then 8000 * burst else 0 } s

/-- A write of SHP_SKEY (R343): only while the node is disabled. -/
def skeyWrite (n w : Nat) (s : State) : State :=
  let v := snode s (0x4000 + n)
  if v.en || bits w 31 30 == 3 || !portExists s (bits w 29 22) then
    raise { code := 0x0701, kind := 12, unit := 0x4000 + n, unit2 := 0x01010000 + 64 * n + 32, d := [w] } s
  else setSnode (0x4000 + n) { v with src := bits w 21 0, port := bits w 29 22, cls := bits w 31 30 + 1 } s

/-- A policer's settings lie in their ranges (Table 10-4). -/
def policerOk (s : State) (v : Policer) : Bool :=
  decide (-64 ≤ v.ovh ∧ v.ovh ≤ 255 ∧ 1 ≤ v.cir ∧ v.cir ≤ 1800000 ∧ 1 ≤ v.cbs ∧ v.cbs ≤ 16777216 ∧
    v.erate ≤ 1800000 ∧ v.ebs ≤ 16777216) &&
  (v.mode || decide (v.cir ≤ v.erate ∧ 1 ≤ v.ebs)) && endpointPort s v.port

/-- A write of SHP_PCFG: the waiting SHP_PC and SHP_PE take effect with it. -/
def pcfgWrite (k w : Nat) (s : State) : State :=
  let v := policer s k
  let full := bitOf w 1
  let new := { v with
    en := bitOf w 0, mode := bitOf w 2, caware := bitOf w 3, ovh := signed 9 (bits w 12 4), port := bits w 19 13,
    chmask := bits w 35 20, cir := v.wCir, cbs := v.wCbs, erate := v.wErate, ebs := v.wEbs,
    tokC := if full then 8000 * v.wCbs else 0, tokE := if full then 8000 * v.wEbs else 0 }
  if policerOk s new then setPolicer k new s
  else raise { code := 0x0701, kind := 13, unit := k, unit2 := 0x01200000 + 64 * k, d := [w] } s

/-- A write of SHP_PC. -/
def pcWrite (k w : Nat) (s : State) : State :=
  setPolicer k { policer s k with wCir := bits w 20 0, wCbs := bits w 45 21 } s
/-- A write of SHP_PE. -/
def peWrite (k w : Nat) (s : State) : State :=
  setPolicer k { policer s k with wErate := bits w 20 0, wEbs := bits w 45 21 } s

/-! The SHAPER section (R341, R342). -/

/-- Node records and policer records of a SHAPER body. -/
def shaperRecs (b : List Byte) : List (List Byte) :=
  (List.range (fieldAt b 0 4 + fieldAt b 4 4)).map (fun i => slice b (32 + 32 * i) 32)

/-- Sort key of a record. -/
def shaperKey (r : List Byte) : Nat :=
  if fieldAt r 0 1 = 3 then 2 ^ 40 + fieldAt r 4 2
  else 2 ^ 32 * fieldAt r 0 1 + 2 ^ 24 * fieldAt r 2 1 + 2 ^ 16 * fieldAt r 3 1 + fieldAt r 4 2

/-- Node number of a node record. -/
def recNode (r : List Byte) : Nat :=
  match fieldAt r 0 1 with
  | 0 => fieldAt r 2 1
  | 1 => serviceNode (fieldAt r 2 1) (fieldAt r 3 1)
  | _ => 0x4000 + fieldAt r 4 2

/-- The node that a record makes. -/
def recToNode (r : List Byte) : ShpNode :=
  let burst := fieldAt r 12 4
  { en := bitOf (fieldAt r 1 1) 0, rate := fieldAt r 8 4, burst := burst, ovh := signed 16 (fieldAt r 6 2),
    lo := fieldAt r 16 4, hi := fieldAt r 20 4, tokens := if bitOf (fieldAt r 1 1) 1 then 8000 * burst else 0,
    src := fieldAt r 24 4, port := fieldAt r 2 1, cls := fieldAt r 3 1 }

/-- The policer that a record makes. -/
def recToPolicer (r : List Byte) : Policer :=
  let cbs := fieldAt r 16 4
  let ebs := fieldAt r 24 4
  let full := bitOf (fieldAt r 1 1) 1
  { en := bitOf (fieldAt r 1 1) 0, mode := bitOf (fieldAt r 1 1) 2, caware := bitOf (fieldAt r 1 1) 3,
    ovh := signed 16 (fieldAt r 6 2), port := fieldAt r 2 1, chmask := fieldAt r 8 2,
    cir := fieldAt r 12 4, cbs := cbs, erate := fieldAt r 20 4, ebs := ebs,
    wCir := fieldAt r 12 4, wCbs := cbs, wErate := fieldAt r 20 4, wEbs := ebs,
    tokC := if full then 8000 * cbs else 0, tokE := if full then 8000 * ebs else 0 }

/-- A record within the ranges of Tables 10-3 and 10-4, given the ports that LINKDIV creates. -/
def shaperRecOk (ports : List Nat) (r : List Byte) : Bool :=
  let k := fieldAt r 0 1
  if k = 3 then
    let v := recToPolicer r
    decide (fieldAt r 1 1 < 16 ∧ fieldAt r 2 1 < 128 ∧ fieldAt r 3 1 = 0 ∧ fieldAt r 4 2 < 512 ∧ fieldAt r 10 2 = 0 ∧
      fieldAt r 28 4 = 0 ∧ -64 ≤ v.ovh ∧ v.ovh ≤ 255 ∧ 1 ≤ v.cir ∧ v.cir ≤ 1800000 ∧ 1 ≤ v.cbs ∧ v.cbs ≤ 16777216 ∧
      v.erate ≤ 1800000 ∧ v.ebs ≤ 16777216) &&
    (v.mode || decide (v.cir ≤ v.erate ∧ 1 ≤ v.ebs)) && ports.contains (fieldAt r 2 1)
  else
    let v := recToNode r
    decide (k < 3 ∧ fieldAt r 1 1 < 4 ∧ fieldAt r 28 4 = 0 ∧ v.lo ≤ v.rate ∧ v.rate ≤ v.hi ∧ 1 ≤ v.lo ∧ v.hi ≤ 1800000) &&
    burstOk v.burst v.ovh && ports.contains (fieldAt r 2 1) &&
    (if k = 0 then v.cls == 0 else decide (1 ≤ v.cls ∧ v.cls ≤ 3)) &&
    (if k = 2 then decide (fieldAt r 4 2 < 16384 ∧ v.src < 2 ^ 22) else decide (fieldAt r 4 2 = 0 ∧ v.src = 0))

/-- A SHAPER body that R342 does not call malformed. -/
def shaperOk (ports : List Nat) (b : List Byte) : Bool :=
  let rs := shaperRecs b
  let nn := fieldAt b 0 4
  let subs := (rs.filter (fun r => fieldAt r 0 1 == 2 && bitOf (fieldAt r 1 1) 0)).map
    (fun r => (fieldAt r 2 1, fieldAt r 3 1, fieldAt r 24 4))
  decide (b.length = 32 + 32 * rs.length) && allZero (slice b 8 24) && rs.all (shaperRecOk ports) &&
  (rs.take nn).all (fun r => decide (fieldAt r 0 1 < 3)) && (rs.drop nn).all (fun r => fieldAt r 0 1 == 3) &&
  decide ((rs.map shaperKey).Pairwise (· < ·)) && decide subs.Nodup &&
  decide ((rs.filter (fun r => fieldAt r 0 1 == 2)).map recNode).Nodup

/-- Apply a SHAPER body: nodes and policers without a record are disabled and zero. Counters run from activation (R343), so at a swap
(`keep`) those of a node or policer that has a record go on. -/
def applyShaper (keep : Bool) (b : List Byte) (s : State) : State :=
  let rs := shaperRecs b
  let node (n : Nat) (v : ShpNode) : ShpNode :=
    let o := snode s n
    if keep then { v with passed := o.passed, held := o.held, heldPrev := o.heldPrev } else v
  let pol (k : Nat) (v : Policer) : Policer :=
    let o := policer s k
    if keep then { v with green := o.green, yellow := o.yellow, red := o.red } else v
  rs.foldl (fun t r => if fieldAt r 0 1 = 3 then setPolicer (fieldAt r 4 2) (pol (fieldAt r 4 2) (recToPolicer r)) t
                       else setSnode (recNode r) (node (recNode r) (recToNode r)) t)
    { s with shp := { s.shp with nodes := [], pols := [] } }

end Sys2Proof.Machine
end

