-- ==== Sys2Proof/Machine/Routing.lean ====
section
/-! DEFINITION. Routing of the unscheduled plane (R298 to R303), flows at their source (R304, R305), and the packets that
units of the chip send. -/

namespace Sys2Proof.Machine

/-! Routes. -/

/-- Index of a chip in ROUTE and in the chip table (R298). -/
def routeIdx (s : State) (c : Nat) : Nat :=
  axisOf c 0 + s.rte.extX * (axisOf c 1 + s.rte.extY * axisOf c 2)

/-- Chips of the torus. -/
def torusChips (s : State) : Nat := s.rte.extX * s.rte.extY * s.rte.extZ

/-- Coordinate of a chip index. -/
def chipAt (s : State) (i : Nat) : Nat :=
  i % max 1 s.rte.extX + 32 * (i / max 1 s.rte.extX % max 1 s.rte.extY) +
    1024 * (i / (max 1 s.rte.extX * max 1 s.rte.extY))

/-- The other chips of the fabric that are not lost. -/
def otherChips (s : State) : List Nat :=
  ((List.range (torusChips s)).map (chipAt s)).filter (fun c => decide (c ≠ s.rte.coord) && !s.rte.lost.contains c)

/-- The active ROUTE bank. -/
def activeBank (s : State) : Table Nat := if s.lay.routeBank = 0 then s.rte.bank0 else s.rte.bank1

/-- The standby ROUTE bank. -/
def standbyBank (s : State) : Table Nat := if s.lay.routeBank = 0 then s.rte.bank1 else s.rte.bank0

/-- Direction of travel of a packet that arrives on a quad: opposite to the quad's direction; none from an
endpoint port or a unit of this chip. -/
def prevDir (s : State) (src : Nat) : Option Nat :=
  let u := (quad s src).use
  if src < 128 ∧ 1 ≤ u ∧ u ≤ 6 then some (if (u - 1) % 2 = 0 then u else u - 2) else none

/-- Cells queued on a torus port for a class on VC0 (R300). -/
def occ (s : State) (d cls : Nat) : Nat :=
  ((s.swc.queues.filter (fun h => h.outPort == 128 + d && h.pkt.cls == cls && h.vc == 0)).map (·.cells)).sum

/-- Direction of a packet of class REQ, RSP, FWD or COPY under the active bank (R300). -/
def routeDir (s : State) (prev : Option Nat) (p : Packet) : Option Nat :=
  let e := tget 0 (activeBank s) (routeIdx s (chipOf p.dst))
  let d1 := e % 8
  let d2 := e / 8 % 8
  let d := match prev with
    | some q =>
      if d1 / 2 = q / 2 then (if d1 = q ∨ d2 = q then q else 7)
      else if d2 ≠ 7 ∧ dirUp s d2 ∧ (!dirUp s d1 ∨ occ s d2 p.cls < occ s d1 p.cls) then d2 else d1
    | none => if d2 ≠ 7 ∧ dirUp s d2 ∧ (!dirUp s d1 ∨ occ s d2 p.cls < occ s d1 p.cls) then d2 else d1
  if d ≤ 5 ∧ dirUp s d then some d else none

/-- Direction of a MGMT packet (R302). -/
def mgmtDir (s : State) (prev : Option Nat) (p : Packet) : Option Nat :=
  match dimOrder s (chipOf p.dst) with
  | none => none
  | some d =>
    let go (d : Nat) : Option Nat := if dirUp s d then some d else none
    match prev with
    | some q => if q / 2 = d / 2 then go q else (if dirUp s d then some d else go (if d % 2 = 0 then d + 1 else d - 1))
    | none => if dirUp s d then some d else go (if d % 2 = 0 then d + 1 else d - 1)

/-- Virtual channel of the next hop in direction `d` (R301). -/
def hopVc (s : State) (prev : Option Nat) (p : Packet) (d : Nat) : Nat :=
  let x := axisOf s.rte.coord (d / 2)
  let dateline := if d % 2 = 0 then x + 1 == extOf s (d / 2) else x == 0
  if p.cls = 5 then 0
  else if dateline then 1
  else match prev with
    | some q => if q / 2 = d / 2 then p.vc else 0
    | none => 0

/-- Where a packet goes next: the port (134 a unit of this chip) and its virtual channel; none without a route. -/
def nextHop (s : State) (prev : Option Nat) (p : Packet) : Option (Nat × Nat) :=
  if dstHere s p then some (if p.dchip then 134 else portOf p.dst, if p.cls = 5 then 0 else p.vc)
  else
    ((if p.cls = 4 then mgmtDir s prev p else routeDir s prev p)).map (fun d => (128 + d, hopVc s prev p d))

/-! Units as sources (R304, R305). -/

/-- Identity of a flow at its source and egress chip. -/
def flowKey (p : Packet) : Nat × Nat × Nat × Nat × Nat × Nat :=
  (p.src + 2 ^ 22 * bnat p.schip, p.dst + 2 ^ 22 * bnat p.dchip, p.cls, p.chan, p.sunit, p.dunit)

/-- Hand a packet of a unit of this chip to the switch core. -/
def unitOut (p : Packet) (s : State) : State := { s with swc := { s.swc with unitOut := s.swc.unitOut ++ [p] } }

/-- A write packet that a unit sends through a proxy counts its cells, as they are first sent, in the CNT of the proxy that stands for the
remote object of its sync tag (R177); of several, the lowest-numbered (log 138). -/
def proxyCount (p : Packet) (s : State) : State :=
  match p.tag with
  | .sync o _ =>
    match s.sync.objs.find? (fun e => e.2.kind == 1 && e.2.proxy && bits e.2.peer 14 0 == chipOf p.dst && bits e.2.peer 27 15 == o) with
    | none => s
    | some (k, _) => modObj k (fun v => { v with cnt := (v.cnt + pktCells p) % 2 ^ 32 }) s
  | _ => s

/-- Send waiting packets of a flow while its window allows (R305). -/
def flowPump (fuel : Nat) (f : SrcFlow) (s : State) : State × SrcFlow :=
  match fuel, f.waitq with
  | fuel + 1, p :: r =>
    if f.unacked.length < f.win then
      let q := { p with seqv := true, seq := f.nextSeq, first := !f.opened }
      flowPump fuel { f with waitq := r, opened := true, nextSeq := (f.nextSeq + 1) % 65536, unacked := f.unacked ++ [q] }
        (unitOut q (proxyCount q s))
    else (s, f)
  | _, _ => (s, f)

/-- Replace the source flow of a key. -/
def setFlow (f : SrcFlow) (s : State) : State :=
  { s with rte := { s.rte with srcFlows := s.rte.srcFlows.filter (fun g => decide (g.key ≠ f.key)) ++ [f] } }

/-- Forget the source flow of a key. -/
def dropFlow (k : Nat × Nat × Nat × Nat × Nat × Nat) (s : State) : State :=
  { s with rte := { s.rte with
      srcFlows := s.rte.srcFlows.filter (fun g => decide (g.key ≠ k))
      busyWait := s.rte.busyWait.filter (fun e => decide (flowKey e.2 ≠ k)) } }

/-- A unit of this chip sends a packet: sequenced for REQ, RSP and FWD, as its window allows. -/
def unitSend (p : Packet) (s : State) : State :=
  if 1 ≤ p.cls ∧ p.cls ≤ 3 then
    let k := flowKey p
    let f := (s.rte.srcFlows.find? (fun g => decide (g.key = k))).getD { key := k }
    let (s1, f1) := flowPump (f.waitq.length + 1) { f with waitq := f.waitq ++ [p] } s
    setFlow f1 s1
  else unitOut p (proxyCount p s)

/-- Payload of a FLOW_ACK (Table 11-15). -/
def flowAckBytes (a : FlowAck) : List Byte :=
  leBytes 4 a.fsrc ++ leBytes 4 a.fdst ++ leBytes 2 a.fsunit ++ leBytes 2 a.fdunit ++ leBytes 1 (a.cls + 8 * a.chan) ++
    leBytes 1 (bnat a.nak + 2 * bnat a.closed) ++ leBytes 1 a.win ++ leBytes 1 a.reason ++ leBytes 2 a.next ++
    leBytes 2 a.nseq ++ zeros 12

/-- Whether a packet is an acknowledgement, no NAK (Table 11-15). -/
def plainAck (p : Packet) : Bool := p.cls == 4 && p.tag == .plain 3 && !bitOf (fieldAt p.payload 13 1) 0

/-- Whether a later acknowledgement takes the place of one that has not left: of the same flow, which that one does not close. -/
def ackMerges (old new : Packet) : Bool :=
  plainAck old && plainAck new && old.payload.take 13 == new.payload.take 13 && !bitOf (fieldAt old.payload 13 1) 1

/-- Hand an acknowledgement or NAK to the switch core. Advances made while the flow's previous acknowledgement waits for a MGMT
credit are merged into it (R307). -/
def ackOut (p : Packet) (s : State) : State :=
  match s.swc.unitOut.find? (fun x => ackMerges x p) with
  | some x => { s with swc := { s.swc with unitOut := s.swc.unitOut.set (s.swc.unitOut.idxOf x) p } }
  | none =>
    match s.swc.queues.find? (fun h => !h.started && ackMerges h.pkt p) with
    | some h => { s with swc := { s.swc with
        queues := s.swc.queues.set (s.swc.queues.idxOf h) { h with pkt := { h.pkt with payload := p.payload } } } }
    | none => unitOut p s

/-- Send a FLOW_ACK to the source of a packet's flow (R304). -/
def sendAck (p : Packet) (nak closed : Bool) (win reason next : Nat) (s : State) : State :=
  let a : FlowAck :=
    { fsrc := p.src + 2 ^ 22 * bnat p.schip, fdst := p.dst + 2 ^ 22 * bnat p.dchip, fsunit := p.sunit,
      fdunit := p.dunit, cls := p.cls, chan := p.chan, nak := nak, closed := closed, win := win, reason := reason,
      next := next, nseq := if nak then p.seq else 0 }
  ackOut { dst := p.src, dchip := p.schip, dunit := p.sunit, src := s.rte.coord, schip := true, sunit := 0, cls := 4,
            tag := .plain 3, payload := flowAckBytes a } s

/-- Tell the source of a discarded packet (R303): UNREACHABLE in a reply to a REQ, or a NAK of a sequenced RSP or FWD. -/
def tellSource (p : Packet) (s : State) : State :=
  if p.cls = 1 then
    let t := match p.tag with
      | .txn id _ _ op target => Tag.txn id 0 1 op target
      | t => t
    unitSend { dst := p.src, dchip := p.schip, dunit := p.sunit, src := s.rte.coord, schip := true, cls := 2,
               chan := p.chan, tag := t, payload := [0] } s
  else if p.seqv && (p.cls == 2 || p.cls == 3) then sendAck p true false 1 4 0 s
  else s

/-- The source of a routing error (Table 15-2): the quad that the packet came from, else the port or the chip that it concerns. -/
def rteSource (src kind unit : Nat) (o : Occ) : Occ :=
  if src < 128 then { o with kind := 2, unit := src } else { o with kind := kind, unit := unit }

/-- Error record of a packet that has no way on (Table 15-2): one of this chip's units names the destination port of 0x060C, or the
destination chip (DESIGN CHOICE, log 155). -/
def noRoute (code src : Nat) (p : Packet) (s : State) : State :=
  let o : Occ := { code := code, unit2 := p.cls + 8 * p.vc, d := [pktData p, p.seq] }
  raise (if code = 0x060C then rteSource src 3 (portOf p.dst) o else rteSource src 15 (chipOf p.dst) o) s

/-- A packet meets noroute() (R302, R303). A MGMT packet is discarded with no error and no message. -/
def onNoRoute (src : Nat) (p : Packet) (s : State) : State :=
  let s1 := discard 4 s
  if p.cls = 4 then s1 else tellSource p (noRoute 0x0601 src p s1)

/-- A packet's destination port is not up (R303). -/
def onPortDown (src : Nat) (p : Packet) (s : State) : State := tellSource p (noRoute 0x060C src p (discard 4 s))

end Sys2Proof.Machine
end

