-- ==== Sys2Proof/Machine/Mirrors.lean ====
section
/-! DEFINITION. Copies (R271, R272) and mirror sessions (R273 to R276). -/

namespace Sys2Proof.Machine

/-! The copy area. -/

/-- Queued copies of a die that have not begun to leave and have priority below `k`: lowest priority first, then the
most recent first, with their places in the queue. -/
def evictable (s : State) (die k : Nat) : List (Nat × Held) :=
  let cs := ((s.swc.queues.zipIdx).filter (fun e => e.1.acct == 4 && !e.1.started && homeDie s e.1.outPort == die)).map
    (fun e => (e.2, e.1))
  ((List.range k).flatMap (fun pr => (cs.filter (fun e => decide ((e.2.copyOf.getD (0, 0)).2 = pr))).reverse))

/-- The shortest prefix whose cells reach `n`. -/
def prefixFor (n : Nat) (l : List (Nat × Held)) : Option (List (Nat × Held)) :=
  match l with
  | [] => if n = 0 then some [] else none
  | e :: r => if n = 0 then some [] else (prefixFor (n - e.2.cells) r).map (fun t => e :: t)

/-- COPY_ADMIT (R271): admit a copy bound for a port, evicting lower copies until its cells fit below COPY_MAX, or drop it. `own`
when a session of this chip made it. -/
def copyAdmit (port : Nat) (p : Packet) (own : Bool) (s : State) : State :=
  let d := homeDie s port
  let n := pktCells p
  let prio := p.seq / 16 % 8
  let ses := p.seq % 16
  match prefixFor (dieCells s d 4 + n - copyMax s d) (evictable s d prio) with
  | none =>
    let s1 := discard 5 s
    if own then modMirror ses (fun m => { m with dropped := (m.dropped + 1) % 2 ^ 32 }) s1 else s1
  | some ev =>
    let gone := ev.map (·.1)
    let s1 := ev.foldl (fun t e =>
      let t1 := discard 6 t
      if e.2.own then
        modMirror (e.2.copyOf.getD (0, 0)).1 (fun m => { m with evicted := (m.evicted + 1) % 2 ^ 32 }) t1 else t1) s
    noteHigh port 5 (modSwc (fun w => { w with queues :=
      ((w.queues.zipIdx).filter (fun e => !gone.contains e.2)).map (·.1) ++
        [{ pkt := p, outPort := port, vc := 0, cells := n, acct := 4, copyOf := some (ses, prio), own := own }] }) s1)

/-! Sessions. A packet is matched once, as its first cell arrives or as a unit of this chip hands it over (R276). -/

/-- Value of the five flow fields of a packet (Table 8-2): source, destination, and CLASS, CHAN, COLL as MIRKEY. -/
def flowFields (p : Packet) : Nat × Nat × Nat :=
  (p.src, p.dst, p.cls + 8 * p.chan + 128 * ((collTag p).map (·.coll)).getD 0)

/-- Whether an enabled session takes a packet, its port condition apart (R273). -/
def flowMatch (m : Mirror) (p : Packet) : Bool :=
  let (a, b, k) := flowFields p
  m.en && decide (p.cls ≠ 5) && (decide (p.cls ≠ 0) || m.sched) &&
  (!m.flow || (decide ((a ^^^ bits m.src.toNat 21 0) &&& bits m.src.toNat 53 32 = 0) &&
    decide ((b ^^^ bits m.dst.toNat 21 0) &&& bits m.dst.toNat 53 32 = 0) &&
    decide ((k ^^^ m.key) &&& m.keym = 0)))

/-- The port condition for a packet that enters at ports `ins` and leaves at ports `outs` (R273): none where it fails, else
whether the copy is taken on entry. A packet that meets it on entry and on leaving is one match, copied on entry, and PORT 255
copies a packet on entry, or on leaving where a unit of this chip made it (DESIGN CHOICE, log 33). -/
def portMatch (m : Mirror) (ins outs : List Nat) : Option Bool :=
  if m.port = 255 then some (!ins.isEmpty || outs.isEmpty)
  else if (m.inp || !m.outp) && ins.contains m.port then some true
  else if (m.outp || !m.inp) && outs.contains m.port then some false
  else none

/-- The sessions' decisions on a packet (R274): counts move, and the copies to make on entry and on leaving. -/
def mirrorPlan (ins outs : List Nat) (p : Packet) (s : State) : State × List CopyPlan × List CopyPlan :=
  (List.range 16).foldl (fun a i =>
    let m := tget {} a.1.swc.mirrors i
    match if flowMatch m p then portMatch m ins outs else none with
    | none => a
    | some entry =>
      let t := modMirror i (fun m => { m with pos := m.pos + 1 }) a.1
      let pl : CopyPlan := { ses := i, prio := m.prio, trunc := m.trunc, dest := m.dest,
                             port := if m.port = 255 then outs.headD 255 else m.port }
      if m.pos % max 1 m.n ≠ 0 then (t, a.2)
      else if entry then (t, a.2.1 ++ [pl], a.2.2)
      else (t, a.2.1, a.2.2 ++ [pl])) (s, [], [])

/-- A copy by a plan (R275); it grows with its original. -/
def copyPacket (pl : CopyPlan) (p : Packet) : Packet :=
  let len := if pl.trunc = 0 then pktLen p else min (256 * pl.trunc) (pktLen p)
  let data := p.payload.take len
  { p with dst := pl.dest, dchip := false, dunit := 0, cls := 5, vc := 0, seqv := false, first := false, last := false,
           prio := 0, seq := pl.ses + 16 * pl.prio + 128 * p.cls + 1024 * bnat (pl.trunc != 0),
           payload := data, left := len - data.length, mirs := [], land := none }

/-- Make planned copies of a packet. A LOCAL drain of COPY stops copies, not counts (R312). -/
def makeCopies (pls : List CopyPlan) (p : Packet) (s : State) : State :=
  pls.foldl (fun t pl =>
    if drains t 5 && t.rte.drain.scope == 0 then t
    else
      let c := copyPacket pl p
      let t1 := modMirror pl.ses (fun m => { m with cnt := m.cnt + 1 }) t
      match nextHop t1 none c with
      | none => onNoRoute 128 c t1
      | some (out, _) => if portUp t1 out then copyAdmit out c true t1 else onPortDown 128 c t1) s

/-- A packet whose first cell enters at ports `ins` and will leave at ports `outs`: its copies on entry are made, and it keeps the
plans of those on leaving. -/
def mirrored (ins outs : List Nat) (p : Packet) (s : State) : State × Packet :=
  let (t, onIn, onOut) := mirrorPlan ins outs p s
  (makeCopies onIn p t, { p with mirs := onOut })

/-- The switch-core ports among the places that a packet goes to. -/
def portList (o : Nat) : List Nat := if o < 134 then [o] else []

end Sys2Proof.Machine
end

