-- ==== Sys2Proof/Machine/Switch.lean ====
section
/-! DEFINITION. Buffering in the switch core (R253 to R280): admission, overflow, forwarding, stomps and resequencing (R304 to
R309, R340). A packet enters, and may leave, as soon as its first cell has arrived (R256, log 130). -/

namespace Sys2Proof.Machine

/-- Admission to overflow (R268, R270). -/
def ovfAdmit (port vc : Nat) (p : Packet) (s : State) : State × Bool :=
  let d := homeDie s port
  let n := pktCells p
  if !bitOf (fieldAt s.swc.bufpart 1 1) p.cls || !(p.cls == 1 || p.cls == 3) then (s, false)
  else
    let free := ovfSize s - dieCells s d 3
    let full (t : State) : State :=
      if t.swc.ovfFullSeen.getD d false then t
      else raise { code := 0x0504, kind := 3, unit := port, unit2 := p.cls + 8 * vc, d := [0, 0, pktData p] }
        (modSwc (fun w => { w with ovfFullSeen := w.ovfFullSeen.set d true }) t)
    if free < n then (full s, false)
    else if 2 ^ alphaOf s * free < 16 * (acctCells s port p.cls vc 3 + n) then (s, false)
    else
      match ovfTake d n s with
      | (t, some a) => (enqueue port vc 3 a p (lovStore a p.payload t), true)
      | (t, none) => (full t, false)

/-- The transaction id of a packet. -/
def txnOf (p : Packet) : Option Nat :=
  match p.tag with
  | .txn id .. => some id
  | _ => none

/-- Admission of an original to the queue of a port (R263): the reply reservation, GMIN, the shared pool, overflow. What a unit of
this chip takes needs no queue. -/
def admitTo (port vc : Nat) (p : Packet) (s : State) : State × Bool :=
  let n := pktCells p
  let txn := txnOf p
  if 134 ≤ port then (landPacket p s, true)
  else if acctCells s port p.cls vc 3 ≠ 0 then ovfAdmit port vc p s
  else if p.cls = 2 && s.swc.res.any (fun r => r.port == port && some r.txn == txn && decide (n ≤ r.cells)) then
    (enqueue port vc 0 0 p s, true)
  else match onDieAcct s port p.cls vc n with
    | some a => (enqueue port vc a 0 p s, true)
    | none => ovfAdmit port vc p s

/-! Admission of waiting packets. -/

/-- Tile contexts open on the chip (R136): those of posted collectives, and while a scheduled job is active those that the image declares for
its schedule, all of them (DESIGN CHOICE, log 159). -/
def tileContexts (s : State) : Nat :=
  (s.colls.map (fun e => e.2.ctxs.length)).sum + (if schActive s then pgContexts s s.lay.chipIdx else 0)

/-- Whether a posted collective's cell may enter under the limit of R136. -/
def ctxRoom (s : State) (p : Packet) : Bool :=
  match collTag p with
  | none => true
  | some t => 5 < t.kind || !unreported s t.coll || !(coll s t.coll).posted || (coll s t.coll).ctxs.contains t.tile ||
      decide (tileContexts s < 4194304)

/-- Whether the library has placed the objects of a contribution's posted collective: it accepts none before (R139). -/
def collReady (s : State) (p : Packet) : Bool :=
  match collTag p with
  | none => true
  | some t => !(t.kind == 0 || t.kind == 1) || !unreported s t.coll || !(coll s t.coll).posted || (coll s t.coll).started

/-- Open the tile context of a packet of contributions, partials or results. -/
def openCtx (p : Packet) (s : State) : State :=
  match collTag p with
  | none => s
  | some t =>
    if unreported s t.coll && (coll s t.coll).posted && decide (t.kind ≤ 5) then
      modColl t.coll (fun c => { c with ctxs := insertNat c.ctxs t.tile }) s else s

/-- The reply reservation that a REQ of an endpoint port needs: its cells, and its transaction. -/
def rspNeed (s : State) (src : Nat) (p : Packet) : Option (Nat × Nat) :=
  match p.tag with
  | .txn id rlen .. =>
    if p.cls = 1 ∧ src < 128 ∧ (quad s src).use = 7 ∧ 0 < rlen then some ((rlen + 255) / 256, id) else none
  | _ => none

/-- Cells reserved for replies at a port. -/
def rspHeld (s : State) (port : Nat) : Nat := ((s.swc.res.filter (fun r => r.port == port)).map (·.cells)).sum

/-- Admit a packet from a source to a port (R263, R265). -/
def admitFrom (src out vc : Nat) (p : Packet) (s : State) : State × Bool :=
  let port := (quad s src).port
  let room := match rspNeed s src p with
    | none => true
    | some (n, _) => decide (rspHeld s port + n ≤ rspRes s port)
  if !room || !ctxRoom s p || !collReady s p then (s, false)
  else
    match admitTo out vc p s with
    | (t, false) => (t, false)
    | (t, true) =>
      let t1 := match rspNeed s src p with
        | none => t
        | some (n, id) => modSwc (fun w => { w with res := w.res ++ [{ port := port, cells := n, txn := id }] }) t
      (openCtx p t1, true)

/-- A packet goes to its destination's queue, or meets a missing route or a port that is down (R300 to R303). -/
def lookup (src : Nat) (p : Packet) (s : State) : State × Option (Nat × Nat) :=
  match nextHop s (prevDir s src) p with
  | none => (onNoRoute src p s, none)
  | some (out, vc) =>
    if out < 128 && !portUp s out then (onPortDown src p s, none) else (s, some (out, vc))

/-- Whether resequencing decides a packet's admission: sequenced, and this is its egress chip (R307). -/
def atEgress (s : State) (p : Packet) : Bool := p.seqv && dstHere s p

/-- PACKET_ADMIT from a quad's ingress FIFO. -/
def admitQuad (q st : Nat) (s : State) : State :=
  match ingressHead s q st with
  | none => s
  | some w =>
    if atEgress s w.pkt then s
    else
      match admitFrom q w.out w.pkt.vc w.pkt s with
      | (t, true) => ingressPop q st t
      | (t, false) => t

/-- Remove a packet that a unit of this chip has ready. -/
def unitPop (p : Packet) (s : State) : State := modSwc (fun w => { w with unitOut := w.unitOut.erase p }) s

/-- A packet of a unit of this chip takes its number, and the mirror sessions' decisions on it. -/
def unitEnter (out : Nat) (p : Packet) (s : State) : State × Packet :=
  let (t, m) := numbered p s
  mirrored [] (portList out) m t

/-- Packets that a NAK with reason BUSY holds back are ready again once they have waited (R305). -/
def busyDue (s : State) : State :=
  let due := s.rte.busyWait.filter (fun e => decide (e.1 ≤ croak s))
  due.foldl (fun t e => unitOut e.2 t)
    { s with rte := { s.rte with busyWait := s.rte.busyWait.filter (fun e => decide (croak s < e.1)) } }

/-- PACKET_ADMIT of a packet that a unit of this chip has ready; a drain of its class holds it (R312). -/
def admitUnit (st : Nat) (s : State) : State :=
  match s.swc.unitOut.find? (fun p => streamOf p.cls p.vc == st) with
  | none => s
  | some p =>
    if drains s p.cls || atEgress s p then s
    else
      match lookup 128 p s with
      | (t, none) => unitPop p t
      | (t, some (out, vc)) =>
        match unitEnter out p t with
        | (u, m) => match admitFrom 128 out vc m u with
          | (u, true) => unitPop p u
          | (_, false) => t

/-! Resequencing (R304 to R309). -/

/-- Change the routing block. -/
def modRte (f : Rte → Rte) (s : State) : State := { s with rte := f s.rte }

/-- The flow table's entry of a packet. -/
def flowOf (s : State) (p : Packet) : Option Flow := s.rte.flows.find? (fun f => decide (f.key = flowKey p))

/-- Replace a flow's entry. -/
def putFlow (f : Flow) (s : State) : State :=
  modRte (fun r => { r with flows := r.flows.filter (fun g => decide (g.key ≠ f.key)) ++ [f] }) s

/-- Free a flow's entry and context. -/
def freeFlow (k : Nat × Nat × Nat × Nat × Nat × Nat) (s : State) : State :=
  modRte (fun r => { r with flows := r.flows.filter (fun g => decide (g.key ≠ k)) }) s

/-- Lovor address of slot `i` of a context (Table 12-1). -/
def ctxAddr (c i : Nat) : Nat :=
  (if c < 8192 then 0x100000000 + 266240 * c else 0x2100000000 + 266240 * (c - 8192)) + 4160 * i

/-- A free context, if any. -/
def freeCtx (s : State) : Option Nat :=
  let used := s.rte.flows.filterMap (·.ctx)
  (List.range (used.length + 1)).find? (fun c => decide (c < 16384) && !used.contains c)

/-- WIN of a flow. -/
def winOf (f : Flow) : Nat := if f.ctx.isSome then 64 else 1

/-- The FWD level of a packet at its egress chip (R340). -/
def egressLevel (s : State) (out : Nat) (p : Packet) : Nat :=
  if p.cls = 3 ∧ out < 128 then
    ((s.swc.queues.filter (fun h => h.outPort == out && decide (flowKey h.pkt = flowKey p) && h.pkt.cls == 3)).map
      (·.pkt.prio)).foldl max p.prio
  else p.prio

/-- Admit the packet at NEXT of its flow. The level at which it is queued (R340) is also the PRIO of the header that leaves (DESIGN CHOICE, log
166). -/
def seqAdmit (src out : Nat) (p : Packet) (s : State) : State × Bool :=
  admitFrom src out p.vc { p with prio := egressLevel s out p } s

/-- Acknowledge a flow after NEXT moved past `p`; a packet with LAST closes it (R308). -/
def seqAck (f : Flow) (p : Packet) (s : State) : State :=
  if p.last then sendAck p false true (winOf f) 0 f.next (freeFlow f.key s)
  else sendAck p false false (winOf f) 0 f.next (putFlow f s)

/-- The ingress of a packet held in a context: the endpoint port of this chip that sent it, whose reply reserve a REQ needs
(R265). -/
def heldSrc (s : State) (p : Packet) : Nat :=
  if chipOf p.src = s.rte.coord ∧ !p.schip then (portQuads s (portOf p.src)).headD 128 else 128

/-- The effect of a stomp code on the packet's collective (R261). -/
def stompColl (p : Packet) (code : Nat) (place : FaultPlace) (s : State) : State :=
  match collTag p with
  | none => s
  | some t =>
    if code = 1 then
      if s.rte.compat && p.seqv && (coll s t.coll).posted then s else detectAbort t.coll 0x0A03 place s
    else if code = 2 ∨ code = 3 then detectAbort t.coll 0x0A08 place s
    else s

/-- A packet held in a context at `a` that reads poisoned (R388): it is stomped with code 3 whole, and a NAK recovers it (R307). -/
def ctxStomp (a out : Nat) (h : Packet) (s : State) : State :=
  let occ : Occ := { code := 0x0501, kind := 3, unit := out, unit2 := h.cls + 8 * h.vc, d := [3, a, pktData h] }
  stompColl h 3 { fchip := fchipOf s.rte.coord, fkind := 6 } (discard 0 (raise occ (stkUe a s)))

/-- Admit the packets held at NEXT, in turn (R307). A poisoned slot stomps its packet with code 3 (R388). -/
def drainCtx (fuel out : Nat) (f : Flow) (p : Packet) (s : State) : State :=
  match fuel with
  | 0 => seqAck f p s
  | fuel + 1 =>
    match if p.last then none else f.slots.find? (fun e => e.2.seq == f.next) with
    | none => seqAck f p s
    | some (i, h) =>
      let a := ctxAddr (f.ctx.getD 0) i
      let g := { f with slots := f.slots.filter (fun e => decide (e.1 ≠ i)) }
      if poisoned s a 4160 then sendAck h true false (winOf f) 1 f.next (seqAck g p (ctxStomp a out h s))
      else
        match seqAdmit (heldSrc s h) out h s with
        | (t, true) => drainCtx fuel out { g with next := (f.next + 1) % 65536 } h t
        | (t, false) => seqAck f p t

/-- Hold a packet in its flow's context. -/
def ctxHold (f : Flow) (c : Nat) (p : Packet) (s : State) : State :=
  putFlow { f with slots := f.slots.filter (fun e => decide (e.1 ≠ p.seq % 64)) ++ [(p.seq % 64, p)] }
    (lovStore (ctxAddr c (p.seq % 64)) (headerBytes p p.payload.length ++ p.payload) s)

/-- A packet beyond its flow's window (R307): 0x0608 names the quad it came from, or the chip of its source. -/
def beyondWindow (src : Nat) (f : Flow) (p : Packet) (s : State) : State :=
  raise (rteSource src 15 (chipOf p.src) { code := 0x0608, unit2 := p.cls + 8 * p.vc, d := [pktData p, p.seq + 65536 * f.next] }) s

/-- What resequencing does with a packet of an open flow (R307); true when the packet leaves its ingress. -/
def seqFlow (src out : Nat) (f : Flow) (p : Packet) (s : State) : State × Bool :=
  let d := (p.seq + 65536 - f.next) % 65536
  if d = 0 then
    match seqAdmit src out p s with
    | (t, true) => (drainCtx 64 out { f with next := (f.next + 1) % 65536 } p t, true)
    | (t, false) => (t, false)
  else if 32768 ≤ d then
    (sendAck p false false (winOf f) 0 f.next (modRte (fun r => { r with dup := (r.dup + 1) % 2 ^ 32 }) s), true)
  else
    match f.ctx with
    | some c =>
      if d ≤ 63 then (ctxHold f c p s, true)
      else (beyondWindow src f p s, true)
    | none =>
      (beyondWindow src f p s, true)

/-- The result of an attempt that took the packet; a packet that is not taken leaves the state `s`. -/
def takenOr (s : State) (r : State × Bool) : State × Bool := if r.2 then r else (s, false)

/-- The flow state that a first packet opens. -/
def newFlow (s : State) (p : Packet) : Flow := { key := flowKey p, next := 0, ctx := freeCtx s }

/-- The flow table with the flow that a first packet opens; CTX_HIGH follows. -/
def openFlow (p : Packet) (s : State) : State :=
  modRte (fun r => { r with ctxHigh := max r.ctxHigh ((r.flows.filterMap (·.ctx)).length) }) (putFlow (newFlow s p) s)

/-- The flow table holds 1,048,576 entries (R306). -/
def flowRoom (s : State) : Bool := decide (s.rte.flows.length < 1048576)

/-- The NAK with reason STOMP of the egress chip (R304, R307): a flow keeps its window (R306). -/
def stompNak (p : Packet) (s : State) : State :=
  let f := flowOf s p
  sendAck p true false ((f.map winOf).getD 1) 1 ((f.map (·.next)).getD 0) s

/-- What resequencing does with a packet at its egress chip (R306 to R309); true when it leaves its ingress. -/
def seqPacket (src out : Nat) (p : Packet) (s : State) : State × Bool :=
  if p.stomp ≠ 0 then (stompNak p s, true)
  else
    match flowOf s p with
    | some f => seqFlow src out f p s
    | none =>
      if p.first then
        if flowRoom s then
          takenOr s (seqFlow src out (newFlow s p) p (openFlow p s))
        else (sendAck p true false 1 2 0 (modRte (fun r => { r with busy := (r.busy + 1) % 2 ^ 32 }) s), true)
      else
        let s1 := modRte (fun r => { r with dup := (r.dup + 1) % 2 ^ 32 }) s
        (if p.last then sendAck p false true 1 0 ((p.seq + 1) % 65536) s1 else s1, true)

/-- RESEQUENCE of a packet that waits at an ingress, or that a unit of this chip has ready. It acts once the packet's last cell is
in, since a stomped one is discarded whole (R307, log 130). -/
def reseq (p : Packet) (s : State) : State :=
  match s.swc.ingress.find? (fun w => decide (hdrOf w.pkt = hdrOf p)) with
  | some w =>
    if atEgress s w.pkt && w.pkt.left == 0 && decide (ingressHead s w.src w.inStream = some w) then
      if w.out < 128 && !portUp s w.out then ingressPop w.src w.inStream (onPortDown w.src w.pkt s)
      else
        match seqPacket w.src w.out w.pkt s with
        | (t, true) => ingressPop w.src w.inStream t
        | (t, false) => t
    else s
  | none =>
    let s := busyDue s
    if s.swc.unitOut.contains p && atEgress s p && !drains s p.cls then
      match lookup 128 p s with
      | (t, none) => unitPop p t
      | (t, some (out, _)) =>
        match unitEnter out p t with
        | (u, m) => match seqPacket 128 out m u with
          | (u, true) => unitPop p u
          | (_, false) => t
    else
      match flowOf s p with
      | some f =>
        match f.slots.find? (fun e => decide (hdrOf e.2 = hdrOf p) && e.2.seq == f.next) with
        | some _ => drainCtx 64 (if p.dchip then 134 else portOf p.dst) f { p with last := false } s
        | none => s
      | none => s

/-! Arrival (R300, R132, R148, R259 to R261). -/

/-- The check of R132 on a contribution from an endpoint port. On the scheduled plane the class is checked here; the
pad and position are those that the frame's slot gave it. -/
def contribOk (s : State) (port : Nat) (p : Packet) (t : CollTag) : Bool :=
  let v := coll s t.coll
  unreported s t.coll && v.members.contains (port, t.rank) && decide (t.tile < contribTiles v t.rank) &&
  decide (t.offset + pktCells p ≤ contribCells v t.kind t.tile) && ((p.cls == 0) == !v.posted)

/-- The RELEASE packet of a posted BARRIER for a member port (Tables 4-1 and 4-5). -/
def releasePacket (s : State) (c port : Nat) : Packet :=
  { dst := s.rte.coord + 2 ^ 15 * port, src := s.rte.coord, schip := true, cls := 3, payload := [0], tag := .coll
      { coll := c, kind := 8, tile := 0, rank := rankNone, offset := 0, stage := 7, last := true } }

/-- Release the members of a posted BARRIER on this chip, once (R118): every one of them has arrived, and the fabric barrier line,
where the group has other chips, has released this chip. -/
def barrierRelease (c : Nat) (s : State) : State :=
  let v := coll s c
  if unreported s c && v.posted && cdOp v.desc == 7 && !v.freed && v.members.all (fun m => v.arrived.contains m.1) &&
      (grpChips v.group == 1 || v.lineDone) then
    v.members.foldl (fun t m => unitSend (releasePacket t c m.1) t) (modColl c (fun v => { v with freed := true }) s)
  else s

/-- A contribution that R132 accepts. An arrival counts for its member (R118). -/
def contribTaken (port : Nat) (t : CollTag) (s : State) : State :=
  if t.kind = 7 then barrierRelease t.coll (modColl t.coll (fun v => { v with arrived := insertNat v.arrived port }) s) else s

/-- A contribution that fails R132 is discarded, and its collective aborts. -/
def contribBad (place : FaultPlace) (t : CollTag) (s : State) : State :=
  let s1 := discard 3 s
  if unreported s t.coll && (coll s t.coll).state == .pending then detectAbort t.coll 0x0A08 place s1
  else raise { code := 0x0A08, unit2 := 1, coll := t.coll, d := [placeWord place, 0, t.tile] } s1

/-- What the ingress quad decides about a packet with a collective tag: the state, and whether the packet goes on. -/
def collCheck (q : Nat) (p : Packet) (s : State) : State × Bool :=
  match collTag p with
  | none => (s, true)
  | some t =>
    let port := (quad s q).port
    if collDead s t.coll then (discard 2 s, false)
    else if (quad s q).use == 7 && (t.kind == 0 || t.kind == 1 || t.kind == 7) then
      if contribOk s port p t then (contribTaken port t s, true)
      else (contribBad { fchip := fchipOf s.rte.coord, funit := port, fkind := 3 } t s, false)
    else (s, true)

/-- The port index that a quad belongs to, 134 for none. -/
def portNum (s : State) (q : Nat) : Nat := (quadPort (quad s q)).getD 134

/-- Count and record a packet that arrived stomped (Tables 8-8 and 8-10). -/
def stompCount (q : Nat) (p : Packet) (code : Nat) (s : State) : State :=
  raise { code := 0x0501, kind := 3, unit := portNum s q, unit2 := p.cls + 8 * p.vc, d := [code, 0, pktData p] }
    (modCtr (portNum s q) p.cls (fun c => { c with stompRx := (c.stompRx + 1) % 2 ^ 32 }) s)

/-- The place of a packet that a quad received. -/
def atQuad (s : State) (q : Nat) : FaultPlace := { fchip := fchipOf s.rte.coord, funit := q, fkind := 1 }

/-- A packet that arrived stomped and of which no cell has left is discarded (R260, R261, R307), and so are its copies. -/
def stompDrop (q : Nat) (p : Packet) (code : Nat) (s : State) : State :=
  let s1 := stompColl p code (atQuad s q) (stompCopies p code (discard 0 s))
  if atEgress s1 p then stompNak p s1 else s1

/-- The same for a packet that has not been looked up. -/
def stompArrive (q : Nat) (p : Packet) (code : Nat) (s : State) : State := stompDrop q p code (stompCount q p code s)

/-- The last cell of packet number `p.sid`, which quad `q` received, has brought a stomp code, or shown a wrong length, or been lost
with the link (R259, R260): wherever the packet stands, it is discarded, or leaves with the code. -/
def stompPkt (q : Nat) (p : Packet) (code : Nat) (s : State) : State :=
  let mine (x : Packet) : Bool := x.sid == p.sid
  if (quad s q).arrivedPkts.any mine then
    modQuad q (fun v => { v with arrivedPkts := v.arrivedPkts.map (fun x => if mine x then { x with stomp := code } else x) }) s
  else
    let s1 := stompCount q p code s
    match s1.swc.ingress.find? (fun w => mine w.pkt) with
    | some w => stompDrop q w.pkt code (ingressDrop w s1)
    | none =>
      match s1.swc.queues.find? (fun h => mine h.pkt && !h.own) with
      | some h => stompColl h.pkt code (atQuad s1 q) (stompQueued h code s1)
      | none => stompCopies p code s1

/-- Whether a quad in a state carries a packet (Table 9-4, R512): identity records always, MGMT in MGMT_ONLY, everything in
UP. -/
def carries (st : QState) (p : Packet) : Bool :=
  st == .up || (p.cls == 4 && (st == .mgmtOnly || p.tag == .plain 1))

/-- A reserved MTYPE (Table 11-14). -/
def mtypeReserved (t : Tag) : Bool :=
  match t with
  | .plain m => !((1 ≤ m && m ≤ 3) || (0x100 ≤ m && m ≤ 0x1FF))
  | _ => false

/-- A packet that Table 9-4 or Table 11-14 rules out at a quad. -/
def badArrival (q : Nat) (s : State) : State :=
  raise { code := 0x0805, kind := 2, unit := q } (modQuad q (fun v => { v with err := v.err ||| 16 }) s)

/-- A packet at its first cell, once it is counted: checked, metered, looked up, mirrored, and set to wait for admission. The flag
tells whether it waits at its ingress. -/
def enter (q : Nat) (p : Packet) (s : State) : State × Bool :=
  match collCheck q p s with
  | (t, false) => (t, false)
  | (t, true) =>
    let (t1, m) := if (quad t q).use = 7 then police (quad t q).port p t else (t, p)
    if m.cls = 0 then (t1, false)
    else
      match lookup q m t1 with
      | (u, none) => ((mirrored [portNum u q] [] m u).1, false)
      | (u, some (out, vc)) =>
        if m.cls = 5 then (copyAdmit out m false u, false)
        else
          let (w, m) := mirrored [portNum u q] (portList out) m u
          (modSwc (fun x => { x with ingress := x.ingress ++
            [{ src := q, inStream := streamOf m.cls m.vc, out := out, pkt := { m with vc := vc } }] }) w, true)

/-- PACKET_ARRIVAL on quad `q` of the packet that has begun to arrive there with a header, or of one that is all there. -/
def arrive (q : Nat) (p0 : Packet) (s : State) : State :=
  let p1 := ((quad s q).arrivedPkts.find? (fun p => decide (hdrOf p = hdrOf p0))).getD p0
  let (s0, p) := numbered { p1 with stomp := if 5 ≤ p1.stomp then 2 else p1.stomp }
    (modQuad q (fun v => { v with arrivedPkts := v.arrivedPkts.erase p1 }) s)
  let free (t : State) : State := returnCredit q (streamOf p.cls p.vc) (gotCells p) t
  if !carries (quad s0 q).state p then free (badArrival q s0)
  else if p.cls = 4 ∧ (p.tag = .plain 1 ∨ p.tag = .plain 2) then free s0
  else if p.cls = 4 && mtypeReserved p.tag then free (badArrival q s0)
  else
    let s1 := modCtr (portNum s0 q) p.cls (fun c => { c with
      rxPkt := (c.rxPkt + 1) % 2 ^ 64, rxByte := (c.rxByte + pktLen p) % 2 ^ 64 }) s0
    if p.stomp ≠ 0 then free (stompArrive q { p with stomp := 0 } p.stomp s1)
    else
      match enter q p s1 with
      | (t, true) => t
      | (t, false) => free t

/-! Leaving (R256 to R258). -/

/-- The first packets of a port's queues for a class and virtual channel, by FWD level, that may leave on a quad. -/
def forwardHeads (s : State) (port cls vc : Nat) : List Held :=
  if cls = 3 then
    (List.range 4).filterMap (fun l => (queueOf s port 3 vc).find? (fun h => !h.started && h.pkt.prio == l))
  else ((queueOf s port cls vc).find? (fun h => !h.started)).toList

/-- Whether a quad has the credit to begin a packet (R364). -/
def hasCredit (v : Quad) (st n : Nat) : Bool :=
  v.ctrlSeen && decide (n ≤ ((credOf v st).limit + 65536 - (credOf v st).sent) % 65536)

/-- Whether a packet head may leave on quad `q` but for its shapers (R256, R257). -/
def mayLeave (s : State) (q port st : Nat) (h : Held) : Bool :=
  h.acct ≠ 3 && packetQuad s port h.pkt == some q && hasCredit (quad s q) st (pktCells h.pkt)

/-- A packet begins to leave (R256): it is charged, counted and handed to its quad with the cells that have arrived, and the copies
planned for its leaving are made. -/
def leave (q port st : Nat) (h : Held) (s : State) : State :=
  let p := h.pkt
  let s1 := if 1 ≤ p.cls ∧ p.cls ≤ 3 then shapeCharge port p s else s
  let s2 := modHeld h (fun h => { h with pkt := { p with mirs := [] }, started := true, quad := q, stalled := false }) s1
  let s3 := modCtr port p.cls (fun c => { c with
    txPkt := (c.txPkt + 1) % 2 ^ 64, txByte := (c.txByte + pktLen p) % 2 ^ 64 }) s2
  let s4 := modQuad q (fun v => { v with
    txQueue := v.txQueue ++ (packetSlots st p).map (fun b => (st, b)) }) s3
  makeCopies p.mirs p s4

/-- Count the heads that their shapers hold back, each once at each node (SHP_NCNT.HELD). -/
def heldBack (port : Nat) (hs : List Held) (s : State) : State :=
  hs.foldl (fun t h =>
    let new := (shapeShort s port h.pkt).filter (fun n => !h.shortBy.contains n)
    modHeld h (fun h => { h with shortBy := h.shortBy ++ new }) (shapeHeld new t)) s

/-- PACKET_FORWARD_START on quad `q`, stream `st`: the first head that its shapers let go leaves, and those before it are held
(R332). -/
def forward (q st : Nat) (s : State) : State :=
  let v := quad s q
  match quadPort v with
  | none => s
  | some port =>
    let cls := streamCls st
    if v.state ≠ .up ∨ st = 0 ∨ s.swc.queues.any (fun h => h.started && h.quad == q && streamOf h.pkt.cls h.vc == st) then s
    else
      let heads := (forwardHeads s port cls (streamVc st)).filter (mayLeave s q port st)
      let goes (h : Held) : Bool := (shapeShort s port h.pkt).isEmpty
      let s1 := heldBack port (heads.takeWhile (fun h => !goes h)) s
      match heads.find? goes with
      | some h => leave q port st h s1
      | none => s1

/-- The reservation of a packet's reply, a cell less: a reply cell that leaves releases one reserved cell (R265). -/
def resCell (h : Held) (rs : List RspRes) : List RspRes :=
  if h.pkt.cls ≠ 2 then rs
  else match rs.find? (fun r => r.port == h.outPort && some r.txn == txnOf h.pkt) with
    | none => rs
    | some r => rs.set (rs.idxOf r) { r with cells := r.cells - 1 }

/-- A cell of a packet has left on a quad: its account gets the cell back, and the last cell ends the packet's stay
(R264, R265). -/
def cellLeft (q st : Nat) (eop : Bool) (s : State) : State :=
  match s.swc.queues.find? (fun h => h.started && h.quad == q && streamOf h.pkt.cls h.vc == st) with
  | none => s
  | some h =>
    if !eop then modSwc (fun w => { w with res := resCell h w.res }) (modHeld h (fun h => { h with cells := h.cells - 1 }) s)
    else
      let txn := txnOf h.pkt
      let s1 := modSwc (fun w => { w with
        queues := w.queues.erase h
        res := if h.pkt.cls = 2 then w.res.eraseP (fun r => r.port == h.outPort && some r.txn == txn) else w.res }) s
      match collTag h.pkt with
      | some t => if (coll s1 t.coll).posted then modColl t.coll (ctxLeft h.outPort t) s1 else s1
      | none => s1

/-! Stomps. -/

/-- STOMP of a held packet (R260), and what it means for the packet's collective (R261). -/
def stompHeld (h : Held) (code seg : Nat) (s : State) : State :=
  let place : FaultPlace :=
    { fchip := fchipOf s.rte.coord, funit := (if h.started then h.quad else 0), fkind := (if h.started then 1 else 6) }
  stompColl h.pkt code place (stompOne h code seg s)

/-- The packet that a STOMP of a port, class and virtual channel concerns: the one that is leaving, else the oldest. -/
def stompTarget (s : State) (port cls vc : Nat) : Option Held :=
  let q := queueOf s port cls vc
  (q.find? (fun h => h.started && h.pkt.stomp == 0)).or q.head?

/-- STOMP, by an error in buffer segment `seg` of the port's home die where the code is 3 and the packet is on die. Code 0 is a
buffer error that SECDED corrected (R254): SWC_STAT.CE notes it, and no packet is touched (log 132). -/
def stompCmd (port cls vc code seg : Nat) (s : State) : State :=
  if code = 0 then
    (if (bufferSegs s (homeDie s port)).contains seg then modSwc (fun w => { w with stat := w.stat ||| 128, ceAt := some (croak s) }) s else s)
  else
    match stompTarget s port cls vc with
    | none => s
    | some h =>
      if code = 3 && h.acct != 3 && !(bufferSegs s (homeDie s port)).contains seg then s
      else stompHeld h (if 5 ≤ code then 2 else code) seg s

/-- OVERFLOW_MOVE_BACK (R269), once the oldest packet is in overflow whole: a poisoned packet is stomped with code 3 (R270). -/
def moveBack (port cls vc : Nat) (s : State) : State :=
  match (queueOf s port cls vc).find? (fun h => h.acct == 3) with
  | none => s
  | some h =>
    if 0 < h.pkt.left then s
    else if poisoned s h.loc (256 * h.cells) then stompHeld h 3 0 (stkUe h.loc s)
    else
      match onDieAcct s port cls vc h.cells with
      | none => s
      | some a => noteHigh port cls (ovfTrim (homeDie s port) (modHeld h (fun h => { h with acct := a, loc := 0 }) s))

/-- SWC_STALL (R267): once for each episode of a wait for admission or for a downstream credit. -/
def stallCmd (port cls vc : Nat) (s : State) : State :=
  let err (t : State) : State := raise { code := 0x0505, kind := 3, unit := port, unit2 := cls + 8 * vc } t
  let st := streamOf cls vc
  match s.swc.ingress.find? (fun w => portNum s w.src == port && w.inStream == st && !w.stalled &&
      ingressHead s w.src st == some w) with
  | some w => err (modSwc (fun v => { v with ingress := v.ingress.set (v.ingress.idxOf w) { w with stalled := true } }) s)
  | none =>
    match (forwardHeads s port cls vc).find? (fun h => !h.stalled &&
        !(((packetQuad s port h.pkt).map (fun q => hasCredit (quad s q) st (pktCells h.pkt))).getD true)) with
    | some h => err (modHeld h (fun h => { h with stalled := true }) s)
    | none => s

/-- RSP_RESERVATION_TIMEOUT (R265). -/
def rspTimeout (port : Nat) (s : State) : State :=
  if s.swc.res.any (fun r => r.port == port) then
    raise { code := 0x0507, kind := 3, unit := port, unit2 := 2 }
      (modSwc (fun w => { w with res := w.res.eraseP (fun r => r.port == port) }) s)
  else s

/-! Registers. -/

/-- Fields of a SWC_MIRCFG value. -/
def mirWith (m : Mirror) (w : Nat) : Mirror :=
  { m with en := bitOf w 0, inp := bitOf w 1, outp := bitOf w 2, flow := bitOf w 3, port := bits w 11 4,
           prio := bits w 14 12, trunc := bits w 18 15, sched := bitOf w 19, dest := bits w 41 20 }

/-- An address of an endpoint of the fabric, as far as this chip knows: a port of its own division, or any port of
another chip of the torus. -/
def fabricEndpoint (s : State) (a : Nat) : Bool :=
  (List.range 3).all (fun i => decide (axisOf a i < extOf s i)) && decide (portOf a < 128) &&
    (chipOf a != s.rte.coord || endpointPort s (portOf a))

/-- A write of SWC_MIRCFG (R276). -/
def mirCfgWrite (i w : Nat) (s : State) : State :=
  let m := tget {} s.swc.mirrors i
  let new := mirWith m w
  if !new.en then modMirror i (fun _ => new) s
  else if (new.port ≠ 255 ∧ !portExists s new.port) ∨ !fabricEndpoint s new.dest ∨ m.n = 0 then
    raise { code := 0x0506, kind := 11, unit := i } s
  else modMirror i (fun _ => { new with pos := if m.en then m.pos else 0 }) s

/-- A write of 1 to SWC_CLR.HIGH. -/
def clearHigh (s : State) : State :=
  modSwc (fun w => { w with
    sharedHigh := [0, 0], ovfHigh := [0, 0], copyHigh := [0, 0]
    ctr := (w.ctr.map (fun e => (e.1, { e.2 with highOn := 0, highOvf := 0 }))).filter
      (fun e => decide (e.2 ≠ {})) }) s

/-- A write of 1 to SWC_CLR.COUNTERS. -/
def clearCounters (s : State) : State :=
  modSwc (fun w => { w with
    disc := List.replicate 8 0
    ctr := (w.ctr.map (fun e => (e.1, ({ highOn := e.2.highOn, highOvf := e.2.highOvf } : PortCtr)))).filter
      (fun e => decide (e.2 ≠ {}))
    mirrors := w.mirrors.map (fun e => (e.1, { e.2 with cnt := 0, dropped := 0, evicted := 0 })) }) s

/-! Meanings. -/

/-- PACKET_ARRIVAL. -/
def execPacketArrival (q : Fin 128) (p : Packet) (s : State) : Res := whenUp (arrive q.val p) s
/-- PACKET_ADMIT. -/
def execPacketAdmit (src : Fin 129) (stream : Nat) (s : State) : Res :=
  whenUp (fun s =>
    if src.val = 128 ∧ ingressHead s 128 stream = none then admitUnit stream (busyDue s) else admitQuad src.val stream s) s
/-- RESEQUENCE. -/
def execResequence (p : Packet) (s : State) : Res := whenUp (reseq p) s
/-- PACKET_FORWARD_START. -/
def execPacketForwardStart (q : Fin 128) (stream : Nat) (s : State) : Res := whenUp (forward q.val stream) s
/-- STOMP. -/
def execStomp (port cls vc : Nat) (cause : StompCause) (s : State) : Res :=
  whenUp (stompCmd port cls vc cause.code cause.seg) s
/-- OVERFLOW_MOVE_BACK. -/
def execOverflowMoveBack (port cls vc : Nat) (s : State) : Res := whenUp (moveBack port cls vc) s
/-- RSP_RESERVATION_TIMEOUT. -/
def execRspReservationTimeout (port : Fin 128) (s : State) : Res := whenUp (rspTimeout port.val) s
/-- SWC_STALL. -/
def execSwcStall (port cls vc : Nat) (s : State) : Res := whenUp (stallCmd port cls vc) s
/-- MIRROR_ENABLE. -/
def execMirrorEnable (session : Fin 16) (value : Word) (s : State) : Res :=
  whenUp (fun s => if bitOf value.toNat 0 then mirCfgWrite session.val value.toNat s else s) s
/-- CLEAR_HIGH. -/
def execClearHigh (s : State) : Res := whenUp clearHigh s
/-- CLEAR_COUNTERS. -/
def execClearCounters (s : State) : Res := whenUp clearCounters s

end Sys2Proof.Machine
end

