-- ==== Sys2Proof/Machine/Clock.lean ====
section
/-! DEFINITION. What one croak tick does (R6, R187): the croak count advances, the counters of Tables 3-17 and 8-8 that
count cycles do, and barrier lines without an enabled leaf are released (R170). -/

namespace Sys2Proof.Machine

/-- A newt's STALLED count after one cycle with the head unable to issue (Table 3-17). -/
def stallTick (v : Newt) : Newt :=
  if v.state = .stall then { v with stalled := (v.stalled + 1) % 2 ^ 32 } else v

/-- A switch-core cycle ends with tick `t`: 100 end in the 128 ticks of a pad (Table 1-2). -/
def switchCycle (t : Nat) : Bool := decide (25 * t / 32 < 25 * (t + 1) / 32)

/-- A head of a port's queue for a class waits for a downstream credit. -/
def waitsCredit (s : State) (port cls : Nat) : Bool :=
  [0, 1].any (fun vc => (forwardHeads s port cls vc).any (fun h =>
    h.acct ≠ 3 && ((packetQuad s port h.pkt).map (fun q => !hasCredit (quad s q) (streamOf cls vc) (pktCells h.pkt))).getD false))

/-- The counts of SWC_STALLCYC after one switch-core cycle. -/
def stallCycle (s : State) : State :=
  let keys := (s.swc.queues.map (fun h => 8 * h.outPort + h.pkt.cls)).foldl insertNat []
  (keys.filter (fun k => decide (k % 8 ≠ 0) && waitsCredit s (k / 8) (k % 8))).foldl (fun t k =>
    modCtr (k / 8) (k % 8) (fun c => { c with stallCyc := (c.stallCyc + 1) % 2 ^ 64 }) t) s

/-- One croak tick passes while the chip runs. -/
def tick (s : State) : State :=
  if up s then
    let s1 := { s with
      sch := { s.sch with croak := (s.sch.croak + 1) % 2 ^ 64 }
      newts := s.newts.map (fun e => (e.1, stallTick e.2)) }
    emptyLines (if switchCycle (croak s) then stallCycle s1 else s1)
  else s

end Sys2Proof.Machine
end

