-- ==== Sys2Proof/Machine/NewtArith.lean ====
section
/-! DEFINITION. What RED, CTR and EPI compute (R99 to R112, R510): the checks of their operand blocks, their pond ranges and
cycle counts, and their outputs. Checks are made in one order (log 40): the range of the operand block, its slots and its
epilogue block (0x0907), fields (0x0906), formats (0x0903), alignment (0x0906), the other ranges (0x0907), tables (0x0909),
LEDGER order (0x090B), held registers (0x090A), addends (0x0904). -/

namespace Sys2Proof.Machine

/-- What an accepted instruction does: its ranges, unit groups and cycles, the bytes that land on completion, its ASB
update, and what it does to registers, to the addend counts `adds` of held sums, and to escape records. -/
structure Work where
  reads : List (Nat × Nat) := []
  writes : List (Nat × Nat) := []
  groups : List UnitGroup := []
  occ : Nat := 1
  lat : Nat := 0
  land : List (Nat × List Byte) := []
  asb : Option (Nat × List Byte) := none
  coll : Nat := 0
  regs : Option (Table WReg × Bool) := none
  adds : Table Nat := []
  newEsc : List (EscapeRec × Nat) := []
  dropEsc : List (Nat × Nat × Nat × Nat) := []
  slots : List (Nat × Nat) := []
  free : Nat := 0

/-- "none" in an address field. -/
def addrNone : Nat := 0xFFFFFFFF

/-- Ranges that leave the general region. -/
def badRanges (v : Newt) (rs : List (Nat × Nat)) : Bool := rs.any (fun r => !inGeneral v r)

/-! Outputs. -/

/-- Bytes of an output of `n` elements: payload, padding, sidecar (R101). -/
def outSize (fb n : Nat) : Nat :=
  roundUp (packedSize (fbFmt fb) n) 64 + sidecarSize (fbForm fb) n

/-- An output under construction: its bytes and counts. -/
structure Written where
  bytes : List Byte
  cnt : Counts

/-- Write out the values of one output under an ACW (R65 to R77, R101). `pos` gives an element's logical place. -/
def writeOut (acw : Nat) (rnd : Nat → Nat) (pos : Nat → Nat × Nat) (vs : List Val) : Written :=
  let fb := acwFmt acw
  let code := fbFmt fb
  let rm := acwRmode acw
  let loc := acwLocate acw
  if fbForm fb = 0 then
    let es := (vs.zipIdx).map (fun e => writePlain code rm (if rm = 3 then rnd e.2 else 0) loc e.1)
    { bytes := slice (packElems code (es.map (·.enc))) 0 (roundUp (packedSize code vs.length) 64),
      cnt := elemCounts loc pos es }
  else
    let b := formBlock (fbForm fb)
    let blocks := (chunks' vs.length b vs).zipIdx
    let done := blocks.map (fun e =>
      writeBlock code rm loc (if rm = 3 then (List.range b).map (fun i => rnd (b * e.2 + i)) else []) e.1)
    let es := done.flatMap (·.2)
    { bytes := slice (packElems code (es.map (·.enc))) 0 (roundUp (packedSize code vs.length) 64) ++
        (if twoLevel (fbForm fb) then leBytes 4 0x3F800000 else []) ++ done.flatMap (fun d => leBytes 1 d.1),
      cnt := elemCounts loc pos es }
where
  chunks' (fuel n : Nat) (l : List Val) : List (List Val) :=
    match fuel with
    | 0 => []
    | fuel + 1 => if l.isEmpty then [] else l.take n :: chunks' fuel n (l.drop n)

/-- Sum of two instructions' counts. -/
def cntAdd (a b : Counts) : Counts :=
  { sat := a.sat + b.sat, nan := a.nan + b.nan, tileU := a.tileU + b.tileU, clamp := a.clamp + b.clamp,
    scale := a.scale + b.scale, prod := a.prod + b.prod, esc := a.esc + b.esc, flags := a.flags ||| b.flags,
    loc := locMin a.loc b.loc }

/-- Logical place of the element at position `p` (R510). -/
def placeOf (tile e p : Nat) : Nat × Nat := (tile + p / max 1 e, p % max 1 e)

/-- Job seed of a newt's collective (R67). -/
def newtSeed (s : State) (v : Newt) (c : Nat) : Word :=
  match if v.role = .scheduled then s.sch.job else none with
  | some j => (job s j).seed
  | none => (job s (coll s c).job).seed

/-! Epilogues (Table 3-9e). -/

/-- An epilogue block in use: fields and table bytes. -/
structure Epi where
  addr : Nat
  scale : Nat
  svec : Nat
  bias : Nat
  bvec : Nat
  taddr : Nat
  tid : Nat

/-- The epilogue block at an address. -/
def epiAt (v : Newt) (a : Nat) : Epi :=
  { addr := a, scale := pondNat v a 4, svec := pondNat v (a + 4) 4, bias := pondNat v (a + 8) 4,
    bvec := pondNat v (a + 12) 4, taddr := pondNat v (a + 16) 4, tid := pondNat v (a + 20) 1 }

/-- Fields of an epilogue block in their ranges. -/
def epiFields (v : Newt) (e : Epi) : Bool :=
  (decide (e.tid ≤ 6) || decide (64 ≤ e.tid)) && allZero (pondRead v (e.addr + 21) 11) &&
    (decide (2 ≤ e.tid) || e.taddr == addrNone)

/-- Ranges that an epilogue of `n` entries reads. -/
def epiRanges (e : Epi) (n : Nat) : List (Nat × Nat) :=
  [(e.addr, 32)] ++ (if e.svec = addrNone then [] else [(e.svec, 4 * n)]) ++
    (if e.bvec = addrNone then [] else [(e.bvec, 4 * n)]) ++
    (if e.tid < 2 ∨ e.taddr = addrNone then [] else [(e.taddr, 8224)])

/-- Alignments of an epilogue's objects (Table 3-3). -/
def epiAligned (e : Epi) : Bool :=
  e.addr % 32 == 0 && (e.svec == addrNone || e.svec % 8 == 0) && (e.bvec == addrNone || e.bvec % 8 == 0) &&
    (e.tid < 2 || e.taddr == addrNone || e.taddr % 32 == 0)

/-- A table header that Table 3-10a allows: id, step, flags, first knot, reserved bytes. -/
def tableHeader (b : List Byte) : Bool :=
  let id := fieldAt b 0 2
  let sk := signed 8 (fieldAt b 2 1)
  (decide (2 ≤ id ∧ id ≤ 6) || decide (64 ≤ id ∧ id ≤ 255)) && decide (-24 ≤ sk ∧ sk ≤ 24) && decide (fieldAt b 3 1 < 4) &&
    allZero (slice b 16 16) &&
    match b32 (fieldAt b 4 4) with
    | .fin _ m e => m == 0 || decide (sk ≤ e) || m % 2 ^ (sk - e).toNat == 0
    | _ => false

/-- The range of an optional epilogue block itself. -/
def epiBlock (e : Option Epi) : List (Nat × Nat) := (e.map (fun e => [(e.addr, 32)])).getD []

/-- Whether an epilogue's table agrees with its id (R99, R108). -/
def epiTable (v : Newt) (e : Epi) : Bool :=
  e.tid < 2 || (e.taddr != addrNone && pondNat v e.taddr 2 == e.tid && tableHeader (pondRead v e.taddr 32))

/-- Apply an epilogue to the value that uses vector entry `i`. -/
def epiApply (v : Newt) (e : Epi) (tab : List Byte) (i : Nat) (x : Val) : Val × Nat :=
  epilogue (if e.svec = addrNone then e.scale else pondNat v (e.svec + 4 * i) 4)
    (if e.bvec = addrNone then e.bias else pondNat v (e.bvec + 4 * i) 4) e.tid tab x

/-- Apply an optional epilogue to values, the entry of value `j` being `ix j`; the flags count only in LEDGER. -/
def epiAll (v : Newt) (e : Option Epi) (ix : Nat → Nat) (xs : List Val) : List Val × Nat :=
  match e with
  | none => (xs, 0)
  | some e =>
    let tab := if e.tid < 2 then [] else pondRead v e.taddr 8224
    let r := (xs.zipIdx).map (fun x => epiApply v e tab (ix x.2) x.1)
    (r.map (·.1), r.foldl (fun a x => a ||| x.2) 0)

/-- LEDGER allows an epilogue only with binary32 (R110). -/
def epiLedgerOk (acw : Nat) (e : Option Epi) : Bool := !acwLedger acw || e.isNone || acwFmt acw == 8

/-! RED. -/

/-- A slot of a RED block. -/
structure RedSlot where
  addr : Nat
  fb : Nat
  partials : Bool
  pw : Nat
  rank : Nat
  bad : Bool

/-- Slot `i` of the RED block at `ob`. -/
def redSlot (v : Newt) (ob i : Nat) : RedSlot :=
  let w := pondNat v (ob + 64 + 8 * i) 8
  { addr := bits w 18 0, fb := bits w 26 19, partials := bitOf w 27, pw := bits w 29 28, rank := bits w 63 32,
    bad := decide (bits w 31 30 ≠ 0 ∨ bits w 29 28 = 3) || (!bitOf w 27 && decide (bits w 29 28 ≠ 0)) }

/-- Bytes that a slot of `n` elements holds. -/
def slotSize (n : Nat) (r : RedSlot) : Nat :=
  if r.partials then (n + 31) / 32 * blockBytes r.pw
  else if fbForm r.fb = 0 then packedSize (fbFmt r.fb) n
  else roundUp (packedSize (fbFmt r.fb) n) 64 + sidecarSize (fbForm r.fb) n

/-- Lanes of the reduction unit for a slot (Table 3-1). -/
def slotLanes (r : RedSlot) : Nat :=
  if r.partials then 128 / 2 ^ r.pw
  else if fbFmt r.fb ≤ 5 then 256
  else if fbFmt r.fb ≤ 7 then 128
  else if fbFmt r.fb = 9 then 2 else 8

/-- The escaped blocks of a slot. -/
def slotEscs (v : Newt) (n : Nat) (r : RedSlot) : List Nat :=
  if r.partials then (List.range ((n + 31) / 32)).filter (fun b =>
    blockEsc (pondRead v (r.addr + b * blockBytes r.pw) 8))
  else []

/-- The record of an escaped block that this newt holds (R102). -/
def escFind (v : Newt) (c tile rank block : Nat) : Option HeldEscape :=
  v.escapes.find? (fun e => e.er.coll == c && e.er.tile == tile && e.er.rank == rank && e.er.block == block)

/-- Bytes of an escape record held for a newt; one in a pool buffer is read from there. -/
def escData (s : State) (e : HeldEscape) : List Byte :=
  match e.spill with
  | none => e.er.data
  | some a => lovRead s (a + 16) (if e.er.wide then 10272 else 2592)

/-- The sums of 32 elements after one block of a partial slot. An escape record is added tags included, and the block's NZMASK
acts as it does unescaped (R61, R62). -/
def addBlock (s : State) (v : Newt) (base c tile : Nat) (r : RedSlot) (b free : Nat) (accs : List Acc) : List Acc :=
  let blk := pondRead v (r.addr + b * blockBytes r.pw) (blockBytes r.pw)
  if blockEsc blk then
    match escFind v c tile r.rank b with
    | none => accs
    | some e =>
      let xs := ((escAccs e.er.wide (escData s e)).zipIdx).map (fun a => accRebase base e.er.wide (free + 32 * b + a.2) a.1)
      accs.zipWith accJoin ((xs.zipIdx).map (fun x =>
        { x.1 with notNegZ := x.1.notNegZ || !bitOf (fieldAt blk 4 4) x.2, added := true }))
  else (accs.zipIdx).map (fun a => partialAdd base r.pw blk (free + 32 * b) a.1 a.2)

/-- The sums after one slot, and SCALE_FAULT. -/
def addSlot (s : State) (v : Newt) (base c tile n : Nat) (t : List Acc × Nat) (r : RedSlot) : List Acc × Nat :=
  if r.partials then
    ((List.range ((n + 31) / 32)).flatMap (fun b =>
      (addBlock s v base c tile r b s.free (slice32 t.1 b)).take (n - 32 * b)), t.2)
  else
    let code := fbFmt r.fb
    let (vs, f) := readVals r.fb n (pondRead v r.addr (packedSize code n))
      (pondRead v (r.addr + roundUp (packedSize code n) 64) (sidecarSize (fbForm r.fb) n))
    (t.1.zipWith (accAdd base) vs, t.2 + f)
where
  slice32 (l : List Acc) (b : Nat) : List Acc :=
    let p := (l.drop (32 * b)).take 32
    p ++ List.replicate (32 - p.length) ({} : Acc)

/-- The LEDGER value of each element, with flags (R79, R103). -/
def redLedger (v : Newt) (code n out : Nat) (lacc : Bool) (slots : List RedSlot) : List (Val × Nat) :=
  let raw (r : RedSlot) (j : Nat) : Val × Nat :=
    let c := fbFmt r.fb
    ledgerIn c (elemRaw c (pondRead v r.addr (packedSize c n)) j)
  (List.range n).map (fun j =>
    let xs := slots.map (fun r => raw r j)
    if lacc then ledgerSum code (elemVal code false (elemRaw code (pondRead v out (packedSize code n)) j), 0) xs
    else match xs with
      | [] => (.fin false 0 0, 0)
      | x :: r => ledgerSum code x r)

/-- The rank order of a LEDGER RED (R103). -/
def redOrder (lacc : Bool) (prev : Nat) (slots : List RedSlot) : Bool :=
  decide (((slots.map (·.rank)).zip ((slots.map (·.rank)).drop 1)).all (fun e => decide (e.1 < e.2))) &&
    (if lacc then slots.all (fun r => decide (prev < r.rank)) else prev == addrNone)

/-- Partial blocks of the sums, with the blocks that are escaped (R101, R102). -/
def partialOut (base pw : Nat) (accs : List Acc) : List (List Byte × Bool) :=
  (List.range ((accs.length + 31) / 32)).map (fun b =>
    let p := (accs.drop (32 * b)).take 32
    partialBlock base pw (p ++ List.replicate (32 - p.length) ({} : Acc)))

/-- Index of this chip in the block of a collective's group. -/
def ownIndex (s : State) (c : Nat) : Nat := grpIndex (coll s c).group s.rte.coord

/-- RED (R100 to R103). Each RED writes its output under its own ACW (R101), so OMODE acts on the output of every LEDGER RED:
nothing in its operand block says that a later RED with LACC goes on from the value, though R80 applies OMODE to the final value
of an element only (DESIGN CHOICE, log 126). -/
def redWork (s : State) (v : Newt) (w ob : Nat) : Except Nat Work :=
  let acw := iAcw w
  let ns := pondNat v ob 1
  let flags := pondNat v (ob + 1) 1
  let n := pondNat v (ob + 2) 2
  let out := pondNat v (ob + 4) 4
  let asb := pondNat v (ob + 8) 4
  let ea := pondNat v (ob + 12) 4
  let c := pondNat v (ob + 20) 3
  let tile := pondNat v (ob + 24) 4
  let e0 := pondNat v (ob + 28) 4
  let part := bitOf flags 0
  let lacc := bitOf flags 1
  let led := acwLedger acw
  let slots := (List.range ns).map (redSlot v ob)
  let epi := if ea = addrNone then none else some (epiAt v ea)
  let code := fbFmt (acwFmt acw)
  let chain := (!part && code == 9) || slots.any (fun r => fbFmt r.fb == 9)
  let base := accBase chain
  let nblk := (n + 31) / 32
  let osize := if part then nblk * blockBytes (acwPw acw) else outSize (acwFmt acw) n
  let srd := slots.map (fun r => (r.addr, slotSize n r))
  let reads := [(ob, 64 + 8 * ns)] ++ srd ++ ((epi.map (fun e => epiRanges e n)).getD []) ++
    (if lacc then [(out, packedSize code n)] else [])
  let writes := [(out, osize), (asb, 40)]
  if !inGeneral v (ob, 64) then .error 0x0907
  else if ns = 0 ∨ 64 < ns then .error 0x0906
  else if badRanges v ((ob, 64 + 8 * ns) :: epiBlock epi) then .error 0x0907
  else if 4 ≤ flags ∨ n = 0 ∨ 8192 < n ∨ pondNat v (ob + 23) 1 ≠ 0 ∨ !allZero (pondRead v (ob + 32) 32) ∨
      slots.any (·.bad) ∨ (part ∧ (led ∨ epi.isSome ∨ iRpi w ≠ 0)) ∨ (lacc ∧ !led) ∨
      (led ∧ slots.any (·.partials)) ∨ !((epi.map (epiFields v)).getD true) then .error 0x0906
  else if 2 ^ 14 ≤ acw ∨ acwPw acw = 3 ∨ (!part ∧ !acwOk acw) ∨
      slots.any (fun r => !fbOk r.fb || (r.partials && fbForm r.fb != 0) || (led && !ledgerFmtOk r.fb code)) ∨
      !epiLedgerOk acw epi then .error 0x0903
  else if slots.any (fun r => r.addr % 64 != 0) ∨ out % 64 ≠ 0 ∨ asb % 8 ≠ 0 ∨ !((epi.map epiAligned).getD true) then
    .error 0x0906
  else if badRanges v (reads ++ writes) then .error 0x0907
  else if !((epi.map (epiTable v)).getD true) then .error 0x0909
  else if led ∧ !redOrder lacc (pondNat v (ob + 16) 4) slots then .error 0x090B
  else if v.held then .error 0x090A
  else
    let g := if chain then 16 else 64
    let cyc := max 1 (((slots.map (fun r => 256 * g / slotLanes r)).sum + 255) / 256)
    let escs := slots.flatMap (fun r => (slotEscs v n r).map (fun b => (c, tile, r.rank, b)))
    let occ := (n + g - 1) / g * cyc * (if led then 8 else 1) + 32 * escs.length
    let w0 : Work :=
      { reads := reads, writes := writes, occ := occ, lat := 12 + (if epi.isSome then 8 else 0), coll := c,
        groups := .register :: (if epi.isSome then [.epilogue] else []), regs := some ([], false), dropEsc := escs,
        slots := srd, free := if slots.any (·.partials) then 8192 else 0 }
    if led then
      let r := redLedger v code n out lacc slots
      let (ys, ef) := epiAll v epi id (r.map (·.1))
      let o := writeOut acw (fun _ => 0) (fun j => placeOf tile (tileElems (fbFmt ((slots.headD (redSlot v ob 0)).fb))) (e0 + j)) ys
      let cnt := { o.cnt with flags := r.foldl (fun a x => a ||| x.2) ef }
      .ok { w0 with land := [(out, o.bytes)], asb := some (asb, asbOf cnt acw) }
    else
      let (accs, sf) := slots.foldl (addSlot s v base c tile n) (List.replicate n ({} : Acc), 0)
      if part then
        let bs := partialOut base (acwPw acw) accs
        let esc := (bs.zipIdx).filter (fun e => e.1.2)
        .ok { w0 with
          land := [(out, bs.flatMap (·.1))]
          asb := some (asb, asbOf { scale := sf, esc := esc.length } acw)
          newEsc := esc.map (fun e =>
            let p := (accs.drop (32 * e.2)).take 32
            ({ coll := c, tile := tile, rank := ownIndex s c, block := e.2, wide := chain,
               data := escBytes chain (p ++ List.replicate (32 - p.length) ({} : Acc)) },
             out + e.2 * blockBytes (acwPw acw))) }
      else
        let (ys, _) := epiAll v epi id (accs.map (accVal base))
        let pos (j : Nat) := placeOf tile (tileElems (fbFmt ((slots.headD (redSlot v ob 0)).fb))) (e0 + j)
        let rnd (j : Nat) := srWord (newtSeed s v c) c (iRpi w) (pos j).1 (pos j).2
        let o := writeOut acw rnd pos ys
        .ok { w0 with land := [(out, o.bytes)], asb := some (asb, asbOf { o.cnt with scale := sf } acw) }

/-! CTR. -/

/-- Whether a product may be formed between two formats (R52). -/
def prodOk (a b : Nat) : Bool :=
  let x := fbFmt a
  let y := fbFmt b
  (x ≤ 5 && y ≤ 5) || ((x == 6 || x == 7) && (y == 6 || y == 7)) || (x == 8 && y == 8) || (x == 9 && y == 9)

/-- Kc and Nc (Table 3-13). -/
def arrayShape (a b : Nat) : Nat × Nat :=
  let x := fbFmt a
  let y := fbFmt b
  if x ≤ 2 ∧ y ≤ 2 then (64, 32)
  else if x ≤ 5 ∧ y ≤ 5 then (32, 32)
  else if x ≤ 7 then (16, 32)
  else if x = 8 then (2, 32) else (1, 16)

/-- Bytes of a row of K elements in A. -/
def rowPitch (fb k : Nat) : Nat := roundUp (packedSize (fbFmt fb) k) 64
/-- Bytes of a panel of B. -/
def panelSize (fb k : Nat) : Nat := roundUp (k * packedSize (fbFmt fb) 32) 64
/-- Bytes of a panel's sidecar. -/
def panelSide (fb k : Nat) : Nat :=
  (if twoLevel (fbForm fb) then 4 else 0) + 32 * (k / formBlock (fbForm fb))
/-- Bytes between output rows (R104). -/
def outPitch (fb n : Nat) : Nat := roundUp (outSize fb n) 64

/-- Values of column `n` of B in ascending k, with SCALE_FAULT (R104). -/
def colVals (v : Newt) (fb ba bs k n : Nat) : List Val × Nat :=
  let code := fbFmt fb
  let p := n / 32
  let c := n % 32
  let a := ba + p * panelSize fb k
  let raw (i : Nat) : Nat := elemRaw code (pondRead v (a + i * packedSize code 32) (packedSize code 32)) c
  if fbForm fb = 0 then ((List.range k).map (fun i => elemVal code false (raw i)), 0)
  else
    let sa := bs + p * roundUp (panelSide fb k) 64
    let off := if twoLevel (fbForm fb) then 4 else 0
    let t := pondNat v sa 4
    let scales := (List.range (k / formBlock (fbForm fb))).map (fun b =>
      blockScale (fbForm fb) (pondNat v (sa + off + 32 * b + c) 1) t)
    ((List.range k).map (fun i =>
      scaleVal (scales.getD (i / formBlock (fbForm fb)) default) (elemVal code true (raw i))),
      scales.countP (fun x => x == .nanBlock true))

/-- Raw encodings of column `n` of a plain B. -/
def colRaws (v : Newt) (fb ba k n : Nat) : List Nat :=
  let code := fbFmt fb
  (List.range k).map (fun i =>
    elemRaw code (pondRead v (ba + n / 32 * panelSize fb k + i * packedSize code 32) (packedSize code 32)) (n % 32))

/-- One sum of products: the accumulated value, INF_ADDEND and PRODUCT_UNDERFLOW (R54, R58). -/
def dotAcc (chain : Bool) (start : Acc) (as bs : List Val) : Acc × Nat × Nat :=
  (as.zip bs).foldl (fun t x =>
    let p := valMul x.1 x.2
    if chain then
      let (q, inf, und) := chainProduct p
      (accAdd (accBase true) t.1 q, if inf then 128 else t.2.1, t.2.2 + bnat und)
    else (accAdd (accBase false) t.1 p, t.2.1, t.2.2)) (start, 0, 0)

/-- The register of C[m][n] (R105). -/
def ctrReg (chain : Bool) (np m n : Nat) : Nat := if chain then 4 * n else 32 * (m * np + n / 32) + n % 32

/-- The held sum of C[m][n]. -/
def ctrHeld (v : Newt) (chain : Bool) (np m n : Nat) : Acc :=
  let r := ctrReg chain np m n
  if chain then chainAcc ((List.range 4).map (fun i => tget {} v.wr (r + i))) else regAcc (tget {} v.wr r)

/-- Registers with the sum of C[m][n] stored. -/
def ctrStore (chain : Bool) (np m n : Nat) (a : Acc) (t : Table WReg) : Table WReg :=
  let r := ctrReg chain np m n
  if chain then ((accChain a).zipIdx).foldl (fun t e => tset {} t (r + e.2) e.1) t else tset {} t r (accReg a)

/-- Addends of the sum of C[m][n], held or not: K more would pass 2^30 (R54). -/
def ctrOver (v : Newt) (chain : Bool) (np m n k : Nat) : Bool :=
  (List.range m).any (fun i => (List.range n).any (fun j => decide (2 ^ 30 < tget 0 v.wrAdds (ctrReg chain np i j) + k)))

/-- CTR (R104 to R106). The IEEE flags of a held LEDGER sum's steps go to the status block of the CTR that makes them (R80, R112,
log 111). -/
def ctrWork (s : State) (v : Newt) (w ob : Nat) : Except Nat Work :=
  let acw := iAcw w
  let aa := pondNat v ob 4
  let asd := pondNat v (ob + 4) 4
  let ba := pondNat v (ob + 8) 4
  let bsd := pondNat v (ob + 12) 4
  let fa := pondNat v (ob + 16) 1
  let fb := pondNat v (ob + 17) 1
  let m := pondNat v (ob + 18) 2
  let k := pondNat v (ob + 20) 4
  let n := pondNat v (ob + 24) 4
  let out := pondNat v (ob + 28) 4
  let asb := pondNat v (ob + 32) 4
  let ea := pondNat v (ob + 36) 4
  let c := pondNat v (ob + 40) 3
  let tile := pondNat v (ob + 44) 4
  let e0 := pondNat v (ob + 48) 4
  let led := acwLedger acw
  let acc := iAcc w
  let hold := iHold w
  let code := fbFmt (acwFmt acw)
  let epi := if ea = addrNone ∨ hold then none else some (epiAt v ea)
  let chain := (fbFmt fa == 9 && fbFmt fb == 9) || (led && code == 9)
  let np := (n + 31) / 32
  let sideA := sidecarSize (fbForm fa) k
  let reads := [(ob, 64), (aa, (m - 1) * rowPitch fa k + packedSize (fbFmt fa) k),
      (ba, (np - 1) * panelSize fb k + k * packedSize (fbFmt fb) 32)] ++
    (if fbForm fa = 0 then [] else [(asd, (m - 1) * roundUp sideA 64 + sideA)]) ++
    (if fbForm fb = 0 then [] else [(bsd, (np - 1) * roundUp (panelSide fb k) 64 + panelSide fb k)]) ++
    ((epi.map (fun e => epiRanges e n)).getD [])
  let writes := (if hold then [] else [(out, m * outPitch (acwFmt acw) n)]) ++ [(asb, 40)]
  if badRanges v ((ob, 64) :: epiBlock epi) then .error 0x0907
  else if m = 0 ∨ 64 < m ∨ k = 0 ∨ 65536 < k ∨ n = 0 ∨ 4096 < n ∨ pondNat v (ob + 43) 1 ≠ 0 ∨
      !allZero (pondRead v (ob + 52) 12) ∨ (fbForm fa = 0) ≠ (asd = addrNone) ∨ (fbForm fb = 0) ≠ (bsd = addrNone) ∨
      (fbForm fa ≠ 0 ∧ k % formBlock (fbForm fa) ≠ 0) ∨ (fbForm fb ≠ 0 ∧ k % formBlock (fbForm fb) ≠ 0) ∨
      ((acc ∨ hold) ∧ (if chain then m ≠ 1 ∨ 16 < n else 2 < m * np)) ∨
      !((epi.map (epiFields v)).getD true) then .error 0x0906
  else if !acwOk acw ∨ !fbOk fa ∨ !fbOk fb ∨ !prodOk fa fb ∨
      (led ∧ (!ledgerFmtOk fa code ∨ !ledgerFmtOk fb code)) ∨ !epiLedgerOk acw epi then .error 0x0903
  else if aa % 64 ≠ 0 ∨ ba % 64 ≠ 0 ∨ (fbForm fa ≠ 0 ∧ asd % 64 ≠ 0) ∨ (fbForm fb ≠ 0 ∧ bsd % 64 ≠ 0) ∨
      (!hold ∧ out % 64 ≠ 0) ∨ asb % 8 ≠ 0 ∨ !((epi.map epiAligned).getD true) then .error 0x0906
  else if badRanges v (reads ++ writes) then .error 0x0907
  else if !((epi.map (epiTable v)).getD true) then .error 0x0909
  else if !acc ∧ v.held then .error 0x090A
  else if acc ∧ ctrOver v chain np m n k then .error 0x0904
  else
    let (kc, nc) := arrayShape fa fb
    let occ := m * ((k + kc - 1) / kc) * ((n + nc - 1) / nc) * (if led then 8 else 1)
    let rows := (List.range m).map (fun i => readVals fa k (pondRead v (aa + i * rowPitch fa k) (packedSize (fbFmt fa) k))
      (pondRead v (asd + i * roundUp sideA 64) sideA))
    let cols := (List.range n).map (fun j => colVals v fb ba bsd k j)
    let sf := (rows.map (·.2)).sum + (cols.map (·.2)).sum
    let cells := (List.range m).flatMap (fun i => (List.range n).map (fun j => (i, j)))
    let sums : List (Acc × Nat × Nat) :=
      if led then
        let ar (i : Nat) : List (Val × Nat) := (List.range k).map (fun t =>
          ledgerIn (fbFmt fa) (elemRaw (fbFmt fa) (pondRead v (aa + i * rowPitch fa k) (packedSize (fbFmt fa) k)) t))
        cells.map (fun e =>
          let br := (colRaws v fb ba k e.2).map (ledgerIn (fbFmt fb))
          let st := if acc then some (accVal (accBase chain) (ctrHeld v chain np e.1 e.2)) else none
          let (x, f) := ledgerDot code st ((ar e.1).zip br)
          (accAdd (accBase chain) {} x, f, 0))
      else cells.map (fun e =>
        dotAcc chain (if acc then ctrHeld v chain np e.1 e.2 else {}) ((rows.getD e.1 ([], 0)).1) ((cols.getD e.2 ([], 0)).1))
    let inCnt : Counts := { scale := sf, prod := (sums.map (·.2.2)).sum, flags := sums.foldl (fun a x => a ||| x.2.1) 0 }
    let w0 : Work :=
      { reads := reads, writes := writes, occ := occ, lat := 16 + (if epi.isSome then 8 else 0), coll := c,
        groups := .register :: (if epi.isSome then [.epilogue] else []) }
    if hold then
      let regs := (cells.zip sums).foldl (fun t e => ctrStore chain np e.1.1 e.1.2 e.2.1 t) v.wr
      let adds := cells.foldl (fun t e =>
        let r := ctrReg chain np e.1 e.2
        tset 0 t r ((if acc then tget 0 v.wrAdds r else 0) + k)) (if acc then v.wrAdds else [])
      .ok { w0 with regs := some (regs, true), adds := adds, asb := some (asb, asbOf inCnt acw) }
    else
      let pos (i j : Nat) := placeOf tile (tileElems code) (e0 + i * n + j)
      let outs := (List.range m).map (fun i =>
        let xs := ((sums.drop (i * n)).take n).map (fun t => accVal (accBase chain) t.1)
        let (ys, ef) := epiAll v epi id xs
        let rnd (j : Nat) := srWord (newtSeed s v c) c (iRpi w) (pos i j).1 (pos i j).2
        let o := writeOut acw rnd (pos i) ys
        (slice o.bytes 0 (outPitch (acwFmt acw) n), { o.cnt with flags := if led then ef else 0 }))
      let cnt := outs.foldl (fun a o => cntAdd a o.2) inCnt
      .ok { w0 with regs := some ([], false), land := [(out, outs.flatMap (·.1))], asb := some (asb, asbOf cnt acw) }

/-! EPI. -/

/-- EPI (R107, R110). -/
def epiWork (s : State) (v : Newt) (w ob : Nat) : Except Nat Work :=
  let acw := iAcw w
  let ia := pondNat v ob 4
  let fb := pondNat v (ob + 4) 1
  let n := pondNat v (ob + 6) 2
  let out := pondNat v (ob + 8) 4
  let asb := pondNat v (ob + 12) 4
  let ea := pondNat v (ob + 16) 4
  let c := pondNat v (ob + 20) 3
  let tile := pondNat v (ob + 24) 4
  let e0 := pondNat v (ob + 28) 4
  let led := acwLedger acw
  let e := epiAt v ea
  let isz := slotSize n { addr := ia, fb := fb, partials := false, pw := 0, rank := 0, bad := false }
  let reads := [(ob, 64), (ia, isz)] ++ epiRanges e n
  let writes := [(out, outSize (acwFmt acw) n), (asb, 40)]
  if badRanges v ((ob, 64) :: epiBlock (if ea = addrNone then none else some e)) then .error 0x0907
  else if n = 0 ∨ 8192 < n ∨ ea = addrNone ∨ pondNat v (ob + 5) 1 ≠ 0 ∨ pondNat v (ob + 23) 1 ≠ 0 ∨
      !allZero (pondRead v (ob + 32) 32) ∨ !epiFields v e then .error 0x0906
  else if !acwOk acw ∨ !fbOk fb ∨ (led ∧ !ledgerFmtOk fb (fbFmt (acwFmt acw))) ∨ !epiLedgerOk acw (some e) then .error 0x0903
  else if ia % 64 ≠ 0 ∨ out % 64 ≠ 0 ∨ asb % 8 ≠ 0 ∨ !epiAligned e then .error 0x0906
  else if badRanges v (reads ++ writes) then .error 0x0907
  else if !epiTable v e then .error 0x0909
  else
    let code := fbFmt fb
    let payload := pondRead v ia (packedSize code n)
    let (vs, sf) := readVals fb n payload (pondRead v (ia + roundUp (packedSize code n) 64) (sidecarSize (fbForm fb) n))
    let inFlags := if led then
        (List.range n).foldl (fun a j => a ||| (ledgerIn code (elemRaw code payload j)).2) 0 else 0
    let (ys, ef) := epiAll v (some e) id vs
    let pos (j : Nat) := placeOf tile (tileElems code) (e0 + j)
    let rnd (j : Nat) := srWord (newtSeed s v c) c (iRpi w) (pos j).1 (pos j).2
    let o := writeOut acw rnd pos ys
    .ok { reads := reads, writes := writes, groups := [.epilogue], occ := (n + 63) / 64 * (if led then 8 else 1), lat := 12,
          land := [(out, o.bytes)], coll := c,
          asb := some (asb, asbOf { o.cnt with scale := sf, flags := if led then inFlags ||| ef else 0 } acw) }

end Sys2Proof.Machine
end

