-- ==== Sys2Proof/Machine/NewtExec.lean ====
section
/-! DEFINITION. The sequencer of a newt (R87 to R98) and its instructions: the conditions of issue, what issuing and
completing do, escape records (R102) and pauses (R95). The command of an instruction names a newt; it
has its effect when that instruction is at the newt's head. -/

namespace Sys2Proof.Machine

/-! Conditions of issue (R90, R91). -/

/-- The head cannot issue: STALL reports the condition. -/
def stallHead (n code : Nat) (s : State) : State := modNewt n (fun v => { v with state := .stall, stall := code }) s

/-- Whether a unit group is busy. -/
def unitBusy (s : State) (v : Newt) (g : UnitGroup) : Bool :=
  v.inflight.any (fun i => i.groups.contains g && decide (croak s < i.issuedAt + i.occupancy))

/-- Whether ranges conflict with an issued, uncompleted instruction. -/
def rangeBusy (v : Newt) (reads writes : List (Nat × Nat)) : Bool :=
  v.inflight.any (fun i =>
    reads.any (fun r => i.writes.any (rangesMeet r)) ||
    writes.any (fun w => i.writes.any (rangesMeet w) || i.reads.any (rangesMeet w)))

/-- Where the head goes after the instruction at `p` (R96, R98): the loops left, and the next index. -/
def nextPc (fuel p : Nat) (ls : List LoopLvl) : List LoopLvl × Nat :=
  match fuel, ls with
  | fuel + 1, l :: r =>
    if l.start + l.len = p then
      if 0 < l.remaining then ({ l with remaining := l.remaining - 1, iter := l.iter + 1 } :: r, l.start)
      else nextPc fuel p r
    else (ls, p)
  | _, _ => (ls, p)

/-- The instruction at the head has issued: the next one is at the head, or the program leaves its region (R96). -/
def issued (n : Nat) (s : State) : State :=
  let v := newt s n
  let (ls, p) := nextPc 5 (v.pc + 1) v.loops
  let v1 := { v with state := .run, stall := 0, issued := (v.issued + 1) % 2 ^ 32, issuedAt := some (croak s), waitPassed := false, registered := false }
  if p < progLen v then setNewt n { v1 with loops := ls, pc := p } s
  else newtError n 0x0905 v.pc 0 true (setNewt n v1 s)

/-- An instruction's error: it does not issue. -/
def headErr (n code : Nat) (s : State) : State := newtError n code (newt s n).pc 0 true s

/-- Run a command when the instruction of opcode `opc` is at the head of a newt that issues. -/
def onHead (opc n : Nat) (f : Nat → State → State) (s : State) : State :=
  let v := newt s n
  if mayIssue (croak s) v && iOpc (wordAt v v.pc) == opc then f (wordAt v v.pc) s else s

/-- The job that a newt works for. -/
def newtJob (s : State) (v : Newt) : Option Nat :=
  if v.role = .scheduled then s.sch.job
  else match v.colls with
    | [] => none
    | c :: _ => some (coll s c).job

/-- Count a scheduled wait of a pad group (R198). -/
def countWait (v : Newt) (pg : Nat) (s : State) : State :=
  if v.role = .scheduled then
    { s with sch := { s.sch with waits := tset 0 s.sch.waits pg (tget 0 s.sch.waits pg + 1) } }
  else s

/-! Signals that wait for earlier instructions (R162). -/

/-- Apply the signals at the front of the list of issued instructions. A rejected one stops the newt (R166), one rejected with 0x0404 too,
which R166 does not name (DESIGN CHOICE, log 141). -/
def sigPump (fuel n : Nat) (s : State) : State :=
  match fuel with
  | 0 => s
  | fuel + 1 =>
    let v := newt s n
    match v.inflight with
    | [] => s
    | i :: r =>
      match i.sigObj with
      | none => s
      | some (o, d) =>
        let (t, err) := signalLocal o d n i.pc (touch (newtJob s v) o (setNewt n { v with inflight := r } s))
        match err with
        | none => sigPump fuel n t
        | some code => sigPump fuel n (newtError n code i.pc 0 false t)

/-! Format S and L. -/

/-- NOP, and any opcode that Table 3-4 does not list (R96). -/
def nopHead (n : Nat) (s : State) : State :=
  let v := newt s n
  let w := wordAt v v.pc
  let known := [0, 1, 2, 8, 9, 0xA, 0xB, 0xC, 0xD, 0x10, 0x11, 0x18, 0x19, 0x1A, 0x20, 0x21, 0x22].contains (iOpc w)
  if !mayIssue (croak s) v then s
  else if iOpc w = 0 ∧ w = 0 then issued n s
  else if iOpc w = 0 ∨ !known then headErr n 0x0905 s else s

/-- END. -/
def endHead (n w : Nat) (s : State) : State :=
  let v := newt s n
  if w % 2 ^ 58 ≠ 0 then headErr n 0x0905 s
  else if !allDone v then stallHead n 6 s
  else programEnds n (setNewt n { v with
    state := .done, stall := 0, issued := (v.issued + 1) % 2 ^ 32, issuedAt := some (croak s) } s)

/-- LOOP (R98). -/
def loopHead (n w : Nat) (s : State) : State :=
  let v := newt s n
  let p := v.pc + 1
  let encl := match v.loops with
    | [] => progLen v
    | l :: _ => l.start + l.len
  if iCount w = 0 ∨ iLen w = 0 ∨ 4 ≤ v.loops.length ∨ progLen v < p + iLen w ∨ encl < p + iLen w then headErr n 0x0905 s
  else setNewt n { v with
    state := .run, stall := 0, issued := (v.issued + 1) % 2 ^ 32, issuedAt := some (croak s), pc := p
    loops := { remaining := iCount w - 1, start := p, len := iLen w, iter := 0, obstep := iStep w } :: v.loops } s

/-- CMT (R115, R141, R145). -/
def cmtHead (n w : Nat) (s : State) : State :=
  let v := newt s n
  let c := iArg w
  if bits w 57 24 ≠ 0 ∨ c = 0 then headErr n 0x0905 s
  else if !allDone v then stallHead n 6 s
  else issued n (commitBy n c s)

/-- TBND (R90 condition 5, R95, R197). -/
def tbndHead (n w : Nat) (s : State) : State :=
  let v := newt s n
  if bits w 57 32 ≠ 0 then headErr n 0x0905 s
  else if !allDone v then stallHead n 6 s
  else if v.pausePend then stallHead n 7 s
  else if v.role = .scheduled then
    if pgEpochs s ≤ v.epochs then
      jobStop 0x0B09 { fchip := fchipOf s.rte.coord, funit := n, fkind := 2 }
        (raise { code := 0x0B09, d := [0, 0, s.sch.jp, s.sch.term] } (stallHead n 7 s))
    else if v.epochs < s.sch.epoch then issued n (setNewt n { v with epochs := v.epochs + 1 } s)
    else stallHead n 7 s
  else issued n s

/-! Format W. -/

/-- Whether the TMO field of a wait is a code that Table 3-7 allows. -/
def waitTmo (w : Nat) : Bool := (tmoTicks (iTmo w)).isSome

/-- WLAND (R88). -/
def wlandHead (n w : Nat) (s : State) : State :=
  let v := newt s n
  if iN w = 0 ∨ bits w 35 32 ≠ 0 ∨ bits w 15 6 ≠ 0 ∨ !waitTmo w then headErr n 0x0905 s
  else
    let k := tget 0 v.lc (iIdx w)
    if k < iN w then stallHead n 1 s
    else countWait v (iPg w) (issued n (setNewt n { v with lc := tset 0 v.lc (iIdx w) (k - iN w) } s))

/-- A wait on an object: it registers once, and issues when it has been released. -/
def objWait (n w : Nat) (reg : State → State × Option Nat) (s : State) : State :=
  let v := newt s n
  if v.waitPassed then countWait v (iPg w) (issued n s)
  else if v.registered then stallHead n 2 s
  else
    let (t, err) := reg (touch (newtJob s v) (iIdx w) (modNewt n (fun v => { v with registered := true }) s))
    match err with
    | some code => newtError n code v.pc 0 false t
    | none => if (newt t n).waitPassed then countWait v (iPg w) (issued n t) else stallHead n 2 t

/-- WSO. -/
def wsoHead (n w : Nat) (s : State) : State :=
  if iN w = 0 ∨ bits w 35 32 ≠ 0 ∨ bits w 15 13 ≠ 0 ∨ !waitTmo w then headErr n 0x0905 s
  else objWait n w (syncWait (iIdx w) n (iN w)) s

/-- A BARR of a newt has issued: the fabric barrier line has released the posted BARRIERs that the newt takes part in (R118,
log 133). -/
def barrIssued (n : Nat) (s : State) : State :=
  (newt s n).colls.foldl (fun t c => if (coll t c).posted && cdOp (coll t c).desc == 7 then
    barrierRelease c (modColl c (fun v => { v with lineDone := true }) t) else t) s

/-- BARR. -/
def barrHead (n w : Nat) (s : State) : State :=
  if bits w 35 13 ≠ 0 ∨ !waitTmo w then headErr n 0x0905 s
  else
    let t := objWait n w (barrArrive (iIdx w) n) s
    if (newt t n).issued = (newt s n).issued then t else barrIssued n t

/-- SIG: it is applied once every earlier instruction has completed (R162). -/
def sigHead (n w : Nat) (s : State) : State :=
  let v := newt s n
  if iN w = 0 ∨ bits w 57 32 ≠ 0 ∨ bits w 15 13 ≠ 0 then headErr n 0x0905 s
  else
    let i : Inflight := { pc := v.pc, groups := [], reads := [], writes := [], issuedAt := croak s,
                          sigObj := some (iIdx w, iN w) }
    let s1 := issued n (setNewt n { v with inflight := v.inflight ++ [i] } s)
    sigPump ((newt s1 n).inflight.length) n s1

/-! Formats A and X. -/

/-- A format-A instruction with no reserved bit set (Table 3-5, R96). -/
def fmtAOk (w : Nat) : Bool :=
  let opc := iOpc w
  bits w 18 0 == 0 && (opc == 0x19 || (!iAcc w && !iHold w)) && (decide (0x18 ≤ opc) || (iRpi w == 0 && iAcw w == 0))

/-- Issue a format-A instruction that has passed its checks. -/
def issueWork (n w ob : Nat) (k : Work) (packets : List Packet) (s : State) : State :=
  let v := newt s n
  let i : Inflight :=
    { pc := v.pc, groups := k.groups, reads := k.reads, writes := k.writes, occupancy := k.occ,
      issuedAt := croak s, due := croak s + k.occ + k.lat, land := k.land, asb := k.asb, packets := packets,
      newEscapes := k.newEsc, dropEscapes := k.dropEsc, clearArrivals := k.slots, ob := ob, coll := k.coll }
  let v1 := { v with
    inflight := v.inflight ++ [i]
    coll := if iOpc w = 0x11 then v.coll else k.coll
    wr := (k.regs.map (·.1)).getD v.wr, held := (k.regs.map (·.2)).getD v.held
    wrAdds := if k.regs.isSome then k.adds else v.wrAdds
    asbOf := match k.asb with
      | none => v.asbOf
      | some (a, _) => tset 0 v.asbOf k.coll a }
  let s1 := setNewt n v1 s
  issued n { s1 with free := s1.free + k.free }

/-- The unit group that an opcode always needs (R90 condition 2). -/
def headUnit (opc : Nat) : UnitGroup :=
  if opc = 0x10 then .sendPort else if opc = 0x11 then .moveUnit else if opc = 0x1A then .epilogue else .register

/-- A unit that the instruction needs is busy, as far as its operand block tells: the epilogue unit too where a RED, or a CTR
that writes out, names an epilogue. While the block itself is still being written, what it names is not known. -/
def headBusy (s : State) (v : Newt) (w ob : Nat) : Bool :=
  let epi := !rangeBusy v [(ob, 64)] [] && (match iOpc w with
    | 0x18 => pondNat v (ob + 12) 4 != addrNone
    | 0x19 => !iHold w && pondNat v (ob + 36) 4 != addrNone
    | _ => false)
  unitBusy s v (headUnit (iOpc w)) || (epi && unitBusy s v .epilogue)

/-- The ranges whose bytes the checks of an instruction read: its operand block, and the slots, the epilogue block and the
table header that these name. -/
def judged (v : Newt) (w ob : Nat) : List (Nat × Nat) :=
  let epi (ea : Nat) : List (Nat × Nat) :=
    if ea = addrNone then []
    else (ea, 32) :: (if (epiAt v ea).tid < 2 ∨ (epiAt v ea).taddr = addrNone then [] else [((epiAt v ea).taddr, 32)])
  (ob, 64) :: match iOpc w with
    | 0x18 => (ob, 64 + 8 * pondNat v ob 1) :: epi (pondNat v (ob + 12) 4)
    | 0x19 => if iHold w then [] else epi (pondNat v (ob + 36) 4)
    | 0x1A => epi (pondNat v (ob + 16) 4)
    | _ => []

/-- A RED, CTR, EPI, SEND or COPY at the head: the conditions of R90 in order, and its checks. An instruction is judged when it
reaches issue (R92): bytes that an issued instruction still writes, and a unit it needs, hold it first (log 40). -/
def workHead (n w : Nat) (f : State → Newt → Nat → Nat → Except Nat Work)
    (pk : State → Newt → Nat → State × List Packet) (s : State) : State :=
  let v := newt s n
  let ob := obAddr v w
  if !fmtAOk w then headErr n 0x0905 s
  else if rangeBusy v (judged v w ob) [] then stallHead n (if headBusy s v w ob then 4 else 5) s
  else match f s v w ob with
    | .error code => if headBusy s v w ob then stallHead n 4 s else headErr n code s
    | .ok k =>
      if k.dropEsc.any (fun e => (escFind v e.1 e.2.1 e.2.2.1 e.2.2.2).isNone) then stallHead n 3 s
      else if k.groups.any (unitBusy s v) then stallHead n 4 s
      else if rangeBusy v k.reads k.writes then stallHead n 5 s
      else
        let (t, ps) := pk s v ob
        issueWork n w ob k ps t

/-- No packets. -/
def noPackets (s : State) (_ : Newt) (_ : Nat) : State × List Packet := (s, [])

/-- COPY. -/
def copyWork (_ : State) (v : Newt) (_ ob : Nat) : Except Nat Work :=
  let src := pondNat v ob 4
  let len := pondNat v (ob + 4) 4
  let dst := pondNat v (ob + 8) 4
  if !inGeneral v (ob, 64) then .error 0x0907
  else if len = 0 ∨ 65536 < len ∨ !allZero (pondRead v (ob + 12) 52) then .error 0x0906
  else if badRanges v [(src, len), (dst, len)] then .error 0x0907
  else .ok { reads := [(ob, 64), (src, len)], writes := [(dst, len)], groups := [.moveUnit], occ := (len + 255) / 256, lat := 4,
             land := [(dst, pondRead v src len)] }

/-! SEND (R102, R134). -/

/-- The stream entry that a SEND names. -/
def sendEntry (v : Newt) (ob : Nat) : List Byte := tget [] v.streams (pondNat v (ob + 8) 4 % 4096)

/-- Destination fields of a free stream (Table 4-6). -/
def streamDest (e : List Byte) (p : Packet) : Packet :=
  let d := fieldAt e 8 4
  if bitOf d 31 then
    { p with dst := bits d 25 21 + 32 * bits d 20 16 + 1024 * bits d 15 11, dchip := true, dunit := unitNewt (bits d 10 0) }
  else { p with dst := bits d 21 17 + 32 * bits d 16 12 + 1024 * bits d 11 7 + 2 ^ 15 * bits d 6 0 }

/-- Destination fields of a scheduled stream: those of its first route record. A cell for a neighbour carries the
neighbour's coordinate: where it ends is not in this chip's image (log 41). -/
def routeDest (s : State) (route : Nat) (p : Packet) : Packet :=
  match (padsRecs (padsBody s)).find? (fun r => rtNum r == route) with
  | none => p
  | some r =>
    if rtDkind r = 0 then { p with dst := s.rte.coord, dchip := true, dunit := unitNewt (newtOfSlot s (rtDest r)) }
    else if rtDkind r = 1 then { p with dst := s.rte.coord + 2 ^ 15 * rtDest r }
    else { p with dst := (quad s (rtDest r)).ncoord, dchip := true }

/-- SEND's checks and cycles. A stream without an entry is out of range. -/
def sendWork (_ : State) (v : Newt) (_ ob : Nat) : Except Nat Work :=
  let src := pondNat v ob 4
  let len := pondNat v (ob + 4) 4
  if !inGeneral v (ob, 64) then .error 0x0907
  else if len = 0 ∨ 65536 < len ∨ 4096 ≤ pondNat v (ob + 8) 4 ∨ pondNat v (ob + 15) 1 ≠ 0 ∨
      !allZero (pondRead v (ob + 24) 40) ∨ (sendEntry v ob).isEmpty then .error 0x0906
  else if badRanges v [(src, len)] then .error 0x0907
  else .ok { reads := [(ob, 64), (src, len)], writes := [], groups := [.sendPort], occ := (len + 127) / 128, lat := 4,
             coll := pondNat v (ob + 12) 3 }

/-- Where a free stream's cells land on a newt of this chip: DLAND's counter and pond address, `cells` cells on (Table 4-6). A packet to a newt
of another chip carries no landing, for which Tables 11-6 and 11-7 have no field: there the landing is that of the CELL_LANDING command
(DESIGN CHOICE, log 169). -/
def streamLand (s : State) (e : List Byte) (cells : Nat) : Option (Nat × Nat) :=
  let d := fieldAt e 8 4
  if bitOf d 31 && bits d 25 21 + 32 * bits d 20 16 + 1024 * bits d 15 11 == s.rte.coord then
    some (bits (fieldAt e 12 4) 5 0, 64 * bits (fieldAt e 12 4) 18 6 + 256 * cells)
  else none

/-- A packet of a SEND with a kind, offset and payload. -/
def sendPacket (s : State) (n : Nat) (v : Newt) (ob cls kind off : Nat) (last : Bool) (bs : List Byte) : Packet :=
  let e := sendEntry v ob
  let p : Packet :=
    { src := s.rte.coord, schip := true, sunit := unitNewt n, cls := cls, chan := if cls = 0 then 0 else fieldAt e 5 1,
      payload := bs,
      tag := .coll { coll := pondNat v (ob + 12) 3, kind := kind, tile := pondNat v (ob + 16) 4,
                     rank := pondNat v (ob + 20) 4, offset := off, stage := fieldAt e 4 1, last := last } }
  if v.role = .scheduled then routeDest s (fieldAt e 0 2) p else streamDest e p

/-- The pond addresses where the header of a record's block may stand: those that this newt wrote or copied, and for a record
from another newt the block's place in the partial that landed here, at the PWIDTH of its collective (log 128). -/
def escPlaces (s : State) (v : Newt) (e : HeldEscape) : List Nat :=
  e.hdrs ++ (v.partAt.filter (fun p => p.coll == e.er.coll && p.tile == e.er.tile && p.rank == e.er.rank)).map
    (fun p => p.addr + e.er.block * blockBytes (acwPw (fieldAt (coll s e.er.coll).desc 6 2)))

/-- The escape records whose block headers a SEND covers, as packets (R102). -/
def sendEscapes (s : State) (n : Nat) (v : Newt) (ob : Nat) : List Packet :=
  let src := pondNat v ob 4
  let len := pondNat v (ob + 4) 4
  (v.escapes.filter (fun e => (escPlaces s v e).any (fun h =>
      decide (src ≤ h ∧ h + 8 ≤ src + len) && blockEsc (pondRead v h 8)))).flatMap (fun e =>
    let d := escData s e
    (List.range ((d.length + 4095) / 4096)).map (fun i =>
      sendPacket s n v ob 3 3 (e.er.block + 256 * i) (i + 1 == (d.length + 4095) / 4096) ((d.drop (4096 * i)).take 4096)))

/-- The packets of a SEND, in order: its own, then its escape records. -/
def sendPackets (n : Nat) (s : State) (v : Newt) (ob : Nat) : State × List Packet :=
  let e := sendEntry v ob
  let bs := pondRead v (pondNat v ob 4) (pondNat v (ob + 4) 4)
  let np := (bs.length + 4095) / 4096
  let kind := fieldAt e 3 1
  (s, (List.range np).map (fun i =>
      { sendPacket s n v ob (fieldAt e 2 1) kind (if kind = 6 then 0 else fieldAt e 6 2 + 16 * i) (i + 1 == np)
          ((bs.drop (4096 * i)).take 4096) with
        land := if v.role = .scheduled then none else streamLand s e (16 * i) }) ++ sendEscapes s n v ob)

/-- The cells of a scheduled packet, each with its route and the pad at whose boundary the slice can release it: the next
one, or the one after when the send port hands it over after tick 112 (R27). -/
def packetCells (route now : Nat) (p : Packet) : List (Nat × Nat × SCell) :=
  (List.range (pktCells p)).map (fun i =>
    (route, now / 128 + 1 + (if 112 < now % 128 then 1 else 0), { hdr := { p with payload := [] }, len := p.payload.length, pos := i, data := slice p.payload (256 * i) 256 }))

/-- A SEND's packets leave the send port: scheduled ones wait for their stream's positions, others enter the switch core.
The escape record of a cell bound for a neighbour goes out towards it. -/
def sendLeave (n : Nat) (i : Inflight) (s : State) : State :=
  let v := newt s n
  let route := fieldAt (tget [] v.streams (pondNat v (i.ob + 8) 4 % 4096)) 0 2
  i.packets.foldl (fun t p =>
    if p.cls = 0 then modNewt n (fun v => { v with sent := v.sent ++ packetCells route (croak s) p }) t
    else if v.role = .scheduled ∧ p.dchip ∧ p.dunit = 0 then
      emit (.packet (((padsRecs (padsBody t)).find? (fun r => rtNum r == route)).map rtDest |>.getD 0) p) t
    else unitSend p t) s

/-! WCLR, WSV, WLD. -/

/-- Fields of format X in their ranges. -/
def fmtXOk (w : Nat) : Bool := decide (1 ≤ iNr w ∧ iNr w ≤ 64 ∧ iRb w + iNr w ≤ 64) && bits w 30 0 == 0

/-- WCLR (R92). -/
def wclrHead (n w : Nat) (s : State) : State :=
  let v := newt s n
  if !fmtXOk w ∨ bits w 44 31 ≠ 0 then headErr n 0x0905 s
  else if unitBusy s v .register then stallHead n 4 s
  else
    issued n (setNewt n { v with
      wr := v.wr.filter (fun e => decide (e.1 < iRb w ∨ iRb w + iNr w ≤ e.1))
      wrAdds := v.wrAdds.filter (fun e => decide (e.1 < iRb w ∨ iRb w + iNr w ≤ e.1))
      held := v.held && iNr w != 64 } s)

/-- A save record (Table 3-11). -/
def saveRecord (r : WReg) : List Byte :=
  leBytes 80 r.w.toNat ++ leBytes 1 (accTags (regAcc r)) ++ zeros 15

/-- The register of a save record. -/
def loadRecord (b : List Byte) : WReg :=
  let t := fieldAt b 80 1
  { w := BitVec.ofNat 640 (fieldAt b 0 80), nan := bitOf t 0, pinf := bitOf t 1, ninf := bitOf t 2, notNegZ := bitOf t 3,
    added := bitOf t 4 }

/-- WSV or WLD with its conditions of issue met: the range it touches is `k`'s. -/
def saveHead (n w : Nat) (k : Newt → Work) (s : State) : State :=
  let v := newt s n
  let r := (iAddr w, 96 * iNr w)
  if !fmtXOk w then headErr n 0x0905 s
  else if !inGeneral v r then headErr n 0x0907 s
  else if unitBusy s v .register then stallHead n 4 s
  else if rangeBusy v (k v).reads (k v).writes then stallHead n 5 s
  else if iOpc w = 0x22 ∧ (List.range (iNr w)).any (fun i =>
      !allZero (pondRead v (iAddr w + 96 * i + 81) 15) || decide (32 ≤ pondNat v (iAddr w + 96 * i + 80) 1)) then
    headErr n 0x0906 s
  else issueWork n w 0 { k v with coll := v.coll } [] s

/-- Cycles of WSV and WLD. -/
def saveOcc (w : Nat) : Nat := (iNr w * 96 + 255) / 256

/-- WSV. -/
def wsvWork (w : Nat) (v : Newt) : Work :=
  { writes := [(iAddr w, 96 * iNr w)], groups := [.register], occ := saveOcc w, lat := 4,
    land := [(iAddr w, (List.range (iNr w)).flatMap (fun i => saveRecord (tget {} v.wr (iRb w + i))))] }

/-- WLD (R114). A save record holds no count of addends: loaded sums count from zero (log 111). -/
def wldWork (w : Nat) (v : Newt) : Work :=
  { reads := [(iAddr w, 96 * iNr w)], groups := [.register], occ := saveOcc w, lat := 4,
    regs := some ((List.range (iNr w)).foldl (fun t i =>
      tset {} t (iRb w + i) (loadRecord (pondRead v (iAddr w + 96 * i) 96))) v.wr, true)
    adds := v.wrAdds.filter (fun e => decide (e.1 < iRb w ∨ iRb w + iNr w ≤ e.1)) }

/-! Completion. -/

/-- Size of an escape record with its match header (R102). -/
def escSize (e : EscapeRec) : Nat := if e.wide then 10288 else 2608

/-- Bytes of the escape window in use. -/
def escUsed (v : Newt) : Nat := ((v.escapes.filter (fun e => e.spill.isNone)).map (fun e => escSize e.er)).sum

/-- The match header that is stored before a spilled record; its layout is not stated, so its bytes are free (log 2). -/
def escSpillBytes (s : State) (e : EscapeRec) : List Byte := freeBytes 16 s ++ e.data

/-- A newt writes an escaped block: the record of a block that it wrote before at the same place no longer goes with that
header. -/
def escForget (n hdr : Nat) (s : State) : State :=
  modNewt n (fun v => { v with escapes := v.escapes.map (fun x => { x with hdrs := x.hdrs.filter (fun h => h != hdr) }) }) s

/-- Pond addresses after a COPY of `len` bytes: those that it overwrites are gone, and those it copies stand at both places. -/
def placesCopied (src len dst : Nat) (hs : List Nat) : List Nat :=
  hs.filter (fun h => !decide (dst ≤ h ∧ h < dst + len)) ++
    (hs.filter (fun h => decide (src ≤ h ∧ h < src + len))).map (fun h => h - src + dst)

/-- The headers and partials that a COPY moves with it. -/
def escCopy (n src len dst : Nat) (s : State) : State :=
  modNewt n (fun v => { v with
    escapes := v.escapes.map (fun x => { x with hdrs := placesCopied src len dst x.hdrs })
    partAt := v.partAt.flatMap (fun p => (placesCopied src len dst [p.addr]).map (fun a => { p with addr := a })) }) s

/-- No buffer can be had for an escape record (R102): the newt stops. The record names the collective, and the PC of the RED
that wrote the block; of a record from another newt the spec names no PC, and the head's is taken (DESIGN CHOICE, log 128). -/
def escErr (n pc ob : Nat) (e : EscapeRec) (s : State) : State :=
  newtHalt n 0x090D pc (raise { code := 0x090D, kind := 1, unit := n, unit2 := pc, coll := e.coll, d := [wordAt (newt s n) pc, ob] } s)

/-- An escape record is stored in a newt's window, or in a pool buffer when the window is full (R102). `pc` and `ob` are those
of the instruction concerned, `hdrs` the header that this newt wrote. -/
def escStore (n pc ob : Nat) (e : EscapeRec) (hdrs : List Nat) (s : State) : State :=
  let v := newt s n
  if escUsed v + escSize e ≤ 16384 then setNewt n { v with escapes := v.escapes ++ [{ er := e, spill := none, hdrs := hdrs }] } s
  else
    match poolTake (0x100 + n) (escSize e) (n / 1024) s with
    | (t, .inl a) =>
      modNewt n (fun v => { v with escapes := v.escapes ++ [{ er := e, spill := some a, hdrs := hdrs }] })
        (drawn (lovStore a (escSpillBytes t e) t))
    | (t, .inr _) => escErr n pc ob e t

/-- A record from another newt lands for the newt (R102), unless its collective is aborted (R148). -/
def escLand (n : Nat) (e : EscapeRec) (s : State) : State :=
  let v := newt s n
  let w := wordAt v v.pc
  if collDead s e.coll then discard 2 s else escStore n v.pc (if hasBlock (iOpc w) then obAddr v w else 0) e [] s

/-- Free the records that a RED has consumed. -/
def escDrop (n : Nat) (ds : List (Nat × Nat × Nat × Nat)) (s : State) : State :=
  ds.foldl (fun t d =>
    let v := newt t n
    match escFind v d.1 d.2.1 d.2.2.1 d.2.2.2 with
    | none => t
    | some e =>
      let t1 := setNewt n { v with escapes := v.escapes.erase e } t
      match e.spill with
      | none => t1
      | some a =>
        match t1.pool.bufs.find? (fun b => decide (b.addr = a)) with
        | some b => bufFree b t1
        | none => t1) s

/-- The first issued instruction with PC `pc`, signals apart, completes, once its cycles of Table 3-12 have passed: its writes
land, its ASB is updated, its packets leave, its escape records are stored or freed (R93, R102, R112, R113, R133). -/
def complete (n pc : Nat) (s : State) : State :=
  let v := newt s n
  match v.inflight.find? (fun i => i.pc == pc && i.sigObj.isNone && decide (i.due ≤ croak s)) with
  | none => s
  | some i =>
    let w := wordAt v i.pc
    let v1 := { i.land.foldl (fun t e => pondWrite e.1 e.2 t) v with
      inflight := v.inflight.erase i
      arrivals := v.arrivals.filter (fun b => !i.clearArrivals.any (fun r => rangesMeet r (b.addr, b.len))) }
    let s1 := setNewt n v1 s
    let s2 := match i.asb with
      | none => s1
      | some (a, d) => asbLand n a d i.coll (some (i.pc, i.ob)) s1
    let s2c := if iOpc w = 0x11 then
      escCopy n (pondNat v i.ob 4) (pondNat v (i.ob + 4) 4) (pondNat v (i.ob + 8) 4) s2 else s2
    let s3 := i.newEscapes.foldl (fun t e => escStore n i.pc i.ob e.1 [e.2] (escForget n e.2 t)) (sendLeave n i (escDrop n i.dropEscapes s2c))
    abortFinish n (sigPump ((newt s3 n).inflight.length) n s3)

/-! Pauses and timeouts. -/

/-- A pause takes effect at a TBND with nothing issued (R95). -/
def pauseNewt (n : Nat) (s : State) : State :=
  let v := newt s n
  if issuing v && v.pausePend && iOpc (wordAt v v.pc) == 0xD && v.inflight.isEmpty then
    setNewt n { v with state := .paused, stall := 0, pausePend := false } s
  else s

/-- A WLAND times out (R97). One that an abort has abandoned does not (R94). -/
def landTimeout (n : Nat) (s : State) : State :=
  let v := newt s n
  let w := wordAt v v.pc
  if v.state == .stall && !v.abortPend && v.stall == 1 && iOpc w == 8 then newtError n 0x090C v.pc (iIdx w) true s else s

/-! Meanings. -/

/-- NOP. -/
def execNop (n : Fin 2048) (s : State) : Res := whenUp (nopHead n.val) s
/-- END. -/
def execEndProgram (n : Fin 2048) (s : State) : Res := whenUp (onHead 1 n.val (endHead n.val)) s
/-- LOOP. -/
def execLoop (n : Fin 2048) (s : State) : Res := whenUp (onHead 2 n.val (loopHead n.val)) s
/-- WLAND. -/
def execWland (n : Fin 2048) (s : State) : Res := whenUp (onHead 8 n.val (wlandHead n.val)) s
/-- WSO. -/
def execWso (n : Fin 2048) (s : State) : Res := whenUp (onHead 9 n.val (wsoHead n.val)) s
/-- SIG. -/
def execSig (n : Fin 2048) (s : State) : Res := whenUp (onHead 0xA n.val (sigHead n.val)) s
/-- BARR. -/
def execBarr (n : Fin 2048) (s : State) : Res := whenUp (onHead 0xB n.val (barrHead n.val)) s
/-- CMT. -/
def execCmt (n : Fin 2048) (s : State) : Res := whenUp (onHead 0xC n.val (cmtHead n.val)) s
/-- TBND. -/
def execTbnd (n : Fin 2048) (s : State) : Res := whenUp (onHead 0xD n.val (tbndHead n.val)) s
/-- SEND. -/
def execSend (n : Fin 2048) (s : State) : Res :=
  whenUp (onHead 0x10 n.val (fun w => workHead n.val w sendWork (sendPackets n.val))) s
/-- COPY. -/
def execCopy (n : Fin 2048) (s : State) : Res := whenUp (onHead 0x11 n.val (fun w => workHead n.val w copyWork noPackets)) s
/-- RED. -/
def execRed (n : Fin 2048) (s : State) : Res := whenUp (onHead 0x18 n.val (fun w => workHead n.val w redWork noPackets)) s
/-- CTR. -/
def execCtr (n : Fin 2048) (s : State) : Res := whenUp (onHead 0x19 n.val (fun w => workHead n.val w ctrWork noPackets)) s
/-- EPI. -/
def execEpi (n : Fin 2048) (s : State) : Res := whenUp (onHead 0x1A n.val (fun w => workHead n.val w epiWork noPackets)) s
/-- WCLR. -/
def execWclr (n : Fin 2048) (s : State) : Res := whenUp (onHead 0x20 n.val (wclrHead n.val)) s
/-- WSV. -/
def execWsv (n : Fin 2048) (s : State) : Res := whenUp (onHead 0x21 n.val (fun w => saveHead n.val w (wsvWork w))) s
/-- WLD. -/
def execWld (n : Fin 2048) (s : State) : Res := whenUp (onHead 0x22 n.val (fun w => saveHead n.val w (wldWork w))) s
/-- NEWT_INSTRUCTION_COMPLETE. -/
def execNewtInstructionComplete (n : Fin 2048) (pc : Nat) (s : State) : Res := whenUp (complete n.val pc) s
/-- CELL_LANDING. -/
def execCellLanding (n : Fin 2048) (cell : LandCell) (s : State) : Res := whenUp (landCell n.val cell) s
/-- ESCAPE_RECORD_LAND (R102). -/
def execEscapeRecordLand (n : Fin 2048) (rec : EscapeRec) (s : State) : Res :=
  whenUp (escLand n.val rec) s
/-- ASB_PACKET_MERGE. -/
def execAsbPacketMerge (n : Fin 2048) (cell : LandCell) (s : State) : Res := whenUp (landAsb n.val cell) s
/-- WLAND_TIMEOUT. -/
def execWlandTimeout (n : Fin 2048) (s : State) : Res := whenUp (landTimeout n.val) s
/-- NEWT_PAUSE. -/
def execNewtPause (n : Fin 2048) (s : State) : Res := whenUp (pauseNewt n.val) s
/-- NEWT_ABORT (R94, R511). -/
def execNewtAbort (n : Fin 2048) (coll : Nat) (s : State) : Res := whenUp (stopFor coll [n.val]) s

end Sys2Proof.Machine
end

