-- ==== Sys2Proof/Machine/CollCmds.lean ====
section
/-! DEFINITION. The commands of the collective machinery (R142 to R150, R432, R434, R511), and the timeout of a sync wait
(R165), which may stop a newt, a channel or a mailbox command. -/

namespace Sys2Proof.Machine

/-- Whether the timeout of a collective runs: its job has been launched, or its post accepted (R143). -/
def timeoutRuns (s : State) (c : Nat) : Bool :=
  unreported s c && (coll s c).state == .pending && ((coll s c).posted || (job s (coll s c).job).launched)

/-- A collective's TMO expires (R143): cause 0x0A02, FKIND 5. -/
def collTimeout (c : Nat) (s : State) : State :=
  if timeoutRuns s c then detectAbort c 0x0A02 { fchip := fchipOf s.rte.coord, funit := 0, fkind := 5 } s else s

/-- An abort request that another chip has detected, or one that is delivered again, reaches the commit chip (R144). -/
def abortArrives (c cause : Nat) (p : FaultPlace) (s : State) : State := abortReq c cause p s

/-- A notice of the outcome reaches another chip of the group (Table 4-8), which acknowledges it. -/
def noticeReceive (c status cause : Nat) (p : FaultPlace) (asb : List Byte) (s : State) : State :=
  let v := coll s c
  if !unreported s c ∨ v.state ≠ .pending ∨ v.commitChip = s.rte.coord ∨ 1 < status then s
  else
    let ack (t : State) : State := mgmt "ACK" v.commitChip [c, status] t
    if status = 0 then ack (collReport c 0 .completed (setColl c { v with asb := slice asb 0 40 } s))
    else
      let s1 := setColl c { v with state := .aborting, cause := cause, place := p, asb := slice asb 0 40, ctxs := [] } s
      ack (collReport c 1 .aborted (stopFor c v.parts (abortStomps c s1)))

/-- Every other chip of the group has acknowledged or been declared lost: the commit chip reports (Table 4-8), a committed
collective with the ASB at its commit, an aborted one with that merged so far (R147). -/
def outcomeDecided (c : Nat) (s : State) : State :=
  let v := coll s c
  if !unreported s c ∨ v.commitChip ≠ s.rte.coord then s
  else
    match v.state with
    | .committed => collReport c 0 .completed s
    | .aborting => collReport c 1 .aborted (setColl c { v with asb := commitAsb c s } s)
    | _ => s

/-- The link has acknowledged every result cell of a collective on a member port, all of its result bytes having been sent (R142); of
a BARRIER, its RELEASE. A port that receives none has nothing to acknowledge. -/
def allDelivered (s : State) (c port : Nat) : Bool :=
  let v := coll s c
  let want (m : Nat × Nat) : Nat := if cdOp v.desc = 7 then 1 else bytesFor v m.2
  v.members.any (fun m => m.1 == port && decide (0 < want m ∧ want m ≤ tget 0 v.acked port)) &&
    !(s.swc.queues.any (fun h => h.outPort == port && h.copyOf.isNone && ofColl c h.pkt)) &&
    (portQuads s port).all (fun q => !(quad s q).unacked.any (fun e => e.2.1 == c))

/-- The egress quad of a member port sends DELIVERED to the commit chip (R142), once for each collective and port. The
tag carries the sending chip's index in the group (Table 4-4). -/
def deliveredSend (c port : Nat) (s : State) : State :=
  let v := coll s c
  if !unreported s c ∨ v.state ≠ .pending ∨ !allDelivered s c port ∨ v.delivered.contains port then s
  else collMsg "DELIVERED" 11 v.commitChip c 0 (grpIndex v.group s.rte.coord) [port]
    (setColl c { v with delivered := insertNat v.delivered port } s)

/-- A newt that the library may place work on: free, enabled and not at work. -/
def placeable (s : State) (n : Nat) : Bool :=
  let v := newt s n
  v.role == .free && newtEnabled s n && v.inflight.isEmpty && !v.abortPend &&
    (v.state == .idle || v.state == .done || v.state == .error)

/-- The library's work on one newt: program, pond, streams. Its landing counters, HELD and its wide registers are cleared: R92 names only a
CTR and a WCLR that clear HELD, and that a start does so too is the model's choice (DESIGN CHOICE, log 156). NWT_ERR, NWT_PERF, ABORTED and
COLL stay: they count from JOB_LAUNCH (Tables 3-15 to 3-17). The newt still takes part in the unreported collectives that it has
worked for (R511). -/
def placeNewt (c : Nat) (p : Placement) (s : State) : State :=
  let v := newt s p.newt.val
  let v0 : Newt := { role := .free, slot := v.slot, errCode := v.errCode, errPc := v.errPc, err := v.err, more := v.more,
                     issued := v.issued, stalled := v.stalled, aborted := v.aborted, coll := v.coll, errAt := v.errAt, errCyc := v.errCyc,
                     issuedAt := v.issuedAt, state := .run, progSize := p.progk
                     colls := c :: v.colls.filter (unreported s) }
  let v1 := p.words.zipIdx.foldl (fun t e => pondWrite (8 * e.2) (wordBytes e.1) t) v0
  let v2 := p.pond.foldl (fun t e => pondWrite e.1 e.2 t) v1
  setNewt p.newt.val { v2 with streams := p.streams.foldl (fun t e => tset [] t e.1 e.2) [] } s

/-- The table that a posted collective's chip needs from the commit chip is there (R240): its epilogue parameters name an EPITAB table and
leave its place open, and the library of this chip holds none. -/
def tableHere (s : State) (v : Coll) (table : List Byte) : Bool :=
  match epMissing v.epipar with
  | none => table.isEmpty
  | some t =>
    if v.commitChip = s.rte.coord ∨ t < 64 then table.isEmpty else decide (table.length = 8224 ∧ fieldAt table 0 2 = t)

/-- The sync objects that placed work names, those of its WSO, SIG and BARR, each with its newt. -/
def workObjs (work : List Placement) : List (Nat × Nat) :=
  work.flatMap (fun p => (p.words.filter (fun w => decide (9 ≤ iOpc w.toNat ∧ iOpc w.toNat ≤ 0xB))).map
    (fun w => (iIdx w.toNat, p.newt.val)))

/-- A posted collective takes effect (R432, R434): its job has reached RUNNING, and the library places it on free newts
(R128, log 1), with the table that has come from the commit chip (R240). The objects that its work names belong to the task (R182). Work
that names a quarantined one is refused with 0x0408 (R183): only now is it known, so the collective aborts with that cause (DESIGN
CHOICE, log 158). -/
def collStart (c : Nat) (table : List Byte) (work : List Placement) (s : State) : State :=
  let v := coll s c
  let ns := work.map (fun p => p.newt.val)
  if !fwRuns s ∨ !unreported s c ∨ !v.posted ∨ v.started ∨ v.state ≠ .pending ∨ (job s v.job).state ≠ .running ∨
      !tableHere s v table ∨ !(ns.all (placeable s)) ∨ ¬ ns.Nodup ∨ work.any (fun p => decide (p.progk = 0 ∨ 16 < p.progk)) then s
  else match (workObjs work).find? (fun e => (obj s e.1).quar) with
  | some (o, n) => detectAbort c 0x0408 (newtPlace s n) (syncErr o 0x0408 n 0 0 0 s)
  | none =>
    let s1 := (workObjs work).foldl (fun t e => touch (some v.job) e.1 t) (work.foldl (fun t p => placeNewt c p t) s)
    setColl c { v with
      started := true, parts := ns.foldl insertNat [], epipar := v.epipar ++ table
      commitNewt := (work.find? (fun p => commits (newt s1 p.newt.val) c)).map (fun p => p.newt.val) } s1

/-- A sync wait times out (R165): the waiter is removed; a newt stops, a channel stops, a command ends with 0x0107. -/
def waitTimeout (o agent : Nat) (s : State) : State :=
  if !((obj s o).waiters.any (fun w => decide (w.agent = agent))) then s
  else
    let s1 := syncTimeout o agent s
    if agent < 0x2000 then newtError agent 0x0401 (newt s agent).pc 0 false s1
    else if agent < 0x4000 then chanStop (agent % 64) 0x0401 s1
    else if (mslot s1 (agent % 256)).work = .preop then cmdFail (agent % 256) 0x0107 s1
    else s1

/-! Meanings. -/

/-- ABORT_REQUEST. -/
def execAbortRequest (coll cause : Nat) (place : FaultPlace) (s : State) : Res := whenUp (abortArrives coll cause place) s
/-- COLL_TIMEOUT. -/
def execCollTimeout (coll : Nat) (s : State) : Res := whenUp (collTimeout coll) s
/-- NOTICE_RECEIVE. -/
def execNoticeReceive (coll status cause : Nat) (place : FaultPlace) (asb : List Byte) (s : State) : Res :=
  whenUp (noticeReceive coll status cause place asb) s
/-- OUTCOME_DECIDED. -/
def execOutcomeDecided (coll : Nat) (s : State) : Res := whenUp (outcomeDecided coll) s
/-- DELIVERED_SEND. -/
def execDeliveredSend (coll : Nat) (port : Fin 128) (s : State) : Res := whenUp (deliveredSend coll port.val) s
/-- POSTED_COLLECTIVE_START. -/
def execPostedCollectiveStart (coll : Nat) (work : CollWork) (s : State) : Res :=
  whenUp (collStart coll work.table work.places) s
/-- SYNC_WAIT_TIMEOUT. -/
def execSyncWaitTimeout (o : Fin 8192) (agent : Nat) (s : State) : Res := whenUp (waitTimeout o.val agent) s

end Sys2Proof.Machine
end

