-- ==== Sys2Proof/Machine/MlDsa.lean ====
section
/-! DEFINITION. Verification of an ML-DSA-65 signature (FIPS 204), which R228, R446 and R452 name. The algorithm is FIPS 204's
and not this spec's (PRESUMED, log 124): k = 6, l = 5, τ = 49, β = 196, γ1 = 2^19, γ2 = (q − 1) / 32, ω = 55, d = 13. A
polynomial is the list of its 256 coefficients modulo q. -/

namespace Sys2Proof.Machine

/-- q. -/
def dsaQ : Nat := 8380417
/-- a − b modulo q. -/
def dsaSub (a b : Nat) : Nat := (a + dsaQ - b) % dsaQ
/-- Product of coefficients. -/
def dsaMul (a b : Nat) : Nat := a * b % dsaQ

/-- b^n modulo q; `fuel` bounds the bits of n. -/
def dsaPow (fuel b n : Nat) : Nat :=
  match fuel with
  | 0 => 1
  | fuel + 1 => if n % 2 = 1 then dsaMul b (dsaPow fuel (dsaMul b b) (n / 2)) else dsaPow fuel (dsaMul b b) (n / 2)

/-- The eight bits of m in reverse order. -/
def brv8 (m : Nat) : Nat := ((List.range 8).map (fun i => m / 2 ^ i % 2 * 2 ^ (7 - i))).sum

/-- The forward transform of the part of a polynomial at node `m`, of 2^fuel coefficients. -/
def ntt (fuel m : Nat) (w : List Nat) : List Nat :=
  match fuel with
  | 0 => w
  | fuel + 1 =>
    let z := dsaPow 9 1753 (brv8 m)
    let lo := w.take (2 ^ fuel)
    let t := (w.drop (2 ^ fuel)).map (dsaMul z)
    ntt fuel (2 * m) (lo.zipWith (fun a b => (a + b) % dsaQ) t) ++ ntt fuel (2 * m + 1) (lo.zipWith dsaSub t)

/-- The inverse of `ntt`, but for the factor 2^fuel. -/
def nttInv (fuel m : Nat) (w : List Nat) : List Nat :=
  match fuel with
  | 0 => w
  | fuel + 1 =>
    let z := dsaPow 10 1753 (512 - brv8 m)
    let lo := nttInv fuel (2 * m) (w.take (2 ^ fuel))
    let hi := nttInv fuel (2 * m + 1) (w.drop (2 ^ fuel))
    lo.zipWith (fun a b => (a + b) % dsaQ) hi ++ (lo.zipWith dsaSub hi).map (dsaMul z)

/-- Inverse transform of a polynomial: 8347681 is 1/256. -/
def nttBack (w : List Nat) : List Nat := (nttInv 8 1 w).map (dsaMul 8347681)

/-- Entry (r, s) of the matrix that ρ gives, in the transformed domain. -/
def dsaEntry (rho : List Byte) (r s : Nat) : List Nat :=
  let b := shake128 (rho ++ leBytes 1 s ++ leBytes 1 r) 1176
  (((List.range 392).map (fun i => fieldAt b (3 * i) 3 % 2 ^ 23)).filter (fun a => decide (a < dsaQ))).take 256

/-- The challenge polynomial: 49 coefficients ±1. -/
def dsaBall (c : List Byte) : List Nat :=
  let h := shake256 c 1088
  let rec next (i : Nat) (bs : List Byte) : Nat × List Byte :=
    match bs with
    | [] => (0, [])
    | b :: r => if b.toNat ≤ i then (b.toNat, r) else next i r
  ((List.range 49).foldl (fun t i =>
    let (j, r) := next (207 + i) t.2
    (((t.1.set (207 + i) (t.1.getD j 0)).set j (if bitOf (fieldAt h 0 8) i then dsaQ - 1 else 1)), r))
    (List.replicate 256 0, h.drop 8)).1

/-- `n` fields of `w` bits packed in bytes. -/
def bitFields (w n : Nat) (b : List Byte) : List Nat :=
  (List.range n).map (fun i => bits (fieldAt b (i * w / 8) (w / 8 + 2)) (i * w % 8 + w - 1) (i * w % 8))

/-- The hint polynomials as the list of positions of each, unless they are malformed. -/
def dsaHints (y : List Byte) : Option (List (List Nat)) :=
  let ends := (List.range 6).map (fun i => fieldAt y (55 + i) 1)
  let starts := 0 :: ends
  let runs := (ends.zip starts).map (fun e => (List.range (e.1 - e.2)).map (fun i => fieldAt y (e.2 + i) 1))
  if (ends.zip starts).all (fun e => decide (e.2 ≤ e.1 ∧ e.1 ≤ 55)) &&
      runs.all (fun r => (r.zip (r.drop 1)).all (fun e => decide (e.1 < e.2))) &&
      allZero (slice y (ends.getLastD 0) (55 - ends.getLastD 0)) then some runs else none

/-- The high part of a coefficient, corrected by its hint. -/
def dsaUseHint (h : Bool) (r : Nat) : Nat :=
  let g2 := 261888
  let l := r % (2 * g2)
  let neg := decide (g2 < l)
  let r0 : Int := if neg then (l : Int) - 2 * g2 else l
  let top := decide ((r : Int) - r0 = dsaQ - 1)
  let r1 : Nat := if top then 0 else (((r : Int) - r0) / (2 * g2)).toNat
  let r0 := if top then r0 - 1 else r0
  if !h then r1 else if 0 < r0 then (r1 + 1) % 16 else (r1 + 15) % 16

/-- Verification of a signature under a public key, for a message and a context string (FIPS 204, pure ML-DSA). -/
def mlDsaVerify (pk msg ctx sig : List Byte) : Bool :=
  let rho := pk.take 32
  let t1 := (List.range 6).map (fun i => bitFields 10 256 (slice pk (32 + 320 * i) 320))
  let c := sig.take 48
  let z := (List.range 5).map (fun i =>
    (bitFields 20 256 (slice sig (48 + 640 * i) 640)).map (fun a => dsaSub (2 ^ 19) a))
  let small (a : Nat) : Bool := decide (a < 2 ^ 19 - 196 ∨ dsaQ - (2 ^ 19 - 196) < a)
  match dsaHints (slice sig 3248 61) with
  | none => false
  | some hs =>
    let tr := shake256 pk 64
    let mu := shake256 (tr ++ leBytes 1 0 ++ leBytes 1 ctx.length ++ ctx ++ msg) 64
    let ch := ntt 8 1 (dsaBall c)
    let zh := z.map (ntt 8 1)
    let w1 := (List.range 6).flatMap (fun r =>
      let az := (zh.zipIdx).foldl (fun t e =>
        t.zipWith (fun x y => (x + y) % dsaQ) ((dsaEntry rho r e.2).zipWith dsaMul e.1)) (List.replicate 256 0)
      let ct := ch.zipWith dsaMul (ntt 8 1 ((t1.getD r []).map (fun a => a * 2 ^ 13 % dsaQ)))
      ((nttBack (az.zipWith dsaSub ct)).zipIdx).map (fun e => dsaUseHint ((hs.getD r []).contains e.2) e.1))
    decide (pk.length = 1952 ∧ sig.length = 3309 ∧ ctx.length ≤ 255) && z.all (fun p => p.all small) &&
      shake256 (mu ++ leBytes 768 (pack (w1.map (fun a => (4, a))))) 48 == c

end Sys2Proof.Machine
end

