-- ==== Sys2Proof/Machine/Objects.lean ====
section
/-! DEFINITION. What a collective descriptor and its objects must hold (R40, R52, R78, R120, R138, R139): shared by COLL_POST and the
LOGIC section of an image. -/

namespace Sys2Proof.Machine

/-! The descriptor (Table 4-7). -/

/-- Reserved fields and values of a descriptor, format bytes apart. -/
def descFields (d : List Byte) : Bool :=
  let op := cdOp d
  decide (fieldAt d 0 3 ≠ 0) && (decide (1 ≤ op ∧ op ≤ 7) || decide (0x11 ≤ op ∧ op ≤ 0x13)) &&
    decide (cdDeliv d ≤ if op = 0x13 then 1 else if opFused op then 2 else 0) &&
    (opReduces op || fieldAt d 6 2 == 0) && (opContracts op || fieldAt d 8 2 == 0) &&
    (if opFused op then decide (cdTable d ≤ 6 ∨ 64 ≤ cdTable d) else cdTable d == 0) && fieldAt d 11 1 == 0 &&
    decide (1 ≤ cdTiles d ∧ 1 ≤ cdLast d ∧ cdLast d ≤ tileElems (fbFmt (cdFmt d))) &&
    bits (fieldAt d 18 2) 15 10 == 0 && (tmoTicks (fieldAt d 18 2)).isSome && (cdRooted d || cdRoot d == 0) &&
    (opContracts op || cdWeight d == 0) && (opFused op || cdEpipar d == 0) && decide (fieldAt d 48 1 ≤ 3) &&
    allZero (slice d 49 15)

/-! Objects (R139). -/

/-- The header's fields. -/
def wtOk (w : List Byte) : Bool := decide (1 ≤ wtK w ∧ wtK w ≤ 65536 ∧ 1 ≤ wtN w ∧ wtN w ≤ 4096) && allZero (slice w 9 55)
/-- Size of a weight object by its header. -/
def wtSize (w : List Byte) : Nat :=
  let p := (wtN w + 31) / 32
  let b := 64 + p * panelSize (wtFmt w) (wtK w)
  let side := panelSide (wtFmt w) (wtK w)
  if fbForm (wtFmt w) = 0 then b else roundUp b 64 + (p - 1) * roundUp side 64 + side

/-- An object's bytes as a pond, to read its epilogue block. -/
def objPond (b : List Byte) : Newt := { pond := memWrite [] 0 b }

/-- Entries of an epilogue vector. -/
def epiEntries (d w : List Byte) : Nat := if opContracts (cdOp d) then wtN w else tileElems (fbFmt (cdFmt d))

/-- Size of an epilogue parameter object by its block. -/
def epSize (blk : List Byte) (n : Nat) : Nat := ((epiRanges (epiAt (objPond blk) 0) n).map (fun r => r.1 + r.2)).foldl max 32

/-- The fields of an epilogue parameter object. -/
def epOk (blk : List Byte) (d : List Byte) : Bool :=
  let e := epiAt (objPond blk) 0
  epiFields (objPond blk) e && epiAligned e && e.tid == cdTable d

/-! Constraints (R78, R52, R120, R138). -/

/-- Format bytes and ACWs. -/
def formatsOk (d w : List Byte) : Bool :=
  let op := cdOp d
  let acw := fieldAt d 6 2
  let acw2 := fieldAt d 8 2
  let a := if op = 0x12 then acwFmt acw else cdFmt d
  fbOk (cdFmt d) && (!opReduces op || (acwOk acw && (!acwLedger acw || ledgerFmtOk (cdFmt d) (acwFmt acw)))) &&
    (!opContracts op || (acwOk acw2 && fbOk (wtFmt w) && prodOk a (wtFmt w) &&
      (!acwLedger acw2 || (ledgerFmtOk a (acwFmt acw2) && ledgerFmtOk (wtFmt w) (acwFmt acw2)))))

/-- ROOT, tile indices, and the operation's constraint. -/
def shapeOk (d g w : List Byte) : Bool :=
  let op := cdOp d
  let n := grpMembers g
  let scattered := op == 2 || (opFused op && cdDeliv d == 2)
  decide (cdRoot d < n) && decide (n * cdTiles d ≤ 2 ^ 32 ∨ op ≠ 6) && decide (resultTiles d w n ≤ 2 ^ 32) &&
    (!scattered || resultTiles d w n % n == 0) && (!opContracts op || cdElems d % max 1 (wtK w) == 0) &&
    (op != 0x13 || wtK w % n == 0)

end Sys2Proof.Machine
end

