-- ==== Sys2Proof/Machine/Paths.lean ====
section
/-! DEFINITION. The torus links and chips on the path of a posted collective (R126, R127, Table 4-3, R143, R149, R322). Its traffic moves
along one axis at a time between chips of its block, the shorter way round, and either way where both are equally short. -/

namespace Sys2Proof.Machine

/-- AXORD of a group record (Table 4-2). -/
def axOrder (g : List Byte) : List Nat :=
  match fieldAt g 6 1 with
  | 0 => [0, 1, 2] | 1 => [0, 2, 1] | 2 => [1, 0, 2] | 3 => [1, 2, 0] | 4 => [2, 0, 1] | _ => [2, 1, 0]

/-- Whether all of a collective's traffic goes to one chip, or comes from it: a rooted operation with partials or a broadcast. A
LEDGER collective's contributions go to the newt that owns their segment, wherever it is (R129). -/
def pathRooted (d : List Byte) : Bool := cdRooted d && !(opReduces (cdOp d) && acwLedger (fieldAt d 6 2))

/-- The axes whose coordinate is already, or still, the root's while a rooted collective moves along axis `a`: those before it in
AXORD towards the root, those after it from the root. -/
def rootAxes (d g : List Byte) (a : Nat) : List Nat :=
  let o := axOrder g
  let i := o.idxOf a
  if cdOp d = 4 then o.drop (i + 1) else o.take i

/-- Whether the shorter way from `x` to `y` on a ring of `e` passes the link between `p` and `p + 1`. -/
def wayPasses (e p x y : Nat) : Bool :=
  let f := (y + e - x) % e
  decide (0 < f) && ((decide (2 * f ≤ e) && decide ((p + e - x) % e < f)) ||
    (decide (e ≤ 2 * f) && decide ((p + e - y) % e < e - f)))

/-- Coordinates of a block on an axis. -/
def blockRange (g : List Byte) (a : Nat) : List Nat := (List.range (grpExt g a)).map (· + grpLo g a)

/-- Whether a posted collective's path includes the link of chip `c` in direction `d`. -/
def linkUsed (s : State) (v : Coll) (c d : Nat) : Bool :=
  let g := v.group
  let a := d / 2
  let e := max 1 (extOf s a)
  let p := if d % 2 = 0 then axisOf c a else (axisOf c a + e - 1) % e
  let rooted := pathRooted v.desc
  let fixed := if rooted then rootAxes v.desc g a else []
  v.posted && (List.range 3).all (fun b => b == a || (if fixed.contains b then axisOf c b == axisOf v.commitChip b
    else (blockRange g b).contains (axisOf c b))) &&
  (blockRange g a).any (fun x => (if rooted then [axisOf v.commitChip a] else blockRange g a).any (fun y =>
    wayPasses e p x y || wayPasses e p y x))

/-- Whether a posted collective has members on a chip or a path that passes it (R322). -/
def chipUsed (s : State) (v : Coll) (c : Nat) : Bool :=
  v.posted && (grpHas v.group c || (List.range 6).any (fun d => linkUsed s v c d))

end Sys2Proof.Machine
end

