-- ==== Sys2Proof/Machine/SchedCells.lean ====
section
/-! DEFINITION. Packets of the scheduled plane in the chip (R27, R259 to R261, R274, R275, R359): their numbers and copies, the cells
that wait at a newt's receive port for their packet's last one, and stomps. -/

namespace Sys2Proof.Machine

/-! Cells and places. -/

/-- The cell's own collective tag (R369). -/
def cellPacket (p : Packet) (pos : Nat) (data : List Byte) : Packet :=
  { p with payload := data, tag := match p.tag with
      | .coll t => .coll { t with offset := t.offset + pos }
      | t => t }

/-- Count one more cell of a route's stream; the count before it. -/
def routeNext (route : Nat) (s : State) : State × Nat :=
  let n := tget 0 s.sch.routeCnt route
  ({ s with sch := { s.sch with routeCnt := tset 0 s.sch.routeCnt route (n + 1) } }, n)

/-- The quad of a route record's last hop. -/
def recQuad (s : State) (r : List Byte) : Nat := hopUnit (rtHop (padsBody s) r (rtHops r - 1))

/-- The ports that the packets of route records leave at. -/
def recPorts (s : State) (recs : List (List Byte)) : List Nat :=
  (recs.filter (fun r => rtDkind r != 0)).filterMap (fun r => quadPort (quad s (recQuad s r)))

/-- A packet of the length `len`, of which the first cell `b` is here. -/
def schedStart (p : Packet) (len : Nat) (b : List Byte) : Packet := { p with payload := b.take len, left := len - 256 }

/-- A scheduled packet's first cell enters at ports `ins`: it takes its numbers, and the mirror sessions decide on it (R274, R276). -/
def schedEnter (ins outs : List Nat) (p : Packet) (len : Nat) (b : List Byte) (s : State) : State × Packet :=
  let k := s.swc.nextId
  let (t, m) := mirrored ins outs { schedStart p len b with sid := k }
    (modSwc (fun w => { w with nextId := w.nextId + schedIds }) s)
  (t, { p with sid := k, mirs := m.mirs })

/-- A scheduled cell leaves on a port: the packet is counted at its first cell, and its copies on leaving are made and grow with
it. -/
def schedLeaves (q : Nat) (c : SCell) (s : State) : State :=
  let port := portNum s q
  let pls := c.hdr.mirs.filter (fun m => m.port == port)
  if c.pos = 0 then
    makeCopies pls { schedStart c.hdr c.len c.data with sid := leavingId c.hdr.sid port } (modCtr port 0 (fun k => { k with
      txPkt := (k.txPkt + 1) % 2 ^ 64, txByte := (k.txByte + c.len) % 2 ^ 64 }) s)
  else if pls.isEmpty then s else cellJoins (leavingId c.hdr.sid port) c.data (c.pos + 1 == cellsOf c.len) s

/-! Landing: a stomped packet is never written into a pond (R261), so its cells wait for its last one (log 137). -/

/-- A scheduled cell of route record `r` reaches a newt. -/
def rxTake (n r : Nat) (last : Bool) (code : Nat) (c : LandCell) (s : State) : State :=
  let v := newt s n
  if !last then setNewt n { v with rx := v.rx ++ [(r, c)] } s
  else
    let mine := (v.rx.filter (fun e => e.1 == r)).map (·.2)
    let s1 := setNewt n { v with rx := v.rx.filter (fun e => e.1 != r) } s
    if code = 0 then (mine ++ [c]).foldl (fun t x => landAny n x t) s1 else s1

/-- The last cell of a packet of route record `r` is late: the cells before it land, or go. -/
def rxFlush (n r : Nat) (good : Bool) (s : State) : State :=
  let v := newt s n
  let mine := (v.rx.filter (fun e => e.1 == r)).map (·.2)
  let s1 := setNewt n { v with rx := v.rx.filter (fun e => e.1 != r) } s
  if good then mine.foldl (fun t x => landAny n x t) s1 else s1

/-- The same at every newt that route records reach. -/
def rxFlushAll (recs : List (Nat × List Byte)) (good : Bool) (s : State) : State :=
  (recs.filter (fun e => rtDkind e.2 == 0)).foldl (fun t e => rxFlush (newtOfSlot t (rtDest e.2)) e.1 good t) s

/-! Stomps. -/

/-- A scheduled packet's last cell has brought a stomp code, shown a wrong length, or been lost with its link (R259, R260). Where no
cell has left the chip, the packet is discarded; else its last cell, `b`, goes on with the code. -/
def schedStomp (q route wait : Nat) (recs : List (Nat × List Byte)) (p : Packet) (len pos code : Nat) (b : List Byte)
    (s : State) : State :=
  let inPipe (f : Flight) : Bool := p.sid != 0 && f.cell.hdr.sid == p.sid
  let waits := recs.all (fun e => s.sch.flights.any (fun f => inPipe f && f.rno == e.1 && f.cell.pos == 0))
  let (s1, idx) := routeNext route s
  let s2 := stompColl p code (atQuad s1 q) (schedCopies p code b (stompCount q p code s1))
  if pos = 0 ∨ waits ∨ recs.all (fun e => rtDkind e.2 == 0) then
    rxFlushAll recs false (discard 0 { s2 with sch := { s2.sch with flights := s2.sch.flights.filter (fun f => !inPipe f) } })
  else
    let c : SCell := { hdr := { p with stomp := code, payload := [] }, len := len, pos := cellsOf len - 1, data := b }
    let s3 := discard 1 s2
    { s3 with sch := { s3.sch with
        flights := s3.sch.flights ++ recs.map (fun e => { rno := e.1, idx := idx, wait := wait, cell := c }) } }

/-- The records of a route that a quad brings, in the current epoch. -/
def quadRecs (s : State) (q route : Nat) : List (Nat × List Byte) :=
  ((padsRecs (padsBody s)).zipIdx.map (fun e => (e.2, e.1))).filter (fun e =>
    rtEpoch e.2 == s.sch.epoch && rtNum e.2 == route && rtSkind e.2 != 1 && hopUnit (rtHop (padsBody s) e.2 0) == q)

/-- A quad is lost: each scheduled packet that it was receiving ends with a cell that the chip supplies, with code 1 (R260). -/
def schedCut (q : Nat) (s : State) : State :=
  (quad s q).schedOpen.foldl (fun t e =>
    if e.2.2.1 = 0 then t else schedStomp q e.1 (quadDimg t q) (quadRecs t q e.1) e.2.1 e.2.2.1 e.2.2.2 1 (zeros 256) t)
    (modQuad q (fun v => { v with schedOpen := [] }) s)

end Sys2Proof.Machine
end

