-- ==== Sys2Proof/Machine/Fabric.lean ====
section
/-! DEFINITION. The fabric (09_fabric_and_routing.md): identity exchange, links and ports going down, lost chips, source
flows, the standby ROUTE bank, drains, and fault rerouting. -/

namespace Sys2Proof.Machine

/-! Identity (R289 to R296). -/

/-- Major version of the running firmware. -/
def fwMajor (s : State) : Nat := bits s.fw.ver.toNat 15 0
/-- Minor version. -/
def fwMinor (s : State) : Nat := bits s.fw.ver.toNat 31 16

/-- The active layout fingerprint, or zero. -/
def activeFp (s : State) : List Byte := if s.lay.active then slice s.lay.fp 0 32 else zeros 32

/-- The 64 bytes of an identity record (Table 9-5). -/
def identBytes (r : IdentRec) : List Byte :=
  leBytes 1 r.kind ++ [0] ++ leBytes 2 r.vendor ++ leBytes 2 r.device ++ leBytes 1 r.step ++ [0] ++
    leBytes 8 r.serial ++ leBytes 2 r.major ++ leBytes 2 r.minor ++ leBytes 2 r.coord ++ leBytes 1 r.dir ++
    leBytes 1 r.qidx ++ slice r.fp 0 32 ++ leBytes 4 r.caps ++ zeros 4

/-- This chip's identity record on a quad. Table 9-5 gives DIR for the torus directions only; on a quad of an endpoint port the model sends
USE − 1, which is 6 (DESIGN CHOICE, log 173). -/
def ownIdent (q : Nat) (s : State) : IdentRec :=
  { kind := 1, vendor := 0x1D4F, device := 0x4830, step := 0xA1, serial := Config.serial.toNat, major := fwMajor s,
    minor := fwMinor s, coord := s.rte.coord, dir := (quad s q).use - 1, qidx := (quad s q).qidx, fp := activeFp s }

/-- Send a link-local MGMT message on a quad (R378): queue 23, stream 7 ahead of packets of the switch core. -/
def linkLocal (q mtype : Nat) (payload : List Byte) (s : State) : State :=
  let p : Packet := { cls := 4, src := s.rte.coord, schip := true, sunit := unitQuad q, tag := .plain mtype,
                      payload := payload }
  modQuad q (fun v => { v with txQueue := v.txQueue ++ (packetSlots 7 p).map (fun b => (23, b)) }) s

/-- Send this chip's identity record. -/
def sendIdent (q : Nat) (s : State) : State := linkLocal q 1 (identBytes (ownIdent q s)) s

/-- The outcome of the checks of Table 9-6 and R295: the next state, and the error code of a failure. -/
def identCheck (q : Nat) (r : IdentRec) (s : State) : QState × Nat :=
  let v := quad s q
  if v.use = 7 then
    if r.kind ≠ 2 then (.quarantine, 0x0603)
    else if r.major ≠ 1 then (.quarantine, 0x060A)
    else if r.qidx ≠ v.qidx then (.quarantine, 0x060D)
    else (.measure, 0)
  else
    let d := v.use - 1
    if r.kind ≠ 1 ∨ r.coord ≠ neighbour s s.rte.coord d then (.quarantine, 0x0603)
    else if r.dir ≠ (if d % 2 = 0 then d + 1 else d - 1) ∨ r.qidx ≠ v.qidx then (.quarantine, 0x060D)
    else if r.major ≠ fwMajor s then (.mgmtOnly, 0x0605)
    else if slice r.fp 0 32 ≠ activeFp s then (.mgmtOnly, 0x0604)
    else (.measure, 0)

/-- The address record that answers an endpoint (R295). -/
def addressBytes (q : Nat) (s : State) : List Byte :=
  leBytes 4 (s.rte.coord + 2 ^ 15 * (quad s q).port) ++ activeFp s ++ leBytes 2 (fwMajor s) ++ leBytes 2 (fwMinor s) ++
    leBytes 1 0 ++ leBytes 1 16 ++ leBytes 2 4096 ++ zeros 20

/-- An endpoint port has come up (R296). -/
def endpointUp (port : Nat) (s : State) : State :=
  let e := tget {} s.rte.ep port
  if e.state = 2 then s
  else
    let s1 := modRte (fun t => { t with ep := tset {} t.ep port { e with state := 2 } }) s
    let entry (n : Nat) : List Byte := leBytes 1 port ++ leBytes 1 n ++ zeros 6 ++ slice e.ident (32 * n) 32
    pushEvent 1 (leBytes 1 port ++ leBytes 1 e.caps ++ leBytes 2 e.vendor ++ leBytes 2 e.device)
      (logAdd 1 4 (entry 1) (logAdd 1 4 (entry 0) s1))

/-! Links and ports going down (R293, R296, R310, R320). -/

/-- Collectives of this chip that have not been committed, with a property. -/
def pendingColls (s : State) (f : Coll → Bool) : List Nat :=
  (s.colls.filter (fun e => !e.2.reported && e.2.state == .pending && f e.2)).map (·.1)

/-- The fault place of a quad of this chip. -/
def quadPlace (s : State) (q : Nat) : FaultPlace := atQuad s q

/-- Free every flow with a property (R306, R309). -/
def freeFlows (f : Nat × Nat × Nat × Nat × Nat × Nat → Bool) (s : State) : State :=
  modRte (fun r => { r with flows := r.flows.filter (fun g => !f g.key) }) s

/-- A DEPART notice: flows from the departed address are freed (R296). -/
def departed (addr : Nat) (s : State) : State := freeFlows (fun k => k.1 == addr) s

/-- Discard every packet queued for a port (SWC_DISC7). -/
def dropQueue (port : Nat) (s : State) : State :=
  let hs := s.swc.queues.filter (fun h => h.outPort == port)
  ovfTrim (homeDie s port)
    (modSwc (fun w => { w with queues := w.queues.filter (fun h => h.outPort ≠ port) })
      (hs.foldl (fun t _ => discard 7 t) s))

/-- An endpoint port is declared down (R296). -/
def endpointDown (port : Nat) (s : State) : State :=
  let e := tget {} s.rte.ep port
  let s1 := modRte (fun t => { t with ep := tset {} t.ep port { e with state := 0 } }) s
  let s2 := pushEvent 2 (leBytes 1 port ++ leBytes 1 e.caps ++ leBytes 2 e.vendor ++ leBytes 2 e.device) s1
  let s3 := logAdd 1 4 (leBytes 1 port ++ leBytes 1 0xFF) s2
  let s4 := abortMany (pendingColls s3 (fun c => c.members.any (fun m => m.1 == port))) 0x0A04
    { fchip := fchipOf s.rte.coord, funit := port, fkind := 3 } s3
  let s5 := modSwc (fun w => { w with res := w.res.filter (fun r => r.port ≠ port) }) (dropQueue port s4)
  let addr := s.rte.coord + 2 ^ 15 * port
  let s6 := departed addr (freeFlows (fun k => k.2.1 == addr) s5)
  (otherChips s6).foldl (fun t c => mgmt "DEPART" c [addr] t) s6

/-- A torus link is declared down (R293): in native operation the posted collectives whose path includes it abort (R149, R318). -/
def torusDown (q d : Nat) (s : State) : State :=
  let s1 := modRte (fun r => { r with declDown := insertNat r.declDown d }) s
  if s1.rte.compat then s1
  else abortMany (pendingColls s1 (fun c => linkUsed s1 c s1.rte.coord d)) 0x0A03 (quadPlace s1 q) s1

/-- 0x0606 for a link or port (R293): one record for each word of 64 quads that has some of them down (Table 15-2). -/
def linkDownErr (port : Nat) (s : State) : State :=
  let quads := (portQuads s port).filter (fun x => (quad s x).state != .up)
  (((quads.map (· / 64)).foldl insertNat [])).foldl (fun t k =>
    raise { code := 0x0606, kind := 3, unit := port, unit2 := 256 * k,
            d := [0, 0, ofBits ((quads.filter (fun x => x / 64 == k)).map (· % 64))] } t) s

/-- A quad has left UP: its link or port may be declared down (R293), and a job whose pads use it stops (R318). -/
def declareDown (q : Nat) (s : State) : State :=
  let v := quad s q
  match quadPort v with
  | none => s
  | some port =>
    let used := v.reserved && schActive s
    if portUp s port && !used then s
    else
      let s1 := linkDownErr port s
      let cause := if port < 128 then 0x0A04 else 0x0A03
      let place : FaultPlace := if port < 128 then { fchip := fchipOf s.rte.coord, funit := port, fkind := 3 }
        else quadPlace s q
      let s2 := if used then jobStop cause place s1 else s1
      if port < 128 then endpointDown port s2 else torusDown q (port - 128) s2

/-- A packet is sent again the other way round its axis (R320): it is admitted as any other, or waits for that as at an ingress. -/
def sendBack (port vc : Nat) (p : Packet) (s : State) : State :=
  if p.cls = 5 then copyAdmit port p false s
  else
    match admitTo port vc p s with
    | (t, true) => t
    | (t, false) => modSwc (fun w => { w with ingress := w.ingress ++
        [{ src := 128, inStream := streamOf p.cls vc, out := port, pkt := { p with vc := vc } }] }) t

/-- Whether compatibility mode sends a packet of a dead link's replay buffer the other way round: it had made no earlier hop on the
axis. A stomped packet is not sent again: its code is never changed (R260). -/
def goesBack (q : Nat) (p : Packet) (s : State) : Bool :=
  let u := (quad s q).use
  let d := u - 1
  s.rte.compat && p.stomp == 0 && decide (1 ≤ u ∧ u ≤ 6) && axisOf p.src (d / 2) == axisOf s.rte.coord (d / 2) &&
    dirUp s (if d % 2 = 0 then d + 1 else d - 1)

/-- The packets of a dead link (R310, R320): in compatibility mode one that had made no earlier hop on the axis goes the
other way round; every other sequenced packet draws a NAK with reason LINK. -/
def recoverPacket (q : Nat) (p : Packet) (s : State) : State :=
  let d := (quad s q).use - 1
  let back := if d % 2 = 0 then d + 1 else d - 1
  if goesBack q p s then sendBack (128 + back) (hopVc s none p back) p s
  else if p.seqv then sendAck p true false 1 3 0 s
  else s

/-- A packet that had begun to leave on a dead link: one that is not sent the other way is discarded from its port's queue (SWC_DISC7). -/
def recoverHeld (q : Nat) (p : Packet) (s : State) : State :=
  recoverPacket q p (if goesBack q p s then s else discard 7 s)

/-- A packet that is being received ends here, with a stomp code in a last cell that the chip supplies (R260). -/
def cutOpen (q code : Nat) (o : OpenPkt) (s : State) : State :=
  if o.got = 0 then stompArrive q o.pkt code s
  else stompPkt q o.pkt code (cellIn q o.pkt.sid (zeros 256) true s)

/-- The last of what a dead link brought of some packets: those received whole enter, and the others are stomped with code 1. -/
def lastArrivals (q : Nat) (f : Packet → Bool) (s : State) : State :=
  let s1 := ((quad s q).opens.filter (fun o => f o.pkt)).foldl (fun t o => if o.len = 0 then t else cutOpen q 1 o t) s
  schedCut q (((quad s1 q).arrivedPkts.filter f).foldl (fun t p => arrive q p t) s1)

/-- RTE_EPSTAT.STATE of a port that is not up, by its quads (Table 9-12): a quad that measures makes it discovering before one in quarantine
makes it quarantined. Table 9-12 only names the states; which of several quads counts is the model's choice (DESIGN CHOICE, log 174). -/
def portSeen (s : State) (port : Nat) : Nat :=
  if (portQuads s port).any (fun q => (quad s q).state == .measure) then 1
  else if (portQuads s port).any (fun q => (quad s q).state == .quarantine) then 3 else 0

/-- A quad of an endpoint port that is not up has left MEASURE or QUARANTINE. -/
def portUnseen (q : Nat) (s : State) : State :=
  let v := quad s q
  let e := tget {} s.rte.ep v.port
  if v.use = 7 ∧ (e.state = 1 ∨ e.state = 3) then
    modRte (fun t => { t with ep := tset {} t.ep v.port { e with state := portSeen s v.port } }) s
  else s

/-- The direction by which a packet queued for direction `d` is travelling the axis already; none on its first hop there. -/
def onAxis (s : State) (d : Nat) (p : Packet) : Option Nat :=
  if axisOf p.src (d / 2) = axisOf s.rte.coord (d / 2) then none else some d

/-- A packet that has not begun to leave for a direction that has no UP quad meets R300 to R303 again (R512). -/
def routeAgain (d : Nat) (p : Packet) (s : State) : State :=
  match nextHop s (onAxis s d p) p with
  | none => onNoRoute 128 p s
  | some (out, vc) => sendBack out vc p s

/-- The same for a packet that waits to be admitted. -/
def waitAgain (w : Waiting) (s : State) : State :=
  match nextHop s (prevDir s w.src) w.pkt with
  | none => onNoRoute w.src w.pkt (ingressDrop w s)
  | some (out, vc) => modSwc (fun v => { v with ingress := v.ingress.set (v.ingress.idxOf w) { w with out := out, pkt := { w.pkt with vc := vc } } }) s

/-- Direction `d` has lost its last UP quad: its signal slots are lost (R181), and its packets that have not begun to leave are routed
again. -/
def dirLost (d : Nat) (s : State) : State :=
  let mine (h : Held) : Bool := !h.started && h.outPort == 128 + d
  let s1 := signalsLost d s
  let s2 := modSwc (fun w => { w with queues := w.queues.filter (fun h => !mine h) }) s1
  let s3 := ((s1.swc.queues.filter mine).map (·.pkt)).foldl (fun t p => routeAgain d p t) (ovfTrim (homeDie s2 (128 + d)) s2)
  (s1.swc.ingress.filter (fun w => w.out == 128 + d)).foldl (fun t w => waitAgain w t) s3

/-- What follows where a quad has left UP and its direction has no other. -/
def dirCheck (q : Nat) (s : State) : State :=
  let u := (quad s q).use
  if 1 ≤ u ∧ u ≤ 6 ∧ !dirUp s (u - 1) then dirLost (u - 1) s else s

/-- A quad leaves service: packets that it was receiving are stomped with code 1, packets that it was sending are
recovered, signal slots that have no quad left are lost (R181), and the link's state is cleared. -/
def quadDown (q : Nat) (s : State) : State :=
  let s0 := lastArrivals q (fun _ => true) s
  let v := quad s0 q
  let out := s0.swc.queues.filter (fun h => h.started && h.quad == q)
  let s1 := setQuad q { v with
    state := .down, step := 0, deskewed := false, farReady := false, nearReady := false, txQueue := [], opens := [],
    replay := [], evicted := [], badList := [], accepted := [], schedBad := [], schedTx := [],
    schedRes := [], resTx := [], reportDue := none, lastReport := none, noHdr := 0, txSlot := 0, readyRun := 0,
    ctrlSeen := false, sentPkts := [], unacked := [], arrivedPkts := [], measured := false, exchanges := 0 } s0
  let s2 := modSwc (fun w => { w with queues := w.queues.filter (fun h => !(h.started && h.quad == q)) }) s1
  let s3 := (v.sentPkts.map (·.2)).foldl (fun t p => recoverPacket q p t) s2
  let s4 := (out.map (·.pkt)).foldl (fun t p => recoverHeld q p t) s3
  let s5 := dirCheck q s4
  if v.state = .up then declareDown q s5 else portUnseen q s5

/-- A flit of the replay buffer that a quad in MGMT_ONLY, or in QUARANTINE, may still send (Table 9-4, R512). -/
def mayReplay (st : QState) (r : Replay) : Bool :=
  let h := fieldAt r.bytes 0 1
  h == 0 || h % 8 == 3 || (st == .mgmtOnly &&
    ((h % 8 == 1 && streamCls (h / 16) == 4) || (h % 8 == 2 && r.ordered && bits (fieldAt r.bytes 33 16) 61 59 == 4)))

/-- A quad leaves UP for MGMT_ONLY or QUARANTINE: what it no longer carries ends as on a dead link, and its link may be declared down. In
QUARANTINE it sends identity records only, which stand in queue 23. -/
def leaveUp (q : Nat) (st : QState) (s : State) : State :=
  let ends (p : Packet) : Bool := st != .mgmtOnly || p.cls != 4
  let s0 := lastArrivals q ends s
  let out := s0.swc.queues.filter (fun h => h.started && h.quad == q && ends h.pkt)
  let sent := ((quad s0 q).sentPkts.map (·.2)).filter ends
  let s1 := modQuad q (fun v => { v with
    state := st, schedTx := [], schedRes := [], opens := v.opens.filter (fun o => !ends o.pkt)
    replay := v.replay.filter (mayReplay st), sentPkts := v.sentPkts.filter (fun e => !ends e.2)
    txQueue := v.txQueue.filter (fun e => if st = .mgmtOnly then streamCls (e.1 % 16) == 4 else e.1 == 23) }) s0
  let s2 := modSwc (fun w => { w with queues := w.queues.filter (fun h => !out.contains h) }) s1
  let s3 := (out.map (·.pkt)).foldl (fun t p => recoverHeld q p t) (sent.foldl (fun t p => recoverPacket q p t) s2)
  declareDown q (dirCheck q s3)

/-- An endpoint's record is kept for its port (Table 9-12). -/
def epRecord (q : Nat) (r : IdentRec) (st : QState) (s : State) : State :=
  modRte (fun t => { t with ep := tmod {} t.ep (quad s q).port (fun e =>
    { e with state := if e.state = 2 then 2 else if st = .measure then 1 else 3, caps := r.caps % 8,
             vendor := r.vendor, device := r.device, jminor := 0, ident := identBytes r }) }) s

/-- A record that reaches an UP quad: the exchange is repeated after a molt, and the quad takes the outcome of R291 or R295 (R459). One
that passes leaves it UP; an endpoint's draws the address record. -/
def identAgain (q : Nat) (r : IdentRec) (s : State) : State :=
  let (st, code) := identCheck q r s
  if code ≠ 0 then
    modQuad q (fun v => { v with cause := code, ncoord := r.coord }) (raise { code := code, kind := 2, unit := q } (leaveUp q st s))
  else if (quad s q).use = 7 then linkLocal q 2 (addressBytes q s) (epRecord q r st s)
  else s

/-- A received identity record (R291, R295). The code of an outcome is raised on entering it, and again only when it
changes (R289). -/
def identity (q : Nat) (r : IdentRec) (s : State) : State :=
  let v := quad s q
  if v.use ≠ 0 ∧ v.state = .up then identAgain q r s
  else if v.use = 0 ∨ !(v.state == .ident || v.state == .mgmtOnly || v.state == .quarantine) then s
  else
    let (st, code) := identCheck q r s
    let s1 := if code ≠ 0 ∧ (v.state = .ident ∨ v.cause ≠ code) then
        raise { code := code, kind := 2, unit := q } s else s
    let s2 := setQuad q { v with
      state := st, ncoord := r.coord, cause := if code ≠ 0 then code else v.cause,
      exchanges := if st = .measure then 0 else v.exchanges, sums := if st = .measure then (0, 0) else v.sums } s1
    if v.use ≠ 7 then s2
    else
      let s3 := epRecord q r st s2
      if st = .measure then linkLocal q 2 (addressBytes q s3) s3 else s3

/-- The chip takes every link down (R317). -/
def allLinksDown (s : State) : State :=
  (List.range 128).foldl (fun t q => if (quad t q).state = .down then t else quadDown q t) s

/-! Lost chips (R317, R318). -/

/-- Neighbours of a chip on the torus, lost ones left out. -/
def neighboursOf (s : State) (c : Nat) : List Nat :=
  ((List.range 6).filter (fun d => decide (1 < extOf s (d / 2)))).map (neighbour s c)

/-- The ASBs of this chip's newts for a collective, merged (R112, R147). -/
def partsAsb (c : Nat) (s : State) : List Byte :=
  (coll s c).parts.foldl (fun m n =>
    let v := newt s n
    let a := tget 0 v.asbOf c
    if a = 0 then m else asbMerge m (pondRead v a 40)) (zeros 40)

/-- A collective whose commit chip is lost before its notice arrived (Table 4-8): its record carries the ASB as merged on this
chip. -/
def collLost (c chip : Nat) (s : State) : State :=
  let v := coll s c
  let place : FaultPlace := { fchip := fchipOf chip, funit := 0, fkind := 6 }
  let s1 := abortStomps c (stopFor c v.parts (setColl c { v with cause := 0x0A0A, place := place, asb := partsAsb c s } s))
  collReport c 2 .lost (collRaise c 0x0A0A place s1)

/-- Whether a job's block includes a chip: the span of the active image. -/
def inSpan (s : State) (chip : Nat) : Bool := s.lay.spanChips.contains chip

/-- The chip that coordinates a FABRIC drain: the in-service chip with the lowest COORD (R314). -/
def coordinator (s : State) : Nat := (otherChips s).foldl min s.rte.coord

/-- Whether a quad holds a received cell of a class that has not been looked up. -/
def quadHolds (c : Nat) (v : Quad) : Bool := v.arrivedPkts.any (fun p => p.cls == c)

/-- Whether a class has a cell in the switch core (R280). -/
def heldClass (s : State) (c : Nat) : Bool :=
  s.swc.queues.any (fun h => h.pkt.cls == c) || s.swc.ingress.any (fun w => w.pkt.cls == c) ||
    s.quads.any (fun e => quadHolds c e.2)

/-- Classes that the drain names. -/
def drainClasses (s : State) : List Nat := (List.range 6).filter (drains s)

/-- This chip's drain report (R314). -/
def ownReport (s : State) : DrainRep :=
  { chip := s.rte.coord, empty := (List.range 5).map (fun i => !heldClass s (i + 1)),
    sent := (List.range 5).map (fun i => s.rte.sentCells.getD (i + 1) 0),
    recvd := (List.range 5).map (fun i => s.rte.recvCells.getD (i + 1) 0) }

/-- Whether a round meets the conditions of R314 against the round before it. -/
def roundGood (s : State) (prev cur : List DrainRep) : Bool :=
  (drainClasses s).all (fun c =>
    cur.all (fun r => r.empty.getD (c - 1) false) &&
    cur.all (fun r => prev.any (fun p => p.chip == r.chip && p.sent.getD (c - 1) 0 == r.sent.getD (c - 1) 0 &&
      p.recvd.getD (c - 1) 0 == r.recvd.getD (c - 1) 0)) &&
    decide ((cur.map (fun r => r.sent.getD (c - 1) 0)).sum = (cur.map (fun r => r.recvd.getD (c - 1) 0)).sum))

/-- Change the drain. -/
def modDrain (f : DrainSt → DrainSt) (s : State) : State := modRte (fun r => { r with drain := f r.drain }) s

/-- Exchange the two ROUTE banks (R250). -/
def swapRoute (s : State) : State :=
  { s with lay := { s.lay with routeBank := 1 - s.lay.routeBank, routeRev := (s.lay.routeRev + 1) % 65536 } }

/-- GLB_LAYLIVE. -/
def layLive (s : State) : Nat := pack [(16, s.lay.routeRev), (16, s.lay.shaperRev), (16, s.lay.epitabRev)]

/-- The drain of this chip is lifted: withheld credits return, and messages that it held leave. -/
def liftDrain (s : State) : State :=
  let s1 := releaseOwed (modDrain (fun _ => {}) s)
  s1.rte.mgmtHeld.foldl (fun t m => emit (.mgmt m.1 m.2.1 m.2.2) t) (modRte (fun r => { r with mgmtHeld := [] }) s1)

/-- Every in-service chip has released: RELEASED goes to each, and this chip lifts its drain (R315). -/
def releaseCheck (s : State) : State :=
  if (s.rte.coord :: otherChips s).all (fun c => s.rte.drain.releases.contains c) then
    liftDrain ((otherChips s).foldl (fun t c => mgmt "RELEASED" c [t.rte.drain.id] t) s)
  else s

/-- The coordinator takes a release. -/
def releaseTake (chip : Nat) (s : State) : State :=
  if s.rte.drain.classes = 0 ∨ s.rte.drain.scope = 0 ∨ coordinator s ≠ s.rte.coord then s
  else releaseCheck (modDrain (fun d => { d with releases := insertNat d.releases chip }) s)

/-- The release of a drain on this chip (R315). -/
def drainRelease (s : State) : State :=
  if s.rte.drain.scope = 0 then liftDrain s
  else
    let s1 := modDrain (fun d => { d with releasePend := true }) s
    if coordinator s1 = s1.rte.coord then releaseTake s1.rte.coord s1
    else mgmt "RELEASE" (coordinator s1) [s1.rte.drain.id] s1

/-- RTE_DRAIN (Table 9-13). -/
def drainReg (s : State) : Nat :=
  let d := s.rte.drain
  pack [(5, d.classes), (1, d.scope), (1, bnat d.drained), (1, bnat d.releasePend), (1, bnat d.fw), (16, d.id)]

/-- Slots whose DRAIN waits for the indication (Table 13-4). -/
def drainWaiters (s : State) : List Nat :=
  (s.hif.slots.filter (fun e => e.2.work == .waiting && slotCmd e.2 == 0x40)).map (·.1)

/-- The drained indication is set (R313), and DRAINs that wait for it reply. A firmware drain goes on: the banks are
exchanged, reported, and the drain released (R319). -/
def setDrained (s : State) : State :=
  let s0 := modDrain (fun d => { d with drained := true }) s
  let s1 := (drainWaiters s0).foldl (fun t i => cmdDone i (leBytes 8 (drainReg t)) t) s0
  if s1.rte.drain.fw && !s1.rte.drain.releasePend then
    let s2 := logOpen 1 3 (swapRoute s1)
    drainRelease (pushEvent 5 (leBytes 8 (layLive s2)) s2)
  else s1

/-- A full round is judged (R314). -/
def roundCheck (s : State) : State :=
  let d := s.rte.drain
  if (s.rte.coord :: otherChips s).all (fun c => d.round.any (fun r => r.chip == c)) then
    let g := roundGood s d.prevRound d.round
    let s1 := modDrain (fun d => { d with prevRound := d.round, round := [], good := g }) s
    if g && d.good && !d.drained then
      setDrained ((otherChips s1).foldl (fun t c => mgmt "DRAINED" c [d.id] t) s1)
    else s1
  else s

/-- The coordinator takes a report. -/
def reportTake (r : DrainRep) (s : State) : State :=
  if s.rte.drain.classes = 0 ∨ s.rte.drain.scope = 0 ∨ coordinator s ≠ s.rte.coord ∨
      !(s.rte.coord :: otherChips s).contains r.chip then s
  else roundCheck (modDrain (fun d => { d with round := d.round.filter (fun x => x.chip ≠ r.chip) ++ [r] }) s)

/-- Begin a drain of the named classes (R312). -/
def drainStart (classes scope id : Nat) (fw : Bool) (s : State) : State :=
  modDrain (fun _ => { classes := classes, scope := scope, id := id, fw := fw }) s

/-- A chip is lost (R309, R318, R322): its flows go, it leaves the drain's rounds (R314), jobs whose span includes it stop, and
collectives with members or paths there abort. -/
def chipLoss (chip : Nat) (detector : Bool) (s : State) : State :=
  if s.rte.lost.contains chip ∨ chip = s.rte.coord then s
  else
    let place : FaultPlace := { fchip := fchipOf chip, funit := 0, fkind := 6 }
    let s1 := modRte (fun r => { r with lost := insertNat r.lost chip }) s
    let s2 := freeFlows (fun k => chipOf k.1 == chip) s1
    let s3 := (pendingColls s2 (fun c => c.commitChip == chip)).foldl (fun t c => collLost c chip t) s2
    let s4 := if inSpan s3 chip then jobStop (if detector then 0x0607 else 0x0A09) place s3 else s3
    let s5 := abortMany (pendingColls s4 (fun c => c.chips.contains chip || chipUsed s4 c chip)) 0x0A03 place s4
    let s6 : State := { s5 with colls := s5.colls.map (fun e => (e.1, { e.2 with chips := e.2.chips.filter (· ≠ chip) })) }
    let s7 := modDrain (fun d => { d with round := d.round.filter (fun r => r.chip != chip),
                                          prevRound := d.prevRound.filter (fun r => r.chip != chip) }) s6
    if s7.rte.drain.classes = 0 ∨ s7.rte.drain.scope = 0 ∨ coordinator s7 ≠ s7.rte.coord then s7
    else roundCheck (if s7.rte.drain.releases.isEmpty then s7 else releaseCheck s7)

/-- CHIP_LOST (R317): the lowest-COORD neighbour sends the notice. Naming this chip, the command stands for the loss of its die-to-die
bridge, which takes all its links down (log 134). -/
def chipLostDetect (chip : Nat) (s : State) : State :=
  if chip = s.rte.coord then allLinksDown (modRte (fun r => { r with bridgeLost := true }) s) else
  let ns := (neighboursOf s chip).filter (fun c => !s.rte.lost.contains c)
  let seen := (List.range 6).all (fun d => neighbour s s.rte.coord d != chip || !dirUp s d)
  if !ns.contains s.rte.coord ∨ ns.foldl min s.rte.coord ≠ s.rte.coord ∨ !seen ∨ s.rte.lost.contains chip then s
  else
    let s1 := raise { code := 0x0607, kind := 15, unit := chip } s
    let s2 := (otherChips s1).foldl (fun t c => if c = chip then t else mgmt "CHIP_LOST" c [chip] t) s1
    chipLoss chip true s2

/-! Source flows (R305, R309). -/

/-- Whether an acknowledgement's NEXT covers a sent packet. -/
def acked (next seq : Nat) : Bool := decide ((next + 65536 - seq) % 65536 ≤ 32768 ∧ next ≠ seq)

/-- The posted collective of a packet that its source abandons aborts in compatibility mode (R320). -/
def abandonColl (p : Packet) (s : State) : State :=
  match collTag p with
  | none => s
  | some t => if s.rte.compat then detectAbort t.coll 0x0A03 { fchip := fchipOf s.rte.coord, fkind := 6 } s else s

/-- Croak ticks of the 10 µs that a NAK with reason BUSY asks for (R305). -/
def busyTicks : Nat := 16000

/-- FLOW_ACK at a unit of this chip (R305, R309). -/
def flowAck (a : FlowAck) (s : State) : State :=
  let k := (a.fsrc, a.fdst, a.cls, a.chan, a.fsunit, a.fdunit)
  match s.rte.srcFlows.find? (fun f => decide (f.key = k)) with
  | none => s
  | some f =>
    if a.nak then
      match f.unacked.find? (fun p => p.seq == a.nseq) with
      | none => s
      | some p =>
        if a.reason = 4 then
          let s1 := dropFlow k (abandonColl p s)
          f.waitq.foldl (fun t w => unitSend w t) s1
        else if a.reason = 2 then
          if s.rte.busyWait.any (fun e => e.2 == p) then s
          else modRte (fun r => { r with busyWait := r.busyWait ++ [(croak s + busyTicks, p)] }) s
        else unitOut p s
    else if a.closed then f.waitq.foldl (fun t w => unitSend w t) (dropFlow k s)
    else
      let g := { f with win := a.win, unacked := f.unacked.filter (fun p => !acked a.next p.seq) }
      let (s1, g1) := flowPump (g.waitq.length + 1) g s
      setFlow g1 s1

/-- RESEND_TIMEOUT: every unacknowledged packet of the flow is sent again (R305). -/
def resend (k : Nat × Nat × Nat × Nat × Nat × Nat) (s : State) : State :=
  match s.rte.srcFlows.find? (fun f => decide (f.key = k)) with
  | none => s
  | some f => f.unacked.foldl (fun t p =>
      if t.swc.unitOut.contains p || t.rte.busyWait.any (fun e => e.2 == p) then t else unitOut p t) s

/-! ROUTE (R298, R299, R319). -/

/-- Whether a direction has quads. -/
def dirQuads (s : State) (d : Nat) : Bool := !(portQuads s (128 + d)).isEmpty

/-- An entry that R299 allows for chip index `i`. -/
def entryOk (s : State) (i e : Nat) : Bool :=
  let d1 := e % 8
  let d2 := e / 8
  if torusChips s ≤ i then e == 0
  else if i = routeIdx s s.rte.coord then e == 62
  else
    decide (e < 64 ∧ d1 ≠ 6 ∧ d2 ≠ 6) && (d1 == 7 || (diffAxis s.rte.coord (chipAt s i) == some (d1 / 2) && dirQuads s d1)) &&
      (d2 == 7 || (d1 != 7 && d1 / 2 == d2 / 2 && d1 != d2 && dirQuads s d2))

/-- Store an entry in the standby bank. -/
def setStandby (i e : Nat) (s : State) : State :=
  if s.lay.routeBank = 0 then modRte (fun r => { r with bank1 := tset 0 r.bank1 i e }) s
  else modRte (fun r => { r with bank0 := tset 0 r.bank0 i e }) s

/-- RTE_BANKWIN (R299): each byte is checked. The record of a refused entry names the chip that the entry is for, and this chip where it
is for none (log 135). -/
def bankWrite (w v : Nat) (s : State) : State :=
  (List.range 8).foldl (fun t i =>
    let e := bits v (8 * i + 7) (8 * i)
    if entryOk t (8 * w + i) e then setStandby (8 * w + i) e t
    else raise { code := 0x0602, kind := 15, unit := if 8 * w + i < torusChips t then chipAt t (8 * w + i) else t.rte.coord } t) s

/-- Whether every link and chip on the way round an axis from `c` towards `t` in direction `d` is in service. -/
def wayOk (fuel : Nat) (s : State) (links : List (Nat × Nat)) (c t d : Nat) : Bool :=
  match fuel with
  | 0 => true
  | fuel + 1 =>
    let n := neighbour s c d
    let back := if d % 2 = 0 then d + 1 else d - 1
    if axisOf c (d / 2) = axisOf t (d / 2) then true
    else !links.contains (c, d) && !links.contains (n, back) && !s.rte.lost.contains n && wayOk fuel s links n t d

/-- The entry that fault isolation writes for a chip (R319). -/
def faultEntry (s : State) (links : List (Nat × Nat)) (t : Nat) : Nat :=
  let c := s.rte.coord
  match diffAxis c t with
  | none => 62
  | some a =>
    let e := max 1 (extOf s a)
    let dist := (axisOf t a + e - axisOf c a) % e
    let short := shortWay s c t a
    let long := if short % 2 = 0 then short + 1 else short - 1
    let sOk := wayOk 32 s links c t short && dirQuads s short
    let lOk := wayOk 32 s links c t long && dirQuads s long
    let turn := c - axisOf c a * 32 ^ a + axisOf t a * 32 ^ a
    if s.rte.lost.contains t ∨ s.rte.lost.contains turn then 63
    else if sOk && lOk && decide (2 * dist = e) then short + 8 * long
    else if sOk then short + 56
    else if lOk then long + 56
    else 63

/-- FAULT_REROUTE (R319): the standby bank is rebuilt and a firmware drain begins, unless a drain is in effect. -/
def reroute (links : List (Nat × Nat)) (chips : List Nat) (s : State) : State :=
  if !fwRuns s ∨ !s.rte.valid ∨ s.rte.drain.classes ≠ 0 then s
  else
    let s1 := modRte (fun r => { r with lost := chips.foldl insertNat r.lost }) s
    let s2 := (List.range (torusChips s1)).foldl (fun t i => setStandby i (faultEntry t links (chipAt t i)) t) s1
    drainStart 0x17 1 0 true s2

/-! Meanings. -/

/-- QUAD_LINK_FAILURE. -/
def execQuadLinkFailure (q : Fin 128) (s : State) : Res :=
  whenUp (fun s => if (quad s q.val).state = .down then s else quadDown q.val s) s
/-- IDENTITY. -/
def execIdentity (q : Fin 128) (rec : IdentRec) (s : State) : Res := whenUp (identity q.val rec) s
/-- IDENTITY_REPEAT. -/
def execIdentityRepeat (q : Fin 128) (s : State) : Res :=
  whenUp (fun s => if (quad s q.val).state = .mgmtOnly ∨ (quad s q.val).state = .quarantine then sendIdent q.val s else s) s
/-- CHIP_LOST. -/
def execChipLost (chip : Nat) (s : State) : Res := whenUp (chipLostDetect chip) s
/-- CHIP_LOST_NOTICE. -/
def execChipLostNotice (chip : Nat) (s : State) : Res := whenUp (chipLoss chip false) s
/-- DEPART. -/
def execDepart (addr : Nat) (s : State) : Res := whenUp (departed addr) s
/-- FAULT_REROUTE. -/
def execFaultReroute (lostLinks : List (Nat × Nat)) (lostChips : List Nat) (s : State) : Res :=
  whenUp (reroute lostLinks lostChips) s
/-- FLOW_ACK. -/
def execFlowAck (ack : FlowAck) (s : State) : Res := whenUp (flowAck ack) s
/-- RESEND_TIMEOUT. -/
def execResendTimeout (src dst cls chan sunit dunit : Nat) (s : State) : Res :=
  whenUp (resend (src, dst, cls, chan, sunit, dunit)) s
/-- BANKWIN_WRITE. -/
def execBankwinWrite (w : Fin 4096) (value : Word) (s : State) : Res := whenUp (bankWrite w.val value.toNat) s
/-- DRAIN_REPORT (R314): the report goes to the coordinator. -/
def execDrainReport (s : State) : Res :=
  whenUp (fun s =>
    if s.rte.drain.classes = 0 ∨ s.rte.drain.scope = 0 then s
    else if coordinator s = s.rte.coord then reportTake (ownReport s) s
    else
      let r := ownReport s
      mgmt "DRAIN_REPORT" (coordinator s) (r.empty.map bnat ++ r.sent ++ r.recvd) s) s
/-- DRAIN_REPORT_RECEIVE. -/
def execDrainReportReceive (rep : DrainRep) (s : State) : Res := whenUp (reportTake rep) s
/-- DRAINED (R313): the notice arrives, or in LOCAL scope the held bits of every named class are clear. -/
def execDrained (s : State) : Res :=
  whenUp (fun s =>
    if s.rte.drain.classes = 0 ∨ s.rte.drain.drained then s
    else if s.rte.drain.scope = 0 ∧ (drainClasses s).any (heldClass s) then s
    else setDrained s) s
/-- RELEASED (R315). -/
def execReleased (s : State) : Res :=
  whenUp (fun s => if s.rte.drain.classes ≠ 0 ∧ s.rte.drain.scope = 1 ∧ s.rte.drain.releasePend then liftDrain s else s) s
/-- DRAIN_RELEASE_RECEIVE. -/
def execDrainReleaseReceive (chip : Nat) (s : State) : Res := whenUp (releaseTake chip) s
/-- RTE_DRAIN_TIMEOUT (R316). -/
def execRteDrainTimeout (s : State) : Res :=
  whenUp (fun s =>
    let d := s.rte.drain
    if d.classes ≠ 0 ∧ d.scope = 1 ∧ !d.drained ∧ coordinator s = s.rte.coord then
      raise { code := 0x0609, kind := 15, unit := s.rte.coord, d := [0, 0, 0, d.id] } s
    else s) s
/-- TOKEN_REFILL. -/
def execTokenRefill (s : State) : Res := whenUp refillAll s
/-- NODE_CONFIG_WRITE. -/
def execNodeConfigWrite (node : Nat) (value : Word) (s : State) : Res := whenUp (nodeWrite node value.toNat) s
/-- POLICER_CONFIG_WRITE. -/
def execPolicerConfigWrite (k : Fin 512) (value : Word) (s : State) : Res := whenUp (pcfgWrite k.val value.toNat) s
/-- SUBSCRIBER_KEY_WRITE. -/
def execSubscriberKeyWrite (n : Fin 16384) (value : Word) (s : State) : Res := whenUp (skeyWrite n.val value.toNat) s

end Sys2Proof.Machine
end

