-- ==== Sys2Proof/Machine/LinkTx.lean ====
section
/-! DEFINITION. What a quad sends in a pad (R347 to R372): training frames and pad frames with their markers, pad
headers, control flits, scheduled cells, replays and ordered flits; and the digest tap (R218). -/

namespace Sys2Proof.Machine

/-! Link errors and failures. -/

/-- Raise a link error (Table 15-2, LNK_STAT). -/
def linkErr (code q lane padnum slot : Nat) (s : State) : State :=
  raise { code := code, kind := 2, unit := q, unit2 := lane, d := [(quad s q).step, padnum, slot] }
    (modQuad q (fun v => { v with err := v.err ||| 2 ^ (code % 256 - 1) }) s)

/-- Training begins at PRESET 1 (R372, R376), with the lane trims of the calibration set in use (R466). -/
def trainStart (q : Nat) (s : State) : State :=
  modQuad q (fun v => { v with
    state := .train, step := 1, deskewed := false, farReady := false, nearReady := false, readyRun := 0, skew := 0,
    trims := slice s.cal.set (64 + 64 * q) 64, trainMs := 0, trainAt := croak s, txSlot := 0, ctrlSeen := false, echoTx := 0, echoRx := 0,
    lanes := v.lanes.map (fun l => { ({} : Lane) with
      req := l.req, stat := 0x4000, markerBad := l.markerBad, offset := l.offset, slipped := l.slipped, prev := l.prev }) }) s

/-- A link fails with an error: it leaves service and trains again (R370). -/
def linkFail (code q lane : Nat) (s : State) : State :=
  let s1 := linkErr code q lane 0 0 s
  let s2 := if code = 0x0804 then modQuad q (fun v => { v with fails := (v.fails + 1) % 65536 }) s1 else s1
  trainStart q (quadDown q s2)

/-! The digest tap (R218). -/

/-- Bytes put in place within a buffer. -/
def tapPut (buf : List Byte) (t : CollTag) (bs : List Byte) : List Byte := putBytes buf (256 * t.offset) bs

/-- A result packet is delivered on an endpoint port: the tap takes it once for each tile (R218). -/
def tapPacket (port : Nat) (p : Packet) (s : State) : State :=
  match collTag p with
  | none => s
  | some t =>
    let v := coll s t.coll
    if !v.digest || 128 ≤ port || !(t.kind == 4 || t.kind == 5) || v.tiles.any (fun e => e.1 == t.tile) ||
        !v.members.any (fun m => m.1 == port) then s
    else
      let n := resultElems v t.tile
      let fb := cdOutFmt v.desc
      let np := packedSize (fbFmt fb) n
      let ns := sidecarSize (fbForm fb) n
      let e := (v.tap.find? (fun e => e.tile == t.tile)).getD
        { tile := t.tile, port := port, left := np + ns, payload := zeros np, sidecar := zeros ns }
      if e.port ≠ port then s
      else
        let e1 : TapTile := if t.kind = 4 then
            { e with left := e.left - p.payload.length, payload := tapPut e.payload t p.payload }
          else { e with left := e.left - p.payload.length, sidecar := tapPut e.sidecar t p.payload }
        let rest := v.tap.filter (fun x => x.tile ≠ t.tile)
        if e1.left = 0 then
          let dig := shake256 (leBytes 4 t.tile ++ e1.payload ++ e1.sidecar) 32
          setColl t.coll { v with tap := rest, tiles := tset [] v.tiles t.tile dig } s
        else setColl t.coll { v with tap := rest ++ [e1] } s

/-! Control flits. -/

/-- Control slots of a frame (Table 11-5). -/
def ctrlSlots (padnum : Nat) : List Nat :=
  match padnum % 4 with
  | 0 => [0, 26]
  | 1 => [20]
  | 2 => [13]
  | _ => [7]

/-- The 16 bytes of a signal slot (Table 5-4). -/
def sigBytes (g : SigSlot) : List Byte :=
  leBytes 2 g.tgt ++ leBytes 2 g.obj ++ leBytes 2 g.d ++ leBytes 2 g.ncell ++ leBytes 4 g.src ++ zeros 4

/-- The bytes of FBL60 to FBL63 (Table 6-2). -/
def slipBytes (s : State) : List Byte :=
  let call := match s.sch.callPend with
    | none => 0
    | some st => 1 + 2 * (st % 128)
  leBytes 1 call ++ leBytes 1 (if s.sch.extQuantum = 0 then 0 else 1 + 2 * (s.sch.extQuantum % 128)) ++
    leBytes 1 s.sch.fbl62 ++ leBytes 1 (bnat s.sch.stopSent)

/-- The BARRIER field that a quad sends: all lines on a torus direction, FBL60 to FBL63 on an endpoint port (R174, R205);
nothing until the quad is UP (R512). The byte of a line that the chip does not bind is 0, its ROUND too, although the line keeps
its round (DESIGN CHOICE, log 170). -/
def barrierBytes (s : State) (q : Nat) : List Byte :=
  let v := quad s q
  if v.state ≠ .up then zeros 64
  else
    ((List.range 60).map (fun f =>
      if v.use = 7 then (0 : Byte)
      else match s.sync.objs.find? (fun e => e.2.kind == 2 && e.2.fabric && e.2.fbl == f) with
        | none => 0
        | some (o, _) => BitVec.ofNat 8 (fblByte s o (v.use - 1)))) ++ slipBytes s

/-- Whether a quad carries its direction's signal slots: the lowest-numbered UP quad (R176). -/
def sigQuad (s : State) (q : Nat) : Bool :=
  let v := quad s q
  v.state == .up && decide (1 ≤ v.use ∧ v.use ≤ 6) && (upQuads s v.use 0).head? == some q

/-- Signal slots that leave in the next control flit of a quad. -/
def sigTake (s : State) (q : Nat) : List (Nat × SigSlot) :=
  if sigQuad s q then (s.sync.sigOut.filter (fun e => e.1 + 1 == (quad s q).use)).take 4 else []

/-- Count at the first bit of control slot `i` of this pad's frame at the contacts: 20 ns after the boundary, 2.5 ns for
each slot (R347, R351, log 34). -/
def txCount (s : State) (i : Nat) : Nat := 128 * (croak s / 128) + 32 + 4 * i

/-- The control flit of slot `i` (Table 11-8). -/
def ctrlFlit (s : State) (q i : Nat) : List Byte :=
  let v := quad s q
  leBytes 8 (txCount s i) ++ leBytes 1 0 ++ leBytes 1 1 ++ zeros 2 ++ leBytes 4 s.sch.term ++ leBytes 4 s.sch.hbSeq ++
    leBytes 8 (v.echoTx / 16) ++ leBytes 8 (v.echoRx / 16) ++ leBytes 1 (v.echoTx % 16 + 16 * (v.echoRx % 16)) ++
    zeros 3 ++ (List.range 9).flatMap (fun k => leBytes 2 (credOf v (k + 1)).adv) ++ zeros 6 ++ barrierBytes s q ++
    slice ((sigTake s q).flatMap (fun e => sigBytes e.2)) 0 64 ++ zeros 64

/-! The replay buffer (R368). -/

/-- Whether a replay entry holds an IDLE flit. -/
def rpIdle (r : Replay) : Bool := fieldAt r.bytes 0 1 == 0

/-- Unreported flits in the buffer. -/
def rpCount (v : Quad) : Nat := (v.replay.filter (fun r => !rpIdle r)).length

/-- The entry that the next flit evicts: the oldest of a full buffer. -/
def rpOldest (v : Quad) : Option Replay := if rpCount v < 128 then none else v.replay.find? (fun r => !rpIdle r)

/-- Keep a flit; a full buffer evicts its oldest entry. -/
def rpPush (r : Replay) (v : Quad) : Quad :=
  match rpOldest v with
    | none => { v with replay := v.replay ++ [r] }
    | some old => { v with replay := v.replay.erase old ++ [r], evicted := v.evicted ++ [old.latest] }

/-! The choice of ordered flits (R258). -/

/-- The first waiting flit of a queue. -/
def txHead (v : Quad) (st : Nat) : Option (List Byte) := (v.txQueue.find? (fun e => e.1 == st)).map (·.2)

/-- Cells of the packet whose header flit `b` waits: those of its length field (R364). -/
def txCells (b : List Byte) : Nat := cellsOf (bits (fieldAt b 33 16) 58 46)

/-- Whether the head of a queue may be sent: a header needs credit for its packet (R364). -/
def txReady (v : Quad) (st : Nat) : Bool :=
  match txHead v st with
  | none => false
  | some b => fieldAt b 0 1 % 8 == 1 || hasCredit v (st % 16) (txCells b)

/-- The queue of a class to serve: the packet in progress, else the virtual channels in turn. -/
def classQueue (v : Quad) (cls : Nat) : Option Nat :=
  let a := streamOf cls 0
  let b := streamOf cls 1
  let mid (st : Nat) : Bool := ((txHead v st).map (fun x => fieldAt x 0 1 % 8 == 1)).getD false
  if cls = 5 then (if txReady v 9 then some 9 else none)
  else if mid a then some a
  else if mid b then some b
  else if tget 1 v.lastVc cls = 0 then (if txReady v b then some b else if txReady v a then some a else none)
  else if txReady v a then some a
  else if txReady v b then some b else none

/-- Class at a place of the round: RSP, REQ, FWD. -/
def drrClass (i : Nat) : Nat := match i with | 0 => 2 | 1 => 1 | _ => 3

/-- Quantum of a place of the round. -/
def drrQuantum (s : State) (i : Nat) : Nat := 16 * fieldAt s.swc.bufpart (4 + i) 1

/-- A class has a packet for the quad that waits for a shaper or a credit (R258, R334). -/
def classHeld (s : State) (q cls : Nat) : Bool :=
  s.swc.queues.any (fun h => !h.started && h.pkt.cls == cls && packetQuad s h.outPort h.pkt == some q)

/-- Deficit round robin: the queue to serve and the round's state. A class that waits for a shaper or a credit is skipped:
it gains no quantum and keeps its deficit (R334); one with nothing to send loses it. -/
def drrPick (fuel q : Nat) (s : State) (v : Quad) : Quad × Option Nat :=
  match fuel with
  | 0 => (v, none)
  | fuel + 1 =>
    let i := v.drrAt % 3
    let next (d : Nat) : Quad :=
      let j := (i + 1) % 3
      let l := v.drr.set i d
      { v with drrAt := j,
               drr := if (classQueue v (drrClass j)).isSome then l.set j (l.getD j 0 + drrQuantum s j) else l }
    match classQueue v (drrClass i) with
    | none => drrPick fuel q s (next (if classHeld s q (drrClass i) then v.drr.getD i 0 else 0))
    | some st => if v.drr.getD i 0 = 0 then drrPick fuel q s (next 0) else (v, some st)

/-- A MGMT packet of the switch core has begun on the quad's stream 7, and not all its cells are sent (R257, R359). -/
def mgmtMid (q : Nat) (s : State) (v : Quad) : Bool :=
  s.swc.queues.any (fun h => h.started && h.quad == q && streamOf h.pkt.cls h.vc == 7) &&
    ((txHead v 7).map (fun b => fieldAt b 0 1 % 8 == 1)).getD true

/-- The MGMT queue to serve: link-local messages between the switch core's packets. -/
def mgmtQueue (q : Nat) (s : State) (v : Quad) : Option Nat :=
  if !mgmtMid q s v && txReady v 23 then some 23 else classQueue v 4

/-- The queue to serve in the next free slot: MGMT, then the round, then COPY. -/
def txPick (q : Nat) (s : State) (v : Quad) : Quad × Option Nat :=
  match mgmtQueue q s v with
  | some st => (v, some st)
  | none =>
    match drrPick 5 q s v with
    | (w, some st) => (w, some st)
    | (w, none) => (w, classQueue w 5)

/-- A result cell, or a RELEASE, that is sent on an endpoint port waits for the link's acknowledgement (R142). -/
def noteSent (q own : Nat) (p : Packet) (bytes : Nat) (s : State) : State :=
  match collTag p with
  | none => s
  | some t =>
    if (quad s q).use = 7 ∧ p.stomp = 0 ∧ (t.kind = 4 ∨ t.kind = 5 ∨ t.kind = 8) then
      modQuad q (fun v => { v with unacked := v.unacked ++ [(own, t.coll, bytes)] }) s
    else s

/-- A cell of queue `st` is sent in slot number `own`: counts, credit and the packet's accounts. -/
def cellSent (q st own : Nat) (eop : Bool) (s : State) : State :=
  let r := st % 16
  let cls := streamCls r
  let v := quad s q
  let i := if cls = 2 then 0 else if cls = 1 then 1 else 2
  let s1 := modQuad q (fun v => { modCred r (fun c => { c with sent := (c.sent + 1) % 65536 }) v with
    drr := if 1 ≤ cls ∧ cls ≤ 3 then v.drr.set i (v.drr.getD i 0 - 1) else v.drr }) s
  if st = 23 then s1
  else
    let s2 := if 1 ≤ v.use ∧ v.use ≤ 6 then
        modRte (fun t => { t with sentCells := t.sentCells.set cls (t.sentCells.getD cls 0 + 1) }) s1 else s1
    match s2.swc.queues.find? (fun h => h.started && h.quad == q && streamOf h.pkt.cls h.vc == r) with
    | none => s2
    | some h =>
      let s3 := if eop then
          modQuad q (fun v => { v with sentPkts := v.sentPkts ++ [(own, h.pkt)], lastVc := tset 1 v.lastVc cls h.vc })
            (if h.pkt.stomp = 0 ∧ h.pkt.cls ≠ 5 then noteSent q own h.pkt (pktLen h.pkt) (tapPacket h.outPort h.pkt s2) else s2)
        else s2
      cellLeft q r eop s3

/-- Stomp code of the packet that is leaving on a stream. -/
def leavingStomp (s : State) (q r : Nat) : Nat :=
  ((s.swc.queues.find? (fun h => h.started && h.quad == q && streamOf h.pkt.cls h.vc == r)).map (·.pkt.stomp)).getD 0

/-! Slots of a frame (R355). -/

/-- A frame in the making: the state, whether link retry fails, the slots so far, the replay map and the scheduled headers still to
place. -/
structure TxFrame where
  s : State
  fails : Bool := false
  slots : List (List Byte) := []
  reps : List Nat := []
  hdrs : List (Nat × List Byte) := []

/-- Send `b` in the next slot and keep it for replay. An original that has been reported bad may not be evicted (R370). -/
def txKeep (q own : Nat) (b : List Byte) (ordered : Bool) (f : TxFrame) : TxFrame :=
  { f with slots := f.slots ++ [b], fails := f.fails || (rpOldest (quad f.s q)).any (fun r => decide (0 < r.bads)),
           s := modQuad q (rpPush { orig := own, latest := own, bytes := b, ordered := ordered }) f.s }

/-- The IDLE slot. -/
def idleSlot : List Byte := slotOf 0 [] 0

/-- A scheduled header flit of up to seven headers. -/
def schedHdr (hs : List (Nat × List Byte)) : List Byte :=
  slotOf 2 (leBytes 1 hs.length ++ slice (hs.flatMap (fun h => leBytes 1 h.1)) 0 7 ++ zeros 24 ++ hs.flatMap (·.2)) 0

/-- The slot of a scheduled cell. -/
def schedSlot (c : SCell) : List Byte :=
  slotOf (1 + 8 * bnat (c.pos + 1 == cellsOf c.len)) c.data (if c.pos + 1 = cellsOf c.len then c.hdr.stomp else 0)

/-- A scheduled cell leaves in slot number `own`: copies and counts; on an endpoint port a result cell passes the digest tap, and
waits for its acknowledgement. -/
def schedSent (s : State) (q own : Nat) (c : SCell) : State :=
  let p := cellPacket c.hdr c.pos (c.data.take (c.len - 256 * c.pos))
  let s1 := schedLeaves q c s
  if (quad s1 q).use = 7 ∧ c.hdr.stomp = 0 then
    noteSent q own p p.payload.length (tapPacket (quad s1 q).port p s1)
  else s1

/-- Fill slot `i` (R355): control, reserved position, scheduled headers, replays, ordered flits, IDLE. -/
def txSlotFill (q : Nat) (ctrl res : List Nat) (f : TxFrame) (i : Nat) : TxFrame :=
  let v := quad f.s q
  let own := v.txSlot + i
  if ctrl.contains i then
    let sent := sigTake f.s q
    let b := slotOf 3 (ctrlFlit f.s q i) 0
    txKeep q own b true { f with s := { f.s with sync := { f.s.sync with
      sigOut := sent.foldl (fun l e => l.erase e) f.s.sync.sigOut } } }
  else if res.contains i then
    match v.schedTx.find? (fun e => e.1 == i) with
    | none => { f with slots := f.slots ++ [idleSlot] }
    | some (_, c) => txKeep q own (schedSlot c) false { f with s := schedSent f.s q own c }
  else if !f.hdrs.isEmpty then
    txKeep q own (schedHdr (f.hdrs.take 7)) false { f with hdrs := f.hdrs.drop 7 }
  else
    match if f.reps.length < 24 then v.replay.find? (fun r => r.pending && decide (own - r.orig ≤ 2047)) else none with
    | some r =>
      { f with slots := f.slots ++ [r.bytes], reps := f.reps ++ [i + 32 * (own - r.orig)],
               s := setQuad q { v with
                 replay := v.replay.set (v.replay.idxOf r) { r with pending := false, latest := own }
                 replayed := (v.replayed + 1) % 2 ^ 32 } f.s }
    | none =>
      if v.replay.any (fun r => r.pending && r.ordered) || decide (128 ≤ rpCount v) then
        { f with slots := f.slots ++ [idleSlot] }
      else
        match txPick q f.s v with
        | (w, none) => { f with slots := f.slots ++ [idleSlot], s := setQuad q w f.s }
        | (w, some st) =>
          let b := (txHead w st).getD []
          let s1 := setQuad q { w with txQueue := w.txQueue.eraseP (fun e => e.1 == st) } f.s
          let h := fieldAt b 0 1
          if h % 8 = 1 then
            let eop := bitOf h 3
            let code := if eop then leavingStomp s1 q (st % 16) else 0
            txKeep q own (slotOf h (b.drop 1) code) true { f with s := cellSent q st own eop s1 }
          else txKeep q own (slotOf h (b.drop 1) 0) true { f with s := s1 }

/-- The pad header (Table 11-9). -/
def padHeader (rep : Option (Nat × Nat)) (reps : List Nat) : List Byte :=
  leBytes 2 ((rep.map (·.1)).getD 0) ++ leBytes 4 ((rep.map (·.2)).getD 0) ++ leBytes 1 (bnat rep.isSome) ++
    leBytes 1 reps.length ++ slice (reps.flatMap (leBytes 2)) 0 48 ++ zeros 12

/-- A marker (Table 11-2). -/
def markerOf (typ lane padnum : Nat) (body : List Byte) : List Byte :=
  let b := leBytes 8 (alignWord lane) ++ leBytes 1 (typ + 4 * lane) ++ leBytes 2 padnum ++ slice body 0 17
  b ++ leBytes 2 (mcrc b)

/-- Send the frame of a quad in service, or in step 6 of training. Link retry fails where it evicts an original reported bad (R370). -/
def sendPad (q : Nat) (s : State) : State :=
  let v0 := quad s q
  let pad := croak s / 128
  let v := { v0 with padBase := (pad + 65536 * (v0.txSlot / 32 + 1) - v0.txSlot / 32) % 65536 }
  let up := v.state == .up
  let res := if up then v.schedRes else []
  let hdrs := if up then ((v.schedTx.filter (fun e => e.2.pos == 0)).map
    (fun e => (e.1, headerBytes e.2.hdr e.2.len))) else []
  let f := (List.range 32).foldl (txSlotFill q (ctrlSlots pad) res) { s := setQuad q v s, hdrs := hdrs }
  let ph := padHeader v.reportDue f.reps
  let cws := codewords f.slots.flatten
  let lanes := (List.range 4).map (fun n => laneBytes (markerOf 0 n pad (slice ph (17 * n) 17)) cws pad n)
  let t := emit (.frame q lanes) (modQuad q (fun w => { w with
    txSlot := w.txSlot + 32, reportDue := none, schedTx := [],
    resTx := (w.resTx ++ [(w.txSlot / 32, res)]).drop (w.resTx.length - 63) }) f.s)
  if f.fails then linkFail 0x0804 q 0 t else t

/-- Send a training frame (R371): the generator's own output follows each marker. -/
def sendTraining (q : Nat) (s : State) : State :=
  let v := quad s q
  let pad := croak s / 128
  emit (.frame q ((List.range 4).map (fun n =>
    let l := v.lanes.getD n {}
    markerOf 1 n pad (leBytes 2 l.req ++ leBytes 2 l.stat ++ zeros 13) ++
      (chunks 2210 8 (scramble (scramInit pad n) (List.replicate 17680 false))).map
        (fun b => BitVec.ofNat 8 (bitsNat b))))) s

/-- PAD_FRAME_SEND: a quad that is DOWN sends nothing; pad frames begin at step 6, in a pad whose PADNUM mod 4 is 0
(R376). -/
def padFrameSend (q : Nat) (s : State) : State :=
  let v := quad s q
  if v.state = .down then s
  else if v.state = .train ∧ (v.step < 6 ∨ (v.txSlot = 0 ∧ croak s / 128 % 4 ≠ 0)) then sendTraining q s
  else sendPad q s

/-- PAD_FRAME_SEND. -/
def execPadFrameSend (q : Fin 128) (s : State) : Res := whenUp (padFrameSend q.val) s

end Sys2Proof.Machine
end

