-- ==== Sys2Proof/Machine/RsDecode.lean ====
section
/-! DEFINITION. Received lanes (R348 to R350, R374): markers, descrambling, and the correction of RS(544,514). The decoder corrects
up to 15 symbols of a codeword, the most that its 30 parity symbols allow (log 142). -/

namespace Sys2Proof.Machine

/-- What a received frame says: the markers' 30 bytes (Table 11-2), the 32 slots' 261 bytes after correction (R352), which of the 13
codewords were uncorrectable, how many were corrected (R348), and for each lane whether one of its 20 words begins with an alignment word
(R374). -/
structure RxFrame where
  markers : List (List Byte)
  slots : List (List Byte)
  uncorr : List Bool
  corrected : Nat := 0
  stamp : Nat := 0
  skew : Nat := 0
  words : List Bool := []
deriving DecidableEq, Repr, Inhabited

/-! Markers. -/

/-- A marker with its bits inverted where its alignment word is a complement (R374). -/
def markerFix (m : List Byte) : List Byte × Bool :=
  if (List.range 4).any (fun n => decide (fieldAt m 0 8 = 2 ^ 64 - 1 - alignWord n)) then (m.map (fun b => ~~~b), true)
  else (m, false)

/-- Whether a marker's MCRC is good. -/
def markerOk (m : List Byte) : Bool := m.length == 30 && fieldAt m 28 2 == mcrc (m.take 28)

/-! Polynomials over GF(2^10), lowest power first. -/

/-- Product of field elements. -/
def gf (a b : Nat) : Nat := gfMul 10 a b

/-- Power of a field element. -/
def gfExp (a n : Nat) : Nat := (bitList 10 n).foldl (fun r i => gf r ((List.range i).foldl (fun x _ => gf x x) a)) 1

/-- Inverse of a field element. -/
def gfInv (a : Nat) : Nat := gfExp a 1022

/-- Value of a polynomial. -/
def polyAt (p : List Nat) (x : Nat) : Nat := p.foldr (fun c r => c ^^^ gf r x) 0

/-- Sum of polynomials. -/
def polyAdd (p r : List Nat) : List Nat := (List.range (max p.length r.length)).map (fun i => p.getD i 0 ^^^ r.getD i 0)

/-- The formal derivative. -/
def polyDeriv (p : List Nat) : List Nat := ((p.drop 1).zipIdx).map (fun e => if e.2 % 2 = 0 then e.1 else 0)

/-- The first `n` coefficients of a product. -/
def polyMul (n : Nat) (p r : List Nat) : List Nat :=
  (List.range n).map (fun i => (List.range (i + 1)).foldl (fun a j => a ^^^ gf (p.getD j 0) (r.getD (i - j) 0)) 0)

/-! Correction of one codeword. -/

/-- The 30 syndromes of a received codeword, whose first symbol has the highest power. -/
def syndromes (r : List Nat) : List Nat :=
  (List.range 30).map (fun i => let x := gfPow i; r.foldl (fun a c => gf a x ^^^ c) 0)

/-- The search for the error locator: the locator and its length, the last locator that was replaced with its discrepancy, and the
steps since then. -/
structure Locator where
  c : List Nat := [1]
  b : List Nat := [1]
  len : Nat := 0
  m : Nat := 1
  last : Nat := 1

/-- One syndrome of the search (Berlekamp and Massey). -/
def locStep (syn : List Nat) (l : Locator) (n : Nat) : Locator :=
  let d := (List.range (l.len + 1)).foldl (fun a i => a ^^^ gf (l.c.getD i 0) (syn.getD (n - i) 0)) 0
  if d = 0 then { l with m := l.m + 1 }
  else
    let f := gf d (gfInv l.last)
    let c := polyAdd l.c (List.replicate l.m 0 ++ l.b.map (gf f))
    if 2 * l.len ≤ n then { c := c, b := l.c, len := n + 1 - l.len, m := 1, last := d }
    else { l with c := c, m := l.m + 1 }

/-- The error locator of a codeword's syndromes. -/
def locator (syn : List Nat) : Locator := (List.range 30).foldl (locStep syn) {}

/-- The error at the symbol whose power is `p`: none where the locator has no root there. -/
def errorAt (loc ev dv : List Nat) (p : Nat) : Option Nat :=
  let x := gfPow ((1023 - p) % 1023)
  if polyAt loc x ≠ 0 then none else some (gf (gfPow p) (gf (polyAt ev x) (gfInv (polyAt dv x))))

/-- A received codeword corrected, with the number of its symbols in error, or none where it cannot be. -/
def rsCorrect (r : List Nat) : Option (List Nat × Nat) :=
  let syn := syndromes r
  if syn.all (· == 0) then some (r, 0)
  else
    let l := locator syn
    let ev := polyMul 30 syn l.c
    let dv := polyDeriv l.c
    let es := (List.range 544).map (fun i => errorAt l.c ev dv (543 - i))
    if 15 < l.len ∨ (es.filter (·.isSome)).length ≠ l.len then none
    else some (r.zipWith (fun a e => a ^^^ e.getD 0) es, l.len)

/-! Frames. -/

/-- The 1,768 coded symbols of a lane's 2,240 bytes, descrambled (R348, R349). -/
def laneSymbols (padnum far : Nat) (inv : Bool) (l : List Byte) : List Nat :=
  let bs := (l.drop 30).map (fun b => if inv then ~~~b else b)
  (chunks 1768 10 (scramble (scramInit padnum far) (bs.flatMap byteBitsLsb))).map bitsNat

/-- The 13 received codewords, from the symbols of far lanes 0 to 3. -/
def gatherWords (lanes : List (List Nat)) : List (List Nat) :=
  (List.range 13).map (fun c =>
    let part := lanes.map (fun l => (l.drop (136 * c)).take 136)
    (List.range 544).map (fun m => (part.getD (m % 4) []).getD (m / 4) 0))

/-- The 32 slots that the message symbols of 13 codewords hold. -/
def slotsOf (cws : List (List Nat)) : List (List Byte) :=
  let bits := cws.flatMap (fun w => (w.take 514).flatMap (fun s => (List.range 10).map (fun i => bitOf s i)))
  chunks 32 261 ((chunks 8352 8 bits).map (fun b => BitVec.ofNat 8 (bitsNat b)))

/-- How a lane is read: its PADNUM, far lane and inversion, from its marker where that is good, else as the lane was mapped and the
frames were counted. -/
def laneKey (padnum far : Nat) (inv : Bool) (l : List Byte) : Nat × Nat × Bool :=
  let m := markerFix (l.take 30)
  if markerOk m.1 then (fieldAt m.1 9 2, bits (fieldAt m.1 8 1) 3 2, m.2) else (padnum, far, inv)

/-- A word of a lane begins with the AW of any lane or its complement (R374). -/
def awSeen (l : List Byte) : Bool :=
  (List.range 20).any (fun i => decide (112 * i + 8 ≤ l.length) && (List.range 4).any (fun n =>
    fieldAt l (112 * i) 8 == alignWord n || fieldAt l (112 * i) 8 == 2 ^ 64 - 1 - alignWord n))

/-- The bits of a frame as a lane reads them whose word boundary stands `n` bits later than the frame's (R374): the last `n` bits are the
first ones of the next frame, so the lane reads a frame once the next one is there. -/
def laneView (n : Nat) (prev cur : List Byte) : List Byte :=
  if n = 0 ∨ cur.isEmpty then cur else if prev.isEmpty then zeros 2240 else leBytes 2240 (leNat (prev ++ cur) / 2 ^ n)

/-- The frame that four lanes bring, given the PADNUM that the receiver expects and each lane's mapping (R375). -/
def readFrame (padnum : Nat) (known : List (Nat × Bool)) (g : LaneFrame) : RxFrame :=
  let keyed := (g.lanes.zip known).map (fun e => (laneKey padnum e.2.1 e.2.2 e.1, e.1))
  let lanes := (List.range 4).map (fun n =>
    match keyed.find? (fun e => e.1.2.1 == n) with
    | some ((p, far, inv), l) => laneSymbols p far inv l
    | none => [])
  let words := gatherWords lanes
  let fixed := words.map rsCorrect
  { markers := g.lanes.map (·.take 30), slots := slotsOf (words.zipWith (fun w f => (f.map (·.1)).getD w) fixed),
    uncorr := fixed.map (·.isNone), corrected := (fixed.filter (fun f => f.any (fun e => 0 < e.2))).length,
    stamp := g.stamp, skew := (g.skews.foldl max 0) - (g.skews.foldl min (g.skews.headD 0)), words := g.lanes.map awSeen }

end Sys2Proof.Machine
end

