-- ==== Sys2Proof/Machine/Want.lean ====
section
/-! DEFINITION. The chip's density want (R504 to R506) and the emergency flag, as the sensors' and the power monitors'
conditions give them. -/

namespace Sys2Proof.Machine

/-- The level of the power conditions that stand (Table 16-10). -/
def powerLevel (t : Therm) : Nat :=
  let held (i : Nat) : Bool := t.powerHeld.getD i false
  if held 3 then 3 else if held 1 || held 2 then 2 else if held 0 then 1 else 0

/-- The highest level that stands now: temperature conditions, power conditions, and 2 for a die with four or more ignored
sensors (R504). Levels are 0 to 3, 3 an emergency. -/
def standing (t : Therm) : Nat :=
  let temp := (t.conds.map (·.2)).foldl max 0
  let lost (lo hi : Nat) : Bool := decide (4 ≤ (t.ignored.filter (fun i => decide (lo ≤ i ∧ i < hi))).length)
  max (max temp (powerLevel t)) (if lost 0 16 || lost 16 32 then 2 else 0)

/-- The want that the standing conditions and EMERG ask for at the least. -/
def wantFloor (s : State) : Nat := if s.fw.emerg then 2 else min 2 (standing s.therm)

/-- ALERT_N is high (Table 16-5): it is low while the want is above 0 or EMERG is set. -/
def alertN (s : State) : Bool := decide (s.therm.want = 0) && !s.fw.emerg

/-- Two bytes of FBL62 for one epoch together. -/
def epochBytes (a b : Nat) : Nat := max (a % 4) (b % 4) + 4 * max (a / 4 % 2) (b / 4 % 2) + 8 * (a / 8)

/-- The chip's own byte for the next epoch (R208). -/
def ownEpochByte (s : State) : Nat := s.therm.want + 4 * bnat s.sch.pausePend + 8 * ((s.sch.epoch + 1) % 32)

/-- A want or a pause request that arises in the sampling pad counts for the epoch being sampled (R208, R507). -/
def sampleAgain (s : State) : State :=
  if s.sch.state = .run ∧ s.sch.sampled = some s.sch.jp then
    { s with sch := { s.sch with fbl62 := epochBytes s.sch.fbl62 (ownEpochByte s) } }
  else s

/-- Set the want; vector 450 follows a change (R505). -/
def setWant (w : Nat) (s : State) : State :=
  if w = s.therm.want then s else vector 450 { s with therm := { s.therm with want := w } }

/-- Set EMERG; vector 450 follows a change. -/
def setEmerg (b : Bool) (s : State) : State :=
  if b = s.fw.emerg then s else vector 450 { s with fw := { s.fw with emerg := b } }

/-- The want rises at once (R207, R505). The level that EMERG forces is no condition of the epoch (R506). -/
def wantRise (s : State) : State :=
  let f := wantFloor s
  let s1 := { s with therm := { s.therm with epochMax := max s.therm.epochMax (min 2 (standing s.therm)) } }
  if s.therm.want < f then sampleAgain (setWant f s1) else s1

/-- An epoch has ended: the want falls to the highest level whose condition held in it (R506). -/
def wantFall (s : State) : State :=
  let w := max s.therm.epochMax (wantFloor s)
  setWant (min s.therm.want w) { s with therm := { s.therm with epochMax := 0 } }

end Sys2Proof.Machine
end

