-- ==== Sys2Proof/Machine/LinkRx.lean ====
section
/-! DEFINITION. What a quad receives in a pad (R351 to R378, R188 to R192, R201): markers, reports, control flits, ordered and
scheduled flits, late cells; and bring-up (R371 to R377). -/

namespace Sys2Proof.Machine

/-! Errors and failures of a link. -/

/-- Raise a schedule error found on a quad (Table 15-2). -/
def schErr (code kind unit pg want found : Nat) (s : State) : State :=
  raise { code := code, kind := kind, unit := unit, unit2 := pg, d := [want, found, s.sch.jp, s.sch.term] } s

/-! Markers. -/

/-- The lane after a frame's marker, and whether an alignment word was `seen` in the frame (R374). -/
def laneMarker (m0 : List Byte) (seen : Bool) (l : Lane) : Lane :=
  let (m, inv) := markerFix m0
  let l1 := { l with signal := !m0.isEmpty, cdr := !m0.isEmpty, awseen := seen || l.awLast, awLast := seen }
  if markerOk m then
    { l1 with inverted := inv, farLane := bits (fieldAt m 8 1) 3 2, badRun := 0, goodRun := l.goodRun + 1,
              aligned := l.aligned || decide (4 ≤ l.goodRun + 1) }
  else { l1 with markerBad := (l.markerBad + 1) % 2 ^ 15, badRun := l.badRun + 1, goodRun := 0 }

/-! Transmitter taps (R372, R373). -/

/-- Main tap. -/
def mainTap (l : Lane) : Int := 64 - (l.cm3.natAbs + l.cm2.natAbs + l.cm1.natAbs + l.cp1.natAbs : Nat)

/-- Tap of a request code. -/
def tapGet (l : Lane) (t : Nat) : Int := match t with | 0 => l.cm3 | 1 => l.cm2 | 2 => l.cm1 | _ => l.cp1
/-- Change a tap. -/
def tapSet (l : Lane) (t : Nat) (v : Int) : Lane :=
  match t with | 0 => { l with cm3 := v } | 1 => { l with cm2 := v } | 2 => { l with cm1 := v } | _ => { l with cp1 := v }
/-- Range of a tap. -/
def tapRange (t : Nat) (v : Int) : Bool :=
  match t with
  | 0 => decide (-4 ≤ v ∧ v ≤ 4)
  | 1 => decide (-8 ≤ v ∧ v ≤ 8)
  | 2 => decide (-24 ≤ v ∧ v ≤ 0)
  | _ => decide (-16 ≤ v ∧ v ≤ 0)

/-- The taps of a preset (Table 11-12). -/
def presetTaps (p : Nat) (l : Lane) : Lane :=
  match p with
  | 1 => { l with cm3 := 0, cm2 := 0, cm1 := 0, cp1 := 0 }
  | 2 => { l with cm3 := 0, cm2 := 0, cm1 := -8, cp1 := -4 }
  | _ => { l with cm3 := 0, cm2 := 2, cm1 := -14, cp1 := -6 }

/-- STAT of a lane. -/
def statWord (r : Nat) (l : Lane) : Nat := r + 256 * (mainTap l).toNat

/-- The transmitter's answer to a received REQ word (R373): a request is applied once, and HOLD clears RESULT. -/
def tapAnswer (w : Nat) (l : Lane) : Lane :=
  let preset := bits w 6 5
  let act := bits w 4 3
  let t := bits w 2 0
  if preset = 0 ∧ act = 0 then { l with stat := statWord 0 l }
  else if l.stat % 4 ≠ 0 then l
  else if preset ≠ 0 then let m := presetTaps preset l; { m with stat := statWord 1 m }
  else if 4 ≤ t ∨ act = 3 then l
  else
    let v := tapGet l t + (if act = 1 then 1 else -1)
    let m := tapSet l t v
    if tapRange t v && decide (24 ≤ mainTap m) then { m with stat := statWord 1 m } else { l with stat := statWord 2 l }

/-- The good training marker that a quad's lane takes its words from (R371): once the lanes are mapped, that of the far end's lane of its
number (R375). -/
def trainMarker (f : RxFrame) (mapped : Bool) (n : Nat) : Option (List Byte) :=
  let good (m : List Byte) : Bool := markerOk m && decide (fieldAt m 8 1 % 4 = 1)
  let ms := f.markers.map (fun m => (markerFix m).1)
  if mapped then ms.find? (fun m => good m && bits (fieldAt m 8 1) 3 2 == n) else (ms[n]?).filter good

/-- A lane takes the REQ and STAT words of a training marker (R371). -/
def laneWords (m : Option (List Byte)) (l : Lane) : Lane :=
  match m with
  | some m => tapAnswer (fieldAt m 11 2) { l with farReq := fieldAt m 11 2, farStat := fieldAt m 13 2 }
  | none => l

/-- A quad takes the markers of a frame. The READY step counts the frames in which both ends' RX_READY and ALIGNED are seen (R376). -/
def takeMarkers (f : RxFrame) (v : Quad) : Quad :=
  let word (n : Nat) : Option (List Byte) := trainMarker f v.deskewed n
  let lanes := (v.lanes.zipIdx).map (fun e => laneWords (word e.2) (laneMarker (f.markers.getD e.2 []) (f.words.getD e.2 false) e.1))
  let far := lanes.all (fun l => bitOf l.farReq 8)
  let near := lanes.all (fun l => bitOf l.req 8)
  let both := near && lanes.all (fun l => bitOf l.req 9) &&
    (List.range 4).all (fun n => (word n).any (fun m => bitOf (fieldAt m 11 2) 8 && bitOf (fieldAt m 11 2) 9))
  { v with lanes := lanes, skew := f.skew, farReady := far, nearReady := near,
           readyRun := if v.state = .train ∧ both then v.readyRun + 1 else 0 }

/-! Measuring and checking (R188 to R192). -/

/-- Round `a` / `n` to the nearest integer, halves up. -/
def roundDiv (a : Int) (n : Nat) : Int := (2 * a + n) / (2 * n)

/-- Pad delay of a one-way delay in 1/16 tick, 0 when the link is long (R189). -/
def padDelay (oneway : Int) : Nat :=
  if 5 * oneway ≤ 128 * 17 then 1 else if 5 * oneway ≤ 128 * 97 then 2 else if 5 * oneway ≤ 128 * 177 then 3 else 0

/-- A quad comes UP after its measurement. One that the schedule uses and whose delay breaks R189 is treated as down. -/
def measuredUp (q : Nat) (s : State) : State :=
  let v := quad s q
  let s1 := setQuad q { v with state := .up } s
  if v.reserved && (v.long || decide (quadDimg s q < v.d)) then
    modQuad q (fun w => { w with state := .down }) (quadDown q (schErr 0x0B03 2 q 0 (quadDimg s q) v.d (setQuad q v s)))
  else
    let s2 := if 1 ≤ v.use ∧ v.use ≤ 6 then modRte (fun r => { r with declDown := r.declDown.erase (v.use - 1) }) s1 else s1
    if v.use = 7 then endpointUp v.port s2 else s2

/-- One exchange of Table 6-1: t1 to t4 in 1/16 tick. The sixteenth ends MEASURE. -/
def measure (q t1 t2 t3 t4 : Nat) (s : State) : State :=
  let v := quad s q
  let a : Int := ((t4 : Int) - t1) - ((t3 : Int) - t2)
  let b : Int := ((t2 : Int) - t1) + ((t3 : Int) - t4)
  let sums := (v.sums.1 + a, v.sums.2 + b)
  if v.exchanges + 1 < 16 then setQuad q { v with exchanges := v.exchanges + 1, sums := sums } s
  else
    let w := roundDiv sums.1 32
    measuredUp q (setQuad q { v with
      exchanges := 16, sums := sums, oneway := w, offset := roundDiv sums.2 32, d := padDelay w,
      long := padDelay w == 0, measured := true } s)

/-- Whether the far end of a quad keeps the croak count: a chip, or an endpoint with CAPS.SCHED (R363). -/
def farCounts (s : State) (q : Nat) (chipsrc : Bool) : Bool :=
  chipsrc || ((quad s q).use == 7 && bitOf (tget {} s.rte.ep (quad s q).port).caps 0)

/-- The drift check of R192. -/
def driftCheck (q tx rx : Nat) (s : State) : State :=
  let v := quad s q
  let want : Int := (rx : Int) - v.oneway + v.offset
  if v.measured && decide (16 < ((tx : Int) - want).natAbs) then
    let s1 := schErr 0x0B05 2 q 0 (want.toNat / 16) (tx / 16) s
    let s2 := jobStop 0x0B05 (quadPlace s q) s1
    { s2 with sch := { s2.sch with align := .measuring } }
  else s

/-- The newest heartbeat sequence (R192). -/
def heartbeat (seq : Nat) (s : State) : State :=
  let d := (seq + 2 ^ 32 - s.sch.hbSeq) % 2 ^ 32
  if 0 < d ∧ d < 2 ^ 31 then { s with sch := { s.sch with hbSeq := seq } } else s

/-! The reserved fabric lines (R201, R203, R204, R208, R209). -/

/-- A reserved-line byte is outside its window: the job stops. -/
def lineFault (q : Nat) (s : State) : State :=
  jobStop 0x0B06 (quadPlace s q) (schErr 0x0B06 2 q 0 0 0 s)

/-- FBL60: a slip call. The stamp names a job pad of (JP − 127, JP]. -/
def takeCall (q b : Nat) (s : State) : State :=
  let back := (s.sch.jp + 128 - b / 2 % 128) % 128
  let j := s.sch.jp - back
  if b % 2 = 0 ∨ !(s.sch.state == .run || s.sch.state == .frozen) then s
  else if back = 127 ∨ s.sch.jp < back then lineFault q s
  else if (s.sch.lastJ.map (fun l => decide (j ≤ l))).getD false then s
  else if j + pgH s < s.sch.jp then lineFault q s
  else { s with sch := { s.sch with callPend := some (min j (s.sch.callPend.getD j)) } }

/-- FBL61: an extension of the current freeze. A VALID byte that comes in RUN, outside any freeze, is ignored and raises nothing (DESIGN
CHOICE, log 172). -/
def takeExt (q b : Nat) (s : State) : State :=
  let back := (s.sch.quantum + 128 - b / 2 % 128) % 128
  if b % 2 = 0 ∨ s.sch.state ≠ .frozen then s
  else if s.sch.quantum ≤ back then lineFault q s
  else { s with sch := { s.sch with extQuantum := max s.sch.extQuantum (s.sch.quantum - back) } }

/-- FBL62: the decision for the next epoch. -/
def takeEpoch (q b : Nat) (s : State) : State :=
  if (b = 0 ∧ (s.sch.epoch + 1) % 32 ≠ 0) ∨ !(s.sch.state == .run || s.sch.state == .frozen) then s
  else if b / 8 = (s.sch.epoch + 1) % 32 then
    { s with sch := { s.sch with fbl62 := if s.sch.fbl62 / 8 = b / 8 then epochBytes s.sch.fbl62 b else b } }
  else if b / 8 = s.sch.epoch % 32 then s
  else lineFault q s

/-- FBL63: STOP. -/
def takeStop (q b : Nat) (s : State) : State := if b % 2 = 1 then jobStop 0x0A09 (quadPlace s q) s else s

/-- The BARRIER field of a control flit, taken from the lowest-numbered UP quad of a direction (R174, R201). -/
def takeBarrier (q : Nat) (b : List Byte) (s : State) : State :=
  let v := quad s q
  if v.state = .up ∧ 1 ≤ v.use ∧ v.use ≤ 6 ∧ (upQuads s v.use 0).head? = some q then
    let s1 := (List.range 60).foldl (fun t f =>
      if (fline t f).recv.getD (v.use - 1) 0 = fieldAt b f 1 then t else fblReceive f (v.use - 1) (fieldAt b f 1) t) s
    if schActive s1 && inSpan s1 v.ncoord then
      takeStop q (fieldAt b 63 1) (takeEpoch q (fieldAt b 62 1) (takeExt q (fieldAt b 61 1) (takeCall q (fieldAt b 60 1) s1)))
    else s1
  else s

/-! Control flits. -/

/-- The fields other than SIG of a good control flit that is not a replay (R362, R363, R364). -/
def takeCtrl (q rx : Nat) (b : List Byte) (s : State) : State :=
  let tx := 16 * fieldAt b 0 8 + fieldAt b 8 1 % 16
  let t1 := 16 * fieldAt b 20 8 + fieldAt b 36 1 % 16
  let t2 := 16 * fieldAt b 28 8 + fieldAt b 36 1 / 16
  let s1 := modQuad q (fun v => { v with
    ctrlSeen := true, echoTx := tx, echoRx := rx
    creds := (List.range 9).map (fun i => { credOf v (i + 1) with limit := fieldAt b (40 + 2 * i) 2 }) }) s
  let s2 := if (quad s1 q).state = .measure ∧ t1 ≠ 0 then measure q t1 t2 tx rx s1 else s1
  let v := quad s2 q
  if v.state ≠ .up then s2
  else
    let s3 := if farCounts s2 q (bitOf (fieldAt b 9 1) 0) then
        let t := driftCheck q tx rx s2
        if fieldAt b 12 4 = t.sch.term then heartbeat (fieldAt b 16 4) t else t
      else s2
    takeBarrier q (slice b 64 64) s3

/-- The signal slots of an accepted control flit (R176, R363): applied here or sent on. None count unless the quad is UP
(R512). -/
def takeSignals (q : Nat) (b : List Byte) (s : State) : State :=
  ((List.range 4).map (fun i => slice b (128 + 16 * i) 16)).foldl (fun t g =>
    if !bitOf (fieldAt g 0 2) 15 then t
    else if (quad t q).state ≠ .up then linkErr 0x0805 q 0 0 0 t
    else
      let slot : SigSlot := { tgt := fieldAt g 0 2, obj := fieldAt g 2 2 % 8192, d := fieldAt g 4 2, ncell := fieldAt g 6 2,
                              src := fieldAt g 8 4 }
      let (u, here) := slotSend slot t
      if here then signalRemote slot (agentRemote q) u else u) s

/-! Packets on unscheduled streams (R359, R360, R364). -/

/-- Headers of a HDR flit, unless a field of the flit is reserved. A packet header with a reserved encoding is none: it drops its own packet
only. -/
def hdrParse (b : List Byte) : Option (List (Nat × Option (Packet × Nat))) :=
  let n := fieldAt b 0 1
  if n = 0 ∨ 7 < n ∨ !allZero (slice b 8 24) ∨ !allZero (slice b (32 + 32 * n) (224 - 32 * n)) ∨
      !allZero (slice b (1 + n) (7 - n)) then none
  else some ((List.range n).map (fun i => (fieldAt b (1 + i) 1, headerParse (slice b (32 + 32 * i) 32))))

/-- A packet open on a stream is broken off: what has arrived of it ends with code 2 (R360, log 136). -/
def breakOpen (q : Nat) (o : OpenPkt) (s : State) : State := if o.got = 0 ∨ o.len = 0 then s else cutOpen q 2 o s

/-- Open the packet of a header of an unscheduled HDR flit. One whose stream has a packet open breaks that packet off, and the
stream's cells up to the next EOP are discarded (R360). -/
def openPacket (q slot : Nat) (s : State) (h : Nat × Packet × Nat) : State :=
  let st := streamOf h.2.1.cls h.2.1.vc
  let put (l : List OpenPkt) (t : State) : State :=
    modQuad q (fun v => { v with opens := v.opens.filter (fun x => x.stream ≠ st) ++ l }) t
  if h.1 ≠ 255 ∨ st = 0 then linkErr 0x0805 q 0 0 slot s
  else
    match (quad s q).opens.find? (fun o => o.stream == st) with
    | some o => put [{ o with len := 0 }] (breakOpen q o (linkErr 0x0805 q 0 0 slot s))
    | none => put [{ stream := st, pkt := h.2.1, len := h.2.2 }] s

/-- Open the packets of an unscheduled HDR flit. -/
def takeHeaders (q slot : Nat) (b : List Byte) (s : State) : State :=
  match hdrParse b with
  | none => linkErr 0x0805 q 0 0 slot s
  | some hs => hs.foldl (fun t h => match h.2 with
      | none => linkErr 0x0805 q 0 0 slot t
      | some e => openPacket q slot t (h.1, e.1, e.2)) s

/-- The code of a packet at a cell with a received code: it is never changed on the way (R260), a reserved one is taken as 2, and a good cell
that ends the packet at a wrong length makes it 2 (R259). -/
def stompCode (code : Nat) (wrong : Bool) : Nat :=
  if code ≠ 0 then (if 5 ≤ code then 2 else code) else if wrong then 2 else 0

/-- The first cell of an open packet begins its arrival; the others join it. A code, or an EOP in the wrong place, ends the packet as a
stomped one. The credit of a cell goes back when the cell is freed: at once, unless its packet waits at this quad. -/
def joinCell (q st code : Nat) (last : Bool) (o : OpenPkt) (b : List Byte) (s : State) : State × Packet :=
  if o.got = 0 then
    let (t, p) := numbered o.pkt s
    (modQuad q (fun v => { v with arrivedPkts := v.arrivedPkts ++
      [{ p with payload := b.take o.len, left := if last then 0 else o.len - 256, stomp := code }] }) t, p)
  else
    let t := cellIn q o.pkt.sid b last s
    let u := if atIngress t q o.pkt.sid then t else returnCredit q st 1 t
    (if code = 0 then u else stompPkt q o.pkt code u, o.pkt)

/-- An accepted CELL of an unscheduled stream. A packet with length 0 in `opens` is being discarded up to its EOP. -/
def takeCell (q slot st code : Nat) (eop : Bool) (b : List Byte) (s : State) : State :=
  let v := quad s q
  let c := credOf v st
  let cls := streamCls st
  let s1 := modQuad q (fun v => { modCred st (fun c => { c with recvd := (c.recvd + 1) % 65536 }) v with
      stompRx := if code = 0 then v.stompRx else (v.stompRx + 1) % 2 ^ 32 })
    (if 1 ≤ v.use ∧ v.use ≤ 6 then
      modRte (fun t => { t with recvCells := t.recvCells.set cls (t.recvCells.getD cls 0 + 1) }) s else s)
  match v.opens.find? (fun o => o.stream == st) with
  | none => returnCredit q st 1 (linkErr 0x0805 q 0 0 slot s1)
  | some o =>
    let put (l : List OpenPkt) (t : State) : State :=
      modQuad q (fun v => { v with opens := v.opens.filter (fun x => x.stream ≠ st) ++ l }) t
    let drop : List OpenPkt := if eop then [] else [{ o with len := 0 }]
    let room := (c.adv + 65536 - c.recvd) % 65536
    if room = 0 ∨ 32768 ≤ room then put drop (breakOpen q o (linkErr 0x0806 q 0 0 slot s1))
    else if o.len = 0 then put drop (returnCredit q st 1 s1)
    else
      let last := o.got + 1 == cellsOf o.len
      let code1 := stompCode code (eop != last)
      let (s2, p) := joinCell q st code1 (eop || last) o b s1
      if eop || last then put drop s2 else put [{ o with pkt := p, got := o.got + 1 }] s2

/-! Scheduled cells (R189, R233, R359, R369). -/

/-- Headers of a scheduled HDR flit, unless a field of the flit is reserved: every packet on the scheduled plane is of class SCHED (R17), and
its first cell has a slot of this frame. Another header opens no packet, and the second part says that there is one. -/
def schedHeaders (b : List Byte) : Option (List (Nat × Packet × Nat) × Bool) :=
  (hdrParse b).map (fun hs =>
    let good := hs.filterMap (fun h => (h.2.filter (fun e => e.1.cls == 0 && decide (h.1 < 32))).map (fun e => (h.1, e.1, e.2)))
    (good, decide (good.length < hs.length)))

/-- The packet that a scheduled cell belongs to, its length, and the cell's place: the one open on the route, else the one whose
header the frame binds to the slot. A cell that has neither belongs to no packet. -/
def schedHeader (v : Quad) (hdrs : List (Nat × Packet × Nat)) (i route : Nat) : Option (Packet × Nat × Nat) :=
  match v.schedOpen.find? (fun e => e.1 == route) with
  | some (_, p, len, pos) => some (p, len, pos)
  | none => (hdrs.find? (fun h => h.1 == i)).map (fun h => (h.2.1, h.2.2, 0))

/-- What is open on a route after one of its cells: length 0 stands for cells that are discarded up to an EOP. -/
def schedStep (route : Nat) (p : Packet) (len pos : Nat) (done eop : Bool) (v : Quad) : Quad :=
  { v with schedOpen := v.schedOpen.filter (fun e => e.1 ≠ route) ++
      (if eop then [] else if done then [(route, p, 0, 0)] else [(route, p, len, pos + 1)]) }

/-- Pad boundaries until a cell sent in frame `padnum` on quad `q` enters its first hop. -/
def flightWait (s : State) (q padnum : Nat) : Nat :=
  let w := (padnum + quadDimg s q + 65536 - croak s / 128 % 65536) % 65536
  if w < 32768 then w else 0

/-- Whether a contribution belongs to a newt that its position reaches: of the tag, the image names no more for a position (R132,
log 129). -/
def tagFits (s : State) (recs : List (Nat × List Byte)) (c : Nat) : Bool :=
  recs.all (fun e => rtDkind e.2 != 0 || (newt s (newtOfSlot s (rtDest e.2))).colls.contains c)

/-- The check of R132 on a scheduled cell. -/
def schedCheck (q : Nat) (recs : List (Nat × List Byte)) (p : Packet) (s : State) : State × Bool :=
  match collTag p with
  | none => (s, true)
  | some t =>
    if !collDead s t.coll && (quad s q).use == 7 && (t.kind == 0 || t.kind == 1 || t.kind == 7) && !tagFits s recs t.coll then
      (contribBad { fchip := fchipOf s.rte.coord, funit := (quad s q).port, fkind := 3 } t s, false)
    else collCheck q p s

/-- A good scheduled cell that goes on: the first of a packet is counted and enters, the others join it. -/
def schedJoin (q : Nat) (recs : List (Nat × List Byte)) (p : Packet) (len pos : Nat) (b : List Byte) (s : State) :
    State × Packet :=
  let port := portNum s q
  if pos = 0 then
    schedEnter [port] (recPorts s (recs.map (·.2))) p len b (modCtr port 0 (fun c => { c with
      rxPkt := (c.rxPkt + 1) % 2 ^ 64, rxByte := (c.rxByte + len) % 2 ^ 64 }) s)
  else (if p.sid = 0 then s else cellIn q p.sid b (pos + 1 == cellsOf len) s, p)

/-- A scheduled cell of an open packet in its own slot: it enters the island pipeline, unless R132 rejects it or its packet is
stomped. A header bound to a slot whose route has a packet open breaks that packet off (R360, log 136). -/
def schedTake (q padnum route code : Nat) (recs : List (Nat × List Byte)) (second eop : Bool) (b : List Byte)
    (p : Packet) (len pos : Nat) (s : State) : State :=
  let last := pos + 1 == cellsOf len
  let code1 := stompCode code (second || eop != last)
  let wait := flightWait s q padnum
  if len = 0 then
    (routeNext route (modQuad q (schedStep route p len pos true eop)
      (if (collTag p).any (fun t => collDead s t.coll) then discard 2 s else s))).1
  else if code1 ≠ 0 then
    schedStomp q route wait recs p len pos code1 b (modQuad q (schedStep route p len pos true eop) s)
  else
    let (s1, idx) := routeNext route s
    let (s2, ok) := schedCheck q recs (cellPacket p pos (b.take (len - 256 * pos))) s1
    let (s3, p1) := if ok then schedJoin q recs p len pos b s2 else (s2, p)
    let s4 := modQuad q (schedStep route p1 len pos last eop) s3
    let c : SCell := { hdr := { p1 with payload := [] }, len := len, pos := pos, data := b }
    if ok then { s4 with sch := { s4.sch with
      flights := s4.sch.flights ++ recs.map (fun e => { rno := e.1, idx := idx, wait := wait, cell := c }) } }
    else s4

/-- A good scheduled cell in its own slot. One that belongs to no packet is discarded (log 136). -/
def schedCell (q padnum i : Nat) (recs : List (Nat × List Byte)) (hdrs : List (Nat × Packet × Nat)) (code : Nat)
    (eop : Bool) (b : List Byte) (s : State) : State :=
  let v := quad s q
  let route := rtNum ((recs.head?.map (·.2)).getD [])
  let s1 := setQuad q { v with stompRx := if code = 0 then v.stompRx else (v.stompRx + 1) % 2 ^ 32 } s
  let second := hdrs.any (fun h => h.1 == i) && v.schedOpen.any (fun e => e.1 == route)
  match schedHeader v hdrs i route with
  | none => (routeNext route s1).1
  | some (p, len, pos) =>
    schedTake q padnum route code recs second eop b p len pos (if second then linkErr 0x0805 q 0 padnum i s1 else s1)

/-- A bad slot at a reserved position: a cell is taken to have been in it (log 37). -/
def schedMiss (q own i jp : Nat) (recs : List (Nat × List Byte)) (hdrs : List (Nat × Packet × Nat)) (s : State) : State :=
  let v := quad s q
  let route := rtNum ((recs.head?.map (·.2)).getD [])
  let (s1, idx) := routeNext route s
  let late (p : Option (Packet × Nat)) (pos : Nat) : LateCell := { orig := own, jp := jp, idx := idx, pos := pos, hdr := p }
  match schedHeader v hdrs i route with
  | none => modQuad q (fun v => { v with schedBad := v.schedBad ++ [late none 0] }) s1
  | some (p, len, pos) =>
    let last := pos + 1 == cellsOf len
    modQuad q (fun v =>
      { (if len = 0 then v else schedStep route p len pos last last v) with
        schedBad := v.schedBad ++ [late (if len = 0 then none else some ({ p with payload := [] }, len)) pos] }) s1

/-- The FWD packet that carries a late cell, number `idx` of its stream, to one destination (R369): a newt slot, with the landing that the
record gives, an endpoint port, or the neighbour where the route goes on, since where it ends is not in this chip's image (log 29). -/
def latePacket (s : State) (q : Nat) (h : Packet) (pos : Nat) (b : List Byte) (idx : Nat) (r : List Byte) : Packet :=
  let p : Packet := { cellPacket h pos b with
    cls := 3, chan := 15, vc := 0, prio := 0, colour := 0, stomp := 0, src := s.rte.coord, schip := true,
    sunit := unitQuad q, sid := 0, mirs := [], left := 0, land := none }
  if rtDkind r = 0 then { p with dst := s.rte.coord, dchip := true, dunit := unitNewt (newtOfSlot s (rtDest r)),
                                 land := some (rtLc r, rtAddr r + 256 * idx) }
  else if rtDkind r = 1 then { p with dst := s.rte.coord + 2 ^ 15 * rtDest r, dchip := false, dunit := 0 }
  else { p with dst := (quad s (rtDest r)).ncoord, dchip := true, dunit := 0 }

/-- A late cell of a known packet goes on, and joins the packet's copies; one with a stomp code ends its packet, and carries the code to
where the packet's other cells have gone (R259, R260, R353). A last cell releases the cells that wait for it at newts. -/
def lateSend (q code : Nat) (eop : Bool) (c : LateCell) (h : Packet) (len : Nat) (b0 : List Byte) (s : State) : State :=
  let b := b0.take (len - 256 * c.pos)
  let recs := entryRecs s q (c.orig % 32) c.jp
  let out (rs : List (Nat × List Byte)) (t : State) : State := rs.foldl (fun t e =>
    unitSend { latePacket t q h c.pos b c.idx e.2 with stomp := code } t) t
  if code ≠ 0 then
    let away := recs.filter (fun e => rtDkind e.2 != 0)
    out away (discard (if away.isEmpty then 0 else 1)
      (rxFlushAll recs false (stompColl h code (atQuad s q) (schedCopies h code b (stompCount q h code s)))))
  else
    let s1 := if eop then rxFlushAll recs true s else s
    let (s2, ok) := schedCheck q recs (cellPacket h c.pos b) s1
    if ok then out recs (if h.sid = 0 then s2 else cellJoins h.sid b eop s2) else s2

/-- A late scheduled cell, accepted as a replay (R369). One whose original had no reserved position is an error (R360). -/
def lateCell (q orig code : Nat) (eop : Bool) (b : List Byte) (s : State) : State :=
  match (quad s q).schedBad.find? (fun c => c.orig == orig) with
  | none => linkErr 0x0805 q 0 (orig / 32) (orig % 32) s
  | some c =>
    let s1 := linkErr 0x0807 q 0 (orig / 32) (orig % 32) (modQuad q (fun v => { v with
      late := (v.late + 1) % 65536, schedBad := v.schedBad.erase c
      stompRx := if code = 0 then v.stompRx else (v.stompRx + 1) % 2 ^ 32 }) s)
    match c.hdr with
    | none => s1
    | some (h, len) => lateSend q (if 5 ≤ code then 2 else code) eop c h len b s1

/-- A late scheduled HDR flit is checked and discarded (R369). -/
def lateHeaders (q slot : Nat) (b : List Byte) (s : State) : State :=
  match schedHeaders b with
  | none => linkErr 0x0805 q 0 0 slot s
  | some (hs, bad) => hs.foldl (fun t h => (collCheck q { h.2.1 with payload := [0] } t).1)
      (if bad then linkErr 0x0805 q 0 0 slot s else s)

/-! Link retry at the receiver (R367). -/

/-- Slot numbers of a received sequence count modulo 2^21. -/
def slotAge (cur o : Nat) : Nat := (cur + 2097152 - o) % 2097152

/-- Add an original to the list of those reported bad, in original order. -/
def listAdd (cur padnum o : Nat) (l : List (Nat × Nat)) : List (Nat × Nat) :=
  if l.any (fun e => e.1 == o) then l
  else l.takeWhile (fun e => decide (slotAge cur o < slotAge cur e.1)) ++ [(o, padnum)] ++
    l.dropWhile (fun e => decide (slotAge cur o < slotAge cur e.1))

/-- Kinds of slot (Table 11-4): 0 IDLE, 1 scheduled CELL, 2 scheduled HDR, 3 CTRL, 4 ordered CELL, 5 ordered HDR, 6
reserved. -/
def slotKind (h : Nat) : Nat :=
  let st := h / 16
  if h = 0 then 0
  else if h % 8 = 1 then (if st = 0 then 1 else if st ≤ 9 then 4 else 6)
  else if h = 2 then 2
  else if h = 3 then 3
  else if h = 0x12 then 5 else 6

/-- A received frame in progress: the state, the slots reported bad, and the number of bad slots. -/
structure RxAcc where
  s : State
  mask : Nat := 0
  nbad : Nat := 0

/-- Report slot `i` bad, adding `o` to the list where it is an ordered original. -/
def rxReport (q own padnum i : Nat) (o : Option Nat) (a : RxAcc) : RxAcc :=
  { a with mask := a.mask ||| 2 ^ i, s := match o with
      | none => a.s
      | some o => modQuad q (fun v => { v with badList := listAdd own padnum o v.badList }) a.s }

/-- Note that an original has been accepted, and that it no longer waits in the list. -/
def rxAccepted (q own o : Nat) (s : State) : State :=
  modQuad q (fun v => { v with
    accepted := v.accepted.filter (fun x => decide (slotAge own x ≤ 2047)) ++ [o]
    badList := v.badList.filter (fun e => e.1 ≠ o) }) s

/-- An accepted ordered flit takes effect. -/
def rxOrdered (q i code : Nat) (b : List Byte) (s : State) : State :=
  let h := fieldAt b 0 1
  let flit := slice b 1 256
  match slotKind h with
  | 3 => takeSignals q flit s
  | 4 => takeCell q i (h / 16) code (bitOf h 3) flit s
  | 5 => takeHeaders q i flit s
  | _ => s

/-- A good ordered flit with original `o`: accepted, a duplicate, or reported bad (R367). -/
def rxGood (q own padnum i o code : Nat) (b : List Byte) (a : RxAcc) : RxAcc :=
  let v := quad a.s q
  if v.accepted.contains o then a
  else if v.badList.isEmpty ∨ (v.badList.head?.map (·.1)) = some o then
    { a with s := rxOrdered q i code b (rxAccepted q own o a.s) }
  else rxReport q own padnum i (some o) a

/-- A scheduled flit is not allowed on a quad that is not UP (R512). -/
def rxSched (q i : Nat) (f : State → State) (s : State) : State :=
  if (quad s q).state = .up then f s else linkErr 0x0805 q 0 0 i s

/-- What the receiver knows about a frame: quad, PADNUM, usable header, job pad, replay map, bound headers and the
count at its first bit. -/
structure RxCtx where
  q : Nat
  padnum : Nat
  usable : Bool
  jp : Option Nat
  reps : List (Nat × Nat)
  hdrs : List (Nat × Packet × Nat)
  frame : RxFrame

/-- Whether an uncorrectable codeword touches slot `i` (R348). -/
def slotHurt (uncorr : List Bool) (i : Nat) : Bool :=
  (List.range 13).any (fun c => uncorr.getD c false && decide (2088 * i < 5140 * c + 5140 ∧ 5140 * c < 2088 * i + 2088))

/-- Records of the reserved position of slot `i`. -/
def rxRecs (c : RxCtx) (s : State) (i : Nat) : List (Nat × List Byte) :=
  match c.jp with
  | none => []
  | some j => if (quad s c.q).state = .up then entryRecs s c.q i j else []

/-- A slot that the replay map names (R367): `o` is its original. -/
def rxReplay (c : RxCtx) (i o : Nat) (code : Option Nat) (b : List Byte) (a : RxAcc) : RxAcc :=
  let own := 32 * c.padnum + i
  let v := quad a.s c.q
  match code with
  | none => { rxReport c.q own c.padnum i none a with nbad := a.nbad + 1 }
  | some code =>
    match slotKind (fieldAt b 0 1) with
    | 0 =>
      if (v.badList.head?.map (·.1)) = some o then { a with s := rxAccepted c.q own o a.s }
      else if v.badList.any (fun e => e.1 == o) then rxReport c.q own c.padnum i none a
      else a
    | 1 =>
      if v.accepted.contains o then a
      else { a with s := rxSched c.q i (lateCell c.q o code (bitOf (fieldAt b 0 1) 3) (slice b 1 256)) (rxAccepted c.q own o a.s) }
    | 2 =>
      if v.accepted.contains o then a
      else { a with s := rxSched c.q i (lateHeaders c.q i (slice b 1 256)) (rxAccepted c.q own o a.s) }
    | 6 => { a with s := linkErr 0x0805 c.q 0 c.padnum i (rxAccepted c.q own o a.s) }
    | _ => rxGood c.q own c.padnum i o code b a

/-- Count at the first bit of slot `i`. -/
def rxCount (c : RxCtx) (i : Nat) : Nat := c.frame.stamp + 64 * i

/-- Slot `i` of a received frame (R360, R363, R367). A control slot holds no replay. -/
def rxSlot (c : RxCtx) (a : RxAcc) (i : Nat) : RxAcc :=
  let b := c.frame.slots.getD i []
  let own := 32 * c.padnum + i
  let ctrl := (ctrlSlots c.padnum).contains i
  let recs := if ctrl then [] else rxRecs c a.s i
  let code := if slotHurt c.frame.uncorr i || (!c.usable && !ctrl && recs.isEmpty) then none else slotCode b
  let err (a : RxAcc) : RxAcc := { a with s := linkErr 0x0805 c.q 0 c.padnum i a.s }
  match if ctrl then none else c.reps.find? (fun e => e.1 == i) with
  | some (_, age) => rxReplay c i ((own + 2097152 - age) % 2097152) code b a
  | none =>
    match code with
    | none =>
      if recs.isEmpty then { rxReport c.q own c.padnum i (some own) a with nbad := a.nbad + 1 }
      else
        let a1 := rxReport c.q own c.padnum i none a
        { a1 with nbad := a.nbad + 1, s := schedMiss c.q own i (c.jp.getD 0) recs c.hdrs a1.s }
    | some code =>
      match slotKind (fieldAt b 0 1) with
      | 0 => if ctrl then err a else a
      | 1 => if recs.isEmpty then err a
             else { a with s := schedCell c.q c.padnum i recs c.hdrs code (bitOf (fieldAt b 0 1) 3) (slice b 1 256)
                                  (rxAccepted c.q own own a.s) }
      | 2 =>
        if ctrl || !recs.isEmpty then err a
        else match schedHeaders (slice b 1 256) with
          | none => err a
          | some (_, bad) => (if bad then err else id) { a with s := rxSched c.q i (fun s => s) (rxAccepted c.q own own a.s) }
      | 3 =>
        if !ctrl then err a
        else rxGood c.q own c.padnum i own code b { a with s := takeCtrl c.q (rxCount c i) (slice b 1 256) a.s }
      | 6 => err a
      | _ => if ctrl then err a else rxGood c.q own c.padnum i own code b a

/-! Reports at the sender (R368). -/

/-- Insert a replay entry in original order. -/
def rpInsert (r : Replay) (l : List Replay) : List Replay :=
  l.takeWhile (fun e => decide (e.orig < r.orig)) ++ [r] ++ l.dropWhile (fun e => decide (e.orig < r.orig))

/-- The report of one slot: the quad, and whether link retry fails (R370). -/
def slotReport (fr mask : Nat) (e : Quad × Bool) (i : Nat) : Quad × Bool :=
  let v := e.1
  let own := 32 * fr + i
  if !bitOf mask i then
    ({ v with replay := v.replay.filter (fun r => r.latest ≠ own || r.pending), evicted := v.evicted.erase own }, e.2)
  else
    match v.replay.find? (fun r => r.latest == own && !r.pending) with
    | some r =>
      ({ v with replay := v.replay.set (v.replay.idxOf r) { r with bads := r.bads + 1, pending := true } },
        e.2 || decide (4 ≤ r.bads + 1))
    | none =>
      if v.evicted.contains own then (v, true)
      else if v.txSlot ≤ own ∨ own + 2047 < v.txSlot ∨ v.replay.any (fun r => r.latest == own) then e
      else
        let res := ((v.resTx.find? (fun x => x.1 == fr)).map (fun x => x.2.contains i)).getD false
        ({ v with replay := rpInsert { orig := own, latest := own, bytes := idleSlot, ordered := !res, bads := 1,
                                       pending := true } v.replay }, e.2)

/-- The report of one frame. -/
def frameReport (mask : Nat) (e : Quad × Bool) (fr : Nat) : Quad × Bool :=
  (List.range 32).foldl (slotReport fr mask) e

/-- A report arrives for the frame with PADNUM `rep`: every frame passed over counts as reported bad, those sent before the first report
too. The sender's record holds its last 2,047 slots, so frames before the last 64 draw none (log 38). -/
def takeReport (rep mask : Nat) (v : Quad) : Quad × Bool :=
  let n := v.txSlot / 32
  let back := (v.padBase + n + 65536 - rep) % 65536
  if n < back ∨ n = 0 then (v, false)
  else
    let fr := n - back
    let first := match v.lastReport with
      | none => 0
      | some l => l + 1
    if fr < first then (v, false)
    else
      let missing := (List.range (fr - first)).map (fun i => first + i)
      let (v1, bad) := frameReport mask ((missing.drop (missing.length - 64)).foldl (frameReport (2 ^ 32 - 1)) (v, false)) fr
      ({ v1 with lastReport := some fr
                 sentPkts := v1.sentPkts.filter (fun e => v1.replay.any (fun r => r.orig == e.1)) }, bad)

/-- Result cells whose sending the link has acknowledged are delivered (R142). -/
def ackSent (q : Nat) (s : State) : State :=
  let v := quad s q
  let waits (e : Nat × Nat × Nat) : Bool := v.replay.any (fun r => r.orig == e.1) || v.evicted.contains e.1
  (v.unacked.filter (fun e => !waits e)).foldl (fun t e =>
    if t.colls.any (fun c => c.1 == e.2.1) then
      modColl e.2.1 (fun c => { c with acked := tset 0 c.acked v.port (tget 0 c.acked v.port + e.2.2) }) t
    else t) (setQuad q { v with unacked := v.unacked.filter waits } s)

/-! A received frame. -/

/-- The job pad of the pad numbered `padnum` (R196). -/
def padJob (s : State) (padnum : Nat) : Option Nat := (s.sch.hist.find? (fun e => e.1 == padnum)).map (·.2)

/-- The pad header of a frame: BODY fields in far-lane order. -/
def padHeaderOf (f : RxFrame) : List Byte :=
  (List.range 4).flatMap (fun n =>
    slice (((f.markers.map (fun m => (markerFix m).1)).find? (fun m => bits (fieldAt m 8 1) 3 2 == n)).getD []) 11 17)

/-- Whether every marker is good and of a pad frame. -/
def usableHeader (f : RxFrame) : Bool :=
  f.markers.length == 4 && f.markers.all (fun m => markerOk (markerFix m).1 && fieldAt (markerFix m).1 8 1 % 4 == 0)

/-- Headers that the frame's scheduled HDR flits bind to slots (R358): those in slots `free` for them, neither control slots nor reserved
positions. -/
def boundHeaders (f : RxFrame) (reps : List (Nat × Nat)) (free : Nat → Bool) : List (Nat × Packet × Nat) :=
  (List.range 32).flatMap (fun i =>
    let b := f.slots.getD i []
    if fieldAt b 0 1 = 2 ∧ free i ∧ !slotHurt f.uncorr i ∧ !reps.any (fun e => e.1 == i) ∧ slotCode b = some 0 then
      ((schedHeaders (slice b 1 256)).map (·.1)).getD []
    else [])

/-- The slots of a frame, once its pad header is read. -/
def rxFrame (q : Nat) (f : RxFrame) (usable : Bool) (s : State) : State :=
  let v := quad s q
  let ph := padHeaderOf f
  let padnum := if usable then fieldAt (markerFix (f.markers.headD [])).1 9 2 else v.rxNext
  let reps := if usable then (List.range (fieldAt ph 7 1)).map (fun i =>
    let e := fieldAt ph (8 + 2 * i) 2
    (e % 32, e / 32)) else []
  let c0 : RxCtx := { q := q, padnum := padnum, usable := usable, jp := padJob s padnum, reps := reps, hdrs := [], frame := f }
  let free (i : Nat) : Bool := !(ctrlSlots padnum).contains i && (rxRecs c0 s i).isEmpty
  let c : RxCtx := { c0 with hdrs := if usable then boundHeaders f reps free else [] }
  let a := (List.range 32).foldl (rxSlot c) { s := s }
  let s1 := modQuad q (fun v => { v with
    rxNext := (padnum + 1) % 65536, reportDue := some (padnum, a.mask), crcBad := (v.crcBad + a.nbad) % 2 ^ 32 }) a.s
  let w := quad s1 q
  if w.state = .down ∨ w.state = .train ∧ w.step < 6 then s1
  else
    match w.badList.head? with
    | some (_, at') => if 16 < (padnum + 65536 - at') % 65536 then linkFail 0x0804 q 0 s1 else s1
    | none => s1

/-- A pad frame arrives at a quad in step 6 or later. -/
def rxPad (q : Nat) (f : RxFrame) (s : State) : State :=
  let usable := usableHeader f
  let s1 := modQuad q (fun v => { v with
    cwCorr := (v.cwCorr + f.corrected) % 2 ^ 32, cwUncorr := (v.cwUncorr + (f.uncorr.filter id).length) % 2 ^ 32
    noHdr := if usable then 0 else v.noHdr + 1 }) s
  let v := quad s1 q
  match (v.lanes.zipIdx).find? (fun e => decide (8 ≤ e.1.badRun)) with
  | some (_, n) => linkFail 0x0802 q n s1
  | none =>
    if 8 ≤ v.noHdr then linkFail 0x0804 q 0 s1
    else
      let ph := padHeaderOf f
      let (w, bad) := if usable && bitOf (fieldAt ph 6 1) 0 then takeReport (fieldAt ph 0 2) (fieldAt ph 2 4) v
        else (v, false)
      if bad then linkFail 0x0804 q 0 (setQuad q w s1) else rxFrame q f usable (ackSent q (setQuad q w s1))

/-- PAD_FRAME_RECEIVE: a quad that is DOWN hears nothing; one in training takes the markers only until step 6, and a
training frame has no slots. -/
def padFrameReceive (q : Nat) (f : RxFrame) (s : State) : State :=
  let v := quad s q
  if v.state = .down then s
  else
    let s1 := setQuad q (takeMarkers f v) s
    let training := f.markers.any (fun m => markerOk (markerFix m).1 && fieldAt (markerFix m).1 8 1 % 4 == 1)
    if v.state = .train ∧ (v.step < 6 ∨ training) then s1 else rxPad q f s1

/-! Bring-up (R376, R377). -/

/-- The quad enters service at step 6: counters, buffer and lists empty, 64 cells allowed on each stream (R364). -/
def linkInit (v : Quad) : Quad :=
  { v with
    creds := List.replicate 9 { adv := 64 }, replay := [], evicted := [], badList := [], accepted := [], schedBad := [],
    schedOpen := [], opens := [], txQueue := [], reportDue := none, lastReport := none, noHdr := 0, txSlot := 0, rxNext := 0,
    resTx := [], sentPkts := [], unacked := [], arrivedPkts := [], ctrlSeen := false, echoTx := 0, echoRx := 0, drr := [0, 0, 0],
    drrAt := 0, lanes := v.lanes.map (fun l => { l with badRun := 0 }) }

/-- Training fails: the quad goes DOWN (R375, R376). -/
def trainFail (code q lane : Nat) (s : State) : State :=
  let s1 := linkErr code q lane 0 0 s
  modQuad q (fun v => { v with
    state := .down, step := 0, trainMs := min 4095 ((croak s - v.trainAt) / msTicks) }) s1

/-- Lanes mapped once each (R375). -/
def lanesMapped (v : Quad) : Bool := (List.range 4).all (fun n => v.lanes.any (fun l => l.farLane == n))

/-- The end of a bring-up step, when its condition holds (Table 11-13). -/
def stepEnd (q : Nat) (s : State) : State :=
  let v := quad s q
  let goto (n : Nat) : State := setQuad q { v with step := n } s
  if v.state ≠ .train then s
  else match v.step with
    | 1 => if v.lanes.all (fun l => l.signal && l.cdr) then goto 2 else s
    | 2 => if v.lanes.all (·.aligned) then goto 3 else s
    | 3 => if lanesMapped v && decide (v.skew ≤ 160) then setQuad q { v with step := 4, deskewed := true } s
           else trainFail 0x0803 q 0 s
    | 4 => if v.lanes.all (fun l => bitOf l.req 8) then goto 5 else s
    | 5 => if 16 ≤ v.readyRun then setQuad q { linkInit v with step := 6 } s else s
    | 6 =>
      if 0 < v.txSlot && v.ctrlSeen then
        sendIdent q (setQuad q { v with
          step := 7, state := .ident, trainMs := min 4095 ((croak s - v.trainAt) / msTicks) } s)
      else s
    | _ => s

/-- The chip has taken its links down for good: the control complex or the die-to-die bridge is lost, or a stack has failed (R317). -/
def linksHeld (s : State) : Bool := s.fw.lost || s.rte.bridgeLost || s.lov.stk.any (fun e => e.2.faulted)

/-- A quad with a use that is DOWN and not in maintenance begins training. -/
def trainBegin (q : Nat) (s : State) : State :=
  let v := quad s q
  if v.use ≠ 0 ∧ v.state = .down ∧ !v.maint ∧ !linksHeld s then trainStart q s else s

/-- The mailbox slot whose SELFTEST has a quad reserved (R463). -/
def testSlot (s : State) (q : Nat) : Option Nat :=
  (s.hif.slots.find? (fun e => e.2.work == .waiting && slotCmd e.2 == 0x60 && e.2.scratch.getD 0 3 == 1 &&
    decide (e.2.scratch.getD 1 0 ≤ q ∧ q < e.2.scratch.getD 1 0 + e.2.scratch.getD 2 0))).map (·.1)

/-- A write of LNK_QCTL (R377). One that ends the maintenance of a quad under test takes effect when the test ends. -/
def qctlWrite (q w : Nat) (s : State) : State :=
  let v := quad s q
  let m := bitOf w 0
  let r := bitOf w 1
  if (m || r) && v.reserved && schActive s then linkErr 0x0808 q 0 0 0 s
  else match if !m && v.maint then testSlot s q else none with
  | some i => modMslot i (fun e => { e with scratch := e.scratch ++ [q] }) s
  | none =>
    let s1 := if m && !v.maint then modQuad q (fun x => { x with maint := true }) (quadDown q s)
      else if !m && v.maint then trainBegin q (modQuad q (fun x => { x with maint := false }) s) else s
    if r && !m then trainBegin q (if (quad s1 q).state = .down then s1 else quadDown q s1) else s1

/-- A write of LNK_SLIP (R374): the lane's word boundary moves later. -/
def slipWrite (q w : Nat) (s : State) : State :=
  let n := bits w 11 2
  if 1 ≤ n ∧ n ≤ 895 then
    modQuad q (fun v => { v with lanes := lmod v.lanes (w % 4) (fun l =>
      { l with offset := (l.offset + n) % 896, slipped := (l.slipped + n) % 17920, aligned := false, goodRun := 0 }) }) s
  else s

/-- A write of LNK_RQ: its REQ field (R373). -/
def rqWrite (q lane w : Nat) (s : State) : State :=
  modQuad q (fun v => { v with lanes := lmod v.lanes lane (fun l => { l with req := w % 65536 }) }) s

/-! Meanings. -/

/-- The frame that a quad's lanes bring, read from each lane's word boundary with what the quad knows of them. -/
def quadFrame (s : State) (q : Nat) (g : LaneFrame) : RxFrame :=
  let v := quad s q
  readFrame v.rxNext (v.lanes.map (fun l => (l.farLane, l.inverted)))
    { g with lanes := (g.lanes.zip v.lanes).map (fun e => laneView e.2.slipped e.2.prev e.1) }

/-- Lanes whose word boundary stands off the frames' keep the bits of the frame that has come. -/
def keepBits (q : Nat) (g : LaneFrame) (s : State) : State :=
  if (quad s q).lanes.all (fun l => l.slipped == 0) then s
  else modQuad q (fun v => { v with lanes := v.lanes.zipIdx.map (fun e =>
    { e.1 with prev := if e.1.slipped = 0 then [] else g.lanes.getD e.2 [] }) }) s

/-- PAD_FRAME_RECEIVE. -/
def execPadFrameReceive (q : Fin 128) (frame : LaneFrame) (s : State) : Res :=
  whenUp (fun s => if (quad s q.val).state = .down then s
    else keepBits q.val frame (padFrameReceive q.val (quadFrame s q.val frame) s)) s
/-- LINK_RETRY_FAIL (R370). -/
def execLinkRetryFail (q : Fin 128) (s : State) : Res :=
  whenUp (fun s => if (quad s q.val).state = .down ∨ (quad s q.val).state = .train then s
    else linkFail 0x0804 q.val 0 s) s
/-- TRAINING_START. -/
def execTrainingStart (q : Fin 128) (s : State) : Res := whenUp (trainBegin q.val) s
/-- TRAINING_STEP_END. -/
def execTrainingStepEnd (q : Fin 128) (s : State) : Res := whenUp (stepEnd q.val) s
/-- LNK_TRAIN_FAIL. -/
def execLnkTrainFail (q : Fin 128) (s : State) : Res :=
  whenUp (fun s => if (quad s q.val).state = .train then trainFail 0x0801 q.val 0 s else s) s
/-- TRAINING_RESTART. -/
def execTrainingRestart (q : Fin 128) (s : State) : Res := whenUp (fun s => trainBegin q.val s) s
/-- LNK_RQ_WRITE. -/
def execLnkRqWrite (q : Fin 128) (lane : Fin 4) (value : Word) (s : State) : Res :=
  whenUp (rqWrite q.val lane.val value.toNat) s
/-- LNK_SLIP. -/
def execLnkSlip (q : Fin 128) (value : Word) (s : State) : Res := whenUp (slipWrite q.val value.toNat) s
/-- MAINT. -/
def execMaint (q : Fin 128) (value : Word) (s : State) : Res := whenUp (qctlWrite q.val value.toNat) s
/-- RETRAIN. -/
def execRetrain (q : Fin 128) (value : Word) (s : State) : Res := whenUp (fun s => qctlWrite q.val value.toNat s) s

end Sys2Proof.Machine
end

