-- ==== Sys2Proof/Machine/Align.lean ====
section
/-! DEFINITION. The path to the croak master and the offset along it (R190 to R192). What the links of other chips have measured is an
operand (log 144). -/

namespace Sys2Proof.Machine

/-- The measured offset of the link of chip `c` in direction `d`, where it is in service: this chip's lowest-numbered UP quad knows
its own, and `ls` tells of other chips' links. -/
def linkOffset (s : State) (ls : List ChipLink) (c d : Nat) : Option Int :=
  if c = s.rte.coord then (upQuads s (d + 1) 0).head?.map (fun q => (quad s q).offset)
  else (ls.find? (fun l => l.chip == c && l.dir == d)).map (·.offset)

/-- Chips, with the hops from each to the master over links in service, starting from those already known, the farthest of them `k`
hops away. -/
def masterHops (s : State) (ls : List ChipLink) (fuel : Nat) (seen : List (Nat × Nat)) (k : Nat) : List (Nat × Nat) :=
  match fuel with
  | 0 => seen
  | fuel + 1 =>
    let new := ((s.rte.coord :: ls.map (·.chip)).eraseDups).filter (fun c => !seen.any (fun e => e.1 == c) &&
      (List.range 6).any (fun d => (linkOffset s ls c d).isSome && seen.contains (neighbour s c d, k)))
    if new.isEmpty then seen else masterHops s ls fuel (seen ++ new.map (fun c => (c, k + 1))) (k + 1)

/-- Directions in the order in which R176 takes them towards a chip: X, Y, Z, and on each axis the shorter way first, + where both
are equally short. -/
def wayOrder (s : State) (c t : Nat) : List Nat :=
  (List.range 3).flatMap (fun a =>
    let e := max 1 (extOf s a)
    let f := (axisOf t a + e - axisOf c a) % e
    if 2 * f ≤ e then [2 * a, 2 * a + 1] else [2 * a + 1, 2 * a])

/-- The sum of the offsets along the way of `h` hops from chip `c` to the master. -/
def wayOffset (s : State) (ls : List ChipLink) (seen : List (Nat × Nat)) (h c : Nat) : Option Int :=
  match h with
  | 0 => some 0
  | h + 1 => do
    let d ← (wayOrder s c s.sch.masterXyz).find? (fun d => (linkOffset s ls c d).isSome && seen.contains (neighbour s c d, h))
    let o ← linkOffset s ls c d
    let r ← wayOffset s ls seen h (neighbour s c d)
    pure (o + r)

/-- The hop count of the shortest path to the master, and the offset from the master along it in 1/16 tick (R190). -/
def masterPath (s : State) (ls : List ChipLink) : Option (Nat × Int) :=
  let seen := masterHops s ls (ls.length + 1) [(s.sch.masterXyz, 0)] 0
  (seen.find? (fun e => e.1 == s.rte.coord)).bind (fun e => (wayOffset s ls seen e.2 s.rte.coord).map (fun o => (e.2, o)))

/-- The bound 0.5 + 0.06 h on the alignment error, in 1/16 tick (R190), rounded up to a whole number of them (DESIGN CHOICE, log 171). -/
def alignBound (h : Nat) : Nat := (800 + 96 * h + 99) / 100

/-- The correction of the count, in ticks: the sum of the offsets then rounds to zero. After an election, a count already within 2 ticks
is left as it is (R192): the hop count is zero until then. -/
def alignDelta (s : State) (sum : Int) : Int := if s.sch.hops = 0 ∧ sum.natAbs ≤ 32 then 0 else roundDiv sum 16

/-- ALIGNMENT_CORRECTION: a forward correction adds ticks; a backward one holds the count while they pass. The offsets of
the neighbours move with it. -/
def alignCorrect (ls : List ChipLink) (s : State) : State :=
  if s.sch.state ≠ .idle ∨ s.sch.master ∨ s.sch.term = 0 then s
  else
    match masterPath s ls with
    | none => s
    | some (h, sum) =>
      let delta := alignDelta s sum
      let move (v : Quad) : Quad := if v.measured then { v with offset := v.offset - 16 * delta } else v
      { s with
        quads := s.quads.map (fun e => (e.1, move e.2))
        hif := { s.hif with lastBeat := s.hif.lastBeat + delta.toNat, orphanAt := s.hif.orphanAt + delta.toNat }
        sch := { s.sch with
          croak := (s.sch.croak + delta.toNat) % 2 ^ 64, hops := h % 64, bound := alignBound h % 256
          align := if h ≤ 25 then .aligned else .outOfBound } }

end Sys2Proof.Machine
end

