-- ==== Sys2Proof/Machine/Records.lean ====
section
/-! DEFINITION. What a job leaves behind: the run record (R216, R217), the check of sync objects at task end (R182, R183),
and the checkpoint (R213, R214). -/

namespace Sys2Proof.Machine

/-! Identity and digests. -/

/-- Word `i` of the disabled-unit map in force (R31). -/
def mapWord (s : State) (i : Nat) : Word := tget 0 s.unit.fused i ||| tget 0 s.unit.excl i

/-- The map digest (R36). -/
def mapDigest (s : State) : List Byte := shake256 ((List.range 72).flatMap (fun i => wordBytes (mapWord s i))) 32

/-- The identity public key (R452). -/
def identityBytes : List Byte := (List.range 1952).map Config.identityKey

/-- KEYDIG. -/
def keyDigest : List Byte := shake256 identityBytes 32

/-- An ML-DSA-65 signature over `m` under a context string. -/
def signBytes (m : List Byte) (ctx : String) : List Byte := (List.range 3309).map (Config.sign m (ascii ctx))

/-- A 32-byte digest field; an empty one reads zero. -/
def digestField (d : List Byte) : List Byte := slice d 0 32

/-- FWVER as 8 bytes: major, minor, patch, build. -/
def fwverBytes (s : State) : List Byte := wordBytes s.fw.ver

/-! Task end (R182, R183). -/

/-- The state of an object at launch (Table 5-5). -/
def snapObj (s : State) (o : Nat) : ObjSnap :=
  let v := obj s o
  { obj := o, cfg := BitVec.ofNat 64 (cfgWord v), diff := avail v, isSet := decide (0 < avail v), out := (bline s v.bl).out }

/-- The state of every object. -/
def snapAll (s : State) : List ObjSnap := s.sync.objs.map (fun e => snapObj s e.1)

/-- The snapshot that a launch took of an object: one that the snapshot does not list was free. -/
def snapOf (j : Job) (o : Nat) : ObjSnap :=
  (j.snaps.find? (fun x => decide (x.obj = o))).getD { obj := o, cfg := 0, diff := 0, isSet := false, out := false }

/-- Whether an object holds what a task must restore (Table 5-5). A FABRIC barrier whose mask is empty stands at stage 1 at once (R173)
and so is never found at stage 0 (log 140). -/
def objRestored (s : State) (j : Job) (o : Nat) : Bool :=
  let v := obj s o
  let w := snapOf j o
  let same := decide (BitVec.ofNat 64 (cfgWord v) = w.cfg)
  if v.kind = 0 then bits w.cfg.toNat 1 0 == 0 else
  if v.kind = 1 then
    if v.proxy then same && v.cnt == v.ann
    else same && avail v == w.diff && v.waiters.isEmpty && v.holdq.isEmpty && (!v.counted || v.cnt == v.ann)
  else if v.kind = 2 then
    let l := bline s v.bl
    same && l.out == w.out && v.waiters.isEmpty && l.mask.all (fun i => !l.arrived.contains i) &&
      (!v.fabric || (fline s v.fbl).stage == 0)
  else same && decide (0 < avail v) == w.isSet && v.waiters.isEmpty

/-- The check at task end: an object left otherwise is recorded and quarantined. The objects of the image's SYNCMAP belong to the task of
every job launched on the image; while a scheduled job still uses them, the end of another job does not check them (DESIGN CHOICE, log 158). The spec names no agent for 0x0406: the record names
control complex firmware on core 0 (DESIGN CHOICE, log 138). -/
def taskEnd (j : Nat) (s : State) : State :=
  let v := job s j
  let os := (if v.sched || !schedJobBusy s then s.lay.syncObjs else []).foldl insertNat v.touched
  (os.filter (fun o => !objRestored s v o)).foldl (fun t o => syncErr o 0x0406 (agentFw 0) 0 0 0 t) s

/-! The run record. -/

/-- Bytes 200 to 255 of a run record (Table 6-9). -/
def runAccums (s : State) (j : Job) : List Byte :=
  leBytes 8 (if j.sched then s.sch.slipPads else 0) ++ leBytes 4 (if j.sched then s.sch.slipEvents else 0) ++
    leBytes 4 j.resumes ++ (j.epochs.map (leBytes 4)).flatten ++ leBytes 4 j.ncomp ++ leBytes 4 j.nfail ++
    leBytes 4 j.sat ++ leBytes 4 j.nan ++ leBytes 4 j.esc ++ leBytes 2 j.aflags ++ zeros 6

/-- The run record of a job that ends (Table 6-9, R217). The signature covers bytes 0 to 255 + 48 × NDIG − 1 (R216). -/
def runRecord (s : State) (j : Job) : List Byte :=
  let body := leBytes 4 0x31525243 ++ leBytes 2 j.digests.length ++
    leBytes 2 (pack [(1, bnat j.resumed), (1, bnat j.stopped), (1, bnat j.orphaned)]) ++ wordBytes j.handle ++
    leBytes 2 0x4830 ++ leBytes 1 0xA1 ++ zeros 1 ++ leBytes 2 s.rte.coord ++ leBytes 2 s.lay.chipIdx ++
    fwverBytes s ++ digestField s.lay.fp ++ (if j.sched then digestField s.lay.program else zeros 32) ++ mapDigest s ++
    keyDigest ++ wordBytes j.seed ++ leBytes 8 j.firstL ++ leBytes 8 j.lastL ++ leBytes 8 j.endc ++
    leBytes 4 j.endTerm ++ zeros 4 ++ runAccums s j ++ j.digests.flatMap (·.2)
  body ++ signBytes (body.take (255 + 48 * j.digests.length)) "CHT48-RUN-RECORD"

/-- The job ends: its objects are checked, its run record is written and held, and it enters ENDED (R216, R217). ENDC and
TERM are those of a stop where there was one. -/
def jobEnd (j : Nat) (s : State) : State :=
  let s1 := if (job s j).launched then taskEnd j s else s
  let s2 := modJob j (fun v => if v.stopped ∧ v.sched then v else { v with endc := croak s1, endTerm := s1.sch.term }) s1
  let s3 := modJob j (fun v => { v with record := runRecord s2 v }) s2
  jobState j .ended s3

/-- The collectives of a job. -/
def jobColls (s : State) (j : Nat) : Table Coll := s.colls.filter (fun e => e.2.job == j)

/-- Every collective of the job has reported. -/
def allReported (s : State) (j : Nat) : Bool := (jobColls s j).all (fun e => e.2.reported)

/-! The checkpoint (Tables 6-5 to 6-7). -/

/-- A section: header, body, and zeros to the next multiple of 8. -/
def ckSect (typ id : Nat) (body : List Byte) : List Byte :=
  leBytes 2 typ ++ zeros 2 ++ leBytes 4 id ++ leBytes 8 body.length ++ body ++ zeros ((8 - body.length % 8) % 8)

/-- Loop state, outermost level first (log 43). -/
def loopBytes (ls : List LoopLvl) : List Byte :=
  slice (ls.reverse.flatMap (fun l =>
    leBytes 4 l.remaining ++ leBytes 2 l.start ++ leBytes 2 l.len ++ leBytes 4 l.iter)) 0 48

/-- The body of a newt section. -/
def newtSection (v : Newt) : List Byte :=
  leBytes 2 v.pc ++ leBytes 2 (pack [(1, bnat v.held), (1, bnat (v.state == .done || v.state == .error))]) ++
    loopBytes v.loops ++ (List.range 64).flatMap (fun i => leBytes 4 (tget 0 v.lc i)) ++
    leBytes 4 (escBase - progBytes v) ++ pondRead v (progBytes v) (escBase - progBytes v) ++
    (if v.held then (List.range 64).flatMap (fun i => saveRecord (tget {} v.wr i)) else [])

/-- The body of a sync-object section. A leaf reads as its latched value. -/
def objSection (s : State) (o : Nat) : List Byte :=
  let v := obj s o
  let l := bline s v.bl
  leBytes 8 (cfgWord v) ++ leBytes 8 v.prod ++ leBytes 8 v.cons ++ leBytes 8 v.peer ++ leBytes 8 (v.cnt + 2 ^ 32 * v.ann) ++
    (if v.kind = 2 then
      leBytes 1 (bnat l.out) ++ leBytes 1 (if v.fabric then (fline s v.fbl).round else 0) ++ zeros 6 ++
        (List.range 272).map (fun i => BitVec.ofNat 8 (ofBits ((List.range 8).filter (fun b =>
          decide (8 * i + b < 2113) && (l.out != l.arrived.contains (8 * i + b))))))
     else [])

/-- The scheduled newts with their slots, by slot. -/
def slotNewts (s : State) : List (Nat × Newt) :=
  (s.lay.slotOf.filter (fun e => (newt s e.2).role == .scheduled)).map (fun e => (e.1, newt s e.2))

/-- The sections of a job's checkpoint. -/
def ckptSections (s : State) (j : Nat) : List (List Byte) :=
  let v := job s j
  (slotNewts s).map (fun e => ckSect 1 e.1 (newtSection e.2)) ++
  (s.lay.syncObjs.foldl insertNat v.touched).map (fun o => ckSect 2 o (objSection s o)) ++
  [ckSect 3 0 (runAccums s v)] ++
  ((jobColls s j).filter (fun e => e.2.digest)).map (fun e =>
    ckSect 4 e.1 (leBytes 4 e.2.tiles.length ++ e.2.tiles.flatMap (fun t => leBytes 4 t.1 ++ digestField t.2)))

/-- The checkpoint of a paused job. -/
def checkpoint (s : State) (j : Nat) : List Byte :=
  let v := job s j
  let secs := ckptSections s j
  let body := secs.flatten
  let h := leBytes 4 0x31504B43 ++ leBytes 4 (128 + body.length + 32) ++ wordBytes v.handle ++ digestField s.lay.program ++
    digestField s.lay.fp ++ leBytes 2 (fwMajor s) ++ leBytes 2 s.lay.chipIdx ++ leBytes 1 s.sch.lastLevel ++ zeros 3 ++
    leBytes 8 s.sch.epoch ++ leBytes 8 s.sch.slipPads ++ leBytes 4 (min 0xFFFF s.sch.slipEvents) ++ leBytes 4 v.resumes ++
    wordBytes v.seed ++ leBytes 8 secs.length ++ body
  h ++ shake256 h 32

end Sys2Proof.Machine
end

