-- ==== Sys2Proof/Machine/Schedule.lean ====
section
/-! DEFINITION. The schedule and croak unit (06_schedule_and_determinism.md): job pads, slip, epochs, pause, the end of a
job, alignment, and the election of the croak master (R461). At a pad boundary PAD_BOUNDARY comes first; a freeze, its
end or an epoch boundary that falls due there comes next, and the pad's cells leave with the last of them (log 42). -/

namespace Sys2Proof.Machine

/-- Change the schedule unit. -/
def modSch (f : Sch → Sch) (s : State) : State := { s with sch := f s.sch }

/-! What falls due at the boundary just taken. -/

/-- The job pad at which the current epoch ends. -/
def epochEnd (s : State) : Nat := s.sch.epochStart + epochLen s s.sch.epoch s.sch.level

/-- The freeze of a pending call begins at the job pad just begun (R203). -/
def freezeDue (s : State) : Bool :=
  s.sch.state == .run && (s.sch.callPend.map (fun j => decide (s.sch.jp = j + pgH s))).getD false

/-- The current epoch ends where the job pad just begun begins, and no freeze is due first (R206). -/
def epochDue (s : State) : Bool :=
  s.sch.state == .run && !freezeDue s && decide (s.sch.epoch < pgEpochs s) && decide (s.sch.jp = epochEnd s)

/-- The last quantum has ended (R204). -/
def freezeOver (s : State) : Bool := s.sch.state == .frozen && decide (s.sch.frozenPads = pgSlipq s)

/-! Scheduled cells (R27, R199, R233). -/

/-- The job pad whose positions the pad just begun holds: in a freeze, those of the last pad before it (R203). -/
def posPad (s : State) : Nat := if s.sch.state = .frozen then s.sch.jp - 1 else s.sch.jp

/-- The records of a route of one of this chip's senders, a newt or an endpoint, in the current epoch. -/
def sourceRecs (s : State) (route : Nat) : List (List Byte) :=
  (padsRecs (padsBody s)).filter (fun r => rtNum r == route && rtSkind r != 2 && rtEpoch r == s.sch.epoch)

/-- Positions of spans (position, first pad, last pad) of the current epoch up to job pad `j`. -/
def spansTo (s : State) (j : Nat) (spans : List (Nat × Nat × Nat)) : Nat :=
  (spans.eraseDups.map (fun p => min (j + 1) (s.sch.epochStart + p.2.2 + 1) - (s.sch.epochStart + p.2.1))).sum

/-- Positions that a newt's route has held in the current epoch up to job pad `j`. -/
def positionsTo (s : State) (route j : Nat) : Nat :=
  spansTo s j ((sourceRecs s route).map (fun r => (hopPos (rtHop (padsBody s) r 0), rtFirst r, rtLast r)))

/-- Those of them that are home positions of cells: not the spare ones of its last SLACK pads (R199). -/
def homesTo (s : State) (route j : Nat) : Nat :=
  spansTo s j ((sourceRecs s route).filterMap (fun r => (spareOf s s.sch.level (fedBy s r) r).bind (fun n =>
    if rtFirst r + n ≤ rtLast r then some (hopPos (rtHop (padsBody s) r 0), rtFirst r, rtLast r - n) else none)))

/-- Whether the next cell of a newt's route, which the newt has produced, is behind (R199). -/
def routeBehind (s : State) (route : Nat) : Bool :=
  decide (tget 0 s.sch.routeCnt route < positionsTo s route (s.sch.jp - 1))

/-- Whether a newt that still runs has a cell behind that it has not produced: a home position of a route of its slot has ended, and
fewer cells have been sent. -/
def unsentBehind (s : State) (n : Nat) : Bool :=
  let v := newt s n
  (v.state == .run || v.state == .stall) && !v.abortPend &&
    (padsRecs (padsBody s)).any (fun r => rtSkind r == 1 && rtEpoch r == s.sch.epoch && newtOfSlot s (rtSrc r) == n &&
      decide (tget 0 s.sch.routeCnt (rtNum r) < homesTo s (rtNum r) (s.sch.jp - 1)))

/-- Whether an endpoint on a link that is up has a cell behind (R199, R204): fewer of its cells have come than home positions of its route had
ended when what has come by now was sent (log 163). -/
def endpointBehind (s : State) : Bool :=
  (padsRecs (padsBody s)).any (fun r =>
    let q := hopUnit (rtHop (padsBody s) r 0)
    rtSkind r == 0 && rtEpoch r == s.sch.epoch && (quad s q).state == .up &&
      decide (tget 0 s.sch.routeCnt (rtNum r) < homesTo s (rtNum r) (s.sch.jp - 1 - (quadDimg s q - s.sch.frozenPads))))

/-- The newts' routes and positions of a job pad, ascending: route × 32 + position. -/
def newtKeys (s : State) (j : Nat) : List Nat :=
  (((activeRecs s j).filter (fun e => rtSkind e.2 == 1)).map
    (fun e => 32 * rtNum e.2 + hopPos (rtHop (padsBody s) e.2 0))).foldl insertNat []

/-- The cells of a packet that follow its first one take its number and copies. -/
def renameCells (route : Nat) (h : Packet) (l : List (Nat × Nat × SCell)) : List (Nat × Nat × SCell) :=
  match l with
  | [] => []
  | e :: r =>
    if e.1 ≠ route then e :: renameCells route h r
    else if e.2.2.pos = 0 then e :: r
    else (e.1, e.2.1, { e.2.2 with hdr := h }) :: renameCells route h r

/-- The first cell of a packet of a newt enters the switch core (R274); the others join its copies. -/
def sentFirst (route : Nat) (recs : List (Nat × List Byte)) (c : SCell) (n : Nat) (s : State) : State × SCell :=
  if c.pos ≠ 0 then (if c.hdr.sid = 0 then s else cellJoins c.hdr.sid c.data (c.pos + 1 == cellsOf c.len) s, c)
  else
    let (t, p) := schedEnter [] (recPorts s (recs.map (·.2))) c.hdr c.len c.data s
    (modNewt n (fun v => { v with sent := renameCells route p v.sent }) t, { c with hdr := p })

/-- The newt's next cell takes one position: it enters its newt's slice, once for each destination of the position. Which newt a slot has
differs from part to part (R35), so the slice hop beside a slot stands for the slice of that newt's row (R22, R23, log 143). -/
def takePosition (key : Nat) (s : State) : State :=
  let route := key / 32
  let recs := (activeRecs s (posPad s)).filter (fun e =>
    rtSkind e.2 == 1 && rtNum e.2 == route && hopPos (rtHop (padsBody s) e.2 0) == key % 32)
  let n := newtOfSlot s (rtSrc ((recs.head?.map (·.2)).getD []))
  let v := newt s n
  match v.sent.find? (fun e => e.1 == route) with
  | none => s
  | some e =>
    if croak s / 128 < e.2.1 ∨ (s.sch.state = .frozen ∧ !routeBehind s route) then s
    else
      let (s1, idx) := routeNext route (setNewt n { v with sent := v.sent.erase e } s)
      let (s2, c) := sentFirst route recs e.2.2 n s1
      modSch (fun u => { u with
        flights := u.flights ++ recs.map (fun r =>
          { rno := r.1, idx := idx, island := hopIsland s2 (padsBody s2) r.2 0, cell := c }) }) s2

/-- The cells of the pad just begun leave their newts, and each quad's reserved slots are set. -/
def padCells (s : State) : State :=
  if !(s.sch.state == .run || s.sch.state == .frozen) then s
  else
    let s1 := (newtKeys s (posPad s)).foldl (fun t k => takePosition k t) s
    (padsQuads (padsBody s1)).foldl (fun t q =>
      modQuad q (fun v => { v with schedRes := reservedSlots t q (posPad t) }) t) s1

/-- A cell reaches its last hop: it lands at a newt, or leaves in its slot of the quad's pad frame. -/
def deliverCell (f : Flight) (s : State) : State :=
  let r := padRec s f.rno
  let h := rtHop (padsBody s) r (rtHops r - 1)
  if rtDkind r = 0 then
    match (cellPacket f.cell.hdr f.cell.pos f.cell.data).tag with
    | .coll t =>
      rxTake (newtOfSlot s (rtDest r)) f.rno (f.cell.pos + 1 == cellsOf f.cell.len) f.cell.hdr.stomp
        { addr := rtAddr r + 256 * f.idx, lc := rtLc r, tag := t,
          data := f.cell.data.take (f.cell.len - 256 * f.cell.pos) } s
    | _ => s
  else modQuad (hopUnit h) (fun v => { v with schedTx := v.schedTx ++ [(hopPos h, f.cell)] }) s

/-- Every cell in the pipeline crosses one island boundary (R27). -/
def flightsStep (s : State) : State :=
  s.sch.flights.foldl (fun t f =>
    let g0 : Flight := if f.wait = 0 then { f with hop := f.hop + 1 } else { f with wait := f.wait - 1 }
    let g : Flight := { g0 with island := hopIsland t (padsBody t) (padRec t g0.rno) g0.hop }
    if g.wait = 0 ∧ rtHops (padRec t g.rno) ≤ g.hop + 1 then deliverCell g t
    else modSch (fun u => { u with flights := u.flights ++ [g] }) t) (modSch (fun u => { u with flights := [] }) s)

/-! Lateness (R198, R202). -/

/-- A scheduled newt has a wait of pad group `g` at its head, unable to issue. -/
def groupHeld (s : State) (g : Nat) : Bool :=
  s.newts.any (fun e =>
    let w := wordAt e.2 e.2.pc
    e.2.role == .scheduled && e.2.state == .stall && !e.2.abortPend &&
      (iOpc w == 8 || iOpc w == 9 || iOpc w == 0xB) && iPg w == g)

/-- Whether the first `k` instances of a group still lack waits of this chip. -/
def groupShort (s : State) (g k : Nat) : Bool :=
  decide (0 < k ∧ tget 0 s.sch.waits g < k * pgW s g s.lay.chipIdx) && groupHeld s g

/-- The groups of the current epoch. -/
def epochGroups (s : State) : List Nat := (List.range (pgGroups s)).filter (fun g => pgEpoch s g == s.sch.epoch)

/-- The instances of a group whose call points lie before job pad `j`. -/
def callsPassed (s : State) (g j : Nat) : Nat :=
  ((List.range (pgCount s g)).filter (fun k =>
    decide (s.sch.epochStart + dueFrom s g k s.sch.level + pgSlack s g < j + pgH s))).length

/-- Job pad `j` has ended: an instance that is late at its call point raises a call stamped j + 1 (R202). -/
def slipCall (j : Nat) (s : State) : State :=
  if (epochGroups s).any (fun g => (callAt s g j).any (fun k => groupShort s g (k + 1))) then
    modSch (fun u => { u with called := true, calledAt := some (croak s), callPend := some (min (j + 1) (u.callPend.getD (j + 1))) }) s
  else s

/-! Pads (R196, R203, R204). -/

/-- Remember the job pad whose positions a pad holds. -/
def padHist (j : Nat) (s : State) : State :=
  modSch (fun u => { u with hist := (((croak s / 128) % 65536, j) :: u.hist).take 16 }) s

/-- The boundary that the count stands at has been taken. -/
def boundaryTaken (s : State) : Bool := (s.sch.hist.head?.map (·.1)) == some (croak s / 128 % 65536)

/-- PAD_BOUNDARY. -/
def padBoundary (s : State) : State :=
  if croak s % 128 ≠ 0 then s
  else match s.sch.state with
    | .run =>
      if boundaryTaken s ∨ freezeDue s ∨ epochDue s then s
      else
        let j := s.sch.jp
        let s1 := slipCall j (flightsStep s)
        let s2 := padHist (j + 1) (modSch (fun u => { u with jp := j + 1 }) s1)
        if freezeDue s2 ∨ epochDue s2 then s2 else padCells s2
    | .frozen =>
      if boundaryTaken s ∨ freezeOver s then s
      else
        let s1 := flightsStep s
        let next := s1.sch.frozenPads + 1
        if next < pgSlipq s1 then
          padCells (padHist (s1.sch.jp - 1) (modSch (fun u => { u with
            frozenPads := next, slipPads := (u.slipPads + 1) % 2 ^ 48 }) s1))
        else if s1.sch.quantum ≤ s1.sch.extQuantum then
          padCells (padHist (s1.sch.jp - 1) (modSch (fun u => { u with
            frozenPads := 0, quantum := u.quantum + 1, slipPads := (u.slipPads + 1) % 2 ^ 48 }) s1))
        else padHist s1.sch.jp (modSch (fun u => { u with frozenPads := next }) s1)
    | _ => flightsStep s

/-- FREEZE_BEGIN (R203): the pad just begun is frozen pad 0 of quantum 1. -/
def freezeBegin (s : State) : State :=
  if !freezeDue s then s
  else
    padCells (padHist (s.sch.jp - 1) (modSch (fun u => { u with
      state := .frozen, quantum := 1, frozenPads := 0, extQuantum := 0, lastJ := u.callPend, callPend := none,
      slipPads := (u.slipPads + 1) % 2 ^ 48, slipEvents := satAdd 0xFFFFFFFF u.slipEvents 1, hist := u.hist.drop 1 }) s))

/-- EXTENSION_CALL (R204). -/
def extensionCall (s : State) : State :=
  let short := (epochGroups s).any (fun g => groupShort s g (callsPassed s g s.sch.jp))
  let behind := (scheduledNewts s).any (fun n => (newt s n).sent.any (fun e => routeBehind s e.1) || unsentBehind s n) || endpointBehind s
  if s.sch.state = .frozen ∧ s.sch.frozenPads = pgSlipq s - pgH s ∧ (short ∨ behind) then
    modSch (fun u => { u with extended := true, extendedAt := some (croak s), extQuantum := max u.extQuantum u.quantum }) s
  else s

/-- FREEZE_END (R204): JP resumes, and the pad just begun is its job pad. -/
def freezeEnd (s : State) : State :=
  if !freezeOver s then s
  else
    let s1 := modSch (fun u => { u with state := .run, quantum := 0, extQuantum := 0, frozenPads := 0 }) s
    if epochDue s1 then s1 else padCells s1

/-! Epochs (R197, R206 to R208). -/

/-- DENSITY_SAMPLE (R208): the byte for the next epoch goes on FBL62. -/
def densitySample (s : State) : State :=
  let own := ownEpochByte s
  if s.sch.state = .run ∧ s.sch.jp + 2 * pgH s = epochEnd s then
    modSch (fun u => { u with
      fbl62 := if u.fbl62 / 8 = own / 8 then epochBytes u.fbl62 own else own, sampled := some u.jp }) s
  else s

/-- A scheduled newt stands at the TBND that ends the epoch, or has ended. -/
def newtAtEnd (s : State) (v : Newt) : Bool :=
  v.state == .done || v.state == .error ||
    ((v.state == .run || v.state == .stall) && iOpc (wordAt v v.pc) == 0xD && v.epochs == s.sch.epoch)

/-- The condition of an epoch boundary (R197). -/
def epochClear (s : State) : Bool :=
  (scheduledNewts s).all (fun n => newtAtEnd s (newt s n) && (newt s n).sent.isEmpty) && s.sch.flights.isEmpty &&
    s.newts.all (fun e => e.2.escapes.isEmpty) && s.quads.all (fun e => e.2.schedTx.isEmpty)

/-- An epoch begins at its level: the job's count of epochs, SCH_STAT.THINNED. -/
def epochBegin (s : State) : State :=
  let l := s.sch.level
  let s1 := if 0 < l then modSch (fun u => { u with thinned := true, thinnedAt := some (croak s) }) s else s
  match s.sch.job with
  | none => s1
  | some j => modJob j (fun v => { v with epochs := lmod v.epochs l (· + 1) }) s1

/-- The span pauses at the boundary (R95, R208, R213). -/
def epochPause (s : State) : State :=
  let s1 := (scheduledNewts s).foldl (fun t n => pauseNewt n (modNewt n (fun v =>
    if v.state = .run ∨ v.state = .stall then { v with pausePend := true } else v) t))
    (modSch (fun u => { u with state := .paused, pausePend := false, hist := [] }) s)
  match s.sch.job with
  | none => s1
  | some j => jobState j .paused s1

/-- EPOCH_BOUNDARY. A byte for another epoch decides nothing, and the level stays. -/
def epochBoundary (s : State) : State :=
  if !epochDue s then s
  else if !epochClear s then
    jobStop 0x0B09 { fchip := fchipOf s.rte.coord, funit := 0, fkind := 6 } (schErr 0x0B09 0 0 0 0 0 s)
  else
    let d := s.sch.fbl62
    let given := decide (d / 8 = (s.sch.epoch + 1) % 32)
    let s1 := wantFall (modSch (fun u => { u with
      epoch := u.epoch + 1, epochStart := u.jp, lastLevel := u.level, routeCnt := []
      level := if given then min 2 (d % 4) else u.level }) s)
    let s2 := if s1.sch.level = s1.sch.lastLevel then s1
      else { s1 with therm := { s1.therm with density := s1.therm.density ++ [(s1.sch.level, s1.sch.epoch)] } }
    if given && bitOf d 2 then epochPause s2
    else if s2.sch.epoch < pgEpochs s2 then padCells (epochBegin s2)
    else s2

/-! Launch (R195, R196, R432). -/

/-- A scheduled newt starts, or goes on from its pause, when the launch count is reached. -/
def newtGo (v : Newt) : Newt :=
  if v.role = .scheduled ∧ (v.state = .idle ∨ v.state = .paused) then { v with state := .run, stall := 0 } else v

/-- LAUNCH_COUNT_REACHED. -/
def launchReached (j : Nat) (s : State) : State :=
  let v := job s j
  if v.state ≠ .armed ∨ croak s < v.launchL then s
  else
    let s1 := jobState j .running (modJob j (fun v => { v with orphaned := v.orphaned || s.hif.state == .orphan }) s)
    if !v.sched ∨ s.sch.job ≠ some j ∨ s.sch.state ≠ .armed then s1
    else
      let s1' := modSch (fun u => { u with state := .run, hist := [] }) s1
      let s2 := if s1'.sch.epoch < pgEpochs s1' then epochBegin s1' else s1'
      let s3 := (scheduledNewts s2).foldl (fun t n => modNewt n newtGo t) s2
      padCells (padHist s3.sch.jp s3)

/-! Pause and checkpoint (R213). -/

/-- PAUSE_REQUEST. -/
def pauseRequest (s : State) : State :=
  match s.sch.job with
  | none => s
  | some j =>
    if (job s j).ckptPending.isSome ∧ (s.sch.state = .run ∨ s.sch.state = .frozen ∨ s.sch.state = .armed) ∧
        (jobColls s j).all (fun e => !e.2.posted || e.2.reported) then
      sampleAgain (modSch (fun u => { u with pausePend := true }) s)
    else s

/-- CHECKPOINT_WRITE: JOB_CHECKPOINT in slot `i` completes. -/
def checkpointWrite (i : Nat) (s : State) : State :=
  match s.sch.job with
  | none => s
  | some j =>
    let v := job s j
    if v.ckptPending ≠ some i ∨ s.sch.state ≠ .paused ∨
        (scheduledNewts s).any (fun n => (newt s n).pausePend || !(newt s n).inflight.isEmpty) then s
    else
      let c := checkpoint s j
      let s1 := modJob j (fun v => { v with ckptPending := none }) s
      if v.ckptLimit < c.length then cmdFail i 0x0114 s1
      else cmdDone i (rp 16 (leBytes 8 c.length ++ leBytes 8 s.sch.epoch)) (lovStore v.ckptAddr c s1)

/-! The end of a job (R216, R217, R432). -/

/-- Whether a job's end has come: every scheduled newt has issued END and every collective has reported; or a stop's
collectives are decided. -/
def jobOver (s : State) (j : Nat) : Bool :=
  let v := job s j
  let decided := (jobColls s j).all (fun e => e.2.reported || e.2.state != .pending)
  if v.state != .running && v.state != .armed && v.state != .paused then false
  else if v.sched then
    if s.sch.job != some j then false
    else if s.sch.state == .stopped then decided
    else (s.sch.state == .run || s.sch.state == .frozen) && allReported s j &&
      (scheduledNewts s).all (fun n => (newt s n).state == .done && !(newt s n).aborted)
  else if v.stopped then decided
  else v.finishing && allReported s j

/-- JOB_DONE: DONE or STOPPED, the run record, then IDLE (Table 6-3). -/
def jobDone (j : Nat) (s : State) : State :=
  if !jobOver s j then s
  else if (job s j).sched then
    jobEnd j (modSch (fun u => { u with
      state := .idle, job := none, pausePend := false, quantum := 0, callPend := none, stopSent := false, fbl62 := 0,
      flights := [], hist := [] }) s)
  else jobEnd j s

/-! Alignment and the croak master (R190 to R192, R461). -/

/-- MASTER_HEARTBEAT. -/
def masterHeartbeat (s : State) : State :=
  if s.sch.master then modSch (fun u => { u with hbSeq := (u.hbSeq + 1) % 2 ^ 32 }) s else s

/-- SCH_MASTER_LOST: a chip with a master that is another chip, or that an election heard of first has unaligned, has seen no new sequence
(R192). -/
def masterLost (s : State) : State :=
  if s.sch.master ∨ (s.sch.align = .unaligned ∧ !(s.sch.electing && s.sch.term != 0)) then s
  else
    modSch (fun u => { u with align := .unaligned })
      (jobStop 0x0B02 { fchip := fchipOf s.rte.coord, funit := 0, fkind := 6 } (schErr 0x0B02 0 0 0 0 0 s))

/-- MPRIO of this chip (R286). -/
def mprio (s : State) : Nat := fieldAt s.lay.coordSec 12 1

/-- This chip's BID. -/
def ownBid (term : Nat) (s : State) : Bid := { term := term, mprio := mprio s, coord := s.rte.coord }

/-- Enter the election for a term: a BID goes to every chip in service. -/
def electEnter (term : Nat) (s : State) : State :=
  let b := ownBid term s
  (otherChips s).foldl (fun t c => mgmt "BID" c [b.term, b.mprio, b.coord] t)
    (modSch (fun u => { u with electing := true, electTerm := term, bids := [b], align := .unaligned, master := false }) s)

/-- The highest term that the chip knows. -/
def knownTerm (s : State) : Nat := max s.sch.term s.sch.electTerm

/-- ELECTION_OPEN. -/
def electOpen (c : ElectionCause) (s : State) : State :=
  let seen := match c with
    | .termDiffers t => max (knownTerm s) t
    | _ => knownTerm s
  if !s.lay.startupDone ∨ s.sch.electing ∨ !fwRuns s then s else electEnter ((seen + 1) % 2 ^ 32) s

/-- BID_RECEIVE. -/
def bidReceive (b : Bid) (s : State) : State :=
  if !s.lay.startupDone ∨ !fwRuns s then s
  else
    let s1 := if knownTerm s < b.term then electEnter b.term s else s
    if s1.sch.electing && b.term == s1.sch.electTerm && !s1.sch.bids.any (fun e => e.coord == b.coord) then
      modSch (fun u => { u with bids := u.bids ++ [b] }) s1
    else s1

/-- Whether a bid beats another: the higher MPRIO, then the lower coordinate. -/
def bidBeats (a b : Bid) : Bool := decide (b.mprio < a.mprio ∨ (a.mprio = b.mprio ∧ a.coord < b.coord))

/-- The winner of the bids collected. -/
def bidWinner (bs : List Bid) : Option Bid :=
  (bs.filter (fun b => decide (b.mprio ≠ 0))).foldl (fun w b =>
    match w with
    | none => some b
    | some a => if bidBeats b a then some b else some a) none

/-- ELECTION_DECIDE. With no eligible bid there is no master, and 0x0C16 is raised. -/
def electDecide (s : State) : State :=
  if !s.sch.electing ∨ !fwRuns s then s
  else match bidWinner s.sch.bids with
    | none => raise { code := 0x0C16, d := [s.sch.electTerm] } (modSch (fun u => { u with electing := false, bids := [] }) s)
    | some b =>
      let own := decide (b.coord = s.rte.coord)
      logOpen 1 7 (modSch (fun u => { u with
        electing := false, bids := [], term := u.electTerm, master := own, masterXyz := b.coord, hbSeq := 0
        hops := 0, bound := 0, align := if own then .aligned else .measuring }) s)

/-- ELECTION_RETRY: the last election had no eligible bid. -/
def electRetry (s : State) : State :=
  if !s.lay.startupDone ∨ s.sch.electing ∨ s.sch.electTerm ≤ s.sch.term ∨ !fwRuns s then s
  else electEnter ((knownTerm s + 1) % 2 ^ 32) s

/-! Meanings. -/

/-- PAD_BOUNDARY. -/
def execPadBoundary (s : State) : Res := whenUp padBoundary s
/-- LAUNCH_COUNT_REACHED. -/
def execLaunchCountReached (j : Fin 64) (s : State) : Res := whenUp (launchReached j.val) s
/-- FREEZE_BEGIN. -/
def execFreezeBegin (s : State) : Res := whenUp freezeBegin s
/-- EXTENSION_CALL. -/
def execExtensionCall (s : State) : Res := whenUp extensionCall s
/-- FREEZE_END. -/
def execFreezeEnd (s : State) : Res := whenUp freezeEnd s
/-- DENSITY_SAMPLE. -/
def execDensitySample (s : State) : Res := whenUp densitySample s
/-- EPOCH_BOUNDARY. -/
def execEpochBoundary (s : State) : Res := whenUp epochBoundary s
/-- PAUSE_REQUEST. -/
def execPauseRequest (s : State) : Res := whenUp pauseRequest s
/-- CHECKPOINT_WRITE. -/
def execCheckpointWrite (slot : Fin 256) (s : State) : Res := whenUp (checkpointWrite slot.val) s
/-- JOB_DONE. -/
def execJobDone (j : Fin 64) (s : State) : Res := whenUp (jobDone j.val) s
/-- MASTER_HEARTBEAT. -/
def execMasterHeartbeat (s : State) : Res := whenUp masterHeartbeat s
/-- SCH_MASTER_LOST. -/
def execSchMasterLost (s : State) : Res := whenUp masterLost s
/-- ALIGNMENT_CORRECTION, with the links of the other chips along each axis. -/
def execAlignmentCorrection (xLinks yLinks zLinks : List ChipLink) (s : State) : Res :=
  whenUp (alignCorrect (xLinks ++ yLinks ++ zLinks)) s
/-- ELECTION_OPEN. -/
def execElectionOpen (c : ElectionCause) (s : State) : Res := whenUp (electOpen c) s
/-- BID_RECEIVE. -/
def execBidReceive (b : Bid) (s : State) : Res := whenUp (bidReceive b) s
/-- ELECTION_DECIDE. -/
def execElectionDecide (s : State) : Res := whenUp electDecide s
/-- ELECTION_RETRY. -/
def execElectionRetry (s : State) : Res := whenUp electRetry s

end Sys2Proof.Machine
end

