-- ==== Sys2Proof/Machine/Image.lean ====
section
/-! DEFINITION. The layout image as bytes (R221 to R240): header, chip table, parts and sections, the checks of LOAD_LAYOUT
that look at the file alone, and digests. -/

namespace Sys2Proof.Machine

/-! Header (Table 7-1). -/

/-- KIND. -/
def imKind (f : List Byte) : Nat := fieldAt f 6 1
/-- Torus extent of an axis. -/
def imExt (f : List Byte) (a : Nat) : Nat := fieldAt f (12 + a) 1
/-- NCHIP as the extents give it. -/
def imChips (f : List Byte) : Nat := imExt f 0 * imExt f 1 * imExt f 2
/-- CTAB_OFF. -/
def imCtab (f : List Byte) : Nat := fieldAt f 32 8
/-- COMMON_OFF. -/
def imCommonOff (f : List Byte) : Nat := fieldAt f 40 8
/-- COMMON_LEN. -/
def imCommonLen (f : List Byte) : Nat := fieldAt f 48 8
/-- SIG_OFF. -/
def imSig (f : List Byte) : Nat := fieldAt f 56 8
/-- PROGRAM. -/
def imProgram (f : List Byte) : List Byte := slice f 96 32
/-- The common part. -/
def imCommon (f : List Byte) : List Byte := if imCommonOff f = 0 then [] else slice f (imCommonOff f) (imCommonLen f)

/-! Chip table (Table 7-2). -/

/-- Entry `i` of the chip table. -/
def ctEntry (f : List Byte) (i : Nat) : List Byte := slice f (imCtab f + 64 * i) 64
/-- All entries. -/
def ctEntries (f : List Byte) : List (List Byte) := (List.range (imChips f)).map (ctEntry f)
/-- COORD. -/
def ctCoord (e : List Byte) : Nat := fieldAt e 0 2
/-- CHIPIDX. -/
def ctIdx (e : List Byte) : Nat := fieldAt e 2 2
/-- CROLE. -/
def ctRole (e : List Byte) : Nat := fieldAt e 4 1
/-- The part that an entry names; empty when the file omits it. -/
def ctPart (f e : List Byte) : List Byte := if fieldAt e 8 8 = 0 then [] else slice f (fieldAt e 8 8) (fieldAt e 16 8)
/-- The entry of a coordinate. -/
def ctFind (f : List Byte) (coord : Nat) : Option (List Byte) := (ctEntries f).find? (fun e => ctCoord e == coord)

/-- The layout fingerprint (R226). -/
def imFp (f : List Byte) : List Byte := shake256 (f.take 256 ++ slice f (imCtab f) (64 * imChips f)) 32

/-! Parts (Tables 7-3, 7-4). -/

/-- The directory of a part: (TYPE, INST, OFFSET, LENGTH). -/
def partDir (p : List Byte) : List (Nat × Nat × Nat × Nat) :=
  (List.range (fieldAt p 6 2)).map (fun i =>
    (fieldAt p (64 + 24 * i) 2, fieldAt p (66 + 24 * i) 2, fieldAt p (72 + 24 * i) 8, fieldAt p (80 + 24 * i) 8))
/-- A section's body. -/
def sectOpt (p : List Byte) (typ inst : Nat) : Option (List Byte) :=
  ((partDir p).find? (fun e => e.1 == typ && e.2.1 == inst)).map (fun e => slice p e.2.2.1 e.2.2.2)
/-- A section's body, empty when the part holds none. -/
def sectionOf (p : List Byte) (typ inst : Nat) : List Byte := (sectOpt p typ inst).getD []

/-- Ranges (offset, length) that lie in order without overlap. -/
def rangesOrdered (rs : List (Nat × Nat)) : Bool := decide (rs.Pairwise (fun a b => a.1 + a.2 ≤ b.1))

/-- Sort ranges by offset. -/
def sortRanges (rs : List (Nat × Nat)) : List (Nat × Nat) :=
  rs.foldl (fun l r => l.takeWhile (fun e => decide (e.1 ≤ r.1)) ++ [r] ++ l.dropWhile (fun e => decide (e.1 ≤ r.1))) []

/-- A part's structure (R223). DESIGN CHOICE (log 145): sections that overlap are refused with the structure; R223 asks only that each
begin at a multiple of 64 bytes and lie inside the part. -/
def partOk (coord : Nat) (p : List Byte) : Bool :=
  let n := fieldAt p 6 2
  decide (64 + 24 * n ≤ p.length ∧ fieldAt p 0 4 = 0x504C5443 ∧ fieldAt p 4 2 = coord ∧ 1 ≤ n ∧ n ≤ 64) &&
  allZero (slice p 8 56) && (List.range n).all (fun i => fieldAt p (68 + 24 * i) 4 == 0) &&
  decide (((partDir p).map (fun e => 65536 * e.1 + e.2.1)).Pairwise (· < ·)) &&
  (partDir p).all (fun e => decide (e.2.2.1 % 64 = 0 ∧ 64 + 24 * n ≤ e.2.2.1 ∧ e.2.2.1 + e.2.2.2 ≤ p.length)) &&
  rangesOrdered (sortRanges ((partDir p).map (fun e => (e.2.2.1, e.2.2.2))))

/-! Sections of other chapters. -/

/-- Quad entry of a LINKDIV body (Table 9-2). -/
def ldQuad (b : List Byte) (q : Nat) : Nat := fieldAt b (16 + 2 * q) 2
/-- Quads of a use (and port). -/
def ldQuads (b : List Byte) (use port : Nat) : List Nat :=
  (List.range 128).filter (fun q => ldQuad b q == use + 16 * port)

/-- A LINKDIV body that meets R284. -/
def linkdivOk (f b : List Byte) : Bool :=
  let n (d : Nat) := (ldQuads b (d + 1) 0).length
  let ports := ((List.range 128).filterMap (fun q =>
    if ldQuad b q % 16 = 7 then some (ldQuad b q / 16) else none)).foldl insertNat []
  b.length == 272 && allZero (slice b 7 9) &&
  (List.range 128).all (fun q => decide (ldQuad b q < 2048 ∧ ldQuad b q % 16 ≤ 7 ∧ (ldQuad b q % 16 ≠ 7 → ldQuad b q < 16))) &&
  (List.range 6).all (fun d => decide (n d ≤ 32) &&
    (if n d = 0 then fieldAt b d 1 == 0 else decide (1 ≤ fieldAt b d 1 ∧ fieldAt b d 1 ≤ 3))) &&
  (List.range 3).all (fun a => decide (n (2 * a) = n (2 * a + 1)) &&
    (if imExt f a = 1 then n (2 * a) == 0 else decide (1 ≤ n (2 * a)))) &&
  decide (fieldAt b 6 1 = ports.length) && ports.all (fun p =>
    let qs := ldQuads b 7 p
    (qs.length == 1 || qs.length == 2 || qs.length == 4 || qs.length == 8) && decide (qs.headD 0 % qs.length = 0) &&
      qs == (List.range qs.length).map (qs.headD 0 + ·))

/-- The quads as a LINKDIV body divides them. -/
def ldTable (b : List Byte) (qs : Table Quad) : Table Quad :=
  (List.range 128).foldl (fun t q =>
    let e := ldQuad b q
    let mates := ldQuads b (e % 16) (e / 16)
    tset {} t q { tget {} qs q with use := e % 16, port := e / 16,
                                    qidx := if e % 16 = 0 then 0 else (mates.takeWhile (· < q)).length }) qs

/-- A chip with the division, coordinate and extents of an image, to hold sections against. -/
def imageChip (f b : List Byte) (coord : Nat) : State :=
  { rte := { coord := coord, extX := imExt f 0, extY := imExt f 1, extZ := imExt f 2 }, quads := ldTable b [] }

/-- A COORD body that meets R286. -/
def coordOk (c : State) (b : List Byte) : Bool :=
  b.length == 16 && allZero (slice b 13 3) && (List.range 6).all (fun d =>
    fieldAt b (2 * d) 2 == (if (portQuads c (128 + d)).isEmpty then 0xFFFF else neighbour c c.rte.coord d))

/-- A ROUTE body that meets R298 and R299. -/
def routeOk (c : State) (b : List Byte) : Bool :=
  decide (fieldAt b 0 4 = torusChips c ∧ b.length = 16 + torusChips c) && allZero (slice b 4 12) &&
    (List.range (torusChips c)).all (fun i => entryOk c i (fieldAt b (16 + i) 1))

/-- The bank that a ROUTE body loads. -/
def routeBank (b : List Byte) : Table Nat :=
  (List.range (fieldAt b 0 4)).foldl (fun t i => tset 0 t i (fieldAt b (16 + i) 1)) []

/-- Ports that a chip's LINKDIV creates, ascending. -/
def chipPorts (c : State) : List Nat := (List.range 134).filter (portExists c)

/-- A BUFPART body that R278 does not call malformed. -/
def bufpartOk (c : State) (b : List Byte) : Bool :=
  let ps := chipPorts c
  let r (i : Nat) := slice b (64 + 32 * i) 32
  let c1 : State := { c with swc := { c.swc with bufpart := b } }
  decide (b.length = 64 + 32 * ps.length ∧ fieldAt b 18 2 = ps.length ∧ fieldAt b 0 1 ≤ 64 ∧ fieldAt b 0 1 % 2 = 0 ∧
    fieldAt b 2 1 ≤ 7 ∧ fieldAt b 3 1 = 0 ∧ fieldAt b 7 1 = 0 ∧ 1 ≤ fieldAt b 4 1 ∧ 1 ≤ fieldAt b 5 1 ∧ 1 ≤ fieldAt b 6 1 ∧
    fieldAt b 8 4 ≤ 65536 ∧ fieldAt b 12 4 ≤ 65536) &&
  [0, 2, 8, 10].contains (fieldAt b 1 1) && (tmoTicks (fieldAt b 16 2)).isSome && allZero (slice b 20 44) &&
  (List.range ps.length).all (fun i =>
    decide (fieldAt (r i) 0 2 = ps.getD i 0) && allZero (slice (r i) 20 12) &&
    (if ps.getD i 0 < 128 then decide (16 ≤ fieldAt (r i) 2 2 ∧ fieldAt (r i) 2 2 ≤ 4096) else fieldAt (r i) 2 2 == 0) &&
    (List.range 8).all (fun k => decide (16 ≤ fieldAt (r i) (4 + 2 * k) 2))) &&
  (List.range 2).all (fun d => decide (65536 ≤ sharedSize c1 d))

/-! STACKPLAN (R392, R393). -/

/-- Offsets of a pseudo-channel's instants of the tags allowed. -/
def spOffsets (b : List Byte) (st p : Nat) (hot : Bool) : List Nat :=
  ((spInst b).filter (fun e => e.2.1 == st && e.2.2.1 == p && (hot || e.2.2.2 == 0))).map (·.1)
/-- Successive instants, across the end of the period, are at most `m` pads apart. -/
def spGaps (b : List Byte) (os : List Nat) (m : Nat) : Bool :=
  match os with
  | [] => false
  | o :: _ => ((os.zip (os.drop 1 ++ [o + spPeriod b])).all (fun e => decide (e.2 ≤ e.1 + m)))
/-- Two windows overlap. -/
def spMeet (a b : List Byte) : Bool :=
  fieldAt a 2 1 == fieldAt b 2 1 && fieldAt a 4 4 &&& fieldAt b 4 4 != 0 &&
    decide (fieldAt a 8 2 < fieldAt b 8 2 + fieldAt b 10 2 ∧ fieldAt b 8 2 < fieldAt a 8 2 + fieldAt a 10 2)

/-- A STACKPLAN body that R393 does not call malformed. -/
def stackplanOk (b : List Byte) : Bool :=
  let ins := spInst b
  let ws := spWins b
  let per := spPeriod b
  decide (24 ≤ per ∧ per ≤ 4096 ∧ b.length = 16 + 8 * ins.length + 16 * ws.length) && allZero (slice b 10 6) &&
  (List.range ins.length).all (fun i => allZero (slice b (16 + 8 * i + 5) 3)) &&
  ins.all (fun e => decide (e.1 < per ∧ e.2.1 ≤ 3 ∧ e.2.2.1 ≤ 31 ∧ e.2.2.2 ≤ 1)) &&
  decide ((ins.map (fun e => 65536 * (32 * e.2.1 + e.2.2.1) + e.1)).Pairwise (· < ·)) &&
  ws.all (fun w => decide (fieldAt w 0 2 ≤ 255 ∧ fieldAt w 2 1 ≤ 3 ∧ fieldAt w 3 1 ≤ 64 ∧ fieldAt w 8 2 < per ∧
    1 ≤ fieldAt w 10 2 ∧ fieldAt w 8 2 + fieldAt w 10 2 ≤ per) && allZero (slice w 12 4)) &&
  decide ((ws.map (fun w => fieldAt w 0 2)).Pairwise (· < ·)) &&
  decide (((ws.map (fun w => fieldAt w 3 1)).filter (· != 0)).Nodup) &&
  ws.all (fun w => ins.all (fun e => !(e.2.1 == fieldAt w 2 1 && bitOf (fieldAt w 4 4) e.2.2.1 &&
    decide (fieldAt w 8 2 ≤ e.1 ∧ e.1 < fieldAt w 8 2 + fieldAt w 10 2)))) &&
  decide (ws.Pairwise (fun a b => spMeet a b = false)) &&
  (List.range 4).all (fun st => (List.range 32).all (fun p =>
    spGaps b (spOffsets b st p false) 48 && spGaps b (spOffsets b st p true) 24))

/-! LOGIC (R230). -/

/-- A count of the LOGIC header: 0 NCOLL, 1 NGROUP, 2 NWEIGHT, 3 NEPIPAR, 4 NTABLE. -/
def lgCount (b : List Byte) (i : Nat) : Nat := fieldAt b (4 * i) 4
/-- Descriptor `i`. -/
def lgDesc (b : List Byte) (i : Nat) : List Byte := slice b (32 + 64 * i) 64
/-- All descriptors. -/
def lgDescs (b : List Byte) : List (List Byte) := (List.range (lgCount b 0)).map (lgDesc b)
/-- Objects in the index. -/
def lgObjs (b : List Byte) : Nat := lgCount b 1 + lgCount b 2 + lgCount b 3
/-- Offset of index entry `i`. -/
def lgIdx (b : List Byte) (i : Nat) : Nat := 32 + 64 * lgCount b 0 + 16 * i
/-- Object `i` of the index. -/
def lgObj (b : List Byte) (i : Nat) : List Byte := slice b (fieldAt b (lgIdx b i) 8) (fieldAt b (lgIdx b i + 8) 8)
/-- Group `i`. -/
def lgGroup (b : List Byte) (i : Nat) : List Byte := lgObj b i
/-- Weight `i`. -/
def lgWeight (b : List Byte) (i : Nat) : List Byte := lgObj b (lgCount b 1 + i)
/-- Epilogue parameter object `i`. -/
def lgEpipar (b : List Byte) (i : Nat) : List Byte := lgObj b (lgCount b 1 + lgCount b 2 + i)
/-- Table entries: (id, digest). -/
def lgTables (b : List Byte) : List (Nat × List Byte) :=
  (List.range (lgCount b 4)).map (fun i =>
    let o := lgIdx b (lgObjs b) + 40 * i
    (fieldAt b o 2, slice b (o + 8) 32))

/-- A descriptor of LOGIC (R137, R138, R229): its fields, its numbers, its formats and its shape. A group, weight or parameter number is
below its count, and a table id from 64 has its entry (R230). -/
def logicDescOk (b d : List Byte) : Bool :=
  let op := cdOp d
  let w := if opContracts op then lgWeight b (cdWeight d) else []
  descFields d && decide (cdGroup d < lgCount b 1 ∧ cdGroup d < 2 ^ 16) &&
    (!opContracts op || decide (cdWeight d < lgCount b 2)) &&
    (!opFused op || (decide (cdEpipar d < lgCount b 3) && epOk (lgEpipar b (cdEpipar d)) d)) &&
    formatsOk d w && shapeOk d (lgGroup b (cdGroup d)) w &&
    (decide (cdTable d < 64) || (lgTables b).any (fun t => t.1 == cdTable d))

/-- The objects of LOGIC: group records (R125), weight objects and epilogue parameter objects (R139), each as long as its content asks. -/
def logicObjsOk (ext : Nat → Nat) (isPort : Nat → Nat → Bool) (b : List Byte) : Bool :=
  (List.range (lgCount b 1)).all (fun i =>
    groupRecordOk ext isPort (lgGroup b i) && decide (grpSize (lgGroup b i) ≤ (lgGroup b i).length)) &&
  (List.range (lgCount b 2)).all (fun i => wtOk (lgWeight b i) && fbOk (wtFmt (lgWeight b i)) && decide (wtSize (lgWeight b i) ≤ (lgWeight b i).length)) &&
  (List.range (lgCount b 3)).all (fun i =>
    let e := epiAt (objPond (lgEpipar b i)) 0
    epiFields (objPond (lgEpipar b i)) e && epiAligned e && decide (32 ≤ (lgEpipar b i).length)) &&
  (lgDescs b).all (fun d => !opFused (cdOp d) ||
    (let x := lgEpipar b (cdEpipar d)
     decide (epSize x (epiEntries d (lgWeight b (cdWeight d))) ≤ x.length)))

/-- The bytes between the bodies of LOGIC's objects, given as (offset, length) in order, are zero. -/
def gapsZero (b : List Byte) (objs : List (Nat × Nat)) : Bool :=
  (objs.zip (objs.drop 1)).all (fun e => allZero (slice b (e.1.1 + e.1.2) (e.2.1 - (e.1.1 + e.1.2))))

/-- A LOGIC body that meets R229 and R230, with descriptors and objects that R40, R125, R138 and R139 do not reject. -/
def logicOk (ext : Nat → Nat) (isPort : Nat → Nat → Bool) (b : List Byte) : Bool :=
  let h := lgIdx b (lgObjs b) + 40 * lgCount b 4
  let objs := (List.range (lgObjs b)).map (fun i => (fieldAt b (lgIdx b i) 8, fieldAt b (lgIdx b i + 8) 8))
  decide (h ≤ b.length) && allZero (slice b 20 12) &&
  decide (((lgDescs b).map (fun d => fieldAt d 0 3)).Pairwise (· < ·)) &&
  decide (((lgTables b).map (·.1)).Pairwise (· < ·)) && (lgTables b).all (fun t => decide (64 ≤ t.1 ∧ t.1 ≤ 255)) &&
  (List.range (lgCount b 4)).all (fun i => allZero (slice b (lgIdx b (lgObjs b) + 40 * i + 2) 6)) &&
  objs.all (fun e => decide (e.1 % 64 = 0 ∧ h ≤ e.1 ∧ e.1 + e.2 ≤ b.length)) && rangesOrdered objs && gapsZero b objs &&
  (lgDescs b).all (logicDescOk b) && logicObjsOk ext isPort b

/-! PADGRP, PADS, NEWTPROG, SYNCMAP, EPITAB. -/

/-- A chip with a schedule's tables, to read PADGRP and PADS by. -/
def schedChip (c : State) (padgrp : List Byte) (nspan idx : Nat) (pads : List (List Byte)) (linkdiv : List Byte) : State :=
  { c with lay := { c.lay with padgrp := padgrp, nspan := nspan, chipIdx := idx, pads := pads, linkdiv := linkdiv } }

/-- The structure of a PADGRP body (R231). -/
def padgrpOk (b : List Byte) (nspan : Nat) : Bool :=
  let s := schedChip {} b nspan 0 [] []
  let wait := 2 * pgGroups s * nspan
  decide (pgGroups s ≤ 4096 ∧ 1 ≤ pgEpochs s) && fieldAt b 1 1 == 0 && fieldAt b 12 4 == 0 &&
  decide (b.length = 16 + 12 * pgEpochs s + 32 * pgGroups s + (wait + 3) / 4 * 4 + 4 * nspan) &&
  (List.range (pgGroups s)).all (fun g =>
    let r := slice b (pgOff s g) 32
    decide (pgEpoch s g < pgEpochs s ∧ 1 ≤ pgCount s g ∧ 1 ≤ pgPeriod s g 0 ∧ 1 ≤ pgPeriod s g 1 ∧ 1 ≤ pgPeriod s g 2) &&
      allZero (slice r 9 3) && allZero (slice r 30 2)) &&
  allZero (slice b (16 + 12 * pgEpochs s + 32 * pgGroups s + wait) ((wait + 3) / 4 * 4 - wait))

/-- The structure of a PADS body at a level (R233, Table 7-7). A cell passes from island to island as the chip is built, and a newt's only
through a slice of its die (R22 to R24); a hop list that cannot be is malformed (DEDUCED, log 160). -/
def padsOk (c : State) (level : Nat) (b : List Byte) : Bool :=
  let rs := padsRecs b
  fieldAt b 0 1 == level && allZero (slice b 1 3) && allZero (slice b 8 24) && decide (32 + 32 * rs.length ≤ b.length) &&
  rs.all (fun r =>
    let first := rtHop b r 0
    let last := rtHop b r (rtHops r - 1)
    decide (rtSkind r ≤ 2 ∧ rtDkind r ≤ 2 ∧ 1 ≤ rtHops r ∧ rtHops r ≤ 64 ∧ rtFirst r ≤ rtLast r ∧ fieldAt r 23 1 = 0 ∧
      fieldAt r 28 4 % 4 = 0 ∧ 32 + 32 * rs.length ≤ fieldAt r 28 4 ∧ fieldAt r 28 4 + 4 * rtHops r ≤ b.length) &&
    (List.range (rtHops r)).all (fun i => decide (rtHop b r i < 2 ^ 19) && hopUnitOk (rtHop b r i)) &&
    (List.range (rtHops r - 1)).all (fun i => hopsMeet (rtHop b r i) (rtHop b r (i + 1))) &&
    (if rtSkind r = 1 then fieldAt r 6 1 == 0 && hopKind first == 1 && hopUnit first / 32 == rtSrc r / 1000
     else decide (fieldAt r 6 1 < 32 ∧ hopKind first = 0 ∧ hopPos first = fieldAt r 6 1 ∧ hopUnit first < 128) &&
       (if rtSkind r = 2 then hopUnit first == rtSrc r else (portQuads c (rtSrc r)).contains (hopUnit first))) &&
    (if rtDkind r = 0 then decide (rtLc r < 64) &&
       (if hopKind last = 2 then hopUnit last == rtDest r else hopKind last == 1 && hopUnit last / 32 == rtDest r / 1000)
     else decide (rtLc r = 0 ∧ rtAddr r = 0 ∧ hopKind last = 0 ∧ hopUnit last < 128) &&
       (if rtDkind r = 2 then hopUnit last == rtDest r else (portQuads c (rtDest r)).contains (hopUnit last)))) &&
  decide ((rs.map (fun r => 65536 * (4 * rtNum r + rtDkind r) + rtDest r)).Pairwise (· ≤ ·))

/-- The slot records of a NEWTPROG body, from an offset. -/
def npRecs (fuel : Nat) (b : List Byte) : List (List Byte) :=
  match fuel with
  | 0 => []
  | fuel + 1 => let n := fieldAt b 16 8
    if n < 32 ∨ b.length < n then [] else b.take n :: npRecs fuel (b.drop n)
/-- The slot records of a NEWTPROG body. -/
def npSlots (b : List Byte) : List (List Byte) := npRecs (fieldAt b 0 4) (b.drop 16)
/-- SLOT. -/
def npSlot (r : List Byte) : Nat := fieldAt r 0 2
/-- PROGK. -/
def npProgk (r : List Byte) : Nat := fieldAt r 2 1
/-- NINSTR. -/
def npInstr (r : List Byte) : Nat := fieldAt r 4 4
/-- Instructions. -/
def npWords (r : List Byte) : List Byte := slice r 32 (8 * npInstr r)
/-- Segment records, each with its literal bytes, from an offset. -/
def npSegsAt (fuel : Nat) (r : List Byte) (o : Nat) : List (List Byte × List Byte) × Nat :=
  match fuel with
  | 0 => ([], o)
  | fuel + 1 =>
    let h := slice r o 16
    let n := if fieldAt h 8 1 = 0 then (fieldAt h 4 4 + 7) / 8 * 8 else 0
    let t := npSegsAt fuel r (o + 16 + n)
    ((h, slice r (o + 16) (if fieldAt h 8 1 = 0 then fieldAt h 4 4 else 0)) :: t.1, t.2)
/-- Segments. -/
def npSegs (r : List Byte) : List (List Byte × List Byte) := (npSegsAt (fieldAt r 8 4) r (32 + 8 * npInstr r)).1
/-- Offset of the stream table. -/
def npStreamOff (r : List Byte) : Nat := (npSegsAt (fieldAt r 8 4) r (32 + 8 * npInstr r)).2
/-- Stream entries, stream 0 first. -/
def npStreams (r : List Byte) : List (List Byte) :=
  (List.range (fieldAt r 12 2)).map (fun i => slice r (npStreamOff r + 16 * i) 16)
/-- Collective ids. -/
def npColls (r : List Byte) : List Nat :=
  (List.range (fieldAt r 24 4)).map (fun i => fieldAt r (npStreamOff r + 16 * fieldAt r 12 2 + 4 * i) 4)

/-- The structure of a NEWTPROG body (R235). Every array of a record starts at a multiple of 8 bytes, and so does the next record: BYTES is held
to a multiple of 8, that of the last record too (DESIGN CHOICE, log 161). -/
def newtprogOk (b : List Byte) : Bool :=
  let rs := npSlots b
  decide (rs.length = fieldAt b 0 4) && allZero (slice b 4 12) && decide ((rs.map npSlot).Pairwise (· < ·)) &&
  decide ((rs.map List.length).sum + 16 = b.length) &&
  rs.all (fun r =>
    decide (npSlot r < 2000 ∧ 1 ≤ npProgk r ∧ npProgk r ≤ 16 ∧ 1 ≤ npInstr r ∧ npInstr r ≤ 512 * npProgk r ∧
      fieldAt r 12 2 ≤ 4096 ∧ fieldAt r 24 4 ≤ 65535 ∧ fieldAt r 3 1 = 0 ∧ fieldAt r 14 2 = 0 ∧ fieldAt r 28 4 = 0 ∧
      npStreamOff r + 16 * fieldAt r 12 2 + 4 * fieldAt r 24 4 ≤ r.length ∧ r.length % 8 = 0) &&
    (npSegs r).all (fun g => decide (fieldAt g.1 8 1 ≤ 4 ∧ fieldAt g.1 0 4 % 64 = 0)) &&
    (npStreams r).all (fun e => decide (fieldAt e 2 1 ≤ 4 ∧ fieldAt e 3 1 ≤ 12 ∧ fieldAt e 4 1 ≤ 7) && allZero (slice e 8 8) &&
      fieldAt e 5 1 == 0) &&
    decide ((npColls r).Pairwise (· < ·)) && (npColls r).all (fun c => decide (0 < c ∧ c < 2 ^ 24)))

/-- The records of a SYNCMAP body. -/
def smRecs (fuel : Nat) (b : List Byte) : List (List Byte) :=
  match fuel with
  | 0 => []
  | fuel + 1 =>
    let n := if fieldAt b 0 1 = 1 then 280 else 40
    if b.length < n then [] else b.take n :: smRecs fuel (b.drop n)
/-- The records of a SYNCMAP body. -/
def syncmap (b : List Byte) : List (List Byte) := smRecs (b.length / 40) b

/-- The structure of a SYNCMAP body (R237). -/
def syncmapOk (b : List Byte) : Bool :=
  let rs := syncmap b
  decide ((rs.map List.length).sum = b.length) &&
  rs.all (fun r =>
    if fieldAt r 0 1 = 1 then decide (fieldAt r 1 1 ≤ 63 ∧ fieldAt r 272 1 ≤ 1) && allZero (slice r 2 6) &&
      allZero (slice r 258 6) && allZero (slice r 273 7)
    else decide (fieldAt r 0 1 = 2 ∧ fieldAt r 2 2 < 8192) && fieldAt r 1 1 == 0 && allZero (slice r 4 4)) &&
  decide ((rs.map (fun r => if fieldAt r 0 1 = 1 then fieldAt r 1 1 else 64 + fieldAt r 2 2)).Pairwise (· < ·))

/-- The tables of an EPITAB body. -/
def epTables (b : List Byte) : List (List Byte) :=
  (List.range (fieldAt b 0 2)).map (fun i => slice b (32 + 8224 * i) 8224)
/-- The structure of an EPITAB body (R239). A section begins at a multiple of 64 bytes, so the first 32-byte aligned place after the
header is 32, and the tables, of 257 × 32 bytes, follow one another from there (DEDUCED, log 146). -/
def epitabOk (b : List Byte) : Bool :=
  b.length == (if fieldAt b 0 2 = 0 then 16 else 32 + 8224 * fieldAt b 0 2) && allZero (slice b 2 14) &&
    decide (((epTables b).map (fun t => fieldAt t 0 2)).Pairwise (· < ·)) &&
    (epTables b).all (fun t => decide (64 ≤ fieldAt t 0 2 ∧ fieldAt t 0 2 ≤ 255))

/-! The file (R221, R222, checks 2 and 5 to 7 of Table 7-10). -/

/-- The header's fixed fields, part and stepping apart. -/
def headerOk (f : List Byte) : Bool :=
  decide (256 ≤ f.length ∧ f.length ≤ 2 ^ 32 ∧ fieldAt f 0 4 = 0x594C5443 ∧ fieldAt f 4 2 = 1 ∧ imKind f ≤ 1 ∧
    fieldAt f 7 1 ≤ 1 ∧ fieldAt f 15 1 = 0 ∧ fieldAt f 16 8 = f.length ∧ fieldAt f 24 4 = imChips f) &&
  (List.range 3).all (fun a => decide (1 ≤ imExt f a ∧ imExt f a ≤ 32)) && allZero (slice f 168 88) &&
  (imKind f == 1 || allZero (slice f 128 32)) &&
  (imCommonOff f != 0 || (imCommonLen f == 0 && allZero (slice f 64 32)))

/-- The coordinate of chip-table entry `i`: entries ascend by COORD. -/
def imChipAt (f : List Byte) (i : Nat) : Nat :=
  i % imExt f 0 + 32 * (i / imExt f 0 % imExt f 1) + 1024 * (i / (imExt f 0 * imExt f 1))

/-- The chip table (R222). -/
def ctabOk (f : List Byte) : Bool :=
  let es := ctEntries f
  let idx := (es.filter (fun e => ctRole e != 2)).map ctIdx
  (List.range (imChips f)).all (fun i => ctCoord (ctEntry f i) == imChipAt f i) &&
  es.all (fun e => decide (ctRole e ≤ 2 ∧ (ctRole e = 2 → ctIdx e = 0xFFFF)) && allZero (slice e 5 3) && allZero (slice e 56 8)) &&
  decide (fieldAt f 28 4 = idx.length ∧ idx.Nodup) && idx.all (fun i => decide (i < idx.length))

/-- The areas of the file, in order (R221). -/
def areasOk (f : List Byte) : Bool :=
  let parts := sortRanges (((ctEntries f).filter (fun e => fieldAt e 8 8 != 0)).map (fun e => (fieldAt e 8 8, fieldAt e 16 8)))
  let rs := [(0, 256), (imCtab f, 64 * imChips f)] ++ (if imCommonOff f = 0 then [] else [(imCommonOff f, imCommonLen f)]) ++
    parts ++ (if imSig f = 0 then [] else [(imSig f, 5312)])
  rs.all (fun r => decide (r.1 % 64 = 0 ∧ r.1 + r.2 ≤ f.length)) && rangesOrdered rs &&
    (imSig f == 0 || allZero (slice f (imSig f + 5261) 51))

/-- A division with a quad in each direction, for a routing table of a chip whose own is not known. -/
def everyLink : List Byte := zeros 16 ++ (List.range 6).flatMap (fun d => leBytes 2 (d + 1)) ++ zeros 244

/-- The sections of a chip part, by their own chapters' rules, against the chip's division: the part's own LINKDIV, or for a replacement
of this chip the one in force, `ld` at coordinate `at'`. The division of another chip that the file does not carry is not known here:
its COORD, PADS and BUFPART, which no replacement may hold (R247), are left to check 8 then, and its ROUTE and SHAPER are held as if it
had every link and every port (DEDUCED, log 162). -/
def chipPartOk (f ld : List Byte) (at' : Nat) (e : List Byte) : Bool :=
  let p := ctPart f e
  let own : Option (List Byte) := match sectOpt p 1 0 with
    | some b => some b
    | none => if ctCoord e = at' ∧ !ld.isEmpty then some ld else none
  let b := own.getD everyLink
  let c := imageChip f b (ctCoord e)
  partOk (ctCoord e) p && (partDir p).all (fun d =>
    let x := slice p d.2.2.1 d.2.2.2
    match d.1 with
    | 1 => d.2.1 == 0 && linkdivOk f x
    | 2 => d.2.1 == 0 && (own.isNone || coordOk c x)
    | 3 => decide (d.2.1 ≤ 1) && routeOk c x
    | 4 => decide (d.2.1 ≤ 2) && (own.isNone || padsOk c d.2.1 x)
    | 5 => d.2.1 == 0 && newtprogOk x
    | 6 => d.2.1 == 0 && (own.isNone || bufpartOk c x)
    | 7 => d.2.1 == 0 && shaperOk (if own.isSome then chipPorts c else List.range 134) x
    | 8 => d.2.1 == 0 && syncmapOk x
    | 9 => d.2.1 == 0 && stackplanOk x
    | 10 => d.2.1 == 0 && epitabOk x
    | _ => false)

/-- As far as the file says: a port of the chip at a coordinate is an endpoint port by its LINKDIV. A part that the file omits says
nothing against it. -/
def imPort (f : List Byte) (coord port : Nat) : Bool :=
  match (ctFind f coord).bind (fun e => sectOpt (ctPart f e) 1 0) with
  | none => true
  | some b => !(ldQuads b 7 port).isEmpty

/-- The common part. -/
def commonOk (f : List Byte) : Bool :=
  let p := imCommon f
  imCommonOff f == 0 || (partOk 0xFFFF p && (partDir p).all (fun d =>
    let x := slice p d.2.2.1 d.2.2.2
    match d.1 with
    | 12 => d.2.1 == 0 && logicOk (imExt f) (imPort f) x
    | 13 => d.2.1 == 0 && padgrpOk x (fieldAt f 28 4)
    | _ => false))

/-- Check 2: structure and reserved encodings. -/
def fileOk (f ld : List Byte) (at' : Nat) : Bool :=
  headerOk f && areasOk f && ctabOk f && commonOk f &&
    (ctEntries f).all (fun e => fieldAt e 8 8 == 0 || chipPartOk f ld at' e)

/-- A full image has a scheduled program. -/
def imSched (f : List Byte) : Bool := (sectOpt (imCommon f) 13 0).isSome

/-- Check 6: the sections that R225 asks for and those that it excludes. -/
def sectionSetOk (f : List Byte) : Bool :=
  let sched := imSched f
  (if sched then (sectOpt (imCommon f) 12 0).isSome else imCommonOff f == 0) &&
  (ctEntries f).all (fun e =>
    let p := ctPart f e
    let has (t i : Nat) := (sectOpt p t i).isSome
    p.isEmpty || (has 1 0 && has 2 0 && has 3 0 && has 3 1 && has 6 0 && has 7 0 && has 9 0 &&
      (if !sched then (List.range 3).all (fun i => !has 4 i) && !has 5 0
       else (ctRole e == 2 || (List.range 3).all (has 4)) && (ctRole e != 0 || has 5 0))))

/-- Check 5: part digests, and PROGRAM against LOGIC for a full image. -/
def digestsOk (f : List Byte) : Bool :=
  (ctEntries f).all (fun e => fieldAt e 8 8 == 0 || shake256 (ctPart f e) 32 == slice e 24 32) &&
  (imCommonOff f == 0 || shake256 (imCommon f) 32 == slice f 64 32) &&
  (imKind f == 1 || imProgram f == (match sectOpt (imCommon f) 12 0 with
    | some b => shake256 b 32
    | none => zeros 32))

/-- CUSTSIG's key and signature. -/
def sigKey (f : List Byte) : List Byte := slice f (imSig f) 1952
/-- The customer signature verifies over the fingerprint. -/
def sigGood (f : List Byte) : Bool :=
  mlDsaVerify (sigKey f) (imFp f) (ascii "CHT48-LAYOUT") (slice f (imSig f + 1952) 3309)

/-- Check 7 (R228). -/
def signatureOk (s : State) (f : List Byte) : Bool :=
  if imSig f = 0 then !s.fuse.sigreq
  else sigGood f && (s.fuse.custkey.map (fun k => k == shake256 (sigKey f) 32)).getD true

/-- Check 8, for a replacement (R247, R248). -/
def replacementOk (s : State) (f : List Byte) : Bool :=
  s.lay.active && slice f 128 32 == digestField s.lay.fp && slice f 7 9 == slice s.lay.header 7 9 &&
    imProgram f == digestField s.lay.program && imCommonOff f == 0 &&
    (ctEntries f).all (fun e => (partDir (ctPart f e)).all (fun d =>
      d.1 == 7 || d.1 == 10 || (d.1 == 3 && d.2.1 == 1 - s.lay.routeBank)))

/-- What a load keeps of a file (R242), each thing at its place in the file: the header, the chip table, the common part, the part of the
chip at `coord`, and CUSTSIG. The other parts are zeros. -/
def keptFile (f : List Byte) (coord : Nat) : List Byte :=
  let e := (ctFind f coord).getD []
  [(0, 256), (imCtab f, 64 * imChips f), (imCommonOff f, if imCommonOff f = 0 then 0 else imCommonLen f),
    (fieldAt e 8 8, if fieldAt e 8 8 = 0 then 0 else fieldAt e 16 8), (imSig f, if imSig f = 0 then 0 else 5312)].foldl
    (fun t k => t.take k.1 ++ slice f k.1 k.2 ++ t.drop (k.1 + k.2)) (zeros f.length)

/-- The checks of LOAD_LAYOUT from 2 on: the code of the first that fails. -/
def loadCheck (s : State) (f : List Byte) (len coord : Nat) (keep : Bool) : Option Nat :=
  if f.length ≠ len ∨ !fileOk f s.lay.linkdiv s.rte.coord then some 0x0C40
  else if fieldAt f 8 2 ≠ 0x4830 ∨ fieldAt f 10 1 ≠ 0xA1 ∨ fieldAt f 11 1 ≠ 2 then some 0x0C41
  else if (ctPart f ((ctFind f coord).getD [])).isEmpty ∨ (s.lay.startupDone ∧ coord ≠ s.rte.coord) then some 0x0C43
  else if !digestsOk f then some 0x0C42
  else if imKind f = 0 ∧ !sectionSetOk f then some 0x0C40
  else if !signatureOk s f then some 0x0C44
  else if imKind f = 1 ∧ !replacementOk s f then some 0x0C4A
  else if keep ∧ 81916 * 1024 < f.length then some 0x0C4C
  else none

end Sys2Proof.Machine
end

