-- ==== Sys2Proof/Machine/Library.lean ====
section
/-! DEFINITION. The library activation tables (R109, Table 3-10b). Function values are computed in fixed point of weight
2^-320: the entries are their roundings to binary32, of 24 bits, and no entry lies that near to a rounding boundary (log 123). -/

namespace Sys2Proof.Machine

/-- Fraction bits of the fixed-point values. -/
def fxBits : Nat := 320
/-- One. -/
def fxOne : Nat := 2 ^ fxBits
/-- Product. -/
def fxMul (a b : Nat) : Nat := a * b / fxOne
/-- Quotient. -/
def fxDiv (a b : Nat) : Nat := a * fxOne / b

/-- Power by squaring; `fuel` bounds the bits of the exponent. -/
def fxPow (fuel b n : Nat) : Nat :=
  match fuel with
  | 0 => fxOne
  | fuel + 1 =>
    let h := fxPow fuel (fxMul b b) (n / 2)
    if n % 2 = 1 then fxMul h b else h

/-- Sum of the terms t, t × p / q(k), … of a series, for `fuel` terms from number `k`. -/
def fxSeries (step : Nat → Nat → Nat) (fuel k t : Nat) : Nat :=
  match fuel with
  | 0 => 0
  | fuel + 1 => t + fxSeries step fuel (k + 1) (step k t)

/-- e^(1/d) for d ≥ 1. -/
def fxExpInv (d : Nat) : Nat := fxSeries (fun k t => t / (d * (k + 1))) 80 0 fxOne

/-- e^(−n/d). -/
def fxExpNeg (n d : Nat) : Nat := fxPow 24 (fxDiv fxOne (fxExpInv d)) n

/-- ln(1 + y) for 0 ≤ y ≤ 1: 2 (r + r³/3 + r⁵/5 + …) with r = y / (2 + y). -/
def fxLn1p (y : Nat) : Nat :=
  let r := fxDiv y (2 * fxOne + y)
  let r2 := fxMul r r
  let rec go (fuel k p : Nat) : Nat :=
    match fuel with
    | 0 => 0
    | fuel + 1 => p / (2 * k + 1) + go fuel (k + 1) (fxMul p r2)
  2 * go 110 0 r

/-- arctan(1/d) as the difference of its positive and negative terms. -/
def fxAtanInv (d : Nat) : Nat :=
  let term (k : Nat) : Nat := fxOne / ((2 * k + 1) * d ^ (2 * k + 1))
  ((List.range 80).map (fun k => term (2 * k))).sum - ((List.range 80).map (fun k => term (2 * k + 1))).sum

/-- π. -/
def fxPi : Nat := 16 * fxAtanInv 5 - 4 * fxAtanInv 239

/-- Integer square root of n, bit by bit from bit `fuel`. -/
def isqrt (fuel n r : Nat) : Nat :=
  match fuel with
  | 0 => r
  | fuel + 1 =>
    let s := r + 2 ^ fuel
    isqrt fuel n (if s * s ≤ n then s else r)

/-- 1 / √(2π). -/
def fxPhi0 : Nat := fxDiv fxOne (isqrt 324 (2 * fxPi * fxOne) 0)

/-- Φ(x) − 1/2 for x = n/64 ≥ 0: φ(x) (x + x³/3 + x⁵/15 + …). -/
def fxPhi (n : Nat) : Nat :=
  let s := fxSeries (fun k t => t * n * n / (4096 * (2 * k + 3))) 260 0 (n * fxOne / 64)
  fxMul (fxMul fxPhi0 (fxExpNeg (n * n) 8192)) s

/-- Sigmoid of n/32. -/
def fxSigmoid (k : Int) : Nat :=
  let e := fxExpNeg k.natAbs 32
  if 0 ≤ k then fxDiv fxOne (fxOne + e) else fxDiv e (fxOne + e)

/-- The function of library table `id` at k × 2^SK (Table 3-10b). -/
def libraryFun (id : Nat) (k : Int) : Int :=
  let n := k.natAbs
  match id with
  | 2 => fxSigmoid k
  | 3 =>
    let e := fxExpNeg (2 * n) 64
    let t : Int := fxDiv (fxOne - e) (fxOne + e)
    if 0 ≤ k then t else -t
  | 4 =>
    let h : Int := fxOne / 2
    k * (if 0 ≤ k then h + fxPhi n else h - fxPhi n) / 64
  | 5 => k * fxSigmoid k / 32
  | _ =>
    let l : Int := fxLn1p (fxExpNeg n 32)
    if 0 ≤ k then k * fxOne / 32 + l else l

/-- A fixed-point value times 2^e, written out to binary32 with RNE. -/
def fxB32 (v e : Int) : Nat :=
  if v = 0 then 0
  else encode 8 (decide (v < 0)) (roundTo 8 0 0 (decide (v < 0)) v.natAbs (e - fxBits) 0)

/-- −SK of a library table. -/
def librarySk (id : Nat) : Nat := if id = 3 ∨ id = 4 then 6 else 5

/-- Entry `i` of a library table: Y and D. -/
def libraryEntry (id i : Nat) : Nat × Nat :=
  let k : Int := (i : Int) - 512
  let y := libraryFun id k
  (fxB32 y 0, if 4 ≤ id ∧ i = 1023 then 0x3F800000 else fxB32 (libraryFun id (k + 1) - y) (librarySk id))

/-- A library table as Table 3-10b fixes it: header, then the entries. -/
def libraryTable (id : Nat) : List Byte :=
  leBytes 2 id ++ leBytes 1 (256 - librarySk id) ++ leBytes 1 (if 4 ≤ id then 2 else 0) ++
    leBytes 4 (if librarySk id = 6 then 0xC1000000 else 0xC1800000) ++
    leBytes 4 (if id = 3 then 0xBF800000 else 0) ++ leBytes 4 (if 4 ≤ id then 0x7F800000 else 0x3F800000) ++ zeros 16 ++
    (List.range 1024).flatMap (fun i => leBytes 4 (libraryEntry id i).1 ++ leBytes 4 (libraryEntry id i).2)

end Sys2Proof.Machine
end

