-- ==== Sys2Proof/Machine/Layout.lean ====
section
/-! DEFINITION. Activation of a layout image (R32, R35, R234 to R239, R244 to R246) and live replacement (R247 to R250). -/

namespace Sys2Proof.Machine

/-! Checks of Table 7-11. -/

/-- A posted collective is unreported. -/
def postedOpen (s : State) : Bool := s.colls.any (fun e => e.2.posted && !e.2.reported)

/-- A layout command or a molt is in progress. -/
def layBusy (s : State) : Bool := s.lay.busy || !(s.fw.molt == .none)

/-- Bit `i` of the disabled-unit map. -/
def mapBit (s : State) (i : Nat) : Bool := (mapWord s (i / 64)).getLsbD (i % 64)

/-- Enabled units among `n` bits of the map from bit `b`. -/
def mapCount (s : State) (b n : Nat) : Nat := ((List.range n).filter (fun i => !mapBit s (b + i))).length

/-- The disabled-unit map meets R32. -/
def unitMapOk (s : State) : Bool :=
  (List.range 2).all (fun d => decide (1000 ≤ mapCount s (1024 * d) 1024 ∧ 96 ≤ mapCount s (2048 + 104 * d) 104)) &&
  (List.range 4).all (fun n => (List.range 16).all (fun d => decide (32 ≤ mapCount s (64 * (36 + 9 * n) + 34 * d) 34)))

/-- LINKDIV, COORD and the extents are those in force (R246). -/
def startupSame (s : State) (f p : List Byte) : Bool :=
  !s.lay.startupDone || (sectionOf p 1 0 == s.lay.linkdiv && sectionOf p 2 0 == s.lay.coordSec &&
    imExt f 0 == s.rte.extX && imExt f 1 == s.rte.extY && imExt f 2 == s.rte.extZ)

/-- The bytes of a segment's source (Table 7-9), if it lies inside its object. -/
def segSource (logic epitab : List Byte) (g : List Byte × List Byte) : Option (List Byte) :=
  let len := fieldAt g.1 4 4
  let num := fieldAt g.1 9 3
  let off := fieldAt g.1 12 4
  let cut (b : List Byte) : Option (List Byte) := if off + len ≤ b.length then some (slice b off len) else none
  match fieldAt g.1 8 1 with
  | 0 => some g.2
  | 1 => some (zeros len)
  | 2 => if num < lgCount logic 2 then cut (lgWeight logic num) else none
  | 3 => if num < lgCount logic 3 then cut (lgEpipar logic num) else none
  | 4 => if 2 ≤ num ∧ num ≤ 6 then cut (libraryTable num)
         else ((epTables epitab).find? (fun t => fieldAt t 0 2 == num)).bind cut
  | _ => none

/-- Pond segments and streams of a slot record can be placed (R236). -/
def slotOk (logic epitab : List Byte) (routes : List Nat) (r : List Byte) : Bool :=
  let rs := (npSegs r).map (fun g => (fieldAt g.1 0 4, fieldAt g.1 4 4))
  (npSegs r).all (fun g => (segSource logic epitab g).isSome) &&
  rs.all (fun e => decide (4096 * npProgk r ≤ e.1 ∧ e.1 + e.2 ≤ escBase)) && rangesOrdered (sortRanges rs) &&
  (npStreams r).all (fun e => routes.contains (fieldAt e 0 2))

/-! SYNCMAP (R238). -/

/-- Newts bound to slots (R35), as (newt, slot), for one die. -/
def bindDie (s : State) (d : Nat) : List (Nat × Nat) :=
  ((((List.range 1024).map (1024 * d + ·)).filter (newtEnabled s)).take 1000).zipIdx.map (fun e => (e.1, 1000 * d + e.2))

/-- The newt of every slot, ascending by slot. -/
def bindSlots (s : State) : Table Nat := (bindDie s 0 ++ bindDie s 1).map (fun e => (e.2, e.1))

/-- The leaves of a line mask record, slots translated. -/
def maskLeaves (slots : Table Nat) (r : List Byte) : List Nat :=
  let on (off i : Nat) : Bool := bitOf (fieldAt r (off + i / 8) 1) (i % 8)
  ((List.filter (fun (e : Nat × Nat) => on 8 e.1) slots).map Prod.snd ++ ((List.range 64).filter (on 264)).map (2048 + ·) ++
    (if on 272 0 then [2112] else [])).foldl insertNat []

/-- Destroy the objects that the previous image created, whatever their state. -/
def syncDrop (s : State) : State :=
  let s1 := s.lay.syncObjs.foldl (fun t o =>
    let v := obj t o
    let t1 := if v.kind = 2 then setBline v.bl { bline t v.bl with bound := none } t else t
    setObj o { withCfg v 0 with quar := false, waiters := [], holdq := [] } t1) s
  { s1 with lay := { s1.lay with syncObjs := [] } }

/-- Apply one SYNCMAP record; none where it cannot be. -/
def syncRecord (slots : Table Nat) (r : List Byte) (s : State) : Option State :=
  if fieldAt r 0 1 = 1 then
    let l := fieldAt r 1 1
    if (bline s l).bound.isSome then none
    else some (setBline l { bline s l with mask := maskLeaves slots r } s)
  else
    let o := fieldAt r 2 2
    if (obj s o).kind ≠ 0 then none
    else
      let s1 := syncCountWrite o 3 (fieldAt r 32 8) (syncCountWrite o 2 (fieldAt r 24 8) (syncCountWrite o 1 (fieldAt r 16 8) s))
      let cfg := fieldAt r 8 8
      if bits cfg 1 0 = 0 ∨ !cfgValid s1 o cfg then none
      else
        let s2 := syncCfgWrite o cfg s1
        some { s2 with lay := { s2.lay with syncObjs := insertNat s2.lay.syncObjs o } }

/-- Apply a SYNCMAP body after the previous image's objects are gone. -/
def syncApply (slots : Table Nat) (b : List Byte) (s : State) : Option State :=
  (syncmap b).foldl (fun t r => t.bind (syncRecord slots r)) (some (syncDrop s))

/-! Schedule rules (R200, R232, R234). -/

/-- Hops between two chips by the shorter ways round. -/
def hopDist (c : State) (a b : Nat) : Nat :=
  ((List.range 3).map (fun k =>
    let e := max 1 (extOf c k)
    let d := (axisOf b k + e - axisOf a k) % e
    min d (e - d))).sum

/-- Hmin of a span. -/
def hMin (c : State) (span : List Nat) : Nat :=
  if span.length ≤ 1 then 2
  else
    let h := (span.flatMap (fun a => span.map (hopDist c a))).foldl max 0
    2 + (300 + 240 * (h - 1) + 79) / 80

/-- R200 and R232, apart from the digest tap. -/
def padgrpRules (c : State) (span : List Nat) : Bool :=
  let h := pgH c
  decide (hMin c span ≤ h ∧ h ≤ 120 ∧ h ≤ pgSlipq c ∧ pgSlipq c ≤ 4096) &&
  (List.range (pgEpochs c)).all (fun e => (List.range 3).all (fun l => decide (2 * h + 1 ≤ epochLen c e l))) &&
  (List.range (pgGroups c)).all (fun g => decide (h ≤ pgSlack c g) &&
    (List.range 3).all (fun l => decide (dueFrom c g (pgCount c g - 1) l + pgSlack c g < epochLen c (pgEpoch c g) l)))

/-- A claim of a hop: route, the hops up to it, first and last job pad, and its place: unit, direction and position as one number. The
two directions of a quad's link are separate places. -/
structure Claim where
  route : Nat
  hops : List Nat
  first : Nat
  last : Nat
  place : Nat
  quad : Option Nat
deriving DecidableEq, Repr

/-- The job pad at which an epoch starts when every epoch before it runs at a level. -/
def epochStartAt (c : State) (level e : Nat) : Nat := ((List.range e).map (fun k => epochLen c k level)).sum

/-- The claims of a PADS body, with job pads counted from the launch at its level: a cell still on its way when an epoch ends holds
its places in the next one. -/
def padClaims (c : State) (b : List Byte) : List Claim :=
  (padsRecs b).flatMap (fun r =>
    let base := if rtSkind r = 1 then 0 else quadDimg c (hopUnit (rtHop b r 0))
    let start := epochStartAt c (fieldAt b 0 1) (rtEpoch r)
    (List.range (rtHops r)).map (fun i =>
      let h := rtHop b r i
      let rx := i == 0 && rtSkind r != 1
      let lag := if rx then 0 else base + i
      { route := rtNum r, hops := (List.range (i + 1)).map (rtHop b r), first := start + rtFirst r + lag,
        last := start + rtLast r + lag, place := 2 * h + bnat rx,
        quad := if hopKind h = 0 then some (2 * hopUnit h + bnat rx) else none }))

/-- Two claims of one position, other than those that the records of one route share. -/
def claimClash (a b : Claim) : Bool :=
  a.place == b.place && decide (a.first ≤ b.last ∧ b.first ≤ a.last) &&
    !(a.route == b.route && a.hops == b.hops)

/-- Positions that claims of a quad's direction hold in one job pad. -/
def claimsAt (cs : List Claim) (q j : Nat) : Nat :=
  (((cs.filter (fun c => c.quad == some q && decide (c.first ≤ j ∧ j ≤ c.last))).map (·.place)).eraseDups).length

/-- The slot record of a slot. -/
def npSlot? (newtprog : List Byte) (slot : Nat) : Option (List Byte) := (npSlots newtprog).find? (fun n => npSlot n == slot)

/-- Home positions of a route in an epoch, one for each of its cells: the spare positions that it holds for late cells are left out
(R199). -/
def routeCells (c : State) (newtprog b : List Byte) (route e : Nat) : Nat :=
  let rs := (padsRecs b).filter (fun r => rtNum r == route && rtEpoch r == e)
  let fed (r : List Byte) : Option (List Nat) := if rtDkind r ≠ 0 then none
    else (npSlot? newtprog (rtDest r)).map (fun n =>
      waitGroups ((List.range (npInstr n)).map (fun i => fieldAt (npWords n) (8 * i) 8)) (rtLc r))
  let home (r : List Byte) : Nat := max 1 (rtLast r + 1 - rtFirst r - (spareOf c (fieldAt b 0 1) (fed r) r).getD 0)
  (((rs.map (fun r => (hopPos (rtHop b r 0), rtFirst r, home r))).eraseDups).map (·.2.2)).sum

/-- No position of a quad may fall in a control slot of its pad (R356). PADNUM modulo 4 of a job pad is known only at launch, so a
position is refused when it falls in one whatever the launch count: when its claims meet job pads of all four remainders, among them
that of the control slot (log 122). With at most 24 positions, the second condition of R356 holds beside this one. -/
def ctrlFree (cs : List Claim) (x : Claim) : Bool :=
  let meets (k : Nat) (y : Claim) : Bool := y.place == x.place && decide ((k + 4 - y.first % 4) % 4 ≤ y.last - y.first)
  x.quad.isNone || !((List.range 4).flatMap ctrlSlots).contains (x.place / 2 / 2 ^ 14) ||
    !(List.range 4).all (fun k => cs.any (meets k))

/-- R234 and R356 for a PADS body: claims, positions of a quad, control slots, and landings. -/
def padsRules (c : State) (newtprog b : List Byte) : Bool :=
  let cs := padClaims c b
  decide (cs.Pairwise (fun x y => claimClash x y = false)) &&
  cs.all (fun x => match x.quad with
    | some q => decide (claimsAt cs q x.first ≤ 24)
    | none => true) &&
  cs.all (ctrlFree cs) && (padsRecs b).all (fun r => rtDkind r != 0 ||
    match npSlot? newtprog (rtDest r) with
    | some n => decide (4096 * npProgk n ≤ rtAddr r ∧ rtAddr r + 256 * routeCells c newtprog b (rtNum r) (rtEpoch r) ≤ escBase)
    | none => false)

/-- Collectives of LOGIC with CFLAGS.DIGEST. -/
def digestColls (logic : List Byte) : List Nat := ((lgDescs logic).filter cdDigest).map (fun d => fieldAt d 0 3)

/-- The operand blocks that a slot's SENDs may name, as block numbers: inside a loop with an OBSTEP, every later block too. -/
def sendBlocks (n : List Byte) : List Nat :=
  let word (i : Nat) : Nat := fieldAt (npWords n) (8 * i) 8
  let ixs := List.range (npInstr n)
  let steps (i : Nat) : Bool := ixs.any (fun j => iOpc (word j) == 2 && iStep (word j) != 0 && decide (j < i ∧ i ≤ j + iLen (word j)))
  let later (o : Nat) : List Nat := (npSegs n).flatMap (fun g =>
    ((List.range (fieldAt g.1 4 4 / 64)).map (fieldAt g.1 0 4 / 64 + ·)).filter (fun k => decide (o ≤ k)))
  ((ixs.filter (fun i => iOpc (word i) == 0x10)).flatMap (fun i =>
    iOb (word i) :: (if steps i then later (iOb (word i)) else []))).foldl insertNat []

/-- The 64 bytes of a slot's operand block as the image places them, if one literal segment holds them. -/
def literalBlock (n : List Byte) (k : Nat) : Option (List Byte) :=
  ((npSegs n).find? (fun g => fieldAt g.1 8 1 == 0 && decide (fieldAt g.1 0 4 ≤ 64 * k ∧ 64 * k + 64 ≤ fieldAt g.1 0 4 + fieldAt g.1 4 4))).map
    (fun g => slice g.2 (64 * k - fieldAt g.1 0 4) 64)

/-- A slot may send results of a digested collective on a route: a SEND's block names a stream of that route with the collective. A
block that the image does not place may name any collective of the slot (log 49). -/
def digestSender (logic : List Byte) (route : Nat) (n : List Byte) : Bool :=
  let result (e : List Byte) : Bool := fieldAt e 0 2 == route && (fieldAt e 3 1 == 4 || fieldAt e 3 1 == 5)
  (npColls n).any (digestColls logic).contains && (npStreams n).any result &&
    (sendBlocks n).any (fun k => match literalBlock n k with
      | none => true
      | some ob => result ((npStreams n).getD (fieldAt ob 8 4) []) && (digestColls logic).contains (fieldAt ob 12 3))

/-- A record may bring result bytes of digested collectives to an endpoint: from its source slot, or from another chip, whose slots the
staged image does not hold (R242): then any may (DESIGN CHOICE, log 49). -/
def digestRecord (logic newtprog : List Byte) (r : List Byte) : Bool :=
  rtDkind r == 1 &&
    (if rtSkind r = 1 then (npSlot? newtprog (rtSrc r)).any (digestSender logic (rtNum r)) else rtSkind r == 2)

/-- The digest tap of a die takes at most 400 GB/s, 32,000 bytes in a pad (R200). -/
def tapRules (c : State) (logic newtprog b : List Byte) : Bool :=
  let rs := (padsRecs b).filter (digestRecord logic newtprog)
  let ends := rs.map (fun r =>
    let h := rtHop b r (rtHops r - 1)
    let lag := recDelay c b r
    (hopUnit h / 64, rtNum r, hopPos (rtHop b r 0), rtEpoch r, rtFirst r + lag, rtLast r + lag))
  decide ((digestColls logic).length ≤ 64) && (digestColls logic == [] || ends.all (fun x =>
    decide (256 * (((ends.filter (fun y => y.1 == x.1 && y.2.2.2.1 == x.2.2.2.1 &&
      decide (y.2.2.2.2.1 ≤ x.2.2.2.2.1 ∧ x.2.2.2.2.1 ≤ y.2.2.2.2.2))).map (fun y => (y.2.1, y.2.2.1))).eraseDups).length ≤ 32000)))

/-- Quads that the schedule of an image uses. -/
def imageQuads (p : List Byte) : List Nat :=
  ((List.range 3).flatMap (fun l => padsQuads (sectionOf p 4 l))).foldl insertNat []

/-- Chips of the span: those of roles 0 and 1. -/
def imageSpan (f : List Byte) : List Nat := ((ctEntries f).filter (fun e => ctRole e != 2)).map ctCoord

/-- Checks 2 to 9 of Table 7-11 on a staged full image: the code of the first that fails. -/
def activateCheck (s : State) (f : List Byte) (coord : Nat) : Option Nat :=
  let e := (ctFind f coord).getD []
  let p := ctPart f e
  let logic := sectionOf (imCommon f) 12 0
  let prog := sectionOf p 5 0
  let epitab := sectionOf p 10 0
  let sched := imSched f
  let pads := (List.range 3).map (fun l => sectionOf p 4 l)
  let c0 := imageChip f (sectionOf p 1 0) coord
  let c := schedChip { c0 with quads := ldTable (sectionOf p 1 0) s.quads } (sectionOf (imCommon f) 13 0) (fieldAt f 28 4)
    (ctIdx e) pads (sectionOf p 1 0)
  let routes := pads.flatMap (fun b => (padsRecs b).map rtNum)
  if !unitMapOk s then some 0x0C48
  else if !startupSame s f p then some 0x0C45
  else if !(npSlots prog).all (slotOk logic epitab routes) ∨ (syncApply (bindSlots s) (sectionOf p 8 0) s).isNone then
    some 0x0C49
  else if !(epTables epitab).all (fun t => tableHeader (t.take 32)) then some 0x0909
  else if !(lgTables logic).all (fun t =>
      ((epTables epitab).find? (fun x => fieldAt x 0 2 == t.1)).any (fun x => shake256 x 32 == t.2)) then some 0x0C42
  else if sched ∧ ctRole e ≠ 2 ∧ 4194304 < pgContexts c (ctIdx e) then some 0x0A0B
  else if sched ∧ !(padgrpRules c (imageSpan f) && pads.all (fun b => padsRules c prog b && tapRules c logic prog b)) then
    some 0x0B08
  else if (imageQuads p).any (fun q =>
      let v := tget {} c.quads q
      v.state == .up && (v.long || (decide (1 ≤ v.use ∧ v.use ≤ 6) && decide (quadDimg c q < v.d)))) then some 0x0B03
  else none

/-! Activating (R245). -/

/-- A newt after activation: its slot and role; NWT_ERR, NWT_PERF, ABORTED and COLL stay. -/
def freshNewt (v : Newt) (role : Role) (slot : Nat) : Newt :=
  { role := role, slot := slot, errCode := v.errCode, errPc := v.errPc, errAt := v.errAt, errCyc := v.errCyc, err := v.err, more := v.more, issued := v.issued,
    stalled := v.stalled, aborted := v.aborted, coll := v.coll, reserved := v.reserved }

/-- Fill a scheduled newt from its slot record (R236). -/
def fillNewt (logic epitab r : List Byte) (v : Newt) : Newt :=
  let v1 := pondWrite 0 (npWords r) { v with progSize := npProgk r, role := .scheduled, colls := npColls r }
  let v2 := (npSegs r).foldl (fun t g => pondWrite (fieldAt g.1 0 4) ((segSource logic epitab g).getD []) t) v1
  { v2 with streams := (npStreams r).zipIdx.map (fun e => (e.2, e.1)) }

/-- Bind the slots and fill the scheduled newts. -/
def bindNewts (logic epitab prog : List Byte) (s : State) : State :=
  let recs := npSlots prog
  let die (d : Nat) : Table Newt :=
    let bound := bindDie s d
    bound.map (fun e =>
      let v := freshNewt (newt s e.1) .free e.2
      (e.1, match recs.find? (fun r => npSlot r == e.2) with
        | some r => fillNewt logic epitab r v
        | none => v)) ++
    (s.newts.filter (fun e => decide (e.1 / 1024 = d ∧ ∀ b ∈ bound, b.1 < e.1))).filterMap (fun e =>
      let v := freshNewt e.2 .unbound 0x7FF
      if v = {} then none else some (e.1, v))
  { s with newts := die 0 ++ die 1, lay := { s.lay with slotOf := bindSlots s } }

/-- End every free-newt program (R245 step 1). -/
def endFree (s : State) : State :=
  (s.newts.filter (fun e => e.2.role != .scheduled)).foldl (fun t e => programEnds e.1 (unwaitAll e.1 t)) s

/-- Apply LINKDIV, COORD and the extents (R245 step 3). -/
def applyStartup (f p : List Byte) (coord : Nat) (s : State) : State :=
  { s with
    quads := ldTable (sectionOf p 1 0) s.quads
    rte := { s.rte with coord := coord, extX := imExt f 0, extY := imExt f 1, extZ := imExt f 2 }
    lay := { s.lay with startupDone := true, linkdiv := sectionOf p 1 0, coordSec := sectionOf p 2 0 } }

/-- Mark the quads that the schedule uses. -/
def reserveQuads (qs : List Nat) (s : State) : State :=
  let all : Table Quad := (List.range 128).map (fun q => (q, { quad s q with reserved := qs.contains q }))
  { s with quads := all.filter (fun e => decide (e.2 ≠ {})) }

/-- Load the ROUTE banks, BUFPART, SHAPER, STACKPLAN and EPITAB (R245 step 4), and the pool quotas of the overflow
areas (R268). -/
def loadTables (f p : List Byte) (s : State) : State :=
  let buf := sectionOf p 6 0
  let s1 := applyShaper false (sectionOf p 7 0) { s with
    shp := { s.shp with redcnt := 0 }
    rte := { s.rte with
      bank0 := routeBank (sectionOf p 3 0), bank1 := routeBank (sectionOf p 3 1), valid := true
      compat := bitOf (fieldAt f 7 1) 0 }
    swc := { s.swc with bufpart := buf, valid := true }
    pool := { s.pool with
      limit := tset 0 (tset 0 s.pool.limit 0x900 (2 ^ 21 * fieldAt buf 0 1 + 1)) 0x901 (2 ^ 21 * fieldAt buf 0 1 + 1) }
    lov := { s.lov with nextPlan := some (sectionOf p 9 0) } }
  { s1 with lay := { s1.lay with
      routeBank := 0, routeRev := 0, shaperRev := 0, epitabRev := 0, compat := bitOf (fieldAt f 7 1) 0
      epitab := (epTables (sectionOf p 10 0)).map (fun t => (fieldAt t 0 2, t)) } }

/-- Steps 1 to 6 of R245 for a staged image that passes its checks. -/
def activateSteps (f : List Byte) (coord : Nat) (s : State) : State :=
  let p := ctPart f ((ctFind f coord).getD [])
  let logic := sectionOf (imCommon f) 12 0
  let epitab := sectionOf p 10 0
  let s1 := bindNewts logic epitab (sectionOf p 5 0) (endFree s)
  let s2 := if s1.lay.startupDone then s1 else applyStartup f p coord s1
  let s3 := reserveQuads (imageQuads p) (loadTables f p s2)
  (syncApply s3.lay.slotOf (sectionOf p 8 0) s3).getD s3

/-- The digest entries of an activation (R245). DESIGN CHOICE (log 147): R245 has an entry hold both digests, 64 bytes, and an entry's
DATA holds 40 (Table 14-12), so two consecutive entries hold them, the fingerprint's first, as R296 does with an identity record. -/
def logDigests (fp program : List Byte) (s : State) : State := logAdd 1 2 (slice program 0 32) (logAdd 1 2 (slice fp 0 32) s)

/-- The register that a failing unit keeps of its own error (R478, Table 15-3). -/
def unitSticky (x : UnitErr) (s : State) : State :=
  match x.code / 256 with
  | 4 => if x.kind = 9 then modObj x.unit (syncStat x.code) s else s
  | 8 => if x.kind = 2 then modQuad x.unit (fun v => { v with err := v.err ||| 2 ^ (x.code % 256 - 1) }) s else s
  | 9 => if x.kind = 1 then modNewt x.unit (fun v => errRecord (croak s) x.code v.pc v) s else s
  | 13 =>
    if x.kind ≠ 5 then s
    else modStack (x.unit % 4) (fun v =>
      if x.code = 0x0D04 then { v with faulted := true }
      else if x.code = 0x0D01 then { v with ue := satAdd 0xFFFF v.ue 1 } else v) s
  | _ => s

/-- A start-up activation that a fault ends has not taken place (R246): the coordinate, the extents, LINKDIV and COORD are not fixed. -/
def startupUndone (s t : State) : State :=
  if s.lay.startupDone then t
  else { t with
    quads := s.quads
    rte := { t.rte with coord := s.rte.coord, extX := s.rte.extX, extY := s.rte.extY, extZ := s.rte.extZ }
    lay := { t.lay with startupDone := false, linkdiv := s.lay.linkdiv, coordSec := s.lay.coordSec } }

/-- A hardware fault during the steps (R245): no image is active, measurement 6 is zero (R453), and the failing unit's error is raised.
DESIGN CHOICE (log 148): the fault ends the activation before step 7, with the earlier steps' tables in place and the image still
staged. -/
def activateFault (f : List Byte) (coord : Nat) (x : UnitErr) (s : State) : State :=
  let t := startupUndone s (activateSteps f coord s)
  let t1 : State := { t with
    lay := { t.lay with
      active := false, signed := false, sched := false, fp := [], program := [], header := [], logic := [], padgrp := [], pads := [] }
    fw := { t.fw with meas := tset [] t.fw.meas 6 [] } }
  logOpen 1 2 (raise { code := x.code, kind := x.kind, unit := x.unit } (unitSticky x t1))

/-- The steps of R245 for a staged image that passes its checks. -/
def activate (f : List Byte) (coord : Nat) (signed : Bool) (s : State) : State :=
  let e := (ctFind f coord).getD []
  let p := ctPart f e
  let logic := sectionOf (imCommon f) 12 0
  let s4 := activateSteps f coord s
  let s5 := { s4 with
    lay := { s4.lay with
      active := true, signed := signed, sched := imSched f, lastErr := 0, activations := satAdd 0xFFFF s4.lay.activations 1
      fp := imFp f, program := imProgram f, header := f.take 256, logic := logic, padgrp := sectionOf (imCommon f) 13 0
      pads := if imSched f then (List.range 3).map (fun l => sectionOf p 4 l) else []
      nspan := fieldAt f 28 4, chipIdx := ctIdx e, spanChips := imageSpan f, staged := none, stagedSigned := false }
    fw := { s4.fw with meas :=
      let m := tset [] s4.fw.meas 6 (imFp f)
      if s.lay.startupDone then m else tset [] m 4 (imFp f) } }
  logDigests (imFp f) (imProgram f) s5

/-! Live replacement (R249, R250). -/

/-- A class has reached its drained indication. -/
def classDrained (s : State) (c : Nat) : Bool := s.rte.drain.drained && drains s c

/-- Whether two shaping nodes have the same fields. -/
def nodeSame (a b : ShpNode) : Bool :=
  decide ({ a with tokens := 0, passed := 0, held := 0, heldPrev := 0 } =
    { b with tokens := 0, passed := 0, held := 0, heldPrev := 0 })

/-- Classes that have a shaping node whose fields a new SHAPER body changes. -/
def shaperClasses (s : State) (b : List Byte) : List Nat :=
  let t := applyShaper true b s
  let ns := (s.shp.nodes ++ t.shp.nodes).map (·.1)
  [1, 2, 3].filter (fun c => ns.any (fun n => !nodeSame (snode s n) (snode t n) &&
    (if n < 0x1000 then true
     else if n < 0x4000 then (n - 0x1000) % 3 + 1 == c
     else (snode s n).cls == c || (snode t n).cls == c)))

/-- The staged replacement that amends the active image, with the part of this chip. -/
def stagedRepl (s : State) : Option (List Byte) :=
  match s.lay.staged with
  | none => none
  | some f => if s.lay.stagedKind = 1 ∧ s.lay.active ∧ slice f 128 32 = digestField s.lay.fp then
      some (ctPart f ((ctFind f s.lay.stagedCoord).getD [])) else none

/-- A swap of sections (bit 0 ROUTE, bit 1 SHAPER, bit 2 EPITAB) fails with a code, or may take effect. A job does not
block it, and a posted collective blocks EPITAB only (log 44). -/
def swapCheck (s : State) (sect : Nat) : Option Nat :=
  let part := stagedRepl s
  let has (t : Nat) : Bool := part.any (fun p => (partDir p).any (fun d => d.1 == t))
  let sh := part.map (fun p => sectionOf p 7 0)
  if layBusy s || (bitOf sect 2 && postedOpen s) then some 0x0C46
  else if (bitOf sect 1 && !has 7) || (bitOf sect 2 && !has 10) || (!s.lay.active) then some 0x0C4A
  else if bitOf sect 0 && !(s.rte.drain.scope == 1 && [1, 2, 3, 5].all (classDrained s)) then some 0x0C4B
  else if bitOf sect 1 && !(shaperClasses s (sh.getD [])).all (classDrained s) then some 0x0C4B
  else if bitOf sect 2 && !classDrained s 3 then some 0x0C4B
  else none

/-- A replacement's ROUTE table goes into the bank that is not in use. -/
def routeInto (b : Option (List Byte)) (s : State) : State :=
  match b with
  | none => s
  | some b =>
    if s.lay.routeBank = 0 then { s with rte := { s.rte with bank1 := routeBank b } }
    else { s with rte := { s.rte with bank0 := routeBank b } }

/-- The entry of a swapped section: its digest and its type (log 147). -/
def logSection (typ : Nat) (body : List Byte) (s : State) : State := logAdd 1 3 (shake256 body 32 ++ leBytes 1 typ) s

/-- The entries of a swap (R250), one for each section swapped. -/
def logSections (sect : Nat) (p : List Byte) (bank : Nat) (s : State) : State :=
  let s1 := match sectOpt p 3 bank with
    | some b => if bitOf sect 0 then logSection 3 b s else s
    | none => if bitOf sect 0 then logOpen 1 3 s else s
  let s2 := if bitOf sect 1 then logSection 7 (sectionOf p 7 0) s1 else s1
  if bitOf sect 2 then logSection 10 (sectionOf p 10 0) s2 else s2

/-- A swap that passes its checks takes effect (R250). -/
def tableSwap (sect : Nat) (s : State) : State :=
  let p := (stagedRepl s).getD []
  let s1 := if bitOf sect 0 then
      swapRoute (routeInto (sectOpt p 3 (1 - s.lay.routeBank)) s)
    else s
  let s2 := if bitOf sect 1 then
      let t := applyShaper true (sectionOf p 7 0) s1
      { t with lay := { t.lay with shaperRev := (t.lay.shaperRev + 1) % 65536 } }
    else s1
  let s3 : State := if bitOf sect 2 then
      { s2 with lay := { s2.lay with epitab := (epTables (sectionOf p 10 0)).map (fun t => (fieldAt t 0 2, t))
                                     epitabRev := (s2.lay.epitabRev + 1) % 65536 } }
    else s2
  logSections sect p (1 - s.lay.routeBank) { s3 with lay := { s3.lay with
    lastErr := 0, staged := if p.isEmpty then s3.lay.staged else none } }

end Sys2Proof.Machine
end

