-- ==== Sys2Proof/Machine/HostLink.lean ====
section
/-! DEFINITION. The host link (R414, R419 to R424, R435 to R439): the CXL link, HDM accesses, heartbeat, ORPHAN, the
function-level reset, the event ring and the completion rings. -/

namespace Sys2Proof.Machine

/-- Change the host interface. -/
def modHif (f : Hif → Hif) (s : State) : State := { s with hif := f s.hif }

/-- HIF_STATE.STATE. -/
def hifNum (t : HifState) : Nat :=
  match t with
  | .booting => 0 | .unowned => 1 | .owned => 2 | .orphan => 3

/-- A malformed access or a refused register write (R8, R442). -/
def badAccess (s : State) : State := raise { code := 0x0101 } s

/-- Slots whose command has been taken and not replied to. -/
def taken (m : Slot) : Bool := m.work != .idle

/-! Rings (R435, R436, R439). -/

/-- The event ring takes an entry now. -/
def eventRoom (s : State) : Bool :=
  fwRuns s && s.hif.evGiven && s.hif.state != .orphan && decide (s.hif.evBase ≠ 0) && !s.hif.held.isEmpty &&
    decide ((s.hif.evWr + 65536 - s.hif.evRd) % 65536 < 2 ^ s.hif.evLog2)

/-- The 32 bytes of an event entry (Table 13-7). -/
def eventBytes (e : EventItem) : List Byte := leBytes 2 e.typ ++ zeros 6 ++ leBytes 8 e.croak ++ slice e.data 0 16

/-- Write the oldest held event. -/
def eventWrite (s : State) : State :=
  if !eventRoom s then s
  else match s.hif.held with
    | [] => s
    | e :: r =>
      let a := 64 * s.hif.evBase + 32 * (s.hif.evWr % 2 ^ s.hif.evLog2)
      vector 448 (modHif (fun h => { h with held := r, evWr := (h.evWr + 1) % 65536 }) (hostWrite a (eventBytes e) s))

/-- Write held events while the ring takes them. -/
def eventPump (fuel : Nat) (s : State) : State :=
  match fuel with
  | 0 => s
  | fuel + 1 => if eventRoom s then eventPump fuel (eventWrite s) else s

/-- The completion ring of job slot `j` takes a record now. -/
def recordRoom (j : Nat) (s : State) : Bool :=
  let v := job s j
  fwRuns s && v.ringGiven && s.hif.state != .orphan && !v.held.isEmpty && v.state != .free &&
    decide ((v.wr + 2 ^ 32 - v.rd) % 2 ^ 32 < 2 ^ v.clog2)

/-- Write the oldest held completion record of job slot `j` (R435), with the croak count at which it is written (R146), then tell
the collective's members on this chip (R145). -/
def recordWrite (j : Nat) (s : State) : State :=
  if !recordRoom j s then s
  else
    let v := job s j
    match v.held with
    | [] => s
    | (b, irq) :: r =>
      let s1 := setJob j { v with held := r, wr := (v.wr + 1) % 2 ^ 32 } 
        (hostWrite (v.cring + 64 * (v.wr % 2 ^ v.clog2)) (slice b 0 8 ++ leBytes 8 (croak s) ++ b.drop 16) s)
      memberNotes b (if irq && v.vec != 0xFF then vector (320 + v.vec) s1 else s1)

/-- Write held records while the ring takes them. -/
def recordPump (fuel j : Nat) (s : State) : State :=
  match fuel with
  | 0 => s
  | fuel + 1 => if recordRoom j s then recordPump fuel j (recordWrite j s) else s

/-- A write of HIF_EVRING: a LOG2SIZE outside 4 to 15 with a ring is refused (log 45). A ring written in ORPHAN is not the
one that R439 names. -/
def evRingWrite (w : Nat) (s : State) : State :=
  if bits w 63 6 ≠ 0 ∧ bits w 3 0 < 4 then badAccess s
  else
    let s1 := modHif (fun h => { h with evLog2 := bits w 3 0, evBase := bits w 63 6,
                                        evGiven := h.evGiven || h.state != .orphan }) s
    eventPump s1.hif.held.length s1

/-- A write of HIF_EVHEAD.RD. -/
def evRdWrite (rd : Nat) (s : State) : State :=
  let s1 := modHif (fun h => { h with evRd := rd % 65536 }) s
  eventPump s1.hif.held.length s1

/-- A write of HIF_JOBRING.RD. -/
def jobRdWrite (j rd : Nat) (s : State) : State :=
  let s1 := modJob j (fun v => { v with rd := rd % 2 ^ 32 }) s
  recordPump (job s1 j).held.length j s1

/-! Cancelling the work of a slot (R424, R428). -/

/-- Units that a SELFTEST reserves are free again. -/
def unreserve (m : Slot) (s : State) : State :=
  (List.range (m.scratch.getD 2 0)).foldl (fun t i =>
    let u := m.scratch.getD 1 0 + i
    match m.scratch.getD 0 3 with
    | 0 => modNewt u (fun v => { v with reserved := false }) t
    | _ => t) s

/-- The copy of the snapshot in slot `i` ends (R469): once no other copy runs, the staged entries go to the ring. -/
def snapEnd (i : Nat) (s : State) : State :=
  if s.log.snap && !s.hif.slots.any (fun e => e.1 != i && e.2.work == .transfer && slotCmd e.2 == 0xA0) then logUnstage { s with log := { s.log with snap := false, snapEarly := none } } else s

/-- A SELFTEST ends without its result: the units are free, and the writes of MAINT that it held take effect (R463). -/
def testCancel (i : Nat) (s : State) : State :=
  let m := mslot s i
  (m.scratch.drop 3).foldl (fun t q => qctlWrite q 0 t) (modMslot i (fun m => { m with work := .idle, scratch := [] }) (unreserve m s))

/-- What a taken command has begun is withdrawn: a LOCAL drain ends, a FABRIC one is released (R315). Abort requests that were made
and a pause that the span has reached stand (log 46). -/
def cmdCancel (i : Nat) (s : State) : State :=
  let m := mslot s i
  match slotCmd m with
  | 0x10 => { s with lay := { s.lay with busy := false } }
  | 0x22 => { s with colls := s.colls.map (fun e => (e.1, { e.2 with abortSlots := e.2.abortSlots.filter (· ≠ i) })) }
  | 0x23 =>
    let s1 : State := { s with jobs := s.jobs.map (fun e =>
      (e.1, if e.2.ckptPending = some i then { e.2 with ckptPending := none } else e.2)) }
    { s1 with sch := { s1.sch with pausePend := false } }
  | 0x40 => if s.rte.drain.classes ≠ 0 ∧ !s.rte.drain.releasePend ∧ m.work = .waiting then drainRelease s else s
  | 0x51 => if s.fw.molt = .waiting then { s with fw := { s.fw with molt := .none } } else s
  | 0x60 => testCancel i s
  | 0xA0 => snapEnd i s
  | _ => s

/-- A slot returns to FREE (R424). -/
def slotFree (i : Nat) (s : State) : State :=
  let m := mslot s i
  let s1 := if m.work = .idle ∨ m.work = .ready then s
    else if m.work = .preop then unwaitAll (agentSlot i) s
    else if slotCmd m = 0x40 then s
    else cmdCancel i s
  setMslot i { bytes := m.bytes.set 0 0 } s1

/-! ORPHAN (R423, R437). -/

/-- Enter ORPHAN with a cause; during a molt pause it falls due at the pause's end (R457). -/
def enterOrphan (code : Nat) (s : State) : State :=
  if s.hif.state ≠ .owned then s
  else if s.fw.molt = .paused then { s with fw := { s.fw with orphanDue := code } }
  else
    let s1 := modHif (fun h => { h with state := .orphan, orphanAt := croak s, evGiven := false, pba := [] }) s
    let s2 : State := { s1 with jobs := s1.jobs.map (fun e =>
      (e.1, { e.2 with ringGiven := false, orphaned := e.2.orphaned || e.2.state == .running })) }
    raise { code := code } (logOpen 1 5 (dmaOrphan s2))

/-- The CXL link goes down. -/
def linkDown (s : State) : State := enterOrphan 0x0116 (modHif (fun h => { h with cxlUp := false }) s)

/-- The function-level reset (R424). -/
def flr (s : State) : State :=
  let s1 := (s.hif.slots.map (·.1)).foldl (fun t i => slotFree i t) s
  let s2 := modHif (fun h => { h with msix := [], pba := [], evLog2 := 0, evBase := 0 }) s1
  let s3 : State := { s2 with jobs := s2.jobs.map (fun e => (e.1, { e.2 with wr := 0, rd := 0 })) }
  enterOrphan 0x0106 (dmaFlr s3)

/-! HDM (R419). -/

/-- CXL.mem reaches the device at an HDM offset. -/
def hdmOpen (s : State) (off : Nat) : Bool :=
  up s && s.hif.cxlUp && !s.hif.cxlIoOnly && decide (off % 64 = 0 ∧ off + 64 ≤ hdmSize s)

/-- A 64-byte read; a poisoned block is an uncorrectable read (R387). -/
def hdmRead (off : Nat) (s : State) : State :=
  let a := hdmAddr s off
  if !hdmOpen s off ∨ padKept 255 a s then s
  else
    let p := poisoned s a 64
    emit (.hdm (lovRead s a 64) p) (if p then stkUe a s else readDrawn a s)

/-- A 64-byte write; one that carries poison stores the block poisoned. -/
def hdmWrite (off : Nat) (data : List Byte) (poison : Bool) (s : State) : State :=
  let a := hdmAddr s off
  if !hdmOpen s off ∨ padKept 255 a s then s
  else
    let s1 := lovWrite a (slice data 0 64) s
    if poison then { s1 with lov := { s1.lov with poison := insertNat s1.lov.poison (a / 64) } } else s1

/-! Registers. -/

/-- A write of HIF_HEARTBEAT (R423). -/
def heartbeatWrite (w : Nat) (s : State) : State :=
  if s.hif.state = .owned ∧ bits w 31 0 = s.hif.epoch then modHif (fun h => { h with lastBeat := croak s }) s else s

/-- A write of HIF_HDMCFG.NEXT (R418). -/
def hdmNextWrite (w : Nat) (s : State) : State :=
  if 12 < bits w 7 4 then badAccess s else modHif (fun h => { h with hdmNext := bits w 7 4 }) s

/-! Meanings. -/

/-- FUNCTION_LEVEL_RESET. -/
def execFunctionLevelReset (s : State) : Res := whenUp flr s
/-- CXL_LINK_DOWN. -/
def execCxlLinkDown (s : State) : Res := whenUp linkDown s
/-- CXL_REFCLK_LOSS (R499). -/
def execCxlRefclkLoss (s : State) : Res := whenUp linkDown s
/-- CXL_LINK_UP (R414). -/
def execCxlLinkUp (x8 gt32 flit68 : Bool) (s : State) : Res :=
  whenUp (modHif (fun h => { h with cxlUp := true, cxlX8 := x8, cxl32 := gt32, cxlIoOnly := flit68 })) s
/-- HDM_READ. -/
def execHdmRead (off : Nat) (s : State) : Res := .next (hdmRead off s)
/-- HDM_WRITE. -/
def execHdmWrite (off : Nat) (data : List Byte) (poison : Bool) (s : State) : Res := .next (hdmWrite off data poison s)
/-- HEARTBEAT_WRITE. -/
def execHeartbeatWrite (value : Word) (s : State) : Res := whenUp (heartbeatWrite value.toNat) s
/-- HEARTBEAT_LOSS. -/
def execHeartbeatLoss (s : State) : Res := whenUp (enterOrphan 0x0106) s
/-- HDM_SIZE_WRITE. -/
def execHdmSizeWrite (value : Word) (s : State) : Res := whenUp (hdmNextWrite value.toNat) s
/-- EVENT_RING_WRITE. -/
def execEventRingWrite (value : Word) (s : State) : Res := whenUp (evRingWrite value.toNat) s
/-- EVENT_WRITE. -/
def execEventWrite (s : State) : Res := whenUp eventWrite s
/-- COMPLETION_RECORD_WRITE. -/
def execCompletionRecordWrite (j : Fin 64) (s : State) : Res := whenUp (recordWrite j.val) s
/-- RING_READ_ADVANCE. -/
def execRingReadAdvance (j : Option (Fin 64)) (rd : Nat) (s : State) : Res :=
  whenUp (match j with
    | none => evRdWrite rd
    | some j => jobRdWrite j.val rd) s

end Sys2Proof.Machine
end

