-- ==== Sys2Proof/Machine/Mailbox.lean ====
section
/-! DEFINITION. The mailbox (R417, R425 to R430): slot writes, the scan and its checks, pre-operations, timeouts, and the
frame that every command shares; and IDENTIFY and LOG_SNAPSHOT. -/

namespace Sys2Proof.Machine

/-! Slot writes (R417, R425). -/

/-- STATE of a slot. -/
def slotState (m : Slot) : Nat := hdr m.bytes 0 1

/-- The occurrence of a discarded slot write. -/
def slotOcc (i code : Nat) (s : State) : Occ := cmdOcc i code 0 s

/-- A write to a slot that is POSTED or TAKEN is discarded. -/
def slotOverwrite (i : Nat) (s : State) : State :=
  raise (slotOcc i 0x0115 s) (modHif (fun h => { h with mbDiscarded := (h.mbDiscarded + 1) % 2 ^ 32 }) s)

/-- A BAR2 write of `width` bytes. A 64-bit write of bytes 0 to 7 whose STATE is not 1 posts nothing, and STATE stays. -/
def slotWrite (off value width : Nat) (s : State) : State :=
  let i := off / 4096
  let p := off % 4096
  let m := mslot s i
  let lone := decide (p < 8 ∧ width ≠ 8)
  if !(width == 1 || width == 2 || width == 4 || width == 8) ∨ off % width ≠ 0 then raise (slotOcc i 0x0101 s) s
  else if 256 ≤ p then s
  else if lone then raise (slotOcc i 0x0101 s) s
  else if slotState m = 1 ∨ slotState m = 2 then slotOverwrite i s
  else
    let new := leBytes width value
    let kept := if p = 0 ∧ value % 256 ≠ 1 then new.set 0 (m.bytes.getD 0 0) else new
    setMslot i { m with bytes := putBytes m.bytes p kept } s

/-- A BAR2 read of `width` bytes (R417): what it answers, and the state after it. -/
def slotRead (off width : Nat) (s : State) : State × Nat :=
  let i := off / 4096
  let p := off % 4096
  if !(width == 1 || width == 2 || width == 4 || width == 8) ∨ off % width ≠ 0 then (raise (slotOcc i 0x0101 s) s, 0)
  else (s, if 256 ≤ p then 0 else fieldAt (mslot s i).bytes p width)

/-- The write of bytes 0 to 7 that posts a command. -/
def slotPost (i value : Nat) (s : State) : State := slotWrite (4096 * i) value 8 s

/-! The header and the request (Tables 13-3 to 13-5). -/

/-- RQLEN of a command; none for an unknown command. -/
def cmdRqlen (c : Nat) : Option Nat :=
  match c with
  | 0x01 => some 0 | 0x10 => some 24 | 0x11 => some 32 | 0x20 => some 48 | 0x21 => some 24 | 0x22 => some 16
  | 0x23 => some 24 | 0x24 => some 24 | 0x30 => some 72 | 0x40 => some 8 | 0x41 => some 8 | 0x50 => some 16
  | 0x51 => some 8 | 0x60 => some 16 | 0x70 => some 16 | 0x71 => some 48 | 0x80 => some 24 | 0x90 => some 24
  | 0xA0 => some 16 | _ => none

/-- PREOP. -/
def preop (m : Slot) : Nat := bits (hdr m.bytes 1 1) 2 1
/-- OBJ. -/
def preObj (m : Slot) : Nat := bits (hdr m.bytes 16 2) 12 0
/-- D. -/
def preD (m : Slot) : Nat := hdr m.bytes 18 2

/-- Reserved fields and values of the header, and RQLEN. -/
def headerGood (m : Slot) : Bool :=
  let tmo := hdr m.bytes 12 2
  cmdRqlen (slotCmd m) == some (hdr m.bytes 14 2) && bits (hdr m.bytes 1 1) 7 3 == 0 && preop m != 3 &&
    bits tmo 15 10 == 0 && (tmo == 0 || (tmoTicks tmo).isSome) && bits (hdr m.bytes 16 2) 15 13 == 0 &&
    (if preop m = 1 then preD m != 0 else preD m == 0)

/-- `n` request bytes from `off` are zero. -/
def reqZero (m : Slot) (off n : Nat) : Bool := req m off n == 0

/-- Reserved fields and values of the request. -/
def requestGood (m : Slot) : Bool :=
  match slotCmd m with
  | 0x10 => decide (req m 18 1 ≤ 1) && reqZero m 19 5
  | 0x20 =>
    decide (4 ≤ req m 24 1 ∧ req m 24 1 ≤ 16 ∧ (req m 25 1 ≤ 127 ∨ req m 25 1 = 255) ∧ req m 26 1 ≤ 1) && reqZero m 27 5 &&
      reqZero m 40 8 && (if req m 26 1 = 1 then reqZero m 0 16 else reqZero m 32 8)
  | 0x21 => decide (req m 16 1 ≤ 1) && reqZero m 17 7
  | 0x22 => decide (req m 11 1 ≤ 1) && (req m 11 1 == 0 || reqZero m 8 3) && reqZero m 12 4
  | 0x40 => decide (req m 2 1 < 32 ∧ req m 3 1 ≤ 1 ∧ req m 4 1 ≤ 3) && reqZero m 5 3
  | 0x41 => decide (1 ≤ req m 0 1 ∧ req m 0 1 ≤ 7) && reqZero m 1 7
  | 0x60 => decide (req m 0 1 ≤ 2) && reqZero m 1 1 && reqZero m 6 2
  | 0x80 => decide (req m 20 1 ≤ 1) && reqZero m 21 3
  | 0x90 => decide (req m 4 1 ≤ 1) && reqZero m 5 3
  | _ => true

/-- The state rules of Table 13-2: the code of a refusal. -/
def stateRule (s : State) (m : Slot) : Option Nat :=
  let c := slotCmd m
  match s.hif.state with
  | .booting => if c = 1 then none else some 0x0103
  | .unowned => if c = 1 ∨ c = 0x90 ∨ c = 0xA0 then none else some 0x0104
  | .owned => if c = 1 ∨ c = 0x90 ∨ hdr m.bytes 8 4 = s.hif.epoch then none else some 0x0104
  | .orphan => if c = 1 ∨ c = 0x90 ∨ c = 0xA0 then none else some 0x0105

/-! Taking a command (R426, R427). -/

/-- The job handle that a command names, 0 for none (R428). -/
def slotJob (m : Slot) : Nat :=
  let c := slotCmd m
  if c = 0x20 then req m 32 8
  else if c = 0x21 ∨ c = 0x22 ∨ c = 0x23 ∨ c = 0x24 ∨ c = 0x30 ∨ c = 0x80 then req m 0 8 else 0

/-- Change the work of a slot. -/
def slotWork (i : Nat) (w : SlotWork) (s : State) : State := modMslot i (fun m => { m with work := w }) s

/-- A slot's PREOP begins, with the slot as waiter. An invalid one has been recorded by the sync-object unit. A BARR finds the
control complex's leaf arrived while another slot's BARR is unreleased (R427, log 112). -/
def preopBegin (i : Nat) (s : State) : State :=
  let m := mslot s i
  let o := preObj m
  let a := agentSlot i
  let s1 := touch (jobOf (slotJob m) s) o (slotWork i .preop s)
  let (s2, err) :=
    if preop m = 1 then syncWait o a (preD m) s1
    else if (obj s o).kind = 2 ∧ 2112 ∈ (bline s (obj s o).bl).arrived then (syncErr o 0x0403 a 0 0 0 s1, some 0x0403)
    else barrArrive o a s1
  match err with
  | none => s2
  | some c => reply i c [] s2

/-- The place of the next slot in the order in which slots are taken. -/
def nextOrder (s : State) : Nat := (s.hif.slots.map (fun e => e.2.order)).foldl max 0 + 1

/-- An ADOPT taken before slot `i` has yet to run: it takes effect before the command of the slot is judged (R438). -/
def adoptAhead (s : State) (i : Nat) : Bool :=
  s.hif.slots.any (fun e => e.1 != i && e.2.work == .ready && slotCmd e.2 == 0x90 && decide (e.2.order < (mslot s i).order))

/-- The state rules and the PREOP of a taken command. -/
def slotRule (i : Nat) (s : State) : State :=
  let m := mslot s i
  match stateRule s m with
  | some c => cmdFail i c s
  | none => if preop m = 0 then s else preopBegin i s

/-- The commands that an ADOPT held back are judged under the epoch and the state that it leaves. -/
def adoptOver (s : State) : State :=
  ((s.hif.slots.filter (fun e => e.2.unruled)).map (·.1)).foldl (fun t i =>
    if adoptAhead t i then t else slotRule i (modMslot i (fun m => { m with unruled := false }) t)) s

/-- Take the command of slot `i`; the command is logged (R468, log 62). -/
def slotTake (i : Nat) (s : State) : State :=
  let m := mslot s i
  let s1 := logOpen 3 (slotCmd m)
    (setMslot i { m with bytes := m.bytes.set 0 2, work := .ready, scratch := [], buffer := [], unruled := false, order := nextOrder s } s)
  if !headerGood m ∨ !requestGood m then cmdFail i 0x0102 s1
  else if adoptAhead s1 i then modMslot i (fun m => { m with unruled := true }) s1
  else slotRule i s1

/-- POSTED slots, ascending. -/
def postedSlots (s : State) : List Nat := (s.hif.slots.filter (fun e => slotState e.2 == 1)).map (·.1)

/-- MAILBOX_SCAN. -/
def scan (s : State) : State := if fwRuns s then (postedSlots s).foldl (fun t i => slotTake i t) s else s

/-! Running a command (R428). -/

/-- A slot taken earlier holds the command of slot `i`. JOB_ABORT is never held. -/
def heldBy (s : State) (i : Nat) (e : Nat × Slot) : Bool :=
  let m := mslot s i
  let swap (c : Nat) : Bool := c == 0x40 || c == 0x41
  e.1 != i && taken e.2 && decide (e.2.order < m.order) && slotCmd m != 0x22 &&
    ((slotJob m != 0 && slotJob m == slotJob e.2) || (swap (slotCmd m) && swap (slotCmd e.2)))

/-- The command of slot `i` runs now. -/
def runnable (c i : Nat) (s : State) : Bool :=
  let m := mslot s i
  fwRuns s && m.work == .ready && !m.unruled && slotCmd m == c && !(s.hif.slots.any (heldBy s i))

/-- Run a command of code `c` in slot `i`. -/
def onSlot (c i : Nat) (f : Slot → State → State) (s : State) : State := if runnable c i s then f (mslot s i) s else s

/-- A host address that is not a multiple of 64 fails the command (R430). -/
def aligned64 (i a : Nat) (f : State → State) (s : State) : State := if a % 64 ≠ 0 then cmdFail i 0x010F s else f s

/-- A copy to host memory begins: the bytes are set aside, with the reply that follows it. -/
def copyOut (i : Nat) (bytes : List Byte) (scratch : List Nat) (s : State) : State :=
  modMslot i (fun m => { m with work := .transfer, buffer := bytes, scratch := scratch }) s

/-- A read from host memory begins. -/
def copyIn (i : Nat) (s : State) : State := slotWork i .transfer s

/-- The timeout of a command in its PREOP, in a wait of its own, or while an earlier command holds it (R428). -/
def cmdTimeout (i : Nat) (s : State) : State :=
  let m := mslot s i
  if m.work = .preop then waitTimeout (preObj m) (agentSlot i) s
  else if m.work = .waiting then cmdFail i 0x0107 (cmdCancel i s)
  else if m.work = .ready && (m.unruled || s.hif.slots.any (heldBy s i)) then adoptOver (cmdFail i 0x0107 s)
  else s

/-! IDENTIFY. -/

/-- The reply of IDENTIFY (Table 13-5). -/
def identifyReply (s : State) : List Byte :=
  leBytes 8 identWord ++ wordBytes Config.serial ++ fwverBytes s ++ leBytes 1 s.fw.slot ++ leBytes 1 (hifNum s.hif.state) ++
    leBytes 1 (if s.hif.cxlIoOnly then 0 else s.hif.hdm) ++ leBytes 1 0x10 ++ leBytes 2 (mapCount s 0 2048) ++
    leBytes 2 (if s.lay.startupDone then s.rte.coord else 0xFFFF) ++ activeFp s ++ keyDigest ++ leBytes 4 s.hif.epoch

/-- IDENTIFY. -/
def identify (i : Nat) (s : State) : State := cmdDone i (rp 112 (identifyReply s)) s

/-! LOG_SNAPSHOT (R469). -/

/-- The first sequence number of a snapshot. -/
def snapFirst (s : State) : Nat := s.log.head - min s.log.head 65536

/-- `n` entries of the log ring from sequence number `a`. -/
def logBytes (s : State) (a n : Nat) : List Byte :=
  (List.range n).flatMap (fun k => lovRead s (logBase + 64 * ((a + k) % 65536)) 64)

/-- LOG_SNAPSHOT begins. -/
def snapBegin (i : Nat) (m : Slot) (s : State) : State :=
  aligned64 i (req m 0 8) (fun s =>
    let a := snapFirst s
    let n := s.log.head - a
    if req m 8 8 < 64 * n then cmdFail i 0x0114 s
    else
      let s1 := copyOut i (logBytes s a n) [a, n] s
      { s1 with log := { s1.log with snap := true, snapEarly := none } }) s

/-- A copy that ended early has copied some of its entries: how many is open (log 2). -/
def snapCount (m : Slot) (s : State) : Nat :=
  match s.log.snapEarly with
  | none => m.scratch.getD 1 0
  | some v => v % (m.scratch.getD 1 0 + 1)

/-- LOG_SNAPSHOT ends. -/
def snapDone (i : Nat) (ok : Bool) (m : Slot) (s : State) : State :=
  let n := snapCount m s
  let s1 := snapEnd i s
  let s2 : State := if s1.log.snap then s1 else { s1 with log := { s1.log with snapEarly := none } }
  if ok then
    cmdDone i (rp 16 (leBytes 8 (64 * n) ++ leBytes 8 (m.scratch.getD 0 0))) (hostWrite (req m 0 8) (m.buffer.take (64 * n)) s2)
  else cmdFail i 0x0110 s2

/-! Meanings. -/

/-- MAILBOX_SLOT_WRITE. -/
def execMailboxSlotWrite (off : Nat) (value : Word) (width : Nat) (s : State) : Res :=
  whenUp (slotWrite (off % 2 ^ 20) value.toNat width) s
/-- MAILBOX_POST. -/
def execMailboxPost (slot : Fin 256) (word : Word) (s : State) : Res := whenUp (slotPost slot.val word.toNat) s
/-- MAILBOX_SCAN. -/
def execMailboxScan (s : State) : Res := whenUp scan s
/-- COMMAND_TIMEOUT. -/
def execCommandTimeout (slot : Fin 256) (s : State) : Res := whenUp (cmdTimeout slot.val) s
/-- IDENTIFY. -/
def execIdentify (slot : Fin 256) (s : State) : Res := whenUp (onSlot 1 slot.val (fun _ => identify slot.val)) s
/-- LOG_SNAPSHOT. -/
def execLogSnapshot (slot : Fin 256) (s : State) : Res := whenUp (onSlot 0xA0 slot.val (snapBegin slot.val)) s

end Sys2Proof.Machine
end

