-- ==== Sys2Proof/Machine/LayoutCmds.lean ====
section
/-! DEFINITION. The layout commands and drains: LOAD_LAYOUT (R241 to R243), ACTIVATE_LAYOUT (R244 to R246), DRAIN (R312 to
R316) and TABLE_SWAP (R249, R250). -/

namespace Sys2Proof.Machine

/-- Change layout handling. -/
def modLay (f : Layout → Layout) (s : State) : State := { s with lay := f s.lay }

/-- A layout command fails with a code, which GLB_LAYSTAT.LAST_ERR holds. -/
def layFail (i code chk : Nat) (s : State) : State :=
  cmdFailAt i code chk (modLay (fun l => { l with lastErr := code }) s)

/-- The number of the check of Table 7-10 that a code belongs to. -/
def loadChkNum (s : State) (f : List Byte) (code : Nat) : Nat :=
  match code with
  | 0x0C46 => 1 | 0x0C41 => 3 | 0x0C43 => 4 | 0x0C42 => 5 | 0x0C44 => 7 | 0x0C4A => 8 | 0x0C4C => 9
  | _ => if fileOk f s.lay.linkdiv s.rte.coord then 6 else 2

/-- The number of the check of Table 7-11 that a code belongs to. -/
def actChkNum (code : Nat) : Nat :=
  match code with
  | 0x0C46 => 1 | 0x0C47 => 2 | 0x0C48 => 3 | 0x0C45 => 4 | 0x0C49 => 5 | 0x0909 => 6 | 0x0C42 => 6 | 0x0A0B => 7
  | 0x0B08 => 8 | 0x0B03 => 9 | _ => 0

/-! LOAD_LAYOUT. -/

/-- COORD. -/
def loadCoord (m : Slot) : Nat := req m 16 2
/-- LFLAGS.KEEP. -/
def loadKeep (m : Slot) : Bool := bitOf (req m 18 1) 0

/-- LOAD_LAYOUT begins: a file over 4 GiB fails check 2. -/
def loadBegin (i : Nat) (m : Slot) (s : State) : State :=
  if req m 0 8 % 64 ≠ 0 then layFail i 0x010F 0 s
  else if layBusy s then layFail i 0x0C46 1 s
  else if 2 ^ 32 < req m 8 8 then layFail i 0x0C40 2 s
  else copyIn i (modLay (fun l => { l with busy := true }) s)

/-- The load has passed every check: the image is staged (R242), in the staging region of Lovor memory (R384), which begins at 0. -/
def loadStage (i : Nat) (f : List Byte) (m : Slot) (s : State) : State :=
  let k := keptFile f (loadCoord m)
  cmdDone i (rp 40 (imFp f ++ leBytes 1 (imKind f))) (modLay (fun l => { l with
    staged := some k, stagedCoord := loadCoord m, stagedKind := imKind f, busy := false, lastErr := 0
    stagedSigned := decide (imSig f ≠ 0) && s.fuse.custkey.isSome }) (lovStore 0 k s))

/-- Slot A of the store holds the newer complete image (R243). -/
def storeANewer (s : State) : Bool :=
  s.lay.storeA.complete && (!s.lay.storeB.complete || decide (s.lay.storeB.gen < s.lay.storeA.gen))

/-- The slot of the store that holds the newer complete image, slot B when none does. -/
def storeOther (s : State) : LaySlot := if storeANewer s then s.lay.storeA else s.lay.storeB

/-- Replace the store slot that does not hold the newer complete image. -/
def storePut (v : LaySlot) (s : State) : State :=
  if storeANewer s then modLay (fun l => { l with storeB := v }) s else modLay (fun l => { l with storeA := v }) s

/-- The file has been read: the checks of Table 7-10, then the staging, after the flash write where it is kept. -/
def loadRead (i : Nat) (ok : Bool) (f : List Byte) (m : Slot) (s : State) : State :=
  let idle := modLay (fun l => { l with busy := false }) s
  if !ok then layFail i 0x0110 0 idle
  else match loadCheck s f (req m 8 8) (loadCoord m) (loadKeep m) with
    | some c => layFail i c (loadChkNum s f c) idle
    | none =>
      if loadKeep m then modMslot i (fun m => { m with work := .flash, buffer := f }) (storePut {} s)
      else loadStage i f m s

/-- The kept file is in flash and verified: the slot is complete. -/
def loadKept (i : Nat) (ok : Bool) (m : Slot) (s : State) : State :=
  let f := m.buffer
  if ok then
    loadStage i f m (storePut { complete := true, gen := (storeOther s).gen + 1, coord := loadCoord m, fp := imFp f,
                                digest := shake256 f 32, file := f } s)
  else
    layFail i (flashCode s) 0 (drawn (modLay (fun l => { l with busy := false }) s))

/-! ACTIVATE_LAYOUT. -/

/-- The code of the first check of Table 7-11 that fails. -/
def activateFails (s : State) (fp : List Byte) : Option Nat :=
  if jobBusy s || postedOpen s || layBusy s then some 0x0C46
  else match s.lay.staged with
    | none => some 0x0C47
    | some f => if s.lay.stagedKind ≠ 0 ∨ imFp f ≠ fp then some 0x0C47 else activateCheck s f s.lay.stagedCoord

/-- A poisoned block of the staged image fails the command that reads it (R388). -/
def unlessStagedPoison (i : Nat) (f : State → State) (s : State) : State :=
  match s.lay.staged.bind (fun k => poisonAt s 0 k.length) with
  | some p => reply i 0x0D01 [] (modLay (fun l => { l with lastErr := 0x0D01 }) (stkUe p s))
  | none => f s

/-- ACTIVATE_LAYOUT. A unit that fails during the steps ends it with its error (R245), one of the codes of Table 15-3 (R485). -/
def activateCmd (i : Nat) (fault : Option UnitErr) (m : Slot) : State → State := unlessStagedPoison i (fun s =>
  if s.fw.recovery then layFail i 0x0C09 0 s
  else match activateFails s (slice m.bytes 32 32) with
    | some c => logOpen 1 2 (layFail i c (actChkNum c) s)
    | none => match fault.filter (fun x => definedCode x.code) with
      | some x => reply i x.code []
          (modLay (fun l => { l with lastErr := x.code }) (activateFault (s.lay.staged.getD []) s.lay.stagedCoord x s))
      | none =>
      let t := activate (s.lay.staged.getD []) s.lay.stagedCoord s.lay.stagedSigned s
      let flags := pack [(1, bnat t.lay.sched), (1, bnat t.lay.signed), (1, bnat !s.lay.startupDone)]
      cmdDone i (rp 72 (digestField t.lay.fp ++ digestField t.lay.program ++ leBytes 1 flags)) t)

/-! DRAIN. -/

/-- A DRAIN is refused (R316). A release ends the host's own drain. -/
def drainRefused (s : State) (classes scope : Nat) (release : Bool) : Bool :=
  s.rte.drain.fw || (!release && decide (s.rte.drain.classes ≠ 0 ∨ (scope = 1 ∧ bitOf classes 3)))

/-- DRAIN. One that names no class is in effect at once, and nothing drains. -/
def drainCmd (i : Nat) (m : Slot) (s : State) : State :=
  let classes := req m 2 1
  let scope := req m 3 1
  let release := bitOf (req m 4 1) 0
  let out (t : State) : State := cmdDone i (leBytes 8 (drainReg t)) t
  if drainRefused s classes scope release then
    cmdFailWith i { code := 0x060B, kind := 15, unit := s.rte.coord, d := [0, 0, 0, req m 0 2] } s
  else if release then
    out (if s.rte.drain.classes = 0 ∨ s.rte.drain.releasePend then s else drainRelease s)
  else if classes = 0 then out s
  else
    let s1 := drainStart classes scope (req m 0 2) false s
    if bitOf (req m 4 1) 1 then slotWork i .waiting s1 else out s1

/-! TABLE_SWAP. -/

/-- TABLE_SWAP. -/
def swapCmd (i : Nat) (m : Slot) : State → State := unlessStagedPoison i (fun s =>
  match swapCheck s (req m 0 1) with
  | some c => layFail i c (actChkNum c) s
  | none =>
    let t := tableSwap (req m 0 1) s
    cmdDone i (rp 16 (leBytes 8 (layLive t) ++ leBytes 1 t.lay.routeBank)) t)

/-! Meanings. -/

/-- LOAD_LAYOUT. -/
def execLoadLayout (slot : Fin 256) (s : State) : Res := whenUp (onSlot 0x10 slot.val (loadBegin slot.val)) s
/-- ACTIVATE_LAYOUT. -/
def execActivateLayout (act : Activation) (s : State) : Res :=
  whenUp (onSlot 0x11 act.slot.val (activateCmd act.slot.val act.fault)) s
/-- DRAIN. -/
def execDrain (slot : Fin 256) (s : State) : Res := whenUp (onSlot 0x40 slot.val (drainCmd slot.val)) s
/-- TABLE_SWAP. -/
def execTableSwap (slot : Fin 256) (s : State) : Res := whenUp (onSlot 0x41 slot.val (swapCmd slot.val)) s

end Sys2Proof.Machine
end

