-- ==== Sys2Proof/Machine/Jobs.lean ====
section
/-! DEFINITION. Jobs from the host (R195, R431, R432) and ownership (R438, R439): JOB_OPEN, JOB_LAUNCH, JOB_ABORT,
RUN_RECORD and ADOPT. -/

namespace Sys2Proof.Machine

/-! JOB_OPEN (R431, R439). -/

/-- The lowest free job slot. -/
def freeJob (s : State) : Option Nat := (List.range 64).find? (fun j => (job s j).state == .free)

/-- A handle that a JOB_OPEN since the reset has given. -/
def givenHandle (s : State) (h : Nat) : Bool :=
  decide (h / 2 ^ 32 = s.nonce ∧ 1 ≤ h % 2 ^ 32 ∧ h % 2 ^ 32 < s.nextJob)

/-- The job with its ring as a JOB_OPEN gives it. -/
def withRing (m : Slot) (v : Job) : Job :=
  { v with cring := req m 16 8, clog2 := req m 24 1, vec := req m 25 1, ringGiven := true, wr := 0, rd := 0 }

/-- The reply of JOB_OPEN. -/
def openReply (j : Nat) (s : State) : List Byte := rp 16 (wordBytes (job s j).handle ++ leBytes 1 j)

/-- JOB_OPEN. -/
def jobOpen (i : Nat) (m : Slot) (s : State) : State :=
  if bitOf (req m 26 1) 0 then
    match jobOf (req m 32 8) s with
    | none => cmdFail i (if givenHandle s (req m 32 8) then 0x010A else 0x0109) s
    | some j => aligned64 i (req m 16 8) (fun s =>
        let s1 := modJob j (withRing m) s
        let s2 := recordPump (job s1 j).held.length j s1
        cmdDone i (openReply j s2) s2) s
  else match freeJob s with
    | none => cmdFail i 0x010A s
    | some j => aligned64 i (req m 16 8) (fun s =>
        let v : Job := { handle := BitVec.ofNat 64 (2 ^ 32 * s.nonce + s.nextJob % 2 ^ 32)
                         seed := BitVec.ofNat 64 (req m 0 8), fjob := BitVec.ofNat 64 (req m 8 8) }
        let s1 := jobState j .opened { setJob j (withRing m v) s with nextJob := s.nextJob + 1 }
        cmdDone i (openReply j s1) s1) s

/-! JOB_LAUNCH (R191, R194, R195, R294, R432). -/

/-- A launch count that R195 allows. -/
def launchOk (s : State) (l : Nat) : Bool := decide (l % 128 = 0 ∧ croak s + 80000 ≤ l ∧ l ≤ croak s + 2 ^ 32)

/-- Quads that the active image's PADS sections use. -/
def schedQuads (s : State) : List Nat := (s.lay.pads.flatMap padsQuads).foldl insertNat []

/-- The first quad of the schedule that is not UP. -/
def quadNotUp (s : State) : Option Nat := (schedQuads s).find? (fun q => (quad s q).state != .up)

/-- The occurrence of 0x060E: the quads that are not UP. -/
def quadOcc (s : State) (q : Nat) : Occ :=
  let k := q / 64
  { code := 0x060E, kind := 2, unit := q, unit2 := 256 * k,
    d := [0, 0, ofBits (((schedQuads s).filter (fun q => q / 64 == k && (quad s q).state != .up)).map (· % 64)), 0] }

/-- The first quarantined object of the image's SYNCMAP, which serves every job launched on the image (log 158). -/
def quarantined (s : State) : Option Nat := s.lay.syncObjs.find? (fun o => (obj s o).quar)

/-- A newt as a launch leaves it: NWT_PERF counts from zero, ABORTED and the landing counters are clear (Tables 3-15 and 3-17,
R87). A free newt at work for another job is left alone, its landing counters too, although R87 says of all that they are zero at
JOB_LAUNCH (DESIGN CHOICE, log 157). -/
def newtFresh (v : Newt) : Newt :=
  if v.role = .free ∧ (v.state = .idle ∨ v.state = .done ∨ v.state = .error) ∧ v.inflight = [] then
    { v with issued := 0, stalled := 0, aborted := false, lc := [] }
  else v

/-- A scheduled newt as the launch of its job leaves it; its pond and streams stay. -/
def newtLaunch (v : Newt) : Newt :=
  if v.role ≠ .scheduled then newtFresh v
  else { coll := v.coll, role := .scheduled, slot := v.slot, errCode := v.errCode, errPc := v.errPc, errAt := v.errAt, errCyc := v.errCyc, err := v.err, more := v.more,
         progSize := v.progSize, pond := v.pond, streams := v.streams, colls := v.colls, reserved := v.reserved }

/-- The schedule unit armed for job slot `j` at `l`. -/
def schArm (j l : Nat) (u : Sch) : Sch :=
  { u with
    state := .armed, level := 0, lastLevel := 0, pausePend := false, quantum := 0, epoch := 0, launchL := l, slipPads := 0
    slipEvents := 0, jp := 0, epochStart := 0, job := some j, callPend := none, frozenPads := 0, extQuantum := 0, waits := []
    fbl62 := 0, stopSent := false, flights := [], routeCnt := [], hist := [], lastJ := none }

/-- The collective that a descriptor of LOGIC makes on this chip for job slot `j`. -/
def logicColl (s : State) (j : Nat) (d : List Byte) : Coll :=
  let c := fieldAt d 0 3
  let g := lgGroup s.lay.logic (fieldAt d 24 2)
  let parts := ((scheduledNewts s).filter (fun n => (newt s n).colls.contains c))
  { job := j, posted := false, desc := d, group := g, started := true, digest := cdDigest d
    members := if grpHas g s.rte.coord then grpLocal g (grpIndex g s.rte.coord) else []
    chips := ((List.range (grpChips g)).map (grpCoord g)).filter (fun x => decide (x ≠ s.rte.coord))
    commitChip := commitChipOf d g, parts := parts
    commitNewt := (scheduledNewts s).find? (fun n => commits (newt s n) c) }

/-- The collectives of LOGIC that this chip takes part in. -/
def logicColls (s : State) (j : Nat) : List (Nat × Coll) :=
  ((lgDescs s.lay.logic).map (fun d => (fieldAt d 0 3, logicColl s j d))).filter (fun e =>
    grpHas e.2.group s.rte.coord || !e.2.parts.isEmpty)

/-- A member port of the collective that holds no endpoint. -/
def emptyMember (s : State) (v : Coll) : Option Nat :=
  (v.members.map (·.1)).find? (fun p => decide ((tget {} s.rte.ep p).state ≠ 2))

/-- The collectives with an empty member port abort (R150). -/
def memberCheck (cs : List Nat) (s : State) : State :=
  abortEach 0x0A04 (cs.filterMap (fun c => (emptyMember s (coll s c)).map (fun p =>
    (c, { fchip := fchipOf s.rte.coord, funit := p, fkind := 3 })))) s

/-- Why a launch is refused, in the order of the checks. -/
def launchFails (s : State) (h l : Nat) (sched : Bool) : Option Nat :=
  if s.fw.recovery then some 0x0C09
  else match jobOf h s with
    | none => some 0x0109
    | some j =>
      if (job s j).state ≠ .opened then some 0x0109
      else if !s.lay.active ∨ (sched ∧ !s.lay.sched) then some 0x0113
      else if sched ∧ schedJobBusy s then some 0x010B
      else if sched ∧ s.sch.align ≠ .aligned then some 0x0B01
      else if sched ∧ (quadNotUp s).isSome then some 0x060E
      else if (quarantined s).isSome then some 0x0408
      else if !launchOk s l then some 0x0B04
      else none

/-- The occurrence of a failed launch or resume. -/
def launchOcc (i code l : Nat) (s : State) : Occ :=
  match code with
  | 0x060E => quadOcc s ((quadNotUp s).getD 0)
  | 0x0408 => { code := 0x0408, kind := 9, unit := (quarantined s).getD 0, unit2 := agentSlot i,
                d := [(obj s ((quarantined s).getD 0)).prod, (obj s ((quarantined s).getD 0)).cons] }
  | 0x0B04 => { code := 0x0B04, d := [l, croak s, s.sch.jp, s.sch.term] }
  | _ => cmdOcc i code 0 s

/-- The launch of job slot `j`. -/
def launch (j l : Nat) (sched : Bool) (s : State) : State :=
  let s1 := modJob j (fun v => { v with
    sched := sched, launched := true, launchL := l, firstL := l, lastL := l, snaps := snapAll s, touched := [] }) s
  let s2 := jobState j .armed s1
  if !sched then { s2 with newts := s2.newts.map (fun e => (e.1, newtFresh e.2)) }
  else
    let s3 : State := { s2 with sch := schArm j l s2.sch, newts := s2.newts.map (fun e => (e.1, newtLaunch e.2)) }
    let cs := logicColls s3 j
    let s4 := cs.foldl (fun t e => setColl e.1 e.2 t) s3
    memberCheck (cs.map (·.1)) s4

/-- JOB_LAUNCH. -/
def jobLaunch (i : Nat) (m : Slot) (s : State) : State :=
  let l := req m 8 8
  let sched := bitOf (req m 16 1) 0
  match launchFails s (req m 0 8) l sched with
  | some c => cmdFailWith i (launchOcc i c l s) s
  | none =>
    cmdDone i (leBytes 8 (croak s) ++ leBytes 8 l) (launch ((jobOf (req m 0 8) s).getD 0) l sched s)

/-! JOB_ABORT (R144, R217, R428, R432). -/

/-- End the checkpoint or resume in slot `i` with 0x0A01 (R428). -/
def endHeld (i : Nat) (s : State) : State :=
  cmdFail i 0x0A01 (if (mslot s i).work = .preop then unwaitAll (agentSlot i) s else cmdCancel i s)

/-- Checkpoints and resumes of the same job that wait. -/
def heldCkpts (i h : Nat) (s : State) : List Nat :=
  (s.hif.slots.filter (fun e =>
    e.1 != i && taken e.2 && (slotCmd e.2 == 0x23 || slotCmd e.2 == 0x24) && slotJob e.2 == h)).map (·.1)

/-- The place of a fault that the host causes. -/
def hostPlace (s : State) : FaultPlace := { fchip := fchipOf s.rte.coord, funit := 0, fkind := 4 }

/-- Abort requests for collectives; slot `i` waits for those that another chip decides. The answer holds the number that
this chip has aborted and the number left. -/
def abortAll (i : Nat) (cs : List Nat) (s : State) : State × Nat × Nat :=
  let s1 := abortMany cs 0x0A01 (hostPlace s) s
  let left := cs.filter (fun c => (coll s1 c).state == .pending)
  (left.foldl (fun t c => modColl c (fun v => { v with abortSlots := insertNat v.abortSlots i }) t) s1,
   (cs.filter (fun c => (coll s1 c).state == .aborting || (coll s1 c).state == .aborted)).length, left.length)

/-- The reply of a JOB_ABORT that has asked for its aborts: at once, or when the last outcome is decided. -/
def abortReply (i nabort ndone left : Nat) (single : Bool) (s : State) : State :=
  if left = 0 then cmdDone i (rp 16 (leBytes 4 nabort ++ leBytes 4 ndone)) s
  else modMslot i (fun m => { m with work := .waiting, scratch := [left, nabort, ndone, bnat single] }) s

/-- Collectives of a job that have committed or reported. -/
def doneColls (s : State) (j : Nat) : Nat :=
  ((jobColls s j).filter (fun e => e.2.reported || e.2.state == .committed)).length

/-- JOB_ABORT of the whole job, MODE 0. -/
def abortJob (i j : Nat) (s : State) : State :=
  if (job s j).state = .opened then
    cmdDone i (rp 16 []) (jobEnd j (modJob j (fun v => { v with stopped := true }) s))
  else
    let (s1, na, left) := abortAll i (openColls s j) s
    let nd := doneColls s1 j
    let s2 := if (job s1 j).sched then jobStop 0x0A01 (hostPlace s1) s1
      else modJob j (fun v => { v with stopped := true }) s1
    abortReply i na nd left false s2

/-- JOB_ABORT of the whole job, MODE 1. -/
def finishJob (i j : Nat) (s : State) : State :=
  let v := job s j
  let out (t : State) : State := cmdDone i (rp 16 (leBytes 4 0 ++ leBytes 4 (doneColls s j))) t
  if v.state = .opened then out (jobEnd j s)
  else if v.sched then cmdFail i 0x0109 s
  else
    let s1 := modJob j (fun v => { v with finishing := true }) s
    out (if allReported s1 j then jobEnd j s1 else s1)

/-- JOB_ABORT of one collective. One that the job does not hold is taken as a bad job request. -/
def abortOne (i j c : Nat) (s : State) : State :=
  let v := coll s c
  if !(jobColls s j).any (fun e => e.1 == c) then cmdFail i 0x0109 s
  else if v.state = .lost then cmdFail i 0x0A0A s
  else if v.reported ∨ v.state = .committed then cmdFail i 0x0108 s
  else if v.state ≠ .pending then abortReply i 0 0 0 true s
  else
    let (s1, na, left) := abortAll i [c] s
    if (coll s1 c).state = .committed then cmdFail i 0x0108 s1 else abortReply i na 0 left true s1

/-- JOB_ABORT. -/
def jobAbort (i : Nat) (m : Slot) (s : State) : State :=
  match jobOf (req m 0 8) s with
  | none => cmdFail i 0x0109 s
  | some j =>
    if (job s j).state = .ended then cmdFail i 0x0108 s
    else
      let s1 := (heldCkpts i (req m 0 8) s).foldl (fun t k => endHeld k t) s
      if bitOf (req m 11 1) 0 then finishJob i j s1
      else if req m 8 3 = 0 then abortJob i j s1
      else abortOne i j (req m 8 3) s1

/-! RUN_RECORD (R216). -/

/-- RUN_RECORD begins to copy. -/
def recordBegin (i : Nat) (m : Slot) (s : State) : State :=
  match jobOf (req m 0 8) s with
  | none => cmdFail i 0x0109 s
  | some j =>
    if (job s j).state ≠ .ended then cmdFail i 0x0117 s
    else aligned64 i (req m 8 8) (fun s =>
      let r := (job s j).record
      if req m 16 4 < r.length then cmdFail i 0x0114 s else copyOut i r [j] s) s

/-- Close job slot `j`: it is FREE, and its collectives go. -/
def jobClose (j : Nat) (s : State) : State :=
  let s1 := setJob j {} (jobState j .free s)
  { s1 with colls := s1.colls.filter (fun e => e.2.job != j) }

/-- RUN_RECORD ends. -/
def recordDone (i : Nat) (ok : Bool) (m : Slot) (s : State) : State :=
  if !ok then cmdFail i 0x0110 s
  else
    let s1 := hostWrite (req m 8 8) m.buffer s
    cmdDone i (rp 8 (leBytes 4 m.buffer.length))
      (if bitOf (req m 20 1) 0 then jobClose (m.scratch.getD 0 0) s1 else s1)

/-! ADOPT (R438, R439). -/

/-- Job slots that are not free. -/
def openJobs (s : State) : List Nat := (List.range 64).filter (fun j => (job s j).state != .free)

/-- The adoption report. -/
def adoptReport (s : State) : List Byte :=
  (openJobs s).flatMap (fun j =>
    let v := job s j
    wordBytes v.handle ++ wordBytes v.fjob ++ leBytes 1 j ++ leBytes 1 (jobStateNum v.state) ++ zeros 2 ++
      leBytes 4 v.held.length ++ zeros 8)

/-- ADOPT succeeds: the epoch rises, the interface is OWNED, buffers of DMA channels are freed unless they are kept. What is held stays
held until its ring is given again (R439). -/
def adoptTake (keep : Bool) (s : State) : State :=
  let s0 : State := { s with jobs := s.jobs.map (fun e => (e.1, { e.2 with ringGiven := e.2.ringGiven && e.2.held.isEmpty })) }
  let s1 := modHif (fun h => { h with state := .owned, epoch := (h.epoch + 1) % 2 ^ 32, lastBeat := croak s,
                                      evGiven := h.evGiven && h.held.isEmpty }) s0
  logOpen 1 5 (if keep then s1 else (List.range 64).foldl (fun t c => freeOwned c t) s1)

/-- Milliseconds spent in ORPHAN. -/
def orphanMs (s : State) : Nat := if s.hif.state = .orphan then (croak s - s.hif.orphanAt) / msTicks else 0

/-- ADOPT. -/
def adopt (i : Nat) (hostOk : Bool) (m : Slot) (s : State) : State :=
  let r := adoptReport s
  if !(req m 0 4 == s.hif.epoch) && !(s.hif.state == .unowned && req m 0 4 == 0) then cmdFail i 0x0104 s
  else aligned64 i (req m 8 8) (fun s =>
    if req m 16 8 < r.length then cmdFail i 0x0114 s
    else if !hostOk then cmdFail i 0x0110 s
    else
      let t := hostWrite (req m 8 8) r (adoptTake (bitOf (req m 4 1) 0) s)
      cmdDone i (rp 16 (leBytes 4 t.hif.epoch ++ leBytes 2 (openJobs s).length ++ zeros 2 ++
        leBytes 4 (((openJobs s).map (fun j => (job s j).held.length)).sum) ++ leBytes 4 (orphanMs s))) t) s

/-! Meanings. -/

/-- JOB_OPEN. -/
def execJobOpen (slot : Fin 256) (s : State) : Res := whenUp (onSlot 0x20 slot.val (jobOpen slot.val)) s
/-- JOB_LAUNCH. -/
def execJobLaunch (slot : Fin 256) (s : State) : Res := whenUp (onSlot 0x21 slot.val (jobLaunch slot.val)) s
/-- JOB_ABORT. -/
def execJobAbort (slot : Fin 256) (s : State) : Res := whenUp (onSlot 0x22 slot.val (jobAbort slot.val)) s
/-- RUN_RECORD. -/
def execRunRecord (slot : Fin 256) (s : State) : Res := whenUp (onSlot 0x80 slot.val (recordBegin slot.val)) s
/-- ADOPT. -/
def execAdopt (slot : Fin 256) (hostOk : Bool) (s : State) : Res := whenUp (onSlot 0x90 slot.val (fun m t => adoptOver (adopt slot.val hostOk m t))) s

end Sys2Proof.Machine
end

