-- ==== Sys2Proof/Machine/Ckpt.lean ====
section
/-! DEFINITION. JOB_CHECKPOINT (R213) and JOB_RESUME (R215, R433): a checkpoint is found and checked in Lovor memory, and
restored into an OPEN or PAUSED job. -/

namespace Sys2Proof.Machine

/-! JOB_CHECKPOINT. -/

/-- JOB_CHECKPOINT is accepted: the chip refuses posts until the checkpoint is written. -/
def ckptBegin (i : Nat) (m : Slot) (s : State) : State :=
  match jobOf (req m 0 8) s with
  | none => cmdFail i 0x0109 s
  | some j =>
    let v := job s j
    if !v.sched ∨ v.stopped ∨ !(v.state == .armed || v.state == .running) then cmdFail i 0x0109 s
    else if !hostRange s (req m 8 8) (req m 16 8) then cmdFail i 0x010F s
    else slotWork i .waiting (modJob j (fun v => { v with
      ckptPending := some i, ckptAddr := req m 8 8, ckptLimit := req m 16 8 }) s)

/-! Reading a checkpoint (Tables 6-5 to 6-7). -/

/-- A section of a checkpoint: TYPE, ID, body. -/
structure CkSec where
  typ : Nat
  id : Nat
  body : List Byte
deriving DecidableEq, Repr

/-- Offset of the end of `n` sections from offset `off`; none where one leaves the range that a command may name. -/
def ckEnd (s : State) (a n off : Nat) : Option Nat :=
  match n with
  | 0 => some off
  | n + 1 =>
    if hostRange s a (off + 16) then
      ckEnd s a n (off + 16 + roundUp (fieldAt (lovRead s (a + off) 16) 8 8) 8)
    else none

/-- The sections of checkpoint bytes. -/
def ckSecs (c : List Byte) (n off : Nat) : List CkSec :=
  match n with
  | 0 => []
  | n + 1 =>
    let len := fieldAt c (off + 8) 8
    { typ := fieldAt c off 2, id := fieldAt c (off + 4) 4, body := slice c (off + 16) len } ::
      ckSecs c n (off + 16 + roundUp len 8)

/-- The length of the checkpoint at an address, when all of it lies in the range that a command may name. -/
def ckLength (s : State) (a : Nat) : Option Nat :=
  if !hostRange s a 128 then none
  else match ckEnd s a (fieldAt (lovRead s a 128) 120 8) 128 with
    | none => none
    | some off => if hostRange s a (off + 32) then some (off + 32) else none

/-- PROGRAM. -/
def ckProgram (c : List Byte) : List Byte := slice c 16 32
/-- LEVEL. -/
def ckLevel (c : List Byte) : Nat := fieldAt c 84 1
/-- EPOCH. -/
def ckEpoch (c : List Byte) : Nat := fieldAt c 88 8
/-- The sections. -/
def ckSections (c : List Byte) : List CkSec := ckSecs c (fieldAt c 120 8) 128

/-- A section names a slot or an object of the active image. Reserved types name none. -/
def ckSecOk (s : State) (x : CkSec) : Bool :=
  match x.typ with
  | 1 => (slotNewts s).any (fun e => e.1 == x.id)
  | 2 => s.lay.syncObjs.contains x.id
  | 3 => true
  | 4 => true
  | _ => false

/-- The checks of R215. -/
def ckGood (s : State) (c : List Byte) : Bool :=
  let n := c.length - 32
  slice c n 32 == shake256 (c.take n) 32 && s.lay.active && ckProgram c == digestField s.lay.program &&
    decide (fieldAt c 80 2 = fwMajor s ∧ fieldAt c 82 2 = s.lay.chipIdx) && (ckSections c).all (ckSecOk s)

/-! Restoring. -/

/-- The loop state, innermost level first; the step of an operand block is that of the LOOP before the body. -/
def ckLoops (v : Newt) (b : List Byte) : List LoopLvl :=
  let all := (List.range 4).map (fun i => slice b (12 * i) 12)
  ((all.filter (fun e => decide (fieldAt e 6 2 ≠ 0))).map (fun e =>
    { remaining := fieldAt e 0 4, start := fieldAt e 4 2, len := fieldAt e 6 2, iter := fieldAt e 8 4
      obstep := iStep (wordAt v (fieldAt e 4 2 - 1)) : LoopLvl })).reverse

/-- Where a newt's arithmetic status blocks lie, by its program's operand blocks: (collective, address). -/
def asbPlaces (v : Newt) : Table Nat :=
  (List.range (progLen v)).foldl (fun t p =>
    let w := wordAt v p
    let ob := 64 * iOb w
    let off : Option Nat := match iOpc w with
      | 0x18 => some 8 | 0x19 => some 32 | 0x1A => some 12 | _ => none
    match off with
    | none => t
    | some o => if tget 0 t (wordColl v w ob) = 0 then tset 0 t (wordColl v w ob) (pondNat v (ob + o) 4) else t) []

/-- A newt as its section restores it: its TBND issues first (R95). -/
def ckNewt (epoch : Nat) (b : List Byte) (v0 : Newt) : Newt :=
  let v := newtLaunch v0
  let n := fieldAt b 308 4
  let held := bitOf (fieldAt b 2 2) 0
  let v1 := pondWrite (progBytes v) (slice b 312 (min n (escBase - progBytes v))) v
  { v1 with
    asbOf := asbPlaces v1
    state := if bitOf (fieldAt b 2 2) 1 then .done else .paused, stall := 0, pc := fieldAt b 0 2, held := held
    loops := ckLoops v (slice b 4 48), epochs := epoch - 1
    lc := (List.range 64).foldl (fun t i => tset 0 t i (fieldAt b (52 + 4 * i) 4)) []
    wr := if held then (List.range 64).foldl (fun t i => tset {} t i (loadRecord (slice b (312 + n + 96 * i) 96))) [] else [] }

/-- An object as its section restores it; CNT and ANN start at zero (R159). -/
def ckObj (o : Nat) (b : List Byte) (s : State) : State :=
  let v := withCfg { obj s o with
    prod := fieldAt b 8 8, cons := fieldAt b 16 8, peer := fieldAt b 24 8 % 2 ^ 30, cnt := 0, ann := 0, waiters := [], holdq := [] }
    (fieldAt b 0 8)
  let s1 := setObj o v s
  if v.kind ≠ 2 then s1
  else
    let l := bline s1 v.bl
    let out := decide (fieldAt b 40 1 ≠ 0)
    let leaf (i : Nat) : Bool := bitOf (fieldAt b (48 + i / 8) 1) (i % 8)
    let s2 := setBline v.bl { l with out := out, bound := some o, arrived := l.mask.filter (fun i => leaf i != out) } s1
    if v.fabric then setFline v.fbl { round := fieldAt b 41 1 % 4 } s2 else s2

/-- The tile digests of a section. -/
def ckTiles (b : List Byte) : Table (List Byte) :=
  (List.range (fieldAt b 0 4)).foldl (fun t i => tset [] t (fieldAt b (4 + 36 * i) 4) (slice b (8 + 36 * i) 32)) []

/-- Tile digests go to the collective; one that is not in the image had been reported, and its digest entry stays. -/
def ckDigest (j c : Nat) (tiles : Table (List Byte)) (s : State) : State :=
  if s.colls.any (fun e => e.1 == c && e.2.job == j) && !(coll s c).reported then modColl c (fun v => { v with tiles := tiles }) s
  else modJob j (fun v => { v with digests := tset [] v.digests c (digestEntry c 0 { ({} : Coll) with tiles := tiles }) }) s

/-- The accumulators of a section (Table 6-9 from offset 200). -/
def ckAccums (b : List Byte) (v : Job) : Job :=
  { v with
    epochs := [fieldAt b 16 4, fieldAt b 20 4, fieldAt b 24 4], ncomp := fieldAt b 28 4, nfail := fieldAt b 32 4
    sat := fieldAt b 36 4, nan := fieldAt b 40 4, esc := fieldAt b 44 4, aflags := fieldAt b 48 2 }

/-- Restore one section into job slot `j`. -/
def ckRestore (j epoch : Nat) (s : State) (x : CkSec) : State :=
  match x.typ with
  | 1 => modNewt (newtOfSlot s x.id) (ckNewt epoch x.body) s
  | 2 => ckObj x.id x.body s
  | 3 => modJob j (ckAccums x.body) s
  | _ => ckDigest j x.id (ckTiles x.body) s

/-- A collective of LOGIC had been reported before the checkpoint: every participating newt of this chip has ended, or the
commit newt is past its CMT. -/
def ckReported (s : State) (c : Nat) (v : Coll) : Bool :=
  (!v.parts.isEmpty && v.parts.all (fun n => (newt s n).state == .done)) ||
    match v.commitNewt with
    | none => false
    | some n =>
      let u := newt s n
      v.commitChip == s.rte.coord && (List.range (min u.pc (progLen u))).any (fun p =>
        let w := wordAt u p
        iOpc w == 0xC && iArg w == c)

/-- The collectives of LOGIC for a job that resumes in an OPEN slot. -/
def ckColls (j : Nat) (s : State) : State :=
  (logicColls s j).foldl (fun t e =>
    setColl e.1 (if ckReported s e.1 e.2 then { e.2 with reported := true, state := .completed } else e.2) t) s

/-- The job pad at which an epoch begins when every epoch before it runs at level 0. -/
def epochPad (s : State) (e : Nat) : Nat := ((List.range e).map (fun k => epochLen s k 0)).sum

/-- The resume of job slot `j` from checkpoint bytes at `l`. -/
def resumeJob (j l : Nat) (c : List Byte) (s : State) : State :=
  let fresh := (job s j).state == .opened
  let e := ckEpoch c
  let secs := ckSections c
  let s1 := modJob j (fun v => { v with
    sched := true, launched := true, launchL := l, lastL := l, firstL := if fresh then l else v.firstL
    snaps := if fresh then snapAll s else v.snaps, touched := if fresh then [] else v.touched
    seed := BitVec.ofNat 64 (fieldAt c 112 8), resumed := true, resumes := (fieldAt c 108 4 + 1) % 2 ^ 32 }) s
  let s2 : State := { s1 with
    newts := s1.newts.map (fun e => (e.1, newtLaunch e.2))
    sch := { schArm j l s1.sch with
      epoch := e, jp := epochPad s1 e, epochStart := epochPad s1 e, level := min 2 (ckLevel c), lastLevel := min 2 (ckLevel c)
      slipPads := fieldAt c 96 8, slipEvents := fieldAt c 104 4 } }
  let s3 := (secs.filter (fun x => x.typ != 4)).foldl (ckRestore j e) s2
  let s4 := if fresh then ckColls j s3 else s3
  let s5 := jobState j .armed ((secs.filter (fun x => x.typ == 4)).foldl (ckRestore j e) s4)
  if fresh then memberCheck ((logicColls s5 j).map (·.1)) s5 else s5

/-- The checks of a resume before the checkpoint is read. -/
def resumeFails (s : State) (h a : Nat) : Option Nat :=
  if s.fw.recovery then some 0x0C09
  else match jobOf h s with
    | none => some 0x0109
    | some j =>
      if (job s j).state ≠ .opened ∧ (job s j).state ≠ .paused then some 0x0109
      else if (job s j).stopped then some 0x0109
      else if (job s j).state = .opened ∧ schedJobBusy s then some 0x010B
      else if (ckLength s a).isNone then some 0x010F
      else none

/-- The checks of a resume after it. -/
def resumeRefused (s : State) (c : List Byte) (l : Nat) : Option Nat :=
  if !ckGood s c then some 0x0B07
  else if !launchOk s l then some 0x0B04
  else if s.sch.align ≠ .aligned then some 0x0B01
  else if (quadNotUp s).isSome then some 0x060E
  else none

/-- A read of a poisoned block for a command: the code that the block raises is the status (R387, R388). -/
def unlessPoison (i a n : Nat) (f : State → State) (s : State) : State :=
  match poisonAt s a n with
  | some p => reply i 0x0D01 [] (stkUe p s)
  | none => f s

/-- The first poisoned block among the header and the section headers that finding a checkpoint's length reads. -/
def ckPoison (s : State) (a n off : Nat) : Option Nat :=
  match n with
  | 0 => none
  | n + 1 =>
    if hostRange s a (off + 16) then
      (poisonAt s (a + off) 16).or (ckPoison s a n (off + 16 + roundUp (fieldAt (lovRead s (a + off) 16) 8 8) 8))
    else none

/-- The first poisoned block that a resume at `a` meets before it knows the checkpoint's length. -/
def ckHeadPoison (s : State) (a : Nat) : Option Nat :=
  if hostRange s a 128 then (poisonAt s a 128).or (ckPoison s a (fieldAt (lovRead s a 128) 120 8) 128) else none

/-- JOB_RESUME. -/
def jobResume (i : Nat) (m : Slot) (s : State) : State :=
  let a := req m 8 8
  let l := req m 16 8
  match resumeFails s (req m 0 8) a with
  | some c =>
    match if c = 0x010F then ckHeadPoison s a else none with
    | some p => reply i 0x0D01 [] (stkUe p s)
    | none => cmdFailWith i (launchOcc i c l s) s
  | none =>
    let n := (ckLength s a).getD 0
    unlessPoison i a n (fun s =>
      let c := lovRead s a n
      match resumeRefused s c l with
      | some code => cmdFailWith i (launchOcc i code l s) s
      | none => cmdDone i (leBytes 8 (croak s) ++ leBytes 8 (ckEpoch c)) (resumeJob ((jobOf (req m 0 8) s).getD 0) l c s)) s

/-! Meanings. -/

/-- JOB_CHECKPOINT. -/
def execJobCheckpoint (slot : Fin 256) (s : State) : Res := whenUp (onSlot 0x23 slot.val (ckptBegin slot.val)) s
/-- JOB_RESUME. -/
def execJobResume (slot : Fin 256) (s : State) : Res := whenUp (onSlot 0x24 slot.val (jobResume slot.val)) s

end Sys2Proof.Machine
end

