-- ==== Sys2Proof/Machine/Posts.lean ====
section
/-! DEFINITION. COLL_POST (R137 to R140, R240, R434): the checks of a posted descriptor, its group record and its objects,
and what the chip copies from them. -/

namespace Sys2Proof.Machine

/-- DESC. -/
def postDesc (m : Slot) : List Byte := slice m.bytes 40 64

/-! The post. -/

/-- What a post has read: group record, weight object, epilogue parameter object. -/
structure PostObjs where
  group : List Byte
  weight : List Byte := []
  epipar : List Byte := []
deriving DecidableEq, Repr

/-- The ranges that a descriptor names, each read for its size first: none where one is not in host reach (R421). -/
def postRanges (s : State) (d : List Byte) : Option (List (Nat × Nat)) :=
  let g := cdGroup d
  let hd := lovRead s g 64
  let gs := 64 + 16 * grpChips hd + (if grpRanks hd then 4 * min 524288 (grpMembers hd) else 0)
  let w := cdWeight d
  let whd := lovRead s w 64
  let e := cdEpipar d
  let es := epSize (lovRead s e 32) (epiEntries d whd)
  let rs := [(g, 64), (g, gs)] ++ (if opContracts (cdOp d) then [(w, 64), (w, wtSize whd)] else []) ++
    (if opFused (cdOp d) then [(e, 32), (e, es)] else [])
  if g % 64 ≠ 0 ∨ !(rs.all (fun r => hostRange s r.1 r.2)) then none else some rs

/-- Read the objects of a descriptor. -/
def postRead (s : State) (rs : List (Nat × Nat)) : PostObjs :=
  let at' (k : Nat) : List Byte := match rs[k]? with
    | none => []
    | some r => lovRead s r.1 r.2
  { group := at' 1, weight := if rs.length = 6 then at' 3 else [], epipar := at' (rs.length - 1) }

/-- The objects that a post names. -/
def postObjs (s : State) (d : List Byte) (rs : List (Nat × Nat)) : PostObjs :=
  let o := postRead s rs
  if opFused (cdOp d) then o else { o with epipar := [] }

/-- The commit chip's EPITAB holds the table that an object leaves to it. -/
def epitabHas (s : State) (d : List Byte) (o : PostObjs) : Bool :=
  match epMissing o.epipar with
  | none => true
  | some t =>
    !opFused (cdOp d) || commitChipOf d o.group != s.rte.coord || decide (t < 64) || !(tget [] s.lay.epitab t).isEmpty

/-- The table that the library of this chip places for a fused collective whose object leaves its place open (R139): its own for ids 2
to 6, which every chip holds alike, and on the commit chip EPITAB's for ids 64 to 255. -/
def ownTable (s : State) (d : List Byte) (o : PostObjs) : List Byte :=
  match epMissing o.epipar with
  | none => []
  | some t =>
    if !opFused (cdOp d) then [] else if t < 64 then libraryTable t
    else if commitChipOf d o.group = s.rte.coord then tget [] s.lay.epitab t else []

/-- The checks of a post's content: the code of the first that fails. -/
def postCheck (s : State) (j : Nat) (d : List Byte) (o : PostObjs) : Option Nat :=
  if !groupOk s o.group then some 0x0A07
  else if !descFields d then some 0x0A06
  else if opContracts (cdOp d) ∧ !wtOk o.weight then some 0x0A06
  else if opFused (cdOp d) ∧ !epOk o.epipar d then some 0x0A06
  else if !formatsOk d o.weight then some 0x0903
  else if !shapeOk d o.group o.weight ∨ !epitabHas s d o then some 0x0A06
  else if cdDigest d ∧ 64 ≤ (job s j).digests.length +
      ((jobColls s j).filter (fun e => e.2.digest && !e.2.reported)).length then some 0x0B0A
  else none

/-- A collective id that is in use, until its completion record is written (R140), or in the active image's LOGIC. -/
def collIdUsed (s : State) (c : Nat) : Bool :=
  unreported s c || s.jobs.any (fun e => e.2.held.any (fun r => fieldAt r.1 0 3 == c)) || (s.lay.active && (lgDescs s.lay.logic).any (fun d => fieldAt d 0 3 == c))

/-- A free newt that no self-test reserves. -/
def freeNewt (s : State) : Bool := s.newts.any (fun e => e.2.role == .free && newtEnabled s e.1 && !e.2.reserved)

/-- The checks of a post before its objects are read. -/
def postFails (s : State) (h c : Nat) : Option Nat :=
  if s.fw.recovery then some 0x0C09
  else match jobOf h s with
    | none => some 0x0109
    | some j =>
      let v := job s j
      if !(v.state == .armed || v.state == .running) ∨ v.finishing ∨ v.stopped then some 0x0109
      else if v.ckptPending.isSome then some 0x010D
      else if (quarantined s).isSome then some 0x0408
      else if !freeNewt s then some 0x010C
      else if collIdUsed s c then some 0x010E
      else none

/-- The digest of a post's objects, which the chips of the block compare (R434). -/
def postDigest (d : List Byte) (o : PostObjs) : List Byte := shake256 (d.take 24 ++ slice d 48 16 ++ o.group ++ o.weight ++ o.epipar) 32

/-- The collective of an accepted post. The library's copy of a table follows the parameter object. -/
def postColl (s : State) (j : Nat) (d : List Byte) (o : PostObjs) : Coll :=
  let g := o.group
  { job := j, desc := d, group := g, digest := cdDigest d, weights := o.weight
    epipar := o.epipar ++ ownTable s d o
    members := if grpHas g s.rte.coord then grpLocal g (grpIndex g s.rte.coord) else []
    chips := ((List.range (grpChips g)).map (grpCoord g)).filter (fun x => decide (x ≠ s.rte.coord))
    commitChip := commitChipOf d g, postDig := postDigest d o }

/-- The messages of an accepted post: its digest to the commit chip, and the commit chip's table to the others. -/
def postMessages (c : Nat) (d : List Byte) (o : PostObjs) (s : State) : State :=
  let v := coll s c
  if v.commitChip ≠ s.rte.coord then
    mgmt "POST" v.commitChip ([(job s v.job).fjob.toNat, c] ++ (postDigest d o).map (·.toNat)) s
  else match epMissing o.epipar with
    | none => s
    | some t =>
      if opFused (cdOp d) && decide (64 ≤ t) then
        v.chips.foldl (fun u ch => mgmt "TABLE" ch ([c, t] ++ (ownTable s d o).map (·.toNat)) u) s
      else s

/-- The commit chip compares another chip's post with its own by (FJOB, COLL); digests that differ abort the collective (R434). -/
def postCompare (h : HeardPost) (s : State) : State :=
  if h.digest = (coll s h.coll).postDig then s else abortReq h.coll 0x0A06 { fchip := fchipOf h.chip, fkind := 6 } s

/-- A post of this chip, the commit chip, matches the one heard of. -/
def postMatches (s : State) (h : HeardPost) : Bool :=
  let v := coll s h.coll
  unreported s h.coll && v.posted && v.commitChip == s.rte.coord && (job s v.job).fjob.toNat == h.fjob

/-- Another chip's post reaches this commit chip: it is compared, or kept until this chip's own post. -/
def postHear (h : HeardPost) (s : State) : State :=
  if postMatches s h then postCompare h s else { s with fw := { s.fw with posts := s.fw.posts ++ [h] } }

/-- The posts heard of before this chip's own are compared with it. -/
def postsHeard (s : State) : State :=
  (s.fw.posts.filter (postMatches s)).foldl (fun t h => postCompare h t)
    { s with fw := { s.fw with posts := s.fw.posts.filter (fun h => !postMatches s h) } }

/-- The post that a MGMT packet tells of. DESIGN CHOICE (log 154): Table 11-14 leaves the messages between chips open; a post's has MTYPE
0x0100, with FJOB, COLL in 4 bytes, and the digest. -/
def postOf (p : Packet) : Option HeardPost :=
  if p.tag = .plain 0x0100 ∧ p.payload.length = 44 then
    some { chip := chipOf p.src, fjob := fieldAt p.payload 0 8, coll := fieldAt p.payload 8 4, digest := slice p.payload 12 32 }
  else none

/-- The firmware takes a MGMT packet from its inbox. -/
def inboxTake (p : Packet) (s : State) : State :=
  match postOf p with
  | some h => postHear h s
  | none => s

/-- COLL_POST. -/
def collPost (i : Nat) (m : Slot) (s : State) : State :=
  let d := postDesc m
  let c := fieldAt d 0 3
  match postFails s (req m 0 8) c with
  | some code => if code = 0x0408 then cmdFailWith i (launchOcc i code 0 s) s else cmdFail i code s
  | none => match postRanges s d with
    | none => cmdFail i 0x010F s
    | some rs =>
      match rs.find? (fun r => poisoned s r.1 r.2) with
      | some r => unlessPoison i r.1 r.2 id s
      | none =>
        let j := (jobOf (req m 0 8) s).getD 0
        let o := postObjs s d rs
        match postCheck s j d o with
        | some code => cmdFail i code s
        | none =>
          let s1 := memberCheck [c] (postsHeard (postMessages c d o (setColl c (postColl s j d o) s)))
          cmdDone i (rp 16 (leBytes 3 c ++ zeros 1 ++ leBytes 2 (commitChipOf d o.group) ++ zeros 2 ++ leBytes 8 (croak s))) s1

/-! Meanings. -/

/-- COLL_POST. -/
def execCollPost (slot : Fin 256) (s : State) : Res := whenUp (onSlot 0x30 slot.val (collPost slot.val)) s

end Sys2Proof.Machine
end

