-- ==== Sys2Proof/Machine/Firmware.lean ====
section
/-! DEFINITION. Field images and molts (R443 to R449, R455 to R459), fuses (R450), attestation (R452 to R454), self-test
(R462, R463), the calibration store (R464 to R466), log entries and policies of the firmware (R460, R467, R468, R508). -/

namespace Sys2Proof.Machine

/-- Change the firmware's state. -/
def modFw (f : Firmware → Firmware) (s : State) : State := { s with fw := f s.fw }
/-- Change the fuses. -/
def modFuse (f : Fuses → Fuses) (s : State) : State := { s with fuse := f s.fuse }
/-- Change the calibration store. -/
def modCal (f : Calib → Calib) (s : State) : State := { s with cal := f s.cal }
/-- Set a measurement (R453). -/
def setMeas (i : Nat) (d : List Byte) (s : State) : State := modFw (fun f => { f with meas := tset [] f.meas i d }) s

/-! Field images (R445 to R448). -/

/-- A firmware slot: 0 A, 1 B. -/
def fwSlot (s : State) (k : Nat) : FwSlot := if k = 0 then s.fw.slotA else s.fw.slotB
/-- Change a firmware slot. -/
def modFwSlot (k : Nat) (f : FwSlot → FwSlot) (s : State) : State :=
  if k = 0 then modFw (fun w => { w with slotA := f w.slotA }) s else modFw (fun w => { w with slotB := f w.slotB }) s

/-- SVN. -/
def fiSvn (f : List Byte) : Nat := fieldAt f 12 1
/-- FWVER. -/
def fiVer (f : List Byte) : Nat := fieldAt f 16 8
/-- SCHEMA. -/
def fiSchema (f : List Byte) : Nat := fieldAt f 32 2

/-- Check 1 of R447: MAGIC, HLEN, PART and STEP; an SVN above 63 is a reserved encoding (R14). -/
def fiHead (f : List Byte) : Bool :=
  decide (fiSvn f ≤ 63 ∧ fieldAt f 0 4 = 0x31574643 ∧ fieldAt f 4 4 = 256 ∧ fieldAt f 8 2 = 0x4830 ∧ fieldAt f 10 1 = 0xA1)
/-- Check 2: every reserved byte is zero. -/
def fiZeros (f : List Byte) : Bool := allZero (slice f 11 1 ++ slice f 13 3 ++ slice f 38 2 ++ slice f 80 176)
/-- Check 3: LENGTH. -/
def fiLength (f : List Byte) : Bool :=
  decide (256 + 3309 ≤ fieldAt f 24 8 ∧ fieldAt f 24 8 ≤ 2 ^ 25 ∧ fieldAt f 24 8 = f.length)
/-- Check 4: BODYDIG. -/
def fiBody (f : List Byte) : Bool := slice f 48 32 == shake256 (slice f 256 (f.length - 3309 - 256)) 32
/-- The structure checks of R447. -/
def fiFormat (f : List Byte) : Bool := fiHead f && fiZeros f && fiLength f && fiBody f

/-- The signature of R446. -/
def fiSigned (f : List Byte) : Bool :=
  let n := f.length - 3309
  mlDsaVerify ((List.range 1952).map Config.vendorKey) (shake256 (f.take n) 64) (ascii "CHT48-FIRMWARE") (slice f n 3309)

/-- The first check of R447 that an image fails. -/
def fiCheck (s : State) (f : List Byte) : Option Nat :=
  if !fiFormat f then some 0x0C01 else if !fiSigned f then some 0x0C02 else if fiSvn f < s.fuse.svn then some 0x0C03 else none

/-- The number of the check of R447 that a code belongs to. -/
def fiCheckNum (f : List Byte) (code : Nat) : Nat :=
  if code = 0x0C03 then 6 else if code = 0x0C02 then 5
  else if !fiHead f then 1 else if !fiZeros f then 2 else if !fiLength f then 3 else 4

/-- The standby slot (R449). -/
def standbySlot (s : State) : Nat :=
  if s.fw.recovery then (if s.fw.slotA.gen < s.fw.slotB.gen then 0 else 1) else 1 - s.fw.slot

/-! FW_STAGE. -/

/-- A command of code `c` is at work in a slot. -/
def cmdActive (s : State) (c : Nat) : Bool :=
  s.hif.slots.any (fun e => slotCmd e.2 == c && (e.2.work == .transfer || e.2.work == .flash || e.2.work == .waiting))

/-- FW_STAGE begins. A second one is taken to be blocked by the first. -/
def stageBegin (i : Nat) (m : Slot) (s : State) : State :=
  aligned64 i (req m 0 8) (fun s =>
    if s.fw.molt ≠ .none ∨ cmdActive s 0x50 then cmdFail i 0x0C06 s
    else if 2 ^ 25 < req m 8 8 then cmdFailAt i 0x0C01 3 s
    else copyIn i s) s

/-- The image has been read: the standby slot is cleared, and the write begins. -/
def stageRead (i : Nat) (ok : Bool) (f : List Byte) (s : State) : State :=
  if !ok then cmdFail i 0x0110 s
  else
    modMslot i (fun m => { m with work := .flash, buffer := f })
      (modFwSlot (standbySlot s) (fun v => { v with committed := false, image := [] }) (modFw (fun w => { w with staged := none }) s))

/-- The image has been written: it is checked, and stays staged. -/
def stageDone (i : Nat) (ok : Bool) (m : Slot) (s : State) : State :=
  let k := standbySlot s
  let f := m.buffer
  if !ok then cmdFail i (flashCode s) (drawn s)
  else
    let s1 := modFwSlot k (fun v => { v with image := f }) s
    match fiCheck s1 f with
    | some c => cmdFailAt i c (fiCheckNum f c) s1
    | none =>
      cmdDone i (rp 48 (leBytes 1 k ++ zeros 7 ++ leBytes 8 (fiVer f) ++ shake256 f 32)) (modFw (fun w => { w with staged := some k }) s1)

/-! Molt (R455 to R459). -/

/-- The staged image. -/
def stagedImage (s : State) : List Byte :=
  match s.fw.staged with
  | none => []
  | some k => (fwSlot s k).image

/-- Something that check 2 of Table 14-8 names is in progress. -/
def moltBlocked (s : State) : Bool :=
  cmdActive s 0x50 || s.lay.busy || cmdActive s 0x60 || cmdActive s 0x71 || s.fuse.busy.isSome || s.att.busy ||
    decide (s.rte.drain.classes ≠ 0)

/-- Check 4. -/
def majorBlocked (s : State) : Bool :=
  decide (fiVer (stagedImage s) % 65536 ≠ fwMajor s) && (jobBusy s || postedOpen s)

/-- The first check of Table 14-8 that fails: its code and number. -/
def moltCheck (s : State) (ver : Nat) : Option (Nat × Nat) :=
  let f := stagedImage s
  if s.fw.staged.isNone ∨ fiVer f ≠ ver then some (0x0C04, 1)
  else if moltBlocked s ∨ s.fw.molt ≠ .none then some (0x0C06, 2)
  else if s.fw.recovery then
    (if !(openJobs s).isEmpty then some (0x0C07, 4) else if s.fw.emerg then some (0x0112, 5) else none)
  else if s.fw.schema < fieldAt f 34 2 ∨ fieldAt f 36 2 < s.fw.schema then some (0x0C05, 3)
  else if majorBlocked s then some (0x0C07, 4)
  else if s.fw.emerg then some (0x0112, 5)
  else none

/-- The staged image becomes the running one and its slot is committed (R459). In recovery the generation is one above the
other slot's, since no slot runs, and the image is measured as boot step 2 measures it (log 121). -/
def moltCommit (s : State) : State :=
  match s.fw.staged with
  | none => s
  | some k =>
    let f := (fwSlot s k).image
    let g := (fwSlot s (if s.fw.recovery then 1 - k else s.fw.slot)).gen + 1
    let old := s.fw.ver
    let changed := decide (old.toNat % 2 ^ 32 ≠ fiVer f % 2 ^ 32)
    let s1 := modFwSlot k (fun v => { v with gen := g % 2 ^ 32, committed := true }) s
    let s1' := if s.fw.recovery then setMeas 2 (shake256 f 32) s1 else s1
    let s2 := setMeas 7 (shake256 (digestField (tget [] s.fw.meas 7) ++ shake256 f 32) 32) s1'
    let s3 := modFw (fun w => { w with
      ver := BitVec.ofNat 64 (fiVer f), slot := k, schema := fiSchema f, staged := none, recovery := false, molt := .none }) s2
    let s4 := logAdd 1 6 (wordBytes old ++ wordBytes s3.fw.ver) s3
    if changed then
      (List.range 128).foldl (fun t q => if (quad t q).state = .up then sendIdent q t else t) s4
    else s4

/-- FW_MOLT. In recovery the staged image starts at once; else the root of trust copies it to the working memory of FD0 and checks BODYDIG
(R456). -/
def moltBegin (i : Nat) (m : Slot) (s : State) : State :=
  match moltCheck s (req m 0 8) with
  | some (c, n) => cmdFailAt i c n s
  | none =>
    if s.fw.recovery then
      let t := moltCommit s
      cmdDone i (rp 16 (wordBytes t.fw.ver)) t
    else if !fiBody (stagedImage s) then cmdFailAt i 0x0C01 4 s
    else
      slotWork i .waiting (modFw (fun w => { w with molt := .waiting, moltSlot := i, copy := stagedImage s }) s)

/-- The hand-over point (R456): an epoch boundary of a running scheduled job, or a mailbox scan. -/
def handoverPoint (s : State) : Bool :=
  (if s.sch.state = .run ∨ s.sch.state = .frozen then
     s.sch.state == .run && decide (s.sch.jp = s.sch.epochStart ∧ 0 < s.sch.epoch)
   else true) &&
    s.hif.slots.all (fun e => e.1 == s.fw.moltSlot || !taken e.2)

/-- The state blob (R457): SCHEMA, the length, the contents, which the spec does not lay out (log 2), and the digest of what stands before
it. -/
def moltBlob (s : State) : List Byte :=
  let n := (freeW s).toNat % 2 ^ 31
  let b := leBytes 2 s.fw.schema ++ leBytes 8 n ++ freeBytes n s
  b ++ shake256 b 32

/-- The new image can take the blob: its digest matches, and its schema is one that the image takes. -/
def blobTaken (s : State) : Bool :=
  let b := s.fw.blob
  let n := 10 + fieldAt b 2 8
  let f := stagedImage s
  slice b n 32 == shake256 (b.take n) 32 && decide (fieldAt f 34 2 ≤ fieldAt b 0 2 ∧ fieldAt b 0 2 ≤ fieldAt f 36 2)

/-- MOLT_HANDOVER: the conditions are checked again, and the pause begins with the state blob. -/
def handover (s : State) : State :=
  if s.fw.molt ≠ .waiting ∨ !handoverPoint s then s
  else
    let i := s.fw.moltSlot
    let stop := modFw (fun w => { w with molt := .none }) s
    if s.fw.emerg then cmdFailAt i 0x0112 5 stop
    else if moltBlocked s then cmdFailAt i 0x0C06 2 stop
    else if majorBlocked s then cmdFailAt i 0x0C07 4 stop
    else modFw (fun w => { w with molt := .paused, blob := moltBlob s }) (drawn s)

/-- What waited for the end of the pause: queued entries, then an ORPHAN that fell due (R457, R483). -/
def pauseOver (s : State) : State :=
  let s1 := logFlush (modFw (fun w => { w with orphanDue := 0 }) s)
  if s.fw.orphanDue = 0 then s1 else enterOrphan s.fw.orphanDue s1

/-- The firmware takes what the inbox holds, in arrival order (R444, R457). -/
def takeInbox (s : State) : State := s.fw.inbox.foldl (fun t p => inboxTake p t) (modFw (fun w => { w with inbox := [] }) s)

/-- MOLT_TIMEOUT: the old image resumes; the staged one stays staged (R458). -/
def moltTimeout (s : State) : State :=
  if s.fw.molt ≠ .paused then s
  else
    let s1 := takeInbox (pauseOver (modFw (fun w => { w with molt := .none }) s))
    logOpen 1 6 (cmdFail s.fw.moltSlot 0x0C08 s1)

/-- MOLT_PAUSE_END: the new image takes the inbox, commits, and makes its first scan. One that cannot take the blob has not ended the
pause, and the old image resumes. -/
def moltEnd (pauseNs : Nat) (s : State) : State :=
  if s.fw.molt ≠ .paused then s
  else if !blobTaken s then moltTimeout s
  else
    let i := s.fw.moltSlot
    let s1 := moltCommit (takeInbox (pauseOver (modFw (fun w => { w with molt := .none }) s)))
    scan (cmdDone i (rp 16 (wordBytes s1.fw.ver ++ leBytes 4 pauseNs)) s1)

/-- WATCHDOG_EXPIRY (R443): the control complex is lost. -/
def watchdog (core : Nat) (s : State) : State :=
  if !fwRuns s then s
  else
    let s1 := modFw (fun w => { w with lost := true }) s
    allLinksDown { raise { code := 0x0C12, kind := 10, unit := core } s1 with pins := { s1.pins with faultN := false } }

/-- MGMT_INBOX_ARRIVAL (R444). Firmware that runs consumes the packet at once. -/
def inboxArrive (p : Packet) (s : State) : State :=
  if p.cls ≠ 4 then s
  else if fwRuns s then inboxTake p s
  else if 16384 ≤ s.fw.inbox.length then modFw (fun w => { w with inboxLost := satAdd 0xFFFF w.inboxLost 1 }) s
  else modFw (fun w => { w with inbox := w.inbox ++ [p] }) s

/-! Fuses (R450). -/

/-- The fuse record that measurement 1 covers (Table 14-6). -/
def fuseRecord (s : State) : List Byte :=
  (match s.fuse.custkey with
    | none => zeros 32
    | some k => slice k 0 32) ++ zeros 32 ++ leBytes 1 (bnat s.fuse.sigreq) ++ leBytes 1 s.fuse.svn ++ zeros 6

/-- SVN of the running image. -/
def runningSvn (s : State) : Nat := fiSvn (fwSlot s s.fw.slot).image

/-- A fuse action is refused. -/
def fuseRefused (s : State) (action confirm : Nat) : Bool :=
  s.hif.state != .owned || jobBusy s || confirm != 0xA5 || s.fuse.busy.isSome || s.fw.molt != .none || cmdActive s 0x50 ||
    match action with
    | 1 => s.fuse.custkey.isSome || s.fuse.key.all (fun k => k == 0)
    | 2 => s.fuse.custkey.isNone
    | 3 => s.fw.recovery || decide (runningSvn s < s.fuse.svn)
    | _ => true

/-- A fuse action is accepted or refused. A refusal ends the action in STATUS, unless another action runs. -/
def fuseStart (action confirm : Nat) (s : State) : State :=
  if fuseRefused s action confirm then
    raise { code := 0x0C11, kind := 10, unit := 0xFF, unit2 := action,
            d := [s.fw.ver.toNat, fieldAt s.lay.fp 0 8, fieldAt s.lay.fp 8 8] }
      (if s.fuse.busy.isSome then s else modFuse (fun f => { f with done := true, doneAt := some (croak s), status := 0x0C11 }) s)
  else modFuse (fun f => { f with busy := some action, status := 0 }) s

/-- The fuses after an action. No image that was staged has an SVN above 63 (`fiFormat`). -/
def fuseEffect (s : State) (action : Nat) (f : Fuses) : Fuses :=
  match action with
  | 1 => { f with custkey := some (f.key.flatMap wordBytes) }
  | 2 => { f with sigreq := true }
  | 3 => { f with svn := max f.svn (min 63 (runningSvn s)) }
  | _ => f

/-- FUSE_ACTION_DONE. -/
def fuseDone (s : State) : State :=
  match s.fuse.busy with
  | none => s
  | some a =>
    let s1 := modFuse (fun f => { fuseEffect s a f with busy := none, done := true, doneAt := some (croak s), status := 0 }) s
    logOpen 1 8 (setMeas 1 (shake256 (fuseRecord s1) 32) s1)

/-! Attestation (R454). -/

/-- The attestation report (Table 14-7). -/
def attReport (s : State) : List Byte :=
  let body := leBytes 4 0x31544143 ++ leBytes 4 5965 ++ s.att.nonce.flatMap wordBytes ++ wordBytes Config.serial ++
    leBytes 2 0x4830 ++ leBytes 1 0xA1 ++ leBytes 1 8 ++ leBytes 4 (Config.bootsBefore + s.fw.boots) ++
    fwverBytes s ++ leBytes 8 (croak s) ++ zeros 56 ++
    (List.range 8).flatMap (fun i => leBytes 2 i ++ zeros 14 ++ digestField (tget [] s.fw.meas i)) ++ identityBytes ++ zeros 192
  body ++ signBytes body "CHT48-ATTEST"

/-- ATTEST_GO. The root of trust forms the report, during a molt pause too. -/
def attGo (s : State) : State :=
  if s.att.busy ∨ s.hif.state = .booting then s
  else { s with att := { s.att with busy := true, report := attReport s } }

/-- ATTEST_DONE. -/
def attDone (ok : Bool) (s : State) : State :=
  if !s.att.busy then s
  else
    let s1 : State := { s with att := { s.att with
      busy := false, done := true, doneAt := some (croak s), status := if ok then 0 else 0x0C17, report := [] } }
    if ok then hostWrite (s.att.addr.toNat / 64 * 64) s.att.report s1
    else raise { code := 0x0C17, kind := 10, unit := 0xFF, d := [s.fw.ver.toNat, fieldAt s.lay.fp 0 8, fieldAt s.lay.fp 8 8] } s1

/-! Self-test (R462, R463). -/

/-- Units of a kind. -/
def testUnits (k : Nat) : Nat := match k with | 0 => 2048 | 1 => 128 | _ => 4
/-- Durations of the tests of a kind in µs, by bit. -/
def testTimes (k : Nat) : List Nat := match k with | 0 => [4000, 2000, 1000, 500] | 1 => [10000, 200000, 5000] | _ => [500000, 50000]
/-- The window that the chosen tests need. -/
def testWindow (k mask : Nat) : Nat := (((testTimes k).zipIdx.filter (fun e => bitOf mask e.2)).map (·.1)).sum + 1000

/-- A unit is busy. A unit under test is taken to be busy. -/
def unitTestBusy (s : State) (k u : Nat) : Bool :=
  (match k with
    | 0 =>
      let v := newt s u
      v.state == .run || v.state == .stall || v.state == .paused || v.reserved || (v.role == .scheduled && schedJobBusy s)
    | 1 => !(quad s u).maint
    | _ => (spWins s.lov.plan).any (fun w => fieldAt w 2 1 == u)) ||
  s.hif.slots.any (fun e => e.2.work == .waiting && slotCmd e.2 == 0x60 && e.2.scratch.getD 0 3 == k &&
    decide (e.2.scratch.getD 1 0 ≤ u ∧ u < e.2.scratch.getD 1 0 + e.2.scratch.getD 2 0))

/-- SELFTEST. -/
def testBegin (i : Nat) (m : Slot) (s : State) : State :=
  let k := req m 0 1
  let a := req m 2 2
  let n := req m 4 2
  let mask := req m 12 4
  if n = 0 ∨ testUnits k < a + n ∨ mask % 2 ^ (testTimes k).length = 0 then cmdFail i 0x0C0E s
  else if req m 8 4 < testWindow k mask then cmdFail i 0x0C0F s
  else if (List.range n).any (fun j => unitTestBusy s k (a + j)) then cmdFail i 0x0111 s
  else
    let s1 := if k = 0 then (List.range n).foldl (fun t j => modNewt (a + j) (fun v => { v with reserved := true }) t) s else s
    modMslot i (fun m => { m with work := .waiting, scratch := [k, a, n] }) s1

/-- RAS source kind of a tested unit (Table 15-1). -/
def testSource (k : Nat) : Nat := match k with | 0 => 1 | 1 => 2 | _ => 5

/-- SELFTEST_DONE: failed (unit, test) pairs outside the tested range are not of this test. -/
def testDone (i : Nat) (failed : List (Nat × Nat)) (s : State) : State :=
  let m := mslot s i
  if m.work ≠ .waiting ∨ slotCmd m ≠ 0x60 then s
  else
    let k := m.scratch.getD 0 0
    let a := m.scratch.getD 1 0
    let n := m.scratch.getD 2 0
    let fs := failed.filter (fun e => decide (a ≤ e.1 ∧ e.1 < a + n) && bitOf (req m 12 4) e.2 && decide (e.2 < (testTimes k).length))
    let units := (fs.map (·.1)).foldl insertNat []
    let s1 := fs.foldl (fun t e => raise { code := 0x0C10, kind := testSource k, unit := e.1, unit2 := e.2,
                                           d := [t.fw.ver.toNat, fieldAt t.lay.fp 0 8, fieldAt t.lay.fp 8 8] } t) s
    let s2 := logOpen 1 9 (unreserve m s1)
    let s3 := cmdDone i (rp 16 (leBytes 4 (n - units.length) ++ leBytes 4 units.length ++ leBytes 2 (units.headD 0xFFFF))) s2
    (m.scratch.drop 3).foldl (fun t q => qctlWrite q 0 t) s3

/-! Calibration (R464 to R466). -/

/-- ORIGIN. -/
def calOrigin (b : List Byte) : Nat := fieldAt b 10 1
/-- Sensor offsets of a set, in 1/16 °C. -/
def calOffsets (b : List Byte) : List Int := (List.range 64).map (fun i => signed 16 (fieldAt b (8256 + 4 * i) 2))
/-- The entry of lane `l`. -/
def calLane (b : List Byte) (l : Nat) : List Byte := slice b (64 + 16 * l) 16

/-- CAL_READ. -/
def calRead (i : Nat) (m : Slot) (s : State) : State :=
  aligned64 i (req m 0 8) (fun s =>
    if !s.cal.valid then cmdFail i 0x0C0B s
    else if req m 8 8 < s.cal.set.length then cmdFail i 0x0114 s
    else copyOut i s.cal.set [] s) s

/-- CAL_READ ends. -/
def calReadDone (i : Nat) (ok : Bool) (m : Slot) (s : State) : State :=
  if !ok then cmdFail i 0x0110 s
  else cmdDone i (rp 48 (leBytes 8 m.buffer.length ++ leBytes 1 (calOrigin m.buffer) ++ zeros 7 ++ shake256 m.buffer 32))
    (hostWrite (req m 0 8) m.buffer s)

/-- CAL_WRITE begins. -/
def calWrite (i : Nat) (m : Slot) (s : State) : State := aligned64 i (req m 0 8) (copyIn i) s

/-- The checks of R466 on a set: the code of the first that fails. -/
def calCheck (s : State) (m : Slot) (b : List Byte) : Option Nat :=
  if shake256 b 32 ≠ slice m.bytes 48 32 then some 0x0C0D
  else if b.length ≠ 10560 ∨ fieldAt b 0 4 ≠ 0x314C4143 ∨ fieldAt b 4 4 ≠ 10560 ∨ fieldAt b 8 2 ≠ 1 ∨
      slice b 16 8 ≠ wordBytes Config.serial then some 0x0C0C
  else if (List.range 512).any (fun l => calLane b l != calLane s.cal.set l && (quad s (l / 4)).state != .down && !(quad s (l / 4)).maint) then some 0x0111
  else none

/-- The set has been read: the checks, then the flash write, ORIGIN being user. -/
def calWriteRead (i : Nat) (ok : Bool) (b : List Byte) (m : Slot) (s : State) : State :=
  if !ok then cmdFail i 0x0110 s
  else match calCheck s m b with
    | some c => cmdFail i c s
    | none => modMslot i (fun m => { m with work := .flash, buffer := b.set 10 1 }) s

/-- The set is in flash: the other copy is erased, and sensor offsets apply. Lane trims apply as each quad next trains, stack trims at the
next boot (R466). -/
def calWriteDone (i : Nat) (ok : Bool) (m : Slot) (s : State) : State :=
  if !ok then cmdFail i (flashCode s) (drawn s)
  else
    let b := m.buffer
    let v : CalCopy := { set := b, digest := shake256 b 32 }
    let s1 := if s.cal.inUse = 0 then modCal (fun c => { c with copy0 := none, copy1 := some v, inUse := 1 }) s
      else modCal (fun c => { c with copy0 := some v, copy1 := none, inUse := 0 }) s
    cmdDone i (rp 8 (leBytes 1 1)) (logOpen 1 0xA (modCal (fun c => { c with set := b, valid := true, sensorOff := calOffsets b }) s1))

/-! Log entries and policies. -/

/-- A trace id is enabled (R468). -/
def traceOn (s : State) (id : Nat) : Bool := decide (id < 896) && (tget 0 s.log.trmask (id / 64)).getLsbD (id % 64)

/-- Write an entry whose core firmware names, or queue it. -/
def logCore (e : LogItem) (s : State) : State :=
  if s.log.ready && !(s.fw.molt == .paused) then logNow e s else { s with log := { s.log with queued := s.log.queued ++ [e] } }

/-- LOG_ENTRY_WRITE: an entry of the firmware, or the entries that it has queued. -/
def logEntryWrite (entry : Option LogInput) (s : State) : State :=
  if !fwRuns s then s
  else match entry with
    | none => if s.log.ready then logFlush s else s
    | some e =>
      if 4 < e.typ ∨ (e.typ = 2 ∧ !traceOn s e.id) then s
      else logCore { typ := e.typ, core := e.core % 256, id := e.id % 65536, croak := croak s, data := e.data.take 40 } s

/-- A trace entry of the policies. -/
def traceEntry (id : Nat) (data : List Byte) (s : State) : State :=
  if traceOn s id then logCore { typ := 2, core := 3, id := id, croak := croak s, data := data } s else s

/-- The bytes of sensors `a` to `a + n − 1` (R508). -/
def sensorBytes (s : State) (a n : Nat) : List Byte :=
  (List.range n).flatMap (fun i => leBytes 2 (unsigned 16 (tget 0 s.therm.temps (a + i))))

/-- POWER_TRACE (R508). -/
def powerTrace (s : State) : State :=
  if !fwRuns s then s
  else
    let s1 := traceEntry 576 (s.therm.railMw.flatMap (leBytes 4)) s
    let s2 := traceEntry 577 (sensorBytes s 0 20) s1
    let s3 := traceEntry 578 (sensorBytes s 20 20) s2
    traceEntry 580 (sensorBytes s 60 4) (traceEntry 579 (sensorBytes s 40 20) s3)

/-- DENSITY_POLL (R460): an event for each epoch whose level differs from the one before. -/
def densityPoll (s : State) : State :=
  if !fwRuns s then s
  else s.therm.density.foldl (fun t e => pushEvent 6 (leBytes 1 e.1 ++ leBytes 8 e.2) t)
    { s with therm := { s.therm with density := [] } }

/-- Nodes that adaptive shaping considers: enabled subscriber nodes with room between their limits. -/
def shapeNodes (s : State) : List (Nat × ShpNode) :=
  s.shp.nodes.filter (fun e => decide (0x4000 ≤ e.1) && e.2.en && decide (e.2.lo < e.2.hi))

/-- The rate of a node after a period. -/
def shapeRate (v : ShpNode) : Nat :=
  let step := max 1 (v.rate / 8)
  max v.lo (min v.hi (if v.held ≠ v.heldPrev then v.rate + step else v.rate - step))

/-- ADAPTIVE_SHAPING (R460). A node whose rate changes has full tokens. -/
def adaptShape (s : State) : State :=
  if !fwRuns s ∨ s.fw.recovery ∨ !s.fw.shape then s
  else
    let ns := shapeNodes s
    let s1 := (ns.filter (fun e => ns.any (fun d => d.1 != e.1 && d.2.port == e.2.port && d.2.cls == e.2.cls))).foldl (fun t e =>
      let r := shapeRate e.2
      if r = e.2.rate then t else setSnode e.1 { e.2 with rate := r, tokens := 8000 * e.2.burst } t) s
    { s1 with shp := { s1.shp with nodes := s1.shp.nodes.map (fun e => (e.1, { e.2 with heldPrev := e.2.held })) } }

/-! Meanings. -/

/-- FW_STAGE. -/
def execFwStage (slot : Fin 256) (s : State) : Res := whenUp (onSlot 0x50 slot.val (stageBegin slot.val)) s
/-- FW_MOLT. -/
def execFwMolt (slot : Fin 256) (s : State) : Res := whenUp (onSlot 0x51 slot.val (moltBegin slot.val)) s
/-- MOLT_HANDOVER. -/
def execMoltHandover (s : State) : Res := whenUp handover s
/-- MOLT_PAUSE_END. -/
def execMoltPauseEnd (pauseNs : Nat) (s : State) : Res := whenUp (moltEnd pauseNs) s
/-- MOLT_TIMEOUT. -/
def execMoltTimeout (s : State) : Res := whenUp moltTimeout s
/-- WATCHDOG_EXPIRY. -/
def execWatchdogExpiry (core : Fin 8) (s : State) : Res := whenUp (watchdog core.val) s
/-- MGMT_INBOX_ARRIVAL. -/
def execMgmtInboxArrival (p : Packet) (s : State) : Res := whenUp (inboxArrive p) s
/-- PROG_CUSTKEY. -/
def execProgCustkey (confirm : Byte) (s : State) : Res := whenUp (fuseStart 1 confirm.toNat) s
/-- SET_SIGREQ. -/
def execSetSigreq (confirm : Byte) (s : State) : Res := whenUp (fun s => fuseStart 2 confirm.toNat s) s
/-- RAISE_SVN. -/
def execRaiseSvn (confirm : Byte) (s : State) : Res := whenUp (fun s => fuseStart 3 confirm.toNat s) s
/-- FUSE_ACTION_DONE. -/
def execFuseActionDone (s : State) : Res := whenUp fuseDone s
/-- ATTEST_GO. -/
def execAttestGo (s : State) : Res := whenUp attGo s
/-- ATTEST_DONE. -/
def execAttestDone (hostOk : Bool) (s : State) : Res := whenUp (attDone hostOk) s
/-- SELFTEST. -/
def execSelftest (slot : Fin 256) (s : State) : Res := whenUp (onSlot 0x60 slot.val (testBegin slot.val)) s
/-- SELFTEST_DONE. -/
def execSelftestDone (slot : Fin 256) (failed : List (Nat × Nat)) (s : State) : Res := whenUp (testDone slot.val failed) s
/-- CAL_READ. -/
def execCalRead (slot : Fin 256) (s : State) : Res := whenUp (onSlot 0x70 slot.val (calRead slot.val)) s
/-- CAL_WRITE. -/
def execCalWrite (slot : Fin 256) (s : State) : Res := whenUp (onSlot 0x71 slot.val (calWrite slot.val)) s
/-- LOG_ENTRY_WRITE. -/
def execLogEntryWrite (entry : Option LogInput) (s : State) : Res := whenUp (logEntryWrite entry) s
/-- ADAPTIVE_SHAPING. -/
def execAdaptiveShaping (s : State) : Res := whenUp adaptShape s
/-- DENSITY_POLL. -/
def execDensityPoll (s : State) : Res := whenUp densityPoll s
/-- POWER_TRACE. -/
def execPowerTrace (s : State) : Res := whenUp powerTrace s

end Sys2Proof.Machine
end

