-- ==== Sys2Proof/Machine/Transfers.lean ====
section
/-! DEFINITION. The end of a host-memory access or a flash write that a mailbox command waits for (R430): it completes the
slot's command. -/

namespace Sys2Proof.Machine

/-- Bytes that the host-memory read of a command brings, LENGTH of its request. -/
def transferLen (m : Slot) : Nat := req m 8 8

/-- The transfer of slot `i` ends. A read that ends well brings exactly the bytes asked for; anything else is no end of it. -/
def transferDone (i : Nat) (ok : Bool) (data : List Byte) (s : State) : State :=
  let m := mslot s i
  let whole := !ok || data.length == transferLen m
  if !fwRuns s || !(m.work == .transfer) then s
  else match slotCmd m with
    | 0x10 => if whole then loadRead i ok data m s else s
    | 0x50 => if whole then stageRead i ok data s else s
    | 0x71 => if whole then calWriteRead i ok data m s else s
    | 0x70 => calReadDone i ok m s
    | 0x80 => recordDone i ok m s
    | 0xA0 => snapDone i ok m s
    | _ => s

/-- The flash write of slot `i` ends. -/
def flashDone (i : Nat) (ok : Bool) (s : State) : State :=
  let m := mslot s i
  if !fwRuns s || !(m.work == .flash) then s
  else match slotCmd m with
    | 0x10 => loadKept i ok m s
    | 0x50 => stageDone i ok m s
    | 0x71 => calWriteDone i ok m s
    | _ => s

/-! Meanings. -/

/-- CXL_IO_TRANSFER_DONE. -/
def execCxlIoTransferDone (slot : Fin 256) (ok : Bool) (data : List Byte) (s : State) : Res :=
  whenUp (transferDone slot.val ok data) s
/-- FLASH_WRITE_DONE. -/
def execFlashWriteDone (slot : Fin 256) (ok : Bool) (s : State) : Res := whenUp (flashDone slot.val ok) s

end Sys2Proof.Machine
end

