-- ==== Sys2Proof/Machine/Stacks.lean ====
section
/-! DEFINITION. The Lovor stacks (R386 to R395): the stack plan in force, refresh instants, scrubbing, corrected reads and
stack faults. -/

namespace Sys2Proof.Machine

/-- Change Lovor memory. -/
def modLov (f : Lovor → Lovor) (s : State) : State := { s with lov := f s.lov }

/-- HOT instants are in use (R391): the change of temperature counts from the first plan period that begins after it. -/
def hotUsed (s : State) (n : Nat) : Bool :=
  let v := stack s n
  match v.since with
  | none => v.hot
  | some t =>
    let start := 128 * (padNow s / planPeriod s.lov.plan * planPeriod s.lov.plan)
    if t < start then v.hot else !v.hot

/-- The plan in force names an instant of a pseudo-channel in a pad. -/
def instantAt (s : State) (st p pad : Nat) : Bool :=
  let b := s.lov.plan
  if b.isEmpty then pad % 24 == p % 24
  else (spInst b).any (fun e =>
    e.1 == pad % spPeriod b && e.2.1 == st && e.2.2.1 == p && (e.2.2.2 == 0 || hotUsed s st))

/-- REFRESH_INSTANT (R390): the pseudo-channel is held for the current pad, and instants of past pads are over. -/
def refresh (st p : Nat) (s : State) : State :=
  let pad := padNow s
  if instantAt s st p pad then
    modLov (fun l => { l with holding := (l.holding.filter (fun h => h.2.2 == pad && !(h.1 == st && h.2.1 == p))) ++ [(st, p, pad)] }) s
  else s

/-- STACK_PLAN_CHANGE (R394): at the boundary of a pad whose number both periods divide. -/
def planChange (s : State) : State :=
  match s.lov.nextPlan with
  | none => s
  | some b =>
    if croak s % 128 = 0 ∧ padNow s % planPeriod s.lov.plan = 0 ∧ padNow s % planPeriod b = 0 then
      modLov (fun l => { l with plan := b, nextPlan := none }) s
    else s

/-- PATROL_SCRUB of 64-byte block `b` (R386, R387), in a cycle outside instants and windows. A corrected read is counted; a block that
stands poisoned is found uncorrectable again. -/
def scrub (b : Nat) (res : ReadResult) (s : State) : State :=
  if 2 ^ 32 ≤ b ∨ padKept 255 (64 * b) s then s
  else if res = .uncorrectable ∨ b ∈ s.lov.poison then
    stkUe (64 * b) (modLov (fun l => { l with poison := insertNat l.poison b }) s)
  else if res = .corrected then stkCe (64 * b) s
  else s

/-- STK_CE_RATE (R386): the corrected reads of the stack in this hour reach 4,096; those not counted yet are counted. -/
def ceRate (n : Nat) (s : State) : State :=
  let v := stack s n
  raise { code := 0x0D02, kind := 5, unit := n, d := [0, 4096] } (setStack n
    { v with ce := (v.ce + (4096 - (ceHour s n).length)) % 2 ^ 32, ceTimes := [] } s)

/-- STK_FAULT (R389). -/
def stkFault (n : Nat) (s : State) : State :=
  allLinksDown (raise { code := 0x0D04, kind := 5, unit := n } (modStack n (fun v => { v with faulted := true }) s))

/-- Temperature of a stack in 1/16 °C: the higher of its two sensors that are not ignored (R504). -/
def stackTemp (s : State) (n : Nat) : Int :=
  let t (i : Nat) : Int := if s.therm.ignored.contains i then -640 else tget 0 s.therm.temps i
  max (t (48 + 2 * n)) (t (49 + 2 * n))

/-- STACK_COOL_RETURN (R391). -/
def coolReturn (n : Nat) (s : State) : State :=
  if (stack s n).hot ∧ stackTemp s n < 80 * 16 then
    modStack n (fun v => { v with hot := false, since := some (croak s) }) s
  else s

/-! Meanings. -/

/-- REFRESH_INSTANT. -/
def execRefreshInstant (st : Fin 4) (pch : Fin 32) (s : State) : Res := whenUp (refresh st.val pch.val) s
/-- STACK_PLAN_CHANGE. -/
def execStackPlanChange (s : State) : Res := whenUp planChange s
/-- PATROL_SCRUB. -/
def execPatrolScrub (block : Nat) (result : ReadResult) (s : State) : Res := whenUp (scrub block result) s
/-- STK_CE_RATE. -/
def execStkCeRate (st : Fin 4) (s : State) : Res := whenUp (ceRate st.val) s
/-- STK_FAULT. -/
def execStkFault (st : Fin 4) (s : State) : Res := whenUp (stkFault st.val) s
/-- STACK_COOL_RETURN. -/
def execStackCoolReturn (st : Fin 4) (s : State) : Res := whenUp (coolReturn st.val) s

end Sys2Proof.Machine
end

