-- ==== Sys2Proof/Machine/Power.lean ====
section
/-! DEFINITION. Power, reset and boot (R448, R451, R465, R477, R483, R494 to R503), and the temperature and power conditions
(R504 to R507). -/

namespace Sys2Proof.Machine

/-- Change the pins. -/
def modPins (f : Pins → Pins) (s : State) : State := { s with pins := f s.pins }
/-- Change the thermal state. -/
def modTherm (f : Therm → Therm) (s : State) : State := { s with therm := f s.therm }

/-- The always-on island has left reset. -/
def awake (s : State) : Bool := s.pins.phase == .booting || s.pins.phase == .running || s.pins.phase == .stopped

/-- An error of the always-on island, which records it whether or not the other islands run (R483). -/
def aonRaise (o : Occ) (s : State) : State := if awake s then rasRecord o s else s

/-! Reset (R477, R495). -/

/-- A record that a reset keeps (R477). -/
def keptRecord (code : Nat) : Bool := code / 256 == 0x0E || code == 0x0C12

/-- The RAS block after a reset: the window of R480 starts afresh. -/
def rasReset (r : Ras) : Ras :=
  let kept := r.recs.filter (fun e => keptRecord e.1 && e.2.set)
  { recs := kept.map (fun e => (e.1, { e.2 with logAt := none, cyc := none })), survived := kept.map (·.1) }

/-- What a reset keeps besides the pins: flash, fuses, surviving records, the HDM size, and what lies outside the chip. -/
def keptOver (pins : Pins) (s : State) : State :=
  { pins := pins, ras := rasReset s.ras, unit := { fused := s.unit.fused }
    fw := { slotA := s.fw.slotA, slotB := s.fw.slotB, boots := s.fw.boots }
    fuse := { custkey := s.fuse.custkey, sigreq := s.fuse.sigreq, svn := s.fuse.svn }
    cal := { copy0 := s.cal.copy0, copy1 := s.cal.copy1 }
    lay := { storeA := s.lay.storeA, storeB := s.lay.storeB }
    hif := { hdm := s.hif.hdm, hdmNext := s.hif.hdmNext }
    hostMem := s.hostMem, out := s.out, free := s.free, pending := s.pending }

/-- PWRGOOD_FALL: the next boot is cold, and THERMTRIP_N is released. -/
def pwrFall (s : State) : State :=
  keptOver { perstN := s.pins.perstN, recov := s.pins.recov, test := s.pins.test, jtag := s.pins.jtag
             refBad := s.pins.refBad, trstN := s.pins.trstN, boundary := s.pins.boundary } s

/-- CONVENTIONAL_RESET: PERST_N falls. -/
def convReset (s : State) : State :=
  keptOver { pwrgood := s.pins.pwrgood, recov := s.pins.recov, test := s.pins.test, jtag := s.pins.jtag,
             thermtripN := s.pins.thermtripN, cold := s.pins.phase == .off && s.pins.cold, refBad := s.pins.refBad, trstN := s.pins.trstN, boundary := s.pins.boundary } s

/-! Power-good (R494, R502). -/

/-- POWER_GOOD: the straps are sampled. STRAP_TEST high holds the device in reset with FAULT_N low, and a reference that has not come back
still holds FAULT_N low (R498). -/
def powerGood (recov test : Bool) (s : State) : State :=
  if s.pins.phase ≠ .off then s
  else
    let p := { s.pins with pwrgood := true, perstN := true, recov := recov, test := test, faultN := !s.pins.refBad }
    if test then modPins (fun _ => { p with phase := .testHeld, faultN := false }) s
    else modFw (fun f => { f with boots := f.boots + 1 }) (modPins (fun _ => { p with phase := .booting }) s)

/-! Boot (R448, R451). -/

/-- Detail of the firmware's errors at boot, with the number of the check that failed, 0 for none. -/
def bootOcc (code kind unit chk : Nat) (s : State) : Occ :=
  { code := code, kind := kind, unit := unit, unit2 := chk, d := [s.fw.ver.toNat] }

/-- A committed slot holds an image that ROM can run, its FAILS apart. -/
def slotValid (s : State) (k : Nat) : Bool := (fwSlot s k).committed && (fiCheck s (fwSlot s k).image).isNone

/-- ROM considers slot `k`: a committed image that is not valid and a slot skipped for FAILS are recorded. -/
def considerSlot (k : Nat) (s : State) : State :=
  let v := fwSlot s k
  if !v.committed then s
  else match fiCheck s v.image with
    | some c => raise (bootOcc c 17 k (fiCheckNum v.image c) s) s
    | none => if 3 ≤ v.fails then raise (bootOcc 0x0C0A 17 k 0 s) s else s

/-- The slot that ROM chooses, if one qualifies. -/
def bootSlot (s : State) : Option Nat :=
  let q (k : Nat) : Bool := slotValid s k && decide ((fwSlot s k).fails < 3)
  if q 0 && (!q 1 || decide ((fwSlot s 1).gen ≤ (fwSlot s 0).gen)) then some 0 else if q 1 then some 1 else none

/-- ROM starts in recovery mode. -/
def bootRecovery (s : State) : State := setMeas 2 [] (modFw (fun f => { f with recovery := true, ver := 0 }) s)

/-- ROM starts the image of slot `k`. -/
def bootRun (k : Nat) (s : State) : State :=
  let f := (fwSlot s k).image
  setMeas 2 (shake256 f 32)
    (modFw (fun w => { w with slot := k, ver := BitVec.ofNat 64 (fiVer f), schema := fiSchema f })
      (modFwSlot k (fun v => { v with fails := v.fails + 1 }) s))

/-- Boot step 2. The monitor serves from it, and prompts (R470). -/
def boot2 (s : State) : State :=
  let s1 := setMeas 1 (shake256 (fuseRecord s) 32) (setMeas 0 ((List.range 32).map Config.romDigest) (emit (.uart "> ") s))
  let s2 := setMeas 7 (zeros 32) s1
  if s.pins.recov then bootRecovery s2
  else
    let s3 := considerSlot 1 (considerSlot 0 s2)
    match bootSlot s3 with
    | some k => bootRun k s3
    | none => bootRecovery s3

/-- Apply a calibration set. -/
def calApply (b : List Byte) (valid : Bool) (which : Nat) (s : State) : State :=
  setMeas 3 (shake256 b 32)
    (modCal (fun c => { c with set := b, valid := valid, inUse := which, sensorOff := calOffsets b }) s)

/-- A copy of the calibration store whose digest matches (R465). -/
def calCopyGood (c : Option CalCopy) : Option (List Byte) := (c.filter (fun v => shake256 v.set 32 == v.digest)).map (·.set)

/-- Boot step 3 (R465). -/
def boot3 (s : State) : State :=
  match calCopyGood s.cal.copy0 with
  | some b => calApply b true 0 s
  | none => match calCopyGood s.cal.copy1 with
    | some b => calApply b true 1 s
    | none => raise (bootOcc 0x0C0B 17 2 0 s) (calApply ((List.range 10560).map Config.romCalibration) false 0 s)

/-- Report one surviving record (R483): its log entry, and its event when its EVEN bit is set. -/
def reportSurvivor (code : Nat) (s : State) : State :=
  let r := rasRec s code
  if !r.set then s
  else
    rasEvent code (logAdd 0 code (occBytes r.rsrc r.rdata) s)

/-- Boot step 4: the stacks take their trims (R466), memory reads zero, H is fixed at a cold boot, pools are carved, the job nonce is drawn, the log ring
starts, and surviving records and queued errors are logged. -/
def boot4 (s : State) : State :=
  let h := if s.pins.cold then s.hif.hdmNext else s.hif.hdm
  let s0 := modCal (fun c => { c with stackTrims := slice c.set 8512 2048 }) s
  let s1 := defaultCarve (modHif (fun v => { v with hdm := h }) (modLov (fun l => { l with mem := [], poison := [] }) s0))
  let s2 := { drawn s1 with nonce := (freeW s1).toNat % 2 ^ 32 }
  let s3 := { s2 with log := { s2.log with ready := true, head := 0 } }
  logFlush (s3.ras.survived.foldl (fun t c => reportSurvivor c t) s3)

/-- Bits of word `w` of the map that name a unit (Table 1-4). -/
def unitBits (w : Nat) : Nat :=
  if w < 35 then 2 ^ 64 - 1 else if w = 35 then 2 ^ 16 - 1
  else if w < 72 then (if w % 9 = 8 then 2 ^ 32 - 1 else 2 ^ 64 - 1) else 0

/-- Boot step 5: the units that the start-up self-test failed join the map. -/
def boot5 (excl : List (Nat × Word)) (s : State) : State :=
  let s1 := excl.foldl (fun t e =>
    let new := e.2.toNat &&& unitBits e.1
    let add := BitVec.ofNat 64 new &&& ~~~(mapWord t e.1)
    { t with unit := { t.unit with
        excl := tset 0 t.unit.excl e.1 (tget 0 t.unit.excl e.1 ||| add)
        bootExcl := t.unit.bootExcl + (List.range 64).countP (fun i => add.getLsbD i) } }) s
  setMeas 5 (mapDigest s1) s1

/-- The boot image: the newer complete slot of the store whose file matches its digest (R243). -/
def bootImage (s : State) : Option LaySlot :=
  let ok (v : LaySlot) : Bool := v.complete && shake256 v.file 32 == v.digest
  let a := s.lay.storeA
  let b := s.lay.storeB
  if ok a && (!ok b || decide (b.gen < a.gen)) then some a else if ok b then some b else none

/-- The start-up activation of the boot image fails. -/
def bootLayFail (code chk : Nat) (s : State) : State :=
  logOpen 1 2 (raise (bootOcc code 17 3 chk s) (modLay (fun l => { l with lastErr := code }) s))

/-- Boot step 6 (R246). -/
def boot6 (s : State) : State :=
  if s.fw.recovery then s
  else match bootImage s with
    | none => s
    | some v =>
      match loadCheck s v.file v.file.length v.coord false with
      | some c => bootLayFail c (loadChkNum s v.file c) s
      | none =>
        let k := keptFile v.file v.coord
        let t := lovStore 0 k s
        match activateCheck t k v.coord with
        | some c => bootLayFail c (actChkNum c) t
        | none => activate k v.coord (decide (imSig k ≠ 0) && t.fuse.custkey.isSome) t

/-- The survivors whose IRQEN bit is set. -/
def survivorsIrq (s : State) : List Nat := s.ras.survived.filter (fun c => (rasRec s c).set && irqenOn s c)

/-- Vector 449 once for the surviving records (R483). -/
def reportIrq (s : State) : State :=
  let cs := survivorsIrq s
  let s1 := cs.foldl (fun t c => setRas c { rasRec t c with irq := true } t) s
  let s2 := { s1 with ras := { s1.ras with survived := [] } }
  if cs.isEmpty then s2 else vector 449 s2

/-- Boot step 7: FAILS is cleared, an entry is written, and the interface enters UNOWNED. -/
def boot7 (s : State) : State :=
  let s1 := if s.fw.recovery then s else modFwSlot s.fw.slot (fun v => { v with fails := 0 }) s
  let s2 := logAdd 1 1 (leBytes 1 7) (modFw (fun f => { f with bootStep := 7 }) s1)
  reportIrq (modHif (fun h => { h with state := .unowned }) (modPins (fun p => { p with phase := .running }) s2))

/-- BOOT. A reference fault holds boot step 1 (R498). -/
def boot (excl : List (Nat × Word)) (s : State) : State :=
  if s.pins.phase = .booting ∧ s.fw.bootStep = 0 ∧ !s.fw.lost ∧ !s.pins.refBad then boot7 (boot6 (boot5 excl (boot4 (boot3 (boot2 s))))) else s

/-! Stops (R496, R498, R505). -/

/-- Every island but the always-on island stops, and every link is down. -/
def stopIslands (s : State) : State :=
  { s with
    pins := { s.pins with phase := .stopped }
    quads := s.quads.map (fun e => (e.1, { e.2 with state := .down }))
    hif := { s.hif with cxlUp := false } }

/-- Range of a rail at its sense pair, mV (Table 16-2). -/
def railRange (r : Nat) : Nat × Nat :=
  [(655, 695), (655, 695), (730, 770), (873, 927), (1164, 1236), (1067, 1133), (485, 515), (1746, 1854), (1746, 1854),
    (3201, 3399)].getD r (0, 0)

/-- RAIL_FAULT. -/
def railFault (r mv : Nat) (s : State) : State :=
  let lo := (railRange r).1
  let hi := (railRange r).2
  if !awake s ∨ (lo ≤ mv ∧ mv ≤ hi) then s
  else
    stopIslands (modPins (fun p => { p with faultN := false })
      (aonRaise { code := 0x0E06, kind := 16, unit := 0x100 + r, d := [mv, if mv < lo then lo else hi] } s))

/-- REFERENCE_FAULT: a frequency outside 155.70 to 156.27 MHz, 0 for no edge. During boot step 1 it holds the device in
that step. A frequency inside is the reference come back. -/
def refFault (khz : Nat) (s : State) : State :=
  if !awake s then s
  else if 155700 ≤ khz ∧ khz ≤ 156270 then modPins (fun p => { p with refBad := false }) s
  else
    let s1 := aonRaise { code := 0x0E08 } (modPins (fun p => { p with refBad := true, faultN := false }) s)
    if s.pins.phase = .booting then s1 else stopIslands s1

/-! Temperatures (R504, R505). -/

/-- Thresholds of a sensor in °C (Table 16-9): want 1, want 2, emergency, trip, hysteresis. -/
def sensorRow (i : Nat) : List Int :=
  if 48 ≤ i ∧ i < 56 then [88, 91, 93, 95, 3] else if 60 ≤ i then [85, 90, 95, 105, 5] else [95, 100, 105, 115, 5]

/-- A threshold of a sensor in 1/16 °C: 0 want 1, 1 want 2, 2 emergency, 3 trip. -/
def sensorThr (i k : Nat) : Int := 16 * (sensorRow i).getD k 0

/-- The level that a reading gives a sensor whose condition stood at `old`. -/
def sensorLevel (i old : Nat) (v : Int) : Nat :=
  let hyst := 16 * (sensorRow i).getD 4 0
  let at3 (l : Nat) : Bool := decide (sensorThr i (l - 1) ≤ v) || (decide (l ≤ old) && decide (sensorThr i (l - 1) - hyst ≤ v))
  if at3 3 then 3 else if at3 2 then 2 else if at3 1 then 1 else 0

/-- A reading as a detail field. -/
def detail (v : Int) : Nat := (v % 2 ^ 64).toNat

/-- An occurrence of a sensor's threshold crossing. -/
def sensorOcc (code i lvl k : Nat) (v : Int) : Occ :=
  { code := code, kind := 16, unit := i, unit2 := lvl, d := [detail v, detail (sensorThr i k)] }

/-- One sensor's reading, calibrated (R504): `none` for a sensor that does not answer. -/
def sensorRead (i : Nat) (raw : Option Int) (s : State) : State :=
  if s.therm.ignored.contains i then s
  else
    let v := raw.map (· + s.cal.sensorOff.getD i 0)
    match v with
    | none => aonRaise { code := 0x0E07, kind := 16, unit := i }
        (modTherm (fun t => { t with ignored := t.ignored ++ [i], conds := tset 0 t.conds i 0 }) s)
    | some v =>
      if v < -640 ∨ 2400 < v then
        aonRaise { code := 0x0E07, kind := 16, unit := i, d := [detail v] }
          (modTherm (fun t => { t with ignored := t.ignored ++ [i], conds := tset 0 t.conds i 0 }) s)
      else
        let old := tget 0 s.therm.conds i
        let new := sensorLevel i old v
        let s1 := modTherm (fun t => { t with temps := tset 0 t.temps i v, conds := tset 0 t.conds i new }) s
        let w := min 2 new
        let s2 := if old < w then aonRaise (sensorOcc 0x0E02 i w (w - 1) v) s1 else s1
        if old < 3 ∧ new = 3 then aonRaise (sensorOcc 0x0E04 i 2 2 v) s2 else s2

/-- A stack that reaches 85 °C (R391). -/
def stackHeat (s : State) (n : Nat) : State :=
  if (stack s n).hot ∨ stackTemp s n < 85 * 16 then s
  else
    aonRaise { code := 0x0E09, kind := 5, unit := n, d := [detail (stackTemp s n), 85 * 16] }
      (modStack n (fun v => { v with hot := true, since := some (croak s) }) s)

/-- An emergency condition stands. -/
def emergStands (t : Therm) : Bool := decide (3 ≤ standing t)

/-- After new readings: EMERG is set by an emergency condition, and the want rises. -/
def respond (s : State) : State :=
  wantRise (if emergStands s.therm then setEmerg true s else s)

/-- A sensor's trip condition holds after a reading (R505). -/
def tripHolds (s : State) (i : Nat) : Bool :=
  let v := tget 0 s.therm.temps i
  let hyst := 16 * (sensorRow i).getD 4 0
  !s.therm.ignored.contains i &&
    (decide (sensorThr i 3 ≤ v) || (s.therm.tripped.contains i && decide (sensorThr i 3 - hyst ≤ v)))

/-- A trip (R505): each sensor whose condition begins to hold is recorded. -/
def trip (s : State) : State :=
  let ts := (List.range 64).filter (tripHolds s)
  let new := ts.filter (fun i => !s.therm.tripped.contains i)
  let s1 := new.foldl (fun t i => aonRaise (sensorOcc 0x0E05 i 0 3 (tget 0 t.therm.temps i)) t) s
  let s2 := modTherm (fun t => { t with tripped := ts }) s1
  if new.isEmpty then s2 else stopIslands (modPins (fun p => { p with thermtripN := false }) s2)

/-- SENSOR_READING. -/
def sensors (raw : List (Option Int)) (s : State) : State :=
  if !awake s then s
  else
    let s1 := (List.range 64).foldl (fun t i => sensorRead i (raw.getD i none) t) s
    trip (respond ((List.range 4).foldl stackHeat s1))

/-! Power (R506). -/

/-- Threshold of a power condition in mW (Table 16-10): want 1, want 2 by the 10 ms and by the 1 ms average, emergency. -/
def powerThr (k : Nat) : Nat := [1650000, 1750000, 1850000, 2000000].getD k 0

/-- A power condition stands after a reading; its lower threshold is 95 % of its threshold. -/
def powerStands (k : Nat) (old : Bool) (mw : Nat) : Bool := decide (powerThr k ≤ mw) || (old && decide (95 * powerThr k ≤ 100 * mw))

/-- One power condition takes a reading: want conditions raise 0x0E01, an emergency 0x0E03. -/
def powerRead (k mw : Nat) (s : State) : State :=
  let old := s.therm.powerHeld.getD k false
  let new := powerStands k old mw
  let s1 := modTherm (fun t => { t with powerHeld := t.powerHeld.set k new }) s
  if new && !old then
    aonRaise { code := if k = 3 then 0x0E03 else 0x0E01, unit2 := if k = 0 then 1 else 2, d := [mw, powerThr k] } s1
  else s1

/-- Package power in mW: the sum over the rails (R506). -/
def packagePower (rails : List Nat) : Nat := (rails.take 10).sum

/-- POWER_READING: what the monitors of rails 0 to 9 read in mW, now and averaged over 10 ms, 1 ms and 100 µs. -/
def power (rails avg10ms avg1ms avg100us : List Nat) (s : State) : State :=
  if !awake s then s
  else
    let s1 := modTherm (fun t => { t with railMw := (List.range 10).map (fun i => rails.getD i 0) }) s
    let a := packagePower avg10ms
    respond (powerRead 3 (packagePower avg100us) (powerRead 2 (packagePower avg1ms) (powerRead 1 a (powerRead 0 a s1))))

/-- EMERGENCY_CLEAR. -/
def emergClear (s : State) : State := if s.fw.emerg ∧ !emergStands s.therm then setEmerg false s else s

/-- A job with a scheduled program runs. -/
def schedRuns (s : State) : Bool := (List.range 64).any (fun j => (job s j).sched && (job s j).state == .running)

/-- WANT_FALL_IDLE. -/
def wantIdle (s : State) : State := if schedRuns s then s else wantFall s

/-! Test access port (R503). -/

/-- The instruction that the port carries out: EXTEST instructions are BYPASS unless PERST_N is low. -/
def jtagActive (p : Pins) : JtagInstr :=
  match p.jtag with
  | .extest | .extestPulse | .extestTrain => if p.perstN then .bypass else p.jtag
  | i => i

/-- IDCODE. -/
def jtagId : Nat := 0x1483019F

/-- The low-speed signals that a boundary capture holds, in the order of Table 16-5 with PERST_N last (log 110). -/
def pinCells (s : State) : List Bool :=
  let p := s.pins
  [p.pwrgood, p.uartTx, p.trstN, p.recov, p.test, alertN s, p.faultN, p.thermtripN, p.perstN]

/-- JTAG_INSTRUCTION: the data register that the instruction selects is put out where the spec gives its contents. SAMPLE/PRELOAD
captures the pins, and the EXTEST instructions drive them from the boundary register. In reset TDO is in high impedance (R495). -/
def jtagTake (i : JtagInstr) (s : State) : State :=
  let s1 := modPins (fun p => { p with jtag := i, trstN := true }) s
  match jtagActive s1.pins with
  | .idcode => if awake s then emit (.jtag jtagId) s1 else s1
  | .bypass => if awake s then emit (.jtag 0) s1 else s1
  | .samplePreload => modPins (fun p => { p with boundary := pinCells s1 }) s1
  | .extest => emit (.pins .extest s1.pins.boundary) s1
  | .extestPulse => emit (.pins .extestPulse s1.pins.boundary) s1
  | .extestTrain => emit (.pins .extestTrain s1.pins.boundary) s1

/-! Meanings. -/

/-- POWER_GOOD. -/
def execPowerGood (recov test : Bool) (s : State) : Res := .next (powerGood recov test s)
/-- BOOT. -/
def execBoot (excl : List (Nat × Word)) (s : State) : Res := .next (boot excl s)
/-- PWRGOOD_FALL. -/
def execPwrgoodFall (s : State) : Res := .next (pwrFall s)
/-- CONVENTIONAL_RESET. -/
def execConventionalReset (s : State) : Res := .next (convReset s)
/-- RAIL_FAULT. -/
def execRailFault (rail : Fin 10) (mv : Nat) (s : State) : Res := .next (railFault rail.val mv s)
/-- REFERENCE_FAULT. -/
def execReferenceFault (khz : Nat) (s : State) : Res := .next (refFault khz s)
/-- SENSOR_READING. -/
def execSensorReading (raw : List (Option Int)) (s : State) : Res := .next (sensors raw s)
/-- POWER_READING. -/
def execPowerReading (rails avg10ms avg1ms avg100us : List Nat) (s : State) : Res :=
  .next (power rails avg10ms avg1ms avg100us s)
/-- EMERGENCY_CLEAR. -/
def execEmergencyClear (s : State) : Res := whenUp emergClear s
/-- WANT_FALL_IDLE. -/
def execWantFallIdle (s : State) : Res := whenUp wantIdle s
/-- JTAG_INSTRUCTION. -/
def execJtagInstruction (i : JtagInstr) (s : State) : Res := .next (jtagTake i s)

end Sys2Proof.Machine
end

