-- ==== Sys2Proof/Machine/RegRead.lean ====
section
/-! DEFINITION. What a 64-bit read of each register of BAR0 returns (Table 15-7 and the register tables of the chapters). An
offset that no register occupies, a reserved field and a write-only field read zero (R8 to R10). -/

namespace Sys2Proof.Machine

/-! GLB (Tables 0-1, 1-5 to 1-8, 7-12 to 7-15, 14-16). -/

/-- Disabled banks of every stack. -/
def banksOff (s : State) : Nat := ((List.range 4).map (fun n => 544 - mapCount s (64 * (36 + 9 * n)) 544)).sum

/-- GLB_UNITSUM. -/
def unitSum (s : State) : Nat :=
  let a := mapCount s 0 1024
  let b := mapCount s 1024 1024
  pack [(12, a + b), (11, a), (11, b), (4, 104 - mapCount s 2048 104), (4, 104 - mapCount s 2152 104), (8, banksOff s),
    (8, s.unit.bootExcl), (1, bnat (unitMapOk s))]

/-- GLB_LAYSTAT. -/
def layStat (s : State) : Nat :=
  let l := s.lay
  pack [(1, bnat l.active), (1, bnat (l.staged.isSome && l.stagedKind == 0)), (1, bnat (l.staged.isSome && l.stagedKind != 0)),
    (1, bnat l.startupDone), (1, bnat l.signed), (1, bnat s.fuse.sigreq), (1, bnat l.compat), (1, bnat l.busy), (1, l.routeBank),
    (1, bnat l.sched), (6, 0), (16, l.lastErr), (16, l.activations)]

/-- GLB_FWSTAT. -/
def fwStat (s : State) : Nat :=
  let f := s.fw
  pack [(1, f.slot), (1, bnat f.recovery), (1, bnat (f.molt != .none)), (1, bnat (f.molt == .paused)), (1, bnat f.staged.isSome),
    (1, bnat f.emerg), (3, f.bootStep), (6, s.fuse.svn), (1, 0), (16, f.schema), (16, f.inboxLost)]

/-- GLB_FUSECTL. -/
def fuseCtl (s : State) : Nat :=
  let f := s.fuse
  pack [(16, 0), (1, bnat f.busy.isSome), (1, bnat f.done), (14, 0), (16, f.status), (1, bnat f.custkey.isSome), (1, bnat f.sigreq)]

/-- GLB_ATTCTL. -/
def attCtl (s : State) : Nat := pack [(1, 0), (1, bnat s.att.busy), (1, bnat s.att.done), (13, 0), (16, s.att.status)]

/-- GLB_MONCTL. -/
def monCtl (s : State) : Nat :=
  let m := s.mon
  pack [(1, bnat m.keyset), (1, bnat m.unlocked), (1, 0), (1, bnat m.fast), (8, m.tokfail)]

/-- The GLB block. -/
def readGlb (s : State) (o : Nat) : Nat :=
  if o = 0 then identWord
  else if o = 0x100 then s.unit.sel
  else if o = 0x108 then (if s.unit.sel < 72 then (mapWord s s.unit.sel).toNat else 0)
  else if o = 0x110 then unitSum s
  else if 0x120 ≤ o ∧ o < 0x140 then fieldAt (mapDigest s) (o - 0x120) 8
  else if o = 0x200 then layStat s
  else if 0x208 ≤ o ∧ o < 0x228 then fieldAt s.lay.fp (o - 0x208) 8
  else if 0x228 ≤ o ∧ o < 0x248 then fieldAt s.lay.program (o - 0x228) 8
  else if o = 0x248 then layLive s
  else if o = 0x300 then s.fw.ver.toNat
  else if o = 0x308 then fwStat s
  else if o = 0x310 then s.fw.err % 2 ^ 23
  else if o = 0x318 then bnat s.fw.shape
  else if 0x320 ≤ o ∧ o < 0x340 then (s.fuse.key.getD ((o - 0x320) / 8) 0).toNat
  else if o = 0x340 then fuseCtl s
  else if 0x348 ≤ o ∧ o < 0x368 then fieldAt (s.fuse.custkey.getD []) (o - 0x348) 8
  else if 0x380 ≤ o ∧ o < 0x3A0 then (s.att.nonce.getD ((o - 0x380) / 8) 0).toNat
  else if o = 0x3A0 then s.att.addr.toNat / 64 * 64
  else if o = 0x3A8 then attCtl s
  else if o = 0x3E0 then monCtl s
  else 0

/-! HIF (Table 13-10, R440). -/

/-- The HIF block; BOOTING shows no HDM size. -/
def readHif (s : State) (o : Nat) : Nat :=
  let h := s.hif
  let boot := h.state == .booting
  if o = 0 then pack [(3, hifNum h.state), (29, 0), (32, h.epoch)]
  else if o = 0x10 then min 0xFFFF ((croak s - h.lastBeat) / msTicks)
  else if o = 0x18 then
    pack [(4, if boot || h.cxlIoOnly then 0 else h.hdm), (4, 0), (4, if boot then 0 else h.hdmNext)]
  else if o = 0x20 then pack [(4, h.evLog2), (2, 0), (58, h.evBase)]
  else if o = 0x28 then pack [(16, h.evWr), (16, h.evRd), (16, h.evLost)]
  else if o = 0x30 then h.err % 2 ^ 23
  else if 0x40 ≤ o ∧ o < 0x60 then ofBits ((List.range 64).filter (fun b => slotState (mslot s ((o - 0x40) * 8 + b)) == 2))
  else if o = 0x60 then pack [(32, h.mbDone), (32, h.mbDiscarded)]
  else if 0x1000 ≤ o ∧ o < 0x1400 then
    let v := job s ((o - 0x1000) / 16)
    if o % 16 = 0 then pack [(32, v.wr), (32, v.rd)]
    else pack [(3, jobStateNum v.state), (1, bnat v.orphaned), (28, 0), (32, v.held.length)]
  else if 0x10000 ≤ o ∧ o < 0x12000 then ((tget msixReset h.msix ((o - 0x10000) / 16)).getD (o / 8 % 2) 0).toNat
  else if 0x12000 ≤ o ∧ o < 0x12040 then ofBits ((List.range 64).filter (fun b => tget false h.pba ((o - 0x12000) * 8 + b)))
  else 0

/-! DMA and POOL (Tables 12-8, 12-9). -/

/-- DMA_STATE.STATE. -/
def dmaNum (t : DmaState) : Nat :=
  match t with
  | .idle => 0 | .run => 1 | .wait => 2 | .error => 3 | .busstop => 4

/-- The DMA block. -/
def readDma (s : State) (o : Nat) : Nat :=
  if o < 0x1000 then
    let c := chan s (o / 64)
    match o % 64 / 8 with
    | 0 => pack [(4, c.log2 % 16), (2, 0), (58, c.base)]
    | 2 => pack [(3, dmaNum c.state), (1, bnat c.arrived), (16, c.next), (17, c.count), (16, c.code)]
    | 3 => bnat c.irqen
    | 4 => c.bytes % 2 ^ 64
    | 5 => c.alloc
    | _ => 0
  else if o = 0x1000 then bnat s.dma.buserr
  else if o = 0x1008 then s.dma.busaddr.toNat
  else 0

/-- Free buffers of a half's list segment. -/
def listFree (s : State) (h : Nat) : Nat := (tget [] s.pool.order h).length + (halfList s h - tget 0 s.pool.front h)

/-- POOL_STK. -/
def poolStk (s : State) (n : Nat) : Nat :=
  let v := stack s n
  let t := (tget 0 s.therm.temps (48 + 2 * n)) / 16
  pack [(2, if v.faulted then 2 else bnat (hotUsed s n)), (8, unsigned 8 t), (32, v.ce), (16, v.ue)]

/-- A requester id of Table 12-4. -/
def requester (r : Nat) : Bool := decide (r < 0x40 ∨ (0x100 ≤ r ∧ r < 0x902)) || r == 0x910

/-- The POOL block. -/
def readPool (s : State) (o : Nat) : Nat :=
  let h := o % 0x100 / 8
  if o < 0x70 then pack [(18, halfSize s h), (4, tget 0 s.pool.list h)]
  else if 0x100 ≤ o ∧ o < 0x170 then
    pack [(30, halfFree s h), (30, listFree s h), (1, bnat (tget false s.pool.rebuild h))]
  else if o = 0x200 ∨ o = 0x208 then
    let d := (o - 0x200) / 8
    let sum := ((List.range 7).map (fun i => halfSize s (7 * d + i))).sum
    if s.hif.state = .booting then pack [(19, 0), (19, sum)] else pack [(19, poolArea s), (19, sum), (8, s.hif.hdm)]
  else if o = 0x308 then s.pool.stat % 8
  else if 0x400 ≤ o ∧ o < 0x420 then poolStk s ((o - 0x400) / 8)
  else if o = 0x420 then
    pack [(13, planPeriod s.lov.plan), (1, bnat s.lov.plan.isEmpty), (8, (planWins s.lov.plan).length)]
  else if 0x10000 ≤ o then
    let r := (o - 0x10000) / 8
    if requester r then pack [(32, limitOf s r), (32, usedOf s r)] else 0
  else 0

/-! SYNC (Tables 5-7 to 5-17). -/

/-- SYNC_STAT. -/
def syncStatWord (v : SyncObj) : Nat :=
  pack [(1, bnat v.timeout), (1, bnat v.overpost), (1, bnat v.badop), (1, bnat v.badsrc), (1, bnat v.leftBit), (1, bnat v.quar),
    (1, bnat v.merged)]

/-- SYNC_BLSTAT. -/
def blStat (s : State) (l : Nat) : Nat :=
  let b := bline s l
  pack [(1, bnat b.out), (12, (b.mask.filter (fun i => !b.arrived.contains i)).length), (1, bnat b.bound.isSome),
    (13, b.bound.getD 0)]

/-- SYNC_FBLSTAT. -/
def fblStat (s : State) (f : Nat) : Nat :=
  let v := fline s f
  match s.sync.objs.find? (fun e => e.2.kind == 2 && e.2.fabric && e.2.fbl == f) with
  | some e => pack [(2, v.round), (2, v.stage), (1, 1), (6, e.2.bl)]
  | none => pack [(2, v.round), (2, v.stage)]

/-- The SYNC block. -/
def readSync (s : State) (o : Nat) : Nat :=
  if o < 0x80000 then
    let v := obj s (o / 64)
    match o % 64 / 8 with
    | 0 => cfgWord v
    | 1 => v.prod
    | 2 => v.cons
    | 3 => v.peer
    | 4 => pack [(32, v.cnt), (32, v.ann)]
    | 5 => pack [(12, v.waiters.length), (16, (v.waiters.head?.map (·.agent)).getD 0), (5, v.holdq.length)]
    | 7 => syncStatWord v
    | _ => 0
  else if 0x80000 ≤ o ∧ o < 0x88000 then
    let w := o % 512 / 8
    ofBits (((bline s ((o - 0x80000) / 512)).mask.filter (fun i => i / 64 == w)).map (· % 64))
  else if 0x90000 ≤ o ∧ o < 0x90200 then blStat s ((o - 0x90000) / 8)
  else if 0x90200 ≤ o ∧ o < 0x90400 then fblStat s ((o - 0x90200) / 8)
  else 0

/-! SWC (Tables 8-6 to 8-9). -/

/-- SWC_SHARED, SWC_OVF and SWC_COPY of a die: with no BUFPART in force their sizes read zero. -/
def swcAreas (s : State) (k d : Nat) : Nat :=
  let v (n : Nat) : Nat := if s.swc.valid then n else 0
  match k with
  | 0 => pack [(19, v (sharedSize s d)), (19, dieCells s d 2), (19, s.swc.sharedHigh.getD d 0)]
  | 1 => pack [(20, v (8192 * fieldAt s.swc.bufpart 0 1)), (20, (ovfBufs s d).length), (20, s.swc.ovfHigh.getD d 0)]
  | _ => pack [(17, v (copyMax s d)), (17, dieCells s d 4), (17, s.swc.copyHigh.getD d 0)]

/-- The counters of a port and class; SCHED has the first four only. -/
def swcPort (s : State) (p c r : Nat) : Nat :=
  let v := tget {} s.swc.ctr (8 * p + c)
  let hs := s.swc.queues.filter (fun h => h.outPort == p && h.pkt.cls == c)
  let on := cellSum (hs.filter (fun h => h.acct ≠ 3))
  let ovf := if c = 5 then 0 else cellSum (hs.filter (fun h => h.acct == 3))
  match r with
  | 0 => v.rxPkt
  | 1 => v.rxByte
  | 2 => v.txPkt
  | 3 => v.txByte
  | 4 => if c = 0 then 0 else pack [(32, v.stompRx), (32, v.stompTx)]
  | 5 => if c = 0 then 0 else pack [(19, on), (28, ovf)]
  | 6 => if c = 0 then 0 else pack [(19, v.highOn), (28, if c = 5 then 0 else v.highOvf)]
  | _ => if c = 0 then 0 else v.stallCyc

/-- SWC_MIRCFG. -/
def mirCfgWord (m : Mirror) : Nat :=
  pack [(1, bnat m.en), (1, bnat m.inp), (1, bnat m.outp), (1, bnat m.flow), (8, m.port), (3, m.prio), (4, m.trunc),
    (1, bnat m.sched), (22, m.dest)]

/-- The registers of a mirror session. -/
def mirRead (m : Mirror) (r : Nat) : Nat :=
  match r with
  | 0 => mirCfgWord m
  | 1 => m.src.toNat
  | 2 => m.dst.toNat
  | 3 => m.key
  | 4 => m.keym
  | 5 => pack [(24, m.n), (24, m.pos % max 1 m.n)]
  | 6 => m.cnt % 2 ^ 64
  | 7 => pack [(32, m.dropped), (32, m.evicted)]
  | _ => 0

/-- The SWC block. -/
def readSwc (s : State) (o : Nat) : Nat :=
  let b := s.swc.bufpart
  if o = 0 then pack [(3, alphaOf s), (1, bnat s.swc.valid), (6, fieldAt b 1 1), (7, fieldAt b 0 1)]
  else if o < 0x38 then swcAreas s ((o / 8 - 1) / 2) ((o / 8 - 1) % 2)
  else if o = 0x38 then 2 * ofBits ((List.range 5).filter (fun i => heldClass s (i + 1)))
  else if o = 0x40 then s.swc.stat % 256
  else if o = 0x50 then s.swc.stallTmo
  else if 0x100 ≤ o ∧ o < 0x140 then s.swc.disc.getD ((o - 0x100) / 8) 0
  else if 0x10000 ≤ o ∧ o < 0x20C00 then
    let p := (o - 0x10000) / 512
    let c := o % 512 / 64
    if c < 6 then swcPort s p c (o % 64 / 8) else 0
  else if 0x30000 ≤ o ∧ o < 0x30800 then mirRead (tget {} s.swc.mirrors ((o - 0x30000) / 128)) (o % 128 / 8)
  else 0

/-! RTE (Tables 9-10 to 9-15). -/

/-- RTE_QSTAT.STATE. -/
def quadNum (t : QState) : Nat :=
  match t with
  | .down => 0 | .train => 1 | .ident => 2 | .measure => 3 | .up => 4 | .mgmtOnly => 5 | .quarantine => 6

/-- Eight entries of a bank. -/
def bankWord (t : Table Nat) (w : Nat) : Nat := pack ((List.range 8).map (fun i => (8, tget 0 t (8 * w + i))))

/-- The RTE block. -/
def readRte (s : State) (o : Nat) : Nat :=
  let r := s.rte
  if o = 0 then
    pack [(15, r.coord), (5, r.extX - 1), (5, r.extY - 1), (5, r.extZ - 1), (1, bnat r.compat), (1, bnat s.lay.startupDone)]
  else if 0x1000 ≤ o ∧ o < 0x1400 then
    let v := quad s ((o - 0x1000) / 8)
    pack [(4, quadNum v.state), (4, v.use), (7, v.port), (5, v.qidx), (15, v.ncoord), (16, v.cause)]
  else if 0x2000 ≤ o ∧ o < 0x2400 then
    let e := tget {} r.ep ((o - 0x2000) / 8)
    pack [(2, e.state), (3, e.caps), (16, e.vendor), (16, e.device), (8, e.jminor)]
  else if o = 0x3000 then pack [(21, r.flows.length), (15, (r.flows.filter (·.ctx.isSome)).length), (15, r.ctxHigh)]
  else if o = 0x3008 then pack [(32, r.dup), (32, r.busy)]
  else if o = 0x3010 then drainReg s
  else if o = 0x3018 then r.err % 2 ^ 14
  else if 0x10000 ≤ o ∧ o < 0x18000 then bankWord (standbyBank s) ((o - 0x10000) / 8)
  else if 0x20000 ≤ o ∧ o < 0x28000 then bankWord (activeBank s) ((o - 0x20000) / 8)
  else 0

/-! SHP (Tables 10-5 to 10-8). -/

/-- The registers of a shaping node. -/
def nodeRead (s : State) (n r : Nat) : Nat :=
  let v := snode s n
  match r with
  | 0 => pack [(1, bnat v.en), (1, 0), (21, v.rate), (25, v.burst), (9, unsigned 9 v.ovh)]
  | 1 => pack [(21, v.lo), (21, v.hi)]
  | 2 => v.tokens % 2 ^ 40
  | 3 => pack [(32, v.passed), (32, v.held)]
  | 4 => if 0x4000 ≤ n then pack [(22, v.src), (8, v.port), (2, v.cls - 1)] else 0
  | _ => 0

/-- The registers of a policer. -/
def policerRead (v : Policer) (r : Nat) : Nat :=
  match r with
  | 0 => pack [(1, bnat v.en), (1, 0), (1, bnat v.mode), (1, bnat v.caware), (9, unsigned 9 v.ovh), (7, v.port), (16, v.chmask)]
  | 1 => pack [(21, v.wCir), (25, v.wCbs)]
  | 2 => pack [(21, v.wErate), (25, v.wEbs)]
  | 3 => v.tokC % 2 ^ 40
  | 4 => v.tokE % 2 ^ 40
  | 5 => pack [(32, v.green), (32, v.yellow)]
  | 6 => v.red
  | _ => 0

/-- The node whose registers hold an offset of the SHP block. -/
def nodeAt (o : Nat) : Option Nat :=
  if 0x1000 ≤ o ∧ o < 0x20C0 then some ((o - 0x1000) / 32)
  else if 0x3000 ≤ o ∧ o < 0x6240 then some (0x1000 + (o - 0x3000) / 32)
  else if 0x10000 ≤ o ∧ o < 0x110000 then some (0x4000 + (o - 0x10000) / 64)
  else none

/-- The register number of an offset within its node. -/
def nodeReg (n o : Nat) : Nat := if n < 0x4000 then o % 32 / 8 else o % 64 / 8

/-- The SHP block. -/
def readShp (s : State) (o : Nat) : Nat :=
  if o = 0 then s.shp.stat % 8
  else if o = 8 then s.shp.redcnt
  else match nodeAt o with
    | some n => nodeRead s n (nodeReg n o)
    | none => if 0x200000 ≤ o ∧ o < 0x208000 then policerRead (policer s ((o - 0x200000) / 64)) (o % 64 / 8) else 0

/-! LNK (Table 11-17). -/

/-- LNK_QSTAT.TRAIN_MS. -/
def trainMsOf (s : State) (v : Quad) : Nat :=
  if v.state = .train then min 4095 ((croak s - v.trainAt) / msTicks) else v.trainMs

/-- LNK_LSTAT. -/
def laneStat (l : Lane) : Nat :=
  pack [(1, bnat l.signal), (1, bnat l.cdr), (1, bnat l.awseen), (1, bnat l.aligned), (1, bnat l.inverted), (2, l.farLane),
    (10, l.offset), (15, l.markerBad)]

/-- LNK_TXEQ. -/
def laneTaps (l : Lane) : Nat :=
  pack [(8, unsigned 8 l.cm3), (8, unsigned 8 l.cm2), (8, unsigned 8 l.cm1), (8, unsigned 8 (mainTap l)), (8, unsigned 8 l.cp1)]

/-- A quad's registers. -/
def lnkRead (s : State) (q o : Nat) : Nat :=
  let v := quad s q
  let lane (b : Nat) : Lane := v.lanes.getD ((o - b) / 8) {}
  if o = 0 then bnat v.maint
  else if o = 8 then
    pack [(4, if v.maint then 0 else v.step), (4, ofBits ((List.range 4).filter (fun i => (v.lanes.getD i {}).aligned))),
      (1, bnat v.deskewed), (1, bnat v.farReady), (1, bnat v.nearReady), (1, bnat v.maint), (8, v.skew), (12, trainMsOf s v)]
  else if o = 0x18 then v.err % 256
  else if 0x20 ≤ o ∧ o < 0x40 then laneStat (lane 0x20)
  else if 0x40 ≤ o ∧ o < 0x60 then laneTaps (lane 0x40)
  else if 0x60 ≤ o ∧ o < 0x80 then
    let l := lane 0x60
    pack [(16, l.req), (16, l.farStat), (16, l.farReq), (16, l.stat)]
  else if o = 0x80 then pack [(32, v.cwCorr), (32, v.cwUncorr)]
  else if o = 0x88 then pack [(32, v.crcBad), (32, v.stompRx)]
  else if o = 0x90 then pack [(32, v.replayed), (16, v.late), (16, v.fails)]
  else if 0xA0 ≤ o ∧ o < 0xE8 then
    let c := credOf v ((o - 0xA0) / 8 + 1)
    pack [(16, c.limit), (16, c.sent), (16, c.adv)]
  else 0

/-! NWT, SCH, LOG (Tables 3-15 to 3-17, 6-11 to 6-17, 14-17). -/

/-- NWT_STAT.STATE. -/
def newtNum (s : State) (n : Nat) : Nat :=
  if !newtEnabled s n then 6
  else match (newt s n).state with
    | .idle => 0 | .run => 1 | .stall => 2 | .paused => 3 | .done => 4 | .error => 5

/-- NWT_STAT.ROLE. -/
def roleNum (r : Role) : Nat := match r with | .unbound => 0 | .scheduled => 1 | .free => 2

/-- The NWT block. -/
def readNwt (s : State) (o : Nat) : Nat :=
  let n := o / 64
  let v := newt s n
  if 0x20000 ≤ o then 0
  else match o % 64 / 8 with
    | 0 => pack [(3, newtNum s n), (2, roleNum v.role), (3, v.stall), (11, v.slot), (13, v.pc), (6, iOpc (wordAt v v.pc)),
        (1, bnat v.held), (1, bnat v.aborted), (24, v.coll)]
    | 1 => pack [(16, v.errCode), (13, v.errPc), (3, 0), (1, bnat v.err), (8, v.more)]
    | 2 => pack [(32, v.issued), (32, v.stalled)]
    | _ => 0

/-- SCH_ALIGN.STATE. -/
def alignNum (a : AlignState) : Nat := match a with | .unaligned => 0 | .measuring => 1 | .aligned => 2 | .outOfBound => 3

/-- SCH_JOB.STATE. -/
def schNum (t : SchState) : Nat :=
  match t with
  | .idle => 0 | .armed => 1 | .run => 2 | .frozen => 3 | .paused => 4 | .done => 5 | .stopped => 6

/-- SCH_ALIGN. -/
def schAlign (s : State) : Nat :=
  pack [(2, alignNum s.sch.align), (1, bnat s.sch.master), (15, s.sch.masterXyz), (6, s.sch.hops), (8, s.sch.bound), (32, s.sch.term)]

/-- SCH_JOB. -/
def schJob (s : State) : Nat :=
  pack [(3, schNum s.sch.state), (2, s.sch.level), (1, bnat s.sch.pausePend), (10, 0), (16, s.sch.quantum), (32, s.sch.epoch)]

/-- SCH_STAT. -/
def schStat (u : Sch) : Nat :=
  pack [(1, bnat u.called), (1, bnat u.extended), (1, bnat u.thinned), (1, bnat u.drift), (1, bnat u.masterLostBit),
    (1, bnat u.lineFault), (1, bnat u.pipeFault)]

/-- SCH_LINKDLY: the lowest-numbered quad of a link holds the values. -/
def linkDly (s : State) (q : Nat) : Nat :=
  let v := quad s q
  match quadPort v with
  | none => 0
  | some p =>
    if (portQuads s p).head? = some q then
      pack [(16, unsigned 16 v.oneway), (2, v.d), (1, bnat v.long), (1, bnat v.measured), (4, 0), (40, unsigned 40 v.offset)]
    else 0

/-- The SCH block. -/
def readSch (s : State) (o : Nat) : Nat :=
  let u := s.sch
  if o = 0 then u.croak
  else if o = 8 then schAlign s
  else if o = 0x10 then schJob s
  else if o = 0x18 then u.launchL % 2 ^ 64
  else if o = 0x20 then pack [(48, u.slipPads), (16, min 0xFFFF u.slipEvents)]
  else if o = 0x28 then schStat u
  else if o = 0x30 then u.jp % 2 ^ 48
  else if 0x1000 ≤ o ∧ o < 0x1400 then linkDly s ((o - 0x1000) / 8)
  else 0

/-- The LOG block. -/
def readLog (s : State) (o : Nat) : Nat :=
  if o < 0x400000 then leNat (lovRead s (logBase + o) 8)
  else if o = 0x400000 then s.log.head
  else if o = 0x400008 then pack [(32, s.log.trdrop), (1, bnat s.log.snap)]
  else if 0x400100 ≤ o ∧ o < 0x400180 then (tget 0 s.log.trmask ((o - 0x400100) / 8)).toNat
  else 0

/-! RAS (Table 15-5). -/

/-- RAS_RSTAT. -/
def rasStat (s : State) (c : Nat) : Nat :=
  let r := rasRec s c
  if !definedCode c then 0
  else pack [(1, bnat r.set), (1, bnat r.evt), (1, bnat r.irq), (1, bnat r.inj), (12, 0), (32, r.count), (16, c)]

/-- The codes whose records are set. -/
def rasSet (s : State) : List (Nat × RasRec) := s.ras.recs.filter (fun e => e.2.set)

/-- RAS_SUM. -/
def rasSum (s : State) : Nat :=
  let l := rasSet s
  pack [(14, ofBits ((List.range 14).filter (fun b => l.any (fun e => e.1 / 256 == b + 1)))), (2, 0), (13, l.length),
    (1, bnat (l.any (fun e => e.2.inj)))]

/-- A word of one bit per code. -/
def codeWord (f : Nat → Bool) (w : Nat) : Nat := ofBits ((List.range 64).filter (fun b => f (64 * w + b)))

/-- The RAS block. -/
def readRas (s : State) (o : Nat) : Nat :=
  if o = 0 then rasSum s
  else if 0x1000 ≤ o ∧ o < 0x1200 then codeWord (fun c => (rasRec s c).set) ((o - 0x1000) / 8)
  else if 0x2000 ≤ o ∧ o < 0x2200 then codeWord (evenOn s) ((o - 0x2000) / 8)
  else if 0x3000 ≤ o ∧ o < 0x3200 then codeWord (irqenOn s) ((o - 0x3000) / 8)
  else if 0x100000 ≤ o ∧ o < 0x140000 then
    let c := (o - 0x100000) / 64
    let r := rasRec s c
    match o % 64 / 8 with
    | 0 => rasStat s c
    | 1 => r.rtime
    | 2 => r.rlast
    | 3 => r.rsrc.toNat
    | k => (r.rdata.getD (k - 4) 0).toNat
  else 0

/-! BAR0. -/

/-- The identity in PCI configuration space (R3): vendor ID, device ID and revision ID, the values of GLB_IDENT. -/
def pciIdentity : Nat × Nat × Nat := (bits identWord 15 0, bits identWord 31 16, bits identWord 39 32)

/-- Subsystem vendor ID, subsystem ID and class code in PCI configuration space (R415). -/
def pciSubsystem : Nat × Nat × Nat := (bits identWord 15 0, 0x0001, 0x120000)

/-- The HDM size that the device reports to the host, in units of 16 GiB: none on a link of 68-byte flits (R414). -/
def hdmReported (s : State) : Nat := if s.hif.cxlIoOnly then 0 else s.hif.hdm

/-- The CXL DVSEC for devices (R415): Cache_Capable, HDM_Count and Mem_Capable. -/
def cxlDvsec (s : State) : Nat × Nat × Nat := (0, 1, bnat (hdmReported s != 0))

/-- The DVSECs that configuration space carries (R415): the CXL DVSEC for devices, the Flex Bus port's and the register locator's, by the
DVSEC ids of CXL (PRESUMED, log 68). -/
def cxlDvsecIds : List Nat := [0, 7, 8]

/-- What the register locator points at (R415): the BAR, the offset and the size of the CXL component registers. -/
def registerLocator : Nat × Nat × Nat := (0, 0x3F00000, 0x10000)

/-- A base address register (R416). -/
structure Bar where
  num : Nat
  size : Nat
  wide : Bool := true
  prefetchable : Bool := false
deriving DecidableEq, Repr

/-- The BARs of Table 13-1: each is 64-bit and non-prefetchable. -/
def bars : List Bar := [{ num := 0, size := 2 ^ 26 }, { num := 2, size := 2 ^ 20 }]

/-- The CXL component registers that are fixed (PRESUMED, log 68: CXL's layout): at 0x1000 the capability header with the RAS and HDM
decoder capabilities (R415), whose registers stand at 0x1080 and 0x1100. -/
def cxlFixed (o : Nat) : Option Nat :=
  if o = 0x1000 then some 0x0802000202110001 else if o = 0x1008 then some 0x10010005 else none

/-- A CXL component register. The HDM decoder capability register shows one decoder. -/
def cxlRead (s : State) (o : Nat) : Nat :=
  let v := (tget 0 s.hif.cxlRegs (o / 8)).toNat
  match cxlFixed o with
  | some f => f
  | none => if o = 0x1100 then v / 2 ^ 32 * 2 ^ 32 else v

/-- A naturally aligned 64-bit read of BAR0 at `o`. -/
def regRead (s : State) (o : Nat) : Nat :=
  if o % 8 ≠ 0 ∨ 0x4000000 ≤ o then 0
  else if o < 0x100000 then readGlb s o
  else if o < 0x200000 then readHif s (o - 0x100000)
  else if o < 0x300000 then readDma s (o - 0x200000)
  else if o < 0x400000 then readPool s (o - 0x300000)
  else if o < 0x800000 then readSync s (o - 0x400000)
  else if o < 0xC00000 then readSwc s (o - 0x800000)
  else if o < 0x1000000 then readRte s (o - 0xC00000)
  else if o < 0x1400000 then readShp s (o - 0x1000000)
  else if o < 0x1800000 then (if o < 0x1480000 then lnkRead s ((o - 0x1400000) / 4096) (o % 4096) else 0)
  else if o < 0x1C00000 then readNwt s (o - 0x1800000)
  else if o < 0x2000000 then readSch s (o - 0x1C00000)
  else if o < 0x3000000 then readLog s (o - 0x2000000)
  else if o < 0x3F00000 then readRas s (o - 0x3000000)
  else if o < 0x3F10000 then cxlRead s (o - 0x3F00000)
  else 0

/-- A read of `width` bytes (R8): 64 bits, or the addressed half; any other access reads zero (log 100). -/
def regReadW (s : State) (o width : Nat) : Nat :=
  if width = 8 ∧ o % 8 = 0 then regRead s o
  else if width = 4 ∧ o % 4 = 0 then regRead s (o / 8 * 8) / 2 ^ (8 * (o % 8)) % 2 ^ 32
  else 0

end Sys2Proof.Machine
end

