-- ==== Sys2Proof/Machine/RegWrite.lean ====
section
/-! DEFINITION. Writes of BAR0 (R8 to R11, Table 15-7): each writable register's own effect; reserved fields, read-only registers
and offsets that no register occupies ignore the write. -/

namespace Sys2Proof.Machine

/-- A write-1-to-clear field of `n` bits. Where the write comes in the cycle that set a bit, the bit stays set (R11): `freshKeep` and
the fields that end in `At` tell. -/
def w1c (n cur w : Nat) : Nat := cur - (cur &&& (w % 2 ^ n))

/-! GLB. -/

/-- Change the monitor. -/
def modMon (f : Monitor → Monitor) (s : State) : State := { s with mon := f s.mon }

/-- A write of GLB_MONKEY: it locks the monitor (R471). -/
def monKeyWrite (i : Nat) (w : Word) (s : State) : State :=
  modMon (fun m => { m with key := m.key.set i w, keyset := true, unlocked := false }) s

/-- A write of GLB_MONCTL. -/
def monCtlWrite (w : Nat) (s : State) : State := if bitOf w 2 then modMon (fun m => { m with unlocked := false }) s else s

/-- A write of GLB_FUSECTL: DONE is cleared by 1, and an ACTION other than 0 starts a fuse action. -/
def fuseCtlWrite (w : Nat) (s : State) : State :=
  let s1 := if bitOf w 17 && s.fuse.doneAt != some (croak s) then modFuse (fun f => { f with done := false }) s else s
  if bits w 2 0 = 0 then s1 else fuseStart (bits w 2 0) (bits w 15 8) s1

/-- A write of GLB_ATTCTL. -/
def attCtlWrite (w : Nat) (s : State) : State :=
  let s1 : State := if bitOf w 2 && s.att.doneAt != some (croak s) then { s with att := { s.att with done := false } } else s
  if bitOf w 0 then attGo s1 else s1

/-- GLB_POLICY.SHAPE is written; the first period of adaptive shaping counts from the write that sets it (R460). -/
def shapeSet (on : Bool) (s : State) : State :=
  let s1 := modFw (fun f => { f with shape := on }) s
  if on && !s.fw.shape then
    { s1 with shp := { s1.shp with nodes := s1.shp.nodes.map (fun e => (e.1, { e.2 with heldPrev := e.2.held })) } }
  else s1

/-- The GLB block. -/
def writeGlb (o : Nat) (w : Word) (s : State) : State :=
  let v := w.toNat
  if o = 0x100 then { s with unit := { s.unit with sel := v % 128 } }
  else if o = 0x310 then modFw (fun f => { f with err := w1c 23 f.err (freshKeep s 0x310 v) }) s
  else if o = 0x318 then shapeSet (bitOf v 0) s
  else if 0x320 ≤ o ∧ o < 0x340 then modFuse (fun f => { f with key := f.key.set ((o - 0x320) / 8) w }) s
  else if o = 0x340 then fuseCtlWrite v s
  else if 0x380 ≤ o ∧ o < 0x3A0 then { s with att := { s.att with nonce := s.att.nonce.set ((o - 0x380) / 8) w } }
  else if o = 0x3A0 then { s with att := { s.att with addr := BitVec.ofNat 64 (v / 64 * 64) } }
  else if o = 0x3A8 then attCtlWrite v s
  else if 0x3C0 ≤ o ∧ o < 0x3E0 then monKeyWrite ((o - 0x3C0) / 8) w s
  else if o = 0x3E0 then monCtlWrite v s
  else s

/-! HIF. -/

/-- A write of a word of the MSI-X table. Unmasking an entry whose bit is pending sends its message, as PCI Express has it. -/
def msixWrite (v half : Nat) (w : Word) (s : State) : State :=
  let e := (tget msixReset s.hif.msix v).set half (if half = 1 then w &&& 0x1FFFFFFFF else w)
  let s1 := modHif (fun h => { h with msix := tset msixReset h.msix v e }) s
  if tget false s.hif.pba v && !((e.getD 1 0).getLsbD 32) then
    vector v (modHif (fun h => { h with pba := tset false h.pba v false }) s1)
  else s1

/-- The HIF block. -/
def writeHif (o : Nat) (w : Word) (s : State) : State :=
  let v := w.toNat
  if o = 8 then heartbeatWrite v s
  else if o = 0x18 then hdmNextWrite v s
  else if o = 0x20 then evRingWrite v s
  else if o = 0x28 then evRdWrite (bits v 31 16) s
  else if o = 0x30 then modHif (fun h => { h with err := w1c 23 h.err (freshKeep s 0x100030 v) }) s
  else if 0x1000 ≤ o ∧ o < 0x1400 then (if o % 16 = 0 then jobRdWrite ((o - 0x1000) / 16) (bits v 63 32) s else s)
  else if 0x10000 ≤ o ∧ o < 0x12000 then msixWrite ((o - 0x10000) / 16) (o / 8 % 2) w s
  else s

/-! DMA, POOL and SYNC. -/

/-- The DMA block. -/
def writeDma (o v : Nat) (s : State) : State :=
  if o < 0x1000 then
    match o % 64 / 8 with
    | 0 => dmaRing (o / 64) v s
    | 1 => dmaBell (o / 64) v s
    | 3 => dmaCctl (o / 64) v s
    | _ => s
  else if o = 0x1000 ∧ bitOf (freshKeep s 0x201000 v) 0 then { s with dma := { s.dma with buserr := false } }
  else s

/-- A write of POOL_QUOTA; the ids 0x900, 0x901 and 0x910 are read-only. -/
def quotaWrite (r v : Nat) (s : State) : State :=
  if requester r && decide (r < 0x900) then
    { s with pool := { s.pool with limit := tset 0 s.pool.limit r (v % 2 ^ 32 + 1) } }
  else s

/-- The POOL block. -/
def writePool (o v : Nat) (s : State) : State :=
  if o < 0x70 then carveWrite (o / 8) v s
  else if o = 0x300 then poolFreeWrite v s
  else if o = 0x308 then { s with pool := { s.pool with stat := w1c 3 s.pool.stat (freshKeep s 0x300308 v) } }
  else if 0x10000 ≤ o then quotaWrite ((o - 0x10000) / 8) v s
  else s

/-- The SYNC block. -/
def writeSync (o v : Nat) (s : State) : State :=
  if o < 0x80000 then
    match o % 64 / 8 with
    | 0 => syncCfgWrite (o / 64) v s
    | 1 => syncCountWrite (o / 64) 1 v s
    | 2 => syncCountWrite (o / 64) 2 v s
    | 3 => syncCountWrite (o / 64) 3 v s
    | 6 => (signalLocal (o / 64) (bits v 15 0) agentPost 0 s).1
    | 7 => syncStatWrite (o / 64) v s
    | _ => s
  else if o < 0x88000 then blMaskWrite ((o - 0x80000) / 512) (o % 512 / 8) v s
  else s

/-! SWC, RTE, SHP and LNK. -/

/-- The registers of a mirror session. -/
def mirWrite (i r : Nat) (w : Word) (s : State) : State :=
  let v := w.toNat
  match r with
  | 0 => mirCfgWrite i v s
  | 1 => modMirror i (fun m => { m with src := w &&& 0x003FFFFF003FFFFF }) s
  | 2 => modMirror i (fun m => { m with dst := w &&& 0x003FFFFF003FFFFF }) s
  | 3 => modMirror i (fun m => { m with key := v % 2 ^ 31 }) s
  | 4 => modMirror i (fun m => { m with keym := v % 2 ^ 31 }) s
  | 5 => modMirror i (fun m => { m with n := v % 2 ^ 24 }) s
  | _ => s

/-- The SWC block. -/
def writeSwc (o : Nat) (w : Word) (s : State) : State :=
  let v := w.toNat
  if o = 0x40 then modSwc (fun c => { c with stat := w1c 8 c.stat (freshKeep s 0x800040 (if c.ceAt = some (croak s) then v % 128 else v)) }) s
  else if o = 0x48 then
    let s1 := if bitOf v 0 then clearHigh s else s
    if bitOf v 1 then clearCounters s1 else s1
  else if o = 0x50 then modSwc (fun c => { c with stallTmo := v % 1024 }) s
  else if 0x30000 ≤ o ∧ o < 0x30800 then mirWrite ((o - 0x30000) / 128) (o % 128 / 8) w s
  else s

/-- The RTE block. -/
def writeRte (o v : Nat) (s : State) : State :=
  if o = 0x3018 then modRte (fun r => { r with err := w1c 14 r.err (freshKeep s 0xC03018 v) }) s
  else if 0x10000 ≤ o ∧ o < 0x18000 then bankWrite ((o - 0x10000) / 8) v s
  else s

/-- The registers of a policer. -/
def policerWrite (k r v : Nat) (s : State) : State :=
  match r with
  | 0 => pcfgWrite k v s
  | 1 => pcWrite k v s
  | 2 => peWrite k v s
  | _ => s

/-- The SHP block. -/
def writeShp (o v : Nat) (s : State) : State :=
  if o = 0 then { s with shp := { s.shp with stat := w1c 3 s.shp.stat (freshKeep s 0x1000000 v) } }
  else match nodeAt o with
    | some n =>
      if nodeReg n o = 0 then nodeWrite n v s
      else if nodeReg n o = 4 ∧ 0x4000 ≤ n then skeyWrite (n - 0x4000) v s
      else s
    | none => if 0x200000 ≤ o ∧ o < 0x208000 then policerWrite ((o - 0x200000) / 64) (o % 64 / 8) v s else s

/-- A quad's registers. -/
def lnkWrite (q o v : Nat) (s : State) : State :=
  if o = 0 then qctlWrite q v s
  else if o = 0x10 then slipWrite q v s
  else if o = 0x18 then modQuad q (fun x => { x with err := w1c 8 x.err (freshKeep s (0x1400018 + 4096 * q) v) }) s
  else if 0x60 ≤ o ∧ o < 0x80 then rqWrite q ((o - 0x60) / 8) v s
  else s

/-! NWT, SCH, LOG and RAS. -/

/-- The NWT block: writing 1 to ERR clears ERR, CODE, EPC and MORE. -/
def writeNwt (o v : Nat) (s : State) : State :=
  if o < 0x20000 ∧ o % 64 = 8 ∧ bitOf v 32 then
    modNewt (o / 64) (errClear (croak s)) s
  else s

/-- A write of SCH_STAT at croak count `now`; a bit set in the same cycle stays set (R11). -/
def schStatWrite (now v : Nat) (u : Sch) : Sch :=
  let kept (b : Nat) (t : Option Nat) : Bool := !bitOf v b || t == some now
  { u with
    called := u.called && kept 0 u.calledAt, extended := u.extended && kept 1 u.extendedAt
    thinned := u.thinned && kept 2 u.thinnedAt
    drift := u.drift && !bitOf v 3, masterLostBit := u.masterLostBit && !bitOf v 4, lineFault := u.lineFault && !bitOf v 5
    pipeFault := u.pipeFault && !bitOf v 6 }

/-- The SCH block. -/
def writeSch (o v : Nat) (s : State) : State := if o = 0x28 then { s with sch := schStatWrite (croak s) (freshKeep s 0x1C00028 v) s.sch } else s

/-- The LOG block: trace masks of ids below 896. -/
def writeLog (o : Nat) (w : Word) (s : State) : State :=
  if 0x400100 ≤ o ∧ o < 0x400170 then { s with log := { s.log with trmask := tset 0 s.log.trmask ((o - 0x400100) / 8) w } } else s

/-- RAS_INJECT (R487): an injected occurrence sets no sticky bit and stops no unit. -/
def rasInject (v : Nat) (s : State) : State :=
  let code := bits v 15 0
  let kind := bits v 36 32
  if !bitOf v 40 then s
  else if !definedCode code || decide (19 ≤ kind) || s.hif.state != .owned then badAccess s
  else rasRecord { code := code, kind := kind, unit := bits v 31 16, inj := true } s

/-- Clear the records that a write of RAS_SETw names. -/
def rasSetWrite (w v : Nat) (s : State) : State := (bitList 64 v).foldl (fun t b => rasClear (64 * w + b) t) s

/-- A write of RAS_EVENw. -/
def evenWrite (w v : Nat) (s : State) : State :=
  ((List.range 64).filter (fun b => definedCode (64 * w + b))).foldl (fun t b =>
    { t with ras := { t.ras with evenOff := tset false t.ras.evenOff (64 * w + b) (!bitOf v b) } }) s

/-- A write of RAS_IRQENw. -/
def irqenWrite (w v : Nat) (s : State) : State :=
  ((List.range 64).filter (fun b => definedCode (64 * w + b))).foldl (fun t b =>
    { t with ras := { t.ras with
        irqenFlip := tset false t.ras.irqenFlip (64 * w + b) (xor (irqResetCodes.contains (64 * w + b)) (bitOf v b)) } }) s

/-- The RAS block. -/
def writeRas (o v : Nat) (s : State) : State :=
  if o = 0x10 then rasInject v s
  else if 0x1000 ≤ o ∧ o < 0x1200 then rasSetWrite ((o - 0x1000) / 8) v s
  else if 0x2000 ≤ o ∧ o < 0x2200 then evenWrite ((o - 0x2000) / 8) v s
  else if 0x3000 ≤ o ∧ o < 0x3200 then irqenWrite ((o - 0x3000) / 8) v s
  else if 0x100000 ≤ o ∧ o < 0x140000 then (if o % 64 = 0 ∧ bitOf v 0 then rasClear ((o - 0x100000) / 64) s else s)
  else s

/-! BAR0. -/

/-- A naturally aligned 64-bit write. -/
def regStore (o : Nat) (w : Word) (s : State) : State :=
  let v := w.toNat
  if o < 0x100000 then writeGlb o w s
  else if o < 0x200000 then writeHif (o - 0x100000) w s
  else if o < 0x300000 then writeDma (o - 0x200000) v s
  else if o < 0x400000 then writePool (o - 0x300000) v s
  else if o < 0x800000 then writeSync (o - 0x400000) v s
  else if o < 0xC00000 then writeSwc (o - 0x800000) w s
  else if o < 0x1000000 then writeRte (o - 0xC00000) v s
  else if o < 0x1400000 then writeShp (o - 0x1000000) v s
  else if o < 0x1800000 then (if o < 0x1480000 then lnkWrite ((o - 0x1400000) / 4096) (o % 4096) v s else s)
  else if o < 0x1C00000 then writeNwt (o - 0x1800000) v s
  else if o < 0x2000000 then writeSch (o - 0x1C00000) v s
  else if o < 0x3000000 then writeLog (o - 0x2000000) w s
  else if o < 0x3F00000 then writeRas (o - 0x3000000) v s
  else if o < 0x3F10000 then
    (if (cxlFixed (o - 0x3F00000)).isSome then s
     else modHif (fun h => { h with cxlRegs := tset 0 h.cxlRegs ((o - 0x3F00000) / 8) w }) s)
  else s

/-- The ranges that take 32-bit writes: MSI-X table and pending bits, and the CXL component registers. -/
def halfWritable (o : Nat) : Bool := decide ((0x110000 ≤ o ∧ o < 0x112040) ∨ (0x3F00000 ≤ o ∧ o < 0x3F10000))

/-- The word at `o / 8 * 8` with the addressed half replaced. -/
def halfMerge (s : State) (o : Nat) (w : Word) : Word :=
  let old := regRead s (o / 8 * 8)
  let v := w.toNat % 2 ^ 32
  BitVec.ofNat 64 (if o % 8 = 0 then 2 ^ 32 * (old / 2 ^ 32) + v else 2 ^ 32 * v + old % 2 ^ 32)

/-- A write of `width` bytes (R8). Offsets from 64 MiB on lie outside BAR0. -/
def regWrite (o : Nat) (w : Word) (width : Nat) (s : State) : State :=
  if 0x4000000 ≤ o then s
  else if width = 8 ∧ o % 8 = 0 then regStore o w s
  else if width = 4 ∧ o % 4 = 0 ∧ halfWritable o then regStore (o / 8 * 8) (halfMerge s o w) s
  else badAccess s

/-! Meanings. -/

/-- REGISTER_WRITE. -/
def execRegisterWrite (off : Nat) (value : Word) (width : Nat) (s : State) : Res := whenUp (regWrite off value width) s
/-- MONITOR_KEY_WRITE. -/
def execMonitorKeyWrite (i : Fin 4) (value : Word) (s : State) : Res := whenUp (monKeyWrite i.val value) s
/-- MONITOR_LOCK_WRITE. -/
def execMonitorLockWrite (value : Word) (s : State) : Res := whenUp (monCtlWrite value.toNat) s
/-- RAS_INJECT. -/
def execRasInject (value : Word) (s : State) : Res := whenUp (rasInject value.toNat) s
/-- RAS_RECORD_CLEAR. -/
def execRasRecordClear (code : Fin 4096) (s : State) : Res := whenUp (rasClear code.val) s

end Sys2Proof.Machine
end

