-- ==== Sys2Proof/Machine/SyncCmds.lean ====
section
/-! DEFINITION. The commands of the sync-object unit (05_synchronisation.md). -/

namespace Sys2Proof.Machine

/-- SYNC_CREATE (R159). -/
def execSyncCreate (o : Fin 8192) (value : Word) (s : State) : Res :=
  whenUp (fun s => if bits value.toNat 1 0 = 0 then s else syncCfgWrite o.val value.toNat s) s

/-- SYNC_DESTROY (R160). -/
def execSyncDestroy (o : Fin 8192) (value : Word) (s : State) : Res :=
  whenUp (fun s => if bits value.toNat 1 0 = 0 then syncCfgWrite o.val value.toNat s else s) s

/-- SYNC_POST (Table 5-14): D is bits [15:0]; D of 0 is an invalid operation (R157). -/
def execSyncPost (o : Fin 8192) (value : Word) (s : State) : Res :=
  whenUp (fun s => (signalLocal o.val (bits value.toNat 15 0) agentPost 0 s).1) s

/-- SYNC_TAGGED_WRITE (R178, R180): the cell is written, and counted when it comes from the declared source. -/
def taggedWrite (q o src addr : Nat) (data : List Byte) (s : State) : State :=
  let s1 := lovStore addr data s
  let v := obj s1 o
  if v.kind = 1 && v.counted && bits src 22 0 == bits v.peer 22 0 then
    setObj o { v with cnt := (v.cnt + 1) % 2 ^ 32 } s1
  else syncErr o 0x0404 (agentRemote q) 0 0 src s1

/-- SYNC_TAGGED_WRITE. -/
def execSyncTaggedWrite (q : Fin 128) (o : Fin 8192) (src addr : Nat) (data : List Byte) (s : State) : Res :=
  whenUp (taggedWrite q.val o.val src addr data) s

/-- A held signal of a local agent has been rejected: a newt stops (R166), and so does a DMA channel (R408). -/
def heldRejected (h : HeldSig) (code : Nat) (s : State) : State :=
  if h.agent < 0x2000 then newtError h.agent code h.pc 0 false s
  else if h.agent < 0x4000 then chanStop (h.agent % 64) code s else s

/-- The head of an object's hold queue is applied once its cells have landed (R178). -/
def heldNext (o : Nat) (s : State) : State :=
  match (obj s o).holdq with
  | [] => s
  | h :: _ =>
    if heldReady (obj s o) then
      match heldApply o s with
      | (t, none) => t
      | (t, some code) => heldRejected h code t
    else s

/-- HELD_SIGNAL_APPLY. -/
def execHeldSignalApply (o : Fin 8192) (s : State) : Res := whenUp (heldNext o.val) s

end Sys2Proof.Machine
end

