-- ==== Sys2Proof/Machine/Uart.lean ====
section
/-! DEFINITION. The UART monitor (R470, R471, Tables 14-15 and 15-7). A reply is put out line by line, each ending with
CR LF: lines of values, whose format the spec does not lay out, and the last line, OK or ERR with the code; then the prompt. -/

namespace Sys2Proof.Machine

/-- A hexadecimal digit. -/
def hexDigit (n : Nat) : Char := if n < 10 then Char.ofNat (48 + n) else Char.ofNat (55 + n)

/-- The hexadecimal digits of a value, `n` of them. -/
def hexDigits (n v : Nat) : String := String.ofList ((List.range n).map (fun i => hexDigit (v / 16 ^ (n - 1 - i) % 16)))

/-- Four hexadecimal digits. -/
def hex4 (n : Nat) : String := hexDigits 4 n

/-- A line of a reply. -/
def monLine (text : String) (s : State) : State := emit (.uart (text ++ "\r\n")) s
/-- The last line of a reply, and the prompt for the next command. -/
def monLast (text : String) (s : State) : State := emit (.uart "> ") (monLine text s)

/-- A reply that ends with OK. -/
def monOk (s : State) : State := monLast "OK" s
/-- The lines of values: 16 hexadecimal digits each (DESIGN CHOICE, log 99). -/
def valLines (vs : List Nat) : List Out := vs.map (fun v => .uart (hexDigits 16 v ++ "\r\n"))
/-- A reply of values. -/
def monVals (vs : List Nat) (s : State) : State := monOk ((valLines vs).foldl (fun t o => emit o t) s)
/-- A reply that ends with ERR. -/
def monErrLine (code : Nat) (s : State) : State := monLast ("ERR " ++ hex4 code) s
/-- A command fails with `code`, which is recorded against core 7. -/
def monErr (code : Nat) (s : State) : State :=
  monErrLine code (raise { code := code, kind := if code / 256 = 12 then 10 else 0, unit := if code / 256 = 12 then 7 else 0 } s)

/-- A malformed line, and a number out of its range. -/
def monSyntax (s : State) : State := monErr 0x0C15 s

/-- The monitor serves while its core runs. -/
def mon (f : State → State) (s : State) : Res := whenUp (fun s => if fwRuns s then f s else s) s

/-- A command that needs unlock. -/
def needUnlock (f : State → State) (s : State) : State := if s.mon.unlocked then f s else monErr 0x0C13 s

/-- HELP. -/
def monHelp (s : State) : State :=
  monOk (["HELP", "VER", "STAT", "MAP w", "PEEK o [n]", "LOG [n]", "EYE q l", "BAUD r", "CHAL", "UNLOCK t", "LOCK", "POKE o v",
    "MPEEK a [n]"].foldl (fun t l => monLine l t) s)

/-- VER: part, stepping, serial, firmware version, slot, recovery flag. -/
def monVer (s : State) : State :=
  monVals [0x4830, 0xA1, Config.serial.toNat, s.fw.ver.toNat, s.fw.slot, bnat s.fw.recovery] s

/-- STAT: HIF_STATE, GLB_LAYSTAT, SCH_ALIGN, SCH_JOB, GLB_FWSTAT. -/
def monStat (s : State) : State := monVals ([0x100000, 0x200, 0x1C00008, 0x1C00010, 0x308].map (regRead s)) s

/-- MAP. -/
def monMap (w : Nat) (s : State) : State := if w < 72 then monVals [(mapWord s w).toNat, unitSum s] s else monSyntax s

/-- PEEK. -/
def monPeek (o n : Nat) (s : State) : State :=
  if 1 ≤ n ∧ n ≤ 16 then monVals ((List.range n).map (fun i => regRead s (o + 8 * i))) s else monSyntax s

/-- LOG: the last `n` entries, their bytes in order. -/
def monLog (n : Nat) (s : State) : State :=
  if 1 ≤ n ∧ n ≤ 64 then
    let k := min n s.log.head
    monVals ((logBytes s (s.log.head - k) k).map (·.toNat)) s
  else monSyntax s

/-- EYE: 64 by 32 error counts with width and height, which the line decides (log 2). -/
def monEye (q lane : Nat) (s : State) : State :=
  if 128 ≤ q ∨ 4 ≤ lane then monSyntax s
  else if !(quad s q).maint then monErr 0x0111 s
  else monVals ((List.range 2050).map (fun i => (Config.freeWord (s.free + i)).toNat)) { s with free := s.free + 2050 }

/-- BAUD. -/
def monBaud (r : Nat) (s : State) : State :=
  if r = 115200 ∨ r = 921600 then modMon (fun m => { m with fast := r == 921600 }) (monOk s) else monSyntax s

/-- CHAL: a new challenge, whose value the spec leaves open (log 2). -/
def monChal (s : State) : State :=
  monVals [(freeW s).toNat] (modMon (fun m => { m with challenge := some (freeW s) }) (drawn s))

/-- The token of a challenge: the first 60 bits in groups of five, the first bit of a byte its highest. -/
def tokenOf (key : List Word) (c : Word) : List Nat :=
  let d := shake256 (key.flatMap wordBytes ++ wordBytes c ++ wordBytes Config.serial) 8
  let bs := d.flatMap byteBitsMsb
  (List.range 12).map (fun k => (List.range 5).foldl (fun a i => 2 * a + bnat (bs.getD (5 * k + i) false)) 0)

/-- A wrong token: the third locks UNLOCK out. -/
def tokenWrong (s : State) : State :=
  monErr 0x0C14 (modMon (fun m => { m with
    challenge := none, tokfail := satAdd 255 m.tokfail 1, wrongRun := (m.wrongRun + 1) % 3
    lockout := m.wrongRun == 2 }) s)

/-- UNLOCK. A token given without a challenge is wrong. -/
def monUnlock (t : List Nat) (s : State) : State :=
  if t.length ≠ 12 || t.any (fun d => decide (32 ≤ d)) then monSyntax s
  else if !s.mon.keyset || s.mon.lockout then monErr 0x0C13 s
  else if s.mon.challenge.any (fun c => tokenOf s.mon.key c == t) then
    monOk (modMon (fun m => { m with challenge := none, unlocked := true, wrongRun := 0 }) s)
  else tokenWrong s

/-- LOCK. -/
def monLock (s : State) : State := monOk (modMon (fun m => { m with unlocked := false }) s)

/-- The error that a register write raised: the code whose record counted one more. A write of RAS_INJECT is answered by its
refusal alone. -/
def writeError (o : Nat) (s t : State) : Option Nat :=
  ((t.ras.recs.filter (fun e => decide ((rasRec s e.1).count < e.2.count) && (o != 0x3000010 || e.1 == 0x0101))).head?).map (·.1)

/-- POKE: a register write, logged either way. -/
def monPoke (o : Nat) (v : Word) : State → State :=
  needUnlock (fun s =>
    let t := regWrite o v 8 s
    let t1 := logOpen 4 12 t
    match writeError o s t with
    | none => monOk t1
    | some c => monErrLine c t1)

/-- Whether an address lies in a system region that holds the chip's own tables, whose layout the spec does not give: the flow table, the pool
state and the firmware's working memory (Table 12-1). -/
def lovOwn (a : Nat) : Bool :=
  decide (0x0182000000 ≤ a ∧ a < 0x0183000000) || decide (0x0184000000 ≤ a ∧ a < 0x0200000000) ||
    decide (0x2000000000 ≤ a ∧ a < 0x2100000000) || decide (0x2184000000 ≤ a ∧ a < 0x2200000000)

/-- MPEEK: reads of Lovor memory. A poisoned block fails the command. What the chip's own tables read as is free (DESIGN CHOICE, log
164). -/
def monMpeek (a n : Nat) : State → State :=
  needUnlock (fun s =>
    if n = 0 ∨ 16 < n ∨ 2 ^ 38 < a + 8 * n then monSyntax s
    else
      let t := logOpen 4 13 s
      match poisonAt s a (8 * n) with
      | some p => monErrLine 0x0D01 (stkUe p t)
      | none => monVals ((List.range n).map (fun i =>
          if lovOwn (a + 8 * i) then (Config.freeWord (t.free + i)).toNat else leNat (lovRead s (a + 8 * i) 8)))
            { t with free := t.free + n })

/-! Meanings. -/

/-- HELP. -/
def execHelp (s : State) : Res := mon monHelp s
/-- VER. -/
def execVer (s : State) : Res := mon monVer s
/-- STAT. -/
def execStat (s : State) : Res := mon monStat s
/-- MAP. -/
def execMap (w : Nat) (s : State) : Res := mon (monMap w) s
/-- PEEK. -/
def execPeek (off n : Nat) (s : State) : Res := mon (monPeek off n) s
/-- LOG. -/
def execLog (n : Nat) (s : State) : Res := mon (monLog n) s
/-- EYE. -/
def execEye (q : Nat) (lane : Nat) (s : State) : Res := mon (monEye q lane) s
/-- BAUD. -/
def execBaud (rate : Nat) (s : State) : Res := mon (monBaud rate) s
/-- CHAL. -/
def execChal (s : State) : Res := mon monChal s
/-- UNLOCK. -/
def execUnlock (token : List Nat) (s : State) : Res := mon (monUnlock token) s
/-- LOCK. -/
def execLock (s : State) : Res := mon monLock s
/-- POKE. -/
def execPoke (off : Nat) (value : Word) (s : State) : Res := mon (monPoke off value) s
/-- MPEEK. -/
def execMpeek (addr n : Nat) (s : State) : Res := mon (monMpeek addr n) s
/-- FW_MON_SYNTAX. -/
def execFwMonSyntax (s : State) : Res := mon monSyntax s
/-- MONITOR_IDLE_LOCK. -/
def execMonitorIdleLock (s : State) : Res := mon (modMon (fun m => { m with unlocked := false })) s
/-- UNLOCK_LOCKOUT_END. -/
def execUnlockLockoutEnd (s : State) : Res := mon (modMon (fun m => { m with lockout := false })) s

end Sys2Proof.Machine
end

