-- ==== Sys2Proof/Machine/Dispatch.lean ====
section
/-! DEFINITION. exec: one arm per command of spec/opcode_table.json, in the table's order. -/

namespace Sys2Proof.Machine

/-- The effect of one command on everything but the queue. -/
def exec (i : Instr) (s : State) : Host.Outcome State Fault Refusal :=
  match i with
  | .powerGood recov test => Sys2Proof.Machine.execPowerGood recov test s
  | .boot excl => Sys2Proof.Machine.execBoot excl s
  | .pwrgoodFall => Sys2Proof.Machine.execPwrgoodFall s
  | .conventionalReset => Sys2Proof.Machine.execConventionalReset s
  | .functionLevelReset => Sys2Proof.Machine.execFunctionLevelReset s
  | .railFault rail mv => Sys2Proof.Machine.execRailFault rail mv s
  | .referenceFault khz => Sys2Proof.Machine.execReferenceFault khz s
  | .sensorReading raw => Sys2Proof.Machine.execSensorReading raw s
  | .powerReading rails avg10ms avg1ms avg100us => Sys2Proof.Machine.execPowerReading rails avg10ms avg1ms avg100us s
  | .emergencyClear => Sys2Proof.Machine.execEmergencyClear s
  | .wantFallIdle => Sys2Proof.Machine.execWantFallIdle s
  | .stackCoolReturn st => Sys2Proof.Machine.execStackCoolReturn st s
  | .jtagInstruction i0 => Sys2Proof.Machine.execJtagInstruction i0 s
  | .cxlLinkDown => Sys2Proof.Machine.execCxlLinkDown s
  | .cxlRefclkLoss => Sys2Proof.Machine.execCxlRefclkLoss s
  | .hdmRead off => Sys2Proof.Machine.execHdmRead off s
  | .hdmWrite off data poison => Sys2Proof.Machine.execHdmWrite off data poison s
  | .registerWrite off value width => Sys2Proof.Machine.execRegisterWrite off value width s
  | .mailboxSlotWrite off value width => Sys2Proof.Machine.execMailboxSlotWrite off value width s
  | .mailboxPost slot word => Sys2Proof.Machine.execMailboxPost slot word s
  | .mailboxScan => Sys2Proof.Machine.execMailboxScan s
  | .commandTimeout slot => Sys2Proof.Machine.execCommandTimeout slot s
  | .identify slot => Sys2Proof.Machine.execIdentify slot s
  | .loadLayout slot => Sys2Proof.Machine.execLoadLayout slot s
  | .activateLayout act => Sys2Proof.Machine.execActivateLayout act s
  | .jobOpen slot => Sys2Proof.Machine.execJobOpen slot s
  | .jobLaunch slot => Sys2Proof.Machine.execJobLaunch slot s
  | .jobAbort slot => Sys2Proof.Machine.execJobAbort slot s
  | .jobCheckpoint slot => Sys2Proof.Machine.execJobCheckpoint slot s
  | .jobResume slot => Sys2Proof.Machine.execJobResume slot s
  | .collPost slot => Sys2Proof.Machine.execCollPost slot s
  | .drain slot => Sys2Proof.Machine.execDrain slot s
  | .tableSwap slot => Sys2Proof.Machine.execTableSwap slot s
  | .fwStage slot => Sys2Proof.Machine.execFwStage slot s
  | .fwMolt slot => Sys2Proof.Machine.execFwMolt slot s
  | .selftest slot => Sys2Proof.Machine.execSelftest slot s
  | .selftestDone slot failed => Sys2Proof.Machine.execSelftestDone slot failed s
  | .calRead slot => Sys2Proof.Machine.execCalRead slot s
  | .calWrite slot => Sys2Proof.Machine.execCalWrite slot s
  | .runRecord slot => Sys2Proof.Machine.execRunRecord slot s
  | .adopt slot hostOk => Sys2Proof.Machine.execAdopt slot hostOk s
  | .logSnapshot slot => Sys2Proof.Machine.execLogSnapshot slot s
  | .heartbeatWrite value => Sys2Proof.Machine.execHeartbeatWrite value s
  | .heartbeatLoss => Sys2Proof.Machine.execHeartbeatLoss s
  | .hdmSizeWrite value => Sys2Proof.Machine.execHdmSizeWrite value s
  | .eventRingWrite value => Sys2Proof.Machine.execEventRingWrite value s
  | .eventWrite => Sys2Proof.Machine.execEventWrite s
  | .completionRecordWrite job => Sys2Proof.Machine.execCompletionRecordWrite job s
  | .ringReadAdvance job rd => Sys2Proof.Machine.execRingReadAdvance job rd s
  | .attestGo => Sys2Proof.Machine.execAttestGo s
  | .attestDone hostOk => Sys2Proof.Machine.execAttestDone hostOk s
  | .progCustkey confirm => Sys2Proof.Machine.execProgCustkey confirm s
  | .setSigreq confirm => Sys2Proof.Machine.execSetSigreq confirm s
  | .raiseSvn confirm => Sys2Proof.Machine.execRaiseSvn confirm s
  | .monitorKeyWrite i0 value => Sys2Proof.Machine.execMonitorKeyWrite i0 value s
  | .monitorLockWrite value => Sys2Proof.Machine.execMonitorLockWrite value s
  | .rasInject value => Sys2Proof.Machine.execRasInject value s
  | .rasRecordClear code => Sys2Proof.Machine.execRasRecordClear code s
  | .logEntryWrite entry => Sys2Proof.Machine.execLogEntryWrite entry s
  | .poolFree value => Sys2Proof.Machine.execPoolFree value s
  | .poolCarve die pool value => Sys2Proof.Machine.execPoolCarve die pool value s
  | .dmaRingWrite ch value => Sys2Proof.Machine.execDmaRingWrite ch value s
  | .dmaDoorbell ch value => Sys2Proof.Machine.execDmaDoorbell ch value s
  | .resume ch => Sys2Proof.Machine.execResume ch s
  | .abandon ch => Sys2Proof.Machine.execAbandon ch s
  | .dmaNop ch desc => Sys2Proof.Machine.execDmaNop ch desc s
  | .dmaH2d ch desc data => Sys2Proof.Machine.execDmaH2d ch desc data s
  | .dmaD2h ch desc => Sys2Proof.Machine.execDmaD2h ch desc s
  | .dmaFill ch desc => Sys2Proof.Machine.execDmaFill ch desc s
  | .dmaWait ch desc => Sys2Proof.Machine.execDmaWait ch desc s
  | .dmaSig ch desc => Sys2Proof.Machine.execDmaSig ch desc s
  | .dmaBarr ch desc => Sys2Proof.Machine.execDmaBarr ch desc s
  | .dmaCompletion ch => Sys2Proof.Machine.execDmaCompletion ch s
  | .dmaBusError haddr => Sys2Proof.Machine.execDmaBusError haddr s
  | .syncCreate obj value => Sys2Proof.Machine.execSyncCreate obj value s
  | .syncDestroy obj value => Sys2Proof.Machine.execSyncDestroy obj value s
  | .syncPost obj value => Sys2Proof.Machine.execSyncPost obj value s
  | .syncWaitTimeout obj agent => Sys2Proof.Machine.execSyncWaitTimeout obj agent s
  | .syncTaggedWrite quad obj src addr data => Sys2Proof.Machine.execSyncTaggedWrite quad obj src addr data s
  | .heldSignalApply obj => Sys2Proof.Machine.execHeldSignalApply obj s
  | .nop n => Sys2Proof.Machine.execNop n s
  | .endProgram n => Sys2Proof.Machine.execEndProgram n s
  | .loop n => Sys2Proof.Machine.execLoop n s
  | .wland n => Sys2Proof.Machine.execWland n s
  | .wso n => Sys2Proof.Machine.execWso n s
  | .sig n => Sys2Proof.Machine.execSig n s
  | .barr n => Sys2Proof.Machine.execBarr n s
  | .cmt n => Sys2Proof.Machine.execCmt n s
  | .tbnd n => Sys2Proof.Machine.execTbnd n s
  | .send n => Sys2Proof.Machine.execSend n s
  | .copy n => Sys2Proof.Machine.execCopy n s
  | .red n => Sys2Proof.Machine.execRed n s
  | .ctr n => Sys2Proof.Machine.execCtr n s
  | .epi n => Sys2Proof.Machine.execEpi n s
  | .wclr n => Sys2Proof.Machine.execWclr n s
  | .wsv n => Sys2Proof.Machine.execWsv n s
  | .wld n => Sys2Proof.Machine.execWld n s
  | .newtInstructionComplete n pc => Sys2Proof.Machine.execNewtInstructionComplete n pc s
  | .cellLanding n cell => Sys2Proof.Machine.execCellLanding n cell s
  | .escapeRecordLand n rec => Sys2Proof.Machine.execEscapeRecordLand n rec s
  | .asbPacketMerge n cell => Sys2Proof.Machine.execAsbPacketMerge n cell s
  | .wlandTimeout n => Sys2Proof.Machine.execWlandTimeout n s
  | .newtPause n => Sys2Proof.Machine.execNewtPause n s
  | .newtAbort n coll => Sys2Proof.Machine.execNewtAbort n coll s
  | .abortRequest coll cause place => Sys2Proof.Machine.execAbortRequest coll cause place s
  | .collTimeout coll => Sys2Proof.Machine.execCollTimeout coll s
  | .noticeReceive coll status cause place asb => Sys2Proof.Machine.execNoticeReceive coll status cause place asb s
  | .outcomeDecided coll => Sys2Proof.Machine.execOutcomeDecided coll s
  | .deliveredSend coll port => Sys2Proof.Machine.execDeliveredSend coll port s
  | .postedCollectiveStart coll work => Sys2Proof.Machine.execPostedCollectiveStart coll work s
  | .padBoundary => Sys2Proof.Machine.execPadBoundary s
  | .launchCountReached job => Sys2Proof.Machine.execLaunchCountReached job s
  | .freezeBegin => Sys2Proof.Machine.execFreezeBegin s
  | .extensionCall => Sys2Proof.Machine.execExtensionCall s
  | .freezeEnd => Sys2Proof.Machine.execFreezeEnd s
  | .densitySample => Sys2Proof.Machine.execDensitySample s
  | .epochBoundary => Sys2Proof.Machine.execEpochBoundary s
  | .pauseRequest => Sys2Proof.Machine.execPauseRequest s
  | .checkpointWrite slot => Sys2Proof.Machine.execCheckpointWrite slot s
  | .jobDone job => Sys2Proof.Machine.execJobDone job s
  | .masterHeartbeat => Sys2Proof.Machine.execMasterHeartbeat s
  | .schMasterLost => Sys2Proof.Machine.execSchMasterLost s
  | .alignmentCorrection xLinks yLinks zLinks => Sys2Proof.Machine.execAlignmentCorrection xLinks yLinks zLinks s
  | .electionOpen cause => Sys2Proof.Machine.execElectionOpen cause s
  | .bidReceive bid => Sys2Proof.Machine.execBidReceive bid s
  | .electionDecide => Sys2Proof.Machine.execElectionDecide s
  | .electionRetry => Sys2Proof.Machine.execElectionRetry s
  | .padFrameSend q => Sys2Proof.Machine.execPadFrameSend q s
  | .padFrameReceive q frame => Sys2Proof.Machine.execPadFrameReceive q frame s
  | .linkRetryFail q => Sys2Proof.Machine.execLinkRetryFail q s
  | .trainingStart q => Sys2Proof.Machine.execTrainingStart q s
  | .trainingStepEnd q => Sys2Proof.Machine.execTrainingStepEnd q s
  | .lnkTrainFail q => Sys2Proof.Machine.execLnkTrainFail q s
  | .trainingRestart q => Sys2Proof.Machine.execTrainingRestart q s
  | .lnkRqWrite q lane value => Sys2Proof.Machine.execLnkRqWrite q lane value s
  | .lnkSlip q value => Sys2Proof.Machine.execLnkSlip q value s
  | .maint q value => Sys2Proof.Machine.execMaint q value s
  | .retrain q value => Sys2Proof.Machine.execRetrain q value s
  | .quadLinkFailure q => Sys2Proof.Machine.execQuadLinkFailure q s
  | .identity q rec => Sys2Proof.Machine.execIdentity q rec s
  | .identityRepeat q => Sys2Proof.Machine.execIdentityRepeat q s
  | .chipLost chip => Sys2Proof.Machine.execChipLost chip s
  | .chipLostNotice chip => Sys2Proof.Machine.execChipLostNotice chip s
  | .depart addr => Sys2Proof.Machine.execDepart addr s
  | .faultReroute lostLinks lostChips => Sys2Proof.Machine.execFaultReroute lostLinks lostChips s
  | .packetArrival q p => Sys2Proof.Machine.execPacketArrival q p s
  | .packetAdmit src stream => Sys2Proof.Machine.execPacketAdmit src stream s
  | .resequence p => Sys2Proof.Machine.execResequence p s
  | .flowAck ack => Sys2Proof.Machine.execFlowAck ack s
  | .resendTimeout src dst cls chan sunit dunit => Sys2Proof.Machine.execResendTimeout src dst cls chan sunit dunit s
  | .packetForwardStart q stream => Sys2Proof.Machine.execPacketForwardStart q stream s
  | .stomp port cls vc cause => Sys2Proof.Machine.execStomp port cls vc cause s
  | .overflowMoveBack port cls vc => Sys2Proof.Machine.execOverflowMoveBack port cls vc s
  | .rspReservationTimeout port => Sys2Proof.Machine.execRspReservationTimeout port s
  | .swcStall port cls vc => Sys2Proof.Machine.execSwcStall port cls vc s
  | .mirrorEnable session value => Sys2Proof.Machine.execMirrorEnable session value s
  | .clearHigh => Sys2Proof.Machine.execClearHigh s
  | .clearCounters => Sys2Proof.Machine.execClearCounters s
  | .bankwinWrite w value => Sys2Proof.Machine.execBankwinWrite w value s
  | .drainReport => Sys2Proof.Machine.execDrainReport s
  | .drainReportReceive rep => Sys2Proof.Machine.execDrainReportReceive rep s
  | .drained => Sys2Proof.Machine.execDrained s
  | .released => Sys2Proof.Machine.execReleased s
  | .rteDrainTimeout => Sys2Proof.Machine.execRteDrainTimeout s
  | .tokenRefill => Sys2Proof.Machine.execTokenRefill s
  | .nodeConfigWrite node value => Sys2Proof.Machine.execNodeConfigWrite node value s
  | .policerConfigWrite k value => Sys2Proof.Machine.execPolicerConfigWrite k value s
  | .subscriberKeyWrite n value => Sys2Proof.Machine.execSubscriberKeyWrite n value s
  | .adaptiveShaping => Sys2Proof.Machine.execAdaptiveShaping s
  | .densityPoll => Sys2Proof.Machine.execDensityPoll s
  | .powerTrace => Sys2Proof.Machine.execPowerTrace s
  | .refreshInstant st pch => Sys2Proof.Machine.execRefreshInstant st pch s
  | .stackPlanChange => Sys2Proof.Machine.execStackPlanChange s
  | .patrolScrub block result => Sys2Proof.Machine.execPatrolScrub block result s
  | .stkCeRate st => Sys2Proof.Machine.execStkCeRate st s
  | .stkFault st => Sys2Proof.Machine.execStkFault st s
  | .watchdogExpiry core => Sys2Proof.Machine.execWatchdogExpiry core s
  | .mgmtInboxArrival p => Sys2Proof.Machine.execMgmtInboxArrival p s
  | .moltHandover => Sys2Proof.Machine.execMoltHandover s
  | .moltPauseEnd pauseNs => Sys2Proof.Machine.execMoltPauseEnd pauseNs s
  | .moltTimeout => Sys2Proof.Machine.execMoltTimeout s
  | .help => Sys2Proof.Machine.execHelp s
  | .ver => Sys2Proof.Machine.execVer s
  | .stat => Sys2Proof.Machine.execStat s
  | .map w => Sys2Proof.Machine.execMap w s
  | .peek off n => Sys2Proof.Machine.execPeek off n s
  | .log n => Sys2Proof.Machine.execLog n s
  | .eye q lane => Sys2Proof.Machine.execEye q lane s
  | .baud rate => Sys2Proof.Machine.execBaud rate s
  | .chal => Sys2Proof.Machine.execChal s
  | .unlock token => Sys2Proof.Machine.execUnlock token s
  | .lock => Sys2Proof.Machine.execLock s
  | .poke off value => Sys2Proof.Machine.execPoke off value s
  | .mpeek addr n => Sys2Proof.Machine.execMpeek addr n s
  | .fwMonSyntax => Sys2Proof.Machine.execFwMonSyntax s
  | .monitorIdleLock => Sys2Proof.Machine.execMonitorIdleLock s
  | .unlockLockoutEnd => Sys2Proof.Machine.execUnlockLockoutEnd s
  | .cxlLinkUp x8 gt32 flit68 => Sys2Proof.Machine.execCxlLinkUp x8 gt32 flit68 s
  | .listRebuildDone die pool => Sys2Proof.Machine.execListRebuildDone die pool s
  | .drainReleaseReceive chip => Sys2Proof.Machine.execDrainReleaseReceive chip s
  | .fuseActionDone => Sys2Proof.Machine.execFuseActionDone s
  | .cxlIoTransferDone slot ok data => Sys2Proof.Machine.execCxlIoTransferDone slot ok data s
  | .flashWriteDone slot ok => Sys2Proof.Machine.execFlashWriteDone slot ok s

end Sys2Proof.Machine
end

