-- ==== Sys2Proof/Safety.lean ====
section
/-! DEFINITION. What a safe run is, in the terms the statements use: the tables of the state stay in
their canonical form, and no field leaves its range. -/

namespace Sys2Proof.Machine

/-- Every memory is in its canonical form. -/
def State.memOk (s : State) : Bool :=
  memWf s.lov.mem && memWf s.hostMem && s.newts.all (fun e => memWf e.2.pond)

/-- The tables that hold the chip's units by number name each unit once, in rising order. -/
abbrev State.tablesOk (s : State) : Prop :=
  tsorted s.newts ∧ tsorted s.jobs ∧ tsorted s.colls ∧ tsorted s.quads ∧ tsorted s.ras.recs ∧ tsorted s.hif.slots ∧
  tsorted s.hif.msix ∧ tsorted s.hif.pba ∧ tsorted s.sync.objs ∧ tsorted s.sync.lines ∧ tsorted s.sync.fbl ∧
  tsorted s.dma.chans ∧ tsorted s.lov.stk ∧ tsorted s.therm.temps ∧ tsorted s.therm.conds ∧ tsorted s.swc.mirrors ∧
  tsorted s.swc.ctr ∧ tsorted s.shp.nodes ∧ tsorted s.shp.pols ∧ tsorted s.rte.ep

/-- Every mailbox slot has its 256 bytes (R425). -/
abbrev State.slotsOk (s : State) : Prop := ∀ e ∈ s.hif.slots, e.2.bytes.length = 256

/-- The state is well formed: memories and tables are in canonical form, every slot has its 256 bytes, and the four
power conditions are held. -/
abbrev State.Wf (s : State) : Prop := s.memOk = true ∧ s.tablesOk ∧ s.slotsOk ∧ s.therm.powerHeld.length = 4

/-- The instruction at the head of newt `n`. -/
def headWord (s : State) (n : Nat) : Nat := wordAt (newt s n) (newt s n).pc

/-- The chip runs, an instruction is at the head of newt `n` in this cycle (R90), and it has the opcode `opc`. -/
def atHead (s : State) (n opc : Nat) : Prop := up s = true ∧ mayIssue (croak s) (newt s n) = true ∧ iOpc (headWord s n) = opc

/-- The instruction after the head lies in the program region (R96, R98). -/
def goesOn (v : Newt) : Prop := (nextPc 5 (v.pc + 1) v.loops).2 < progLen v

/-- A newt whose head has issued at croak count `now`: the next instruction is at the head, and the newt runs (R90, R98). -/
def afterIssue (now : Nat) (v : Newt) : Newt :=
  { v with state := .run, stall := 0, issued := (v.issued + 1) % 2 ^ 32, issuedAt := some now, waitPassed := false, registered := false
           loops := (nextPc 5 (v.pc + 1) v.loops).1, pc := (nextPc 5 (v.pc + 1) v.loops).2 }

/-- What a quad keeps while another leaves service: all but its credits and the slots that wait to be sent. -/
def quadKept (v w : Quad) : Prop := w = { v with creds := w.creds, txQueue := w.txQueue }

/-- What the fuses and the fuse action in progress keep (R450): PROG_CUSTKEY runs only with CUSTKEY not programmed,
SIGREQ and SET_SIGREQ need CUSTKEY programmed, and SVN_FUSE lies within 0 to 63. -/
def Fuses.ok (f : Fuses) : Prop :=
  (f.busy = some 1 → f.custkey = none) ∧ (f.sigreq = true ∨ f.busy = some 2 → f.custkey.isSome = true) ∧ f.svn ≤ 63

/-- From fuses `f` to fuses `g` nothing is unprogrammed: CUSTKEY once programmed keeps its value, SIGREQ stays set and
SVN_FUSE does not fall (R450). -/
def Fuses.onlyBurnt (f g : Fuses) : Prop :=
  (∀ k, f.custkey = some k → g.custkey = some k) ∧ (f.sigreq = true → g.sigreq = true) ∧ f.svn ≤ g.svn

end Sys2Proof.Machine
end

