-- ==== Sys2Proof/Certificates/Slice0/Obligations.lean ====
section
/-! DEFINITION. The statements for the provers: what the machine, each family of commands and each shared operation do.
Every statement names in its text the rule of spec/ it rests on and, where it rests on a choice of the model, the
entry of the assumption log. -/

open Sys2Proof Sys2Proof.Machine

/-- For every command c and state s, one step of s with c at the front of its queue is exec of c on s with the queue's
rest. (95_what_each_step_holds.md; notes/assumptions/9.md.) -/
def Obligations.StepRunsFront : Prop :=
  ∀ (c : Instr) (r : List Instr) (s : State),
    step { s with pending := c :: r } = exec c { s with pending := r }

/-- On an empty queue a running chip's croak count advances by 1 modulo 2^64. Where no barrier line of a BARRIER object
stands without an enabled leaf, every other field but the newts' STALLED counts and the port counters is unchanged.
Where exactly one such line stands and its object is on chip, the tick releases the line: OUT flips, PROD advances
by 1 modulo 2^64, no waiter is left, and every other object and line is unchanged. A chip that does not run is
unchanged. That a step on an empty queue is a tick, and that the cycle of R170 is looked at once a tick, are the
model's choices (logs 9 and 12). (06_schedule_and_determinism.md (R187); 05_synchronisation.md (R170);
notes/assumptions/9.md; notes/assumptions/12.md.) -/
def Obligations.IdleTick : Prop :=
  ∀ s : State, s.pending = [] →
    let unmasked := s.sync.objs.filter (fun e => e.2.kind == 2 && (bline s e.2.bl).mask.isEmpty)
    (up s = true → unmasked = [] → ∃ t, step s = .next t ∧ t.sch = { s.sch with croak := (s.sch.croak + 1) % 2 ^ 64 } ∧
      (∀ n, newt t n = stallTick (newt s n)) ∧
      t = { s with sch := t.sch, newts := t.newts, swc := { s.swc with ctr := t.swc.ctr } }) ∧
    (∀ o v, up s = true → s.Wf → unmasked = [(o, v)] → v.fabric = false → ∃ t, step s = .next t ∧
      t.sch = { s.sch with croak := (s.sch.croak + 1) % 2 ^ 64 } ∧ (bline t v.bl).out = !(bline s v.bl).out ∧
      obj t o = { v with prod := (v.prod + 1) % 2 ^ 64, waiters := [] } ∧ (∀ k, k ≠ o → obj t k = obj s k) ∧
      (∀ l, l ≠ v.bl → bline t l = bline s l) ∧
      t = { s with sch := t.sch, newts := t.newts, swc := { s.swc with ctr := t.swc.ctr }, sync := t.sync
                   dma := t.dma, hif := t.hif }) ∧
    (up s = false → step s = .next s)

/-- After reset the chip is before power-good with an empty queue, the croak count is 0, every newt is IDLE with SLOT
0x7FF, no record is set, the host interface is BOOTING with epoch 0 and H 192 GiB, every quad is DOWN, every DMA
channel IDLE with LOG2SIZE 3, the stall timeout code is 0x00C, and every byte of Lovor memory reads 0. H before the
first boot, the empty flash and the unprogrammed fuses are the model's choice (log 10). (08_switch_core.md (Table
8-7); 03_newts.md (Table 3-15); 12_memory_pools_dma.md (R386, Table 12-8); 13_host_interface.md (R418, Table 13-2);
06_schedule_and_determinism.md (R187).) -/
def Obligations.ResetValues : Prop :=
  State.reset.pending = [] ∧ State.reset.pins.phase = .off ∧ croak State.reset = 0 ∧
  (∀ n, (newt State.reset n).state = .idle ∧ (newt State.reset n).slot = 0x7FF) ∧
  (∀ c, (rasRec State.reset c).set = false ∧ (rasRec State.reset c).count = 0) ∧
  State.reset.hif.state = .booting ∧ State.reset.hif.epoch = 0 ∧ hdmSize State.reset = 192 * 2 ^ 30 ∧
  (∀ q, (quad State.reset q).state = .down) ∧
  (∀ c, (chan State.reset c).state = .idle ∧ (chan State.reset c).log2 = 3) ∧
  State.reset.swc.stallTmo = 0x00C ∧ (∀ a, memByte State.reset.lov.mem a = 0) ∧ State.reset.lov.poison = []

/-- The tables and memories of the state after reset are in their canonical form, and its fuses obey their rule.
(14_firmware_and_lifecycle.md (R450); 12_memory_pools_dma.md (R382).) -/
def Obligations.ResetWf : Prop := State.reset.Wf ∧ State.reset.fuse.ok

/-- From every state whose Lovor memory, host memory and ponds list each nonzero byte once in rising order, and whose
tables of units list each unit once in rising order, every command and every idle step leads to such a state.
(12_memory_pools_dma.md (R382, R383); 03_newts.md (R85); 15_errors_and_registers.md (R474).) -/
def Obligations.StepKeepsWf : Prop :=
  ∀ s t : State, s.Wf → step s = .next t → t.Wf

/-- From every state whose fuses obey the rule of R450, every step leads to such a state, and across it CUSTKEY once
programmed keeps its value, SIGREQ once set stays set, and SVN_FUSE does not fall. (14_firmware_and_lifecycle.md
(R450).) -/
def Obligations.StepKeepsFuses : Prop :=
  ∀ s t : State, s.fuse.ok → step s = .next t → t.fuse.ok ∧ s.fuse.onlyBurnt t.fuse

/-- After a step the queue is the queue before it without its front command. (95_what_each_step_holds.md;
notes/assumptions/9.md.) -/
def Obligations.StepTakesOne : Prop :=
  ∀ s t : State, step s = .next t → t.pending = s.pending.tail

/-- For every command and every state exec answers a next state: no command ends in a fault or a refusal. That is the
model's choice (log 5). (95_what_each_step_holds.md; notes/assumptions/5.md.) -/
def Obligations.EveryCommandCompletes : Prop :=
  ∀ (c : Instr) (s : State), ∃ t, exec c s = .next t

/-- Raising a defined code in a running chip sets a clear record with COUNT 1, the croak count in RTIME and RLAST and
the occurrence's source and detail. A set record gains COUNT (saturating at 0xFFFFFFFF) and RLAST and keeps RTIME.
It keeps source and detail too, unless occurrences of this cycle alone have set it: it then takes them of the
occurrence with the lowest (KIND, UNIT). That the occurrences at one croak count are those of one cycle is the
model's choice (log 151). (15_errors_and_registers.md (R475, R476); notes/assumptions/151.md.) -/
def Obligations.RaiseRecords : Prop :=
  ∀ (o : Occ) (s : State), up s = true → definedCode o.code = true →
    let r := rasRec s o.code
    let r' := rasRec (raise o s) o.code
    let alone (c : RasCycle) : Prop := r.cyc = some c ∧ c.tick = croak s ∧ r.rtime = c.tick ∧ r.count = c.n
    let lower (src : Word) : Prop := o.kind < src.toNat % 32 ∨ (o.kind = src.toNat % 32 ∧ o.unit < src.toNat / 256 % 65536)
    r'.set = true ∧ r'.rlast = croak s ∧
    (r.set = false → r'.count = 1 ∧ r'.rtime = croak s ∧ r'.rsrc = BitVec.ofNat 64 (occSrc o) ∧ r'.rdata = occData o) ∧
    (r.set = true → r'.count = min 0xFFFFFFFF (r.count + 1) ∧ r'.rtime = r.rtime) ∧
    (r.set = true → (∀ c, ¬ alone c) → r'.rsrc = r.rsrc ∧ r'.rdata = r.rdata) ∧
    (r.set = true → ∀ c, alone c → c.src = r.rsrc → c.data = r.rdata →
      (lower r.rsrc → r'.rsrc = BitVec.ofNat 64 (occSrc o) ∧ r'.rdata = occData o) ∧
      (¬ lower r.rsrc → r'.rsrc = r.rsrc ∧ r'.rdata = r.rdata))

/-- A raise in a chip that does not run changes nothing. In a running chip it changes no record of another code and,
outside the record and the bits that this cycle has set, only the log with its ring in Lovor memory, the events held
for the event ring and their lost count, the pending bits of vectors, vector 449, one free value (where the log's
staging buffer is full), and the one sticky bit of its block: HIF_ERR, the DMA bus error bit, POOL_STAT, SWC_STAT,
RTE_ERR, SHP_STAT, a bit of SCH_STAT, the firmware's error bits or GLB_LAYSTAT.LAST_ERR, by its code. No byte and no
poisoned block of Lovor memory outside the log ring changes. (15_errors_and_registers.md (R475, R478, R480, R481,
R482); 00_scope.md (R11).) -/
def Obligations.RaiseFrame : Prop :=
  ∀ (o : Occ) (s : State), s.Wf →
    (up s = false → raise o s = s) ∧
    (up s = true →
      let t := raise o s
      let b := o.code / 256
      let n := o.code % 256
      (∀ c, c ≠ o.code → rasRec t c = rasRec s c) ∧
      (∀ a, a < logBase ∨ logBase + 64 * 65536 ≤ a → memByte t.lov.mem a = memByte s.lov.mem a) ∧
      (∀ k, 64 * k < logBase ∨ logBase + 64 * 65536 ≤ 64 * k → (k ∈ t.lov.poison ↔ k ∈ s.lov.poison)) ∧
      (t.out = s.out ∨ t.out = s.out ++ [.vector 449]) ∧ (t.free = s.free ∨ t.free = s.free + 1) ∧
      t.hif.err = (if b = 1 then s.hif.err ||| 2 ^ (n - 1) else s.hif.err) ∧
      t.dma.buserr = (s.dma.buserr || decide (o.code = 0x0201)) ∧
      t.pool.stat = (if b = 3 ∧ 3 ≤ n then s.pool.stat ||| 2 ^ (n - 3) else s.pool.stat) ∧
      t.swc.stat = (if b = 5 then s.swc.stat ||| 2 ^ (n - 1) else s.swc.stat) ∧
      t.rte.err = (if b = 6 then s.rte.err ||| 2 ^ (n - 1) else s.rte.err) ∧
      t.shp.stat = (if b = 7 then s.shp.stat ||| 2 ^ (n - 1) else s.shp.stat) ∧
      t.sch.masterLostBit = (s.sch.masterLostBit || decide (o.code = 0x0B02)) ∧
      t.sch.drift = (s.sch.drift || decide (o.code = 0x0B05)) ∧
      t.sch.lineFault = (s.sch.lineFault || decide (o.code = 0x0B06)) ∧
      t.sch.pipeFault = (s.sch.pipeFault || decide (o.code = 0x0B09)) ∧
      t.fw.err = (if b = 12 ∧ n < 0x40 then s.fw.err ||| 2 ^ (n - 1) else s.fw.err) ∧
      t.lay.lastErr = (if b = 12 ∧ 0x40 ≤ n then o.code else s.lay.lastErr) ∧
      t = { s with
        ras := { s.ras with recs := t.ras.recs, fresh := t.ras.fresh, freshAt := t.ras.freshAt }
        log := t.log, out := t.out, free := t.free
        lov := { s.lov with mem := t.lov.mem, poison := t.lov.poison }
        hif := { s.hif with held := t.hif.held, evLost := t.hif.evLost, pba := t.hif.pba, err := t.hif.err }
        dma := { s.dma with buserr := t.dma.buserr }
        pool := { s.pool with stat := t.pool.stat }
        swc := { s.swc with stat := t.swc.stat }
        rte := { s.rte with err := t.rte.err }
        shp := { s.shp with stat := t.shp.stat }
        sch := { s.sch with masterLostBit := t.sch.masterLostBit, drift := t.sch.drift
                            lineFault := t.sch.lineFault, pipeFault := t.sch.pipeFault }
        fw := { s.fw with err := t.fw.err }
        lay := { s.lay with lastErr := t.lay.lastErr } })

/-- From reset, power-good starts the boot with the straps sampled; with STRAP_TEST high the device stays in reset and
drives FAULT_N low. FAULT_N is low too where a reference found bad has not come back. Nothing else changes but the
boot count. (16_electrical_and_package.md (R494, R498, R502).) -/
def Obligations.PowerGoodSamplesStraps : Prop :=
  ∀ (recov test : Bool) (s : State), s.pins.phase = .off →
    exec (.powerGood recov test) s = .next { s with
      pins := { s.pins with
        pwrgood := true, perstN := true, recov := recov, test := test
        phase := if test then .testHeld else .booting, faultN := if test then false else !s.pins.refBad }
      fw := { s.fw with boots := if test then s.fw.boots else s.fw.boots + 1 } }

/-- Both put the device in reset with every unit at its reset value: newts, jobs, collectives, sync objects, quads, DMA
channels, routing, the switch core and Lovor memory. Records of high byte 0x0E and of 0x0C12 that are set stay with
their occurrence; every other record is clear. Fuses, firmware slots, stored layouts and the HDM size are kept.
UART_TX is high. FAULT_N is released; THERMTRIP_N is released by the fall of PWRGOOD and kept by the conventional
reset. (15_errors_and_registers.md (R477); 16_electrical_and_package.md (R495, R505); 13_host_interface.md (R418,
R424); 14_firmware_and_lifecycle.md (R445, R450, R464).) -/
def Obligations.ResetClears : Prop :=
  ∀ s : State, s.Wf → ∃ t u, exec .pwrgoodFall s = .next t ∧ exec .conventionalReset s = .next u ∧
    t.pins.thermtripN = true ∧ u.pins.thermtripN = s.pins.thermtripN ∧ t.pins.pwrgood = false ∧
    u.pins.perstN = false ∧
    ∀ v, v = t ∨ v = u →
      v.pins.phase = .off ∧ v.pins.faultN = true ∧ v.pins.uartTx = true ∧
      (∀ c, rasRec v c = if (c / 256 = 0x0E ∨ c = 0x0C12) ∧ (rasRec s c).set = true
        then { rasRec s c with logAt := none, cyc := none } else {}) ∧
      v.newts = [] ∧ v.jobs = [] ∧ v.colls = [] ∧ v.sync = {} ∧ v.quads = [] ∧ v.dma = {} ∧ v.rte = {} ∧ v.swc = {} ∧
      v.lov = {} ∧ v.pool = {} ∧ v.shp = {} ∧ v.sch = {} ∧ v.log = {} ∧ v.therm = {} ∧
      v.fuse.custkey = s.fuse.custkey ∧ v.fuse.sigreq = s.fuse.sigreq ∧ v.fuse.svn = s.fuse.svn ∧ v.fuse.busy = none ∧
      v.fw.slotA = s.fw.slotA ∧ v.fw.slotB = s.fw.slotB ∧ v.lay.storeA = s.lay.storeA ∧ v.lay.storeB = s.lay.storeB ∧
      v.hif.hdmNext = s.hif.hdmNext ∧ v.hif.state = .booting ∧ v.hostMem = s.hostMem ∧ v.pending = s.pending

/-- From the start of boot, with the control complex not lost and no reference fault holding step 1, BOOT ends with the
chip running, BOOTSTEP 7, the host interface in UNOWNED and no survivor left to report.
(14_firmware_and_lifecycle.md (R451, Table 14-5); 13_host_interface.md (Table 13-2).) -/
def Obligations.BootReachesUnowned : Prop :=
  ∀ (excl : List (Nat × Word)) (s : State), s.pins.phase = .booting → s.fw.bootStep = 0 → s.fw.lost = false → s.pins.refBad = false →
    ∃ t, exec (.boot excl) s = .next t ∧ t.pins.phase = .running ∧ t.fw.bootStep = 7 ∧ t.hif.state = .unowned ∧
      t.ras.survived = [] ∧ t.pending = s.pending ∧ t.fuse.custkey = s.fuse.custkey ∧ t.fuse.svn = s.fuse.svn

/-- A rail outside its range, or a reference outside 155.70 to 156.27 MHz once boot step 1 has ended, drives FAULT_N
low, takes every quad and the CXL link down, stops the islands and sets the record of 0x0E06 or 0x0E08; a rail
fault's record names the rail in UNIT and the reading in DATA0 (where the record was clear). No vector, event or log
entry follows it. A reference fault in boot step 1 drives FAULT_N low, sets the record and holds the step. That the
registers of the stopped units stay as they stood (log 89), and what a fault in boot step 1 does beside holding the
step (logs 57 and 152), are the model's choices. (16_electrical_and_package.md (R496, R498);
15_errors_and_registers.md (R483); notes/assumptions/57.md; notes/assumptions/89.md; notes/assumptions/152.md.) -/
def Obligations.FaultsStopIslands : Prop :=
  (∀ (rail : Fin 10) (mv : Nat) (s : State), up s = true → mv < (railRange rail.val).1 ∨ (railRange rail.val).2 < mv →
    ∃ t, exec (.railFault rail mv) s = .next t ∧ t.pins.phase = .stopped ∧ t.pins.faultN = false ∧ t.hif.cxlUp = false ∧
      (∀ q, (quad t q).state = .down) ∧ (rasRec t 0x0E06).set = true ∧
      ((rasRec s 0x0E06).set = false → (rasRec t 0x0E06).rdata.headD 0 = BitVec.ofNat 64 mv ∧
        (rasRec t 0x0E06).rsrc.toNat / 256 % 65536 = 0x100 + rail.val) ∧
      t = { s with pins := t.pins, ras := t.ras, quads := t.quads, hif := { s.hif with cxlUp := false } }) ∧
  (∀ (khz : Nat) (s : State), up s = true → khz < 155700 ∨ 156270 < khz →
    ∃ t, exec (.referenceFault khz) s = .next t ∧ (rasRec t 0x0E08).set = true ∧
      (s.pins.phase = .running → t.pins.phase = .stopped ∧ t.pins.faultN = false ∧ (∀ q, (quad t q).state = .down) ∧
        t = { s with pins := t.pins, ras := t.ras, quads := t.quads, hif := { s.hif with cxlUp := false } }) ∧
      (s.pins.phase = .booting → t = { s with ras := t.ras, pins := { s.pins with refBad := true, faultN := false } } ∧
        ∀ excl, exec (.boot excl) t = .next t))

/-- In a chip out of reset, a reading of a sensor that is not ignored and lies within −40 to 150 °C after calibration
becomes the sensor's temperature. Where the sensor's trip does not stand yet, a reading at its trip threshold drives
THERMTRIP_N low and stops the islands; one at its emergency threshold sets EMERG, and the want is then at least 2.
The command changes no newt, sync object or job. (16_electrical_and_package.md (R504, R505).) -/
def Obligations.SensorReadingTaken : Prop :=
  ∀ (raw : List (Option Int)) (i : Nat) (r v : Int) (s : State), s.Wf → awake s = true → i < 64 →
    i ∉ s.therm.ignored → raw.getD i none = some r → v = r + s.cal.sensorOff.getD i 0 → -640 ≤ v → v ≤ 2400 →
    ∃ t, exec (.sensorReading raw) s = .next t ∧ tget 0 t.therm.temps i = v ∧
      (i ∉ s.therm.tripped → sensorThr i 3 ≤ v → t.pins.thermtripN = false ∧ t.pins.phase = .stopped ∧
        i ∈ t.therm.tripped) ∧
      (sensorThr i 2 ≤ v → t.fw.emerg = true ∧ 2 ≤ t.therm.want) ∧ t.pending = s.pending ∧ t.newts = s.newts ∧
      t.sync = s.sync ∧ t.jobs = s.jobs

/-- In a chip out of reset a power reading is held per rail, and the package power is the sum over the rails; a 100 µs
average of at least 2,000 W sets EMERG and a want of at least 2, a 10 ms average of at least 1,750 W or a 1 ms
average of at least 1,850 W a want of at least 2, and a 10 ms average of at least 1,650 W a want of at least 1. The
command changes no newt, sync object, job or quad. (16_electrical_and_package.md (R505, R506, Table 16-10).) -/
def Obligations.PowerReadingTaken : Prop :=
  ∀ (rails a10 a1 a100 : List Nat) (s : State), s.Wf → awake s = true →
    ∃ t, exec (.powerReading rails a10 a1 a100) s = .next t ∧ t.therm.railMw = (List.range 10).map (fun i => rails.getD i 0) ∧
      (2000000 ≤ (a100.take 10).sum → t.fw.emerg = true ∧ 2 ≤ t.therm.want) ∧
      (1750000 ≤ (a10.take 10).sum ∨ 1850000 ≤ (a1.take 10).sum → 2 ≤ t.therm.want) ∧ (1650000 ≤ (a10.take 10).sum → 1 ≤ t.therm.want) ∧
      t.pending = s.pending ∧ t.newts = s.newts ∧ t.sync = s.sync ∧ t.jobs = s.jobs ∧ t.quads = s.quads

/-- In a running chip: EMERGENCY_CLEAR with EMERG set and no emergency condition standing clears EMERG and raises vector
450, and with EMERG clear, or an emergency condition standing, it changes nothing. While no job with a scheduled
program runs, WANT_FALL_IDLE starts a new epoch of readings and lowers the want to the highest level whose condition
held since the last fall or stands now, where that is below the want; where that changes the want, vector 450 is
raised, and where it does not, no vector is. While such a job runs it changes nothing. A raised vector is given out,
or held pending where it is masked, and nothing else changes. That a condition that stands now counts beside those
of the epoch is the model's reading (log 65). (16_electrical_and_package.md (R505, R506); 13_host_interface.md
(R437, R440); notes/assumptions/65.md.) -/
def Obligations.WantFalls : Prop :=
  (∀ s : State, up s = true → s.fw.emerg = true → standing s.therm < 3 →
    exec .emergencyClear s = .next (vector 450 { s with fw := { s.fw with emerg := false } })) ∧
  (∀ s : State, up s = true → s.fw.emerg = false ∨ 3 ≤ standing s.therm → exec .emergencyClear s = .next s) ∧
  (∀ s : State, up s = true → schedRuns s = false →
    let w := max s.therm.epochMax (wantFloor s)
    (s.therm.want ≤ w →
      exec .wantFallIdle s = .next { s with therm := { s.therm with epochMax := 0 } }) ∧
    (w < s.therm.want →
      exec .wantFallIdle s = .next (vector 450 { s with therm := { s.therm with want := w, epochMax := 0 } }))) ∧
  (∀ s : State, up s = true → schedRuns s = true → exec .wantFallIdle s = .next s) ∧
  (∀ (v : Nat) (s : State), up s = true → s.hif.state ≠ .orphan →
    (((tget msixReset s.hif.msix v).getD 1 0).getLsbD 32 = false → vector v s = { s with out := s.out ++ [.vector v] }) ∧
    (((tget msixReset s.hif.msix v).getD 1 0).getLsbD 32 = true →
      vector v s = { s with hif := { s.hif with pba := tset false s.hif.pba v true } })) ∧
  (∀ (v : Nat) (s : State), s.hif.state = .orphan → vector v s = s)

/-- JTAG_INSTRUCTION holds the instruction. Out of reset IDCODE puts 0x1483019F out, BYPASS and, with PERST_N high, the
EXTEST instructions put the bypass register out; in reset TDO is silent. SAMPLE/PRELOAD captures the low-speed pins
in the boundary register, and with PERST_N low the EXTEST instructions drive the pins from it. Nothing else changes.
The order of the boundary cells, and TRST_N high while the port takes an instruction, are the model's choices (log
110). (16_electrical_and_package.md (R495, R501, R503).) -/
def Obligations.TestPortAnswers : Prop :=
  ∀ (i : JtagInstr) (s : State),
    let p : Pins := { s.pins with jtag := i, trstN := true }
    let isExt : Prop := i = .extest ∨ i = .extestPulse ∨ i = .extestTrain
    (awake s = true → i = .idcode → exec (.jtagInstruction i) s =
      .next { s with pins := p, out := s.out ++ [.jtag 0x1483019F] }) ∧
    (awake s = true → i = .bypass ∨ (s.pins.perstN = true ∧ isExt) → exec (.jtagInstruction i) s =
      .next { s with pins := p, out := s.out ++ [.jtag 0] }) ∧
    (awake s = false → i = .idcode ∨ i = .bypass ∨ (s.pins.perstN = true ∧ isExt) →
      exec (.jtagInstruction i) s = .next { s with pins := p }) ∧
    (i = .samplePreload → exec (.jtagInstruction i) s = .next { s with pins := { p with
      boundary := [s.pins.pwrgood, s.pins.uartTx, true, s.pins.recov, s.pins.test, alertN s, s.pins.faultN,
                   s.pins.thermtripN, s.pins.perstN] } }) ∧
    (s.pins.perstN = false ∧ isExt → exec (.jtagInstruction i) s =
      .next { s with pins := p, out := s.out ++ [.pins i s.pins.boundary] })

/-- In a running chip: a refresh instant that the plan names holds its pseudo-channel for the current pad; at the start
of a pad whose number both periods divide, the next plan comes into force; the corrected reads of a stack reach
4,096 in an hour, those not counted yet are counted, and 0x0D02 is raised; a hot stack below 80 °C returns to COOL
instants from the next period. Nothing else changes. That the command counts what is left to 4,096 (log 93) and the
raise's detail (log 92) are the model's choices. (12_memory_pools_dma.md (R386, R387, R390, R391, R394);
notes/assumptions/92.md; notes/assumptions/93.md.) -/
def Obligations.StackCommands : Prop :=
  (∀ (st : Fin 4) (p : Fin 32) (s : State), up s = true → instantAt s st.val p.val (padNow s) = true →
    ∃ t, exec (.refreshInstant st p) s = .next t ∧ (st.val, p.val, padNow s) ∈ t.lov.holding ∧
      (∀ h ∈ t.lov.holding, h.2.2 = padNow s) ∧ t = { s with lov := { s.lov with holding := t.lov.holding } }) ∧
  (∀ (b : List Byte) (s : State), up s = true → s.lov.nextPlan = some b → croak s % 128 = 0 →
    padNow s % planPeriod s.lov.plan = 0 → padNow s % planPeriod b = 0 →
    exec .stackPlanChange s = .next { s with lov := { s.lov with plan := b, nextPlan := none } }) ∧
  (∀ (st : Fin 4) (s : State), up s = true →
    exec (.stkCeRate st) s = .next (raise { code := 0x0D02, kind := 5, unit := st.val, d := [0, 4096] }
      (setStack st.val { stack s st.val with
        ce := ((stack s st.val).ce + (4096 - ((stack s st.val).ceTimes.filter (fun t => decide (croak s < t + hourTicks))).length)) % 2 ^ 32
        ceTimes := [] } s))) ∧
  (∀ (st : Fin 4) (s : State), up s = true → (stack s st.val).hot = true → stackTemp s st.val < 80 * 16 →
    exec (.stackCoolReturn st) s =
      .next (modStack st.val (fun v => { v with hot := false, since := some (croak s) }) s))

/-- In a running chip a scrub that finds a block uncorrectable in a cycle free for it poisons the block and raises
0x0D01, whose record, where it was clear, holds the block's address; so does a scrub of a block that stands
poisoned, whatever it finds. A corrected scrub of another block is counted as a corrected read, and a clean one
changes nothing; so does any scrub in a pad kept for a refresh or a window. A stack fault marks the stack, raises
0x0D04 with the stack in UNIT, and then takes down one after the other the links of every quad that is not DOWN. A
scrub changes no newt, no quad and no byte of Lovor memory outside the log ring. (The log entry of the error is
written to the ring, so the poison clause leaves the ring out.) (12_memory_pools_dma.md (R386, R387, R389, R390,
R395).) -/
def Obligations.StackFaults : Prop :=
  (∀ (b : Nat) (res : ReadResult) (s : State), s.Wf → up s = true → b < 2 ^ 32 → padKept 255 (64 * b) s = false →
    64 * b < logBase ∨ logBase + 64 * 65536 ≤ 64 * b →
    (res = .uncorrectable ∨ b ∈ s.lov.poison →
      ∃ t, exec (.patrolScrub b res) s = .next t ∧ (rasRec t 0x0D01).set = true ∧ b ∈ t.lov.poison ∧
        ((rasRec s 0x0D01).set = false → (rasRec t 0x0D01).rdata.headD 0 = BitVec.ofNat 64 (64 * b)) ∧
        (∀ a, a < logBase ∨ logBase + 64 * 65536 ≤ a → memByte t.lov.mem a = memByte s.lov.mem a) ∧
        t.pending = s.pending ∧ t.newts = s.newts ∧ t.quads = s.quads) ∧
    (b ∉ s.lov.poison → exec (.patrolScrub b .clean) s = .next s ∧
      ∃ t, exec (.patrolScrub b .corrected) s = .next t ∧
        (stack t (64 * b / 2 ^ 36 % 4)).ce = ((stack s (64 * b / 2 ^ 36 % 4)).ce + 1) % 2 ^ 32 ∧ t.lov.poison.contains b = false ∧
        t.pending = s.pending ∧ t.newts = s.newts ∧ t.quads = s.quads)) ∧
  (∀ (b : Nat) (res : ReadResult) (s : State), up s = true → 2 ^ 32 ≤ b ∨ padKept 255 (64 * b) s = true →
    exec (.patrolScrub b res) s = .next s) ∧
  (∀ (st : Fin 4) (s : State), s.Wf → up s = true →
    ∃ u, exec (.stkFault st) s =
        .next ((List.range 128).foldl (fun t q => if (quad t q).state = .down then t else quadDown q t) u) ∧
      u = raise { code := 0x0D04, kind := 5, unit := st.val } (modStack st.val (fun v => { v with faulted := true }) s) ∧
      (stack u st.val).faulted = true ∧ (rasRec u 0x0D04).set = true ∧ (∀ k, k ≠ st.val → stack u k = stack s k) ∧
      u.pending = s.pending)

/-- Where CXL.mem reaches an HDM offset, in a pad that no refresh and no window keeps from it, a 64-byte write stores
its bytes at the Lovor address behind the offset, makes exactly that block poisoned or clean, and changes no other
byte or block; a read answers the block's bytes, and a poisoned block is an uncorrectable read. A read after a clean
write answers the bytes written. Whether a clean read was corrected, and is counted, is a free value (log 93). An
access that CXL.mem does not reach, or that the pad keeps out, changes nothing. (13_host_interface.md (R414, R419);
12_memory_pools_dma.md (R385, R386, R387, R390, R395); notes/assumptions/93.md.) -/
def Obligations.HdmAccess : Prop :=
  (∀ (off : Nat) (data : List Byte) (p : Bool) (s : State), s.Wf → hdmOpen s off = true →
    padKept 255 (hdmAddr s off) s = false → data.length = 64 →
    ∃ t, exec (.hdmWrite off data p) s = .next t ∧
      (∀ i, i < 64 → memByte t.lov.mem (hdmAddr s off + i) = data.getD i 0) ∧
      (∀ a, a < hdmAddr s off ∨ hdmAddr s off + 64 ≤ a → memByte t.lov.mem a = memByte s.lov.mem a) ∧
      (hdmAddr s off / 64 ∈ t.lov.poison ↔ p = true) ∧
      (∀ b, b ≠ hdmAddr s off / 64 → (b ∈ t.lov.poison ↔ b ∈ s.lov.poison)) ∧
      t = { s with lov := { s.lov with mem := t.lov.mem, poison := t.lov.poison } } ∧
      (p = false → ∃ u, u = readDrawn (hdmAddr s off) t ∧
        exec (.hdmRead off) t = .next { u with out := u.out ++ [.hdm data false] })) ∧
  (∀ (off : Nat) (s : State), hdmOpen s off = true → padKept 255 (hdmAddr s off) s = false →
    (poisoned s (hdmAddr s off) 64 = false → ∃ u, u = readDrawn (hdmAddr s off) s ∧
      exec (.hdmRead off) s = .next { u with out := u.out ++ [.hdm (lovRead s (hdmAddr s off) 64) false] }) ∧
    (poisoned s (hdmAddr s off) 64 = true → ∃ u, exec (.hdmRead off) s =
        .next { u with out := u.out ++ [.hdm (lovRead s (hdmAddr s off) 64) true] } ∧
      u = stkUe (hdmAddr s off) s ∧ (rasRec u 0x0D01).set = true)) ∧
  (∀ (a : Nat) (s : State), readDrawn a s = { s with free := s.free + 1 } ∨ readDrawn a s = stkCe a { s with free := s.free + 1 }) ∧
  (∀ (off : Nat) (data : List Byte) (p : Bool) (s : State), hdmOpen s off = false ∨ padKept 255 (hdmAddr s off) s = true →
    exec (.hdmWrite off data p) s = .next s ∧ exec (.hdmRead off) s = .next s)

/-- In a running chip CXL_LINK_UP sets the link's state. A link down, the loss of the CXL reference clock and the loss
of the heartbeat put an OWNED interface into ORPHAN at the current croak count, record 0x0116 or 0x0106, withdraw
every ring and mark every RUNNING job; in any other state nothing follows the link's fall, and during a molt pause
the entry falls due at the pause's end. (13_host_interface.md (R414, R423, R437); 14_firmware_and_lifecycle.md
(R457); 16_electrical_and_package.md (R499).) -/
def Obligations.HostLinkUpDown : Prop :=
  (∀ (x8 gt32 flit68 : Bool) (s : State), up s = true → exec (.cxlLinkUp x8 gt32 flit68) s =
    .next { s with hif := { s.hif with cxlUp := true, cxlX8 := x8, cxl32 := gt32, cxlIoOnly := flit68 } }) ∧
  (∀ (c : Instr) (s : State), up s = true → c = .cxlLinkDown ∨ c = .cxlRefclkLoss ∨ c = .heartbeatLoss →
    (s.hif.state = .owned → s.fw.molt ≠ .paused → ∃ t, exec c s = .next t ∧
      t.hif.state = .orphan ∧ t.hif.orphanAt = croak s ∧ t.hif.evGiven = false ∧ t.hif.pba = [] ∧
      (rasRec t (if c = .heartbeatLoss then 0x0106 else 0x0116)).set = true ∧
      (c ≠ .heartbeatLoss → t.hif.cxlUp = false) ∧ t.jobs = s.jobs.map (fun e => (e.1,
        { e.2 with ringGiven := false, orphaned := e.2.orphaned || e.2.state == .running })) ∧
      t.pending = s.pending ∧ t.newts = s.newts ∧ t.quads = s.quads ∧ t.hif.slots = s.hif.slots ∧ t.hif.epoch = s.hif.epoch ∧
      t.sch = s.sch) ∧
    (s.hif.state = .owned → s.fw.molt = .paused → exec c s = .next { s with
      fw := { s.fw with orphanDue := if c = .heartbeatLoss then 0x0106 else 0x0116 }
      hif := { s.hif with cxlUp := if c = .heartbeatLoss then s.hif.cxlUp else false } }) ∧
    (s.hif.state ≠ .owned → exec c s = .next { s with hif := { s.hif with
      cxlUp := if c = .heartbeatLoss then s.hif.cxlUp else false } }))

/-- In a running chip a function-level reset returns every mailbox slot to FREE with no work in it, clears the MSI-X
table and the event ring register, sets WR and RD of every job's ring to 0, puts every DMA channel that was not IDLE
to IDLE with COUNT 0, and puts an OWNED interface into ORPHAN with 0x0106 and no pending bit (outside a molt pause).
The fuses, the calibration store, the queue and the epoch are unchanged, and so are the quads where no SELFTEST
holds back a write of MAINT. That the commands taken are cancelled is the model's reading (log 55).
(13_host_interface.md (R424); 14_firmware_and_lifecycle.md (R463); notes/assumptions/55.md.) -/
def Obligations.FunctionLevelReset : Prop :=
  ∀ s : State, s.Wf → up s = true → ∃ t, exec .functionLevelReset s = .next t ∧
    (∀ i, slotState (mslot t i) = 0 ∧ (mslot t i).work = .idle) ∧ t.hif.msix = [] ∧
    t.hif.evBase = 0 ∧ t.hif.evLog2 = 0 ∧ (∀ j, (job t j).wr = 0 ∧ (job t j).rd = 0) ∧
    (∀ c, c < 64 → (chan t c).state = .idle ∧ ((chan s c).state ≠ .idle → (chan t c).count = 0)) ∧
    (s.hif.state = .owned → s.fw.molt ≠ .paused →
      t.hif.state = .orphan ∧ t.hif.pba = [] ∧ (rasRec t 0x0106).set = true) ∧
    ((∀ e ∈ s.hif.slots, slotCmd e.2 = 0x60 → e.2.scratch.length ≤ 3) → t.quads = s.quads) ∧ t.fuse = s.fuse ∧ t.cal = s.cal ∧ t.pending = s.pending ∧ t.hif.epoch = s.hif.epoch

/-- In a running chip: HEARTBEAT with the epoch renews an OWNED heartbeat and any other value changes nothing;
HDMCFG.NEXT takes a value up to 12 and a larger one raises 0x0101; a ring write with LOG2SIZE 4 to 15 sets the event
ring, and one of 0 to 3 with a ring is refused (log 45); a ring write keeps WR and RD (log 115); a read index is
taken. Ring entries that had waited are then written (EVENT_WRITE, COMPLETION_RECORD_WRITE). (13_host_interface.md
(R418, R423, R435, R436); notes/assumptions/45.md; notes/assumptions/115.md.) -/
def Obligations.HostRegisterWrites : Prop :=
  (∀ (w : Word) (s : State), up s = true → exec (.heartbeatWrite w) s = .next
    (if s.hif.state = .owned ∧ bits w.toNat 31 0 = s.hif.epoch then { s with hif := { s.hif with lastBeat := croak s } } else s)) ∧
  (∀ (w : Word) (s : State), up s = true →
    (bits w.toNat 7 4 ≤ 12 →
      exec (.hdmSizeWrite w) s = .next { s with hif := { s.hif with hdmNext := bits w.toNat 7 4 } }) ∧
    (12 < bits w.toNat 7 4 → exec (.hdmSizeWrite w) s = .next (raise { code := 0x0101 } s))) ∧
  (∀ (w : Word) (s : State), up s = true → s.hif.held = [] →
    (bits w.toNat 63 6 = 0 ∨ 4 ≤ bits w.toNat 3 0 → exec (.eventRingWrite w) s = .next { s with hif := { s.hif with
      evLog2 := bits w.toNat 3 0, evBase := bits w.toNat 63 6, evGiven := s.hif.evGiven || s.hif.state != .orphan } }) ∧
    (bits w.toNat 63 6 ≠ 0 → bits w.toNat 3 0 < 4 → exec (.eventRingWrite w) s = .next (raise { code := 0x0101 } s))) ∧
  (∀ (w : Word) (s : State), up s = true → bits w.toNat 63 6 ≠ 0 → 4 ≤ bits w.toNat 3 0 →
    ∃ t, exec (.eventRingWrite w) s = .next t ∧ t.hif.evLog2 = bits w.toNat 3 0 ∧ t.hif.evBase = bits w.toNat 63 6 ∧
      eventRoom t = false ∧ t.jobs = s.jobs ∧ t.ras = s.ras ∧ t.lov = s.lov) ∧
  (∀ (rd : Nat) (s : State), up s = true → ∃ t, exec (.ringReadAdvance none rd) s = .next t ∧ t.hif.evRd = rd % 65536 ∧
    eventRoom t = false ∧ t.jobs = s.jobs ∧ t.ras = s.ras ∧ t.lov = s.lov) ∧
  (∀ (j : Fin 64) (rd : Nat) (s : State), s.Wf → up s = true → ∃ t, exec (.ringReadAdvance (some j) rd) s = .next t ∧
    (job t j.val).rd = rd % 2 ^ 32 ∧ recordRoom j.val t = false ∧ (∀ k, k ≠ j.val → job t k = job s k) ∧
    t.ras = s.ras ∧ t.lov = s.lov)

/-- Where the event ring has room the oldest held event's 32 bytes are written at its place, WR advances and vector 448
is raised; where a job's completion ring has room the oldest held record is written at its place with the croak
count in its bytes 8 to 15, WR advances, the job's vector follows where the record asks for it, and the collective's
member ports on this chip are then sent COMPLETE, or ABORT with the record's cause in TILE (held while a drain names
MGMT). No other byte of host memory and no other job changes. Where there is no room nothing changes.
(13_host_interface.md (R435, R436, R440); 04_collectives.md (R130, R145, R146); 09_fabric_and_routing.md (R312).) -/
def Obligations.RingEntriesWritten : Prop :=
  (∀ (e : EventItem) (r : List EventItem) (s : State), eventRoom s = true → s.hif.held = e :: r → ∃ m, exec .eventWrite s =
      .next (vector 448 { s with hostMem := m, hif := { s.hif with held := r, evWr := (s.hif.evWr + 1) % 65536 } }) ∧
      (s.Wf → ∀ a, memByte m a =
        (let b := 64 * s.hif.evBase + 32 * (s.hif.evWr % 2 ^ s.hif.evLog2)
         if b ≤ a ∧ a < b + 32 then (eventBytes e).getD (a - b) 0 else memByte s.hostMem a))) ∧
  (∀ (j : Fin 64) (b : List Byte) (irq : Bool) (r : List (List Byte × Bool)) (s : State), recordRoom j.val s = true →
    (job s j.val).held = (b, irq) :: r →
    let v := job s j.val
    ∃ t, exec (.completionRecordWrite j) s =
      .next (memberNotes b (if irq = true ∧ v.vec ≠ 0xFF then vector (320 + v.vec) t else t)) ∧
      t = { s with jobs := t.jobs, hostMem := t.hostMem } ∧
      (s.Wf → job t j.val = { v with held := r, wr := (v.wr + 1) % 2 ^ 32 } ∧ (∀ k, k ≠ j.val → job t k = job s k) ∧
        ∀ a, memByte t.hostMem a =
          (let p := v.cring + 64 * (v.wr % 2 ^ v.clog2)
           let w := slice b 0 8 ++ leBytes 8 (croak s) ++ b.drop 16
           if p ≤ a ∧ a < p + w.length then w.getD (a - p) 0 else memByte s.hostMem a))) ∧
  (∀ (b : List Byte) (s : State),
    let c := fieldAt b 0 3
    let note (m : Nat × Nat) : String × Nat × List Nat :=
      if fieldAt b 3 1 = 0 then ("COMPLETE", m.1, collVals 9 c 0 0xFFFFFFFF [])
      else ("ABORT", m.1, collVals 10 c (fieldAt b 4 2) 0xFFFFFFFF [])
    (drains s 4 = false → memberNotes b s =
      { s with out := s.out ++ (coll s c).members.map (fun m => .mgmt (note m).1 (note m).2.1 (note m).2.2) }) ∧
    (drains s 4 = true → memberNotes b s =
      { s with rte := { s.rte with mgmtHeld := s.rte.mgmtHeld ++ (coll s c).members.map note } })) ∧
  (∀ s : State, eventRoom s = false → exec .eventWrite s = .next s) ∧
  (∀ (j : Fin 64) (s : State), recordRoom j.val s = false → exec (.completionRecordWrite j) s = .next s)

/-- A reply leaves its slot DONE with no work, holding STATUS, RPLEN, the croak count and the payload, counts a
completed command, and changes no other slot and nothing outside the host interface but the vector it raises and,
where the command is a layout command, GLB_LAYSTAT.LAST_ERR, which takes the status. A failing command's reply holds
its code with no payload (log 54), and the code is recorded. (13_host_interface.md (R426, Table 13-4);
07_layout_image.md (R251); notes/assumptions/54.md.) -/
def Obligations.ReplyWrites : Prop :=
  (∀ (i status : Nat) (payload : List Byte) (s : State), s.Wf → payload.length ≤ 224 → status < 65536 →
    let t := reply i status payload s
    slotState (mslot t i) = 3 ∧ (mslot t i).work = .idle ∧ hdr (mslot t i).bytes 20 2 = status ∧
    hdr (mslot t i).bytes 22 2 = payload.length ∧ hdr (mslot t i).bytes 24 8 = croak s % 2 ^ 64 ∧
    slice (mslot t i).bytes 32 payload.length = payload ∧ (∀ k, k ≠ i → mslot t k = mslot s k) ∧
    t.hif.mbDone = (s.hif.mbDone + 1) % 2 ^ 32 ∧
    t.lay.lastErr = (if slotCmd (mslot s i) = 0x10 ∨ slotCmd (mslot s i) = 0x11 ∨ slotCmd (mslot s i) = 0x41 then status
      else s.lay.lastErr) ∧
    t = { s with out := t.out, hif := { s.hif with slots := t.hif.slots, mbDone := t.hif.mbDone, pba := t.hif.pba }
                 lay := { s.lay with lastErr := t.lay.lastErr } }) ∧
  (∀ (i code : Nat) (s : State), s.Wf → up s = true → definedCode code = true →
    let t := cmdFail i code s
    slotState (mslot t i) = 3 ∧ (mslot t i).work = .idle ∧ hdr (mslot t i).bytes 20 2 = code ∧
    hdr (mslot t i).bytes 22 2 = 0 ∧ (rasRec t code).set = true ∧ (∀ k, k ≠ i → mslot t k = mslot s k))

/-- In a running chip an aligned write to a slot that is FREE or DONE stores its bytes and no others; one of bytes 0 to
7 whose first byte is 1 posts the command and one whose first byte is not 1 leaves STATE; a write to a POSTED or
TAKEN slot is discarded, counted and recorded as 0x0115; a misaligned write, and one of bytes 0 to 7 that is not 64
bits wide, raises 0x0101 and stores nothing; bytes 256 to 4,095 of a page ignore writes. A read answers the
addressed bytes, zero beyond byte 255, and zero with 0x0101 where it is misaligned or of another width. That a
malformed write is recorded at any offset of the page, and that a 64-bit write whose STATE is not 1 stores the other
bytes, are the model's readings (log 70). (13_host_interface.md (R417, R425); notes/assumptions/70.md.) -/
def Obligations.MailboxSlotWrites : Prop :=
  (∀ (i : Fin 256) (p width : Nat) (w : Word) (s : State), s.Wf → up s = true → p + width ≤ 256 → p % width = 0 →
    slotState (mslot s i.val) ≠ 1 → slotState (mslot s i.val) ≠ 2 →
    (8 ≤ p ∧ (width = 1 ∨ width = 2 ∨ width = 4 ∨ width = 8)) ∨ (p = 0 ∧ width = 8) →
    ∃ t, exec (.mailboxSlotWrite (4096 * i.val + p) w width) s = .next t ∧
      (∀ k, k < 256 → (mslot t i.val).bytes.getD k 0 =
        if p ≤ k ∧ k < p + width ∧ (p + k = 0 → w.toNat % 256 = 1) then BitVec.ofNat 8 (w.toNat / 256 ^ (k - p))
        else (mslot s i.val).bytes.getD k 0) ∧
      (mslot t i.val).work = (mslot s i.val).work ∧ (∀ k, k ≠ i.val → mslot t k = mslot s k) ∧
      t = { s with hif := { s.hif with slots := t.hif.slots } }) ∧
  (∀ (i : Fin 256) (w : Word) (s : State), s.Wf → up s = true → w.toNat % 256 = 1 →
    slotState (mslot s i.val) ≠ 1 → slotState (mslot s i.val) ≠ 2 →
    ∃ t, exec (.mailboxPost i w) s = .next t ∧ slotState (mslot t i.val) = 1 ∧
      (mslot t i.val).bytes = leBytes 8 w.toNat ++ (mslot s i.val).bytes.drop 8 ∧
      (∀ k, k ≠ i.val → mslot t k = mslot s k) ∧ t = { s with hif := { s.hif with slots := t.hif.slots } }) ∧
  (∀ (i : Fin 256) (w : Word) (s : State), s.Wf → up s = true → slotState (mslot s i.val) = 1 ∨ slotState (mslot s i.val) = 2 →
    ∃ t, exec (.mailboxPost i w) s = .next t ∧ exec (.mailboxSlotWrite (4096 * i.val) w 8) s = .next t ∧
      (∀ k, mslot t k = mslot s k) ∧ t.hif.mbDiscarded = (s.hif.mbDiscarded + 1) % 2 ^ 32 ∧ (rasRec t 0x0115).set = true) ∧
  (∀ (i : Fin 256) (p width : Nat) (w : Word) (s : State), s.Wf → up s = true → p < 4096 →
    (width ≠ 1 ∧ width ≠ 2 ∧ width ≠ 4 ∧ width ≠ 8) ∨ p % width ≠ 0 ∨ (p < 8 ∧ width ≠ 8) →
    ∃ t, exec (.mailboxSlotWrite (4096 * i.val + p) w width) s = .next t ∧ (∀ k, mslot t k = mslot s k) ∧
      (rasRec t 0x0101).set = true) ∧
  (∀ (i : Fin 256) (p width : Nat) (w : Word) (s : State), up s = true → 256 ≤ p → p < 4096 → p % width = 0 →
    width = 1 ∨ width = 2 ∨ width = 4 ∨ width = 8 →
    exec (.mailboxSlotWrite (4096 * i.val + p) w width) s = .next s ∧ slotRead (4096 * i.val + p) width s = (s, 0)) ∧
  (∀ (i : Fin 256) (p width : Nat) (s : State), p + width ≤ 256 → p % width = 0 → width = 1 ∨ width = 2 ∨ width = 4 ∨ width = 8 →
    slotRead (4096 * i.val + p) width s = (s, fieldAt (mslot s i.val).bytes p width)) ∧
  (∀ (i : Fin 256) (p width : Nat) (s : State), s.Wf → p < 4096 → (width ≠ 1 ∧ width ≠ 2 ∧ width ≠ 4 ∧ width ≠ 8) ∨ p % width ≠ 0 →
    ∃ t, slotRead (4096 * i.val + p) width s = (t, 0) ∧ (∀ k, mslot t k = mslot s k) ∧ (rasRec t 0x0101).set = true)

/-- While the firmware runs a scan takes the command of every POSTED slot in slot order; with none posted it changes
nothing. A command with a good header and request in a state that admits it, without a PREOP, becomes ready to run;
a bad header or request answers 0x0102, and one that the state does not admit answers that state's code. Where an
ADOPT taken earlier has yet to run, the state's rules wait for it. A command that waits in a wait of its own, or
that an earlier command holds, answers 0x0107 at its timeout. (That a taken command is logged is log 62.)
(13_host_interface.md (R426, R427, R428, R438, Table 13-2); notes/assumptions/62.md.) -/
def Obligations.MailboxScanTakes : Prop :=
  let taken (i : Nat) (s : State) : State := setMslot i { mslot s i with
    bytes := (mslot s i).bytes.set 0 2, work := .ready, scratch := [], buffer := [], unruled := false, order := nextOrder s } s
  (∀ s : State, fwRuns s = true → exec .mailboxScan s = .next ((postedSlots s).foldl (fun t i => slotTake i t) s)) ∧
  (∀ (i : Nat) (s : State), slotState (mslot s i) = 1 → headerGood (mslot s i) = true → requestGood (mslot s i) = true →
    adoptAhead (taken i s) i = false → stateRule s (mslot s i) = none → preop (mslot s i) = 0 →
    slotTake i s = logOpen 3 (slotCmd (mslot s i)) (taken i s)) ∧
  (∀ (i : Nat) (s : State), headerGood (mslot s i) = true → requestGood (mslot s i) = true → adoptAhead (taken i s) i = true →
    slotTake i s = modMslot i (fun m => { m with unruled := true }) (logOpen 3 (slotCmd (mslot s i)) (taken i s))) ∧
  (∀ (i : Nat) (s : State), headerGood (mslot s i) = false ∨ requestGood (mslot s i) = false →
    ∃ t, slotTake i s = cmdFail i 0x0102 t ∧ t.hif.slots = (taken i s).hif.slots) ∧
  (∀ (i code : Nat) (s : State), headerGood (mslot s i) = true → requestGood (mslot s i) = true →
    adoptAhead (taken i s) i = false → stateRule s (mslot s i) = some code →
    ∃ t, slotTake i s = cmdFail i code t ∧ t.hif.state = s.hif.state ∧ t.jobs = s.jobs) ∧
  (∀ (i : Fin 256) (s : State), up s = true →
    let held := (mslot s i.val).unruled || s.hif.slots.any (heldBy s i.val)
    ((mslot s i.val).work = .waiting → exec (.commandTimeout i) s = .next (cmdFail i.val 0x0107 (cmdCancel i.val s))) ∧
    ((mslot s i.val).work = .preop →
      exec (.commandTimeout i) s = .next (waitTimeout (preObj (mslot s i.val)) (agentSlot i.val) s)) ∧
    ((mslot s i.val).work = .ready → held = true →
      exec (.commandTimeout i) s = .next (adoptOver (cmdFail i.val 0x0107 s))) ∧
    ((mslot s i.val).work ≠ .waiting → (mslot s i.val).work ≠ .preop →
      (mslot s i.val).work ≠ .ready ∨ held = false → exec (.commandTimeout i) s = .next s))

/-- IDENTIFY replies with 112 bytes that hold the identity word, the firmware version and slot, the interface state,
Jelin 1.0, the chip coordinate (0xFFFF before the start-up activation), the active fingerprint and the epoch.
CAL_READ, RUN_RECORD and LOG_SNAPSHOT to an aligned address with room begin a copy of the calibration set, the run
record, or the log entries from max(0, HEAD − 65,536), which a snapshot holds back; a misaligned address answers
0x010F and too little room 0x0114. RUN_RECORD of an unknown handle answers 0x0109, and of a job that has not ended
0x0117. (13_host_interface.md (R430, Table 13-5); 06_schedule_and_determinism.md (R216);
14_firmware_and_lifecycle.md (R465, R469).) -/
def Obligations.ReadCommands : Prop :=
  (∀ (i : Fin 256) (s : State), runnable 1 i.val s = true → ∃ p, exec (.identify i) s = .next (cmdDone i.val p s) ∧
    p.length = 112 ∧ fieldAt p 0 8 = 0x02A148301D4F ∧ fieldAt p 16 8 = s.fw.ver.toNat ∧ fieldAt p 24 1 = s.fw.slot % 256 ∧
    fieldAt p 25 1 = hifNum s.hif.state ∧ fieldAt p 27 1 = 0x10 ∧
    fieldAt p 30 2 = (if s.lay.startupDone then s.rte.coord % 65536 else 0xFFFF) ∧ slice p 32 32 = activeFp s ∧
    fieldAt p 96 4 = s.hif.epoch % 2 ^ 32) ∧
  (∀ (i : Fin 256) (s : State), runnable 0x70 i.val s = true →
    let m := mslot s i.val
    (req m 0 8 % 64 ≠ 0 → exec (.calRead i) s = .next (cmdFail i.val 0x010F s)) ∧
    (req m 0 8 % 64 = 0 → s.cal.valid = false → exec (.calRead i) s = .next (cmdFail i.val 0x0C0B s)) ∧
    (req m 0 8 % 64 = 0 → s.cal.valid = true → req m 8 8 < s.cal.set.length →
      exec (.calRead i) s = .next (cmdFail i.val 0x0114 s)) ∧
    (req m 0 8 % 64 = 0 → s.cal.valid = true → s.cal.set.length ≤ req m 8 8 → exec (.calRead i) s =
      .next (setMslot i.val { m with work := .transfer, buffer := s.cal.set, scratch := [] } s))) ∧
  (∀ (i : Fin 256) (s : State), runnable 0x80 i.val s = true → jobOf (req (mslot s i.val) 0 8) s = none →
    exec (.runRecord i) s = .next (cmdFail i.val 0x0109 s)) ∧
  (∀ (i : Fin 256) (j : Nat) (s : State), runnable 0x80 i.val s = true → jobOf (req (mslot s i.val) 0 8) s = some j →
    let m := mslot s i.val
    ((job s j).state ≠ .ended → exec (.runRecord i) s = .next (cmdFail i.val 0x0117 s)) ∧
    ((job s j).state = .ended → req m 8 8 % 64 ≠ 0 → exec (.runRecord i) s = .next (cmdFail i.val 0x010F s)) ∧
    ((job s j).state = .ended → req m 8 8 % 64 = 0 → req m 16 4 < (job s j).record.length →
      exec (.runRecord i) s = .next (cmdFail i.val 0x0114 s)) ∧
    ((job s j).state = .ended → req m 8 8 % 64 = 0 → (job s j).record.length ≤ req m 16 4 → exec (.runRecord i) s =
      .next (setMslot i.val { m with work := .transfer, buffer := (job s j).record, scratch := [j] } s))) ∧
  (∀ (i : Fin 256) (s : State), runnable 0xA0 i.val s = true →
    let m := mslot s i.val
    let n := min s.log.head 65536
    (req m 0 8 % 64 ≠ 0 → exec (.logSnapshot i) s = .next (cmdFail i.val 0x010F s)) ∧
    (req m 0 8 % 64 = 0 → req m 8 8 < 64 * n → exec (.logSnapshot i) s = .next (cmdFail i.val 0x0114 s)) ∧
    (req m 0 8 % 64 = 0 → 64 * n ≤ req m 8 8 → ∃ t, exec (.logSnapshot i) s =
      .next { t with log := { s.log with snap := true, snapEarly := none } } ∧
      t = setMslot i.val { m with work := .transfer, scratch := [s.log.head - n, n]
                                  buffer := logBytes s (s.log.head - n) n } s))

/-- LOAD_LAYOUT begins to read the file unless its address is misaligned (0x010F), a layout command or molt is in
progress (0x0C46) or the file is over 4 GiB (0x0C40; that it is refused before it is read is the model's choice, log
72, with logs 73 and 44 for what the checks read). A poisoned block of the staged image ends ACTIVATE_LAYOUT and
TABLE_SWAP with 0x0D01. ACTIVATE_LAYOUT fails with the first check of Table 7-11 that fails, and otherwise applies
the staged image and replies with its fingerprint and program digest; a unit that fails during its steps ends it
with that unit's error, which is recorded, and leaves the device with no active image, measurement 6 zero and the
start-up values as they were (that the image stays staged is the model's choice, log 148). TABLE_SWAP fails with its
check's code and otherwise puts the staged sections in force. DRAIN is refused with 0x060B, releases, or starts a
drain of its classes and replies at once, or with WAIT when it has drained. (07_layout_image.md (R241, R242, R244,
R245, R246, R249, R250); 09_fabric_and_routing.md (R312, R316); 12_memory_pools_dma.md (R388);
14_firmware_and_lifecycle.md (R453); notes/assumptions/44.md; notes/assumptions/72.md; notes/assumptions/73.md;
notes/assumptions/148.md.) -/
def Obligations.LayoutCommands : Prop :=
  (∀ (i : Fin 256) (s : State), runnable 0x10 i.val s = true →
    let m := mslot s i.val
    let fail (code chk : Nat) : State := cmdFailAt i.val code chk { s with lay := { s.lay with lastErr := code } }
    (req m 0 8 % 64 ≠ 0 → exec (.loadLayout i) s = .next (fail 0x010F 0)) ∧
    (req m 0 8 % 64 = 0 → s.lay.busy = true ∨ s.fw.molt ≠ .none → exec (.loadLayout i) s = .next (fail 0x0C46 1)) ∧
    (req m 0 8 % 64 = 0 → s.lay.busy = false → s.fw.molt = .none → 2 ^ 32 < req m 8 8 →
      exec (.loadLayout i) s = .next (fail 0x0C40 2)) ∧
    (req m 0 8 % 64 = 0 → s.lay.busy = false → s.fw.molt = .none → req m 8 8 ≤ 2 ^ 32 →
      exec (.loadLayout i) s = .next (setMslot i.val { m with work := .transfer } { s with lay := { s.lay with busy := true } }))) ∧
  (∀ (i : Fin 256) (x : Option UnitErr) (k : List Byte) (p : Nat) (s : State), s.lay.staged = some k → poisonAt s 0 k.length = some p →
    let t : State := { stkUe p s with lay := { (stkUe p s).lay with lastErr := 0x0D01 } }
    (runnable 0x11 i.val s = true → exec (.activateLayout ⟨i, x⟩) s = .next (reply i.val 0x0D01 [] t)) ∧
    (runnable 0x41 i.val s = true → exec (.tableSwap i) s = .next (reply i.val 0x0D01 [] t))) ∧
  (∀ (i : Fin 256) (x : Option UnitErr) (s : State), runnable 0x11 i.val s = true → s.fw.recovery = false →
    (∀ k, s.lay.staged = some k → poisonAt s 0 k.length = none) →
    (∀ c, activateFails s (slice (mslot s i.val).bytes 32 32) = some c → exec (.activateLayout ⟨i, x⟩) s =
      .next (logOpen 1 2 (cmdFailAt i.val c (actChkNum c) { s with lay := { s.lay with lastErr := c } }))) ∧
    (∀ f e, activateFails s (slice (mslot s i.val).bytes 32 32) = none → s.lay.staged = some f → x = some e →
      definedCode e.code = true →
      ∃ t, exec (.activateLayout ⟨i, x⟩) s = .next (reply i.val e.code [] t) ∧ t.lay.active = false ∧ t.lay.fp = [] ∧
        t.lay.program = [] ∧ t.lay.staged = s.lay.staged ∧ t.lay.lastErr = e.code ∧ (rasRec t e.code).set = true ∧
        t.lay.startupDone = s.lay.startupDone ∧ tget [] t.fw.meas 6 = []) ∧
    (∀ f, activateFails s (slice (mslot s i.val).bytes 32 32) = none → s.lay.staged = some f → x = none →
      ∃ t p, exec (.activateLayout ⟨i, x⟩) s = .next (cmdDone i.val p t) ∧
        t = activate f s.lay.stagedCoord s.lay.stagedSigned s ∧ t.lay.active = true ∧ t.lay.fp = imFp f ∧
        t.lay.program = imProgram f ∧ t.lay.staged = none ∧ t.lay.startupDone = true ∧ t.pending = s.pending ∧
        slice p 0 32 = slice (imFp f) 0 32 ∧ slice p 32 32 = slice (imProgram f) 0 32)) ∧
  (∀ (i : Fin 256) (s : State), runnable 0x41 i.val s = true → (∀ k, s.lay.staged = some k → poisonAt s 0 k.length = none) →
    let sect := req (mslot s i.val) 0 1
    (∀ c, swapCheck s sect = some c → exec (.tableSwap i) s =
      .next (cmdFailAt i.val c (actChkNum c) { s with lay := { s.lay with lastErr := c } })) ∧
    (swapCheck s sect = none → ∃ t p, exec (.tableSwap i) s = .next (cmdDone i.val p t) ∧ t = tableSwap sect s ∧
      t.lay.lastErr = 0 ∧ fieldAt p 8 1 = t.lay.routeBank % 256 ∧
      t.lay.routeBank = (if bitOf sect 0 then 1 - s.lay.routeBank else s.lay.routeBank) ∧
      t.lay.shaperRev = (if bitOf sect 1 then (s.lay.shaperRev + 1) % 65536 else s.lay.shaperRev) ∧
      t.lay.epitabRev = (if bitOf sect 2 then (s.lay.epitabRev + 1) % 65536 else s.lay.epitabRev))) ∧
  (∀ (i : Fin 256) (s : State), runnable 0x40 i.val s = true →
    let m := mslot s i.val
    let release := bitOf (req m 4 1) 0
    (drainRefused s (req m 2 1) (req m 3 1) release = true →
      exec (.drain i) s = .next (cmdFailWith i.val { code := 0x060B, kind := 15, unit := s.rte.coord, d := [0, 0, 0, req m 0 2] } s)) ∧
    (drainRefused s (req m 2 1) (req m 3 1) release = false → release = true →
      s.rte.drain.classes ≠ 0 → s.rte.drain.releasePend = false →
      exec (.drain i) s = .next (cmdDone i.val (leBytes 8 (drainReg (drainRelease s))) (drainRelease s))) ∧
    (drainRefused s (req m 2 1) (req m 3 1) release = false → release = false → req m 2 1 ≠ 0 →
      let t := drainStart (req m 2 1) (req m 3 1) (req m 0 2) false s
      (bitOf (req m 4 1) 1 = false → exec (.drain i) s = .next (cmdDone i.val (leBytes 8 (drainReg t)) t)) ∧
      (bitOf (req m 4 1) 1 = true → exec (.drain i) s = .next (modMslot i.val (fun m => { m with work := .waiting }) t)) ∧
      t.rte.drain.classes = req m 2 1 ∧ t.rte.drain.scope = req m 3 1 ∧ t.rte.drain.id = req m 0 2))

/-- JOB_OPEN takes the lowest free slot with a handle that no earlier JOB_OPEN gave, or answers 0x010A when none is
free; with REATTACH it gives an open job a new ring with WR and RD 0. JOB_LAUNCH arms an OPEN job whose checks pass
at its launch count, and with SCHED the schedule unit with it, and replies with the croak count at acceptance;
without SCHED no other job, no collective and no part of the schedule unit changes, and of the newts only the
counters that a launch clears. JOB_ABORT of a whole OPEN job ends it; a job that has ended answers 0x0108, and an
unknown handle 0x0109. ADOPT with the current epoch raises the epoch by one and takes the interface to OWNED, with
the heartbeat renewed; any other epoch answers 0x0104. Records and events that are held stay held until their ring
is given again. Commands that an ADOPT held back are judged once it has ended. (06_schedule_and_determinism.md
(R194, R195); 13_host_interface.md (R431, R432, R438, R439).) -/
def Obligations.JobCommands : Prop :=
  (∀ (i : Fin 256) (s : State), s.Wf → runnable 0x20 i.val s = true →
    let m := mslot s i.val
    (bitOf (req m 26 1) 0 = false → freeJob s = none → exec (.jobOpen i) s = .next (cmdFail i.val 0x010A s)) ∧
    (∀ j, bitOf (req m 26 1) 0 = false → freeJob s = some j → req m 16 8 % 64 = 0 →
      ∃ t p, exec (.jobOpen i) s = .next (cmdDone i.val p t) ∧ (job t j).state = .opened ∧ (job s j).state = .free ∧
        (job t j).handle = BitVec.ofNat 64 (2 ^ 32 * s.nonce + s.nextJob % 2 ^ 32) ∧ (job t j).seed = BitVec.ofNat 64 (req m 0 8) ∧
        (job t j).fjob = BitVec.ofNat 64 (req m 8 8) ∧ (job t j).cring = req m 16 8 ∧ (job t j).clog2 = req m 24 1 ∧
        (job t j).vec = req m 25 1 ∧ (job t j).wr = 0 ∧ (job t j).rd = 0 ∧ t.nextJob = s.nextJob + 1 ∧
        fieldAt p 0 8 = (job t j).handle.toNat ∧ fieldAt p 8 1 = j ∧ (∀ k, k ≠ j → job t k = job s k)) ∧
    (∀ j, bitOf (req m 26 1) 0 = true → jobOf (req m 32 8) s = some j → req m 16 8 % 64 = 0 → (job s j).held = [] →
      ∃ t p, exec (.jobOpen i) s = .next (cmdDone i.val p t) ∧ job t j = { job s j with
        cring := req m 16 8, clog2 := req m 24 1, vec := req m 25 1, ringGiven := true, wr := 0, rd := 0 } ∧
        (∀ k, k ≠ j → job t k = job s k) ∧ fieldAt p 8 1 = j % 256)) ∧
  (∀ (i : Fin 256) (s : State), runnable 0x21 i.val s = true →
    let m := mslot s i.val
    let sched := bitOf (req m 16 1) 0
    (∀ c, launchFails s (req m 0 8) (req m 8 8) sched = some c →
      exec (.jobLaunch i) s = .next (cmdFailWith i.val (launchOcc i.val c (req m 8 8) s) s)) ∧
    (∀ j, launchFails s (req m 0 8) (req m 8 8) sched = none → jobOf (req m 0 8) s = some j →
      exec (.jobLaunch i) s =
        .next (cmdDone i.val (leBytes 8 (croak s) ++ leBytes 8 (req m 8 8)) (launch j (req m 8 8) sched s)) ∧
      (s.Wf → sched = false → let t := launch j (req m 8 8) false s
        t.sch = s.sch ∧ (∀ n, newt t n = newtFresh (newt s n)) ∧ t.colls = s.colls ∧ (∀ k, k ≠ j → job t k = job s k)) ∧
      (s.Wf → let t := launch j (req m 8 8) sched s
        (job t j).state = .armed ∧ (job t j).launchL = req m 8 8 ∧ (job t j).sched = sched ∧
        (sched = true → t.sch.state = .armed ∧ t.sch.job = some j ∧ t.sch.launchL = req m 8 8)))) ∧
  (∀ (i : Fin 256) (s : State), runnable 0x22 i.val s = true →
    let m := mslot s i.val
    (jobOf (req m 0 8) s = none → exec (.jobAbort i) s = .next (cmdFail i.val 0x0109 s)) ∧
    (∀ j, jobOf (req m 0 8) s = some j → (job s j).state = .ended → exec (.jobAbort i) s = .next (cmdFail i.val 0x0108 s)) ∧
    (∀ j, s.Wf → jobOf (req m 0 8) s = some j → (job s j).state = .opened → heldCkpts i.val (req m 0 8) s = [] →
      bitOf (req m 11 1) 0 = false → req m 8 3 = 0 → ∃ t, exec (.jobAbort i) s = .next (cmdDone i.val (rp 16 []) t) ∧
        (job t j).state = .ended ∧ (job t j).stopped = true ∧ (∀ k, k ≠ j → job t k = job s k))) ∧
  (∀ (i : Fin 256) (ok : Bool) (s : State), runnable 0x90 i.val s = true →
    let m := mslot s i.val
    let mine := req m 0 4 = s.hif.epoch ∨ (s.hif.state = .unowned ∧ req m 0 4 = 0)
    (¬ mine → exec (.adopt i ok) s = .next (adoptOver (cmdFail i.val 0x0104 s))) ∧
    (mine → req m 8 8 % 64 = 0 → (adoptReport s).length ≤ req m 16 8 → ok = false →
      exec (.adopt i ok) s = .next (adoptOver (cmdFail i.val 0x0110 s))) ∧
    ((∀ e ∈ s.hif.slots, e.2.unruled = false) → adoptOver s = s) ∧
    (mine → req m 8 8 % 64 = 0 → (adoptReport s).length ≤ req m 16 8 → ok = true →
      ∃ t p, exec (.adopt i ok) s = .next (adoptOver (cmdDone i.val p t)) ∧ t.hif.state = .owned ∧
        t.hif.epoch = (s.hif.epoch + 1) % 2 ^ 32 ∧ t.hif.lastBeat = croak s ∧ fieldAt p 0 4 = t.hif.epoch ∧
        t.hostMem = memWrite s.hostMem (req m 8 8) (adoptReport s) ∧ t.newts = s.newts ∧
        t.jobs = s.jobs.map (fun e => (e.1, { e.2 with ringGiven := e.2.ringGiven && e.2.held.isEmpty })) ∧
        t.hif.evGiven = (s.hif.evGiven && s.hif.held.isEmpty) ∧
        (bitOf (req m 4 1) 0 = true → t.pool = s.pool)))

/-- JOB_CHECKPOINT of an unknown handle, or of a job that has no scheduled program, is stopped or is neither ARMED nor
RUNNING, answers 0x0109, and one to a range that the host may not name 0x010F; any other is accepted: it waits for
the pause, the job holds its address and limit, and posts to the job are refused with 0x010D from then on.
PAUSE_REQUEST asks the span to pause once every posted collective of the job has reported; in the pad whose epoch
byte is being sampled it counts for that epoch. CHECKPOINT_WRITE, in the pause and with every scheduled newt at
rest, stores the checkpoint in Lovor memory and replies with its size and epoch where it fits, and answers 0x0114
where it does not; posts are then accepted again. JOB_RESUME fails with the first check that fails, and otherwise
restores the checkpoint, replies with the croak count and the checkpoint's epoch, and arms the job and the schedule
unit at the launch count with the checkpoint's seed and epoch. A poisoned header or block of the checkpoint ends
JOB_RESUME with 0x0D01. COLL_POST fails with the first check that fails (with 0x0408, which names the quarantined
object, where the image's SYNCMAP names one; with the code of a poisoned block), and otherwise replies with the
collective's id, its commit chip and the croak count, and the collective is known on the chip under the job, and
compared with the posts of it that were heard of before. (06_schedule_and_determinism.md (R213, R215);
13_host_interface.md (R431, R433, R434, Table 13-4); 04_collectives.md (R137, R140); 05_synchronisation.md (R183);
12_memory_pools_dma.md (R387).) -/
def Obligations.CheckpointAndPost : Prop :=
  (∀ (i : Fin 256) (s : State), runnable 0x23 i.val s = true →
    let m := mslot s i.val
    (jobOf (req m 0 8) s = none → exec (.jobCheckpoint i) s = .next (cmdFail i.val 0x0109 s)) ∧
    (∀ j, jobOf (req m 0 8) s = some j →
      (job s j).sched = false ∨ (job s j).stopped = true ∨ ((job s j).state ≠ .armed ∧ (job s j).state ≠ .running) →
      exec (.jobCheckpoint i) s = .next (cmdFail i.val 0x0109 s)) ∧
    (∀ j, jobOf (req m 0 8) s = some j → (job s j).sched = true → (job s j).stopped = false →
      (job s j).state = .armed ∨ (job s j).state = .running →
      (hostRange s (req m 8 8) (req m 16 8) = false → exec (.jobCheckpoint i) s = .next (cmdFail i.val 0x010F s)) ∧
      (hostRange s (req m 8 8) (req m 16 8) = true → exec (.jobCheckpoint i) s =
        .next (setMslot i.val { m with work := .waiting } (setJob j { job s j with
          ckptPending := some i.val, ckptAddr := req m 8 8, ckptLimit := req m 16 8 } s))))) ∧
  (∀ (i : Fin 256) (j : Nat) (s : State), runnable 0x30 i.val s = true → s.fw.recovery = false →
    jobOf (req (mslot s i.val) 0 8) s = some j → (job s j).ckptPending.isSome = true →
    (job s j).state = .armed ∨ (job s j).state = .running → (job s j).finishing = false → (job s j).stopped = false →
    exec (.collPost i) s = .next (cmdFail i.val 0x010D s)) ∧
  (∀ (j : Nat) (s : State), up s = true → s.sch.job = some j → (job s j).ckptPending.isSome = true →
    s.sch.state = .run ∨ s.sch.state = .frozen ∨ s.sch.state = .armed →
    ((∀ e ∈ jobColls s j, e.2.posted = true → e.2.reported = true) →
      exec .pauseRequest s = .next { s with sch := { s.sch with
        pausePend := true
        fbl62 := if s.sch.state = .run ∧ s.sch.sampled = some s.sch.jp
          then epochBytes s.sch.fbl62 (s.therm.want + 4 + 8 * ((s.sch.epoch + 1) % 32)) else s.sch.fbl62 } }) ∧
    ((∃ e ∈ jobColls s j, e.2.posted = true ∧ e.2.reported = false) → exec .pauseRequest s = .next s)) ∧
  (∀ (i : Fin 256) (j : Nat) (s : State), up s = true → s.sch.job = some j → (job s j).ckptPending = some i.val →
    s.sch.state = .paused → (∀ n ∈ scheduledNewts s, (newt s n).pausePend = false ∧ (newt s n).inflight = []) →
    let c := checkpoint s j
    let t := setJob j { job s j with ckptPending := none } s
    ((job s j).ckptLimit < c.length → exec (.checkpointWrite i) s = .next (cmdFail i.val 0x0114 t)) ∧
    (c.length ≤ (job s j).ckptLimit → exec (.checkpointWrite i) s =
      .next (cmdDone i.val (rp 16 (leBytes 8 c.length ++ leBytes 8 s.sch.epoch)) (lovStore (job s j).ckptAddr c t)))) ∧
  (∀ (i : Fin 256) (s : State), runnable 0x24 i.val s = true →
    let m := mslot s i.val
    let a := req m 8 8
    (∀ p, resumeFails s (req m 0 8) a = some 0x010F → ckHeadPoison s a = some p →
      exec (.jobResume i) s = .next (reply i.val 0x0D01 [] (stkUe p s))) ∧
    (∀ c, resumeFails s (req m 0 8) a = some c → c ≠ 0x010F ∨ ckHeadPoison s a = none →
      exec (.jobResume i) s = .next (cmdFailWith i.val (launchOcc i.val c (req m 16 8) s) s)) ∧
    (∀ n p, resumeFails s (req m 0 8) a = none → ckLength s a = some n → poisonAt s a n = some p →
      exec (.jobResume i) s = .next (reply i.val 0x0D01 [] (stkUe p s))) ∧
    (∀ n, resumeFails s (req m 0 8) a = none → ckLength s a = some n → poisonAt s a n = none →
      (∀ c, resumeRefused s (lovRead s a n) (req m 16 8) = some c →
        exec (.jobResume i) s = .next (cmdFailWith i.val (launchOcc i.val c (req m 16 8) s) s)) ∧
      (∀ j, resumeRefused s (lovRead s a n) (req m 16 8) = none → jobOf (req m 0 8) s = some j →
        ∃ t, t = resumeJob j (req m 16 8) (lovRead s a n) s ∧
          exec (.jobResume i) s = .next (cmdDone i.val (leBytes 8 (croak s) ++ leBytes 8 (ckEpoch (lovRead s a n))) t) ∧
          (s.Wf → (job t j).state = .armed ∧ (job t j).sched = true ∧ (job t j).launchL = req m 16 8 ∧
            (job t j).handle = (job s j).handle ∧ (job t j).seed = BitVec.ofNat 64 (fieldAt (lovRead s a n) 112 8) ∧
            t.sch.state = .armed ∧ t.sch.job = some j ∧ t.sch.launchL = req m 16 8 ∧
            t.sch.epoch = ckEpoch (lovRead s a n))))) ∧
  (∀ (i : Fin 256) (s : State), runnable 0x30 i.val s = true →
    let m := mslot s i.val
    let d := postDesc m
    let id := fieldAt d 0 3
    (∀ c, postFails s (req m 0 8) id = some c → c ≠ 0x0408 → exec (.collPost i) s = .next (cmdFail i.val c s)) ∧
    (postFails s (req m 0 8) id = some 0x0408 →
      exec (.collPost i) s = .next (cmdFailWith i.val (launchOcc i.val 0x0408 0 s) s)) ∧
    (postFails s (req m 0 8) id = none → postRanges s d = none →
      exec (.collPost i) s = .next (cmdFail i.val 0x010F s)) ∧
    (∀ rs r p, postFails s (req m 0 8) id = none → postRanges s d = some rs →
      rs.find? (fun r => poisoned s r.1 r.2) = some r → poisonAt s r.1 r.2 = some p →
      exec (.collPost i) s = .next (reply i.val 0x0D01 [] (stkUe p s))) ∧
    (∀ rs j, postFails s (req m 0 8) id = none → postRanges s d = some rs →
      (∀ r ∈ rs, poisoned s r.1 r.2 = false) → jobOf (req m 0 8) s = some j →
      let o := postObjs s d rs
      (∀ c, postCheck s j d o = some c → exec (.collPost i) s = .next (cmdFail i.val c s)) ∧
      (postCheck s j d o = none → ∃ t p, exec (.collPost i) s = .next (cmdDone i.val p t) ∧
        fieldAt p 0 3 = id ∧ fieldAt p 4 2 = commitChipOf d o.group % 65536 ∧ fieldAt p 8 8 = croak s % 2 ^ 64 ∧
        t = memberCheck [id] (postsHeard (postMessages id d o (setColl id (postColl s j d o) s))) ∧
        (s.Wf → (coll t id).job = j ∧ (coll t id).desc = d ∧ (coll t id).group = o.group ∧ (coll t id).posted = true ∧
          (coll t id).commitChip = commitChipOf d o.group))))

/-- FW_STAGE begins to read an image unless a molt or another FW_STAGE is in progress (0x0C06) or it is over 32 MiB
(0x0C01). FW_MOLT fails with the first check of Table 14-8 that fails, runs the staged image at once in recovery,
and otherwise copies it to the working memory, fails with 0x0C01 where its BODYDIG does not match, and waits for the
hand-over. SELFTEST fails with 0x0C0E on a bad range or no test, 0x0C0F on a window too short and 0x0111 on a busy
unit, and otherwise reserves the newts it tests and waits; SELFTEST_DONE records 0x0C10 for every failed test, frees
the units and replies with the counts. CAL_WRITE begins to read the set. That a second FW_STAGE answers 0x0C06 (log
80), that a unit under test is busy and what counts as a failure of this test (log 83), and that 0x0C0F comes before
0x0111, are the model's choices. (14_firmware_and_lifecycle.md (R447, R449, R455, R456, R462, R463, R466);
notes/assumptions/80.md; notes/assumptions/83.md.) -/
def Obligations.FirmwareCommands : Prop :=
  (∀ (i : Fin 256) (s : State), runnable 0x50 i.val s = true → req (mslot s i.val) 0 8 % 64 = 0 →
    let m := mslot s i.val
    (s.fw.molt ≠ .none ∨ cmdActive s 0x50 = true → exec (.fwStage i) s = .next (cmdFail i.val 0x0C06 s)) ∧
    (s.fw.molt = .none → cmdActive s 0x50 = false → 2 ^ 25 < req m 8 8 →
      exec (.fwStage i) s = .next (cmdFailAt i.val 0x0C01 3 s)) ∧
    (s.fw.molt = .none → cmdActive s 0x50 = false → req m 8 8 ≤ 2 ^ 25 →
      exec (.fwStage i) s = .next (setMslot i.val { m with work := .transfer } s))) ∧
  (∀ (i : Fin 256) (s : State), runnable 0x51 i.val s = true →
    let ver := req (mslot s i.val) 0 8
    (∀ c n, moltCheck s ver = some (c, n) → exec (.fwMolt i) s = .next (cmdFailAt i.val c n s)) ∧
    (moltCheck s ver = none → s.fw.recovery = true → ∃ t, exec (.fwMolt i) s =
      .next (cmdDone i.val (rp 16 (wordBytes t.fw.ver)) t) ∧ t.fw.ver.toNat = ver ∧ t.fw.recovery = false ∧ t.fw.staged = none) ∧
    (moltCheck s ver = none → s.fw.recovery = false → fiBody (stagedImage s) = false →
      exec (.fwMolt i) s = .next (cmdFailAt i.val 0x0C01 4 s)) ∧
    (moltCheck s ver = none → s.fw.recovery = false → fiBody (stagedImage s) = true → exec (.fwMolt i) s =
      .next (modMslot i.val (fun m => { m with work := .waiting })
        { s with fw := { s.fw with molt := .waiting, moltSlot := i.val, copy := stagedImage s } }))) ∧
  (∀ (i : Fin 256) (s : State), runnable 0x60 i.val s = true →
    let m := mslot s i.val
    let k := req m 0 1
    let a := req m 2 2
    let n := req m 4 2
    let bad := n = 0 ∨ testUnits k < a + n ∨ req m 12 4 % 2 ^ (testTimes k).length = 0
    (bad → exec (.selftest i) s = .next (cmdFail i.val 0x0C0E s)) ∧
    (¬ bad → req m 8 4 < testWindow k (req m 12 4) → exec (.selftest i) s = .next (cmdFail i.val 0x0C0F s)) ∧
    (¬ bad → testWindow k (req m 12 4) ≤ req m 8 4 → (∃ j, j < n ∧ unitTestBusy s k (a + j) = true) →
      exec (.selftest i) s = .next (cmdFail i.val 0x0111 s)) ∧
    (s.Wf → ¬ bad → testWindow k (req m 12 4) ≤ req m 8 4 → (∀ j, j < n → unitTestBusy s k (a + j) = false) →
      ∃ t, exec (.selftest i) s = .next t ∧ mslot t i.val = { m with work := .waiting, scratch := [k, a, n] } ∧
        (∀ x, newt t x = if k = 0 ∧ a ≤ x ∧ x < a + n then { newt s x with reserved := true } else newt s x) ∧
        t = { s with newts := t.newts, hif := { s.hif with slots := t.hif.slots } })) ∧
  (∀ (i : Fin 256) (failed : List (Nat × Nat)) (s : State), s.Wf → up s = true →
    let m := mslot s i.val
    m.work = .waiting → slotCmd m = 0x60 → m.scratch.length = 3 →
    ∃ t p, exec (.selftestDone i failed) s = .next (cmdDone i.val p t) ∧
      (∀ e ∈ failed, m.scratch.getD 1 0 ≤ e.1 → e.1 < m.scratch.getD 1 0 + m.scratch.getD 2 0 → bitOf (req m 12 4) e.2 = true →
        e.2 < (testTimes (m.scratch.getD 0 0)).length → (rasRec t 0x0C10).set = true) ∧
      (let fs := failed.filter (fun e => decide (m.scratch.getD 1 0 ≤ e.1 ∧ e.1 < m.scratch.getD 1 0 + m.scratch.getD 2 0) &&
          bitOf (req m 12 4) e.2 && decide (e.2 < (testTimes (m.scratch.getD 0 0)).length))
       let units := (fs.map (·.1)).foldl insertNat []
       fieldAt p 0 4 = (m.scratch.getD 2 0 - units.length) % 2 ^ 32 ∧ fieldAt p 4 4 = units.length % 2 ^ 32 ∧
         fieldAt p 8 2 = units.headD 0xFFFF % 65536) ∧
      (failed = [] → t.ras = s.ras) ∧
      (∀ x, newt t x = if m.scratch.getD 0 0 = 0 ∧ m.scratch.getD 1 0 ≤ x ∧ x < m.scratch.getD 1 0 + m.scratch.getD 2 0
        then { newt s x with reserved := false } else newt s x)) ∧
  (∀ (i : Fin 256) (s : State), runnable 0x71 i.val s = true →
    (req (mslot s i.val) 0 8 % 64 ≠ 0 → exec (.calWrite i) s = .next (cmdFail i.val 0x010F s)) ∧
    (req (mslot s i.val) 0 8 % 64 = 0 →
      exec (.calWrite i) s = .next (setMslot i.val { mslot s i.val with work := .transfer } s)))

/-- A failed host-memory access fails its command with 0x0110. A copy that ends well stores its bytes in host memory and
replies; a run record's close frees its job slot. A file read for LOAD_LAYOUT fails with its check's code or is
staged: the parts of the file that the chip keeps, in the staging region of Lovor memory; one read for FW_STAGE or
CAL_WRITE goes to flash. A flash write that ends well completes its command; the status of one that fails is one of
the codes of Table 15-3, a free value (logs 2 and 69). Where in flash a kept file goes, and that it is staged when
its write ends, are the model's choices (log 72). (13_host_interface.md (R430); 07_layout_image.md (R242, R243);
14_firmware_and_lifecycle.md (R447, R465, R466, R469); 12_memory_pools_dma.md (R384); 15_errors_and_registers.md
(R485); notes/assumptions/2.md; notes/assumptions/69.md; notes/assumptions/72.md.) -/
def Obligations.TransfersEnd : Prop :=
  (∀ (i : Fin 256) (data : List Byte) (s : State), fwRuns s = true → (mslot s i.val).work = .transfer →
    slotCmd (mslot s i.val) ∈ [0x50, 0x70, 0x71, 0x80] →
    exec (.cxlIoTransferDone i false data) s = .next (cmdFail i.val 0x0110 s)) ∧
  (∀ (i : Fin 256) (data : List Byte) (s : State), fwRuns s = true → (mslot s i.val).work = .transfer →
    slotCmd (mslot s i.val) = 0x10 → exec (.cxlIoTransferDone i false data) s =
      .next (cmdFailAt i.val 0x0110 0 { s with lay := { s.lay with busy := false, lastErr := 0x0110 } })) ∧
  (∀ (i : Fin 256) (data : List Byte) (s : State), fwRuns s = true → (mslot s i.val).work = .transfer →
    slotCmd (mslot s i.val) = 0xA0 → ∃ t, exec (.cxlIoTransferDone i false data) s = .next (cmdFail i.val 0x0110 t) ∧
      t.hostMem = s.hostMem ∧ t.hif.slots = s.hif.slots ∧ t.jobs = s.jobs) ∧
  (∀ (i : Fin 256) (data : List Byte) (s : State), fwRuns s = true → (mslot s i.val).work = .transfer →
    let m := mslot s i.val
    (slotCmd m = 0x70 → exec (.cxlIoTransferDone i true data) s = .next (cmdDone i.val
      (rp 48 (leBytes 8 m.buffer.length ++ leBytes 1 (calOrigin m.buffer) ++ zeros 7 ++ shake256 m.buffer 32))
      { s with hostMem := memWrite s.hostMem (req m 0 8) m.buffer })) ∧
    (slotCmd m = 0x80 → exec (.cxlIoTransferDone i true data) s =
      .next (cmdDone i.val (rp 8 (leBytes 4 m.buffer.length))
        (if bitOf (req m 20 1) 0 then jobClose (m.scratch.getD 0 0) { s with hostMem := memWrite s.hostMem (req m 8 8) m.buffer }
         else { s with hostMem := memWrite s.hostMem (req m 8 8) m.buffer }))) ∧
    (slotCmd m = 0xA0 → s.log.snap = true → s.log.snapEarly = none → (∀ e ∈ s.hif.slots, e.1 ≠ i.val → e.2.work ≠ .transfer) →
      ∃ t, exec (.cxlIoTransferDone i true data) s = .next (cmdDone i.val
        (rp 16 (leBytes 8 (64 * m.scratch.getD 1 0) ++ leBytes 8 (m.scratch.getD 0 0))) t) ∧
        t.hostMem = memWrite s.hostMem (req m 0 8) (m.buffer.take (64 * m.scratch.getD 1 0)) ∧ t.log.snap = false ∧
        t.log.staging = [] ∧ t.jobs = s.jobs ∧ t.newts = s.newts) ∧
    (slotCmd m = 0x50 → data.length = req m 8 8 → exec (.cxlIoTransferDone i true data) s =
      .next (modMslot i.val (fun m => { m with work := .flash, buffer := data })
        (modFwSlot (standbySlot s) (fun v => { v with committed := false, image := [] }) { s with fw := { s.fw with staged := none } }))) ∧
    (slotCmd m = 0x71 → data.length = req m 8 8 →
      (∀ c, calCheck s m data = some c → exec (.cxlIoTransferDone i true data) s = .next (cmdFail i.val c s)) ∧
      (calCheck s m data = none → exec (.cxlIoTransferDone i true data) s =
        .next (setMslot i.val { m with work := .flash, buffer := data.set 10 1 } s))) ∧
    (slotCmd m = 0x10 → data.length = req m 8 8 →
      let u := { s with lay := { s.lay with busy := false } }
      (∀ c, loadCheck s data (req m 8 8) (loadCoord m) (loadKeep m) = some c → exec (.cxlIoTransferDone i true data) s =
        .next (cmdFailAt i.val c (loadChkNum s data c) { u with lay := { u.lay with lastErr := c } })) ∧
      (loadCheck s data (req m 8 8) (loadCoord m) (loadKeep m) = none → loadKeep m = false →
        let k := keptFile data (loadCoord m)
        let v := lovStore 0 k s
        exec (.cxlIoTransferDone i true data) s = .next (cmdDone i.val (rp 40 (imFp data ++ leBytes 1 (imKind data)))
          { v with lay := { v.lay with
              staged := some k, stagedCoord := loadCoord m, stagedKind := imKind data, busy := false, lastErr := 0
              stagedSigned := decide (imSig data ≠ 0) && s.fuse.custkey.isSome } })) ∧
      (loadCheck s data (req m 8 8) (loadCoord m) (loadKeep m) = none → loadKeep m = true →
        ∃ t, exec (.cxlIoTransferDone i true data) s = .next (modMslot i.val (fun m => { m with work := .flash, buffer := data }) t) ∧
          t = { s with lay := { s.lay with storeA := t.lay.storeA, storeB := t.lay.storeB } } ∧
          (if storeANewer s then t.lay.storeA = s.lay.storeA ∧ t.lay.storeB = {}
           else t.lay.storeA = {} ∧ t.lay.storeB = s.lay.storeB)))) ∧
  (∀ (i : Fin 256) (s : State), fwRuns s = true → (mslot s i.val).work = .flash →
    let m := mslot s i.val
    (slotCmd m = 0x50 → ∀ c, fiCheck s m.buffer = some c → exec (.flashWriteDone i true) s =
      .next (cmdFailAt i.val c (fiCheckNum m.buffer c) (modFwSlot (standbySlot s) (fun v => { v with image := m.buffer }) s))) ∧
    (slotCmd m = 0x50 → fiCheck s m.buffer = none → ∃ t, exec (.flashWriteDone i true) s = .next (cmdDone i.val
        (rp 48 (leBytes 1 (standbySlot s) ++ zeros 7 ++ leBytes 8 (fiVer m.buffer) ++ shake256 m.buffer 32)) t) ∧
      t.fw.staged = some (standbySlot s) ∧ (fwSlot t (standbySlot s)).image = m.buffer ∧ t = { s with fw := t.fw }) ∧
    (slotCmd m = 0x71 → ∃ t, exec (.flashWriteDone i true) s = .next (cmdDone i.val (rp 8 (leBytes 1 1)) t) ∧
      t.cal.set = m.buffer ∧ t.cal.valid = true ∧ t.cal.sensorOff = calOffsets m.buffer ∧
      (s.cal.inUse = 0 → t.cal.copy0 = none ∧ t.cal.copy1 = some ⟨m.buffer, shake256 m.buffer 32⟩ ∧ t.cal.inUse = 1) ∧
      (s.cal.inUse ≠ 0 → t.cal.copy0 = some ⟨m.buffer, shake256 m.buffer 32⟩ ∧ t.cal.copy1 = none ∧ t.cal.inUse = 0) ∧
      t.quads = s.quads ∧ t.jobs = s.jobs) ∧
    (slotCmd m = 0x10 → ∃ t, exec (.flashWriteDone i true) s =
        .next (cmdDone i.val (rp 40 (imFp m.buffer ++ leBytes 1 (imKind m.buffer))) t) ∧
      t.lay.staged = some (keptFile m.buffer (loadCoord m)) ∧ t.lay.busy = false ∧ (storeOther t).complete = true ∧
      (if storeANewer s then t.lay.storeB.file = m.buffer else t.lay.storeA.file = m.buffer) ∧ t.jobs = s.jobs) ∧
    (slotCmd m ∈ [0x50, 0x71] →
      exec (.flashWriteDone i false) s = .next (cmdFail i.val (flashCode s) { s with free := s.free + 1 })) ∧
    (slotCmd m = 0x10 → exec (.flashWriteDone i false) s = .next (cmdFailAt i.val (flashCode s) 0
      { s with free := s.free + 1, lay := { s.lay with busy := false, lastErr := flashCode s } })) ∧
    definedCode (flashCode s) = true)

/-- A fuse action that a rule of R450 refuses raises 0x0C11 and programs nothing; an accepted one runs, and its end
programs the four key words, SIGREQ, or the running image's security version where it is the greater. An attestation
with none in progress takes its report, in every host state but BOOTING; its end writes the report at its address or
records 0x0C17. That the report is formed at GO (log 84) and the fuses change at the action's end (log 82) are the
model's choices. (14_firmware_and_lifecycle.md (R450, R454); notes/assumptions/82.md; notes/assumptions/84.md.) -/
def Obligations.FusesAndAttestation : Prop :=
  (∀ (a : Nat) (c : Instr) (b : Byte) (s : State), up s = true →
    (a = 1 ∧ c = .progCustkey b) ∨ (a = 2 ∧ c = .setSigreq b) ∨ (a = 3 ∧ c = .raiseSvn b) →
    (fuseRefused s a b.toNat = true → ∃ t, exec c s = .next t ∧ (rasRec t 0x0C11).set = true ∧
      t.fuse.custkey = s.fuse.custkey ∧ t.fuse.sigreq = s.fuse.sigreq ∧ t.fuse.svn = s.fuse.svn ∧ t.fuse.busy = s.fuse.busy) ∧
    (fuseRefused s a b.toNat = false → exec c s = .next { s with fuse := { s.fuse with busy := some a, status := 0 } }) ∧
    (s.hif.state ≠ .owned ∨ jobBusy s = true ∨ b ≠ 0xA5 → fuseRefused s a b.toNat = true)) ∧
  (∀ (a : Nat) (s : State), up s = true → s.fuse.busy = some a → ∃ t, exec .fuseActionDone s = .next t ∧
    t.fuse.busy = none ∧ t.fuse.done = true ∧ t.fuse.status = 0 ∧
    t.fuse.custkey = (if a = 1 then some (s.fuse.key.flatMap wordBytes) else s.fuse.custkey) ∧
    t.fuse.sigreq = (s.fuse.sigreq || a == 2) ∧
    t.fuse.svn = (if a = 3 then max s.fuse.svn (min 63 (runningSvn s)) else s.fuse.svn) ∧
    t.pending = s.pending ∧ t.jobs = s.jobs ∧ t.ras = s.ras) ∧
  (∀ s : State, s.att.busy = false → s.hif.state ≠ .booting → up s = true →
    exec .attestGo s = .next { s with att := { s.att with busy := true, report := attReport s } }) ∧
  (∀ s : State, up s = true → s.att.busy = true →
    exec (.attestDone true) s = .next { s with
      att := { s.att with busy := false, done := true, doneAt := some (croak s), status := 0, report := [] }
      hostMem := memWrite s.hostMem (s.att.addr.toNat / 64 * 64) s.att.report } ∧
    ∃ t, exec (.attestDone false) s = .next t ∧ t.att.busy = false ∧ t.att.status = 0x0C17 ∧ (rasRec t 0x0C17).set = true ∧
      t.hostMem = s.hostMem)

/-- At a hand-over point with nothing blocking, the pause begins with the state blob, whose contents are free values
(log 2); a condition that no longer holds fails the molt. The end of the pause runs the staged image where it can
take the blob, takes the inbox, commits its slot and completes FW_MOLT; where it cannot, and at a timeout, the old
image goes on with 0x0C08. A timeout leaves the old image running with 0x0C08. A watchdog expiry loses the control
complex, drives FAULT_N low, records 0x0C12 and takes every link down. Firmware that runs takes a MGMT packet at
once (log 81): one that tells of another chip's post (log 154) is compared with this chip's own, or kept until there
is one, and aborts the collective with 0x0A06 where the digests differ. While the firmware does not run, MGMT
packets wait in the inbox, and one beyond 16,384 is lost and counted. (14_firmware_and_lifecycle.md (R443, R444,
R456, R457, R458, R459); 13_host_interface.md (R434); notes/assumptions/2.md; notes/assumptions/81.md;
notes/assumptions/154.md.) -/
def Obligations.FirmwareEvents : Prop :=
  (∀ s : State, up s = true → s.fw.molt = .waiting → handoverPoint s = true →
    (s.fw.emerg = false → moltBlocked s = false → majorBlocked s = false →
      exec .moltHandover s = .next { s with free := s.free + 1, fw := { s.fw with molt := .paused, blob := moltBlob s } }) ∧
    (s.fw.emerg = true → exec .moltHandover s =
      .next (cmdFailAt s.fw.moltSlot 0x0112 5 { s with fw := { s.fw with molt := .none } })) ∧
    (s.fw.emerg = false → moltBlocked s = true → exec .moltHandover s =
      .next (cmdFailAt s.fw.moltSlot 0x0C06 2 { s with fw := { s.fw with molt := .none } })) ∧
    (s.fw.emerg = false → moltBlocked s = false → majorBlocked s = true → exec .moltHandover s =
      .next (cmdFailAt s.fw.moltSlot 0x0C07 4 { s with fw := { s.fw with molt := .none } }))) ∧
  (∀ s : State, up s = true → s.fw.molt ≠ .waiting ∨ handoverPoint s = false → exec .moltHandover s = .next s) ∧
  (∀ (ns : Nat) (s : State), up s = true → s.fw.molt = .paused →
    let ended := takeInbox (pauseOver { s with fw := { s.fw with molt := .none } })
    (blobTaken s = true → exec (.moltPauseEnd ns) s = .next (scan (cmdDone s.fw.moltSlot
      (rp 16 (wordBytes (moltCommit ended).fw.ver ++ leBytes 4 ns)) (moltCommit ended)))) ∧
    (blobTaken s = false → exec (.moltPauseEnd ns) s = exec .moltTimeout s) ∧
    exec .moltTimeout s = .next (logOpen 1 6 (cmdFail s.fw.moltSlot 0x0C08 ended)) ∧
    (s.fw.orphanDue = 0 → (∀ p ∈ s.fw.inbox, postOf p = none) →
      ended.fw.molt = .none ∧ ended.fw.inbox = [] ∧ ended.fw.staged = s.fw.staged ∧ ended.fw.ver = s.fw.ver ∧
      ended.fw.slot = s.fw.slot ∧ ended.hif.state = s.hif.state ∧ ended.jobs = s.jobs ∧
      (∀ k, s.fw.staged = some k → let t := moltCommit ended
        t.fw.ver = BitVec.ofNat 64 (fiVer (fwSlot s k).image) ∧ t.fw.slot = k ∧ t.fw.staged = none ∧ t.fw.molt = .none ∧
        t.fw.inbox = [] ∧ (fwSlot t k).committed = true ∧ t.hif.state = s.hif.state ∧ t.jobs = s.jobs))) ∧
  (∀ (k : Fin 8) (s : State), s.Wf → fwRuns s = true → ∃ t, exec (.watchdogExpiry k) s = .next t ∧ t.fw.lost = true ∧
    t.pins.faultN = false ∧ (rasRec t 0x0C12).set = true ∧ fwRuns t = false ∧
    (∀ q, q < 128 → (quad t q).state = .down)) ∧
  (∀ (p : Packet) (s : State), up s = true → p.cls = 4 →
    (fwRuns s = true → postOf p = none → exec (.mgmtInboxArrival p) s = .next s) ∧
    (∀ h, fwRuns s = true → postOf p = some h →
      (postMatches s h = false →
        exec (.mgmtInboxArrival p) s = .next { s with fw := { s.fw with posts := s.fw.posts ++ [h] } }) ∧
      (postMatches s h = true → h.digest = (coll s h.coll).postDig → exec (.mgmtInboxArrival p) s = .next s) ∧
      (postMatches s h = true → h.digest ≠ (coll s h.coll).postDig → exec (.mgmtInboxArrival p) s =
        .next (abortReq h.coll 0x0A06 { fchip := fchipOf h.chip, fkind := 6 } s))) ∧
    (fwRuns s = false → s.fw.inbox.length < 16384 →
      exec (.mgmtInboxArrival p) s = .next { s with fw := { s.fw with inbox := s.fw.inbox ++ [p] } }) ∧
    (fwRuns s = false → 16384 ≤ s.fw.inbox.length → exec (.mgmtInboxArrival p) s =
      .next { s with fw := { s.fw with inboxLost := min 0xFFFF (s.fw.inboxLost + 1) } }))

/-- While the firmware runs and the log is ready with no snapshot running, LOG_ENTRY_WRITE puts an entry of type 0 to 4
into the ring at HEAD and advances HEAD, changing no other byte of memory; while a snapshot runs the entry is
staged, and a trace entry that finds the staging buffer full is dropped and counted; before the log is ready the
entry is queued. A trace entry whose id is not enabled is not written. With no entry it writes the queued ones,
oldest first. POWER_TRACE writes an entry of core 3 for each of the trace ids 576 to 580 that is enabled, in this
order: the power of rails 0 to 9 in 4 bytes each, then the temperatures of sensors 0 to 19, 20 to 39, 40 to 59 and
60 to 63 in 2 bytes each (CORE of an entry: log 62). DENSITY_POLL holds one event of type 6 with level and epoch for
each change of density, oldest first, and forgets them. ADAPTIVE_SHAPING sets the rate of every enabled subscriber
node with RATE_LO below RATE_HI that shares its port and class with another such node to a value between its limits,
fills the tokens of a node whose rate changes, starts a new period for every node, and changes nothing else; it
changes nothing at all when it is off. (14_firmware_and_lifecycle.md (R460, R467, R468, R469, R483);
16_electrical_and_package.md (R508); 10_traffic_shaping.md (R344); 13_host_interface.md (R436);
notes/assumptions/62.md.) -/
def Obligations.FirmwarePolicies : Prop :=
  (∀ (e : LogInput) (s : State), fwRuns s = true → s.log.ready = true → e.typ ≤ 4 → (e.typ = 2 → traceOn s e.id = true) →
    let item : LogItem := { typ := e.typ, core := e.core % 256, id := e.id % 65536, croak := croak s, data := e.data.take 40 }
    (s.log.snap = false → ∃ t, exec (.logEntryWrite (some e)) s = .next t ∧ t.log = { s.log with head := s.log.head + 1 } ∧
      t = { s with log := t.log, lov := { s.lov with mem := t.lov.mem, poison := t.lov.poison } } ∧
      (s.Wf → ∀ a, memByte t.lov.mem a =
        (let b := logBase + 64 * (s.log.head % 65536)
         if b ≤ a ∧ a < b + 64 then (logEntry s.log.head item).getD (a - b) 0 else memByte s.lov.mem a))) ∧
    (s.log.snap = true → s.log.staging.length < 4096 → exec (.logEntryWrite (some e)) s =
      .next { s with log := { s.log with staging := s.log.staging ++ [item] } }) ∧
    (s.log.snap = true → 4096 ≤ s.log.staging.length → e.typ = 2 → exec (.logEntryWrite (some e)) s =
      .next { s with log := { s.log with trdrop := (s.log.trdrop + 1) % 2 ^ 32 } })) ∧
  (∀ (e : LogInput) (s : State), fwRuns s = true → s.log.ready = false → e.typ ≤ 4 → (e.typ = 2 → traceOn s e.id = true) →
    exec (.logEntryWrite (some e)) s = .next { s with log := { s.log with queued := s.log.queued ++
      [{ typ := e.typ, core := e.core % 256, id := e.id % 65536, croak := croak s, data := e.data.take 40 }] } }) ∧
  (∀ (e : LogInput) (s : State), fwRuns s = true → e.typ = 2 → traceOn s e.id = false →
    exec (.logEntryWrite (some e)) s = .next s) ∧
  (∀ s : State, fwRuns s = true → s.log.ready = true → exec (.logEntryWrite none) s =
    .next (s.log.queued.foldl (fun t e => logNow e t) { s with log := { s.log with queued := [] } })) ∧
  (∀ s : State, fwRuns s = true → s.log.ready = true →
    let temps (a n : Nat) : List Byte :=
      (List.range n).flatMap (fun i => leBytes 2 (unsigned 16 (tget 0 s.therm.temps (a + i))))
    let entries : List (Nat × List Byte) := [(576, s.therm.railMw.flatMap (leBytes 4)), (577, temps 0 20), (578, temps 20 20),
      (579, temps 40 20), (580, temps 60 4)]
    exec .powerTrace s = .next ((entries.filter (fun e => traceOn s e.1)).foldl
      (fun t e => logNow { typ := 2, core := 3, id := e.1, croak := croak s, data := e.2 } t) s)) ∧
  (∀ s : State, fwRuns s = true → exec .densityPoll s = .next (s.therm.density.foldl
    (fun t e => pushEvent 6 (leBytes 1 e.1 ++ leBytes 8 e.2) t) { s with therm := { s.therm with density := [] } })) ∧
  (∀ s : State, fwRuns s = false ∨ s.fw.recovery = true ∨ s.fw.shape = false → exec .adaptiveShaping s = .next s) ∧
  (∀ s : State, s.Wf → fwRuns s = true → s.fw.recovery = false → s.fw.shape = true → ∃ t, exec .adaptiveShaping s = .next t ∧
    t = { s with shp := { s.shp with nodes := t.shp.nodes } } ∧
    ∀ n, let v := snode s n
      if 0x4000 ≤ n ∧ v.en = true ∧ v.lo < v.hi ∧ (∃ e ∈ shapeNodes s, e.1 ≠ n ∧ e.2.port = v.port ∧ e.2.cls = v.cls) then
        v.lo ≤ (snode t n).rate ∧ (snode t n).rate ≤ v.hi ∧ snode t n = { v with
          rate := shapeRate v, tokens := if shapeRate v = v.rate then v.tokens else 8000 * v.burst, heldPrev := v.held }
      else snode t n = { v with heldPrev := v.held })

/-- In a running chip a write of BAR0 that is not an aligned 64-bit write (nor an aligned 32-bit one in the two ranges
that take them) raises 0x0101 and stores nothing (that widths 1, 2 and over 8 are malformed is log 100). A plain
register is stored and reads back: GLB_UNITMAP_SEL its seven bits, and a 32-bit write of the MSI-X table the half of
the word it addresses. A write of a read-only register changes nothing; a 64-bit write at the offset of a register
that has a command of its own is that command. GLB_MONKEY stores a key word and locks the monitor, GLB_MONCTL.LOCK
locks it. RAS_INJECT in OWNED with a defined code and kind records an injected occurrence and sets no sticky bit,
and is refused with 0x0101 otherwise. Clearing a record that no occurrence of this cycle has raised clears all of
its fields (the time of its last log entry apart) and no other record. Where occurrences of this cycle have raised
it, they set it afresh, with COUNT theirs alone, and are routed as first ones (R476; that one croak count is one
cycle is log 151). (00_scope.md (R8 to R11); 01_architecture.md (Table 1-5); 13_host_interface.md (R440);
15_errors_and_registers.md (Table 15-7, R476, R477, R484, R487); 14_firmware_and_lifecycle.md (R471);
notes/assumptions/100.md; notes/assumptions/151.md.) -/
def Obligations.RegisterWrites : Prop :=
  (∀ (o width : Nat) (w : Word) (s : State), up s = true → o < 0x4000000 → ¬ (width = 8 ∧ o % 8 = 0) →
    ¬ (width = 4 ∧ o % 4 = 0 ∧ halfWritable o = true) → exec (.registerWrite o w width) s = .next (raise { code := 0x0101 } s)) ∧
  (∀ (w : Word) (s : State), up s = true → ∃ t, exec (.registerWrite 0x100 w 8) s = .next t ∧ regRead t 0x100 = w.toNat % 128 ∧
    t = { s with unit := { s.unit with sel := w.toNat % 128 } }) ∧
  (∀ (v : Fin 512) (half lo : Fin 2) (w : Word) (s : State), s.Wf → up s = true → (tget msixReset s.hif.msix v.val).length = 2 →
    tget false s.hif.pba v.val = false →
    let o := 0x110000 + 16 * v.val + 8 * half.val
    let old := regRead s o
    let new := if lo.val = 0 then 2 ^ 32 * (old / 2 ^ 32) + w.toNat % 2 ^ 32 else 2 ^ 32 * (w.toNat % 2 ^ 32) + old % 2 ^ 32
    ∃ t, exec (.registerWrite (o + 4 * lo.val) w 4) s = .next t ∧ regRead t o = (if half.val = 1 then new % 2 ^ 33 else new) ∧
      (∀ k, k ≠ v.val → tget msixReset t.hif.msix k = tget msixReset s.hif.msix k) ∧
      t = { s with hif := { s.hif with msix := t.hif.msix } }) ∧
  (∀ (o : Nat) (w : Word) (s : State), o ∈ [0, 8, 0x10, 0x200, 0x308, 0x100000, 0x100010, 0x1C00000, 0x1C00008, 0x1C00010, 0x3000000] →
    exec (.registerWrite o w 8) s = .next s) ∧
  (∀ (w : Word) (s : State),
    exec (.registerWrite 0x100008 w 8) s = exec (.heartbeatWrite w) s ∧
    exec (.registerWrite 0x100018 w 8) s = exec (.hdmSizeWrite w) s ∧
    exec (.registerWrite 0x100020 w 8) s = exec (.eventRingWrite w) s ∧
    exec (.registerWrite 0x100028 w 8) s = exec (.ringReadAdvance none (bits w.toNat 31 16)) s ∧
    exec (.registerWrite 0x300300 w 8) s = exec (.poolFree w) s ∧
    exec (.registerWrite 0x3E0 w 8) s = exec (.monitorLockWrite w) s ∧
    exec (.registerWrite 0x3000010 w 8) s = exec (.rasInject w) s ∧
    (∀ i : Fin 4, exec (.registerWrite (0x3C0 + 8 * i.val) w 8) s = exec (.monitorKeyWrite i w) s) ∧
    (∀ (d : Fin 2) (p : Fin 7), exec (.registerWrite (0x300000 + 8 * (7 * d.val + p.val)) w 8) s = exec (.poolCarve d p w) s) ∧
    (∀ c : Fin 64, exec (.registerWrite (0x200000 + 64 * c.val) w 8) s = exec (.dmaRingWrite c w) s ∧
      exec (.registerWrite (0x200008 + 64 * c.val) w 8) s = exec (.dmaDoorbell c w) s) ∧
    (∀ o : Fin 8192, exec (.registerWrite (0x400030 + 64 * o.val) w 8) s = exec (.syncPost o w) s) ∧
    (∀ k : Fin 4096, exec (.registerWrite (0xC10000 + 8 * k.val) w 8) s = exec (.bankwinWrite k w) s) ∧
    (∀ (q : Fin 128) (l : Fin 4),
      exec (.registerWrite (0x1400060 + 4096 * q.val + 8 * l.val) w 8) s = exec (.lnkRqWrite q l w) s) ∧
    (∀ (c : Fin 4096), bitOf w.toNat 0 = true →
      exec (.registerWrite (0x3100000 + 64 * c.val) w 8) s = exec (.rasRecordClear c) s)) ∧
  (∀ (i : Fin 4) (w : Word) (s : State), up s = true → exec (.monitorKeyWrite i w) s = .next { s with
    mon := { s.mon with key := s.mon.key.set i.val w, keyset := true, unlocked := false } }) ∧
  (∀ (w : Word) (s : State), up s = true → exec (.monitorLockWrite w) s = .next { s with
    mon := { s.mon with unlocked := s.mon.unlocked && !bitOf w.toNat 2 } }) ∧
  (∀ (w : Word) (s : State), up s = true → bitOf w.toNat 40 = true →
    let code := bits w.toNat 15 0
    let kind := bits w.toNat 36 32
    (definedCode code = true → kind < 19 → s.hif.state = .owned → ∃ t, exec (.rasInject w) s = .next t ∧
      (rasRec t code).set = true ∧ ((rasRec s code).set = false → (rasRec t code).inj = true ∧ (rasRec t code).count = 1) ∧
      ((rasRec s code).set = true → (∀ k, (rasRec s code).cyc = some k → k.tick ≠ croak s) →
        (rasRec t code).inj = (rasRec s code).inj) ∧
      t.fw = s.fw ∧ t.dma = s.dma ∧ t.pool = s.pool ∧ t.swc = s.swc ∧ t.rte = s.rte ∧ t.shp = s.shp ∧ t.sch = s.sch ∧
      t.lay = s.lay ∧ t.hif.err = s.hif.err ∧ t.quads = s.quads ∧ t.newts = s.newts ∧ t.jobs = s.jobs) ∧
    (definedCode code = false ∨ 19 ≤ kind ∨ s.hif.state ≠ .owned →
      exec (.rasInject w) s = .next (raise { code := 0x0101 } s))) ∧
  (∀ (c : Fin 4096) (s : State), s.Wf → up s = true →
    let r := rasRec s c.val
    (r.set = false ∨ (∀ k, r.cyc = some k → k.tick ≠ croak s) → ∃ t, exec (.rasRecordClear c) s = .next t ∧
      rasRec t c.val = { logAt := r.logAt } ∧ (∀ k, k ≠ c.val → rasRec t k = rasRec s k) ∧
      t = { s with ras := { s.ras with recs := t.ras.recs } }) ∧
    (∀ k, r.set = true → r.cyc = some k → k.tick = croak s →
      (r.rtime = k.tick ∧ r.count = k.n → exec (.rasRecordClear c) s = .next s) ∧
      (¬ (r.rtime = k.tick ∧ r.count = k.n) → ∃ t, exec (.rasRecordClear c) s = .next t ∧
        (rasRec t c.val).set = true ∧ (rasRec t c.val).count = k.n ∧ (rasRec t c.val).rtime = k.tick ∧
        (rasRec t c.val).rlast = k.tick ∧ (rasRec t c.val).rsrc = k.src ∧ (rasRec t c.val).rdata = k.data ∧
        (∀ n, n ≠ c.val → rasRec t n = rasRec s n))))

/-- In a running chip POOL_FREE frees the buffer of a DMA channel at its address: a buffer of the list segment goes to
the head of its list and its first 8 bytes are overwritten with the next address (where their block stands poisoned,
an uncorrectable read), a buffer of the bitmap segment changes no byte; any other address or owner raises 0x0303 and
frees nothing. A carve write with no buffer of the die held, within the pool area, sets SIZE and LIST, and leaves 0
in the links of the die's list segments and every other byte of memory (log 103); otherwise, a LIST over 8 among the
cases (log 102), it raises 0x0305 and the carve stays. The end of a rebuild makes the list the free buffers in
rising address and clears the rebuild. (12_memory_pools_dma.md (R387, R396, R397, R400, R402);
notes/assumptions/102.md; notes/assumptions/103.md.) -/
def Obligations.PoolCommands : Prop :=
  (∀ (w : Word) (b : Buf) (s : State), s.Wf → up s = true →
    s.pool.bufs.find? (fun b => decide (b.addr = bits w.toNat 37 0)) = some b → b.owner < 64 →
    let seg := halfBase s b.half + halfList s b.half * poolBuf (b.half % 7)
    ∃ t, exec (.poolFree w) s = .next t ∧ t.pool.bufs = s.pool.bufs.filter (fun c => decide (c.addr ≠ b.addr)) ∧
      (seg ≤ b.addr → t = { s with pool := { s.pool with bufs := t.pool.bufs } }) ∧
      (b.addr < seg → tget [] t.pool.order b.half = b.addr :: tget [] s.pool.order b.half ∧
        (poisoned s b.addr 8 = true → (rasRec t 0x0D01).set = true) ∧
        (poisoned s b.addr 8 = false → lovRead t b.addr 8 = leBytes 8 ((listHead s b.half).headD 0) ∧
          (∀ a, a < b.addr ∨ b.addr + 8 ≤ a → memByte t.lov.mem a = memByte s.lov.mem a)))) ∧
  (∀ (w : Word) (s : State), up s = true →
    (∀ b, s.pool.bufs.find? (fun b => decide (b.addr = bits w.toNat 37 0)) = some b → 64 ≤ b.owner) →
    ∃ t, exec (.poolFree w) s = .next t ∧ (rasRec t 0x0303).set = true ∧ t.pool = { s.pool with stat := t.pool.stat }) ∧
  (∀ (d : Fin 2) (p : Fin 7) (w : Word) (s : State), s.Wf → up s = true →
    let h := 7 * d.val + p.val
    let size := bits w.toNat 17 0
    let total := ((List.range 7).map (fun i => if 7 * d.val + i = h then size else halfSize s (7 * d.val + i))).sum
    (s.pool.bufs.any (fun b => decide (b.half / 7 = d.val)) = false → total ≤ poolArea s → bits w.toNat 21 18 ≤ 8 →
      ∃ t, exec (.poolCarve d p w) s = .next t ∧ t.pool.size = tset 0 s.pool.size h size ∧
        t.pool.list = tset 0 s.pool.list h (bits w.toNat 21 18) ∧ t.pool.bufs = s.pool.bufs ∧ t.pool.limit = s.pool.limit ∧
        (∀ e ∈ t.pool.order, e.1 / 7 ≠ d.val) ∧
        (∀ a, memByte t.lov.mem a = if inListLink t d.val a then 0 else memByte s.lov.mem a) ∧
        t = { s with pool := t.pool, lov := { s.lov with mem := t.lov.mem } }) ∧
    (s.pool.bufs.any (fun b => decide (b.half / 7 = d.val)) = true ∨ poolArea s < total ∨ 8 < bits w.toNat 21 18 →
      ∃ t, exec (.poolCarve d p w) s = .next t ∧ (rasRec t 0x0305).set = true ∧ t.pool = { s.pool with stat := t.pool.stat })) ∧
  (∀ (d : Fin 2) (p : Fin 7) (s : State), up s = true →
    let h := 7 * d.val + p.val
    (tget false s.pool.rebuild h = false → exec (.listRebuildDone d p) s = .next s) ∧
    (tget false s.pool.rebuild h = true → ∃ t, exec (.listRebuildDone d p) s = .next t ∧
      t.pool = { s.pool with order := t.pool.order, rebuild := tset false s.pool.rebuild h false } ∧
      t.pool.order = tset [] s.pool.order h (((List.range (tget 0 s.pool.front h)).map (fun i =>
        halfBase s h + i * poolBuf (h % 7))).filter (fun a => !bufHeld s a)) ∧
      (s.lov.poison = [] → t = { s with pool := t.pool, lov := { s.lov with mem := t.lov.mem, poison := [] } })))

/-- While BUSERR is set both writes are ignored. RESUME of a channel in ERROR or BUSSTOP runs the descriptor at NEXT
again; a buffer taken under ALLOC is reused, and a BARR with ARRIVED set waits without arriving again. ABANDON frees
a buffer that the descriptor took under ALLOC, writes STATUS with the code that stopped the channel, advances NEXT
and lowers COUNT; the channel goes on when COUNT is still non-zero and otherwise goes IDLE. (An interface in ORPHAN
has no stopped channel, R437, and is left out of the clause on ABANDON.) (R410.) -/
def Obligations.StoppedChannelLeaves : Prop :=
  ∀ (ch : Fin 64) (s : State), s.Wf → up s = true → (chan s ch.val).state = .error ∨ (chan s ch.val).state = .busstop →
    let c := chan s ch.val
    (s.dma.buserr = true → exec (.resume ch) s = .next s ∧ exec (.abandon ch) s = .next s) ∧
    (s.dma.buserr = false → c.count = 0 → ∃ t u, exec (.resume ch) s = .next t ∧ exec (.abandon ch) s = .next u ∧
      (chan t ch.val).state = .idle ∧ (chan u ch.val).state = .idle ∧ t = { s with dma := t.dma } ∧ u = { s with dma := u.dma }) ∧
    (s.dma.buserr = false → 0 < c.count → ∃ t, exec (.resume ch) s = .next t ∧
      chan t ch.val = { c with state := .run, cur := none, readback := false } ∧ (∀ k, k ≠ ch.val → chan t k = chan s k) ∧
      t = { s with dma := t.dma } ∧ chanTakes ch.val t = true ∧
      (∀ d, dAlloc d = true → c.alloc ≠ 0 → chanTake ch.val d t = (t, .inl c.alloc)) ∧
      (∀ d, dOp d = 6 → descOk d = true → c.arrived = true →
        (2048 + ch.val) ∈ (bline s (obj s (dObj d)).bl).arrived → ∃ u, exec (.dmaBarr ch d) t = .next u ∧
          u.sync.lines = s.sync.lines ∧ (chan u ch.val).state = .wait ∧ (chan u ch.val).arrived = true ∧
          (obj u (dObj d)).waiters = (obj s (dObj d)).waiters ++ [{ agent := agentDma ch.val, d := 0 }])) ∧
    (s.dma.buserr = false → 0 < c.count → s.hif.state ≠ .orphan → ∃ t, exec (.abandon ch) s = .next t ∧
      (chan t ch.val).next = (c.next + 1) % 2 ^ c.log2 ∧ (chan t ch.val).count = c.count - 1 ∧ (chan t ch.val).alloc = 0 ∧
      (chan t ch.val).state = (if c.count = 1 then .idle else .run) ∧ (∀ k, k ≠ ch.val → chan t k = chan s k) ∧
      t.hostMem = memWrite s.hostMem (descAddr c + 48) (leBytes 2 c.code ++ zeros 6) ∧
      (c.alloc = 0 → t.pool = s.pool) ∧
      (∀ b, c.alloc ≠ 0 → s.pool.bufs.find? (fun b => decide (b.addr = c.alloc)) = some b → b.owner = ch.val →
        t.pool.bufs = s.pool.bufs.filter (fun b => decide (b.addr ≠ c.alloc))) ∧ t.newts = s.newts ∧ t.sync = s.sync)

/-- In a running chip DMA_RING sets an IDLE channel's ring of 2^3 to 2^16 descriptors, 0 in the field standing for 16
(log 153), and is ignored otherwise (log 45); a doorbell adds to COUNT and starts an IDLE channel, is refused with
0x0206 where COUNT would exceed the ring, and is ignored in ORPHAN. A bus error sets BUSERR, holds the address,
records 0x0201 and stops all 64 channels with that code, each at its descriptor; in ORPHAN the stopped channels go
IDLE with COUNT 0 (log 120). (12_memory_pools_dma.md (R404, R409, Table 12-9); 13_host_interface.md (R437);
notes/assumptions/45.md; notes/assumptions/120.md; notes/assumptions/153.md.) -/
def Obligations.DmaRegisters : Prop :=
  (∀ (ch : Fin 64) (w : Word) (s : State), up s = true →
    ((chan s ch.val).state = .idle → bits w.toNat 3 0 ≠ 1 → bits w.toNat 3 0 ≠ 2 → exec (.dmaRingWrite ch w) s =
      .next (setChan ch.val { chan s ch.val with
        log2 := if bits w.toNat 3 0 = 0 then 16 else bits w.toNat 3 0, base := bits w.toNat 63 6 } s)) ∧
    ((chan s ch.val).state ≠ .idle ∨ bits w.toNat 3 0 = 1 ∨ bits w.toNat 3 0 = 2 → exec (.dmaRingWrite ch w) s = .next s)) ∧
  (∀ (ch : Fin 64) (w : Word) (s : State), up s = true →
    let c := chan s ch.val
    let n := c.count + bits w.toNat 16 0
    (s.hif.state = .orphan → exec (.dmaDoorbell ch w) s = .next s) ∧
    (s.hif.state ≠ .orphan → 2 ^ c.log2 < n → ∃ t, exec (.dmaDoorbell ch w) s = .next t ∧ (rasRec t 0x0206).set = true ∧
      t.dma = s.dma) ∧
    (s.hif.state ≠ .orphan → n ≤ 2 ^ c.log2 → exec (.dmaDoorbell ch w) s = .next (setChan ch.val { c with
      count := n, state := if c.state = .idle ∧ 0 < n then .run else c.state } s))) ∧
  (∀ (h : Word) (s : State), s.Wf → up s = true → ∃ t, exec (.dmaBusError h) s = .next t ∧ t.dma.buserr = true ∧
    t.dma.busaddr = h ∧ (rasRec t 0x0201).set = true ∧
    (s.hif.state ≠ .orphan → ∀ c, c < 64 → (chan t c).state = .busstop ∧ (chan t c).code = 0x0201 ∧ (chan t c).cur = none ∧
      (chan t c).next = (chan s c).next ∧ (chan t c).count = (chan s c).count ∧ (chan t c).alloc = (chan s c).alloc) ∧
    (s.hif.state = .orphan → ∀ c, c < 64 → (chan t c).state = .idle ∧ (chan t c).count = 0))

/-- A channel that takes a descriptor that passes its checks: NOP completes; H2D stores the bytes read from HADDR at
DADDR, FILL stores byte A mod 8 of PATTERN at each address A, D2H writes the bytes at DADDR to HADDR, each to no
other byte, and waits for its read-back; one whose channel a window of the stack plan names waits, unchanged, while
the pad is not in the window or keeps its first access out (log 149), and in it its writes are answered after 96
ticks and its reads after 160, before which nothing completes. A write of part of a poisoned block is an
uncorrectable read too, and whether a clean read was corrected is a free value (log 93). H2D with ALLOC takes a
buffer first and stores there. A descriptor that fails a check stops its channel in ERROR with the check's code
before any data moves. Completion frees with FREE, a refused free being a channel error, then signals with SIGDONE,
a rejected signal being a channel error. A completed descriptor has STATUS 0 and RESULT in the ring, BYTES grows by
LEN, NEXT advances and COUNT falls. (12_memory_pools_dma.md (R386, R387, R390, R395, R405, R407, R408, Table 12-5);
notes/assumptions/93.md; notes/assumptions/149.md.) -/
def Obligations.DmaDescriptors : Prop :=
  (∀ (ch : Fin 64) (d : List Byte) (s : State), s.Wf → s.hif.state ≠ .orphan →
    let c := chan s ch.val
    let t := chanDone ch.val d s
    (chan t ch.val).next = (c.next + 1) % 2 ^ c.log2 ∧ (chan t ch.val).count = c.count - 1 ∧ (chan t ch.val).cur = none ∧
    (chan t ch.val).bytes = (c.bytes + dLen d) % 2 ^ 64 ∧ (chan t ch.val).state = (if c.count - 1 = 0 then .idle else .run) ∧
    (∀ k, k ≠ ch.val → chan t k = chan s k) ∧
    t.hostMem = memWrite s.hostMem (descAddr c + 48) (zeros 8 ++ leBytes 8 (if dAlloc d then c.alloc else 0)) ∧
    t = { s with dma := t.dma, hostMem := t.hostMem, out := t.out, hif := { s.hif with pba := t.hif.pba } }) ∧
  (∀ (ch : Fin 64) (d : List Byte) (s : State), chanTakes ch.val s = true → descCheck ch.val d s = none → dOp d = 0 →
    exec (.dmaNop ch d) s = .next (chanDone ch.val d (setChan ch.val { chan s ch.val with cur := some d, readback := false } s))) ∧
  (∀ (c : Instr) (ch : Fin 64) (d data : List Byte) (s : State), chanTakes ch.val s = true → descCheck ch.val d s = none →
    chanWaits ch.val d s = true → c = .dmaH2d ch d data ∨ c = .dmaD2h ch d ∨ c = .dmaFill ch d → exec c s = .next s) ∧
  (∀ (ch : Fin 64) (d data : List Byte) (s : State), s.Wf → chanTakes ch.val s = true → descCheck ch.val d s = none → dAlloc d = false →
    chanWaits ch.val d s = false →
    let a := dDaddr d
    let n := dLen d
    let s1 := setChan ch.val { chan s ch.val with cur := some d, readback := false } s
    let part : Prop := ∃ b ∈ s.lov.poison, 64 * b < a + n ∧ a < 64 * b + 64 ∧ (64 * b < a ∨ a + n < 64 * b + 64)
    let issued (ticks : Nat) (t : State) : State :=
      setChan ch.val { chan t ch.val with readback := true, due := windowDue ch.val a n ticks t } t
    (dOp d = 1 → ∃ t, exec (.dmaH2d ch d data) s = .next t ∧ t = issued 256 (lovStore a (slice data 0 n) s1) ∧
      (¬ part → chan t ch.val = { chan s ch.val with cur := some d, readback := true, due := windowDue ch.val a n 256 s } ∧
        (∀ k, k ≠ ch.val → chan t k = chan s k) ∧
        (∀ x, memByte t.lov.mem x = if a ≤ x ∧ x < a + n then data.getD (x - a) 0 else memByte s.lov.mem x) ∧
        t = { s with dma := t.dma, lov := { s.lov with mem := t.lov.mem, poison := t.lov.poison } })) ∧
    (dOp d = 3 → ∃ t, exec (.dmaFill ch d) s = .next t ∧ t = issued 256 (lovStore a (fillBytes d) s1) ∧
      (¬ part → chan t ch.val = { chan s ch.val with cur := some d, readback := true, due := windowDue ch.val a n 256 s } ∧
        (∀ k, k ≠ ch.val → chan t k = chan s k) ∧
        (∀ x, memByte t.lov.mem x = if a ≤ x ∧ x < a + n then d.getD (32 + x % 8) 0 else memByte s.lov.mem x) ∧
        t = { s with dma := t.dma, lov := { s.lov with mem := t.lov.mem, poison := t.lov.poison } })) ∧
    (dOp d = 2 → poisonAt s a n = none → ∃ t, exec (.dmaD2h ch d) s = .next t ∧
      t = issued 160 (hostWrite (dHaddr d) (lovRead s a n) (readDrawn a s1)) ∧
      chan t ch.val = { chan s ch.val with cur := some d, readback := true, due := windowDue ch.val a n 160 s } ∧
      (∀ k, k ≠ ch.val → chan t k = chan s k) ∧
      (∀ x, memByte t.hostMem x = if dHaddr d ≤ x ∧ x < dHaddr d + n then memByte s.lov.mem (a + (x - dHaddr d))
        else memByte s.hostMem x))) ∧
  (∀ (ch : Fin 64) (d data : List Byte) (a : Nat) (s u : State), chanTakes ch.val s = true → descCheck ch.val d s = none →
    dOp d = 1 → dAlloc d = true → (chan s ch.val).alloc = 0 → chanWaits ch.val d s = false →
    poolTake ch.val (dLen d) (dDie d) (setChan ch.val { chan s ch.val with cur := some d, readback := false } s) = (u, .inl a) →
    let w := lovStore a (slice data 0 (dLen d)) (modChan ch.val (fun c => { c with alloc := a }) u)
    exec (.dmaH2d ch d data) s =
      .next (modChan ch.val (fun c => { c with readback := true, due := windowDue ch.val a (dLen d) 256 w }) w)) ∧
  (∀ (c : Instr) (ch : Fin 64) (d data : List Byte) (code : Nat) (s : State), s.Wf → chanTakes ch.val s = true →
    descCheck ch.val d s = some code → s.hif.state ≠ .orphan →
    (c = .dmaNop ch d ∧ (dOp d = 0 ∨ 7 ≤ dOp d)) ∨ (c = .dmaH2d ch d data ∧ dOp d = 1) ∨ (c = .dmaD2h ch d ∧ dOp d = 2) ∨
      (c = .dmaFill ch d ∧ dOp d = 3) ∨ (c = .dmaWait ch d ∧ dOp d = 4) ∨ (c = .dmaSig ch d ∧ dOp d = 5) ∨
      (c = .dmaBarr ch d ∧ dOp d = 6) →
    ∃ t, exec c s = .next t ∧ (chan t ch.val).state = .error ∧ (chan t ch.val).code = code ∧ (rasRec t code).set = true ∧
      (chan t ch.val).next = (chan s ch.val).next ∧ (chan t ch.val).count = (chan s ch.val).count ∧
      t.hostMem = memWrite s.hostMem (descAddr (chan s ch.val) + 48) (leBytes 2 code ++ zeros 6) ∧
      (∀ k, k ≠ ch.val → chan t k = chan s k) ∧ t.pool.bufs = s.pool.bufs ∧
      (∀ a, a < logBase ∨ logBase + 64 * 65536 ≤ a → memByte t.lov.mem a = memByte s.lov.mem a)) ∧
  (∀ (ch : Fin 64) (d : List Byte) (s : State), up s = true → (chan s ch.val).cur = some d → (chan s ch.val).readback = true →
    (chan s ch.val).due ≤ croak s → dFree d = false → dSig d = false →
    dOp d = 2 ∨ poisoned s (((if dAlloc d then (chan s ch.val).alloc else dDaddr d) + dLen d - 1) / 64 * 64) 64 = false →
    exec (.dmaCompletion ch) s = .next (chanDone ch.val d s)) ∧
  (∀ (ch : Fin 64) (d : List Byte) (b : Buf) (s : State), up s = true → (chan s ch.val).cur = some d →
    (chan s ch.val).readback = true → (chan s ch.val).due ≤ croak s → dOp d = 2 → dFree d = true → dSig d = false →
    s.pool.bufs.find? (fun b => decide (b.addr = dDaddr d)) = some b → b.owner = ch.val →
    exec (.dmaCompletion ch) s = .next (chanDone ch.val d (bufFree b s))) ∧
  (∀ (ch : Fin 64) (d : List Byte) (s : State), up s = true → (chan s ch.val).cur = some d →
    (chan s ch.val).readback = true → (chan s ch.val).due ≤ croak s → dOp d = 2 → dFree d = true →
    (∀ b, s.pool.bufs.find? (fun b => decide (b.addr = dDaddr d)) = some b → b.owner ≠ ch.val) →
    ∃ u, exec (.dmaCompletion ch) s = .next (chanStop ch.val 0x0303 u) ∧ (rasRec u 0x0303).set = true ∧
      u.pool.bufs = s.pool.bufs ∧ u.dma = s.dma) ∧
  (∀ (ch : Fin 64) (d : List Byte) (s : State), up s = true → (chan s ch.val).cur = some d → (chan s ch.val).readback = true →
    (chan s ch.val).due ≤ croak s → dFree d = false → dSig d = true →
    dOp d = 2 ∨ poisoned s (((if dAlloc d then (chan s ch.val).alloc else dDaddr d) + dLen d - 1) / 64 * 64) 64 = false →
    (∀ t, signalLocal (dObj d) (dCount d) (agentDma ch.val) 0 s = (t, none) → exec (.dmaCompletion ch) s = .next (chanDone ch.val d t)) ∧
    (∀ t e, signalLocal (dObj d) (dCount d) (agentDma ch.val) 0 s = (t, some e) →
      exec (.dmaCompletion ch) s = .next (chanStop ch.val e t))) ∧
  (∀ (ch : Fin 64) (s : State), (chan s ch.val).readback = false ∨ croak s < (chan s ch.val).due →
    exec (.dmaCompletion ch) s = .next s)

/-- In a running chip: a create whose configuration R159 admits makes a COUNTER or EVENT with it, or a BARRIER, to which
its barrier line is then bound with no leaf arrived, and whose fabric line, if it has one, begins at stage 0; a
destroy of an object with no waiter, held signal or arrived leaf makes it free, clears QUAR, and takes it off the
objects that the active image made; any other configuration write of an object in use raises 0x0405 and leaves it. A
post to a plain COUNTER whose first waiter, if it has one, still lacks its D adds D to PROD and changes nothing
else; one that brings the only waiter, a newt, its D takes that D from it at once and releases the newt, and so does
the post that sets an EVENT; a post is rejected whole with 0x0402 where PROD − CONS would exceed DEPTH, and with
0x0403 where the object is free or D is 0. The wait of a newt that times out loses its waiter, raises 0x0401 and
stops the newt; an agent that does not wait is left alone. Other objects are unchanged. (05_synchronisation.md
(R155, R157, R158, R159, R160, R163, R165, R169, Table 5-1); notes/assumptions/139.md.) -/
def Obligations.SyncObjects : Prop :=
  (∀ (o : Fin 8192) (w : Word) (s : State), s.Wf → up s = true → (obj s o.val).kind = 0 → bits w.toNat 1 0 = 1 ∨ bits w.toNat 1 0 = 3 →
    (cfgValid s o.val w.toNat = true → ∃ t, exec (.syncCreate o w) s = .next t ∧
      (obj t o.val).kind = bits w.toNat 1 0 ∧ (obj t o.val).depth = bits w.toNat 63 32 ∧ (obj t o.val).proxy = bitOf w.toNat 2 ∧
      (obj t o.val).counted = bitOf w.toNat 3 ∧ (obj t o.val).prod = (obj s o.val).prod ∧ (obj t o.val).cons = (obj s o.val).cons ∧
      (obj t o.val).waiters = [] ∧ (obj t o.val).holdq = [] ∧ (∀ k, k ≠ o.val → obj t k = obj s k) ∧
      t = { s with sync := { s.sync with objs := t.sync.objs } }) ∧
    (cfgValid s o.val w.toNat = false → ∃ t, exec (.syncCreate o w) s = .next t ∧ (rasRec t 0x0405).set = true ∧ t.sync = s.sync)) ∧
  (∀ (o : Fin 8192) (w : Word) (s : State), s.Wf → up s = true → (obj s o.val).kind = 0 → bits w.toNat 1 0 = 2 →
    let v := { withCfg (obj s o.val) w.toNat with cnt := 0, ann := 0, holdq := [], waiters := [] }
    let made := setBline v.bl { bline s v.bl with arrived := [], bound := some o.val } (setObj o.val v s)
    let started := setFline v.fbl { fline s v.fbl with stage := 0 } made
    (cfgValid s o.val w.toNat = true → v.fabric = false → exec (.syncCreate o w) s = .next made) ∧
    (cfgValid s o.val w.toNat = true → v.fabric = true →
      exec (.syncCreate o w) s = .next (fblAdvance 8 o.val (fblFaults o.val (List.range 6) started)) ∧
      ((∀ d, d < 6 → (lineFrom started o.val v.fbl d).2 = false) → (bline s v.bl).mask ≠ [] →
        exec (.syncCreate o w) s = .next started)) ∧
    (bline made v.bl = { bline s v.bl with arrived := [], bound := some o.val } ∧ (∀ l, l ≠ v.bl → bline made l = bline s l) ∧
      (obj made o.val).kind = 2 ∧ (obj made o.val).bl = bits w.toNat 13 8 ∧ (obj made o.val).waiters = [] ∧
      (∀ k, k ≠ o.val → obj made k = obj s k)) ∧
    (cfgValid s o.val w.toNat = false → ∃ t, exec (.syncCreate o w) s = .next t ∧ (rasRec t 0x0405).set = true ∧ t.sync = s.sync)) ∧
  (∀ (o : Fin 8192) (w : Word) (s : State), s.Wf → up s = true → (obj s o.val).kind ≠ 0 →
    let clear := (obj s o.val).waiters = [] ∧ (obj s o.val).holdq = [] ∧
      ((obj s o.val).kind = 2 → (bline s (obj s o.val).bl).arrived = [])
    (bits w.toNat 1 0 = 0 → clear → ∃ t, exec (.syncDestroy o w) s = .next t ∧ (obj t o.val).kind = 0 ∧
      (obj t o.val).quar = false ∧ (∀ k, k ≠ o.val → obj t k = obj s k) ∧
      t = { s with sync := t.sync, lay := { s.lay with syncObjs := s.lay.syncObjs.erase o.val } } ∧
      ((obj s o.val).kind = 2 → (bline t (obj s o.val).bl).bound = none)) ∧
    (bits w.toNat 1 0 = 0 → ¬ clear → ∃ t, exec (.syncDestroy o w) s = .next t ∧ (rasRec t 0x0405).set = true ∧ t.sync = s.sync) ∧
    (bits w.toNat 1 0 ≠ 0 → ∃ t, exec (.syncCreate o w) s = .next t ∧ (rasRec t 0x0405).set = true ∧ t.sync = s.sync)) ∧
  (∀ (o : Fin 8192) (w : Word) (s : State), s.Wf → up s = true →
    let v := obj s o.val
    let d := bits w.toNat 15 0
    (v.kind = 1 → v.proxy = false → v.counted = false → 0 < d → avail v + d ≤ v.depth → v.waiters = [] →
      exec (.syncPost o w) s = .next (setObj o.val { v with prod := (v.prod + d) % 2 ^ 64 } s)) ∧
    (v.kind = 1 → v.proxy = false → v.counted = false → 0 < d → v.depth < avail v + d → ∃ t, exec (.syncPost o w) s = .next t ∧
      obj t o.val = { v with overpost := true } ∧ (rasRec t 0x0402).set = true ∧ (∀ k, k ≠ o.val → obj t k = obj s k)) ∧
    (v.kind = 0 ∨ d = 0 → ∃ t, exec (.syncPost o w) s = .next t ∧ obj t o.val = { v with badop := true } ∧
      (rasRec t 0x0403).set = true ∧ (∀ k, k ≠ o.val → obj t k = obj s k))) ∧
  (∀ (o : Fin 8192) (d : Nat) (r : List Waiter) (w : Word) (n : Fin 2048) (s : State), s.Wf → up s = true →
    let v := obj s o.val
    v.kind = 1 → v.proxy = false → v.counted = false → 0 < bits w.toNat 15 0 → avail v + bits w.toNat 15 0 ≤ v.depth →
    v.depth < 2 ^ 32 → v.waiters = { agent := n.val, d := d } :: r → avail v + bits w.toNat 15 0 < d →
    exec (.syncPost o w) s = .next (setObj o.val { v with prod := (v.prod + bits w.toNat 15 0) % 2 ^ 64 } s)) ∧
  (∀ (o : Fin 8192) (d : Nat) (w : Word) (n : Fin 2048) (s : State), s.Wf → up s = true →
    let v := obj s o.val
    let got := fun m : Newt => { m with waitPassed := true, registered := false }
    (v.kind = 1 → v.proxy = false → v.counted = false → 0 < bits w.toNat 15 0 → avail v + bits w.toNat 15 0 ≤ v.depth →
      v.depth < 2 ^ 32 → v.waiters = [{ agent := n.val, d := d }] → d ≤ avail v + bits w.toNat 15 0 →
      exec (.syncPost o w) s = .next (setNewt n.val (got (newt s n.val)) (setObj o.val { v with
        prod := (v.prod + bits w.toNat 15 0) % 2 ^ 64, cons := (v.cons + d) % 2 ^ 64, waiters := [] } s))) ∧
    (v.kind = 3 → bits w.toNat 15 0 = 1 → avail v = 0 → v.cons < 2 ^ 64 → v.waiters = [{ agent := n.val, d := d }] → d = 1 ∨ d = 2 →
      exec (.syncPost o w) s = .next (setNewt n.val (got (newt s n.val)) (setObj o.val { v with
        prod := (v.cons + 1) % 2 ^ 64, cons := if d = 2 then (v.cons + 1) % 2 ^ 64 else v.cons, waiters := [] } s)))) ∧
  (∀ (o : Fin 8192) (n : Fin 2048) (d : Nat) (s : State), s.Wf → up s = true → (obj s o.val).waiters = [{ agent := n.val, d := d }] →
    ∃ t, exec (.syncWaitTimeout o n.val) s = .next t ∧ (rasRec t 0x0401).set = true ∧ (obj t o.val).timeout = true ∧
      (obj t o.val).waiters = [] ∧ (newt t n.val).state = .error) ∧
  (∀ (o : Fin 8192) (a : Nat) (s : State), up s = true → (∀ w ∈ (obj s o.val).waiters, w.agent ≠ a) →
    exec (.syncWaitTimeout o a) s = .next s)

/-- In a running chip a sync-tagged cell is stored and, when it comes from the declared source of a COUNTED counter,
raises CNT by one modulo 2^32, and otherwise raises 0x0404 and leaves the object's counts; where it covers no
poisoned block in part, nothing else changes. The head of the hold queue is applied once its announced cells have
landed: it leaves the queue and its D is added to PROD, or, where PROD − CONS would exceed DEPTH, it is dropped with
0x0402, whose record names the agent that sent it, and a newt or DMA channel that sent it stops; before that nothing
happens. (05_synchronisation.md (R161, R166, R178, R179, R180, R186); 12_memory_pools_dma.md (R408).) -/
def Obligations.RemoteSignals : Prop :=
  (∀ (q : Fin 128) (o : Fin 8192) (src a : Nat) (data : List Byte) (s : State), s.Wf → up s = true →
    let v := obj s o.val
    (v.kind = 1 → v.counted = true → src % 2 ^ 23 = v.peer % 2 ^ 23 → ∃ t, exec (.syncTaggedWrite q o src a data) s = .next t ∧
      obj t o.val = { v with cnt := (v.cnt + 1) % 2 ^ 32 } ∧ (∀ k, k ≠ o.val → obj t k = obj s k) ∧
      (∀ x, memByte t.lov.mem x = if a ≤ x ∧ x < a + data.length then data.getD (x - a) 0 else memByte s.lov.mem x) ∧
      ((∀ b ∈ s.lov.poison, 64 * b < a + data.length → a < 64 * b + 64 → a ≤ 64 * b ∧ 64 * b + 64 ≤ a + data.length) →
        t = { s with sync := t.sync, lov := { s.lov with mem := t.lov.mem, poison := t.lov.poison } })) ∧
    (v.kind ≠ 1 ∨ v.counted = false ∨ src % 2 ^ 23 ≠ v.peer % 2 ^ 23 → ∃ t, exec (.syncTaggedWrite q o src a data) s = .next t ∧
      (rasRec t 0x0404).set = true ∧ obj t o.val = { v with badsrc := true } ∧ (∀ k, k ≠ o.val → obj t k = obj s k))) ∧
  (∀ (o : Fin 8192) (h : HeldSig) (r : List HeldSig) (s : State), s.Wf → up s = true →
    let v := obj s o.val
    let popped := setObj o.val { v with holdq := r } s
    v.holdq = h :: r →
    (2 ^ 31 ≤ (v.cnt + (2 ^ 32 - h.ann)) % 2 ^ 32 → exec (.heldSignalApply o) s = .next s) ∧
    ((v.cnt + (2 ^ 32 - h.ann)) % 2 ^ 32 < 2 ^ 31 → v.kind = 1 → v.waiters = [] → avail v + h.d ≤ v.depth →
      exec (.heldSignalApply o) s = .next (setObj o.val { v with prod := (v.prod + h.d) % 2 ^ 64, holdq := r } s)) ∧
    ((v.cnt + (2 ^ 32 - h.ann)) % 2 ^ 32 < 2 ^ 31 → v.kind = 1 → v.depth < avail v + h.d →
      let u := syncErr o.val 0x0402 h.agent h.d 0 v.peer popped
      (rasRec u 0x0402).set = true ∧ obj u o.val = { v with holdq := r, overpost := true } ∧
      (h.agent < 2048 → exec (.heldSignalApply o) s = .next (newtError h.agent 0x0402 h.pc 0 false u)) ∧
      (0x2000 ≤ h.agent → h.agent < 0x4000 → exec (.heldSignalApply o) s = .next (chanStop (h.agent % 64) 0x0402 u)) ∧
      (0x4000 ≤ h.agent → exec (.heldSignalApply o) s = .next u))) ∧
  (∀ (o : Fin 8192) (s : State), (obj s o.val).holdq = [] → exec (.heldSignalApply o) s = .next s)

/-- A newt that has issued in this cycle issues nothing more in it. At the head of an issuing newt: NOP issues; END with
every earlier instruction done ends the program and frees the buffers of the newt, each buffer of a list at the head
of its list with the address of the next in its first 8 bytes, and nothing else of the pools or of memory changes
where no poisoned block is in the way; it stalls otherwise; a LOOP in its ranges enters its body with COUNT − 1
iterations left; WLAND with its landing counter at N or more takes N from it and issues, and stalls below N; TBND of
a free newt issues when everything before it is done, and one of a scheduled newt issues when the next epoch has
begun and stalls before; CMT of a pending collective on its commit chip commits it with the ASB as it stands and
sends every other chip a notice with the ASB, which a drain that names MGMT holds; any other CMT only issues. A word
of a reserved encoding stops the newt with 0x0905. Nothing else changes but what the clause names. (03_newts.md
(R88, R90, R95, R96, R98); 04_collectives.md (R141, R145); 06_schedule_and_determinism.md (R197).) -/
def Obligations.NewtControl : Prop :=
  (∀ (n : Fin 2048) (s : State), s.Wf → up s = true → mayIssue (croak s) (newt s n.val) = true → goesOn (newt s n.val) →
    headWord s n.val = 0 → exec (.nop n) s = .next (setNewt n.val (afterIssue (croak s) (newt s n.val)) s)) ∧
  (∀ (c : Instr) (n : Fin 2048) (s : State), up s = true → (newt s n.val).issuedAt = some (croak s) →
    c ∈ [.nop n, .endProgram n, .loop n, .wland n, .wso n, .barr n, .sig n, .tbnd n, .cmt n, .send n, .copy n, .red n, .ctr n, .epi n,
      .wclr n, .wsv n, .wld n] → exec c s = .next s) ∧
  (∀ (n : Fin 2048) (s : State), up s = true → mayIssue (croak s) (newt s n.val) = true →
    (iOpc (headWord s n.val) = 0 ∧ headWord s n.val ≠ 0) ∨
      iOpc (headWord s n.val) ∉ [0, 1, 2, 8, 9, 0xA, 0xB, 0xC, 0xD, 0x10, 0x11, 0x18, 0x19, 0x1A, 0x20, 0x21, 0x22] →
    exec (.nop n) s = .next (newtError n.val 0x0905 (newt s n.val).pc 0 true s)) ∧
  (∀ (n : Fin 2048) (s : State), s.Wf → atHead s n.val 1 → headWord s n.val % 2 ^ 58 = 0 →
    (allDone (newt s n.val) = false →
      exec (.endProgram n) s = .next (setNewt n.val { newt s n.val with state := .stall, stall := 6 } s)) ∧
    (allDone (newt s n.val) = true → ∃ t, exec (.endProgram n) s = .next t ∧ (newt t n.val).state = .done ∧
      newt t n.val = { newt s n.val with state := .done, stall := 0, issued := ((newt s n.val).issued + 1) % 2 ^ 32
                                         issuedAt := some (croak s), escapes := [], partAt := [] } ∧
      (∀ k, k ≠ n.val → newt t k = newt s k) ∧ (∀ b ∈ t.pool.bufs, b.owner ≠ 0x100 + n.val) ∧
      t.pool.bufs = s.pool.bufs.filter (fun b => !s.pool.bufs.any (fun c => c.owner == 0x100 + n.val && c.addr == b.addr)) ∧
      (let mine := s.pool.bufs.filter (fun b => b.owner == 0x100 + n.val)
       let listed := mine.filter (fun b => decide (b.addr < halfBase s b.half + halfList s b.half * poolBuf (b.half % 7)))
       (∀ b ∈ listed, ∀ p ∈ s.lov.poison, b.addr + 8 ≤ 64 * p ∨ 64 * p + 64 ≤ b.addr) →
        t = { s with newts := t.newts, pool := { s.pool with bufs := t.pool.bufs, order := t.pool.order }
                     lov := { s.lov with mem := t.lov.mem } } ∧
        (∀ h, tget [] t.pool.order h =
          ((listed.filter (fun b => b.half == h)).map (·.addr)).reverse ++ tget [] s.pool.order h) ∧
        (∀ x, (∀ b ∈ listed, x < b.addr ∨ b.addr + 8 ≤ x) → memByte t.lov.mem x = memByte s.lov.mem x) ∧
        (∀ b, listed = [b] → ∀ x, b.addr ≤ x → x < b.addr + 8 →
          memByte t.lov.mem x = (leBytes 8 ((listHead s b.half).headD 0)).getD (x - b.addr) 0)))) ∧
  (∀ (n : Fin 2048) (s : State), atHead s n.val 2 →
    let v := newt s n.val
    let w := headWord s n.val
    let encl := (v.loops.head?.map (fun l => l.start + l.len)).getD (progLen v)
    iCount w ≠ 0 → iLen w ≠ 0 → v.loops.length < 4 → v.pc + 1 + iLen w ≤ progLen v → v.pc + 1 + iLen w ≤ encl →
    exec (.loop n) s = .next (setNewt n.val { v with
      state := .run, stall := 0, issued := (v.issued + 1) % 2 ^ 32, issuedAt := some (croak s), pc := v.pc + 1
      loops := { remaining := iCount w - 1, start := v.pc + 1, len := iLen w, iter := 0, obstep := iStep w } :: v.loops } s)) ∧
  (∀ (n : Fin 2048) (s : State), s.Wf → atHead s n.val 8 →
    let v := newt s n.val
    let w := headWord s n.val
    let k := tget 0 v.lc (iIdx w)
    iN w ≠ 0 → bits w 35 32 = 0 → bits w 15 6 = 0 → (tmoTicks (iTmo w)).isSome = true →
    (k < iN w → exec (.wland n) s = .next (setNewt n.val { v with state := .stall, stall := 1 } s)) ∧
    (iN w ≤ k → goesOn v → v.role ≠ .scheduled → exec (.wland n) s =
      .next (setNewt n.val (afterIssue (croak s) { v with lc := tset 0 v.lc (iIdx w) (k - iN w) }) s)) ∧
    (iN w ≤ k → goesOn v → v.role = .scheduled → ∃ t, exec (.wland n) s = .next t ∧
      newt t n.val = afterIssue (croak s) { v with lc := tset 0 v.lc (iIdx w) (k - iN w) } ∧
      t = { s with newts := t.newts, sch := { s.sch with waits := tset 0 s.sch.waits (iPg w) (tget 0 s.sch.waits (iPg w) + 1) } })) ∧
  (∀ (n : Fin 2048) (s : State), s.Wf → atHead s n.val 0xD →
    let v := newt s n.val
    bits (headWord s n.val) 57 32 = 0 →
    (allDone v = false → exec (.tbnd n) s = .next (setNewt n.val { v with state := .stall, stall := 6 } s)) ∧
    (allDone v = true → v.pausePend = false → v.role ≠ .scheduled → goesOn v →
      exec (.tbnd n) s = .next (setNewt n.val (afterIssue (croak s) v) s)) ∧
    (allDone v = true → v.pausePend = false → v.role = .scheduled → v.epochs < pgEpochs s → v.epochs < s.sch.epoch → goesOn v →
      exec (.tbnd n) s = .next (setNewt n.val (afterIssue (croak s) { v with epochs := v.epochs + 1 }) s)) ∧
    (allDone v = true → v.pausePend = false → v.role = .scheduled → v.epochs < pgEpochs s → s.sch.epoch ≤ v.epochs →
      exec (.tbnd n) s = .next (setNewt n.val { v with state := .stall, stall := 7 } s))) ∧
  (∀ (n : Fin 2048) (s : State), s.Wf → atHead s n.val 0xC →
    let v := newt s n.val
    let c := iArg (headWord s n.val)
    let k := coll s c
    bits (headWord s n.val) 57 24 = 0 → c ≠ 0 → allDone v = true → goesOn v →
    (unreported s c = true → k.state = .pending → k.commitChip = s.rte.coord → ∃ t, exec (.cmt n) s = .next t ∧
      let asb := if tget 0 v.asbOf c = 0 then slice k.asb 0 40 else pondRead v (tget 0 v.asbOf c) 40
      newt t n.val = afterIssue (croak s) { v with coll := c } ∧
      coll t c = { k with state := .committed, commitNewt := some n.val, asb := asb } ∧
      (∀ d, d ≠ c → coll t d = coll s d) ∧ (∀ m, m ≠ n.val → newt t m = newt s m) ∧
      (let notice := collVals 12 c 0 0xFFFFFFFF ([0, 0, 0, 0, 0] ++ asb.map (·.toNat))
       (drains s 4 = false → t = { s with newts := t.newts, colls := t.colls
                                          out := s.out ++ k.chips.map (fun ch => .mgmt "NOTICE" ch notice) }) ∧
       (drains s 4 = true → t = { s with
          newts := t.newts, colls := t.colls
          rte := { s.rte with mgmtHeld := s.rte.mgmtHeld ++ k.chips.map (fun ch => ("NOTICE", ch, notice)) } }))) ∧
    (unreported s c = false ∨ k.state ≠ .pending ∨ k.commitChip ≠ s.rte.coord →
      exec (.cmt n) s = .next (setNewt n.val (afterIssue (croak s) { v with coll := c }) s)))

/-- WSO on a COUNTER with D available and no other waiter takes D and issues; with less it registers and stalls; once
released it issues. SIG adds D to a plain COUNTER when every earlier instruction has completed, and waits behind
them otherwise. BARR arrives on its leaf and stalls until every enabled leaf has; the last to arrive flips OUT,
advances PROD and issues, and marks the fabric line of a posted BARRIER that its newt works for; one whose leaf
still stands arrived from an abandoned arrival toggles it back and issues (R167, log 117). A wait of a scheduled
newt that issues is counted for its pad group. (05_synchronisation.md (R162, R163, R167, R170, R171, Table 5-1);
04_collectives.md (R118); notes/assumptions/117.md.) -/
def Obligations.NewtSync : Prop :=
  (∀ (n : Fin 2048) (s : State), s.Wf → atHead s n.val 9 →
    let v := newt s n.val
    let w := headWord s n.val
    let o := obj s (iIdx w)
    let counted : Sch := if v.role = .scheduled
      then { s.sch with waits := tset 0 s.sch.waits (iPg w) (tget 0 s.sch.waits (iPg w) + 1) } else s.sch
    iN w ≠ 0 → bits w 35 32 = 0 → bits w 15 13 = 0 → (tmoTicks (iTmo w)).isSome = true →
    (v.waitPassed = true → goesOn v → exec (.wso n) s = .next { setNewt n.val (afterIssue (croak s) v) s with sch := counted }) ∧
    (v.waitPassed = false → v.registered = true →
      exec (.wso n) s = .next (setNewt n.val { v with state := .stall, stall := 2 } s)) ∧
    (v.waitPassed = false → v.registered = false → o.kind = 1 → o.proxy = false → o.waiters = [] → iN w ≤ avail o → goesOn v →
      ∃ t, exec (.wso n) s = .next t ∧ newt t n.val = afterIssue (croak s) v ∧
        obj t (iIdx w) = { o with cons := (o.cons + iN w) % 2 ^ 64 } ∧ (∀ k, k ≠ iIdx w → obj t k = obj s k) ∧
        (∀ m, m ≠ n.val → newt t m = newt s m) ∧ t = { s with newts := t.newts, sync := t.sync, jobs := t.jobs, sch := counted }) ∧
    (v.waitPassed = false → v.registered = false → o.kind = 1 → o.proxy = false → o.waiters = [] → avail o < iN w →
      ∃ t, exec (.wso n) s = .next t ∧ newt t n.val = { v with state := .stall, stall := 2, registered := true } ∧
        obj t (iIdx w) = { o with waiters := [{ agent := n.val, d := iN w }] } ∧ (∀ k, k ≠ iIdx w → obj t k = obj s k) ∧
        (∀ m, m ≠ n.val → newt t m = newt s m) ∧ t = { s with newts := t.newts, sync := t.sync, jobs := t.jobs })) ∧
  (∀ (n : Fin 2048) (s : State), s.Wf → atHead s n.val 0xA →
    let v := newt s n.val
    let w := headWord s n.val
    let o := obj s (iIdx w)
    iN w ≠ 0 → bits w 57 32 = 0 → bits w 15 13 = 0 → goesOn v →
    (v.inflight = [] → o.kind = 1 → o.proxy = false → o.counted = false → avail o + iN w ≤ o.depth → o.waiters = [] →
      ∃ t, exec (.sig n) s = .next t ∧ newt t n.val = afterIssue (croak s) v ∧ obj t (iIdx w) = { o with prod := (o.prod + iN w) % 2 ^ 64 } ∧
        (∀ k, k ≠ iIdx w → obj t k = obj s k) ∧ (∀ m, m ≠ n.val → newt t m = newt s m) ∧
        t = { s with newts := t.newts, sync := t.sync, jobs := t.jobs }) ∧
    (∀ i r, v.inflight = i :: r → i.sigObj = none → ∃ j, exec (.sig n) s =
        .next (setNewt n.val (afterIssue (croak s) { v with inflight := v.inflight ++ [j] }) s) ∧
      j.sigObj = some (iIdx w, iN w) ∧ j.land = [] ∧ j.packets = [])) ∧
  (∀ (n : Fin 2048) (s : State), s.Wf → atHead s n.val 0xB →
    let v := newt s n.val
    let w := headWord s n.val
    let o := obj s (iIdx w)
    let l := bline s o.bl
    let counted : Sch := if v.role = .scheduled
      then { s.sch with waits := tset 0 s.sch.waits (iPg w) (tget 0 s.sch.waits (iPg w) + 1) } else s.sch
    bits w 35 13 = 0 → (tmoTicks (iTmo w)).isSome = true → v.waitPassed = false → v.registered = false →
    o.kind = 2 → o.fabric = false → o.waiters = [] → n.val ∈ l.mask →
    (n.val ∉ l.arrived → (∃ i, i ∈ l.mask ∧ i ≠ n.val ∧ i ∉ l.arrived) → ∃ t, exec (.barr n) s = .next t ∧
      newt t n.val = { v with state := .stall, stall := 2, registered := true } ∧ n.val ∈ (bline t o.bl).arrived ∧
      (bline t o.bl).out = l.out ∧ (obj t (iIdx w)).waiters = [{ agent := n.val, d := 0 }] ∧ (obj t (iIdx w)).prod = o.prod ∧
      (∀ m, m ≠ n.val → newt t m = newt s m) ∧ t = { s with newts := t.newts, sync := t.sync, jobs := t.jobs }) ∧
    (n.val ∉ l.arrived → (∀ i, i ∈ l.mask → i = n.val ∨ i ∈ l.arrived) → goesOn v →
      ((∀ c ∈ v.colls, (coll s c).posted = false ∨ cdOp (coll s c).desc ≠ 7) → ∃ t, exec (.barr n) s = .next t ∧
        newt t n.val = afterIssue (croak s) v ∧ (bline t o.bl).out = !l.out ∧ (bline t o.bl).arrived = [] ∧
        (obj t (iIdx w)).prod = (o.prod + 1) % 2 ^ 64 ∧ (∀ m, m ≠ n.val → newt t m = newt s m) ∧
        t = { s with newts := t.newts, sync := t.sync, jobs := t.jobs, sch := counted }) ∧
      (∀ c, v.colls = [c] → (coll s c).posted = true → cdOp (coll s c).desc = 7 → ∃ u, exec (.barr n) s =
          .next (barrierRelease c (setColl c { coll s c with lineDone := true } u)) ∧
        newt u n.val = afterIssue (croak s) v ∧ (bline u o.bl).out = !l.out ∧ (obj u (iIdx w)).prod = (o.prod + 1) % 2 ^ 64 ∧
        u = { s with newts := u.newts, sync := u.sync, jobs := u.jobs, sch := counted })) ∧
    (n.val ∈ l.arrived → goesOn v → (∀ c ∈ v.colls, (coll s c).posted = false ∨ cdOp (coll s c).desc ≠ 7) →
      ∃ t, exec (.barr n) s = .next t ∧ newt t n.val = afterIssue (croak s) v ∧ (bline t o.bl).out = l.out ∧
        n.val ∉ (bline t o.bl).arrived ∧ (obj t (iIdx w)).prod = o.prod ∧ (∀ m, m ≠ n.val → newt t m = newt s m) ∧
        t = { s with newts := t.newts, sync := t.sync, jobs := t.jobs, sch := counted }))

/-- At the head of an issuing newt a SEND, COPY, RED, CTR or EPI with a reserved bit set stops the newt with 0x0905. One
without waits while a unit that it needs, as far as its operand block tells, is busy (stall 4), or while bytes that
its checks read (its operand block, slots, epilogue block and table header) are still being written (stall 5); then
it is checked. A failed check stops the newt with its code, and an accepted one issues unless an escape record it
reads has not come (stall 3), a unit group that it needs is busy (stall 4) or a range conflicts (stall 5), the first
of these that holds being the one reported. An issued one is held with the bytes, status update and packets that its
completion delivers and is due when its cycles of occupancy and latency have passed; the pond does not change before
it completes. (03_newts.md (R90, R91, R93, R99, R100, R104, R107, R112); notes/assumptions/40.md.) -/
def Obligations.WorkIssues : Prop :=
  ∀ (c : Instr) (opc : Nat) (f : State → Newt → Nat → Nat → Except Nat Work) (ps : State → Newt → Nat → List Packet) (n : Fin 2048)
    (s : State), s.Wf → atHead s n.val opc → goesOn (newt s n.val) →
    (c = .send n ∧ opc = 0x10 ∧ f = sendWork ∧ ps = (fun s v ob => (sendPackets n.val s v ob).2)) ∨
    (c = .copy n ∧ opc = 0x11 ∧ f = copyWork ∧ ps = (fun _ _ _ => [])) ∨
    (c = .red n ∧ opc = 0x18 ∧ f = redWork ∧ ps = (fun _ _ _ => [])) ∨
    (c = .ctr n ∧ opc = 0x19 ∧ f = ctrWork ∧ ps = (fun _ _ _ => [])) ∨
    (c = .epi n ∧ opc = 0x1A ∧ f = epiWork ∧ ps = (fun _ _ _ => [])) →
    let v := newt s n.val
    let w := headWord s n.val
    let ob := obAddr v w
    (fmtAOk w = false → exec c s = .next (newtError n.val 0x0905 v.pc 0 true s)) ∧
    (fmtAOk w = true → rangeBusy v (judged v w ob) [] = true → exec c s = .next (setNewt n.val { v with
      state := .stall, stall := if headBusy s v w ob then 4 else 5 } s)) ∧
    (fmtAOk w = true → rangeBusy v (judged v w ob) [] = false →
      (∀ code, f s v w ob = .error code → headBusy s v w ob = true →
        exec c s = .next (setNewt n.val { v with state := .stall, stall := 4 } s)) ∧
      (∀ code, f s v w ob = .error code → headBusy s v w ob = false →
        exec c s = .next (newtError n.val code v.pc 0 true s)) ∧
      (∀ k, f s v w ob = .ok k →
        let lacks := k.dropEsc.any (fun e => (escFind v e.1 e.2.1 e.2.2.1 e.2.2.2).isNone)
        (lacks = true → exec c s = .next (setNewt n.val { v with state := .stall, stall := 3 } s)) ∧
        (lacks = false → k.groups.any (unitBusy s v) = true →
          exec c s = .next (setNewt n.val { v with state := .stall, stall := 4 } s)) ∧
        (lacks = false → k.groups.any (unitBusy s v) = false → rangeBusy v k.reads k.writes = true →
          exec c s = .next (setNewt n.val { v with state := .stall, stall := 5 } s)) ∧
        (lacks = false → k.groups.any (unitBusy s v) = false → rangeBusy v k.reads k.writes = false →
          ∃ t i, exec c s = .next t ∧ (newt t n.val).inflight = v.inflight ++ [i] ∧ i.pc = v.pc ∧ i.reads = k.reads ∧
            i.writes = k.writes ∧ i.land = k.land ∧ i.asb = k.asb ∧ i.packets = ps s v ob ∧ i.occupancy = k.occ ∧
            i.issuedAt = croak s ∧ i.due = croak s + k.occ + k.lat ∧ (newt t n.val).pond = v.pond ∧ (newt t n.val).pc = (afterIssue (croak s) v).pc ∧
            (newt t n.val).loops = (afterIssue (croak s) v).loops ∧ (newt t n.val).state = .run ∧
            (∀ r, k.regs = some r → (newt t n.val).wr = r.1 ∧ (newt t n.val).held = r.2 ∧ (newt t n.val).wrAdds = k.adds) ∧
            (k.regs = none → (newt t n.val).wr = v.wr ∧ (newt t n.val).held = v.held ∧ (newt t n.val).wrAdds = v.wrAdds) ∧
            (∀ m, m ≠ n.val → newt t m = newt s m) ∧ t = { s with newts := t.newts, free := t.free })))

/-- A COPY in range issues with nothing in progress; before its cycles have passed its completion changes nothing, and
from then on it leaves DST holding LEN bytes of SRC as they were at issue, and no other pond byte changed. WCLR
clears registers RB to RB + NR − 1 and no other, and releases HOLD when it clears all 64. WSV, once its cycles have
passed and it completes, leaves the save records of its registers at ADDR; WLD loads its registers from their
records and sets HOLD. (03_newts.md (R91, R92, R113, R114, Table 3-11).) -/
def Obligations.MovesComplete : Prop :=
  (∀ (n : Fin 2048) (k : Work) (s : State), s.Wf → atHead s n.val 0x11 → goesOn (newt s n.val) → (newt s n.val).inflight = [] →
    let v := newt s n.val
    let ob := obAddr v (headWord s n.val)
    v.abortPend = false → fmtAOk (headWord s n.val) = true → copyWork s v (headWord s n.val) ob = .ok k →
    ∃ t, exec (.copy n) s = .next t ∧ ∀ later : State,
      (later = { t with sch := { t.sch with croak := later.sch.croak } } → later.sch.croak < croak s + k.occ + k.lat →
        exec (.newtInstructionComplete n v.pc) later = .next later) ∧
      (later = { t with sch := { t.sch with croak := later.sch.croak } } → croak s + k.occ + k.lat ≤ later.sch.croak →
       ∃ u, exec (.newtInstructionComplete n v.pc) later = .next u ∧
      (∀ a, memByte (newt u n.val).pond a =
        (let src := pondNat v ob 4
         let len := pondNat v (ob + 4) 4
         let dst := pondNat v (ob + 8) 4
         if dst ≤ a ∧ a < dst + len then memByte v.pond (src + (a - dst)) else memByte v.pond a)) ∧
      (newt u n.val).inflight = [] ∧ (newt u n.val).pc = (afterIssue (croak s) v).pc ∧ (∀ m, m ≠ n.val → newt u m = newt s m) ∧
      u = { later with newts := u.newts })) ∧
  (∀ (n : Fin 2048) (s : State), s.Wf → atHead s n.val 0x20 → goesOn (newt s n.val) →
    let v := newt s n.val
    let w := headWord s n.val
    fmtXOk w = true → bits w 44 31 = 0 → unitBusy s v .register = false → ∃ x, exec (.wclr n) s =
        .next (setNewt n.val (afterIssue (croak s) { v with
          wr := x, wrAdds := v.wrAdds.filter (fun e => decide (e.1 < iRb w ∨ iRb w + iNr w ≤ e.1))
          held := v.held && iNr w != 64 }) s) ∧
      (tsorted v.wr → ∀ r, tget {} x r = if iRb w ≤ r ∧ r < iRb w + iNr w then {} else tget {} v.wr r)) ∧
  (∀ (n : Fin 2048) (s : State), s.Wf → atHead s n.val 0x21 → goesOn (newt s n.val) → (newt s n.val).inflight = [] →
    let v := newt s n.val
    let w := headWord s n.val
    v.abortPend = false → fmtXOk w = true → inGeneral v (iAddr w, 96 * iNr w) = true →
    ∃ t, exec (.wsv n) s = .next t ∧ ∀ later : State,
      later = { t with sch := { t.sch with croak := later.sch.croak } } →
      croak s + (iNr w * 96 + 255) / 256 + 4 ≤ later.sch.croak →
      ∃ u, exec (.newtInstructionComplete n v.pc) later = .next u ∧
      (∀ a, memByte (newt u n.val).pond a =
        (if iAddr w ≤ a ∧ a < iAddr w + 96 * iNr w then
          (saveRecord (tget {} v.wr (iRb w + (a - iAddr w) / 96))).getD ((a - iAddr w) % 96) 0
         else memByte v.pond a)) ∧
      (newt u n.val).wr = v.wr ∧ (newt u n.val).held = v.held ∧ u = { later with newts := u.newts }) ∧
  (∀ (n : Fin 2048) (s : State), s.Wf → atHead s n.val 0x22 → goesOn (newt s n.val) → (newt s n.val).inflight = [] →
    let v := newt s n.val
    let w := headWord s n.val
    fmtXOk w = true → inGeneral v (iAddr w, 96 * iNr w) = true → tsorted v.wr →
    (∀ i, i < iNr w → allZero (pondRead v (iAddr w + 96 * i + 81) 15) = true ∧ pondNat v (iAddr w + 96 * i + 80) 1 < 32) →
    ∃ t, exec (.wld n) s = .next t ∧ (newt t n.val).held = true ∧ (newt t n.val).pond = v.pond ∧
      (∀ r, tget {} (newt t n.val).wr r = if iRb w ≤ r ∧ r < iRb w + iNr w
        then loadRecord (pondRead v (iAddr w + 96 * (r - iRb w)) 96) else tget {} v.wr r) ∧
      t = { s with newts := t.newts, free := t.free }) ∧
  (∀ r : WReg, loadRecord (saveRecord r) = r)

/-- A cell of a living collective that lands in the general region clear of issued instructions' ranges stores its bytes
and adds 1 to its landing counter; a second arrival of a contribution, on a 64-byte block or in a 256-byte cell of
its stream where one has landed, is discarded with 0x0A08 and writes nothing, and a pending collective, of which no
CMT is due in that cycle, is asked to abort with that cause; a landing that R89 refuses stops the newt with 0x0908
and stores nothing; a cell of an aborted collective is discarded. An ASB packet adds to the counters of the block at
its address. An escape record waits in the newt's window while it has room. The completion of an instruction, once
its cycles have passed, lands its writes, merges its status update and takes it from the issued ones. (03_newts.md
(R87, R89, R102); 04_collectives.md (R133, R135, R148, R150).) -/
def Obligations.NewtLandings : Prop :=
  (∀ (n : Fin 2048) (c : LandCell) (s : State), s.Wf → up s = true →
    let v := newt s n.val
    let k := tget 0 v.lc c.lc
    let contrib := c.tag.kind = 0 ∨ c.tag.kind = 1
    (collDead s c.tag.coll = true → exec (.cellLanding n c) s = .next (discard 2 s)) ∧
    (collDead s c.tag.coll = false → landBad v (c.addr, c.data.length) = true ∨ 2 ^ 32 ≤ k + 1 →
      exec (.cellLanding n c) s = .next (newtError n.val 0x0908 v.pc c.lc true s)) ∧
    (collDead s c.tag.coll = false → landBad v (c.addr, c.data.length) = false → k + 1 < 2 ^ 32 →
      (contrib → ∀ x ∈ v.arrivals, arrivalMeets c.tag c.addr c.data.length x = false) → ∃ t, exec (.cellLanding n c) s = .next t ∧
        (∀ a, memByte (newt t n.val).pond a = if c.addr ≤ a ∧ a < c.addr + c.data.length then c.data.getD (a - c.addr) 0
          else memByte v.pond a) ∧
        (newt t n.val).lc = tset 0 v.lc c.lc (k + 1) ∧
        (contrib → (newt t n.val).arrivals = v.arrivals ++ [arrivalOf c]) ∧
        (¬ contrib → (newt t n.val).arrivals = v.arrivals) ∧ (newt t n.val).partAt = partLand c v.partAt ∧
        newt t n.val = { v with pond := (newt t n.val).pond, lc := (newt t n.val).lc
                                arrivals := (newt t n.val).arrivals, partAt := (newt t n.val).partAt } ∧
        (∀ m, m ≠ n.val → newt t m = newt s m) ∧ t = { s with newts := t.newts }) ∧
    (collDead s c.tag.coll = false → landBad v (c.addr, c.data.length) = false → k + 1 < 2 ^ 32 → contrib →
      (∃ x ∈ v.arrivals, arrivalMeets c.tag c.addr c.data.length x = true) →
      (unreported s c.tag.coll = true → (coll s c.tag.coll).state = .pending → (coll s c.tag.coll).commitChip ≠ s.rte.coord →
        drains s 4 = false → ∃ t, exec (.cellLanding n c) s = .next t ∧ t.newts = s.newts ∧ (rasRec t 0x0A08).set = true ∧
          t.swc.disc = (discard 3 s).swc.disc ∧
          t.out.getLast? = some (.mgmt "ABORT" (coll s c.tag.coll).commitChip
            (collVals 10 c.tag.coll 0x0A08 0xFFFFFFFF [fchipOf s.rte.coord, n.val, 2]))) ∧
      (unreported s c.tag.coll = true → (coll s c.tag.coll).state = .pending → (coll s c.tag.coll).commitChip = s.rte.coord →
        (∀ m ∈ workers s c.tag.coll, cmtDue s m = false) →
        ∃ t, exec (.cellLanding n c) s = .next t ∧ (coll t c.tag.coll).state = .aborting ∧
          (coll t c.tag.coll).cause = 0x0A08 ∧ (rasRec t 0x0A08).set = true ∧ (∀ m, (newt t m).pond = (newt s m).pond)) ∧
      (unreported s c.tag.coll = false ∨ (coll s c.tag.coll).state ≠ .pending →
        ∃ t, exec (.cellLanding n c) s = .next t ∧ t.newts = s.newts ∧ t.colls = s.colls ∧ (rasRec t 0x0A08).set = true ∧
          t.swc.disc = (discard 3 s).swc.disc))) ∧
  (∀ (t : CollTag) (a n : Nat) (x : Arrival), arrivalMeets t a n x = true ↔ rangesMeet (a, n) (x.addr, x.len) = true ∨
    (x.coll = t.coll ∧ x.kind = t.kind ∧ x.tile = t.tile ∧ x.rank = t.rank ∧ a < x.addr + 256 ∧ x.addr < a + 256)) ∧
  (∀ (n : Fin 2048) (c : LandCell) (s : State), s.Wf → up s = true →
    let v := newt s n.val
    let k := tget 0 v.lc c.lc
    collDead s c.tag.coll = false → landBad v (c.addr, 40) = false → k + 1 < 2 ^ 32 →
    ∃ t, exec (.asbPacketMerge n c) s = .next t ∧ (newt t n.val).lc = tset 0 v.lc c.lc (k + 1) ∧
      (newt t n.val).pond = memWrite v.pond c.addr (asbMerge (pondRead v c.addr 40) (slice c.data 0 40)) ∧
      (∀ m, m ≠ n.val → newt t m = newt s m) ∧ t.colls = s.colls ∧ t.jobs = s.jobs ∧ t.sync = s.sync) ∧
  (∀ (n : Fin 2048) (e : EscapeRec) (s : State), s.Wf → up s = true →
    (collDead s e.coll = true → exec (.escapeRecordLand n e) s = .next (discard 2 s)) ∧
    (collDead s e.coll = false → escUsed (newt s n.val) + escSize e ≤ 16384 → exec (.escapeRecordLand n e) s =
      .next (setNewt n.val { newt s n.val with escapes := (newt s n.val).escapes ++ [{ er := e, spill := none, hdrs := [] }] } s))) ∧
  (∀ (n : Fin 2048) (i : Inflight) (r : List Inflight) (s : State), s.Wf → up s = true → (newt s n.val).inflight = i :: r →
    i.sigObj = none → i.packets = [] → i.newEscapes = [] → i.dropEscapes = [] → (newt s n.val).abortPend = false → i.due ≤ croak s →
    (r.head?.map (fun j => j.sigObj.isSome)).getD false = false →
    let v := newt s n.val
    let p := i.land.foldl (fun m e => memWrite m e.1 e.2) v.pond
    ∃ t, exec (.newtInstructionComplete n i.pc) s = .next t ∧ (newt t n.val).inflight = r ∧ (newt t n.val).pc = v.pc ∧
      (i.asb = none → (newt t n.val).pond = p ∧ t = { s with newts := t.newts }) ∧
      (∀ a d, i.asb = some (a, d) → (newt t n.val).pond = memWrite p a (asbMerge (memRead p a 40) d) ∧
        (newt t n.val).asbOf = (if tget 0 v.asbOf i.coll = 0 then tset 0 v.asbOf i.coll a else v.asbOf)) ∧
      (∀ m, m ≠ n.val → newt t m = newt s m))

/-- An error puts its newt into ERROR and records its code; NWT_ERR holds the code and place of the first one, of
several in one cycle that of the lowest PC, and counts the others. A WLAND that times out stops its newt with
0x090C, one that an abort has abandoned does not. A pause takes effect at a TBND with nothing in progress. An abort
of a newt with nothing in progress ends its program with ABORTED; a newt with instructions in progress stops issuing
until they complete; one whose scheduled job has not yet started it is DONE with ABORTED at once; one in ERROR stays
there and is marked ABORTED; any other is left. A CMT that meets every condition of issue in the cycle of the abort
commits first. (03_newts.md (R93, R94, R95, R97); 04_collectives.md (R511).) -/
def Obligations.NewtStops : Prop :=
  (∀ (n : Fin 2048) (code pc lc : Nat) (s : State), s.Wf → up s = true → definedCode code = true →
    let v := newt s n.val
    let t := newtError n.val code pc lc true s
    (newt t n.val).state = .error ∧ (rasRec t code).set = true ∧ (newt t n.val).err = true ∧
    (v.err = false → (newt t n.val).errCode = code ∧ (newt t n.val).errPc = pc) ∧
    (v.err = true → (newt t n.val).more = min 255 (v.more + 1) ∧
      (v.errAt = croak s ∧ pc < v.errPc → (newt t n.val).errCode = code ∧ (newt t n.val).errPc = pc) ∧
      (¬ (v.errAt = croak s ∧ pc < v.errPc) → (newt t n.val).errCode = v.errCode ∧ (newt t n.val).errPc = v.errPc)) ∧
    (newt t n.val).pond = v.pond ∧ (newt t n.val).pc = v.pc) ∧
  (∀ (n : Fin 2048) (s : State), up s = true → (newt s n.val).state = .stall → (newt s n.val).stall = 1 →
    iOpc (headWord s n.val) = 8 →
    ((newt s n.val).abortPend = false →
      exec (.wlandTimeout n) s = .next (newtError n.val 0x090C (newt s n.val).pc (iIdx (headWord s n.val)) true s)) ∧
    ((newt s n.val).abortPend = true → exec (.wlandTimeout n) s = .next s)) ∧
  (∀ (n : Fin 2048) (s : State), up s = true → issuing (newt s n.val) = true → iOpc (headWord s n.val) = 0xD → (newt s n.val).pausePend = true → (newt s n.val).inflight = [] →
    exec (.newtPause n) s = .next (setNewt n.val { newt s n.val with state := .paused, stall := 0, pausePend := false } s)) ∧
  (∀ (n : Fin 2048) (c : Nat) (s : State), s.Wf → up s = true →
    let v := newt s n.val
    v.state = .run ∨ v.state = .stall ∨ v.state = .paused → v.abortPend = false → (∀ d ∈ v.colls, d = c) →
    (cmtDue s n.val = true → ∃ t, exec (.newtAbort n c) s = .next t ∧ (newt t n.val).aborted = (v.inflight.isEmpty || v.aborted) ∧
      (newt t n.val).abortPend = !v.inflight.isEmpty ∧ (newt t n.val).issued = (v.issued + 1) % 2 ^ 32 ∧
      t.colls = (commitBy n.val (iArg (headWord s n.val)) s).colls) ∧
    (cmtDue s n.val = false → v.inflight = [] → ∃ t, exec (.newtAbort n c) s = .next t ∧ (newt t n.val).state = .done ∧ (newt t n.val).aborted = true ∧
      (newt t n.val).escapes = [] ∧ (∀ b ∈ t.pool.bufs, b.owner ≠ 0x100 + n.val) ∧ t.colls = s.colls) ∧
    (cmtDue s n.val = false → v.inflight ≠ [] → ∃ t, exec (.newtAbort n c) s = .next t ∧ (newt t n.val).abortPend = true ∧
      issuing (newt t n.val) = false ∧ (newt t n.val).inflight = v.inflight ∧ t.colls = s.colls)) ∧
  (∀ (n : Fin 2048) (c : Nat) (s : State), up s = true → (∀ d ∈ (newt s n.val).colls, d = c) →
    let v := newt s n.val
    (v.state = .idle → v.role = .scheduled → s.sch.job.isSome = true →
      exec (.newtAbort n c) s = .next (setNewt n.val { v with state := .done, aborted := true } s)) ∧
    (v.state = .error → exec (.newtAbort n c) s = .next (setNewt n.val { v with aborted := true } s)) ∧
    (v.state = .done ∨ (v.state = .idle ∧ (v.role ≠ .scheduled ∨ s.sch.job = none)) →
      exec (.newtAbort n c) s = .next s))

/-- Adding the same addends in any order gives the same register and tags, and so the same accumulated value; adding
them in groups and joining the groups gives the same as adding them one by one, whatever the groups, and an
unescaped partial block gives back each of its sums of finite addends to the sum that takes it. (R57.) -/
def Obligations.SumsOrderIndependent : Prop :=
  (∀ (base : Nat) (xs ys : List Val) (a : Acc), xs.Perm ys →
    xs.foldl (accAdd base) a = ys.foldl (accAdd base) a ∧
    accVal base (xs.foldl (accAdd base) a) = accVal base (ys.foldl (accAdd base) a)) ∧
  (∀ (base : Nat) (gs : List (List Val)) (a : Acc),
    (gs.map (fun g => g.foldl (accAdd base) {})).foldl accJoin a = gs.flatten.foldl (accAdd base) a) ∧
  (∀ (chain : Bool) (pw i free : Nat) (gs : List (List Val)) (a : Acc), pw ≤ 2 → gs.length = 32 → i < 32 →
    (∀ g ∈ gs, g ≠ [] ∧ ∀ v ∈ g, ∃ s m e, v = .fin s m e) →
    let base := accBase chain
    let sums := gs.map (fun g => g.foldl (accAdd base) {})
    (∀ x ∈ sums, x.w.natAbs < 2 ^ (2 * base)) → (partialBlock base pw sums).2 = false →
    partialAdd base pw (partialBlock base pw sums).1 free a i = (gs.getD i []).foldl (accAdd base) a)

/-- A channel that takes a WAIT on a plain COUNTER with D available takes D and its descriptor may complete; with less
it waits in its turn. A SIG on a plain COUNTER with room adds D to PROD and completes. A BARR arrives at its leaf
and waits until every enabled leaf has; the last to arrive flips OUT, advances PROD and may complete. A BARR whose
leaf an abandoned arrival left made (R167) toggles the leaf back, which then equals OUT, and may complete at once
(log 117). Other channels and objects are unchanged. (12_memory_pools_dma.md (R405, R407, R408, R410, Table 12-5);
05_synchronisation.md (R157, R163, R170).) -/
def Obligations.DmaSyncDescriptors : Prop :=
  ∀ (ch : Fin 64) (d : List Byte) (s : State), s.Wf → chanTakes ch.val s = true → descCheck ch.val d s = none →
    let c := chan s ch.val
    let o := obj s (dObj d)
    let l := bline s o.bl
    (dOp d = 4 → 1 ≤ dCount d → dCount d ≤ 65535 → o.kind = 1 → o.proxy = false → o.waiters = [] →
      ∃ t, exec (.dmaWait ch d) s = .next t ∧ (∀ k, k ≠ ch.val → chan t k = chan s k) ∧
        (∀ k, k ≠ dObj d → obj t k = obj s k) ∧ t = { s with dma := t.dma, sync := t.sync } ∧
        (dCount d ≤ avail o → obj t (dObj d) = { o with cons := (o.cons + dCount d) % 2 ^ 64 } ∧
          chan t ch.val = { c with cur := some d, readback := true }) ∧
        (avail o < dCount d → obj t (dObj d) = { o with waiters := [{ agent := agentDma ch.val, d := dCount d }] } ∧
          chan t ch.val = { c with cur := some d, readback := false, state := .wait })) ∧
    (dOp d = 5 → 1 ≤ dCount d → dCount d ≤ 65535 → o.kind = 1 → o.proxy = false → o.counted = false → o.waiters = [] →
      avail o + dCount d ≤ o.depth → exec (.dmaSig ch d) s =
        .next (chanDone ch.val d (setObj (dObj d) { o with prod := (o.prod + dCount d) % 2 ^ 64 }
          (setChan ch.val { c with cur := some d, readback := false } s)))) ∧
    (dOp d = 6 → c.arrived = false → o.kind = 2 → o.fabric = false → o.waiters = [] → 2048 + ch.val ∈ l.mask →
      2048 + ch.val ∉ l.arrived →
      ∃ t, exec (.dmaBarr ch d) s = .next t ∧ (∀ k, k ≠ ch.val → chan t k = chan s k) ∧
        (∀ k, k ≠ dObj d → obj t k = obj s k) ∧ t = { s with dma := t.dma, sync := t.sync } ∧
        ((∃ i, i ∈ l.mask ∧ i ≠ 2048 + ch.val ∧ i ∉ l.arrived) →
          chan t ch.val = { c with cur := some d, readback := false, arrived := true, state := .wait } ∧
          obj t (dObj d) = { o with waiters := [{ agent := agentDma ch.val, d := 0 }] } ∧
          2048 + ch.val ∈ (bline t o.bl).arrived ∧ (bline t o.bl).out = l.out) ∧
        ((∀ i, i ∈ l.mask → i = 2048 + ch.val ∨ i ∈ l.arrived) →
          chan t ch.val = { c with cur := some d, readback := true, arrived := true } ∧
          obj t (dObj d) = { o with prod := (o.prod + 1) % 2 ^ 64 } ∧
          (bline t o.bl).arrived = [] ∧ (bline t o.bl).out = !l.out)) ∧
    (dOp d = 6 → c.arrived = false → o.kind = 2 → o.fabric = false → o.waiters = [] → 2048 + ch.val ∈ l.mask →
      2048 + ch.val ∈ l.arrived →
      ∃ t, exec (.dmaBarr ch d) s = .next t ∧ (∀ k, k ≠ ch.val → chan t k = chan s k) ∧ (∀ k, obj t k = obj s k) ∧
        chan t ch.val = { c with cur := some d, readback := true, arrived := true } ∧
        bline t o.bl = { l with arrived := l.arrived.filter (fun i => decide (i ≠ 2048 + ch.val)) } ∧
        t = { s with dma := t.dma, sync := t.sync })

/-- In a running chip that drains no MGMT: an abort request for a pending collective goes to its commit chip; on that
chip it makes the collective ABORTING with the cause, unless its CMT issues in that cycle and so commits it first
(R94), sends a notice to every other chip with the ASB merged so far, and stops every participant that issues or
waits for its job to start. A timeout that runs records 0x0A02 and makes that request; one that does not run changes
nothing. A notice ends the collective on another chip of the group, adds one record to its job, and is acknowledged;
the decided outcome adds the record on the commit chip, with the ASB as it stood at the CMT, or that merged so far
for an abort. DELIVERED is sent once for each member port, when the link has acknowledged all its result cells;
before that, again, or for a collective that is not pending it changes nothing. A request or notice for a collective
that is not pending, and a decision for one that is pending, change nothing. A posted collective whose job runs, and
whose table from the commit chip is there if one is needed, is placed on the free newts that the command names: they
run from instruction 0 for it, keeping the unreported collectives that they have worked for, their error words and
performance counts; one whose work names a quarantined object aborts with 0x0408 (log 158). Messages carry the tag
of Table 4-4 (log 131). (03_newts.md (R94); 04_collectives.md (R141, R142, R143, R144, R145, R147, R511, Table 4-8,
Table 4-9); 05_synchronisation.md (R182, R183); 13_host_interface.md (R432, R434); notes/assumptions/158.md.) -/
def Obligations.CollectiveOutcomes : Prop :=
  (∀ (c cause : Nat) (p : FaultPlace) (s : State), s.Wf → up s = true → drains s 4 = false →
    let v := coll s c
    (unreported s c = false ∨ v.state ≠ .pending → exec (.abortRequest c cause p) s = .next s) ∧
    (unreported s c = true → v.state = .pending → v.commitChip ≠ s.rte.coord → exec (.abortRequest c cause p) s =
      .next { s with out := s.out ++ [.mgmt "ABORT" v.commitChip (collVals 10 c cause 0xFFFFFFFF [p.fchip, p.funit, p.fkind])] }) ∧
    (∀ n, unreported s c = true → v.state = .pending → v.commitChip = s.rte.coord → workers s c = [n] → cmtDue s n = true →
      iArg (headWord s n) = c → exec (.abortRequest c cause p) s = .next (commitBy n c s)) ∧
    (unreported s c = true → v.state = .pending → v.commitChip = s.rte.coord → (∀ m ∈ workers s c, cmtDue s m = false) →
      ∃ t, exec (.abortRequest c cause p) s = .next t ∧
      coll t c = { v with state := .aborting, cause := cause, place := p, ctxs := [], asb := commitAsb c s } ∧
      (∀ h ∈ v.chips, Out.mgmt "NOTICE" h (collVals 12 c 0 0xFFFFFFFF
        ([1, cause, p.fchip, p.funit, p.fkind] ++ (commitAsb c s).map (·.toNat))) ∈ t.out) ∧
      (∀ n ∈ v.parts, stoppable s n = true → (newt t n).abortPend = true ∨ (newt t n).aborted = true))) ∧
  (∀ (c : Nat) (s : State), s.Wf → up s = true → drains s 4 = false →
    let v := coll s c
    let p : FaultPlace := { fchip := fchipOf s.rte.coord, funit := 0, fkind := 5 }
    (timeoutRuns s c = false → exec (.collTimeout c) s = .next s) ∧
    (timeoutRuns s c = true → ∃ t, exec (.collTimeout c) s = .next t ∧ (rasRec t 0x0A02).set = true ∧
      (v.commitChip = s.rte.coord → (∀ m ∈ workers s c, cmtDue s m = false) →
        coll t c = { v with state := .aborting, cause := 0x0A02, place := p, ctxs := [], asb := commitAsb c s }) ∧
      (v.commitChip ≠ s.rte.coord → coll t c = v ∧
        t.out.getLast? = some (.mgmt "ABORT" v.commitChip (collVals 10 c 0x0A02 0xFFFFFFFF [p.fchip, 0, 5]))))) ∧
  (∀ (c status cause : Nat) (p : FaultPlace) (asb : List Byte) (s : State), s.Wf → up s = true → drains s 4 = false →
    let v := coll s c
    let asb' := slice asb 0 40
    (unreported s c = false ∨ v.state ≠ .pending ∨ v.commitChip = s.rte.coord →
      exec (.noticeReceive c status cause p asb) s = .next s) ∧
    (unreported s c = true → v.state = .pending → v.commitChip ≠ s.rte.coord → status = 0 → v.abortSlots = [] →
      ∃ t, exec (.noticeReceive c status cause p asb) s = .next t ∧
        coll t c = { v with state := .completed, reported := true, ctxs := [], asb := asb' } ∧
        job t v.job = jobCount c 0 { v with asb := asb' } (job s v.job) ∧
        t.out = s.out ++ [.mgmt "ACK" v.commitChip [c, 0]] ∧
        t = { s with colls := t.colls, jobs := t.jobs, out := t.out }) ∧
    (unreported s c = true → v.state = .pending → v.commitChip ≠ s.rte.coord → status = 1 →
      ∃ t, exec (.noticeReceive c status cause p asb) s = .next t ∧ (coll t c).state = .aborted ∧ (coll t c).reported = true ∧
        (coll t c).cause = cause ∧ (coll t c).place = p ∧ (job t v.job).nfail = (job s v.job).nfail + 1 ∧
        (job t v.job).held.length = (job s v.job).held.length + 1 ∧
        t.out.getLast? = some (.mgmt "ACK" v.commitChip [c, 1]))) ∧
  (∀ (c : Nat) (s : State), s.Wf → up s = true → unreported s c = true → (coll s c).commitChip = s.rte.coord →
    (coll s c).abortSlots = [] →
    let v := coll s c
    let w := { v with asb := commitAsb c s }
    (v.state = .pending → exec (.outcomeDecided c) s = .next s) ∧
    (v.state = .committed → ∃ t, exec (.outcomeDecided c) s = .next t ∧
      coll t c = { v with state := .completed, reported := true, ctxs := [] } ∧
      job t v.job = jobCount c 0 v (job s v.job) ∧
      t = { s with colls := t.colls, jobs := t.jobs }) ∧
    (v.state = .aborting → ∃ t, exec (.outcomeDecided c) s = .next t ∧
      coll t c = { w with state := .aborted, reported := true, ctxs := [] } ∧
      job t v.job = jobCount c 1 w (job s v.job) ∧
      t = { s with colls := t.colls, jobs := t.jobs })) ∧
  (∀ (c : Nat) (port : Fin 128) (s : State), up s = true → drains s 4 = false →
    let v := coll s c
    (unreported s c = true → v.state = .pending → allDelivered s c port.val = true → port.val ∉ v.delivered →
      exec (.deliveredSend c port) s = .next (emit (.mgmt "DELIVERED" v.commitChip
        (collVals 11 c 0 (grpIndex v.group s.rte.coord) [port.val]))
        (setColl c { v with delivered := insertNat v.delivered port.val } s))) ∧
    (unreported s c = false ∨ v.state ≠ .pending ∨ allDelivered s c port.val = false ∨ port.val ∈ v.delivered →
      exec (.deliveredSend c port) s = .next s)) ∧
  (∀ (c : Nat) (table : List Byte) (work : List Placement) (s : State), s.Wf → fwRuns s = true → unreported s c = true →
    (coll s c).posted = true → (coll s c).started = false → (coll s c).state = .pending →
    (job s (coll s c).job).state = .running → tableHere s (coll s c) table = true → (∀ p ∈ work, placeable s p.newt.val = true ∧ 0 < p.progk ∧ p.progk ≤ 16) →
    (work.map (fun p => p.newt.val)).Nodup →
    (∀ e, (workObjs work).find? (fun e => (obj s e.1).quar) = some e → (coll s c).commitChip = s.rte.coord →
      (∀ m ∈ workers s c, cmtDue s m = false) → ∃ t, exec (.postedCollectiveStart c ⟨table, work⟩) s = .next t ∧
        (rasRec t 0x0408).set = true ∧ (coll t c).state = .aborting ∧ (coll t c).cause = 0x0408 ∧ (coll t c).started = false) ∧
    ((∀ e ∈ workObjs work, (obj s e.1).quar = false) → ∃ t, exec (.postedCollectiveStart c ⟨table, work⟩) s = .next t ∧
      coll t c = { coll s c with started := true, parts := (coll t c).parts, commitNewt := (coll t c).commitNewt
                                 epipar := (coll s c).epipar ++ table } ∧
      (∀ n, n ∈ (coll t c).parts ↔ ∃ p ∈ work, p.newt.val = n) ∧
      (coll t c).commitNewt = (work.find? (fun p => commits (newt t p.newt.val) c)).map (fun p => p.newt.val) ∧ (∀ d, d ≠ c → coll t d = coll s d) ∧
      (∀ p ∈ work, (newt t p.newt.val).state = .run ∧ (newt t p.newt.val).pc = 0 ∧ (newt t p.newt.val).colls = c :: (newt s p.newt.val).colls.filter (unreported s) ∧
        (newt t p.newt.val).progSize = p.progk ∧ (newt t p.newt.val).inflight = [] ∧
        (newt t p.newt.val).err = (newt s p.newt.val).err ∧ (newt t p.newt.val).more = (newt s p.newt.val).more ∧
        (newt t p.newt.val).issued = (newt s p.newt.val).issued ∧ (newt t p.newt.val).stalled = (newt s p.newt.val).stalled ∧
        (newt t p.newt.val).aborted = (newt s p.newt.val).aborted ∧ (newt t p.newt.val).coll = (newt s p.newt.val).coll ∧
        (p.pond = [] → ∀ i w, p.words[i]? = some w → wordAt (newt t p.newt.val) i = w.toNat)) ∧
      (∀ n, (∀ p ∈ work, p.newt.val ≠ n) → newt t n = newt s n) ∧
      (∀ j, job t j = { job s j with touched := (job t j).touched }) ∧
      (∀ e ∈ workObjs work, e.1 ∈ (job t (coll s c).job).touched) ∧
      t = { s with newts := t.newts, colls := t.colls, jobs := t.jobs }))

/-- In a running chip: an ARMED job whose launch count is reached enters RUNNING, and its scheduled newts start. At a
pad boundary of a running job with no cell in flight, JP advances by 1, and an instance that is late at its call
point raises a call stamped with the next job pad. A freeze that is due starts quantum 1 with JP held; a frozen pad
advances the pad count, an extended freeze starts the next quantum, and FREEZE_END resumes JP's count. An extension
call is raised at the pad H before a quantum's end where an instance is still late or a cell of a newt, sent or not,
or of an endpoint is behind. The density byte two horizons before an epoch's end is the want, the pause request and
the next epoch. At a clear epoch boundary the next epoch begins at the level that a byte for that epoch gives, or
pauses; a byte for another epoch leaves the level; at a boundary that is not clear the job stops with 0x0B09. A job
that is over enters ENDED with its run record. Without an enabled mirror session, and with no queued packet that
still waits for cells, the pads change the schedule unit, the newts, the quads and the count of packet numbers
alone. Out of its condition each command changes nothing. (06_schedule_and_determinism.md (R195, R196, R197, R198,
R202, R203, R204, R206, R207, R208, R209); 06_schedule_and_determinism.md (R216, R217).) -/
def Obligations.SchedulePads : Prop :=
  (∀ (j : Fin 64) (s : State), s.Wf → up s = true →
    let v := job s j.val
    (v.state ≠ .armed ∨ croak s < v.launchL → exec (.launchCountReached j) s = .next s) ∧
    let begun := if s.sch.epoch < pgEpochs s then lmod v.epochs s.sch.level (· + 1) else v.epochs
    let v' := { v with orphaned := v.orphaned || s.hif.state == .orphan }
    (v.state = .armed → v.launchL ≤ croak s → v.sched = false ∨ s.sch.job ≠ some j.val ∨ s.sch.state ≠ .armed →
      exec (.launchCountReached j) s = .next (jobState j.val .running (setJob j.val v' s))) ∧
    (v.state = .armed → v.launchL ≤ croak s → v.sched = true → s.sch.job = some j.val → s.sch.state = .armed →
      ∃ t, exec (.launchCountReached j) s = .next t ∧ (job t j.val).state = .running ∧ t.sch.state = .run ∧
        t.sch.jp = s.sch.jp ∧ job t j.val = { v' with state := .running, epochs := begun } ∧ (∀ k, k ≠ j.val → job t k = job s k) ∧
        (∀ n, (newt s n).role = .scheduled → (newt s n).state = .idle ∨ (newt s n).state = .paused → (newt t n).state = .run) ∧
        (∀ n, (newt s n).role ≠ .scheduled → newt t n = { newt s n with sent := (newt t n).sent }) ∧
        ((∀ i, (tget {} s.swc.mirrors i).en = false) → (∀ h ∈ s.swc.queues, h.pkt.left = 0) → t = { s with
          sch := t.sch, newts := t.newts, quads := t.quads, jobs := t.jobs, hif := t.hif, swc := { s.swc with nextId := t.swc.nextId } }))) ∧
  (∀ s : State, s.Wf → up s = true → s.sch.flights = [] →
    (croak s % 128 ≠ 0 ∨ (s.sch.state ≠ .run ∧ s.sch.state ≠ .frozen) ∨ boundaryTaken s = true →
      exec .padBoundary s = .next s) ∧
    (croak s % 128 = 0 → s.sch.state = .run → boundaryTaken s = false → freezeDue s = false → epochDue s = false →
      let late := (epochGroups s).any (fun g => (callAt s g s.sch.jp).any (fun k => groupShort s g (k + 1)))
      ∃ t, exec .padBoundary s = .next t ∧ t.sch.jp = s.sch.jp + 1 ∧ t.sch.state = .run ∧ boundaryTaken t = true ∧
        (late = true → t.sch.called = true ∧ t.sch.calledAt = some (croak s) ∧ t.sch.callPend = some (min (s.sch.jp + 1) (s.sch.callPend.getD (s.sch.jp + 1)))) ∧
        (late = false → t.sch.called = s.sch.called ∧ t.sch.callPend = s.sch.callPend) ∧ t.sch.slipPads = s.sch.slipPads ∧
        ((∀ i, (tget {} s.swc.mirrors i).en = false) → (∀ h ∈ s.swc.queues, h.pkt.left = 0) → t = { s with
          sch := t.sch, newts := t.newts, quads := t.quads, swc := { s.swc with nextId := t.swc.nextId } })) ∧
    (croak s % 128 = 0 → s.sch.state = .frozen → boundaryTaken s = false → freezeOver s = false →
      ∃ t, exec .padBoundary s = .next t ∧ t.sch.jp = s.sch.jp ∧ t.sch.state = .frozen ∧ boundaryTaken t = true ∧
        (t.sch.frozenPads, t.sch.quantum) = (if s.sch.frozenPads + 1 < pgSlipq s then (s.sch.frozenPads + 1, s.sch.quantum)
          else if s.sch.quantum ≤ s.sch.extQuantum then (0, s.sch.quantum + 1) else (s.sch.frozenPads + 1, s.sch.quantum)) ∧
        t.sch.slipPads = (if s.sch.frozenPads + 1 < pgSlipq s ∨ s.sch.quantum ≤ s.sch.extQuantum then (s.sch.slipPads + 1) % 2 ^ 48
          else s.sch.slipPads) ∧
        ((∀ i, (tget {} s.swc.mirrors i).en = false) → (∀ h ∈ s.swc.queues, h.pkt.left = 0) → t = { s with
          sch := t.sch, newts := t.newts, quads := t.quads, swc := { s.swc with nextId := t.swc.nextId } }))) ∧
  (∀ s : State, s.Wf → up s = true →
    (freezeDue s = false → exec .freezeBegin s = .next s) ∧
    (freezeDue s = true → ∃ t, exec .freezeBegin s = .next t ∧ t.sch.state = .frozen ∧ t.sch.quantum = 1 ∧
      t.sch.frozenPads = 0 ∧ t.sch.jp = s.sch.jp ∧ t.sch.callPend = none ∧ t.sch.lastJ = s.sch.callPend ∧
      t.sch.slipPads = (s.sch.slipPads + 1) % 2 ^ 48 ∧ t.sch.slipEvents = min 0xFFFFFFFF (s.sch.slipEvents + 1) ∧
      ((∀ i, (tget {} s.swc.mirrors i).en = false) → (∀ h ∈ s.swc.queues, h.pkt.left = 0) → t = { s with
        sch := t.sch, newts := t.newts, quads := t.quads, swc := { s.swc with nextId := t.swc.nextId } })) ∧
    (freezeOver s = false → exec .freezeEnd s = .next s) ∧
    (freezeOver s = true → ∃ t, exec .freezeEnd s = .next t ∧ t.sch.state = .run ∧ t.sch.quantum = 0 ∧ t.sch.frozenPads = 0 ∧
      t.sch.jp = s.sch.jp ∧ t.sch.slipPads = s.sch.slipPads ∧
      ((∀ i, (tget {} s.swc.mirrors i).en = false) → (∀ h ∈ s.swc.queues, h.pkt.left = 0) → t = { s with
        sch := t.sch, newts := t.newts, quads := t.quads, swc := { s.swc with nextId := t.swc.nextId } })) ∧
    (let call := (epochGroups s).any (fun g => groupShort s g (callsPassed s g s.sch.jp)) ||
        (scheduledNewts s).any (fun n => (newt s n).sent.any (fun e => routeBehind s e.1) || unsentBehind s n) || endpointBehind s
     (call = false → exec .extensionCall s = .next s) ∧
     (s.sch.state = .frozen → s.sch.frozenPads = pgSlipq s - pgH s → call = true → exec .extensionCall s = .next { s with
       sch := { s.sch with extended := true, extendedAt := some (croak s), extQuantum := max s.sch.extQuantum s.sch.quantum } })) ∧
    (s.sch.state ≠ .frozen ∨ s.sch.frozenPads ≠ pgSlipq s - pgH s → exec .extensionCall s = .next s)) ∧
  (∀ s : State, up s = true →
    let own := s.therm.want + 4 * bnat s.sch.pausePend + 8 * ((s.sch.epoch + 1) % 32)
    (s.sch.state = .run → s.sch.jp + 2 * pgH s = epochEnd s → exec .densitySample s = .next { s with
      sch := { s.sch with
        fbl62 := if s.sch.fbl62 / 8 = own / 8 then epochBytes s.sch.fbl62 own else own
        sampled := some s.sch.jp } }) ∧
    (s.sch.state ≠ .run ∨ s.sch.jp + 2 * pgH s ≠ epochEnd s → exec .densitySample s = .next s)) ∧
  (∀ s : State, s.Wf → up s = true →
    let d := s.sch.fbl62
    let given := decide (d / 8 = (s.sch.epoch + 1) % 32)
    (epochDue s = false → exec .epochBoundary s = .next s) ∧
    (epochDue s = true → epochClear s = false → ∃ t, exec .epochBoundary s = .next t ∧ t.sch.state = .stopped ∧
      (rasRec t 0x0B09).set = true ∧ t.sch.epoch = s.sch.epoch) ∧
    (epochDue s = true → epochClear s = true → ∃ t, exec .epochBoundary s = .next t ∧ t.sch.epoch = s.sch.epoch + 1 ∧
      t.sch.epochStart = s.sch.jp ∧ t.sch.jp = s.sch.jp ∧ t.sch.lastLevel = s.sch.level ∧
      t.sch.level = (if given then min 2 (d % 4) else s.sch.level) ∧
      t.sch.state = (if given && bitOf d 2 then .paused else .run) ∧
      (∀ j, s.sch.job = some j → given = true → bitOf d 2 = true → (job t j).state = .paused) ∧
      ((∀ i, (tget {} s.swc.mirrors i).en = false) → (∀ h ∈ s.swc.queues, h.pkt.left = 0) → t.sync = s.sync ∧ t.colls = s.colls ∧ t.dma = s.dma))) ∧
  (∀ (j : Fin 64) (s : State), s.Wf → up s = true →
    (jobOver s j.val = false → exec (.jobDone j) s = .next s) ∧
    (jobOver s j.val = true → ∃ t, exec (.jobDone j) s = .next t ∧ (job t j.val).state = .ended ∧
      (job t j.val).record.take 4 = leBytes 4 0x31525243 ∧ (∀ k, k ≠ j.val → job t k = job s k) ∧
      ((job s j.val).sched = true → t.sch.state = .idle ∧ t.sch.job = none) ∧
      ((job s j.val).sched = false → t.sch = s.sch) ∧ t.newts = s.newts ∧ t.colls = s.colls ∧ t.quads = s.quads))

/-- In a running chip: the master's heartbeat advances its sequence number modulo 2^32. A chip that has lost its master,
also one that has heard of the election first, raises 0x0B02, is UNALIGNED, and its scheduled job stops. A
correction moves the count of an idle chip by the offset along its shortest path to the master, rounded to a tick,
and its neighbours' offsets and the counts at which the host's last heartbeat came and at which its loss falls due
with it, and aligns it within 25 hops with the bound 0.5 + 0.06 h; the first one after an election leaves a count
within 2 ticks; without a path nothing changes (log 144). A chip that drains MGMT sends no bid yet (R312). An
election that opens enters the next term with the chip's own bid, which goes to every other chip; a bid of the term
is collected once for each chip, and one of a higher term enters that term. The decision makes the eligible bid that
no other beats the master; with none it raises 0x0C16. A retry enters the next term. (06_schedule_and_determinism.md
(R190, R191, R192); 13_host_interface.md (R441); notes/assumptions/144.md; notes/assumptions/171.md;
14_firmware_and_lifecycle.md (R461).) -/
def Obligations.CroakMaster : Prop :=
  (∀ s : State, up s = true →
    (s.sch.master = true → exec .masterHeartbeat s = .next { s with sch := { s.sch with hbSeq := (s.sch.hbSeq + 1) % 2 ^ 32 } }) ∧
    (s.sch.master = false → exec .masterHeartbeat s = .next s)) ∧
  (∀ s : State, s.Wf → up s = true →
    let heard := s.sch.electing && s.sch.term != 0
    (s.sch.master = true ∨ (s.sch.align = .unaligned ∧ heard = false) → exec .schMasterLost s = .next s) ∧
    (s.sch.master = false → s.sch.align ≠ .unaligned ∨ heard = true → ∃ t, exec .schMasterLost s = .next t ∧ t.sch.align = .unaligned ∧
      (rasRec t 0x0B02).set = true ∧ t.sch.masterLostBit = true ∧ (schActive s = true → t.sch.state = .stopped) ∧
      (schActive s = false → t.sch.state = s.sch.state ∧ t.newts = s.newts ∧ t.colls = s.colls))) ∧
  (∀ (xs ys zs : List ChipLink) (s : State), up s = true →
    (∀ (h : Nat) (sum : Int), s.sch.state = .idle → s.sch.master = false → s.sch.term ≠ 0 → masterPath s (xs ++ ys ++ zs) = some (h, sum) →
      let delta : Int := if s.sch.hops = 0 ∧ sum.natAbs ≤ 32 then 0 else roundDiv sum 16
      ∃ t, exec (.alignmentCorrection xs ys zs) s = .next t ∧
      t.sch = { s.sch with croak := (s.sch.croak + delta.toNat) % 2 ^ 64, hops := h % 64, bound := (800 + 96 * h + 99) / 100 % 256
                           align := if h ≤ 25 then .aligned else .outOfBound } ∧
      (∀ q, quad t q = if (quad s q).measured then { quad s q with offset := (quad s q).offset - 16 * delta } else quad s q) ∧
      t = { s with sch := t.sch, quads := t.quads
                   hif := { s.hif with lastBeat := s.hif.lastBeat + delta.toNat, orphanAt := s.hif.orphanAt + delta.toNat } }) ∧
    (s.sch.state ≠ .idle ∨ s.sch.master = true ∨ s.sch.term = 0 ∨ masterPath s (xs ++ ys ++ zs) = none →
      exec (.alignmentCorrection xs ys zs) s = .next s)) ∧
  (∀ (c : Instr) (term : Nat) (s : State), fwRuns s = true → drains s 4 = false → s.lay.startupDone = true → s.sch.electing = false →
    (∃ e, c = .electionOpen e ∧ term = ((match e with | .termDiffers k => max (knownTerm s) k | _ => knownTerm s) + 1) % 2 ^ 32) ∨
      (c = .electionRetry ∧ s.sch.term < s.sch.electTerm ∧ term = (knownTerm s + 1) % 2 ^ 32) →
    exec c s = .next { s with
      sch := { s.sch with electing := true, electTerm := term, bids := [ownBid term s], align := .unaligned, master := false }
      out := s.out ++ (otherChips s).map (fun h => .mgmt "BID" h [term, mprio s, s.rte.coord]) }) ∧
  (∀ (b : Bid) (s : State), fwRuns s = true → s.lay.startupDone = true →
    (b.term ≤ knownTerm s → s.sch.electing = false ∨ b.term ≠ s.sch.electTerm → exec (.bidReceive b) s = .next s) ∧
    (b.term = knownTerm s → s.sch.electing = true → b.term = s.sch.electTerm → (∀ e ∈ s.sch.bids, e.coord ≠ b.coord) →
      exec (.bidReceive b) s = .next { s with sch := { s.sch with bids := s.sch.bids ++ [b] } }) ∧
    (s.sch.electing = true → (∃ e ∈ s.sch.bids, e.coord = b.coord) → b.term ≤ knownTerm s → exec (.bidReceive b) s = .next s) ∧
    (knownTerm s < b.term → b.coord ≠ s.rte.coord → drains s 4 = false → exec (.bidReceive b) s = .next { s with
      sch := { s.sch with electing := true, electTerm := b.term, bids := [ownBid b.term s, b], align := .unaligned, master := false }
      out := s.out ++ (otherChips s).map (fun h => .mgmt "BID" h [b.term, mprio s, s.rte.coord]) })) ∧
  (∀ s : State, s.Wf → fwRuns s = true →
    (s.sch.electing = false → exec .electionDecide s = .next s) ∧
    (s.sch.electing = true → (∀ e ∈ s.sch.bids, e.mprio = 0) → ∃ t, exec .electionDecide s = .next t ∧
      (rasRec t 0x0C16).set = true ∧ t.sch = { s.sch with electing := false, bids := [] }) ∧
    (s.sch.electing = true → (∃ e ∈ s.sch.bids, e.mprio ≠ 0) → ∃ t w, exec .electionDecide s = .next t ∧
      w ∈ s.sch.bids ∧ w.mprio ≠ 0 ∧ (∀ e ∈ s.sch.bids, e.mprio ≠ 0 → bidBeats e w = false) ∧
      t.sch = { s.sch with electing := false, bids := [], term := s.sch.electTerm, master := decide (w.coord = s.rte.coord)
                           masterXyz := w.coord, hbSeq := 0, hops := 0, bound := 0
                           align := if w.coord = s.rte.coord then .aligned else .measuring } ∧
      t = { s with sch := t.sch, log := t.log, lov := t.lov, free := t.free }))

/-- In a running chip: a DOWN quad with a use, not in maintenance and not held down, begins training at step 1; a step
whose condition holds ends, and step 3 with lanes that do not map once each or a skew above 160 takes the quad DOWN
with 0x0803; a training failure takes it DOWN with 0x0801; a failed link goes DOWN and leaves the packets it held.
MAINT takes the quad DOWN and keeps it there, its end and RETRAIN train it, and neither is taken while an active job
reserves the quad (0x0808). LNK_RQ sets a lane's request, LNK_SLIP moves its offset modulo 896 and its word boundary
in the frame by as many bits. An identity record of a torus neighbour that agrees moves the quad to MEASURE and
leaves an UP quad as it is; one from the wrong chip quarantines it with 0x0603; one with another major version
leaves it MGMT_ONLY with 0x0605, an UP quad after a molt too; the record of an endpoint on an UP quad draws the
address record and leaves the quad UP, or quarantines it with 0x0603 (R459). Where the quad leaves service, other
quads keep all but their credits and the slots that wait to be sent; otherwise they are unchanged.
(11_lanes_and_jelin_link.md (R370, R371, R373, R374, R376, R377, Table 11-13); 09_fabric_and_routing.md (R289, R291,
R293, R295, Table 9-6); 14_firmware_and_lifecycle.md (R459).) -/
def Obligations.LinkBringUp : Prop :=
  (∀ (c : Instr) (q : Fin 128) (s : State), s.Wf → up s = true → c = .trainingStart q ∨ c = .trainingRestart q →
    let v := quad s q.val
    let ready := v.use ≠ 0 ∧ v.state = .down ∧ v.maint = false ∧ linksHeld s = false
    (ready → ∃ t, exec c s = .next t ∧ (quad t q.val).state = .train ∧ (quad t q.val).step = 1 ∧
      (quad t q.val).trainAt = croak s ∧ (quad t q.val).use = v.use ∧ (quad t q.val).fails = v.fails ∧
      (quad t q.val).lanes.map (fun l => (l.req, l.offset, l.aligned)) = v.lanes.map (fun l => (l.req, l.offset, false)) ∧
      (∀ k, k ≠ q.val → quad t k = quad s k) ∧ t = { s with quads := t.quads }) ∧
    (¬ ready → exec c s = .next s)) ∧
  (∀ (q : Fin 128) (s : State), s.Wf → up s = true →
    let v := quad s q.val
    (v.state ≠ .train → exec (.trainingStepEnd q) s = .next s ∧ exec (.lnkTrainFail q) s = .next s) ∧
    (v.state = .train → ∃ t, exec (.lnkTrainFail q) s = .next t ∧ (quad t q.val).state = .down ∧ (rasRec t 0x0801).set = true ∧
      (∀ k, k ≠ q.val → quad t k = quad s k)) ∧
    (v.state = .train → v.step = 1 → (∀ l ∈ v.lanes, l.signal = true ∧ l.cdr = true) →
      exec (.trainingStepEnd q) s = .next (setQuad q.val { v with step := 2 } s)) ∧
    (v.state = .train → v.step = 2 → (∀ l ∈ v.lanes, l.aligned = true) →
      exec (.trainingStepEnd q) s = .next (setQuad q.val { v with step := 3 } s)) ∧
    (v.state = .train → v.step = 3 → (∀ n < 4, ∃ l ∈ v.lanes, l.farLane = n) → v.skew ≤ 160 →
      exec (.trainingStepEnd q) s = .next (setQuad q.val { v with step := 4, deskewed := true } s)) ∧
    (v.state = .train → v.step = 3 → (∃ n < 4, ∀ l ∈ v.lanes, l.farLane ≠ n) ∨ 160 < v.skew →
      ∃ t, exec (.trainingStepEnd q) s = .next t ∧ (quad t q.val).state = .down ∧ (rasRec t 0x0803).set = true) ∧
    (v.state = .train → v.step = 4 → (∀ l ∈ v.lanes, bitOf l.req 8 = true) →
      exec (.trainingStepEnd q) s = .next (setQuad q.val { v with step := 5 } s)) ∧
    (v.state = .train → v.step = 5 → 16 ≤ v.readyRun → ∃ t, exec (.trainingStepEnd q) s = .next t ∧ (quad t q.val).step = 6 ∧
      (quad t q.val).creds = List.replicate 9 { adv := 64 } ∧ (quad t q.val).replay = [] ∧ (quad t q.val).txQueue = [] ∧
      (quad t q.val).txSlot = 0 ∧ (∀ k, k ≠ q.val → quad t k = quad s k) ∧ t = { s with quads := t.quads }) ∧
    (v.state = .train → v.step = 6 → 0 < v.txSlot → v.ctrlSeen = true → ∃ t, exec (.trainingStepEnd q) s = .next t ∧
      (quad t q.val).state = .ident ∧ (quad t q.val).step = 7 ∧ (quad t q.val).cause = v.cause ∧
      v.txQueue.length < (quad t q.val).txQueue.length ∧ (∀ k, k ≠ q.val → quad t k = quad s k) ∧ t = { s with quads := t.quads })) ∧
  (∀ (q : Fin 128) (lane : Fin 4) (w : Word) (s : State), up s = true →
    let v := quad s q.val
    exec (.lnkRqWrite q lane w) s = .next (setQuad q.val { v with
      lanes := v.lanes.modify lane.val (fun l => { l with req := w.toNat % 65536 }) } s) ∧
    (1 ≤ bits w.toNat 11 2 → bits w.toNat 11 2 ≤ 895 → exec (.lnkSlip q w) s = .next (setQuad q.val { v with
      lanes := v.lanes.modify (w.toNat % 4) (fun l =>
        { l with offset := (l.offset + bits w.toNat 11 2) % 896, slipped := (l.slipped + bits w.toNat 11 2) % 17920, aligned := false, goodRun := 0 }) } s)) ∧
    (bits w.toNat 11 2 = 0 ∨ 895 < bits w.toNat 11 2 → exec (.lnkSlip q w) s = .next s)) ∧
  (∀ (c : Instr) (q : Fin 128) (w : Word) (s : State), s.Wf → up s = true → c = .maint q w ∨ c = .retrain q w →
    let v := quad s q.val
    let m := bitOf w.toNat 0
    let r := bitOf w.toNat 1
    (m = true ∨ r = true → v.reserved = true → schActive s = true → ∃ t, exec c s = .next t ∧ (rasRec t 0x0808).set = true ∧
      quad t q.val = { v with err := v.err ||| 128 } ∧ (∀ k, k ≠ q.val → quad t k = quad s k)) ∧
    (v.reserved = false ∨ schActive s = false →
      (m = true → v.maint = true → exec c s = .next s) ∧
      (m = true → v.maint = false → ∃ t, exec c s = .next t ∧ (quad t q.val).maint = true ∧ (quad t q.val).state = .down ∧
        (∀ k, k ≠ q.val → quadKept (quad s k) (quad t k))) ∧
      (m = false → r = false → v.maint = true → testSlot s q.val = none → v.use ≠ 0 → v.state = .down → linksHeld s = false →
        ∃ t, exec c s = .next t ∧ (quad t q.val).maint = false ∧ (quad t q.val).state = .train ∧ (quad t q.val).step = 1 ∧
          (∀ k, k ≠ q.val → quad t k = quad s k)) ∧
      (m = false → r = true → v.maint = false → v.use ≠ 0 → linksHeld s = false → ∃ t, exec c s = .next t ∧
        (quad t q.val).state = .train ∧ (quad t q.val).step = 1 ∧ (∀ k, k ≠ q.val → quadKept (quad s k) (quad t k))) ∧
      (m = false → r = false → v.maint = false → exec c s = .next s))) ∧
  (∀ (q : Fin 128) (s : State), s.Wf → up s = true →
    let v := quad s q.val
    (v.state = .down → exec (.quadLinkFailure q) s = .next s) ∧
    (v.state ≠ .down → ∃ t, exec (.quadLinkFailure q) s = .next t ∧ (quad t q.val).state = .down ∧ (quad t q.val).txQueue = [] ∧
      (quad t q.val).replay = [] ∧ (quad t q.val).measured = false ∧ (quad t q.val).use = v.use ∧
      (∀ k, k ≠ q.val → quadKept (quad s k) (quad t k)) ∧
      (∀ p, quadPort v = some p → v.state = .up → (∀ k, k ≠ q.val → k < 128 → quadPort (quad s k) = some p → (quad s k).state ≠ .up) →
        (rasRec t 0x0606).set = true))) ∧
  (∀ (q : Fin 128) (r : IdentRec) (s : State), s.Wf → up s = true →
    let v := quad s q.val
    let d := v.use - 1
    let back := if d % 2 = 0 then d + 1 else d - 1
    (v.use = 0 ∨ (v.state ≠ .ident ∧ v.state ≠ .mgmtOnly ∧ v.state ≠ .quarantine ∧ v.state ≠ .up) →
      exec (.identity q r) s = .next s) ∧
    (v.use = 7 → v.state = .up →
      (r.kind = 2 → r.major = 1 → r.qidx = v.qidx → ∃ t bs, exec (.identity q r) s = .next t ∧ bs ≠ [] ∧
        quad t q.val = { v with txQueue := v.txQueue ++ bs.map (fun b => (23, b)) } ∧ (∀ k, k ≠ q.val → quad t k = quad s k) ∧
        (tget {} t.rte.ep v.port).device = r.device ∧ (tget {} t.rte.ep v.port).vendor = r.vendor ∧
        t = { s with quads := t.quads, rte := { s.rte with ep := t.rte.ep } }) ∧
      (r.kind ≠ 2 → ∃ t, exec (.identity q r) s = .next t ∧ (rasRec t 0x0603).set = true ∧ (quad t q.val).state = .quarantine ∧
        (quad t q.val).cause = 0x0603 ∧ (∀ k, k ≠ q.val → quadKept (quad s k) (quad t k)))) ∧
    (1 ≤ v.use → v.use ≤ 6 → v.state = .up → r.kind = 1 → r.coord = neighbour s s.rte.coord d → r.dir = back → r.qidx = v.qidx →
      (r.major = fwMajor s → slice r.fp 0 32 = activeFp s → exec (.identity q r) s = .next s) ∧
      (r.major ≠ fwMajor s → ∃ t, exec (.identity q r) s = .next t ∧ (rasRec t 0x0605).set = true ∧
        (quad t q.val).state = .mgmtOnly ∧ (quad t q.val).cause = 0x0605 ∧ (quad t q.val).ncoord = r.coord ∧
        (∀ k, k ≠ q.val → quadKept (quad s k) (quad t k)))) ∧
    (1 ≤ v.use → v.use ≤ 6 → v.state = .ident →
      (r.kind = 1 → r.coord = neighbour s s.rte.coord d → r.dir = back → r.qidx = v.qidx → r.major = fwMajor s →
        slice r.fp 0 32 = activeFp s → exec (.identity q r) s =
          .next (setQuad q.val { v with state := .measure, ncoord := r.coord, exchanges := 0, sums := (0, 0) } s)) ∧
      (r.kind ≠ 1 ∨ r.coord ≠ neighbour s s.rte.coord d → ∃ t, exec (.identity q r) s = .next t ∧ (rasRec t 0x0603).set = true ∧
        quad t q.val = { v with state := .quarantine, ncoord := r.coord, cause := 0x0603 } ∧
        (∀ k, k ≠ q.val → quad t k = quad s k)) ∧
      (r.kind = 1 → r.coord = neighbour s s.rte.coord d → r.dir = back → r.qidx = v.qidx → r.major ≠ fwMajor s →
        ∃ t, exec (.identity q r) s = .next t ∧ (rasRec t 0x0605).set = true ∧
          quad t q.val = { v with state := .mgmtOnly, ncoord := r.coord, cause := 0x0605 } ∧
          (∀ k, k ≠ q.val → quad t k = quad s k)))) ∧
  (∀ (q : Fin 128) (s : State), s.Wf → up s = true →
    let v := quad s q.val
    (v.state = .mgmtOnly ∨ v.state = .quarantine → ∃ t, exec (.identityRepeat q) s = .next t ∧
      (∃ bs, bs ≠ [] ∧ quad t q.val = { v with txQueue := v.txQueue ++ bs.map (fun b => (23, b)) }) ∧
      (∀ k, k ≠ q.val → quad t k = quad s k) ∧ t = { s with quads := t.quads }) ∧
    (v.state ≠ .mgmtOnly → v.state ≠ .quarantine → exec (.identityRepeat q) s = .next s))

/-- In a running chip a quad that is DOWN sends and hears nothing. One in training before step 6, and one in step 6
until a pad whose number is a multiple of 4, sends a training frame; one in training before step 6, or that hears a
training frame, takes the markers only; a lane whose word boundary LNK_SLIP has moved keeps the bits of the frame
for the next one. One in step 6 or later sends a pad frame of four lanes, which ends the report that was due and the
scheduled cells of the pad, and moves its slot number by 32; with no scheduled cell to send, other quads are
unchanged (all this where no flit kept for replay has been reported bad: link retry fails where the frame evicts
one). The four lanes that a quad hears are descrambled and decoded: a pad frame with a usable header, on a quad out
of training, reports every slot that an uncorrectable codeword touches bad and counts the corrected codewords,
unless the link fails with 0x0804. A link whose retry fails raises 0x0804, is counted, and trains again from step 1,
and other quads keep all but their credits and the slots that wait to be sent. (11_lanes_and_jelin_link.md (R347,
R348, R355, R367, R368, R370, R371, R376).) -/
def Obligations.LinkFrames : Prop :=
  (∀ (q : Fin 128) (s : State), s.Wf → up s = true →
    let v := quad s q.val
    let early := v.step < 6 ∨ (v.txSlot = 0 ∧ croak s / 128 % 4 ≠ 0)
    (v.state = .down → exec (.padFrameSend q) s = .next s) ∧
    (v.state = .train → early → ∃ lanes, lanes.length = 4 ∧
      exec (.padFrameSend q) s = .next { s with out := s.out ++ [.frame q.val lanes] }) ∧
    (v.state ≠ .down → ¬ (v.state = .train ∧ early) → (∀ r ∈ v.replay, r.bads = 0) → ∃ t lanes, exec (.padFrameSend q) s = .next t ∧ lanes.length = 4 ∧
      t.out.getLast? = some (.frame q.val lanes) ∧ (quad t q.val).txSlot = v.txSlot + 32 ∧ (quad t q.val).schedTx = [] ∧
      (quad t q.val).reportDue = none ∧ (quad t q.val).state = v.state ∧
      (v.schedTx = [] → (∀ k, k ≠ q.val → quad t k = quad s k) ∧ t.lov = s.lov) ∧
      t.newts = s.newts ∧ t.jobs = s.jobs ∧ t.sch = s.sch)) ∧
  (∀ (q : Fin 128) (g : LaneFrame) (s : State), s.Wf → up s = true →
    let v := quad s q.val
    let f := quadFrame s q.val g
    let training := f.markers.any (fun m => markerOk (markerFix m).1 && fieldAt (markerFix m).1 8 1 % 4 == 1)
    (v.state = .down → exec (.padFrameReceive q g) s = .next s) ∧
    (v.state = .train → v.step < 6 ∨ training = true →
      exec (.padFrameReceive q g) s = .next (keepBits q.val g (setQuad q.val (takeMarkers f v) s)) ∧
      ((∀ l ∈ v.lanes, l.slipped = 0) → exec (.padFrameReceive q g) s = .next (setQuad q.val (takeMarkers f v) s))) ∧
    (v.state ≠ .down → v.state ≠ .train → usableHeader f = true → (∀ l ∈ (takeMarkers f v).lanes, l.badRun < 8) →
      bitOf (fieldAt (padHeaderOf f) 6 1) 0 = false →
      ∃ t, exec (.padFrameReceive q g) s = .next t ∧ (quad t q.val).cwCorr = (v.cwCorr + f.corrected) % 2 ^ 32 ∧
        ((rasRec t 0x0804).set = true ∨ ∃ mask,
          (quad t q.val).reportDue = some (fieldAt (markerFix (f.markers.headD [])).1 9 2, mask) ∧
          ∀ i, i < 32 → slotHurt f.uncorr i = true → mask.testBit i = true))) ∧
  (∀ (q : Fin 128) (s : State), s.Wf → up s = true →
    let v := quad s q.val
    (v.state = .down ∨ v.state = .train → exec (.linkRetryFail q) s = .next s) ∧
    (v.state ≠ .down → v.state ≠ .train → ∃ t, exec (.linkRetryFail q) s = .next t ∧ (rasRec t 0x0804).set = true ∧
      (quad t q.val).state = .train ∧ (quad t q.val).step = 1 ∧ (quad t q.val).fails = (v.fails + 1) % 65536 ∧
      (∀ k, k ≠ q.val → quadKept (quad s k) (quad t k))))

/-- In a running chip: a chip that is lost joins the lost ones, its flows are freed, a collective that waits for its
outcome is LOST, and an active job with it in its span stops; the neighbour that detects it records 0x0607 and,
draining no MGMT, tells every other chip. The loss of this chip's own die-to-die bridge takes all its links down for
good (log 134). A departed address frees its flows. An acknowledgement frees the packets it covers, opens the window
and sends a packet that waits, which a proxy then counts (R177); a NAK sends its packet again, after a wait where
the reason is BUSY, or closes the flow where it is UNREACHABLE; a resend timeout sends every packet that is not
waiting so. Each byte of RTE_BANKWIN that is a legal entry enters the standby bank; another raises 0x0602 and leaves
its entry. A fault reroute rewrites the standby bank and starts the firmware's drain. Reports, the drained
indication, releases and the timeout 0x0609 follow the drain's state; a drain that is lifted returns the credits
that it withheld and sends the messages that it held. (05_synchronisation.md (R177); 09_fabric_and_routing.md (R296,
R299, R305, R309, R312, R313, R314, R315, R316, R317, R318, R319).) -/
def Obligations.FabricEvents : Prop :=
  (∀ (c : Instr) (chip : Nat) (s : State), s.Wf → up s = true → chip ≠ s.rte.coord → chip ∉ s.rte.lost →
    let ns := (neighboursOf s chip).filter (fun h => !s.rte.lost.contains h)
    let seen := (List.range 6).all (fun d => neighbour s s.rte.coord d != chip || !dirUp s d)
    (c = .chipLostNotice chip ∨ (c = .chipLost chip ∧ s.rte.coord ∈ ns ∧ (∀ h ∈ ns, s.rte.coord ≤ h) ∧ seen = true) →
      ∃ t, exec c s = .next t ∧ chip ∈ t.rte.lost ∧ (∀ h ∈ s.rte.lost, h ∈ t.rte.lost) ∧
        (∀ f ∈ t.rte.flows, chipOf f.key.1 ≠ chip) ∧
        (∀ k, unreported s k = true → (coll s k).state = .pending → (coll s k).commitChip = chip →
          (coll t k).state = .lost ∧ (coll t k).reported = true) ∧
        (∀ k, chip ∉ (coll t k).chips) ∧ (inSpan s chip = true → schActive s = true → t.sch.state = .stopped) ∧
        (c = .chipLost chip → (rasRec t 0x0607).set = true ∧
          ∀ h ∈ otherChips s, h ≠ chip → drains s 4 = false → Out.mgmt "CHIP_LOST" h [chip] ∈ t.out))) ∧
  (∀ s : State, s.Wf → up s = true → ∃ t, exec (.chipLost s.rte.coord) s = .next t ∧ t.rte.bridgeLost = true ∧
    linksHeld t = true ∧ (∀ q < 128, (quad t q).state = .down) ∧ t.rte.lost = s.rte.lost) ∧
  (∀ (chip : Nat) (s : State), up s = true → chip ∈ s.rte.lost → chip ≠ s.rte.coord →
    exec (.chipLost chip) s = .next s ∧ exec (.chipLostNotice chip) s = .next s) ∧
  (∀ (addr : Nat) (s : State), up s = true → exec (.depart addr) s = .next { s with
    rte := { s.rte with flows := s.rte.flows.filter (fun f => f.key.1 != addr) } }) ∧
  (∀ (a : FlowAck) (s : State), up s = true →
    let k := (a.fsrc, a.fdst, a.cls, a.chan, a.fsunit, a.fdunit)
    ((∀ f ∈ s.rte.srcFlows, f.key ≠ k) → exec (.flowAck a) s = .next s) ∧
    (∀ f, s.rte.srcFlows.find? (fun f => decide (f.key = k)) = some f →
      let left := f.unacked.filter (fun p => !acked a.next p.seq)
      (a.nak = false → a.closed = false → f.waitq = [] →
        exec (.flowAck a) s = .next (setFlow { f with win := a.win, unacked := left } s)) ∧
      (∀ p, a.nak = false → a.closed = false → f.waitq = [p] → left.length < a.win →
        let q := { p with seqv := true, seq := f.nextSeq, first := !f.opened }
        exec (.flowAck a) s = .next (setFlow { f with win := a.win, waitq := [], opened := true, unacked := left ++ [q]
                                                      nextSeq := (f.nextSeq + 1) % 65536 } (unitOut q (proxyCount q s)))) ∧
      (a.nak = false → a.closed = true → f.waitq = [] → exec (.flowAck a) s = .next (dropFlow k s)) ∧
      (∀ p, a.nak = true → f.unacked.find? (fun p => p.seq == a.nseq) = some p → a.reason ≠ 4 → a.reason ≠ 2 →
        exec (.flowAck a) s = .next (unitOut p s)) ∧
      (∀ p, a.nak = true → f.unacked.find? (fun p => p.seq == a.nseq) = some p → a.reason = 2 → (∀ e ∈ s.rte.busyWait, e.2 ≠ p) →
        exec (.flowAck a) s = .next { s with rte := { s.rte with
          busyWait := s.rte.busyWait ++ [(croak s + busyTicks, p)] } }) ∧
      (∀ p, a.nak = true → f.unacked.find? (fun p => p.seq == a.nseq) = some p → a.reason = 4 → s.rte.compat = false →
        f.waitq = [] → exec (.flowAck a) s = .next (dropFlow k s)))) ∧
  (∀ (src dst cls chan su du : Nat) (s : State), up s = true →
    let k := (src, dst, cls, chan, su, du)
    ((∀ f ∈ s.rte.srcFlows, f.key ≠ k) → exec (.resendTimeout src dst cls chan su du) s = .next s) ∧
    (∀ f, s.rte.srcFlows.find? (fun f => decide (f.key = k)) = some f →
      ∃ ps, exec (.resendTimeout src dst cls chan su du) s = .next { s with swc := { s.swc with unitOut := s.swc.unitOut ++ ps } } ∧
        (∀ p ∈ ps, p ∈ f.unacked) ∧ (∀ p ∈ f.unacked, p ∈ s.swc.unitOut ++ ps ∨ ∃ e ∈ s.rte.busyWait, e.2 = p))) ∧
  (∀ (w : Fin 4096) (v : Word) (s : State), s.Wf → up s = true → tsorted (standbyBank s) →
    let e (i : Nat) : Nat := bits v.toNat (8 * i + 7) (8 * i)
    ∃ t, exec (.bankwinWrite w v) s = .next t ∧ activeBank t = activeBank s ∧
      (∀ i, i < 8 → entryOk s (8 * w.val + i) (e i) = true → tget 0 (standbyBank t) (8 * w.val + i) = e i) ∧
      (∀ i, i < 8 → entryOk s (8 * w.val + i) (e i) = false → (rasRec t 0x0602).set = true ∧
        tget 0 (standbyBank t) (8 * w.val + i) = tget 0 (standbyBank s) (8 * w.val + i)) ∧
      (∀ j, j / 8 ≠ w.val → tget 0 (standbyBank t) j = tget 0 (standbyBank s) j)) ∧
  (∀ (links : List (Nat × Nat)) (chips : List Nat) (s : State), s.Wf → tsorted (standbyBank s) →
    (fwRuns s = true → s.rte.valid = true → s.rte.drain.classes = 0 → ∃ t, exec (.faultReroute links chips) s = .next t ∧
      t.rte.drain = { classes := 0x17, scope := 1, id := 0, fw := true } ∧ activeBank t = activeBank s ∧
      (∀ h, h ∈ t.rte.lost ↔ h ∈ s.rte.lost ∨ h ∈ chips) ∧
      (∀ i, i < torusChips s → tget 0 (standbyBank t) i =
        faultEntry { s with rte := { s.rte with lost := chips.foldl insertNat s.rte.lost } } links (chipAt s i)) ∧
      t = { s with rte := t.rte }) ∧
    (fwRuns s = false ∨ s.rte.valid = false ∨ s.rte.drain.classes ≠ 0 → exec (.faultReroute links chips) s = .next s)) ∧
  (∀ s : State, s.Wf → up s = true →
    let d := s.rte.drain
    (d.classes = 0 ∨ d.scope = 0 → exec .drainReport s = .next s) ∧
    (d.classes ≠ 0 → d.scope ≠ 0 → coordinator s ≠ s.rte.coord → drains s 4 = false → exec .drainReport s = .next (emit (.mgmt "DRAIN_REPORT"
      (coordinator s) ((ownReport s).empty.map bnat ++ (ownReport s).sent ++ (ownReport s).recvd)) s)) ∧
    (d.classes ≠ 0 → d.scope ≠ 0 → coordinator s = s.rte.coord →
      exec .drainReport s = exec (.drainReportReceive (ownReport s)) s) ∧
    (d.classes = 0 ∨ d.drained = true ∨ (d.scope = 0 ∧ (drainClasses s).any (heldClass s) = true) →
      exec .drained s = .next s) ∧
    (d.classes ≠ 0 → d.drained = false → d.scope ≠ 0 ∨ (drainClasses s).any (heldClass s) = false → d.fw = false →
      drainWaiters s = [] → exec .drained s = .next { s with rte := { s.rte with drain := { d with drained := true } } }) ∧
    (d.classes ≠ 0 → d.scope = 1 → d.releasePend = true → ∃ t, exec .released s = .next t ∧
      t = { s with rte := { s.rte with drain := {}, mgmtHeld := [] }, quads := t.quads
                   out := s.out ++ s.rte.mgmtHeld.map (fun m => .mgmt m.1 m.2.1 m.2.2) } ∧
      ∀ q, (quad t q).creds = (quad s q).creds.map (fun c => { c with adv := (c.adv + c.owed) % 65536, owed := 0 })) ∧
    (d.classes = 0 ∨ d.scope ≠ 1 ∨ d.releasePend = false → exec .released s = .next s) ∧
    (d.classes ≠ 0 → d.scope = 1 → d.drained = false → coordinator s = s.rte.coord → ∃ t, exec .rteDrainTimeout s = .next t ∧
      (rasRec t 0x0609).set = true ∧ t.rte.drain = d) ∧
    (d.classes = 0 ∨ d.scope ≠ 1 ∨ d.drained = true ∨ coordinator s ≠ s.rte.coord → exec .rteDrainTimeout s = .next s)) ∧
  (∀ (r : DrainRep) (s : State), s.Wf → up s = true →
    let d := s.rte.drain
    let all := s.rte.coord :: otherChips s
    let round := d.round.filter (fun x => x.chip ≠ r.chip) ++ [r]
    let full := all.all (fun h => round.any (fun x => x.chip == h))
    let good := roundGood s d.prevRound round
    (d.classes = 0 ∨ d.scope = 0 ∨ coordinator s ≠ s.rte.coord ∨ r.chip ∉ all → exec (.drainReportReceive r) s = .next s) ∧
    (d.classes ≠ 0 → d.scope ≠ 0 → coordinator s = s.rte.coord → r.chip ∈ all →
      (full = false → exec (.drainReportReceive r) s = .next { s with rte := { s.rte with drain := { d with round := round } } }) ∧
      (full = true → good = false ∨ d.good = false ∨ d.drained = true → exec (.drainReportReceive r) s = .next { s with
        rte := { s.rte with drain := { d with prevRound := round, round := [], good := good } } }) ∧
      (full = true → good = true → d.good = true → d.drained = false → d.fw = false → ∃ t,
        exec (.drainReportReceive r) s = .next t ∧ t.rte.drain.drained = true ∧
        (drains s 4 = false → ∀ h ∈ otherChips s, Out.mgmt "DRAINED" h [d.id] ∈ t.out)))) ∧
  (∀ (chip : Nat) (s : State), s.Wf → up s = true →
    let d := s.rte.drain
    let rel := insertNat d.releases chip
    let all := s.rte.coord :: otherChips s
    (d.classes = 0 ∨ d.scope = 0 ∨ coordinator s ≠ s.rte.coord → exec (.drainReleaseReceive chip) s = .next s) ∧
    (d.classes ≠ 0 → d.scope ≠ 0 → coordinator s = s.rte.coord →
      ((∃ h ∈ all, h ∉ rel) → exec (.drainReleaseReceive chip) s =
        .next { s with rte := { s.rte with drain := { d with releases := rel } } }) ∧
      ((∀ h ∈ all, h ∈ rel) → drains s 4 = false → ∃ t, exec (.drainReleaseReceive chip) s = .next t ∧ t.rte.drain = {} ∧
        t.out = s.out ++ (otherChips s).map (fun h => .mgmt "RELEASED" h [d.id]) ++
          s.rte.mgmtHeld.map (fun m => .mgmt m.1 m.2.1 m.2.2) ∧
        t = { s with rte := { s.rte with drain := {}, mgmtHeld := [] }, quads := t.quads, out := t.out })))

/-- In a running chip: a REQ, RSP or FWD packet without a collective tag that an UP torus quad takes waits, with its
number, at its ingress for the port of its next hop, and is counted, where no mirror session is set; one that the
quad's state does not carry raises 0x0805; a stomped one without a collective tag, and not bound for this chip in
sequence, raises 0x0501 and is discarded, where no queued copy was made here. Admission of a packet that needs no
reply reservation and meets no overflow puts it into its queue when its account has room, and returns its credit; a
class that may not overflow waits otherwise. Resequencing of a whole packet of an open flow acknowledges and drops a
duplicate, holds an early packet, raises 0x0608 for one outside the window and admits the next. The first head that
may leave and that its shapers let go starts, with the shapers charged, where no copy of it is planned; a lone one
that they hold is counted once at each short node. A stomp of a packet without a collective tag or copies removes it
if it has not started and marks it if it has; a buffer error names an enabled segment of the packet's die, and a
corrected one sets SWC_STAT.CE only (log 132). A whole packet moves back from overflow when its account has room;
the oldest reply reservation of a port that times out goes with 0x0507; a waiting head is reported once with 0x0505.
A mirror session is enabled with a legal setting, and 0x0506 refuses another. CLEAR_HIGH and CLEAR_COUNTERS zero
what they name. A refill adds 4 times the rate up to the burst; a node, policer or key write takes effect in its
ranges and raises 0x0701 or 0x0702 outside them (of both, 0x0701: log 167). (08_switch_core.md (R256, R260, R263,
R264, R265, R267, R269, R271, R276, R279); 09_fabric_and_routing.md (R307); 10_traffic_shaping.md (R329, R330, R336,
R342, R343); notes/assumptions/132.md; notes/assumptions/167.md.) -/
def Obligations.SwitchPackets : Prop :=
  (∀ (q : Fin 128) (p : Packet) (s : State), s.Wf → up s = true →
    let v := quad s q.val
    let key := 8 * portNum s q.val + p.cls
    (v.arrivedPkts.find? (fun x => decide (hdrOf x = hdrOf p))).getD p = p →
    (carries v.state p = false → ∃ t, exec (.packetArrival q p) s = .next t ∧ (rasRec t 0x0805).set = true ∧
      t.swc.ingress = s.swc.ingress ∧ t.swc.queues = s.swc.queues) ∧
    (carries v.state p = true → p.cls ≠ 4 → p.stomp ≠ 0 → collTag p = none → atEgress s p = false →
      (∀ h ∈ s.swc.queues, h.own = false) → ∃ t, exec (.packetArrival q p) s = .next t ∧
      (rasRec t 0x0501).set = true ∧ t.swc.ingress = s.swc.ingress ∧ t.swc.queues = s.swc.queues ∧
      t.swc.disc = (discard 0 s).swc.disc) ∧
    (∀ out vc, v.state = .up → 1 ≤ v.use → v.use ≤ 6 → 1 ≤ p.cls → p.cls ≤ 3 → p.stomp = 0 → collTag p = none →
      s.swc.mirrors = [] → nextHop s (prevDir s q.val) p = some (out, vc) → 128 ≤ out ∨ portUp s out = true →
      ∃ t, exec (.packetArrival q p) s = .next t ∧
        t.swc.ingress = s.swc.ingress ++ [{ src := q.val, inStream := streamOf p.cls p.vc, out := out, pkt := { p with
          vc := vc, sid := if p.sid = 0 then s.swc.nextId else p.sid, mirs := [] } }] ∧
        tget {} t.swc.ctr key = { tget {} s.swc.ctr key with
          rxPkt := ((tget {} s.swc.ctr key).rxPkt + 1) % 2 ^ 64
          rxByte := ((tget {} s.swc.ctr key).rxByte + pktLen p) % 2 ^ 64 } ∧
        t.swc.queues = s.swc.queues ∧ quad t q.val = { v with arrivedPkts := v.arrivedPkts.erase p } ∧
        (∀ k, k ≠ q.val → quad t k = quad s k) ∧ t = { s with swc := t.swc, quads := t.quads })) ∧
  (∀ (src : Fin 129) (st a : Nat) (w : Waiting) (s : State), s.Wf → up s = true → src.val < 128 →
    ingressHead s src.val st = some w → atEgress s w.pkt = false → rspNeed s src.val w.pkt = none → collTag w.pkt = none →
    w.out < 134 → acctCells s w.out w.pkt.cls w.pkt.vc 3 = 0 → w.pkt.cls ≠ 2 →
    (onDieAcct s w.out w.pkt.cls w.pkt.vc (pktCells w.pkt) = some a → ∃ t, exec (.packetAdmit src st) s = .next t ∧
      t.swc.queues = s.swc.queues ++
        [{ pkt := w.pkt, outPort := w.out, vc := w.pkt.vc, cells := pktCells w.pkt, acct := a }] ∧
      t.swc.ingress = s.swc.ingress.eraseP (fun x => x.src == src.val && x.inStream == st) ∧
      (withholds s src.val (streamCls st) = false → quad t src.val =
        modCred st (fun c => { c with adv := (c.adv + gotCells w.pkt) % 65536 }) (quad s src.val)) ∧
      t = { s with swc := t.swc, quads := t.quads }) ∧
    (onDieAcct s w.out w.pkt.cls w.pkt.vc (pktCells w.pkt) = none → bitOf (fieldAt s.swc.bufpart 1 1) w.pkt.cls = false →
      exec (.packetAdmit src st) s = .next s)) ∧
  (∀ (st a out vc : Nat) (p : Packet) (s : State), s.Wf → up s = true → ingressHead s 128 st = none →
    (∀ e ∈ s.rte.busyWait, croak s < e.1) → s.swc.mirrors = [] →
    s.swc.unitOut.find? (fun p => streamOf p.cls p.vc == st) = some p → drains s p.cls = false → atEgress s p = false →
    collTag p = none → nextHop s none p = some (out, vc) → out < 134 → 128 ≤ out ∨ portUp s out = true → p.cls ≠ 2 →
    acctCells s out p.cls vc 3 = 0 → onDieAcct s out p.cls vc (pktCells p) = some a →
    ∃ t, exec (.packetAdmit 128 st) s = .next t ∧ t.swc.queues = s.swc.queues ++
        [{ pkt := { p with vc := vc, sid := if p.sid = 0 then s.swc.nextId else p.sid, mirs := [] }, outPort := out, vc := vc
           cells := pktCells p, acct := a }] ∧
      t.swc.unitOut = s.swc.unitOut.erase p ∧ t = { s with swc := t.swc }) ∧
  (∀ (p : Packet) (w : Waiting) (f : Flow) (s : State), s.Wf → up s = true →
    s.swc.ingress.find? (fun w => decide (hdrOf w.pkt = hdrOf p)) = some w → ingressHead s w.src w.inStream = some w →
    w.pkt.left = 0 → atEgress s w.pkt = true → 128 ≤ w.out ∨ portUp s w.out = true → w.pkt.stomp = 0 → flowOf s w.pkt = some f →
    let k := w.pkt
    let d := (k.seq + 65536 - f.next) % 65536
    let rest := s.swc.ingress.eraseP (fun x => x.src == w.src && x.inStream == w.inStream)
    (32768 ≤ d → exec (.resequence p) s = .next (ingressPop w.src w.inStream (sendAck k false false (winOf f) 0 f.next
      { s with rte := { s.rte with dup := (s.rte.dup + 1) % 2 ^ 32 } }))) ∧
    (∀ c, 1 ≤ d → d ≤ 63 → f.ctx = some c → ∃ t, exec (.resequence p) s = .next t ∧ t.swc.ingress = rest ∧
      flowOf t k = some { f with slots := f.slots.filter (fun e => decide (e.1 ≠ k.seq % 64)) ++ [(k.seq % 64, k)] } ∧
      (let a := ctxAddr c (k.seq % 64)
       let bs := headerBytes k k.payload.length ++ k.payload
       (∀ b ∈ s.lov.poison, 64 * b + 64 ≤ a ∨ a + bs.length ≤ 64 * b) → t.lov = (lovWrite a bs s).lov) ∧
      t.swc.queues = s.swc.queues) ∧
    (1 ≤ d → d < 32768 → 63 < d ∨ f.ctx = none → ∃ t, exec (.resequence p) s = .next t ∧ (rasRec t 0x0608).set = true ∧
      t.swc.ingress = rest ∧ t.rte.flows = s.rte.flows ∧ t.swc.queues = s.swc.queues) ∧
    (∀ u, d = 0 → k.last = false → f.slots = [] → seqAdmit w.src w.out k s = (u, true) → exec (.resequence p) s =
      .next (ingressPop w.src w.inStream (sendAck k false false (winOf f) 0 ((f.next + 1) % 65536)
        (putFlow { f with next := (f.next + 1) % 65536 } u))))) ∧
  (∀ (q : Fin 128) (st port : Nat) (s : State), s.Wf → up s = true → (quad s q.val).state = .up → st ≠ 0 →
    quadPort (quad s q.val) = some port →
    (∀ h ∈ s.swc.queues, h.started = true → h.quad = q.val → streamOf h.pkt.cls h.vc ≠ st) →
    let v := quad s q.val
    let cls := streamCls st
    let heads := (forwardHeads s port cls (streamVc st)).filter (mayLeave s q.val port st)
    (heads = [] → exec (.packetForwardStart q st) s = .next s) ∧
    (∀ h r, heads = h :: r → shapeShort s port h.pkt = [] → h.pkt.mirs = [] →
      ∃ t, exec (.packetForwardStart q st) s = .next t ∧
        t.swc.queues = s.swc.queues.set (s.swc.queues.idxOf h) { h with started := true, quad := q.val, stalled := false } ∧
        quad t q.val = { v with txQueue := v.txQueue ++ (packetSlots st h.pkt).map (fun b => (st, b)) } ∧
        (1 ≤ cls → cls ≤ 3 → t.shp = (shapeCharge port h.pkt s).shp) ∧ (cls = 0 ∨ 3 < cls → t.shp = s.shp) ∧
        (∀ k, k ≠ q.val → quad t k = quad s k) ∧ t = { s with swc := t.swc, quads := t.quads, shp := t.shp }) ∧
    (∀ h, heads = [h] → shapeShort s port h.pkt ≠ [] → ∃ t, exec (.packetForwardStart q st) s = .next t ∧
      let new := (shapeShort s port h.pkt).filter (fun n => !h.shortBy.contains n)
      t.swc.queues = s.swc.queues.set (s.swc.queues.idxOf h) { h with shortBy := h.shortBy ++ new } ∧
      t.shp = (shapeHeld new s).shp ∧ t = { s with swc := t.swc, shp := t.shp })) ∧
  (∀ (port cls vc code seg : Nat) (s : State), s.Wf → up s = true →
    let k := if 5 ≤ code then 2 else code
    let segs := bufferSegs s (homeDie s port)
    (code = 0 → seg ∈ segs → exec (.stomp port cls vc ⟨code, seg⟩) s =
      .next { s with swc := { s.swc with stat := s.swc.stat ||| 128, ceAt := some (croak s) } }) ∧
    (code = 0 → seg ∉ segs → exec (.stomp port cls vc ⟨code, seg⟩) s = .next s) ∧
    (stompTarget s port cls vc = none → code ≠ 0 → exec (.stomp port cls vc ⟨code, seg⟩) s = .next s) ∧
    (∀ h, stompTarget s port cls vc = some h → code = 3 → h.acct ≠ 3 → seg ∉ segs →
      exec (.stomp port cls vc ⟨code, seg⟩) s = .next s) ∧
    (∀ h, stompTarget s port cls vc = some h → code ≠ 0 → (code = 3 → h.acct = 3 ∨ seg ∈ segs) → collTag h.pkt = none →
      (∀ x ∈ s.swc.queues, x.own = false) →
      ∃ t, exec (.stomp port cls vc ⟨code, seg⟩) s = .next t ∧ (rasRec t 0x0501).set = true ∧
        (code = 3 → h.acct ≠ 3 → (rasRec t 0x0502).set = true) ∧ (code = 3 → h.acct = 3 → (rasRec t 0x0503).set = true) ∧
        (h.started = false → t.swc.queues = s.swc.queues.erase h ∧ t.swc.disc = (discard 0 s).swc.disc) ∧
        (h.started = true → h.pkt.stomp = 0 → t.swc.disc = (discard 1 s).swc.disc ∧
          t.swc.queues = s.swc.queues.set (s.swc.queues.idxOf h) { h with pkt := { h.pkt with stomp := k } }))) ∧
  (∀ (port cls vc : Nat) (s : State), s.Wf → up s = true →
    ((queueOf s port cls vc).find? (fun h => h.acct == 3) = none → exec (.overflowMoveBack port cls vc) s = .next s) ∧
    (∀ h, (queueOf s port cls vc).find? (fun h => h.acct == 3) = some h → 0 < h.pkt.left →
      exec (.overflowMoveBack port cls vc) s = .next s) ∧
    (∀ h, (queueOf s port cls vc).find? (fun h => h.acct == 3) = some h → h.pkt.left = 0 → poisoned s h.loc (256 * h.cells) = false →
      (onDieAcct s port cls vc h.cells = none → exec (.overflowMoveBack port cls vc) s = .next s) ∧
      (∀ a, onDieAcct s port cls vc h.cells = some a → ∃ t, exec (.overflowMoveBack port cls vc) s = .next t ∧
        t.swc.queues = s.swc.queues.set (s.swc.queues.idxOf h) { h with acct := a, loc := 0 } ∧
        ((∀ b ∈ s.pool.bufs, ∀ p ∈ s.lov.poison, b.addr + 8 ≤ 64 * p ∨ 64 * p + 64 ≤ b.addr) →
          t = { s with swc := t.swc, pool := t.pool, lov := t.lov }))) ∧
    (∀ w, s.swc.ingress.find? (fun w => portNum s w.src == port && w.inStream == streamOf cls vc && !w.stalled &&
        ingressHead s w.src (streamOf cls vc) == some w) = some w → ∃ t, exec (.swcStall port cls vc) s = .next t ∧
      (rasRec t 0x0505).set = true ∧ t.swc.ingress = s.swc.ingress.set (s.swc.ingress.idxOf w) { w with stalled := true } ∧
      t.swc.queues = s.swc.queues) ∧
    ((∀ w ∈ s.swc.ingress, portNum s w.src ≠ port ∨ w.inStream ≠ streamOf cls vc ∨ w.stalled = true) →
      (∀ h ∈ forwardHeads s port cls vc, h.stalled = true) → exec (.swcStall port cls vc) s = .next s)) ∧
  (∀ (port : Fin 128) (s : State), s.Wf → up s = true →
    ((∀ r ∈ s.swc.res, r.port ≠ port.val) → exec (.rspReservationTimeout port) s = .next s) ∧
    ((∃ r ∈ s.swc.res, r.port = port.val) → ∃ t, exec (.rspReservationTimeout port) s = .next t ∧
      (rasRec t 0x0507).set = true ∧ t.swc.res = s.swc.res.eraseP (fun r => r.port == port.val) ∧ t.swc.queues = s.swc.queues)) ∧
  (∀ (i : Fin 16) (w : Word) (s : State), s.Wf → up s = true →
    let m := tget {} s.swc.mirrors i.val
    let new := mirWith m w.toNat
    let ok := (new.port = 255 ∨ portExists s new.port = true) ∧ fabricEndpoint s new.dest = true ∧ m.n ≠ 0
    (bitOf w.toNat 0 = false → exec (.mirrorEnable i w) s = .next s) ∧
    (bitOf w.toNat 0 = true → ok → exec (.mirrorEnable i w) s = .next { s with swc := { s.swc with
      mirrors := tset {} s.swc.mirrors i.val { new with pos := if m.en then m.pos else 0 } } }) ∧
    (bitOf w.toNat 0 = true → ¬ ok → ∃ t, exec (.mirrorEnable i w) s = .next t ∧ (rasRec t 0x0506).set = true ∧
      t.swc.mirrors = s.swc.mirrors)) ∧
  (∀ s : State, s.Wf → up s = true → ∃ t u, exec .clearHigh s = .next t ∧ exec .clearCounters s = .next u ∧
    t.swc.sharedHigh = [0, 0] ∧ t.swc.ovfHigh = [0, 0] ∧ t.swc.copyHigh = [0, 0] ∧ t.swc.disc = s.swc.disc ∧
    (∀ k, tget {} t.swc.ctr k = { tget {} s.swc.ctr k with highOn := 0, highOvf := 0 }) ∧ t = { s with swc := t.swc } ∧
    u.swc.disc = List.replicate 8 0 ∧ u.swc.sharedHigh = s.swc.sharedHigh ∧
    (∀ k, tget {} u.swc.ctr k = { highOn := (tget {} s.swc.ctr k).highOn, highOvf := (tget {} s.swc.ctr k).highOvf }) ∧
    (∀ i, tget {} u.swc.mirrors i = { tget {} s.swc.mirrors i with cnt := 0, dropped := 0, evicted := 0 }) ∧
    u = { s with swc := u.swc }) ∧
  (∀ s : State, s.Wf → up s = true → ∃ t, exec .tokenRefill s = .next t ∧ t = { s with shp := t.shp } ∧
    (∀ n, snode t n = if (snode s n).en then { snode s n with
      tokens := min (8000 * (snode s n).burst) ((snode s n).tokens + 4 * (snode s n).rate) } else snode s n) ∧
    (∀ k, policer t k = if (policer s k).en then { policer s k with
      tokC := min (8000 * (policer s k).cbs) ((policer s k).tokC + 4 * (policer s k).cir)
      tokE := min (8000 * (policer s k).ebs) ((policer s k).tokE + 4 * (policer s k).erate) } else policer s k)) ∧
  (∀ (n : Nat) (w : Word) (s : State), s.Wf → up s = true →
    let v := snode s n
    let en := bitOf w.toNat 0
    let rate := bits w.toNat 22 2
    let burst := bits w.toNat 47 23
    let ovh := signed 9 (bits w.toNat 56 48)
    let legal := nodeExists s n = true ∧ burstOk burst ovh = true ∧
      (en = true → 0x4000 ≤ n → keyTaken s n = false ∧ portExists s v.port = true)
    (legal → 1 ≤ rate → rate ≤ 1800000 → v.lo ≤ rate → rate ≤ v.hi → exec (.nodeConfigWrite n w) s = .next (setSnode n { v with
      en := en, rate := rate, burst := burst, ovh := ovh, tokens := if bitOf w.toNat 1 then 8000 * burst else 0 } s)) ∧
    (legal → rate < v.lo ∨ v.hi < rate → ∃ t, exec (.nodeConfigWrite n w) s = .next t ∧
      (en = true → (rasRec t 0x0702).set = true) ∧ (en = false → (rasRec t 0x0701).set = true) ∧ t.shp.nodes = s.shp.nodes) ∧
    (legal → v.lo ≤ rate → rate ≤ v.hi → rate = 0 ∨ 1800000 < rate →
      ∃ t, exec (.nodeConfigWrite n w) s = .next t ∧ (rasRec t 0x0701).set = true ∧ t.shp.nodes = s.shp.nodes) ∧
    (¬ legal → ∃ t, exec (.nodeConfigWrite n w) s = .next t ∧ (rasRec t 0x0701).set = true ∧ t.shp.nodes = s.shp.nodes)) ∧
  (∀ (k : Fin 512) (w : Word) (s : State), s.Wf → up s = true →
    let v := policer s k.val
    let b := w.toNat
    let new := { v with en := bitOf b 0, mode := bitOf b 2, caware := bitOf b 3, ovh := signed 9 (bits b 12 4), port := bits b 19 13
                        chmask := bits b 35 20, cir := v.wCir, cbs := v.wCbs, erate := v.wErate, ebs := v.wEbs
                        tokC := if bitOf b 1 then 8000 * v.wCbs else 0, tokE := if bitOf b 1 then 8000 * v.wEbs else 0 }
    (policerOk s new = true → exec (.policerConfigWrite k w) s = .next (setPolicer k.val new s)) ∧
    (policerOk s new = false → ∃ t, exec (.policerConfigWrite k w) s = .next t ∧ (rasRec t 0x0701).set = true ∧
      t.shp.pols = s.shp.pols)) ∧
  (∀ (n : Fin 16384) (w : Word) (s : State), s.Wf → up s = true →
    let v := snode s (0x4000 + n.val)
    let legal := v.en = false ∧ bits w.toNat 31 30 ≠ 3 ∧ portExists s (bits w.toNat 29 22) = true
    (legal → exec (.subscriberKeyWrite n w) s = .next (setSnode (0x4000 + n.val) { v with
      src := bits w.toNat 21 0, port := bits w.toNat 29 22, cls := bits w.toNat 31 30 + 1 } s)) ∧
    (¬ legal → ∃ t, exec (.subscriberKeyWrite n w) s = .next t ∧ (rasRec t 0x0701).set = true ∧ t.shp.nodes = s.shp.nodes))

/-- While the firmware runs: HELP, VER, MAP, STAT, PEEK and LOG put out their values and OK and change nothing else,
each reply line ending with CR LF and the prompt coming last (that values come as lines of 16 hexadecimal digits is
log 99); EYE puts out 2,050 free values for a quad in maintenance and 0x0111 for another; BAUD, CHAL and LOCK do
what they name; UNLOCK with the token of the challenge unlocks, a wrong one counts and the third in a row locks
UNLOCK out, and one without a key set or in the lockout fails with 0x0C13; POKE and MPEEK need unlock; a malformed
line fails with 0x0C15. The idle lock and the end of the lockout clear their bits. While it does not run, nothing
happens. The values of EYE and of CHAL, and what MPEEK reads of the chip's own tables (log 164), are free values
(log 2). (14_firmware_and_lifecycle.md (R470, R471, Table 14-15); notes/assumptions/99.md;
notes/assumptions/164.md.) -/
def Obligations.MonitorCommands : Prop :=
  (∀ (c : Instr) (s : State), fwRuns s = false →
    c ∈ [.help, .ver, .stat, .chal, .lock, .fwMonSyntax, .monitorIdleLock, .unlockLockoutEnd] ∨ (∃ w, c = .map w) ∨
      (∃ o n, c = .peek o n) ∨ (∃ n, c = .log n) ∨ (∃ q l, c = .eye q l) ∨ (∃ r, c = .baud r) ∨ (∃ k, c = .unlock k) ∨
      (∃ o v, c = .poke o v) ∨ (∃ a n, c = .mpeek a n) → exec c s = .next s) ∧
  (∀ s : State, fwRuns s = true →
    let ok (os : List Out) (s : State) : State := { s with out := s.out ++ os ++ [.uart "OK\r\n", .uart "> "] }
    (∃ os, os.length = 13 ∧ exec .help s = .next (ok os s)) ∧
    exec .ver s = .next (ok (valLines [0x4830, 0xA1, Config.serial.toNat, s.fw.ver.toNat, s.fw.slot, bnat s.fw.recovery]) s) ∧
    exec .stat s = .next (ok (valLines
      [regRead s 0x100000, regRead s 0x200, regRead s 0x1C00008, regRead s 0x1C00010, regRead s 0x308]) s) ∧
    (∀ w, w < 72 → exec (.map w) s = .next (ok (valLines [(mapWord s w).toNat, unitSum s]) s)) ∧
    (∀ o n, 1 ≤ n → n ≤ 16 → exec (.peek o n) s =
      .next (ok (valLines ((List.range n).map (fun i => regRead s (o + 8 * i)))) s)) ∧
    (∀ n, 1 ≤ n → n ≤ 64 → exec (.log n) s = .next (ok (valLines
      ((logBytes s (s.log.head - min n s.log.head) (min n s.log.head)).map (·.toNat))) s)) ∧
    (∀ q l, q < 128 → l < 4 → (quad s q).maint = true → ∃ vs, vs.length = 2050 ∧
      exec (.eye q l) s = .next (ok (valLines vs) { s with free := s.free + 2050 })) ∧
    (∀ r, r = 115200 ∨ r = 921600 → exec (.baud r) s = .next (ok [] { s with mon := { s.mon with fast := r == 921600 } })) ∧
    exec .chal s = .next (ok (valLines [(Config.freeWord s.free).toNat])
      { s with free := s.free + 1, mon := { s.mon with challenge := some (Config.freeWord s.free) } }) ∧
    exec .lock s = .next (ok [] { s with mon := { s.mon with unlocked := false } }) ∧
    exec .monitorIdleLock s = .next { s with mon := { s.mon with unlocked := false } } ∧
    exec .unlockLockoutEnd s = .next { s with mon := { s.mon with lockout := false } } ∧
    (∀ (k : List Nat) (w : Word), k.length = 12 → (∀ d ∈ k, d < 32) → s.mon.keyset = true → s.mon.lockout = false →
      s.mon.challenge = some w → tokenOf s.mon.key w = k → exec (.unlock k) s =
        .next (ok [] { s with mon := { s.mon with challenge := none, unlocked := true, wrongRun := 0 } })) ∧
    (∀ (o : Nat) (v : Word), s.mon.unlocked = true → writeError o s (regWrite o v 8 s) = none →
      exec (.poke o v) s = .next (ok [] (logOpen 4 12 (regWrite o v 8 s)))) ∧
    (∀ (o code : Nat) (v : Word), s.mon.unlocked = true → writeError o s (regWrite o v 8 s) = some code →
      exec (.poke o v) s = .next (emit (.uart "> ") (emit (.uart ("ERR " ++ hex4 code ++ "\r\n"))
        (logOpen 4 12 (regWrite o v 8 s))))) ∧
    (∀ a n, s.mon.unlocked = true → 1 ≤ n → n ≤ 16 → a + 8 * n ≤ 2 ^ 38 → poisonAt s a (8 * n) = none →
      let u := logOpen 4 13 s
      exec (.mpeek a n) s = .next (ok (valLines ((List.range n).map (fun i =>
        if lovOwn (a + 8 * i) then (Config.freeWord (u.free + i)).toNat else leNat (lovRead s (a + 8 * i) 8))))
        { u with free := u.free + n }))) ∧
  (∀ (c : Instr) (code : Nat) (line : String) (s : State), s.Wf → fwRuns s = true →
    (code = 0x0C15 ∧ line = "ERR 0C15\r\n" ∧ (c = .fwMonSyntax ∨ (∃ w, 72 ≤ w ∧ c = .map w) ∨ (∃ o n, (n = 0 ∨ 16 < n) ∧ c = .peek o n) ∨
      (∃ n, 64 < n ∧ c = .log n) ∨ (∃ q l, 128 ≤ q ∧ c = .eye q l) ∨ (∃ r, r ≠ 115200 ∧ r ≠ 921600 ∧ c = .baud r) ∨
      (∃ k, k.length ≠ 12 ∧ c = .unlock k))) ∨
    (code = 0x0111 ∧ line = "ERR 0111\r\n" ∧ ∃ q l, q < 128 ∧ l < 4 ∧ (quad s q).maint = false ∧ c = .eye q l) ∨
    (code = 0x0C13 ∧ line = "ERR 0C13\r\n" ∧ ((s.mon.unlocked = false ∧ ((∃ o v, c = .poke o v) ∨ ∃ a n, c = .mpeek a n)) ∨
      ∃ k, k.length = 12 ∧ (∀ d ∈ k, d < 32) ∧ (s.mon.keyset = false ∨ s.mon.lockout = true) ∧ c = .unlock k)) →
    ∃ t, exec c s = .next t ∧ (rasRec t code).set = true ∧ (∃ os, t.out = os ++ [.uart line, .uart "> "]) ∧ t.mon = s.mon) ∧
  (∀ (k : List Nat) (s : State), s.Wf → fwRuns s = true → k.length = 12 → (∀ d ∈ k, d < 32) → s.mon.keyset = true →
    s.mon.lockout = false → (∀ w, s.mon.challenge = some w → tokenOf s.mon.key w ≠ k) →
    ∃ t, exec (.unlock k) s = .next t ∧ (rasRec t 0x0C14).set = true ∧ (∃ os, t.out = os ++ [.uart "ERR 0C14\r\n", .uart "> "]) ∧
      t.mon = { s.mon with challenge := none, tokfail := min 255 (s.mon.tokfail + 1), wrongRun := (s.mon.wrongRun + 1) % 3
                           lockout := s.mon.wrongRun == 2 })
end

