-- ==== Sys2Proof/Laws/Kept.lean ====
section
/-! SUPPORT. No operation touches the queue, and only the fuse commands touch the fuses. -/

namespace Sys2Proof.Machine

/-- What almost every operation leaves alone: the fuses and the queue. -/
def State.kept (s : State) : Option (List Byte) × Bool × Nat × Option Nat × List Instr :=
  (s.fuse.custkey, s.fuse.sigreq, s.fuse.svn, s.fuse.busy, s.pending)

theorem State.kept_ite (c : Prop) [Decidable c] (a b : State) :
    (if c then a else b).kept = if c then a.kept else b.kept := apply_ite State.kept c a b

theorem foldl_kept {α : Type} (f : State → α → State) (h : ∀ s a, (f s a).kept = s.kept) (l : List α) (s : State) :
    (l.foldl f s).kept = s.kept := by
  induction l generalizing s with
  | nil => rfl
  | cons a r ih => rw [List.foldl_cons, ih, h]

@[simp] theorem State.kept_mk {a1 a2 a3 a4 a5 a6 a8 a9 a10 a11 a12 a13 a14 a15 a16 a17 a18 a19 a20 a21 a22 a23 a24 a25 a26 a27 a28 a29 f p} :
    State.kept { pins := a1, ras := a2, log := a3, unit := a4, lay := a5, fw := a6, fuse := f, att := a8, mon := a9, cal := a10, hif := a11, nonce := a12, nextJob := a13, jobs := a14, colls := a15, newts := a16, sync := a17, sch := a18, swc := a19, rte := a20, shp := a21, quads := a22, lov := a23, pool := a24, dma := a25, therm := a26, hostMem := a27, out := a28, free := a29, pending := p } = (f.custkey, f.sigreq, f.svn, f.busy, p) := rfl

theorem kept_of_eq {β : Type} {q : State × β} {t s : State} {b : β} (h : q = (t, b)) (hq : q.1.kept = s.kept) :
    t.kept = s.kept := by rw [← hq, h]

@[simp] theorem State.kept_eta (s : State) : (s.fuse.custkey, s.fuse.sigreq, s.fuse.svn, s.fuse.busy, s.pending) = s.kept := rfl

@[simp] theorem setNewt_kept (n : Nat) (v : Newt) (s : State) : (setNewt n v s).kept = s.kept := by simp [setNewt, State.kept_ite]

@[simp] theorem modNewt_kept (n : Nat) (f : Newt → Newt) (s : State) : (modNewt n f s).kept = s.kept := by simp [modNewt, State.kept_ite]

@[simp] theorem setJob_kept (j : Nat) (v : Job) (s : State) : (setJob j v s).kept = s.kept := by simp [setJob, State.kept_ite]

@[simp] theorem modJob_kept (j : Nat) (f : Job → Job) (s : State) : (modJob j f s).kept = s.kept := by simp [modJob, State.kept_ite]

@[simp] theorem setColl_kept (c : Nat) (v : Coll) (s : State) : (setColl c v s).kept = s.kept := by simp [setColl, State.kept_ite]

@[simp] theorem modColl_kept (c : Nat) (f : Coll → Coll) (s : State) : (modColl c f s).kept = s.kept := by simp [modColl, State.kept_ite]

@[simp] theorem setObj_kept (o : Nat) (v : SyncObj) (s : State) : (setObj o v s).kept = s.kept := by simp [setObj, State.kept_ite]

@[simp] theorem modObj_kept (o : Nat) (f : SyncObj → SyncObj) (s : State) : (modObj o f s).kept = s.kept := by simp [modObj, State.kept_ite]

@[simp] theorem setBline_kept (l : Nat) (v : BLine) (s : State) : (setBline l v s).kept = s.kept := by simp [setBline, State.kept_ite]

@[simp] theorem setFline_kept (l : Nat) (v : FLine) (s : State) : (setFline l v s).kept = s.kept := by simp [setFline, State.kept_ite]

@[simp] theorem setQuad_kept (q : Nat) (v : Quad) (s : State) : (setQuad q v s).kept = s.kept := by simp [setQuad, State.kept_ite]

@[simp] theorem modQuad_kept (q : Nat) (f : Quad → Quad) (s : State) : (modQuad q f s).kept = s.kept := by simp [modQuad, State.kept_ite]

@[simp] theorem setMslot_kept (i : Nat) (v : Slot) (s : State) : (setMslot i v s).kept = s.kept := rfl

@[simp] theorem modMslot_kept (i : Nat) (f : Slot → Slot) (s : State) : (modMslot i f s).kept = s.kept := by simp [modMslot, State.kept_ite]

@[simp] theorem setChan_kept (c : Nat) (v : DmaCh) (s : State) : (setChan c v s).kept = s.kept := by simp [setChan, State.kept_ite]

@[simp] theorem modChan_kept (c : Nat) (f : DmaCh → DmaCh) (s : State) : (modChan c f s).kept = s.kept := by simp [modChan, State.kept_ite]

@[simp] theorem setStack_kept (n : Nat) (v : Stack) (s : State) : (setStack n v s).kept = s.kept := by simp [setStack, State.kept_ite]

@[simp] theorem modStack_kept (n : Nat) (f : Stack → Stack) (s : State) : (modStack n f s).kept = s.kept := by simp [modStack, State.kept_ite]

@[simp] theorem setRas_kept (code : Nat) (r : RasRec) (s : State) : (setRas code r s).kept = s.kept := by simp [setRas, State.kept_ite]

@[simp] theorem emit_kept (o : Out) (s : State) : (emit o s).kept = s.kept := by simp [emit, State.kept_ite]

@[simp] theorem drawn_kept (s : State) : (drawn s).kept = s.kept := by simp [drawn, State.kept_ite]

@[simp] theorem lovWrite_kept (a : Nat) (bs : List Byte) (s : State) : (lovWrite a bs s).kept = s.kept := by simp [lovWrite, State.kept_ite]

@[simp] theorem hostWrite_kept (a : Nat) (bs : List Byte) (s : State) : (hostWrite a bs s).kept = s.kept := by simp [hostWrite, State.kept_ite]

@[simp] theorem vector_kept (v : Nat) (s : State) : (vector v s).kept = s.kept := by simp [vector, State.kept_ite]

@[simp] theorem pushEvent_kept (typ : Nat) (data : List Byte) (s : State) : (pushEvent typ data s).kept = s.kept := by simp [pushEvent, State.kept_ite]

@[simp] theorem logRing_kept (e : LogItem) (s : State) : (logRing e s).kept = s.kept := by simp [logRing, State.kept_ite]

@[simp] theorem logUnstage_kept (s : State) : (logUnstage s).kept = s.kept := by
  unfold logUnstage
  repeat' first
    | (simp [State.kept_ite]; done)
    | (refine (foldl_kept _ (fun _ _ => ?_) _ _).trans ?_)
    | split

@[simp] theorem logNow_kept (e : LogItem) (s : State) : (logNow e s).kept = s.kept := by simp [logNow, State.kept_ite]

@[simp] theorem logAdd_kept (typ : Nat) (id : Nat) (data : List Byte) (s : State) : (logAdd typ id data s).kept = s.kept := by simp [logAdd, State.kept_ite]

@[simp] theorem logOpen_kept (typ : Nat) (id : Nat) (s : State) : (logOpen typ id s).kept = s.kept := by simp [logOpen, State.kept_ite]

@[simp] theorem logFlush_kept (s : State) : (logFlush s).kept = s.kept := by
  unfold logFlush
  repeat' first
    | (simp [State.kept_ite]; done)
    | (refine (foldl_kept _ (fun _ _ => ?_) _ _).trans ?_)
    | split

@[simp] theorem rasLog_kept (o : Occ) (s : State) : (rasLog o s).kept = s.kept := by simp [rasLog, State.kept_ite]

@[simp] theorem rasEvent_kept (code : Nat) (s : State) : (rasEvent code s).kept = s.kept := by simp [rasEvent, State.kept_ite]

@[simp] theorem eventAmend_kept (code : Nat) (s : State) : (eventAmend code s).kept = s.kept := by simp [eventAmend, State.kept_ite]

@[simp] theorem rasIrq_kept (code : Nat) (s : State) : (rasIrq code s).kept = s.kept := by simp [rasIrq, State.kept_ite]

@[simp] theorem rasFirst_kept (code : Nat) (s : State) : (rasFirst code s).kept = s.kept := by simp [rasFirst, State.kept_ite]

@[simp] theorem rasRecord_kept (o : Occ) (s : State) : (rasRecord o s).kept = s.kept := by simp [rasRecord, State.kept_ite]

@[simp] theorem stickyBit_kept (code : Nat) (s : State) : (stickyBit code s).kept = s.kept := by
  unfold stickyBit
  split <;> simp [State.kept_ite]

@[simp] theorem freshMark_kept (k : Option Nat) (s : State) : (freshMark k s).kept = s.kept := by
  unfold freshMark
  split <;> simp [State.kept_ite]

@[simp] theorem raise_kept (o : Occ) (s : State) : (raise o s).kept = s.kept := by simp [raise, State.kept_ite]

@[simp] theorem rasClear_kept (code : Nat) (s : State) : (rasClear code s).kept = s.kept := by
  unfold rasClear
  repeat' first
    | (simp [State.kept_ite]; done)
    | (refine (foldl_kept _ (fun _ _ => ?_) _ _).trans ?_)
    | split
    | intro _
    | simp [State.kept_ite]

@[simp] theorem jobState_kept (j : Nat) (t : JobState) (s : State) : (jobState j t s).kept = s.kept := by simp [jobState, State.kept_ite]

@[simp] theorem layStatus_kept (cmd status : Nat) (s : State) : (layStatus cmd status s).kept = s.kept := by simp [layStatus, State.kept_ite]

@[simp] theorem reply_kept (i : Nat) (status : Nat) (payload : List Byte) (s : State) : (reply i status payload s).kept = s.kept := by simp [reply, State.kept_ite]

@[simp] theorem cmdFailWith_kept (i : Nat) (o : Occ) (s : State) : (cmdFailWith i o s).kept = s.kept := by simp [cmdFailWith, State.kept_ite]

@[simp] theorem cmdFail_kept (i : Nat) (code : Nat) (s : State) : (cmdFail i code s).kept = s.kept := by simp [cmdFail, State.kept_ite]

@[simp] theorem cmdFailAt_kept (i : Nat) (code : Nat) (chk : Nat) (s : State) : (cmdFailAt i code chk s).kept = s.kept := by simp [cmdFailAt, State.kept_ite]

@[simp] theorem cmdDone_kept (i : Nat) (payload : List Byte) (s : State) : (cmdDone i payload s).kept = s.kept := by simp [cmdDone, State.kept_ite]

@[simp] theorem syncErr_kept (o : Nat) (code : Nat) (agent : Nat) (d : Nat) (ncell : Nat) (src : Nat) (s : State) : (syncErr o code agent d ncell src s).kept = s.kept := by simp [syncErr, State.kept_ite]

@[simp] theorem touch_kept (j : Option Nat) (o : Nat) (s : State) : (touch j o s).kept = s.kept := by
  unfold touch
  split <;> simp [State.kept_ite]

@[simp] theorem releaseAgent_kept (agent : Nat) (s : State) : (releaseAgent agent s).kept = s.kept := by simp [releaseAgent, State.kept_ite]

@[simp] theorem serveN_kept (fuel : Nat) (o : Nat) (s : State) : (serveN fuel o s).kept = s.kept := by
  fun_induction serveN <;> (first | rfl | (simp [*]))

@[simp] theorem serve_kept (o : Nat) (s : State) : (serve o s).kept = s.kept := by simp [serve, State.kept_ite]

@[simp] theorem syncWait_kept (o : Nat) (agent : Nat) (d : Nat) (s : State) : (syncWait o agent d s).1.kept = s.kept := by
  unfold syncWait
  split <;> simp [State.kept_ite]

@[simp] theorem unwait_kept (o : Nat) (agent : Nat) (s : State) : (unwait o agent s).kept = s.kept := by simp [unwait, State.kept_ite]

@[simp] theorem unwaitAll_kept (agent : Nat) (s : State) : (unwaitAll agent s).kept = s.kept := by
  unfold unwaitAll
  repeat' first
    | (simp [State.kept_ite]; done)
    | (refine (foldl_kept _ (fun _ _ => ?_) _ _).trans ?_)
    | split

@[simp] theorem lineRelease_kept (o : Nat) (s : State) : (lineRelease o s).kept = s.kept := by
  unfold lineRelease
  repeat' first
    | (simp [State.kept_ite]; done)
    | (refine (foldl_kept _ (fun _ _ => ?_) _ _).trans ?_)
    | split

@[simp] theorem fblFaults_kept (o : Nat) (ds : List Nat) (s : State) : (fblFaults o ds s).kept = s.kept := by
  unfold fblFaults
  repeat' first
    | (simp [State.kept_ite]; done)
    | (refine (foldl_kept _ (fun _ _ => ?_) _ _).trans ?_)
    | split

@[simp] theorem fblAdvance_kept (fuel : Nat) (o : Nat) (s : State) : (fblAdvance fuel o s).kept = s.kept := by
  fun_induction fblAdvance <;> (first | rfl | (simp [*]))

@[simp] theorem lineCheck_kept (o : Nat) (s : State) : (lineCheck o s).kept = s.kept := by simp [lineCheck, State.kept_ite]

@[simp] theorem emptyLines_kept (s : State) : (emptyLines s).kept = s.kept := by
  unfold emptyLines
  repeat' first
    | (simp [State.kept_ite]; done)
    | (refine (foldl_kept _ (fun _ _ => ?_) _ _).trans ?_)
    | split

@[simp] theorem barrArrive_kept (o : Nat) (agent : Nat) (s : State) : (barrArrive o agent s).1.kept = s.kept := by
  unfold barrArrive
  repeat' first
    | (simp [State.kept_ite]; done)
    | (refine (foldl_kept _ (fun _ _ => ?_) _ _).trans ?_)
    | split
    | intro _
    | simp [State.kept_ite]

@[simp] theorem fblReceive_kept (f : Nat) (d : Nat) (byte : Nat) (s : State) : (fblReceive f d byte s).kept = s.kept := by
  unfold fblReceive
  split <;> simp [State.kept_ite]

@[simp] theorem signalApply_kept (o : Nat) (d : Nat) (agent : Nat) (src : Nat) (s : State) : (signalApply o d agent src s).1.kept = s.kept := by
  unfold signalApply
  repeat' first
    | (simp [State.kept_ite]; done)
    | (refine (foldl_kept _ (fun _ _ => ?_) _ _).trans ?_)
    | split
    | intro _
    | simp [State.kept_ite]

@[simp] theorem heldApply_kept (o : Nat) (s : State) : (heldApply o s).1.kept = s.kept := by
  unfold heldApply
  repeat' first
    | (simp [State.kept_ite]; done)
    | (refine (foldl_kept _ (fun _ _ => ?_) _ _).trans ?_)
    | split
    | intro _
    | simp [State.kept_ite]

@[simp] theorem holdPush_kept (o : Nat) (d : Nat) (ncell : Nat) (agent : Nat) (pc : Nat) (s : State) : (holdPush o d ncell agent pc s).1.kept = s.kept := by
  unfold holdPush
  repeat' first
    | (simp [State.kept_ite]; done)
    | (refine (foldl_kept _ (fun _ _ => ?_) _ _).trans ?_)
    | split
    | intro _
    | simp [State.kept_ite]

@[simp] theorem signalLost_kept (d : Nat) (g : SigSlot) (s : State) : (signalLost d g s).kept = s.kept := by
  unfold signalLost
  repeat' first
    | (simp [State.kept_ite]; done)
    | (refine (foldl_kept _ (fun _ _ => ?_) _ _).trans ?_)
    | split

@[simp] theorem slotSend_kept (g : SigSlot) (s : State) : (slotSend g s).1.kept = s.kept := by
  unfold slotSend
  repeat' first
    | (simp [State.kept_ite]; done)
    | (refine (foldl_kept _ (fun _ _ => ?_) _ _).trans ?_)
    | split

@[simp] theorem signalsLost_kept (d : Nat) (s : State) : (signalsLost d s).kept = s.kept := by
  unfold signalsLost
  repeat' first
    | (simp [State.kept_ite]; done)
    | (refine (foldl_kept _ (fun _ _ => ?_) _ _).trans ?_)
    | split

@[simp] theorem signalRemote_kept (g : SigSlot) (agent : Nat) (s : State) : (signalRemote g agent s).kept = s.kept := by simp [signalRemote, State.kept_ite]

@[simp] theorem signalProxy_kept (o : Nat) (d : Nat) (s : State) : (signalProxy o d s).kept = s.kept := by simp [signalProxy, State.kept_ite]

@[simp] theorem signalLocal_kept (o : Nat) (d : Nat) (agent : Nat) (pc : Nat) (s : State) : (signalLocal o d agent pc s).1.kept = s.kept := by
  unfold signalLocal
  repeat' first
    | (simp [State.kept_ite]; done)
    | (refine (foldl_kept _ (fun _ _ => ?_) _ _).trans ?_)
    | split
    | intro _
    | simp [State.kept_ite]

@[simp] theorem syncCfgWrite_kept (o : Nat) (w : Nat) (s : State) : (syncCfgWrite o w s).kept = s.kept := by simp [syncCfgWrite, State.kept_ite]

@[simp] theorem syncCountWrite_kept (o : Nat) (reg : Nat) (w : Nat) (s : State) : (syncCountWrite o reg w s).kept = s.kept := by simp [syncCountWrite, State.kept_ite]

@[simp] theorem syncStatWrite_kept (o : Nat) (w : Nat) (s : State) : (syncStatWrite o w s).kept = s.kept := by simp [syncStatWrite, State.kept_ite]

@[simp] theorem blMaskWrite_kept (l : Nat) (w : Nat) (v : Nat) (s : State) : (blMaskWrite l w v s).kept = s.kept := by simp [blMaskWrite, State.kept_ite]

@[simp] theorem syncTimeout_kept (o : Nat) (agent : Nat) (s : State) : (syncTimeout o agent s).kept = s.kept := by simp [syncTimeout, State.kept_ite]

@[simp] theorem stkUe_kept (a : Nat) (s : State) : (stkUe a s).kept = s.kept := by simp [stkUe, State.kept_ite]

@[simp] theorem stkCe_kept (a : Nat) (s : State) : (stkCe a s).kept = s.kept := by simp [stkCe, State.kept_ite]

@[simp] theorem readDrawn_kept (a : Nat) (s : State) : (readDrawn a s).kept = s.kept := by simp [readDrawn, State.kept_ite]

@[simp] theorem lovStore_kept (a : Nat) (bs : List Byte) (s : State) : (lovStore a bs s).kept = s.kept := by
  unfold lovStore
  repeat' first
    | (simp [State.kept_ite]; done)
    | (refine (foldl_kept _ (fun _ _ => ?_) _ _).trans ?_)
    | split

@[simp] theorem holdBuf_kept (r : Nat) (h : Nat) (a : Nat) (s : State) : (holdBuf r h a s).kept = s.kept := by simp [holdBuf, State.kept_ite]

@[simp] theorem listPop_kept (h a : Nat) (s : State) : (listPop h a s).kept = s.kept := by
  unfold listPop
  simp [State.kept_ite]

@[simp] theorem bitmapTake_kept (r h : Nat) (s : State) : (bitmapTake r h s).1.kept = s.kept := by
  unfold bitmapTake
  split
  · rfl
  · exact holdBuf_kept r h _ s

theorem rebuild_kept (h : Nat) (s : State) :
    State.kept { s with pool := { s.pool with rebuild := tset false s.pool.rebuild h true } } = s.kept := rfl

@[simp] theorem halfTake_kept (r n h : Nat) (s : State) : (halfTake r n h s).1.kept = s.kept := by
  rw [halfTake.eq_def]
  split
  · split
    · exact bitmapTake_kept r h s
    · dsimp only
      split
      · exact (holdBuf_kept r h _ _).trans (listPop_kept h _ s)
      · refine (bitmapTake_kept r h _).trans ((rebuild_kept h _).trans ((raise_kept _ _).trans ?_))
        split <;> simp
  · exact bitmapTake_kept r h s

@[simp] theorem poolTake_kept (r : Nat) (n : Nat) (die : Nat) (s : State) : (poolTake r n die s).1.kept = s.kept := by
  unfold poolTake
  first
    | with_reducible rfl
    | (simp [State.kept_ite]; done)
    | (repeat' first
        | with_reducible rfl
        | (simp [State.kept_ite]; done)
        | (refine (foldl_kept _ (fun _ _ => ?_) _ _).trans ?_)
        | split
        | intro _
        | ((repeat (rename_i heq; first | (have ht := congrArg Prod.fst heq; dsimp only at ht; subst ht; clear heq) | clear heq | revert heq)); intros; simp [State.kept_ite]; done)
        | simp [State.kept_ite])

@[simp] theorem bufFree_kept (b : Buf) (s : State) : (bufFree b s).kept = s.kept := by simp [bufFree, State.kept_ite]

@[simp] theorem poolFree'_kept (a : Nat) (mayFree : Nat → Bool) (party : Nat) (s : State) : (poolFree' a mayFree party s).1.kept = s.kept := by
  unfold poolFree'
  repeat' first
    | (simp [State.kept_ite]; done)
    | (refine (foldl_kept _ (fun _ _ => ?_) _ _).trans ?_)
    | split

@[simp] theorem freeOwned_kept (r : Nat) (s : State) : (freeOwned r s).kept = s.kept := by
  unfold freeOwned
  repeat' first
    | (simp [State.kept_ite]; done)
    | (refine (foldl_kept _ (fun _ _ => ?_) _ _).trans ?_)
    | split

@[simp] theorem freshLinks_kept (d : Nat) (s : State) : (freshLinks d s).kept = s.kept := by
  unfold freshLinks
  repeat' first
    | (simp [State.kept_ite]; done)
    | (refine (foldl_kept _ (fun _ _ => ?_) _ _).trans ?_)
    | split

@[simp] theorem threadFresh_kept (h : Nat) (s : State) : (threadFresh h s).kept = s.kept := by
  unfold threadFresh
  repeat' first
    | (simp [State.kept_ite]; done)
    | (refine (foldl_kept _ (fun _ _ => ?_) _ _).trans ?_)
    | split

@[simp] theorem listRebuild_kept (h : Nat) (s : State) : (listRebuild h s).kept = s.kept := by
  unfold listRebuild
  repeat' first
    | (simp [State.kept_ite]; done)
    | (refine (foldl_kept _ (fun _ _ => ?_) _ _).trans ?_)
    | split

@[simp] theorem carveWrite_kept (h : Nat) (w : Nat) (s : State) : (carveWrite h w s).kept = s.kept := by simp [carveWrite, State.kept_ite]

@[simp] theorem defaultCarve_kept (s : State) : (defaultCarve s).kept = s.kept := by
  unfold defaultCarve
  repeat' first
    | (simp [State.kept_ite]; done)
    | (refine (foldl_kept _ (fun _ _ => ?_) _ _).trans ?_)
    | split

@[simp] theorem discard_kept (r : Nat) (s : State) : (discard r s).kept = s.kept := by simp [discard, State.kept_ite]

@[simp] theorem mgmt_kept (msg : String) (dst : Nat) (vals : List Nat) (s : State) : (mgmt msg dst vals s).kept = s.kept := by simp [mgmt, State.kept_ite]

@[simp] theorem modSwc_kept (f : Swc → Swc) (s : State) : (modSwc f s).kept = s.kept := by simp [modSwc, State.kept_ite]

@[simp] theorem noteHigh_kept (port : Nat) (cls : Nat) (s : State) : (noteHigh port cls s).kept = s.kept := by simp [noteHigh, State.kept_ite]

@[simp] theorem ovfTake_kept (die : Nat) (n : Nat) (s : State) : (ovfTake die n s).1.kept = s.kept := by
  unfold ovfTake
  repeat' first
    | (simp [State.kept_ite]; done)
    | split
    | ((repeat (rename_i heq; first | (have ht := congrArg Prod.fst heq; dsimp only at ht; subst ht; clear heq) | clear heq | revert heq)); intros; simp [State.kept_ite]; done)

@[simp] theorem ovfTrim_kept (die : Nat) (s : State) : (ovfTrim die s).kept = s.kept := by
  unfold ovfTrim
  repeat' first
    | (simp [State.kept_ite]; done)
    | (refine (foldl_kept _ (fun _ _ => ?_) _ _).trans ?_)
    | split
    | intro _
    | simp [State.kept_ite]

@[simp] theorem enqueue_kept (port : Nat) (vc : Nat) (acct : Nat) (loc : Nat) (p : Packet) (s : State) : (enqueue port vc acct loc p s).kept = s.kept := by simp [enqueue, State.kept_ite]

@[simp] theorem returnCredit_kept (src : Nat) (st : Nat) (n : Nat) (s : State) : (returnCredit src st n s).kept = s.kept := by simp [returnCredit, State.kept_ite]

@[simp] theorem releaseOwed_kept (s : State) : (releaseOwed s).kept = s.kept := by simp [releaseOwed, State.kept_ite]

@[simp] theorem modCtr_kept (port : Nat) (cls : Nat) (f : PortCtr → PortCtr) (s : State) : (modCtr port cls f s).kept = s.kept := by simp [modCtr, State.kept_ite]

@[simp] theorem modMirror_kept (i : Nat) (f : Mirror → Mirror) (s : State) : (modMirror i f s).kept = s.kept := by simp [modMirror, State.kept_ite]

@[simp] theorem ingressPop_kept (src : Nat) (st : Nat) (s : State) : (ingressPop src st s).kept = s.kept := by
  unfold ingressPop
  split <;> simp [State.kept_ite]

@[simp] theorem modHeld_kept (h : Held) (f : Held → Held) (s : State) : (modHeld h f s).kept = s.kept := by simp [modHeld, State.kept_ite]

@[simp] theorem growHeld_kept (b : List Byte) (last : Bool) (h : Held) (s : State) : (growHeld b last h s).kept = s.kept := by
  unfold growHeld
  repeat' first
    | (simp [State.kept_ite]; done)
    | (refine (foldl_kept _ (fun _ _ => ?_) _ _).trans ?_)
    | split

@[simp] theorem cellJoins_kept (k : Nat) (b : List Byte) (last : Bool) (s : State) : (cellJoins k b last s).kept = s.kept := by
  unfold cellJoins
  repeat' first
    | (simp [State.kept_ite]; done)
    | (refine (foldl_kept _ (fun _ _ => ?_) _ _).trans ?_)
    | split

@[simp] theorem cellIn_kept (q : Nat) (k : Nat) (b : List Byte) (last : Bool) (s : State) : (cellIn q k b last s).kept = s.kept := by
  unfold cellIn
  repeat' first
    | (simp [State.kept_ite]; done)
    | (refine (foldl_kept _ (fun _ _ => ?_) _ _).trans ?_)
    | split

@[simp] theorem numbered_kept (p : Packet) (s : State) : (numbered p s).1.kept = s.kept := by
  unfold numbered
  repeat' first
    | (simp [State.kept_ite]; done)
    | (refine (foldl_kept _ (fun _ _ => ?_) _ _).trans ?_)
    | split

@[simp] theorem stompPassed_kept (port : Nat) (cls : Nat) (s : State) : (stompPassed port cls s).kept = s.kept := by
  unfold stompPassed
  repeat' first
    | (simp [State.kept_ite]; done)
    | (refine (foldl_kept _ (fun _ _ => ?_) _ _).trans ?_)
    | split

@[simp] theorem stompCopiesOf_kept (k n code : Nat) (s : State) : (stompCopiesOf k n code s).kept = s.kept := by
  unfold stompCopiesOf
  repeat' first
    | (simp [State.kept_ite]; done)
    | (refine (foldl_kept _ (fun _ _ => ?_) _ _).trans ?_)
    | split

@[simp] theorem stompCopies_kept (p : Packet) (code : Nat) (s : State) : (stompCopies p code s).kept = s.kept := by
  unfold stompCopies
  repeat' first
    | (simp [State.kept_ite]; done)
    | (refine (foldl_kept _ (fun _ _ => ?_) _ _).trans ?_)
    | split

@[simp] theorem stompErr_kept (h : Held) (code : Nat) (seg : Nat) (s : State) : (stompErr h code seg s).kept = s.kept := by simp [stompErr, State.kept_ite]

@[simp] theorem stompQueued_kept (h : Held) (code : Nat) (s : State) : (stompQueued h code s).kept = s.kept := by
  unfold stompQueued
  repeat' first
    | (simp [State.kept_ite]; done)
    | (refine (foldl_kept _ (fun _ _ => ?_) _ _).trans ?_)
    | split

@[simp] theorem stompOne_kept (h : Held) (code : Nat) (seg : Nat) (s : State) : (stompOne h code seg s).kept = s.kept := by
  unfold stompOne
  repeat' first
    | (simp [State.kept_ite]; done)
    | (refine (foldl_kept _ (fun _ _ => ?_) _ _).trans ?_)
    | split

@[simp] theorem ingressDrop_kept (w : Waiting) (s : State) : (ingressDrop w s).kept = s.kept := by
  unfold ingressDrop
  repeat' first
    | (simp [State.kept_ite]; done)
    | (refine (foldl_kept _ (fun _ _ => ?_) _ _).trans ?_)
    | split

@[simp] theorem programEnds_kept (n : Nat) (s : State) : (programEnds n s).kept = s.kept := by simp [programEnds, State.kept_ite]

@[simp] theorem abortFinish_kept (n : Nat) (s : State) : (abortFinish n s).kept = s.kept := by simp [abortFinish, State.kept_ite]

@[simp] theorem abortNewt_kept (n : Nat) (s : State) : (abortNewt n s).kept = s.kept := by simp [abortNewt, State.kept_ite]

@[simp] theorem abortErr_kept (port : Nat) (p : Packet) (s : State) : (abortErr port p s).kept = s.kept := by simp [abortErr, State.kept_ite]

@[simp] theorem schedCopies_kept (p : Packet) (code : Nat) (b : List Byte) (s : State) : (schedCopies p code b s).kept = s.kept := by simp [schedCopies, State.kept_ite]

@[simp] theorem abortPipe_kept (c : Nat) (s : State) : (abortPipe c s).kept = s.kept := by
  unfold abortPipe
  repeat' first
    | (simp [State.kept_ite]; done)
    | (refine (foldl_kept _ (fun _ _ => ?_) _ _).trans ?_)
    | split

@[simp] theorem abortOpen_kept (q : Nat) (e : Nat × Packet × Nat × Nat) (s : State) : (abortOpen q e s).kept = s.kept := by simp [abortOpen, State.kept_ite]

@[simp] theorem abortAtNewt_kept (c n : Nat) (s : State) : (abortAtNewt c n s).kept = s.kept := by
  unfold abortAtNewt
  repeat' first
    | (simp [State.kept_ite]; done)
    | (refine (foldl_kept _ (fun _ _ => ?_) _ _).trans ?_)
    | split
    | intro _
    | simp [State.kept_ite]

@[simp] theorem abortSched_kept (c : Nat) (s : State) : (abortSched c s).kept = s.kept := by
  unfold abortSched
  repeat' first
    | (simp [State.kept_ite]; done)
    | (refine (foldl_kept _ (fun _ _ => ?_) _ _).trans ?_)
    | split

@[simp] theorem abortStomps_kept (c : Nat) (s : State) : (abortStomps c s).kept = s.kept := by
  unfold abortStomps
  repeat' first
    | (simp [State.kept_ite]; done)
    | (refine (foldl_kept _ (fun _ _ => ?_) _ _).trans ?_)
    | split

@[simp] theorem collRaise_kept (c : Nat) (cause : Nat) (p : FaultPlace) (s : State) : (collRaise c cause p s).kept = s.kept := by simp [collRaise, State.kept_ite]

@[simp] theorem collMsg_kept (msg : String) (kind : Nat) (dst : Nat) (c : Nat) (tile : Nat) (rank : Nat) (body : List Nat) (s : State) : (collMsg msg kind dst c tile rank body s).kept = s.kept := by
  unfold collMsg
  repeat' first
    | (simp [State.kept_ite]; done)
    | (refine (foldl_kept _ (fun _ _ => ?_) _ _).trans ?_)
    | split

@[simp] theorem notices_kept (c : Nat) (status : Nat) (cause : Nat) (p : FaultPlace) (s : State) : (notices c status cause p s).kept = s.kept := by
  unfold notices
  repeat' first
    | (simp [State.kept_ite]; done)
    | (refine (foldl_kept _ (fun _ _ => ?_) _ _).trans ?_)
    | split

@[simp] theorem commitBy_kept (n c : Nat) (s : State) : (commitBy n c s).kept = s.kept := by simp [commitBy, State.kept_ite]

@[simp] theorem cmtFirst_kept (ns : List Nat) (s : State) : (cmtFirst ns s).kept = s.kept := by
  unfold cmtFirst
  repeat' first
    | (simp [State.kept_ite]; done)
    | (refine (foldl_kept _ (fun _ _ => ?_) _ _).trans ?_)
    | split

@[simp] theorem abortAt_kept (n : Nat) (s : State) : (abortAt n s).kept = s.kept := by simp [abortAt, State.kept_ite]

@[simp] theorem abortMark_kept (c : Nat) (cause : Nat) (p : FaultPlace) (s : State) : (abortMark c cause p s).kept = s.kept := by
  unfold abortMark
  repeat' first
    | (simp [State.kept_ite]; done)
    | (refine (foldl_kept _ (fun _ _ => ?_) _ _).trans ?_)
    | split

@[simp] theorem abortStop_kept (fuel : Nat) (cs : List Nat) (seen : List Nat) (s : State) :
    (abortStop fuel cs seen s).kept = s.kept := by
  induction fuel generalizing cs seen s with
  | zero => rfl
  | succ fuel ih =>
    cases cs with
    | nil => rfl
    | cons c r =>
      rw [abortStop.eq_def]
      dsimp only
      split
      · exact ih _ _ _
      · refine (ih _ _ _).trans ((foldl_kept _ (fun t e => ?_) _ _).trans (foldl_kept _ (fun t n => abortAt_kept n t) _ _))
        exact (abortMark_kept _ _ _ _).trans (collRaise_kept _ _ _ _)

@[simp] theorem abortReq_kept (c : Nat) (cause : Nat) (p : FaultPlace) (s : State) : (abortReq c cause p s).kept = s.kept := by
  unfold abortReq
  repeat' first
    | (simp [State.kept_ite]; done)
    | (refine (foldl_kept _ (fun _ _ => ?_) _ _).trans ?_)
    | split

@[simp] theorem abortEach_kept (cause : Nat) (es : List (Nat × FaultPlace)) (s : State) : (abortEach cause es s).kept = s.kept := by
  unfold abortEach
  repeat' first
    | (simp [State.kept_ite]; done)
    | (refine (foldl_kept _ (fun _ _ => ?_) _ _).trans ?_)
    | split
    | intro _
    | simp [State.kept_ite]

@[simp] theorem abortMany_kept (cs : List Nat) (cause : Nat) (p : FaultPlace) (s : State) : (abortMany cs cause p s).kept = s.kept := by
  unfold abortMany
  repeat' first
    | (simp [State.kept_ite]; done)
    | (refine (foldl_kept _ (fun _ _ => ?_) _ _).trans ?_)
    | split

@[simp] theorem detectAbort_kept (c : Nat) (cause : Nat) (p : FaultPlace) (s : State) : (detectAbort c cause p s).kept = s.kept := by simp [detectAbort, State.kept_ite]

@[simp] theorem newtStopped_kept (n : Nat) (s : State) : (newtStopped n s).kept = s.kept := by
  unfold newtStopped
  repeat' first
    | (simp [State.kept_ite]; done)
    | (refine (foldl_kept _ (fun _ _ => ?_) _ _).trans ?_)
    | split

@[simp] theorem stopFor_kept (c : Nat) (ns : List Nat) (s : State) : (stopFor c ns s).kept = s.kept := by
  unfold stopFor
  repeat' first
    | (simp [State.kept_ite]; done)
    | (refine (foldl_kept _ (fun _ _ => ?_) _ _).trans ?_)
    | split
    | intro _
    | simp [State.kept_ite]

@[simp] theorem abortSettle_kept (i : Nat) (v : Coll) (s : State) : (abortSettle i v s).kept = s.kept := by simp [abortSettle, State.kept_ite]

@[simp] theorem collReport_kept (c : Nat) (status : Nat) (st : CollState) (s : State) : (collReport c status st s).kept = s.kept := by
  unfold collReport
  repeat' first
    | (simp [State.kept_ite]; done)
    | (refine (foldl_kept _ (fun _ _ => ?_) _ _).trans ?_)
    | split

@[simp] theorem memberNotes_kept (r : List Byte) (s : State) : (memberNotes r s).kept = s.kept := by
  unfold memberNotes
  repeat' first
    | (simp [State.kept_ite]; done)
    | (refine (foldl_kept _ (fun _ _ => ?_) _ _).trans ?_)
    | split

@[simp] theorem jobStop_kept (cause : Nat) (p : FaultPlace) (s : State) : (jobStop cause p s).kept = s.kept := by
  unfold jobStop
  repeat' first
    | (simp [State.kept_ite]; done)
    | (refine (foldl_kept _ (fun _ _ => ?_) _ _).trans ?_)
    | split

@[simp] theorem newtHalt_kept (n : Nat) (code : Nat) (pc : Nat) (s : State) : (newtHalt n code pc s).kept = s.kept := by
  unfold newtHalt
  repeat' first
    | (simp [State.kept_ite]; done)
    | (refine (foldl_kept _ (fun _ _ => ?_) _ _).trans ?_)
    | split

@[simp] theorem newtError_kept (n : Nat) (code : Nat) (pc : Nat) (lc : Nat) (ras : Bool) (s : State) : (newtError n code pc lc ras s).kept = s.kept := by simp [newtError, State.kept_ite]

@[simp] theorem asbLand_kept (n : Nat) (a : Nat) (d : List Byte) (c : Nat) (src : Option (Nat × Nat)) (s : State) : (asbLand n a d c src s).kept = s.kept := by simp [asbLand, State.kept_ite]

@[simp] theorem landErr_kept (n : Nat) (lc : Nat) (s : State) : (landErr n lc s).kept = s.kept := by simp [landErr, State.kept_ite]

@[simp] theorem landCell_kept (n : Nat) (c : LandCell) (s : State) : (landCell n c s).kept = s.kept := by simp [landCell, State.kept_ite]

@[simp] theorem landAsb_kept (n : Nat) (c : LandCell) (s : State) : (landAsb n c s).kept = s.kept := by simp [landAsb, State.kept_ite]

@[simp] theorem landAny_kept (n : Nat) (c : LandCell) (s : State) : (landAny n c s).kept = s.kept := by simp [landAny, State.kept_ite]

@[simp] theorem landPacket_kept (p : Packet) (s : State) : (landPacket p s).kept = s.kept := by
  unfold landPacket
  repeat' first
    | (simp [State.kept_ite]; done)
    | (refine (foldl_kept _ (fun _ _ => ?_) _ _).trans ?_)
    | split

@[simp] theorem setSnode_kept (n : Nat) (v : ShpNode) (s : State) : (setSnode n v s).kept = s.kept := by simp [setSnode, State.kept_ite]

@[simp] theorem setPolicer_kept (k : Nat) (v : Policer) (s : State) : (setPolicer k v s).kept = s.kept := by simp [setPolicer, State.kept_ite]

@[simp] theorem refillAll_kept (s : State) : (refillAll s).kept = s.kept := by simp [refillAll, State.kept_ite]

@[simp] theorem shapeCharge_kept (port : Nat) (p : Packet) (s : State) : (shapeCharge port p s).kept = s.kept := by
  unfold shapeCharge
  repeat' first
    | (simp [State.kept_ite]; done)
    | (refine (foldl_kept _ (fun _ _ => ?_) _ _).trans ?_)
    | split

@[simp] theorem shapeHeld_kept (ns : List Nat) (s : State) : (shapeHeld ns s).kept = s.kept := by
  unfold shapeHeld
  repeat' first
    | (simp [State.kept_ite]; done)
    | (refine (foldl_kept _ (fun _ _ => ?_) _ _).trans ?_)
    | split

@[simp] theorem police_kept (port : Nat) (p : Packet) (s : State) : (police port p s).1.kept = s.kept := by
  unfold police
  repeat' first
    | (simp [State.kept_ite]; done)
    | (refine (foldl_kept _ (fun _ _ => ?_) _ _).trans ?_)
    | split
    | intro _
    | simp [State.kept_ite]

@[simp] theorem nodeWrite_kept (n : Nat) (w : Nat) (s : State) : (nodeWrite n w s).kept = s.kept := by simp [nodeWrite, State.kept_ite]

@[simp] theorem skeyWrite_kept (n : Nat) (w : Nat) (s : State) : (skeyWrite n w s).kept = s.kept := by simp [skeyWrite, State.kept_ite]

@[simp] theorem pcfgWrite_kept (k : Nat) (w : Nat) (s : State) : (pcfgWrite k w s).kept = s.kept := by simp [pcfgWrite, State.kept_ite]

@[simp] theorem pcWrite_kept (k : Nat) (w : Nat) (s : State) : (pcWrite k w s).kept = s.kept := by simp [pcWrite, State.kept_ite]

@[simp] theorem peWrite_kept (k : Nat) (w : Nat) (s : State) : (peWrite k w s).kept = s.kept := by simp [peWrite, State.kept_ite]

@[simp] theorem applyShaper_kept (keep : Bool) (b : List Byte) (s : State) : (applyShaper keep b s).kept = s.kept := by
  unfold applyShaper
  repeat' first
    | (simp [State.kept_ite]; done)
    | (refine (foldl_kept _ (fun _ _ => ?_) _ _).trans ?_)
    | split

@[simp] theorem unitOut_kept (p : Packet) (s : State) : (unitOut p s).kept = s.kept := by simp [unitOut, State.kept_ite]

@[simp] theorem proxyCount_kept (p : Packet) (s : State) : (proxyCount p s).kept = s.kept := by
  unfold proxyCount
  repeat' first
    | (simp [State.kept_ite]; done)
    | (refine (foldl_kept _ (fun _ _ => ?_) _ _).trans ?_)
    | split

@[simp] theorem flowPump_kept (fuel : Nat) (f : SrcFlow) (s : State) : (flowPump fuel f s).1.kept = s.kept := by
  fun_induction flowPump <;> (first | rfl | (simp [*]))

@[simp] theorem setFlow_kept (f : SrcFlow) (s : State) : (setFlow f s).kept = s.kept := by simp [setFlow, State.kept_ite]

@[simp] theorem dropFlow_kept (k : Nat × Nat × Nat × Nat × Nat × Nat) (s : State) : (dropFlow k s).kept = s.kept := by simp [dropFlow, State.kept_ite]

@[simp] theorem unitSend_kept (p : Packet) (s0 : State) : (unitSend p s0).kept = s0.kept := by simp [unitSend, State.kept_ite]

@[simp] theorem ackOut_kept (p : Packet) (s : State) : (ackOut p s).kept = s.kept := by
  unfold ackOut
  repeat' first
    | (simp [State.kept_ite]; done)
    | (refine (foldl_kept _ (fun _ _ => ?_) _ _).trans ?_)
    | split

@[simp] theorem sendAck_kept (p : Packet) (nak : Bool) (closed : Bool) (win : Nat) (reason : Nat) (next : Nat) (s : State) : (sendAck p nak closed win reason next s).kept = s.kept := by simp [sendAck, State.kept_ite]

@[simp] theorem tellSource_kept (p : Packet) (s : State) : (tellSource p s).kept = s.kept := by simp [tellSource, State.kept_ite]

@[simp] theorem noRoute_kept (code : Nat) (src : Nat) (p : Packet) (s : State) : (noRoute code src p s).kept = s.kept := by simp [noRoute, State.kept_ite]

@[simp] theorem onNoRoute_kept (src : Nat) (p : Packet) (s : State) : (onNoRoute src p s).kept = s.kept := by simp [onNoRoute, State.kept_ite]

@[simp] theorem onPortDown_kept (src : Nat) (p : Packet) (s : State) : (onPortDown src p s).kept = s.kept := by simp [onPortDown, State.kept_ite]

@[simp] theorem copyAdmit_kept (port : Nat) (p : Packet) (own : Bool) (s : State) : (copyAdmit port p own s).kept = s.kept := by
  unfold copyAdmit
  repeat' first
    | (simp [State.kept_ite]; done)
    | (refine (foldl_kept _ (fun _ _ => ?_) _ _).trans ?_)
    | split
    | intro _
    | simp [State.kept_ite]

theorem foldl_fst_kept {α β : Type} (f : State × β → α → State × β) (h : ∀ a x, (f a x).1.kept = a.1.kept) (l : List α)
    (a : State × β) : (l.foldl f a).1.kept = a.1.kept := by
  induction l generalizing a with
  | nil => rfl
  | cons x r ih => rw [List.foldl_cons, ih, h]

@[simp] theorem mirrorPlan_kept (ins outs : List Nat) (p : Packet) (s : State) : (mirrorPlan ins outs p s).1.kept = s.kept := by
  rw [mirrorPlan.eq_def]
  refine foldl_fst_kept _ (fun a i => ?_) _ (s, [], [])
  dsimp only
  split
  · rfl
  · split
    · exact modMirror_kept _ _ _
    · split <;> exact modMirror_kept _ _ _

@[simp] theorem makeCopies_kept (pls : List CopyPlan) (p : Packet) (s : State) : (makeCopies pls p s).kept = s.kept := by
  unfold makeCopies
  repeat' first
    | (simp [State.kept_ite]; done)
    | (refine (foldl_kept _ (fun _ _ => ?_) _ _).trans ?_)
    | split
    | intro _
    | simp [State.kept_ite]

@[simp] theorem mirrored_kept (ins outs : List Nat) (p : Packet) (s : State) : (mirrored ins outs p s).1.kept = s.kept := by
  have h := mirrorPlan_kept ins outs p s
  rw [mirrored.eq_def]
  rcases hx : mirrorPlan ins outs p s with ⟨t, a, b⟩
  rw [hx] at h
  exact (makeCopies_kept a p t).trans h

@[simp] theorem chanAdvance_kept (ch : Nat) (s : State) : (chanAdvance ch s).kept = s.kept := by simp [chanAdvance, State.kept_ite]

@[simp] theorem abandonOp_kept (ch : Nat) (status : Bool) (s : State) : (abandonOp ch status s).kept = s.kept := by simp [abandonOp, State.kept_ite]

@[simp] theorem chanStop_kept (ch : Nat) (code : Nat) (s : State) : (chanStop ch code s).kept = s.kept := by simp [chanStop, State.kept_ite]

@[simp] theorem chanError_kept (ch : Nat) (code : Nat) (d : List Byte) (s : State) : (chanError ch code d s).kept = s.kept := by simp [chanError, State.kept_ite]

@[simp] theorem chanDone_kept (ch : Nat) (d : List Byte) (s : State) : (chanDone ch d s).kept = s.kept := by simp [chanDone, State.kept_ite]

@[simp] theorem chanTake_kept (ch : Nat) (d : List Byte) (s : State) : (chanTake ch d s).1.kept = s.kept := by
  unfold chanTake
  repeat' first
    | (simp [State.kept_ite]; done)
    | split
    | ((repeat (rename_i heq; first | (have ht := congrArg Prod.fst heq; dsimp only at ht; subst ht; clear heq) | clear heq | revert heq)); intros; simp [State.kept_ite]; done)

@[simp] theorem chanRun_kept (ch : Nat) (d : List Byte) (f : State → State) (s : State) (h_f : ∀ x0, (f x0).kept = x0.kept) : (chanRun ch d f s).kept = s.kept := by
  unfold chanRun
  repeat' first
    | (simp [State.kept_ite, h_f]; done)
    | (refine (foldl_kept _ (fun _ _ => ?_) _ _).trans ?_)
    | split

@[simp] theorem chanReadback_kept (ch : Nat) (s : State) : (chanReadback ch s).kept = s.kept := by simp [chanReadback, State.kept_ite]

@[simp] theorem chanIssue_kept (ch a n k : Nat) (s : State) : (chanIssue ch a n k s).kept = s.kept := by simp [chanIssue]

@[simp] theorem h2d_kept (ch : Nat) (d : List Byte) (data : List Byte) (s : State) : (h2d ch d data s).kept = s.kept := by
  unfold h2d
  repeat' first
    | (simp [State.kept_ite]; done)
    | split
    | ((repeat (rename_i heq; first | (have ht := congrArg Prod.fst heq; dsimp only at ht; subst ht; clear heq) | clear heq | revert heq)); intros; simp [State.kept_ite]; done)

@[simp] theorem d2h_kept (ch : Nat) (d : List Byte) (s : State) : (d2h ch d s).kept = s.kept := by
  unfold d2h
  split <;> simp [State.kept_ite]

@[simp] theorem dmaWaitOp_kept (ch : Nat) (d : List Byte) (s : State) : (dmaWaitOp ch d s).kept = s.kept := by
  unfold dmaWaitOp
  repeat' first
    | (simp [State.kept_ite]; done)
    | split
    | ((repeat (rename_i heq; first | (have ht := congrArg Prod.fst heq; dsimp only at ht; subst ht; clear heq) | clear heq | revert heq)); intros; simp [State.kept_ite]; done)

@[simp] theorem dmaSigOp_kept (ch : Nat) (d : List Byte) (s : State) : (dmaSigOp ch d s).kept = s.kept := by
  unfold dmaSigOp
  repeat' first
    | (simp [State.kept_ite]; done)
    | split
    | ((repeat (rename_i heq; first | (have ht := congrArg Prod.fst heq; dsimp only at ht; subst ht; clear heq) | clear heq | revert heq)); intros; simp [State.kept_ite]; done)

@[simp] theorem dmaBarrOp_kept (ch : Nat) (d : List Byte) (s : State) : (dmaBarrOp ch d s).kept = s.kept := by
  unfold dmaBarrOp
  first
    | with_reducible rfl
    | (simp [State.kept_ite]; done)
    | (repeat' first
        | with_reducible rfl
        | (simp [State.kept_ite]; done)
        | (refine (foldl_kept _ (fun _ _ => ?_) _ _).trans ?_)
        | split
        | intro _
        | ((repeat (rename_i heq; first | (have ht := congrArg Prod.fst heq; dsimp only at ht; subst ht; clear heq) | clear heq | revert heq)); intros; simp [State.kept_ite]; done)
        | simp [State.kept_ite])

@[simp] theorem chanComplete_kept (ch : Nat) (s : State) : (chanComplete ch s).kept = s.kept := by
  unfold chanComplete
  first
    | with_reducible rfl
    | (simp [State.kept_ite]; done)
    | (repeat' first
        | with_reducible rfl
        | (simp [State.kept_ite]; done)
        | (refine (foldl_kept _ (fun _ _ => ?_) _ _).trans ?_)
        | split
        | intro _
        | ((repeat (rename_i heq; first | (have ht := congrArg Prod.fst heq; dsimp only at ht; subst ht; clear heq) | clear heq | revert heq)); intros; simp [State.kept_ite]; done)
        | simp [State.kept_ite])

@[simp] theorem smudge_kept (c : DmaCh) (s : State) : (smudge c s).kept = s.kept := by
  unfold smudge
  split <;> simp [State.kept_ite]

@[simp] theorem busStop_kept (ch : Nat) (s : State) : (busStop ch s).kept = s.kept := by simp [busStop, State.kept_ite]

@[simp] theorem dmaOrphan_kept (s : State) : (dmaOrphan s).kept = s.kept := by
  unfold dmaOrphan
  repeat' first
    | (simp [State.kept_ite]; done)
    | (refine (foldl_kept _ (fun _ _ => ?_) _ _).trans ?_)
    | split

@[simp] theorem dmaFlr_kept (s : State) : (dmaFlr s).kept = s.kept := by
  unfold dmaFlr
  repeat' first
    | (simp [State.kept_ite]; done)
    | (refine (foldl_kept _ (fun _ _ => ?_) _ _).trans ?_)
    | split

@[simp] theorem dmaRing_kept (ch : Nat) (w : Nat) (s : State) : (dmaRing ch w s).kept = s.kept := by simp [dmaRing, State.kept_ite]

@[simp] theorem dmaBell_kept (ch : Nat) (w : Nat) (s : State) : (dmaBell ch w s).kept = s.kept := by simp [dmaBell, State.kept_ite]

@[simp] theorem dmaResume_kept (ch : Nat) (s : State) : (dmaResume ch s).kept = s.kept := by simp [dmaResume, State.kept_ite]

@[simp] theorem dmaAbandon_kept (ch : Nat) (s : State) : (dmaAbandon ch s).kept = s.kept := by simp [dmaAbandon, State.kept_ite]

@[simp] theorem dmaCctl_kept (ch : Nat) (w : Nat) (s : State) : (dmaCctl ch w s).kept = s.kept := by simp [dmaCctl, State.kept_ite]

@[simp] theorem poolFreeWrite_kept (w : Nat) (s : State) : (poolFreeWrite w s).kept = s.kept := by simp [poolFreeWrite, State.kept_ite]

@[simp] theorem ovfAdmit_kept (port : Nat) (vc : Nat) (p : Packet) (s : State) : (ovfAdmit port vc p s).1.kept = s.kept := by
  unfold ovfAdmit
  first
    | with_reducible rfl
    | (simp [State.kept_ite]; done)
    | (repeat' first
        | with_reducible rfl
        | (simp [State.kept_ite]; done)
        | (refine (foldl_kept _ (fun _ _ => ?_) _ _).trans ?_)
        | split
        | intro _
        | ((repeat (rename_i heq; first | (have ht := congrArg Prod.fst heq; dsimp only at ht; subst ht; clear heq) | clear heq | revert heq)); intros; simp [State.kept_ite]; done)
        | simp [State.kept_ite])

@[simp] theorem admitTo_kept (port : Nat) (vc : Nat) (p : Packet) (s : State) : (admitTo port vc p s).1.kept = s.kept := by
  unfold admitTo
  repeat' first
    | (simp [State.kept_ite]; done)
    | (refine (foldl_kept _ (fun _ _ => ?_) _ _).trans ?_)
    | split
    | intro _
    | simp [State.kept_ite]

@[simp] theorem openCtx_kept (p : Packet) (s : State) : (openCtx p s).kept = s.kept := by
  unfold openCtx
  split <;> simp [State.kept_ite]

@[simp] theorem admitFrom_kept (src : Nat) (out : Nat) (vc : Nat) (p : Packet) (s : State) : (admitFrom src out vc p s).1.kept = s.kept := by
  unfold admitFrom
  first
    | with_reducible rfl
    | (simp [State.kept_ite]; done)
    | (repeat' first
        | with_reducible rfl
        | (simp [State.kept_ite]; done)
        | (refine (foldl_kept _ (fun _ _ => ?_) _ _).trans ?_)
        | split
        | intro _
        | ((repeat (rename_i heq; first | (have ht := congrArg Prod.fst heq; dsimp only at ht; subst ht; clear heq) | clear heq | revert heq)); intros; simp [State.kept_ite]; done)
        | simp [State.kept_ite])

@[simp] theorem lookup_kept (src : Nat) (p : Packet) (s : State) : (lookup src p s).1.kept = s.kept := by
  unfold lookup
  repeat' first
    | (simp [State.kept_ite]; done)
    | (refine (foldl_kept _ (fun _ _ => ?_) _ _).trans ?_)
    | split

@[simp] theorem admitQuad_kept (q : Nat) (st : Nat) (s : State) : (admitQuad q st s).kept = s.kept := by
  unfold admitQuad
  repeat' first
    | (simp [State.kept_ite]; done)
    | split
    | ((repeat (rename_i heq; first | (have ht := congrArg Prod.fst heq; dsimp only at ht; subst ht; clear heq) | clear heq | revert heq)); intros; simp [State.kept_ite]; done)

@[simp] theorem unitPop_kept (p : Packet) (s : State) : (unitPop p s).kept = s.kept := by simp [unitPop, State.kept_ite]

@[simp] theorem unitEnter_kept (out : Nat) (p : Packet) (s : State) : (unitEnter out p s).1.kept = s.kept := by
  unfold unitEnter
  repeat' first
    | (simp [State.kept_ite]; done)
    | (refine (foldl_kept _ (fun _ _ => ?_) _ _).trans ?_)
    | split

@[simp] theorem busyDue_kept (s : State) : (busyDue s).kept = s.kept := by
  unfold busyDue
  repeat' first
    | (simp [State.kept_ite]; done)
    | (refine (foldl_kept _ (fun _ _ => ?_) _ _).trans ?_)
    | split

@[simp] theorem admitUnit_kept (st : Nat) (s : State) : (admitUnit st s).kept = s.kept := by
  unfold admitUnit
  repeat' first
    | (simp [State.kept_ite]; done)
    | split
    | ((repeat (rename_i heq; first | (have ht := congrArg Prod.fst heq; dsimp only at ht; subst ht; clear heq) | clear heq | revert heq)); intros; simp [State.kept_ite]; done)

@[simp] theorem modRte_kept (f : Rte → Rte) (s : State) : (modRte f s).kept = s.kept := by simp [modRte, State.kept_ite]

@[simp] theorem putFlow_kept (f : Flow) (s : State) : (putFlow f s).kept = s.kept := by simp [putFlow, State.kept_ite]

@[simp] theorem freeFlow_kept (k : Nat × Nat × Nat × Nat × Nat × Nat) (s : State) : (freeFlow k s).kept = s.kept := by simp [freeFlow, State.kept_ite]

@[simp] theorem seqAdmit_kept (src : Nat) (out : Nat) (p : Packet) (s : State) : (seqAdmit src out p s).1.kept = s.kept := by simp [seqAdmit, State.kept_ite]

@[simp] theorem seqAck_kept (f : Flow) (p : Packet) (s : State) : (seqAck f p s).kept = s.kept := by simp [seqAck, State.kept_ite]

@[simp] theorem stompColl_kept (p : Packet) (code : Nat) (place : FaultPlace) (s : State) : (stompColl p code place s).kept = s.kept := by
  unfold stompColl
  split <;> simp [State.kept_ite]

@[simp] theorem ctxStomp_kept (a out : Nat) (h : Packet) (s : State) : (ctxStomp a out h s).kept = s.kept := by simp [ctxStomp, State.kept_ite]

@[simp] theorem drainCtx_kept (fuel out : Nat) (f : Flow) (p : Packet) (s : State) : (drainCtx fuel out f p s).kept = s.kept := by
  induction fuel generalizing f p s with
  | zero => exact seqAck_kept f p s
  | succ fuel ih =>
    unfold drainCtx
    dsimp only
    split
    · simp
    · split
      · simp
      · split <;> rename_i t heq <;> have ht := congrArg Prod.fst heq <;> dsimp only at ht <;> subst ht <;> simp [ih]

@[simp] theorem ctxHold_kept (f : Flow) (c : Nat) (p : Packet) (s : State) : (ctxHold f c p s).kept = s.kept := by simp [ctxHold, State.kept_ite]

@[simp] theorem beyondWindow_kept (src : Nat) (f : Flow) (p : Packet) (s : State) : (beyondWindow src f p s).kept = s.kept := by simp [beyondWindow, State.kept_ite]

@[simp] theorem seqFlow_kept (src : Nat) (out : Nat) (f : Flow) (p : Packet) (s : State) : (seqFlow src out f p s).1.kept = s.kept := by
  unfold seqFlow
  first
    | with_reducible rfl
    | (simp [State.kept_ite]; done)
    | (repeat' first
        | with_reducible rfl
        | (simp [State.kept_ite]; done)
        | (refine (foldl_kept _ (fun _ _ => ?_) _ _).trans ?_)
        | split
        | intro _
        | ((repeat (rename_i heq; first | (have ht := congrArg Prod.fst heq; dsimp only at ht; subst ht; clear heq) | clear heq | revert heq)); intros; simp [State.kept_ite]; done)
        | simp [State.kept_ite])

theorem takenOr_kept (s : State) (r : State × Bool) (h : r.1.kept = s.kept) : (takenOr s r).1.kept = s.kept := by
  unfold takenOr
  split
  · exact h
  · rfl

@[simp] theorem openFlow_kept (p : Packet) (s : State) : (openFlow p s).kept = s.kept := by simp [openFlow, State.kept_ite]

@[simp] theorem stompNak_kept (p : Packet) (s : State) : (stompNak p s).kept = s.kept := by
  unfold stompNak
  repeat' first
    | (simp [State.kept_ite]; done)
    | (refine (foldl_kept _ (fun _ _ => ?_) _ _).trans ?_)
    | split

@[simp] theorem seqPacket_kept (src out : Nat) (p : Packet) (s : State) : (seqPacket src out p s).1.kept = s.kept := by
  unfold seqPacket
  split
  · exact stompNak_kept _ _
  · split
    · simp only [seqFlow_kept]
    · split
      · split
        · refine takenOr_kept s _ ?_
          rw [seqFlow_kept, openFlow_kept]
        · simp only [sendAck_kept, modRte_kept]
      · dsimp only
        split
        · simp only [sendAck_kept, modRte_kept]
        · simp only [modRte_kept]

theorem seqTaken_kept (f : State → State) (hf : ∀ t, (f t).kept = t.kept) (x : State × Bool) (s : State) (h : x.1.kept = s.kept) :
    (match x with | (t, true) => f t | (t, false) => t).kept = s.kept := by
  rcases x with ⟨t, b⟩
  cases b
  · exact h
  · exact (hf t).trans h

@[simp] theorem reseq_kept (p : Packet) (s : State) : (reseq p s).kept = s.kept := by
  rw [reseq.eq_def]
  split
  · split
    · split
      · exact (ingressPop_kept _ _ _).trans (onPortDown_kept _ _ _)
      · exact seqTaken_kept _ (fun t => ingressPop_kept _ _ t) _ _ (seqPacket_kept _ _ _ _)
    · rfl
  · refine Eq.trans ?_ (busyDue_kept s)
    generalize busyDue s = s
    dsimp only
    split
    · have h := lookup_kept 128 p s
      rcases hl : lookup 128 p s with ⟨t, o⟩
      rw [hl] at h
      cases o with
      | none => exact (unitPop_kept _ _).trans h
      | some ov =>
        have hu := unitEnter_kept ov.1 p t
        dsimp only
        rcases he : unitEnter ov.1 p t with ⟨u, m⟩
        rw [he] at hu
        dsimp only
        have hs := seqPacket_kept 128 ov.1 m u
        rcases hq : seqPacket 128 ov.1 m u with ⟨w, b⟩
        rw [hq] at hs
        cases b
        · exact h
        · exact (unitPop_kept _ _).trans (hs.trans (hu.trans h))
    · split
      · split
        · exact drainCtx_kept _ _ _ _ _
        · rfl
      · rfl

@[simp] theorem barrierRelease_kept (c : Nat) (s : State) : (barrierRelease c s).kept = s.kept := by
  unfold barrierRelease
  repeat' first
    | (simp [State.kept_ite]; done)
    | (refine (foldl_kept _ (fun _ _ => ?_) _ _).trans ?_)
    | split
    | intro _
    | simp [State.kept_ite]

@[simp] theorem contribTaken_kept (port : Nat) (t : CollTag) (s : State) : (contribTaken port t s).kept = s.kept := by
  unfold contribTaken
  repeat' first
    | (simp [State.kept_ite]; done)
    | (refine (foldl_kept _ (fun _ _ => ?_) _ _).trans ?_)
    | split

@[simp] theorem contribBad_kept (place : FaultPlace) (t : CollTag) (s : State) : (contribBad place t s).kept = s.kept := by
  unfold contribBad
  repeat' first
    | (simp [State.kept_ite]; done)
    | (refine (foldl_kept _ (fun _ _ => ?_) _ _).trans ?_)
    | split

@[simp] theorem collCheck_kept (q : Nat) (p : Packet) (s : State) : (collCheck q p s).1.kept = s.kept := by
  unfold collCheck
  repeat' first
    | (simp [State.kept_ite]; done)
    | (refine (foldl_kept _ (fun _ _ => ?_) _ _).trans ?_)
    | split
    | intro _
    | simp [State.kept_ite]

@[simp] theorem stompCount_kept (q : Nat) (p : Packet) (code : Nat) (s : State) : (stompCount q p code s).kept = s.kept := by
  unfold stompCount
  repeat' first
    | (simp [State.kept_ite]; done)
    | (refine (foldl_kept _ (fun _ _ => ?_) _ _).trans ?_)
    | split

@[simp] theorem stompDrop_kept (q : Nat) (p : Packet) (code : Nat) (s : State) : (stompDrop q p code s).kept = s.kept := by
  unfold stompDrop
  repeat' first
    | (simp [State.kept_ite]; done)
    | (refine (foldl_kept _ (fun _ _ => ?_) _ _).trans ?_)
    | split

@[simp] theorem stompArrive_kept (q : Nat) (p : Packet) (code : Nat) (s : State) : (stompArrive q p code s).kept = s.kept := by simp [stompArrive, State.kept_ite]

@[simp] theorem stompPkt_kept (q : Nat) (p : Packet) (code : Nat) (s : State) : (stompPkt q p code s).kept = s.kept := by
  unfold stompPkt
  repeat' first
    | (simp [State.kept_ite]; done)
    | (refine (foldl_kept _ (fun _ _ => ?_) _ _).trans ?_)
    | split
    | intro _
    | simp [State.kept_ite]

@[simp] theorem badArrival_kept (q : Nat) (s : State) : (badArrival q s).kept = s.kept := by
  unfold badArrival
  repeat' first
    | (simp [State.kept_ite]; done)
    | (refine (foldl_kept _ (fun _ _ => ?_) _ _).trans ?_)
    | split

@[simp] theorem enter_kept (q : Nat) (p : Packet) (s : State) : (enter q p s).1.kept = s.kept := by
  rw [enter.eq_def]
  have h := collCheck_kept q p s
  rcases hc : collCheck q p s with ⟨t, b⟩
  rw [hc] at h
  cases b
  · exact h
  · dsimp only
    have h1 : (if (quad t q).use = 7 then police (quad t q).port p t else (t, p)).1.kept = s.kept := by
      split
      · exact (police_kept _ _ _).trans h
      · exact h
    rcases hp : (if (quad t q).use = 7 then police (quad t q).port p t else (t, p)) with ⟨t1, m⟩
    rw [hp] at h1
    dsimp only
    split
    · exact h1
    · have h2 := lookup_kept q m t1
      rcases hl : lookup q m t1 with ⟨u, o⟩
      rw [hl] at h2
      cases o with
      | none =>
        dsimp only
        rw [mirrored_kept]
        exact h2.trans h1
      | some ov =>
        dsimp only
        split
        · exact (copyAdmit_kept _ _ _ _).trans (h2.trans h1)
        · have h3 := mirrored_kept [portNum u q] (portList ov.1) m u
          rcases hm : mirrored [portNum u q] (portList ov.1) m u with ⟨w, m'⟩
          rw [hm] at h3
          exact (modSwc_kept _ _).trans (h3.trans (h2.trans h1))

@[simp] theorem arrive_kept (q : Nat) (p0 : Packet) (s : State) : (arrive q p0 s).kept = s.kept := by
  rw [arrive.eq_def]
  extract_lets p1
  generalize hn : ({ p1 with stomp := if 5 ≤ p1.stomp then 2 else p1.stomp } : Packet) = p2
  have h0 := (numbered_kept p2 (modQuad q (fun v => { v with arrivedPkts := v.arrivedPkts.erase p1 }) s)).trans (modQuad_kept _ _ s)
  rcases hx : numbered p2 (modQuad q (fun v => { v with arrivedPkts := v.arrivedPkts.erase p1 }) s) with ⟨s0, p⟩
  rw [hx] at h0
  dsimp only at h0 ⊢
  split
  · exact (returnCredit_kept _ _ _ _).trans ((badArrival_kept _ _).trans h0)
  · split
    · exact (returnCredit_kept _ _ _ _).trans h0
    · split
      · exact (returnCredit_kept _ _ _ _).trans ((badArrival_kept _ _).trans h0)
      · split
        · exact (returnCredit_kept _ _ _ _).trans ((stompArrive_kept _ _ _ _).trans ((modCtr_kept _ _ _ _).trans h0))
        · have h1 := (enter_kept q p (modCtr (portNum s0 q) p.cls (fun c => { c with
            rxPkt := (c.rxPkt + 1) % 2 ^ 64, rxByte := (c.rxByte + pktLen p) % 2 ^ 64 }) s0)).trans (modCtr_kept _ _ _ _)
          rcases hy : enter q p (modCtr (portNum s0 q) p.cls (fun c => { c with
            rxPkt := (c.rxPkt + 1) % 2 ^ 64, rxByte := (c.rxByte + pktLen p) % 2 ^ 64 }) s0) with ⟨t, b⟩
          rw [hy] at h1
          cases b
          · exact (returnCredit_kept _ _ _ _).trans (h1.trans h0)
          · exact h1.trans h0

@[simp] theorem leave_kept (q : Nat) (port : Nat) (st : Nat) (h : Held) (s : State) : (leave q port st h s).kept = s.kept := by simp [leave, State.kept_ite]

@[simp] theorem heldBack_kept (port : Nat) (hs : List Held) (s : State) : (heldBack port hs s).kept = s.kept := by
  unfold heldBack
  repeat' first
    | (simp [State.kept_ite]; done)
    | (refine (foldl_kept _ (fun _ _ => ?_) _ _).trans ?_)
    | split

@[simp] theorem forward_kept (q : Nat) (st : Nat) (s : State) : (forward q st s).kept = s.kept := by
  unfold forward
  repeat' first
    | (simp [State.kept_ite]; done)
    | (refine (foldl_kept _ (fun _ _ => ?_) _ _).trans ?_)
    | split
    | intro _
    | simp [State.kept_ite]

@[simp] theorem cellLeft_kept (q : Nat) (st : Nat) (eop : Bool) (s : State) : (cellLeft q st eop s).kept = s.kept := by
  unfold cellLeft
  repeat' first
    | (simp [State.kept_ite]; done)
    | (refine (foldl_kept _ (fun _ _ => ?_) _ _).trans ?_)
    | split

@[simp] theorem stompHeld_kept (h : Held) (code : Nat) (seg : Nat) (s : State) : (stompHeld h code seg s).kept = s.kept := by simp [stompHeld, State.kept_ite]

@[simp] theorem stompCmd_kept (port : Nat) (cls : Nat) (vc : Nat) (code : Nat) (seg : Nat) (s : State) : (stompCmd port cls vc code seg s).kept = s.kept := by
  unfold stompCmd
  repeat' first
    | (simp [State.kept_ite]; done)
    | (refine (foldl_kept _ (fun _ _ => ?_) _ _).trans ?_)
    | split

@[simp] theorem moveBack_kept (port : Nat) (cls : Nat) (vc : Nat) (s : State) : (moveBack port cls vc s).kept = s.kept := by
  unfold moveBack
  repeat' first
    | (simp [State.kept_ite]; done)
    | (refine (foldl_kept _ (fun _ _ => ?_) _ _).trans ?_)
    | split

@[simp] theorem stallCmd_kept (port : Nat) (cls : Nat) (vc : Nat) (s : State) : (stallCmd port cls vc s).kept = s.kept := by
  unfold stallCmd
  repeat' first
    | (simp [State.kept_ite]; done)
    | (refine (foldl_kept _ (fun _ _ => ?_) _ _).trans ?_)
    | split
    | intro _
    | simp [State.kept_ite]

@[simp] theorem rspTimeout_kept (port : Nat) (s : State) : (rspTimeout port s).kept = s.kept := by simp [rspTimeout, State.kept_ite]

@[simp] theorem mirCfgWrite_kept (i : Nat) (w : Nat) (s : State) : (mirCfgWrite i w s).kept = s.kept := by simp [mirCfgWrite, State.kept_ite]

@[simp] theorem clearHigh_kept (s : State) : (clearHigh s).kept = s.kept := by simp [clearHigh, State.kept_ite]

@[simp] theorem clearCounters_kept (s : State) : (clearCounters s).kept = s.kept := by simp [clearCounters, State.kept_ite]

@[simp] theorem stallHead_kept (n : Nat) (code : Nat) (s : State) : (stallHead n code s).kept = s.kept := by simp [stallHead, State.kept_ite]

@[simp] theorem issued_kept (n : Nat) (s : State) : (issued n s).kept = s.kept := by simp [issued, State.kept_ite]

@[simp] theorem headErr_kept (n : Nat) (code : Nat) (s : State) : (headErr n code s).kept = s.kept := by simp [headErr, State.kept_ite]

@[simp] theorem onHead_kept (opc : Nat) (n : Nat) (f : Nat → State → State) (s : State) (h_f : ∀ x0 x1, (f x0 x1).kept = x1.kept) : (onHead opc n f s).kept = s.kept := by simp [onHead, State.kept_ite, h_f]

@[simp] theorem countWait_kept (v : Newt) (pg : Nat) (s : State) : (countWait v pg s).kept = s.kept := by simp [countWait, State.kept_ite]

@[simp] theorem sigPump_kept (fuel n : Nat) (s : State) : (sigPump fuel n s).kept = s.kept := by
  induction fuel generalizing s with
  | zero => rfl
  | succ fuel ih =>
    unfold sigPump
    dsimp only
    split
    · rfl
    · split
      · rfl
      · split <;> simp [ih]

@[simp] theorem nopHead_kept (n : Nat) (s : State) : (nopHead n s).kept = s.kept := by simp [nopHead, State.kept_ite]

@[simp] theorem endHead_kept (n : Nat) (w : Nat) (s : State) : (endHead n w s).kept = s.kept := by simp [endHead, State.kept_ite]

@[simp] theorem loopHead_kept (n : Nat) (w : Nat) (s : State) : (loopHead n w s).kept = s.kept := by simp [loopHead, State.kept_ite]

@[simp] theorem cmtHead_kept (n : Nat) (w : Nat) (s : State) : (cmtHead n w s).kept = s.kept := by
  unfold cmtHead
  repeat' first
    | (simp [State.kept_ite]; done)
    | (refine (foldl_kept _ (fun _ _ => ?_) _ _).trans ?_)
    | split
    | intro _
    | simp [State.kept_ite]

@[simp] theorem tbndHead_kept (n : Nat) (w : Nat) (s : State) : (tbndHead n w s).kept = s.kept := by simp [tbndHead, State.kept_ite]

@[simp] theorem wlandHead_kept (n : Nat) (w : Nat) (s : State) : (wlandHead n w s).kept = s.kept := by simp [wlandHead, State.kept_ite]

@[simp] theorem objWait_kept (n : Nat) (w : Nat) (reg : State → State × Option Nat) (s : State) (h_reg : ∀ x0, (reg x0).1.kept = x0.kept) : (objWait n w reg s).kept = s.kept := by
  unfold objWait
  repeat' first
    | (simp [State.kept_ite, h_reg]; done)
    | (refine (foldl_kept _ (fun _ _ => ?_) _ _).trans ?_)
    | split
    | intro _
    | simp [State.kept_ite, h_reg]

@[simp] theorem wsoHead_kept (n : Nat) (w : Nat) (s : State) : (wsoHead n w s).kept = s.kept := by simp [wsoHead, State.kept_ite]

@[simp] theorem barrIssued_kept (n : Nat) (s : State) : (barrIssued n s).kept = s.kept := by
  unfold barrIssued
  repeat' first
    | (simp [State.kept_ite]; done)
    | (refine (foldl_kept _ (fun _ _ => ?_) _ _).trans ?_)
    | split

@[simp] theorem barrHead_kept (n : Nat) (w : Nat) (s : State) : (barrHead n w s).kept = s.kept := by simp [barrHead, State.kept_ite]

@[simp] theorem sigHead_kept (n : Nat) (w : Nat) (s : State) : (sigHead n w s).kept = s.kept := by simp [sigHead, State.kept_ite]

@[simp] theorem issueWork_kept (n : Nat) (w : Nat) (ob : Nat) (k : Work) (packets : List Packet) (s : State) : (issueWork n w ob k packets s).kept = s.kept := by simp [issueWork, State.kept_ite]

@[simp] theorem workHead_kept (n : Nat) (w : Nat) (f : State → Newt → Nat → Nat → Except Nat Work) (pk : State → Newt → Nat → State × List Packet) (s : State) (h_pk : ∀ x0 x1 x2, (pk x0 x1 x2).1.kept = x0.kept) : (workHead n w f pk s).kept = s.kept := by
  unfold workHead
  repeat' first
    | (simp [State.kept_ite, h_pk]; done)
    | (refine (foldl_kept _ (fun _ _ => ?_) _ _).trans ?_)
    | split
    | intro _
    | simp [State.kept_ite, h_pk]

@[simp] theorem sendPackets_kept (n : Nat) (s : State) (v : Newt) (ob : Nat) : (sendPackets n s v ob).1.kept = s.kept := by simp [sendPackets, State.kept_ite]

@[simp] theorem sendLeave_kept (n : Nat) (i : Inflight) (s : State) : (sendLeave n i s).kept = s.kept := by
  unfold sendLeave
  repeat' first
    | (simp [State.kept_ite]; done)
    | (refine (foldl_kept _ (fun _ _ => ?_) _ _).trans ?_)
    | split

@[simp] theorem wclrHead_kept (n : Nat) (w : Nat) (s : State) : (wclrHead n w s).kept = s.kept := by simp [wclrHead, State.kept_ite]

@[simp] theorem saveHead_kept (n : Nat) (w : Nat) (k : Newt → Work) (s : State) : (saveHead n w k s).kept = s.kept := by simp [saveHead, State.kept_ite]

@[simp] theorem escForget_kept (n : Nat) (hdr : Nat) (s : State) : (escForget n hdr s).kept = s.kept := by
  unfold escForget
  repeat' first
    | (simp [State.kept_ite]; done)
    | (refine (foldl_kept _ (fun _ _ => ?_) _ _).trans ?_)
    | split

@[simp] theorem escCopy_kept (n : Nat) (src : Nat) (len : Nat) (dst : Nat) (s : State) : (escCopy n src len dst s).kept = s.kept := by
  unfold escCopy
  repeat' first
    | (simp [State.kept_ite]; done)
    | (refine (foldl_kept _ (fun _ _ => ?_) _ _).trans ?_)
    | split

@[simp] theorem escErr_kept (n : Nat) (pc : Nat) (ob : Nat) (e : EscapeRec) (s : State) : (escErr n pc ob e s).kept = s.kept := by
  unfold escErr
  repeat' first
    | (simp [State.kept_ite]; done)
    | (refine (foldl_kept _ (fun _ _ => ?_) _ _).trans ?_)
    | split

@[simp] theorem escStore_kept (n : Nat) (pc : Nat) (ob : Nat) (e : EscapeRec) (hdrs : List Nat) (s : State) : (escStore n pc ob e hdrs s).kept = s.kept := by
  unfold escStore
  repeat' first
    | (simp [State.kept_ite]; done)
    | split
    | ((repeat (rename_i heq; first | (have ht := congrArg Prod.fst heq; dsimp only at ht; subst ht; clear heq) | clear heq | revert heq)); intros; simp [State.kept_ite]; done)

@[simp] theorem escLand_kept (n : Nat) (e : EscapeRec) (s : State) : (escLand n e s).kept = s.kept := by
  unfold escLand
  repeat' first
    | (simp [State.kept_ite]; done)
    | (refine (foldl_kept _ (fun _ _ => ?_) _ _).trans ?_)
    | split

@[simp] theorem escDrop_kept (n : Nat) (ds : List (Nat × Nat × Nat × Nat)) (s : State) : (escDrop n ds s).kept = s.kept := by
  unfold escDrop
  repeat' first
    | (simp [State.kept_ite]; done)
    | (refine (foldl_kept _ (fun _ _ => ?_) _ _).trans ?_)
    | split
    | intro _
    | simp [State.kept_ite]

@[simp] theorem complete_kept (n : Nat) (pc : Nat) (s : State) : (complete n pc s).kept = s.kept := by
  unfold complete
  repeat' first
    | (simp [State.kept_ite]; done)
    | (refine (foldl_kept _ (fun _ _ => ?_) _ _).trans ?_)
    | split
    | intro _
    | simp [State.kept_ite]

@[simp] theorem pauseNewt_kept (n : Nat) (s : State) : (pauseNewt n s).kept = s.kept := by simp [pauseNewt, State.kept_ite]

@[simp] theorem landTimeout_kept (n : Nat) (s : State) : (landTimeout n s).kept = s.kept := by simp [landTimeout, State.kept_ite]

@[simp] theorem routeNext_kept (route : Nat) (s : State) : (routeNext route s).1.kept = s.kept := by simp [routeNext, State.kept_ite]

@[simp] theorem schedEnter_kept (ins outs : List Nat) (p : Packet) (len : Nat) (b : List Byte) (s : State) :
    (schedEnter ins outs p len b s).1.kept = s.kept := by
  rw [schedEnter.eq_def]
  extract_lets k
  have h := (mirrored_kept ins outs { schedStart p len b with sid := k }
    (modSwc (fun w => { w with nextId := w.nextId + schedIds }) s)).trans (modSwc_kept _ s)
  rcases hx : mirrored ins outs { schedStart p len b with sid := k } (modSwc (fun w => { w with nextId := w.nextId + schedIds }) s) with ⟨t, m⟩
  rw [hx] at h
  exact h

@[simp] theorem schedLeaves_kept (q : Nat) (c : SCell) (s : State) : (schedLeaves q c s).kept = s.kept := by
  unfold schedLeaves
  repeat' first
    | (simp [State.kept_ite]; done)
    | (refine (foldl_kept _ (fun _ _ => ?_) _ _).trans ?_)
    | split

@[simp] theorem rxTake_kept (n : Nat) (r : Nat) (last : Bool) (code : Nat) (c : LandCell) (s : State) : (rxTake n r last code c s).kept = s.kept := by
  unfold rxTake
  repeat' first
    | (simp [State.kept_ite]; done)
    | (refine (foldl_kept _ (fun _ _ => ?_) _ _).trans ?_)
    | split

@[simp] theorem rxFlush_kept (n : Nat) (r : Nat) (good : Bool) (s : State) : (rxFlush n r good s).kept = s.kept := by
  unfold rxFlush
  repeat' first
    | (simp [State.kept_ite]; done)
    | (refine (foldl_kept _ (fun _ _ => ?_) _ _).trans ?_)
    | split

@[simp] theorem rxFlushAll_kept (recs : List (Nat × List Byte)) (good : Bool) (s : State) : (rxFlushAll recs good s).kept = s.kept := by
  unfold rxFlushAll
  repeat' first
    | (simp [State.kept_ite]; done)
    | (refine (foldl_kept _ (fun _ _ => ?_) _ _).trans ?_)
    | split

@[simp] theorem schedStomp_kept (q : Nat) (route : Nat) (wait : Nat) (recs : List (Nat × List Byte)) (p : Packet) (len : Nat) (pos : Nat) (code : Nat) (b : List Byte) (s : State) : (schedStomp q route wait recs p len pos code b s).kept = s.kept := by
  unfold schedStomp
  repeat' first
    | (simp [State.kept_ite]; done)
    | (refine (foldl_kept _ (fun _ _ => ?_) _ _).trans ?_)
    | split

@[simp] theorem schedCut_kept (q : Nat) (s : State) : (schedCut q s).kept = s.kept := by
  unfold schedCut
  repeat' first
    | (simp [State.kept_ite]; done)
    | (refine (foldl_kept _ (fun _ _ => ?_) _ _).trans ?_)
    | split

@[simp] theorem linkLocal_kept (q : Nat) (mtype : Nat) (payload : List Byte) (s : State) : (linkLocal q mtype payload s).kept = s.kept := by simp [linkLocal, State.kept_ite]

@[simp] theorem sendIdent_kept (q : Nat) (s : State) : (sendIdent q s).kept = s.kept := by simp [sendIdent, State.kept_ite]

@[simp] theorem endpointUp_kept (port : Nat) (s : State) : (endpointUp port s).kept = s.kept := by simp [endpointUp, State.kept_ite]

@[simp] theorem freeFlows_kept (f : Nat × Nat × Nat × Nat × Nat × Nat → Bool) (s : State) : (freeFlows f s).kept = s.kept := by simp [freeFlows, State.kept_ite]

@[simp] theorem departed_kept (addr : Nat) (s : State) : (departed addr s).kept = s.kept := by simp [departed, State.kept_ite]

@[simp] theorem dropQueue_kept (port : Nat) (s : State) : (dropQueue port s).kept = s.kept :=
  (ovfTrim_kept _ _).trans ((modSwc_kept _ _).trans (foldl_kept _ (fun t _ => discard_kept 7 t) _ _))

@[simp] theorem endpointDown_kept (port : Nat) (s : State) : (endpointDown port s).kept = s.kept := by
  unfold endpointDown
  repeat' first
    | (simp [State.kept_ite]; done)
    | (refine (foldl_kept _ (fun _ _ => ?_) _ _).trans ?_)
    | split

@[simp] theorem torusDown_kept (q : Nat) (d : Nat) (s : State) : (torusDown q d s).kept = s.kept := by
  unfold torusDown
  repeat' first
    | (simp [State.kept_ite]; done)
    | (refine (foldl_kept _ (fun _ _ => ?_) _ _).trans ?_)
    | split
    | intro _
    | simp [State.kept_ite]

@[simp] theorem linkDownErr_kept (port : Nat) (s : State) : (linkDownErr port s).kept = s.kept := by
  unfold linkDownErr
  repeat' first
    | (simp [State.kept_ite]; done)
    | (refine (foldl_kept _ (fun _ _ => ?_) _ _).trans ?_)
    | split

@[simp] theorem declareDown_kept (q : Nat) (s : State) : (declareDown q s).kept = s.kept := by
  unfold declareDown
  repeat' first
    | (simp [State.kept_ite]; done)
    | (refine (foldl_kept _ (fun _ _ => ?_) _ _).trans ?_)
    | split
    | intro _
    | simp [State.kept_ite]

@[simp] theorem sendBack_kept (port : Nat) (vc : Nat) (p : Packet) (s : State) : (sendBack port vc p s).kept = s.kept := by
  unfold sendBack
  repeat' first
    | (simp [State.kept_ite]; done)
    | split
    | ((repeat (rename_i heq; first | (have ht := congrArg Prod.fst heq; dsimp only at ht; subst ht; clear heq) | clear heq | revert heq)); intros; simp [State.kept_ite]; done)

@[simp] theorem recoverPacket_kept (q : Nat) (p : Packet) (s : State) : (recoverPacket q p s).kept = s.kept := by simp [recoverPacket, State.kept_ite]

@[simp] theorem recoverHeld_kept (q : Nat) (p : Packet) (s : State) : (recoverHeld q p s).kept = s.kept := by
  unfold recoverHeld
  repeat' first
    | (simp [State.kept_ite]; done)
    | (refine (foldl_kept _ (fun _ _ => ?_) _ _).trans ?_)
    | split

@[simp] theorem cutOpen_kept (q : Nat) (code : Nat) (o : OpenPkt) (s : State) : (cutOpen q code o s).kept = s.kept := by
  unfold cutOpen
  repeat' first
    | (simp [State.kept_ite]; done)
    | (refine (foldl_kept _ (fun _ _ => ?_) _ _).trans ?_)
    | split

@[simp] theorem lastArrivals_kept (q : Nat) (f : Packet → Bool) (s : State) : (lastArrivals q f s).kept = s.kept := by
  unfold lastArrivals
  repeat' first
    | (simp [State.kept_ite]; done)
    | (refine (foldl_kept _ (fun _ _ => ?_) _ _).trans ?_)
    | split

@[simp] theorem portUnseen_kept (q : Nat) (s : State) : (portUnseen q s).kept = s.kept := by
  unfold portUnseen
  repeat' first
    | (simp [State.kept_ite]; done)
    | (refine (foldl_kept _ (fun _ _ => ?_) _ _).trans ?_)
    | split

@[simp] theorem routeAgain_kept (d : Nat) (p : Packet) (s : State) : (routeAgain d p s).kept = s.kept := by
  unfold routeAgain
  split <;> simp [State.kept_ite]

@[simp] theorem waitAgain_kept (w : Waiting) (s : State) : (waitAgain w s).kept = s.kept := by
  unfold waitAgain
  split <;> simp [State.kept_ite]

@[simp] theorem dirLost_kept (d : Nat) (s : State) : (dirLost d s).kept = s.kept := by
  unfold dirLost
  repeat' first
    | (simp [State.kept_ite]; done)
    | (refine (foldl_kept _ (fun _ _ => ?_) _ _).trans ?_)
    | split

@[simp] theorem dirCheck_kept (q : Nat) (s : State) : (dirCheck q s).kept = s.kept := by simp [dirCheck, State.kept_ite]

@[simp] theorem quadDown_kept (q : Nat) (s : State) : (quadDown q s).kept = s.kept := by
  rw [quadDown.eq_def]
  extract_lets s0 v out s1 s2 s3 s4 s5
  have h2 : s2.kept = s.kept := (modSwc_kept _ _).trans ((setQuad_kept _ _ _).trans (lastArrivals_kept _ _ _))
  have h3 : s3.kept = s.kept := (foldl_kept _ (fun t p => recoverPacket_kept q p t) _ _).trans h2
  have h4 : s4.kept = s.kept := (foldl_kept _ (fun t p => recoverHeld_kept q p t) _ _).trans h3
  have h5 : s5.kept = s.kept := (dirCheck_kept _ _).trans h4
  split
  · exact (declareDown_kept _ _).trans h5
  · exact (portUnseen_kept _ _).trans h5

@[simp] theorem leaveUp_kept (q : Nat) (st : QState) (s : State) : (leaveUp q st s).kept = s.kept := by
  rw [leaveUp.eq_def]
  extract_lets ends s0 out sent s1 s2 s3
  have h2 : s2.kept = s.kept := (modSwc_kept _ _).trans ((modQuad_kept _ _ _).trans (lastArrivals_kept _ _ _))
  have h3 : s3.kept = s.kept := (foldl_kept _ (fun t p => recoverHeld_kept q p t) _ _).trans
    ((foldl_kept _ (fun t p => recoverPacket_kept q p t) _ _).trans h2)
  exact (declareDown_kept _ _).trans ((dirCheck_kept _ _).trans h3)

@[simp] theorem epRecord_kept (q : Nat) (r : IdentRec) (st : QState) (s : State) : (epRecord q r st s).kept = s.kept := by simp [epRecord, State.kept_ite]

@[simp] theorem identAgain_kept (q : Nat) (r : IdentRec) (s : State) : (identAgain q r s).kept = s.kept := by
  unfold identAgain
  repeat' first
    | (simp [State.kept_ite]; done)
    | (refine (foldl_kept _ (fun _ _ => ?_) _ _).trans ?_)
    | split

@[simp] theorem identity_kept (q : Nat) (r : IdentRec) (s : State) : (identity q r s).kept = s.kept := by simp [identity, State.kept_ite]

@[simp] theorem allLinksDown_kept (s : State) : (allLinksDown s).kept = s.kept := by
  unfold allLinksDown
  repeat' first
    | (simp [State.kept_ite]; done)
    | (refine (foldl_kept _ (fun _ _ => ?_) _ _).trans ?_)
    | split

@[simp] theorem collLost_kept (c : Nat) (chip : Nat) (s : State) : (collLost c chip s).kept = s.kept := by
  unfold collLost
  repeat' first
    | (simp [State.kept_ite]; done)
    | (refine (foldl_kept _ (fun _ _ => ?_) _ _).trans ?_)
    | split
    | intro _
    | simp [State.kept_ite]

@[simp] theorem modDrain_kept (f : DrainSt → DrainSt) (s : State) : (modDrain f s).kept = s.kept := by simp [modDrain, State.kept_ite]

@[simp] theorem swapRoute_kept (s : State) : (swapRoute s).kept = s.kept := by simp [swapRoute, State.kept_ite]

@[simp] theorem liftDrain_kept (s : State) : (liftDrain s).kept = s.kept := by
  unfold liftDrain
  repeat' first
    | (simp [State.kept_ite]; done)
    | (refine (foldl_kept _ (fun _ _ => ?_) _ _).trans ?_)
    | split

@[simp] theorem releaseCheck_kept (s : State) : (releaseCheck s).kept = s.kept := by
  rw [releaseCheck.eq_def]
  split
  · exact (liftDrain_kept _).trans (foldl_kept _ (fun t c => mgmt_kept _ _ _ t) _ _)
  · rfl

@[simp] theorem releaseTake_kept (chip : Nat) (s : State) : (releaseTake chip s).kept = s.kept := by
  unfold releaseTake
  repeat' first
    | (simp [State.kept_ite]; done)
    | (refine (foldl_kept _ (fun _ _ => ?_) _ _).trans ?_)
    | split

@[simp] theorem drainRelease_kept (s : State) : (drainRelease s).kept = s.kept := by simp [drainRelease, State.kept_ite]

@[simp] theorem setDrained_kept (s : State) : (setDrained s).kept = s.kept := by
  unfold setDrained
  repeat' first
    | (simp [State.kept_ite]; done)
    | (refine (foldl_kept _ (fun _ _ => ?_) _ _).trans ?_)
    | split
    | intro _
    | simp [State.kept_ite]

@[simp] theorem roundCheck_kept (s : State) : (roundCheck s).kept = s.kept := by
  unfold roundCheck
  repeat' first
    | (simp [State.kept_ite]; done)
    | (refine (foldl_kept _ (fun _ _ => ?_) _ _).trans ?_)
    | split
    | intro _
    | simp [State.kept_ite]

@[simp] theorem reportTake_kept (r : DrainRep) (s : State) : (reportTake r s).kept = s.kept := by simp [reportTake, State.kept_ite]

@[simp] theorem drainStart_kept (classes : Nat) (scope : Nat) (id : Nat) (fw : Bool) (s : State) : (drainStart classes scope id fw s).kept = s.kept := by simp [drainStart, State.kept_ite]

theorem chipsLeft_kept (g : Nat × Coll → Nat × Coll) (s : State) : State.kept { s with colls := s.colls.map g } = s.kept := rfl

@[simp] theorem chipLoss_kept (chip : Nat) (detector : Bool) (s : State) : (chipLoss chip detector s).kept = s.kept := by
  rw [chipLoss.eq_def]
  split
  · rfl
  · extract_lets place s1 s2 s3 s4 s5 s6 s7
    have h2 : s2.kept = s.kept := (freeFlows_kept _ _).trans (modRte_kept _ _)
    have h3 : s3.kept = s.kept := (foldl_kept _ (fun t c => collLost_kept c chip t) _ _).trans h2
    have h4 : s4.kept = s.kept := by
      show (if inSpan s3 chip then jobStop (if detector then 0x0607 else 0x0A09) place s3 else s3).kept = s.kept
      split
      · exact (jobStop_kept _ _ _).trans h3
      · exact h3
    have h5 : s5.kept = s.kept := (abortMany_kept _ _ _ _).trans h4
    have h6 : s6.kept = s.kept := (chipsLeft_kept _ s5).trans h5
    have h7 : s7.kept = s.kept := (modDrain_kept _ _).trans h6
    split
    · exact h7
    · refine (roundCheck_kept _).trans ?_
      split
      · exact h7
      · exact (releaseCheck_kept _).trans h7

@[simp] theorem chipLostDetect_kept (chip : Nat) (s : State) : (chipLostDetect chip s).kept = s.kept := by
  unfold chipLostDetect
  repeat' first
    | (simp [State.kept_ite]; done)
    | (refine (foldl_kept _ (fun _ _ => ?_) _ _).trans ?_)
    | split
    | intro _
    | simp [State.kept_ite]

@[simp] theorem abandonColl_kept (p : Packet) (s : State) : (abandonColl p s).kept = s.kept := by
  unfold abandonColl
  split <;> simp [State.kept_ite]

@[simp] theorem flowAck_kept (a : FlowAck) (s : State) : (flowAck a s).kept = s.kept := by
  unfold flowAck
  repeat' first
    | (simp [State.kept_ite]; done)
    | (refine (foldl_kept _ (fun _ _ => ?_) _ _).trans ?_)
    | split
    | intro _
    | simp [State.kept_ite]

@[simp] theorem resend_kept (k : Nat × Nat × Nat × Nat × Nat × Nat) (s : State) : (resend k s).kept = s.kept := by
  unfold resend
  repeat' first
    | (simp [State.kept_ite]; done)
    | (refine (foldl_kept _ (fun _ _ => ?_) _ _).trans ?_)
    | split

@[simp] theorem setStandby_kept (i : Nat) (e : Nat) (s : State) : (setStandby i e s).kept = s.kept := by simp [setStandby, State.kept_ite]

@[simp] theorem bankWrite_kept (w : Nat) (v : Nat) (s : State) : (bankWrite w v s).kept = s.kept := by
  unfold bankWrite
  repeat' first
    | (simp [State.kept_ite]; done)
    | (refine (foldl_kept _ (fun _ _ => ?_) _ _).trans ?_)
    | split

@[simp] theorem reroute_kept (links : List (Nat × Nat)) (chips : List Nat) (s : State) : (reroute links chips s).kept = s.kept := by
  unfold reroute
  repeat' first
    | (simp [State.kept_ite]; done)
    | (refine (foldl_kept _ (fun _ _ => ?_) _ _).trans ?_)
    | split

@[simp] theorem taskEnd_kept (j : Nat) (s : State) : (taskEnd j s).kept = s.kept := by
  unfold taskEnd
  repeat' first
    | (simp [State.kept_ite]; done)
    | (refine (foldl_kept _ (fun _ _ => ?_) _ _).trans ?_)
    | split

@[simp] theorem jobEnd_kept (j : Nat) (s : State) : (jobEnd j s).kept = s.kept := by simp [jobEnd, State.kept_ite]

@[simp] theorem linkErr_kept (code : Nat) (q : Nat) (lane : Nat) (padnum : Nat) (slot : Nat) (s : State) : (linkErr code q lane padnum slot s).kept = s.kept := by simp [linkErr, State.kept_ite]

@[simp] theorem trainStart_kept (q : Nat) (s : State) : (trainStart q s).kept = s.kept := by simp [trainStart, State.kept_ite]

@[simp] theorem linkFail_kept (code : Nat) (q : Nat) (lane : Nat) (s : State) : (linkFail code q lane s).kept = s.kept := by simp [linkFail, State.kept_ite]

@[simp] theorem tapPacket_kept (port : Nat) (p : Packet) (s : State) : (tapPacket port p s).kept = s.kept := by
  unfold tapPacket
  split <;> simp [State.kept_ite]

@[simp] theorem noteSent_kept (q : Nat) (own : Nat) (p : Packet) (bytes : Nat) (s : State) : (noteSent q own p bytes s).kept = s.kept := by
  unfold noteSent
  repeat' first
    | (simp [State.kept_ite]; done)
    | (refine (foldl_kept _ (fun _ _ => ?_) _ _).trans ?_)
    | split

@[simp] theorem cellSent_kept (q : Nat) (st : Nat) (own : Nat) (eop : Bool) (s : State) : (cellSent q st own eop s).kept = s.kept := by
  unfold cellSent
  repeat' first
    | (simp [State.kept_ite]; done)
    | (refine (foldl_kept _ (fun _ _ => ?_) _ _).trans ?_)
    | split
    | intro _
    | simp [State.kept_ite]

theorem txKeep_kept (q own : Nat) (b : List Byte) (o : Bool) (f : TxFrame) : (txKeep q own b o f).s.kept = f.s.kept :=
  modQuad_kept _ _ _

@[simp] theorem schedSent_kept (s : State) (q : Nat) (own : Nat) (c : SCell) : (schedSent s q own c).kept = s.kept := by
  unfold schedSent
  repeat' first
    | (simp [State.kept_ite]; done)
    | (refine (foldl_kept _ (fun _ _ => ?_) _ _).trans ?_)
    | split

theorem txSlotFill_kept (q : Nat) (ctrl res : List Nat) (f : TxFrame) (i : Nat) :
    (txSlotFill q ctrl res f i).s.kept = f.s.kept := by
  rw [txSlotFill.eq_def]
  dsimp only
  split
  · exact txKeep_kept _ _ _ _ _
  · split
    · split
      · rfl
      · exact (txKeep_kept _ _ _ _ _).trans (schedSent_kept _ _ _ _)
    · split
      · exact txKeep_kept _ _ _ _ _
      · split
        · exact setQuad_kept _ _ _
        · split
          · rfl
          · split
            · exact setQuad_kept _ _ _
            · split
              · exact (txKeep_kept _ _ _ _ _).trans ((cellSent_kept _ _ _ _ _).trans (setQuad_kept _ _ _))
              · exact (txKeep_kept _ _ _ _ _).trans (setQuad_kept _ _ _)

theorem txSlots_kept (q : Nat) (a : List Nat) (r : List Nat) (l : List Nat) (x : TxFrame) :
    (l.foldl (txSlotFill q a r) x).s.kept = x.s.kept := by
  induction l generalizing x with
  | nil => rfl
  | cons i t ih =>
    rw [List.foldl_cons, ih]
    exact txSlotFill_kept q a r x i

@[simp] theorem sendPad_kept (q : Nat) (s : State) : (sendPad q s).kept = s.kept := by
  rw [sendPad.eq_def]
  extract_lets v0 pad v up res hdrs f ph cws lanes t
  have h : t.kept = s.kept := (emit_kept _ _).trans ((modQuad_kept _ _ _).trans ((txSlots_kept _ _ _ _ _).trans (setQuad_kept _ _ _)))
  split
  · exact (linkFail_kept _ _ _ _).trans h
  · exact h

@[simp] theorem sendTraining_kept (q : Nat) (s : State) : (sendTraining q s).kept = s.kept := by
  unfold sendTraining
  exact emit_kept _ _

@[simp] theorem padFrameSend_kept (q : Nat) (s : State) : (padFrameSend q s).kept = s.kept := by simp [padFrameSend, State.kept_ite]

@[simp] theorem sampleAgain_kept (s : State) : (sampleAgain s).kept = s.kept := by simp [sampleAgain, State.kept_ite]

@[simp] theorem setWant_kept (w : Nat) (s : State) : (setWant w s).kept = s.kept := by simp [setWant, State.kept_ite]

@[simp] theorem setEmerg_kept (b : Bool) (s : State) : (setEmerg b s).kept = s.kept := by simp [setEmerg, State.kept_ite]

@[simp] theorem wantRise_kept (s : State) : (wantRise s).kept = s.kept := by simp [wantRise, State.kept_ite]

@[simp] theorem wantFall_kept (s : State) : (wantFall s).kept = s.kept := by simp [wantFall, State.kept_ite]

@[simp] theorem schErr_kept (code : Nat) (kind : Nat) (unit : Nat) (pg : Nat) (want : Nat) (found : Nat) (s : State) : (schErr code kind unit pg want found s).kept = s.kept := by simp [schErr, State.kept_ite]

@[simp] theorem measuredUp_kept (q : Nat) (s : State) : (measuredUp q s).kept = s.kept := by simp [measuredUp, State.kept_ite]

@[simp] theorem measure_kept (q : Nat) (t1 : Nat) (t2 : Nat) (t3 : Nat) (t4 : Nat) (s : State) : (measure q t1 t2 t3 t4 s).kept = s.kept := by simp [measure, State.kept_ite]

@[simp] theorem driftCheck_kept (q : Nat) (tx : Nat) (rx : Nat) (s : State) : (driftCheck q tx rx s).kept = s.kept := by simp [driftCheck, State.kept_ite]

@[simp] theorem heartbeat_kept (seq : Nat) (s : State) : (heartbeat seq s).kept = s.kept := by simp [heartbeat, State.kept_ite]

@[simp] theorem lineFault_kept (q : Nat) (s : State) : (lineFault q s).kept = s.kept := by simp [lineFault, State.kept_ite]

@[simp] theorem takeCall_kept (q : Nat) (b : Nat) (s : State) : (takeCall q b s).kept = s.kept := by simp [takeCall, State.kept_ite]

@[simp] theorem takeExt_kept (q : Nat) (b : Nat) (s : State) : (takeExt q b s).kept = s.kept := by simp [takeExt, State.kept_ite]

@[simp] theorem takeEpoch_kept (q : Nat) (b : Nat) (s : State) : (takeEpoch q b s).kept = s.kept := by simp [takeEpoch, State.kept_ite]

@[simp] theorem takeStop_kept (q : Nat) (b : Nat) (s : State) : (takeStop q b s).kept = s.kept := by simp [takeStop, State.kept_ite]

@[simp] theorem takeBarrier_kept (q : Nat) (b : List Byte) (s : State) : (takeBarrier q b s).kept = s.kept := by
  unfold takeBarrier
  repeat' first
    | (simp [State.kept_ite]; done)
    | (refine (foldl_kept _ (fun _ _ => ?_) _ _).trans ?_)
    | split
    | intro _
    | simp [State.kept_ite]

@[simp] theorem takeCtrl_kept (q : Nat) (rx : Nat) (b : List Byte) (s : State) : (takeCtrl q rx b s).kept = s.kept := by simp [takeCtrl, State.kept_ite]

@[simp] theorem takeSignals_kept (q : Nat) (b : List Byte) (s : State) : (takeSignals q b s).kept = s.kept := by
  unfold takeSignals
  repeat' first
    | (simp [State.kept_ite]; done)
    | (refine (foldl_kept _ (fun _ _ => ?_) _ _).trans ?_)
    | split

@[simp] theorem breakOpen_kept (q : Nat) (o : OpenPkt) (s : State) : (breakOpen q o s).kept = s.kept := by
  unfold breakOpen
  repeat' first
    | (simp [State.kept_ite]; done)
    | (refine (foldl_kept _ (fun _ _ => ?_) _ _).trans ?_)
    | split

@[simp] theorem openPacket_kept (q : Nat) (slot : Nat) (s : State) (h : Nat × Packet × Nat) : (openPacket q slot s h).kept = s.kept := by
  unfold openPacket
  repeat' first
    | (simp [State.kept_ite]; done)
    | (refine (foldl_kept _ (fun _ _ => ?_) _ _).trans ?_)
    | split
    | intro _
    | simp [State.kept_ite]

@[simp] theorem takeHeaders_kept (q : Nat) (slot : Nat) (b : List Byte) (s : State) : (takeHeaders q slot b s).kept = s.kept := by
  unfold takeHeaders
  repeat' first
    | (simp [State.kept_ite]; done)
    | (refine (foldl_kept _ (fun _ _ => ?_) _ _).trans ?_)
    | split

@[simp] theorem joinCell_kept (q : Nat) (st : Nat) (code : Nat) (last : Bool) (o : OpenPkt) (b : List Byte) (s : State) : (joinCell q st code last o b s).1.kept = s.kept := by
  unfold joinCell
  repeat' first
    | (simp [State.kept_ite]; done)
    | (refine (foldl_kept _ (fun _ _ => ?_) _ _).trans ?_)
    | split

@[simp] theorem takeCell_kept (q : Nat) (slot : Nat) (st : Nat) (code : Nat) (eop : Bool) (b : List Byte) (s : State) : (takeCell q slot st code eop b s).kept = s.kept := by
  unfold takeCell
  repeat' first
    | (simp [State.kept_ite]; done)
    | (refine (foldl_kept _ (fun _ _ => ?_) _ _).trans ?_)
    | split
    | intro _
    | simp [State.kept_ite]

@[simp] theorem schedCheck_kept (q : Nat) (recs : List (Nat × List Byte)) (p : Packet) (s : State) : (schedCheck q recs p s).1.kept = s.kept := by
  unfold schedCheck
  repeat' first
    | (simp [State.kept_ite]; done)
    | (refine (foldl_kept _ (fun _ _ => ?_) _ _).trans ?_)
    | split

@[simp] theorem schedJoin_kept (q : Nat) (recs : List (Nat × List Byte)) (p : Packet) (len : Nat) (pos : Nat) (b : List Byte) (s : State) : (schedJoin q recs p len pos b s).1.kept = s.kept := by
  unfold schedJoin
  repeat' first
    | (simp [State.kept_ite]; done)
    | (refine (foldl_kept _ (fun _ _ => ?_) _ _).trans ?_)
    | split

theorem flightsAdd_kept (l : List Flight) (s : State) :
    State.kept { s with sch := { s.sch with flights := s.sch.flights ++ l } } = s.kept := rfl

@[simp] theorem schedTake_kept (q padnum route code : Nat) (recs : List (Nat × List Byte)) (second eop : Bool) (b : List Byte)
    (p : Packet) (len pos : Nat) (s : State) : (schedTake q padnum route code recs second eop b p len pos s).kept = s.kept := by
  rw [schedTake.eq_def]
  extract_lets last code1 wait
  split
  · refine (routeNext_kept _ _).trans ((modQuad_kept _ _ _).trans ?_)
    split
    · exact discard_kept _ _
    · rfl
  · split
    · exact (schedStomp_kept _ _ _ _ _ _ _ _ _ _).trans (modQuad_kept _ _ _)
    · have h1 := routeNext_kept route s
      rcases hr : routeNext route s with ⟨s1, idx⟩
      rw [hr] at h1
      dsimp only at h1 ⊢
      have h2 := schedCheck_kept q recs (cellPacket p pos (b.take (len - 256 * pos))) s1
      rcases hk : schedCheck q recs (cellPacket p pos (b.take (len - 256 * pos))) s1 with ⟨s2, ok⟩
      rw [hk] at h2
      dsimp only at h2 ⊢
      have h3 : (if ok = true then schedJoin q recs p len pos b s2 else (s2, p)).1.kept = s.kept := by
        split
        · exact (schedJoin_kept _ _ _ _ _ _ _).trans (h2.trans h1)
        · exact h2.trans h1
      rcases hj : (if ok = true then schedJoin q recs p len pos b s2 else (s2, p)) with ⟨s3, p1⟩
      rw [hj] at h3
      dsimp only at h3 ⊢
      split
      · exact (flightsAdd_kept _ _).trans ((modQuad_kept _ _ _).trans h3)
      · exact (modQuad_kept _ _ _).trans h3

@[simp] theorem schedCell_kept (q : Nat) (padnum : Nat) (i : Nat) (recs : List (Nat × List Byte)) (hdrs : List (Nat × Packet × Nat)) (code : Nat) (eop : Bool) (b : List Byte) (s : State) : (schedCell q padnum i recs hdrs code eop b s).kept = s.kept := by
  unfold schedCell
  repeat' first
    | (simp [State.kept_ite]; done)
    | (refine (foldl_kept _ (fun _ _ => ?_) _ _).trans ?_)
    | split
    | intro _
    | simp [State.kept_ite]

@[simp] theorem schedMiss_kept (q : Nat) (own : Nat) (i : Nat) (jp : Nat) (recs : List (Nat × List Byte)) (hdrs : List (Nat × Packet × Nat)) (s : State) : (schedMiss q own i jp recs hdrs s).kept = s.kept := by
  unfold schedMiss
  repeat' first
    | (simp [State.kept_ite]; done)
    | (refine (foldl_kept _ (fun _ _ => ?_) _ _).trans ?_)
    | split
    | intro _
    | simp [State.kept_ite]

@[simp] theorem lateSend_kept (q : Nat) (code : Nat) (eop : Bool) (c : LateCell) (h : Packet) (len : Nat) (b0 : List Byte) (s : State) : (lateSend q code eop c h len b0 s).kept = s.kept := by
  unfold lateSend
  repeat' first
    | (simp [State.kept_ite]; done)
    | (refine (foldl_kept _ (fun _ _ => ?_) _ _).trans ?_)
    | split
    | intro _
    | simp [State.kept_ite]

@[simp] theorem lateCell_kept (q : Nat) (orig : Nat) (code : Nat) (eop : Bool) (b : List Byte) (s : State) : (lateCell q orig code eop b s).kept = s.kept := by
  unfold lateCell
  repeat' first
    | (simp [State.kept_ite]; done)
    | (refine (foldl_kept _ (fun _ _ => ?_) _ _).trans ?_)
    | split
    | intro _
    | simp [State.kept_ite]

@[simp] theorem lateHeaders_kept (q : Nat) (slot : Nat) (b : List Byte) (s : State) : (lateHeaders q slot b s).kept = s.kept := by
  unfold lateHeaders
  repeat' first
    | (simp [State.kept_ite]; done)
    | (refine (foldl_kept _ (fun _ _ => ?_) _ _).trans ?_)
    | split

theorem rxReport_kept (q own padnum i : Nat) (o : Option Nat) (a : RxAcc) : (rxReport q own padnum i o a).s.kept = a.s.kept := by
  rw [rxReport.eq_def]
  cases o with
  | none => rfl
  | some o => exact modQuad_kept _ _ _

@[simp] theorem rxAccepted_kept (q : Nat) (own : Nat) (o : Nat) (s : State) : (rxAccepted q own o s).kept = s.kept := by simp [rxAccepted, State.kept_ite]

@[simp] theorem rxOrdered_kept (q : Nat) (i : Nat) (code : Nat) (b : List Byte) (s : State) : (rxOrdered q i code b s).kept = s.kept := by
  unfold rxOrdered
  repeat' first
    | (simp [State.kept_ite]; done)
    | (refine (foldl_kept _ (fun _ _ => ?_) _ _).trans ?_)
    | split
    | intro _
    | simp [State.kept_ite]

theorem rxGood_kept (q own padnum i o code : Nat) (b : List Byte) (a : RxAcc) :
    (rxGood q own padnum i o code b a).s.kept = a.s.kept := by
  rw [rxGood.eq_def]
  dsimp only
  split
  · rfl
  · split
    · exact (rxOrdered_kept _ _ _ _ _).trans (rxAccepted_kept _ _ _ _)
    · exact rxReport_kept _ _ _ _ _ _

@[simp] theorem rxSched_kept (q : Nat) (i : Nat) (f : State → State) (s : State) (h_f : ∀ x0, (f x0).kept = x0.kept) : (rxSched q i f s).kept = s.kept := by simp [rxSched, State.kept_ite, h_f]

theorem rxReplay_kept (c : RxCtx) (i o : Nat) (code : Option Nat) (b : List Byte) (a : RxAcc) :
    (rxReplay c i o code b a).s.kept = a.s.kept := by
  rw [rxReplay.eq_def]
  dsimp only
  split
  · exact (rxReport_kept _ _ _ _ _ _ : (rxReport c.q (32 * c.padnum + i) c.padnum i none a).s.kept = a.s.kept)
  · split
    · split
      · exact rxAccepted_kept _ _ _ _
      · split
        · exact rxReport_kept _ _ _ _ _ _
        · rfl
    · split
      · rfl
      · exact (rxSched_kept _ _ _ _ (fun t => lateCell_kept _ _ _ _ _ t)).trans (rxAccepted_kept _ _ _ _)
    · split
      · rfl
      · exact (rxSched_kept _ _ _ _ (fun t => lateHeaders_kept _ _ _ t)).trans (rxAccepted_kept _ _ _ _)
    · exact (linkErr_kept _ _ _ _ _ _).trans (rxAccepted_kept _ _ _ _)
    · exact rxGood_kept _ _ _ _ _ _ _ _

theorem rxSlot_kept (c : RxCtx) (a : RxAcc) (i : Nat) : (rxSlot c a i).s.kept = a.s.kept := by
  have h : ∀ o, (rxReport c.q (32 * c.padnum + i) c.padnum i o a).s.kept = a.s.kept := fun o => rxReport_kept _ _ _ _ _ _
  rw [rxSlot.eq_def]
  dsimp only
  split
  · exact rxReplay_kept _ _ _ _ _ _
  · generalize (if (ctrlSlots c.padnum).contains i = true then [] else rxRecs c a.s i) = recs
    split
    · split
      · exact h (some (32 * c.padnum + i))
      · exact (schedMiss_kept _ _ _ _ _ _ _).trans (h none)
    · split
      · split
        · exact linkErr_kept _ _ _ _ _ _
        · rfl
      · split
        · exact linkErr_kept _ _ _ _ _ _
        · exact (schedCell_kept _ _ _ _ _ _ _ _ _).trans (rxAccepted_kept _ _ _ _)
      · split
        · exact linkErr_kept _ _ _ _ _ _
        · split
          · exact linkErr_kept _ _ _ _ _ _
          · have hx := (rxSched_kept c.q i (fun s => s) (rxAccepted c.q (32 * c.padnum + i) (32 * c.padnum + i) a.s) (fun _ => rfl)).trans (rxAccepted_kept _ _ _ _)
            split
            · exact (linkErr_kept _ _ _ _ _ _).trans hx
            · exact hx
      · split
        · exact linkErr_kept _ _ _ _ _ _
        · exact (rxGood_kept _ _ _ _ _ _ _ _).trans (takeCtrl_kept _ _ _ _)
      · exact linkErr_kept _ _ _ _ _ _
      · split
        · exact linkErr_kept _ _ _ _ _ _
        · exact rxGood_kept _ _ _ _ _ _ _ _

theorem rxSlots_kept (c : RxCtx) (l : List Nat) (x : RxAcc) : (l.foldl (rxSlot c) x).s.kept = x.s.kept := by
  induction l generalizing x with
  | nil => rfl
  | cons i t ih =>
    rw [List.foldl_cons, ih]
    exact rxSlot_kept c x i

@[simp] theorem ackSent_kept (q : Nat) (s : State) : (ackSent q s).kept = s.kept := by
  unfold ackSent
  repeat' first
    | (simp [State.kept_ite]; done)
    | (refine (foldl_kept _ (fun _ _ => ?_) _ _).trans ?_)
    | split

@[simp] theorem rxFrame_kept (q : Nat) (f : RxFrame) (usable : Bool) (s : State) : (rxFrame q f usable s).kept = s.kept := by
  rw [rxFrame.eq_def]
  extract_lets v ph padnum reps c0 free c a s1 w
  have h : s1.kept = s.kept := (modQuad_kept _ _ _).trans (rxSlots_kept _ _ _)
  split
  · exact h
  · split
    · split
      · exact (linkFail_kept _ _ _ _).trans h
      · exact h
    · exact h

@[simp] theorem rxPad_kept (q : Nat) (f : RxFrame) (s : State) : (rxPad q f s).kept = s.kept := by
  rw [rxPad.eq_def]
  extract_lets usable s1 v ph
  have h : s1.kept = s.kept := modQuad_kept _ _ _
  split
  · exact (linkFail_kept _ _ _ _).trans h
  · split
    · exact (linkFail_kept _ _ _ _).trans h
    · split
      split
      · exact (linkFail_kept _ _ _ _).trans ((setQuad_kept _ _ _).trans h)
      · exact (rxFrame_kept _ _ _ _).trans ((ackSent_kept _ _).trans ((setQuad_kept _ _ _).trans h))

@[simp] theorem padFrameReceive_kept (q : Nat) (f : RxFrame) (s : State) : (padFrameReceive q f s).kept = s.kept := by simp [padFrameReceive, State.kept_ite]

@[simp] theorem trainFail_kept (code : Nat) (q : Nat) (lane : Nat) (s : State) : (trainFail code q lane s).kept = s.kept := by simp [trainFail, State.kept_ite]

@[simp] theorem stepEnd_kept (q : Nat) (s : State) : (stepEnd q s).kept = s.kept := by
  unfold stepEnd
  repeat' first
    | (simp [State.kept_ite]; done)
    | (refine (foldl_kept _ (fun _ _ => ?_) _ _).trans ?_)
    | split
    | intro _
    | simp [State.kept_ite]

@[simp] theorem trainBegin_kept (q : Nat) (s : State) : (trainBegin q s).kept = s.kept := by simp [trainBegin, State.kept_ite]

@[simp] theorem qctlWrite_kept (q : Nat) (w : Nat) (s : State) : (qctlWrite q w s).kept = s.kept := by
  unfold qctlWrite
  repeat' first
    | (simp [State.kept_ite]; done)
    | (refine (foldl_kept _ (fun _ _ => ?_) _ _).trans ?_)
    | split
    | intro _
    | simp [State.kept_ite]

@[simp] theorem slipWrite_kept (q : Nat) (w : Nat) (s : State) : (slipWrite q w s).kept = s.kept := by simp [slipWrite, State.kept_ite]

@[simp] theorem rqWrite_kept (q : Nat) (lane : Nat) (w : Nat) (s : State) : (rqWrite q lane w s).kept = s.kept := by simp [rqWrite, State.kept_ite]

@[simp] theorem keepBits_kept (q : Nat) (g : LaneFrame) (s : State) : (keepBits q g s).kept = s.kept := by simp [keepBits, State.kept_ite]

@[simp] theorem alignCorrect_kept (ls : List ChipLink) (s : State) : (alignCorrect ls s).kept = s.kept := by
  unfold alignCorrect
  repeat' first
    | (simp [State.kept_ite]; done)
    | (refine (foldl_kept _ (fun _ _ => ?_) _ _).trans ?_)
    | split

@[simp] theorem modSch_kept (f : Sch → Sch) (s : State) : (modSch f s).kept = s.kept := by simp [modSch, State.kept_ite]

@[simp] theorem sentFirst_kept (route : Nat) (recs : List (Nat × List Byte)) (c : SCell) (n : Nat) (s : State) : (sentFirst route recs c n s).1.kept = s.kept := by
  unfold sentFirst
  repeat' first
    | (simp [State.kept_ite]; done)
    | (refine (foldl_kept _ (fun _ _ => ?_) _ _).trans ?_)
    | split

@[simp] theorem takePosition_kept (key : Nat) (s : State) : (takePosition key s).kept = s.kept := by
  unfold takePosition
  repeat' first
    | (simp [State.kept_ite]; done)
    | (refine (foldl_kept _ (fun _ _ => ?_) _ _).trans ?_)
    | split
    | intro _
    | simp [State.kept_ite]

@[simp] theorem padCells_kept (s : State) : (padCells s).kept = s.kept := by
  unfold padCells
  repeat' first
    | (simp [State.kept_ite]; done)
    | (refine (foldl_kept _ (fun _ _ => ?_) _ _).trans ?_)
    | split

@[simp] theorem deliverCell_kept (f : Flight) (s : State) : (deliverCell f s).kept = s.kept := by
  unfold deliverCell
  split <;> simp [State.kept_ite]

@[simp] theorem flightsStep_kept (s : State) : (flightsStep s).kept = s.kept := by
  unfold flightsStep
  repeat' first
    | (simp [State.kept_ite]; done)
    | (refine (foldl_kept _ (fun _ _ => ?_) _ _).trans ?_)
    | split

@[simp] theorem slipCall_kept (j : Nat) (s : State) : (slipCall j s).kept = s.kept := by simp [slipCall, State.kept_ite]

@[simp] theorem padHist_kept (j : Nat) (s : State) : (padHist j s).kept = s.kept := by simp [padHist, State.kept_ite]

@[simp] theorem padBoundary_kept (s : State) : (padBoundary s).kept = s.kept := by
  unfold padBoundary
  repeat' first
    | (simp [State.kept_ite]; done)
    | (refine (foldl_kept _ (fun _ _ => ?_) _ _).trans ?_)
    | split

@[simp] theorem freezeBegin_kept (s : State) : (freezeBegin s).kept = s.kept := by simp [freezeBegin, State.kept_ite]

@[simp] theorem extensionCall_kept (s : State) : (extensionCall s).kept = s.kept := by simp [extensionCall, State.kept_ite]

@[simp] theorem freezeEnd_kept (s : State) : (freezeEnd s).kept = s.kept := by simp [freezeEnd, State.kept_ite]

@[simp] theorem densitySample_kept (s : State) : (densitySample s).kept = s.kept := by simp [densitySample, State.kept_ite]

@[simp] theorem epochBegin_kept (s : State) : (epochBegin s).kept = s.kept := by
  unfold epochBegin
  split <;> simp [State.kept_ite]

@[simp] theorem epochPause_kept (s : State) : (epochPause s).kept = s.kept := by
  unfold epochPause
  repeat' first
    | (simp [State.kept_ite]; done)
    | (refine (foldl_kept _ (fun _ _ => ?_) _ _).trans ?_)
    | split
    | intro _
    | simp [State.kept_ite]

@[simp] theorem epochBoundary_kept (s : State) : (epochBoundary s).kept = s.kept := by simp [epochBoundary, State.kept_ite]

@[simp] theorem launchReached_kept (j : Nat) (s : State) : (launchReached j s).kept = s.kept := by
  unfold launchReached
  repeat' first
    | (simp [State.kept_ite]; done)
    | (refine (foldl_kept _ (fun _ _ => ?_) _ _).trans ?_)
    | split
    | intro _
    | simp [State.kept_ite]

@[simp] theorem pauseRequest_kept (s : State) : (pauseRequest s).kept = s.kept := by
  unfold pauseRequest
  split <;> simp [State.kept_ite]

@[simp] theorem checkpointWrite_kept (i : Nat) (s : State) : (checkpointWrite i s).kept = s.kept := by
  unfold checkpointWrite
  split <;> simp [State.kept_ite]

@[simp] theorem jobDone_kept (j : Nat) (s : State) : (jobDone j s).kept = s.kept := by simp [jobDone, State.kept_ite]

@[simp] theorem masterHeartbeat_kept (s : State) : (masterHeartbeat s).kept = s.kept := by simp [masterHeartbeat, State.kept_ite]

@[simp] theorem masterLost_kept (s : State) : (masterLost s).kept = s.kept := by simp [masterLost, State.kept_ite]

@[simp] theorem electEnter_kept (term : Nat) (s : State) : (electEnter term s).kept = s.kept := by
  unfold electEnter
  repeat' first
    | (simp [State.kept_ite]; done)
    | (refine (foldl_kept _ (fun _ _ => ?_) _ _).trans ?_)
    | split

@[simp] theorem electOpen_kept (c : ElectionCause) (s : State) : (electOpen c s).kept = s.kept := by simp [electOpen, State.kept_ite]

@[simp] theorem bidReceive_kept (b : Bid) (s : State) : (bidReceive b s).kept = s.kept := by simp [bidReceive, State.kept_ite]

@[simp] theorem electDecide_kept (s : State) : (electDecide s).kept = s.kept := by
  unfold electDecide
  repeat' first
    | (simp [State.kept_ite]; done)
    | (refine (foldl_kept _ (fun _ _ => ?_) _ _).trans ?_)
    | split

@[simp] theorem electRetry_kept (s : State) : (electRetry s).kept = s.kept := by simp [electRetry, State.kept_ite]

@[simp] theorem schedChip_kept (c : State) (padgrp : List Byte) (nspan : Nat) (idx : Nat) (pads : List (List Byte)) (linkdiv : List Byte) : (schedChip c padgrp nspan idx pads linkdiv).kept = c.kept := by simp [schedChip, State.kept_ite]

@[simp] theorem syncDrop_kept (s : State) : (syncDrop s).kept = s.kept := by
  unfold syncDrop
  repeat' first
    | (simp [State.kept_ite]; done)
    | (refine (foldl_kept _ (fun _ _ => ?_) _ _).trans ?_)
    | split

theorem syncRecord_kept (slots : Table Nat) (r : List Byte) (s t : State) (h : syncRecord slots r s = some t) :
    t.kept = s.kept := by
  unfold syncRecord at h
  split at h
  · dsimp only at h
    split at h
    · cases h
    · injection h with h
      rw [← h]
      exact setBline_kept _ _ _
  · dsimp only at h
    split at h
    · cases h
    · split at h
      · cases h
      · injection h with h
        rw [← h]
        simp only [State.kept_mk, State.kept_eta, syncCfgWrite_kept, syncCountWrite_kept]

theorem syncApply_kept (slots : Table Nat) (b : List Byte) (s t : State) (h : syncApply slots b s = some t) :
    t.kept = s.kept := by
  have hf : ∀ (l : List (List Byte)) (o : Option State) (t : State),
      l.foldl (fun t r => t.bind (syncRecord slots r)) o = some t → ∃ u, o = some u ∧ t.kept = u.kept := by
    intro l
    induction l with
    | nil => exact fun o t h => ⟨t, h, rfl⟩
    | cons r l ih =>
      intro o t h
      obtain ⟨u, hu, hk⟩ := ih _ _ h
      cases o with
      | none => cases hu
      | some v => exact ⟨v, rfl, hk.trans (syncRecord_kept slots r v u hu)⟩
  obtain ⟨u, hu, hk⟩ := hf _ _ _ h
  cases hu
  exact hk.trans (syncDrop_kept s)

@[simp] theorem bindNewts_kept (logic : List Byte) (epitab : List Byte) (prog : List Byte) (s : State) : (bindNewts logic epitab prog s).kept = s.kept := by simp [bindNewts, State.kept_ite]

@[simp] theorem endFree_kept (s : State) : (endFree s).kept = s.kept := by
  unfold endFree
  repeat' first
    | (simp [State.kept_ite]; done)
    | (refine (foldl_kept _ (fun _ _ => ?_) _ _).trans ?_)
    | split

@[simp] theorem applyStartup_kept (f : List Byte) (p : List Byte) (coord : Nat) (s : State) : (applyStartup f p coord s).kept = s.kept := by simp [applyStartup, State.kept_ite]

@[simp] theorem reserveQuads_kept (qs : List Nat) (s : State) : (reserveQuads qs s).kept = s.kept := by simp [reserveQuads, State.kept_ite]

@[simp] theorem loadTables_kept (f p : List Byte) (s : State) : (loadTables f p s).kept = s.kept := by
  unfold loadTables
  simp only [State.kept_mk, State.kept_eta, applyShaper_kept]

@[simp] theorem activateSteps_kept (f : List Byte) (coord : Nat) (s : State) : (activateSteps f coord s).kept = s.kept := by
  rw [activateSteps.eq_def]
  extract_lets p logic epitab s1 s2 s3
  have h1 : s1.kept = s.kept := (bindNewts_kept _ _ _ _).trans (endFree_kept _)
  have h2 : s2.kept = s.kept := by
    show (if s1.lay.startupDone then s1 else applyStartup f p coord s1).kept = s.kept
    split
    · exact h1
    · exact (applyStartup_kept _ _ _ _).trans h1
  have h3 : s3.kept = s.kept := (reserveQuads_kept _ _).trans ((loadTables_kept _ _ _).trans h2)
  cases h : syncApply s3.lay.slotOf (sectionOf p 8 0) s3 with
  | none => exact h3
  | some t => exact (syncApply_kept _ _ _ _ h).trans h3

@[simp] theorem logDigests_kept (fp : List Byte) (program : List Byte) (s : State) : (logDigests fp program s).kept = s.kept := by
  unfold logDigests
  repeat' first
    | (simp [State.kept_ite]; done)
    | (refine (foldl_kept _ (fun _ _ => ?_) _ _).trans ?_)
    | split

@[simp] theorem unitSticky_kept (x : UnitErr) (s : State) : (unitSticky x s).kept = s.kept := by
  unfold unitSticky
  split <;> simp [State.kept_ite]

@[simp] theorem startupUndone_kept (s t : State) : (startupUndone s t).kept = t.kept := by simp [startupUndone, State.kept_ite]

@[simp] theorem activateFault_kept (f : List Byte) (coord : Nat) (x : UnitErr) (s : State) : (activateFault f coord x s).kept = s.kept := by
  unfold activateFault
  repeat' first
    | (simp [State.kept_ite]; done)
    | (refine (foldl_kept _ (fun _ _ => ?_) _ _).trans ?_)
    | split

@[simp] theorem activate_kept (f : List Byte) (coord : Nat) (signed : Bool) (s : State) :
    (activate f coord signed s).kept = s.kept := by
  rw [activate.eq_def]
  exact (logDigests_kept _ _ _).trans (Eq.trans rfl (activateSteps_kept f coord s))

@[simp] theorem routeInto_kept (b : Option (List Byte)) (s : State) : (routeInto b s).kept = s.kept := by
  unfold routeInto
  split <;> simp [State.kept_ite]

@[simp] theorem logSection_kept (typ : Nat) (body : List Byte) (s : State) : (logSection typ body s).kept = s.kept := by
  unfold logSection
  repeat' first
    | (simp [State.kept_ite]; done)
    | (refine (foldl_kept _ (fun _ _ => ?_) _ _).trans ?_)
    | split

@[simp] theorem logSections_kept (sect : Nat) (p : List Byte) (bank : Nat) (s : State) : (logSections sect p bank s).kept = s.kept := by
  unfold logSections
  repeat' first
    | (simp [State.kept_ite]; done)
    | (refine (foldl_kept _ (fun _ _ => ?_) _ _).trans ?_)
    | split

@[simp] theorem tableSwap_kept (sect : Nat) (s : State) : (tableSwap sect s).kept = s.kept := by
  rw [tableSwap.eq_def]
  extract_lets p s1 t tl s2 sl s3
  have h1 : s1.kept = s.kept := by
    show (if bitOf sect 0 then swapRoute (routeInto (sectOpt p 3 (1 - s.lay.routeBank)) s) else s).kept = s.kept
    split
    · exact (swapRoute_kept _).trans (routeInto_kept _ _)
    · rfl
  have ht : t.kept = s.kept := (applyShaper_kept _ _ s1).trans h1
  have h2 : s2.kept = s.kept := by
    unfold s2
    clear_value t
    split
    · rw [State.kept_mk, State.kept_eta]
      exact ht
    · exact h1
  clear_value s2
  have h3 : s3.kept = s.kept := by
    unfold s3
    split
    · rw [State.kept_mk, State.kept_eta]
      exact h2
    · exact h2
  clear_value s3
  exact (logSections_kept _ _ _ _).trans h3

@[simp] theorem modHif_kept (f : Hif → Hif) (s : State) : (modHif f s).kept = s.kept := by simp [modHif, State.kept_ite]

@[simp] theorem badAccess_kept (s : State) : (badAccess s).kept = s.kept := by simp [badAccess, State.kept_ite]

@[simp] theorem eventWrite_kept (s : State) : (eventWrite s).kept = s.kept := by
  unfold eventWrite
  repeat' first
    | (simp [State.kept_ite]; done)
    | (refine (foldl_kept _ (fun _ _ => ?_) _ _).trans ?_)
    | split

@[simp] theorem eventPump_kept (fuel : Nat) (s : State) : (eventPump fuel s).kept = s.kept := by
  fun_induction eventPump <;> (first | rfl | (simp [*]))

@[simp] theorem recordWrite_kept (j : Nat) (s : State) : (recordWrite j s).kept = s.kept := by
  unfold recordWrite
  repeat' first
    | (simp [State.kept_ite]; done)
    | (refine (foldl_kept _ (fun _ _ => ?_) _ _).trans ?_)
    | split
    | intro _
    | simp [State.kept_ite]

@[simp] theorem recordPump_kept (fuel : Nat) (j : Nat) (s : State) : (recordPump fuel j s).kept = s.kept := by
  fun_induction recordPump <;> (first | rfl | (simp [*]))

@[simp] theorem evRingWrite_kept (w : Nat) (s : State) : (evRingWrite w s).kept = s.kept := by simp [evRingWrite, State.kept_ite]

@[simp] theorem evRdWrite_kept (rd : Nat) (s : State) : (evRdWrite rd s).kept = s.kept := by simp [evRdWrite, State.kept_ite]

@[simp] theorem jobRdWrite_kept (j : Nat) (rd : Nat) (s : State) : (jobRdWrite j rd s).kept = s.kept := by simp [jobRdWrite, State.kept_ite]

@[simp] theorem unreserve_kept (m : Slot) (s : State) : (unreserve m s).kept = s.kept := by
  unfold unreserve
  repeat' first
    | (simp [State.kept_ite]; done)
    | (refine (foldl_kept _ (fun _ _ => ?_) _ _).trans ?_)
    | split

@[simp] theorem snapEnd_kept (i : Nat) (s : State) : (snapEnd i s).kept = s.kept := by simp [snapEnd, State.kept_ite]

@[simp] theorem testCancel_kept (i : Nat) (s : State) : (testCancel i s).kept = s.kept := by
  unfold testCancel
  repeat' first
    | (simp [State.kept_ite]; done)
    | (refine (foldl_kept _ (fun _ _ => ?_) _ _).trans ?_)
    | split

@[simp] theorem cmdCancel_kept (i : Nat) (s : State) : (cmdCancel i s).kept = s.kept := by
  unfold cmdCancel
  repeat' first
    | (simp [State.kept_ite]; done)
    | (refine (foldl_kept _ (fun _ _ => ?_) _ _).trans ?_)
    | split
    | intro _
    | simp [State.kept_ite]

@[simp] theorem slotFree_kept (i : Nat) (s : State) : (slotFree i s).kept = s.kept := by simp [slotFree, State.kept_ite]

@[simp] theorem enterOrphan_kept (code : Nat) (s : State) : (enterOrphan code s).kept = s.kept := by simp [enterOrphan, State.kept_ite]

@[simp] theorem linkDown_kept (s : State) : (linkDown s).kept = s.kept := by simp [linkDown, State.kept_ite]

@[simp] theorem flr_kept (s : State) : (flr s).kept = s.kept := by
  rw [flr.eq_def]
  extract_lets s1 s2 s3
  have h1 : s1.kept = s.kept := foldl_kept _ (fun t i => slotFree_kept i t) _ _
  have h3 : s3.kept = s.kept := Eq.trans (b := s2.kept) rfl (Eq.trans (b := s1.kept) rfl h1)
  exact (enterOrphan_kept _ _).trans ((dmaFlr_kept _).trans h3)

@[simp] theorem hdmRead_kept (off : Nat) (s : State) : (hdmRead off s).kept = s.kept := by simp [hdmRead, State.kept_ite]

@[simp] theorem hdmWrite_kept (off : Nat) (data : List Byte) (poison : Bool) (s : State) : (hdmWrite off data poison s).kept = s.kept := by simp [hdmWrite, State.kept_ite]

@[simp] theorem heartbeatWrite_kept (w : Nat) (s : State) : (heartbeatWrite w s).kept = s.kept := by simp [heartbeatWrite, State.kept_ite]

@[simp] theorem hdmNextWrite_kept (w : Nat) (s : State) : (hdmNextWrite w s).kept = s.kept := by simp [hdmNextWrite, State.kept_ite]

@[simp] theorem collTimeout_kept (c : Nat) (s : State) : (collTimeout c s).kept = s.kept := by simp [collTimeout, State.kept_ite]

@[simp] theorem abortArrives_kept (c : Nat) (cause : Nat) (p : FaultPlace) (s : State) : (abortArrives c cause p s).kept = s.kept := by
  unfold abortArrives
  repeat' first
    | (simp [State.kept_ite]; done)
    | (refine (foldl_kept _ (fun _ _ => ?_) _ _).trans ?_)
    | split

@[simp] theorem noticeReceive_kept (c : Nat) (status : Nat) (cause : Nat) (p : FaultPlace) (asb : List Byte) (s : State) : (noticeReceive c status cause p asb s).kept = s.kept := by
  unfold noticeReceive
  repeat' first
    | (simp [State.kept_ite]; done)
    | (refine (foldl_kept _ (fun _ _ => ?_) _ _).trans ?_)
    | split
    | intro _
    | simp [State.kept_ite]

@[simp] theorem outcomeDecided_kept (c : Nat) (s : State) : (outcomeDecided c s).kept = s.kept := by
  unfold outcomeDecided
  repeat' first
    | (simp [State.kept_ite]; done)
    | (refine (foldl_kept _ (fun _ _ => ?_) _ _).trans ?_)
    | split
    | intro _
    | simp [State.kept_ite]

@[simp] theorem deliveredSend_kept (c : Nat) (port : Nat) (s : State) : (deliveredSend c port s).kept = s.kept := by simp [deliveredSend, State.kept_ite]

@[simp] theorem placeNewt_kept (c : Nat) (p : Placement) (s : State) : (placeNewt c p s).kept = s.kept := by simp [placeNewt, State.kept_ite]

@[simp] theorem collStart_kept (c : Nat) (table : List Byte) (work : List Placement) (s : State) : (collStart c table work s).kept = s.kept := by
  unfold collStart
  repeat' first
    | (simp [State.kept_ite]; done)
    | (refine (foldl_kept _ (fun _ _ => ?_) _ _).trans ?_)
    | split
    | intro _
    | simp [State.kept_ite]

@[simp] theorem waitTimeout_kept (o : Nat) (agent : Nat) (s : State) : (waitTimeout o agent s).kept = s.kept := by simp [waitTimeout, State.kept_ite]

@[simp] theorem slotOverwrite_kept (i : Nat) (s : State) : (slotOverwrite i s).kept = s.kept := by simp [slotOverwrite, State.kept_ite]

@[simp] theorem slotWrite_kept (off : Nat) (value : Nat) (width : Nat) (s : State) : (slotWrite off value width s).kept = s.kept := by simp [slotWrite, State.kept_ite]

@[simp] theorem slotRead_kept (off width : Nat) (s : State) : (slotRead off width s).1.kept = s.kept := by
  unfold slotRead
  split <;> simp [State.kept_ite]

@[simp] theorem slotPost_kept (i : Nat) (value : Nat) (s : State) : (slotPost i value s).kept = s.kept := by simp [slotPost, State.kept_ite]

@[simp] theorem slotWork_kept (i : Nat) (w : SlotWork) (s : State) : (slotWork i w s).kept = s.kept := by simp [slotWork, State.kept_ite]

@[simp] theorem preopBegin_kept (i : Nat) (s : State) : (preopBegin i s).kept = s.kept := by
  unfold preopBegin
  repeat' first
    | (simp [State.kept_ite]; done)
    | (refine (foldl_kept _ (fun _ _ => ?_) _ _).trans ?_)
    | split
    | intro _
    | simp [State.kept_ite]

@[simp] theorem slotRule_kept (i : Nat) (s : State) : (slotRule i s).kept = s.kept := by
  unfold slotRule
  repeat' first
    | (simp [State.kept_ite]; done)
    | (refine (foldl_kept _ (fun _ _ => ?_) _ _).trans ?_)
    | split
    | intro _
    | simp [State.kept_ite]

@[simp] theorem adoptOver_kept (s : State) : (adoptOver s).kept = s.kept := by
  unfold adoptOver
  repeat' first
    | (simp [State.kept_ite]; done)
    | (refine (foldl_kept _ (fun _ _ => ?_) _ _).trans ?_)
    | split

@[simp] theorem slotTake_kept (i : Nat) (s : State) : (slotTake i s).kept = s.kept := by
  unfold slotTake
  repeat' first
    | (simp [State.kept_ite]; done)
    | (refine (foldl_kept _ (fun _ _ => ?_) _ _).trans ?_)
    | split
    | intro _
    | simp [State.kept_ite]

@[simp] theorem scan_kept (s : State) : (scan s).kept = s.kept := by
  unfold scan
  repeat' first
    | (simp [State.kept_ite]; done)
    | (refine (foldl_kept _ (fun _ _ => ?_) _ _).trans ?_)
    | split

@[simp] theorem onSlot_kept (c : Nat) (i : Nat) (f : Slot → State → State) (s : State) (h_f : ∀ x0 x1, (f x0 x1).kept = x1.kept) : (onSlot c i f s).kept = s.kept := by simp [onSlot, State.kept_ite, h_f]

@[simp] theorem aligned64_kept (i : Nat) (a : Nat) (f : State → State) (s : State) (h_f : ∀ x0, (f x0).kept = x0.kept) : (aligned64 i a f s).kept = s.kept := by simp [aligned64, State.kept_ite, h_f]

@[simp] theorem copyOut_kept (i : Nat) (bytes : List Byte) (scratch : List Nat) (s : State) : (copyOut i bytes scratch s).kept = s.kept := by simp [copyOut, State.kept_ite]

@[simp] theorem copyIn_kept (i : Nat) (s : State) : (copyIn i s).kept = s.kept := by simp [copyIn, State.kept_ite]

@[simp] theorem cmdTimeout_kept (i : Nat) (s : State) : (cmdTimeout i s).kept = s.kept := by simp [cmdTimeout, State.kept_ite]

@[simp] theorem identify_kept (i : Nat) (s : State) : (identify i s).kept = s.kept := by simp [identify, State.kept_ite]

@[simp] theorem snapBegin_kept (i : Nat) (m : Slot) (s : State) : (snapBegin i m s).kept = s.kept := by simp [snapBegin, State.kept_ite]

@[simp] theorem snapDone_kept (i : Nat) (ok : Bool) (m : Slot) (s : State) : (snapDone i ok m s).kept = s.kept := by simp [snapDone, State.kept_ite]

@[simp] theorem modLay_kept (f : Layout → Layout) (s : State) : (modLay f s).kept = s.kept := by simp [modLay, State.kept_ite]

@[simp] theorem layFail_kept (i : Nat) (code : Nat) (chk : Nat) (s : State) : (layFail i code chk s).kept = s.kept := by simp [layFail, State.kept_ite]

@[simp] theorem loadBegin_kept (i : Nat) (m : Slot) (s : State) : (loadBegin i m s).kept = s.kept := by simp [loadBegin, State.kept_ite]

@[simp] theorem loadStage_kept (i : Nat) (f : List Byte) (m : Slot) (s : State) : (loadStage i f m s).kept = s.kept := by simp [loadStage, State.kept_ite]

@[simp] theorem storePut_kept (v : LaySlot) (s : State) : (storePut v s).kept = s.kept := by simp [storePut, State.kept_ite]

@[simp] theorem loadRead_kept (i : Nat) (ok : Bool) (f : List Byte) (m : Slot) (s : State) : (loadRead i ok f m s).kept = s.kept := by
  unfold loadRead
  repeat' first
    | (simp [State.kept_ite]; done)
    | (refine (foldl_kept _ (fun _ _ => ?_) _ _).trans ?_)
    | split

@[simp] theorem loadKept_kept (i : Nat) (ok : Bool) (m : Slot) (s : State) : (loadKept i ok m s).kept = s.kept := by simp [loadKept, State.kept_ite]

@[simp] theorem unlessStagedPoison_kept (i : Nat) (f : State → State) (s : State) (h_f : ∀ x0, (f x0).kept = x0.kept) : (unlessStagedPoison i f s).kept = s.kept := by
  unfold unlessStagedPoison
  split <;> simp [State.kept_ite, h_f]

@[simp] theorem activateCmd_kept (i : Nat) (fault : Option UnitErr) (m : Slot) (s : State) : (activateCmd i fault m s).kept = s.kept := by
  unfold activateCmd
  refine unlessStagedPoison_kept _ _ _ (fun t => ?_)
  dsimp only
  repeat' split
  all_goals simp [State.kept_ite]

@[simp] theorem drainCmd_kept (i : Nat) (m : Slot) (s : State) : (drainCmd i m s).kept = s.kept := by simp [drainCmd, State.kept_ite]

@[simp] theorem swapCmd_kept (i : Nat) (m : Slot) (s : State) : (swapCmd i m s).kept = s.kept := by
  unfold swapCmd
  refine unlessStagedPoison_kept _ _ _ (fun t => ?_)
  split <;> simp [State.kept_ite]

@[simp] theorem jobOpen_kept (i : Nat) (m : Slot) (s : State) : (jobOpen i m s).kept = s.kept := by
  unfold jobOpen
  repeat' first
    | (simp [State.kept_ite]; done)
    | (refine (foldl_kept _ (fun _ _ => ?_) _ _).trans ?_)
    | split

@[simp] theorem memberCheck_kept (cs : List Nat) (s : State) : (memberCheck cs s).kept = s.kept := by
  unfold memberCheck
  repeat' first
    | (simp [State.kept_ite]; done)
    | (refine (foldl_kept _ (fun _ _ => ?_) _ _).trans ?_)
    | split

@[simp] theorem launch_kept (j l : Nat) (sched : Bool) (s : State) : (launch j l sched s).kept = s.kept := by
  rw [launch.eq_def]
  extract_lets s1 s2
  have h2 : s2.kept = s.kept := (jobState_kept _ _ _).trans (modJob_kept _ _ _)
  split
  · exact Eq.trans rfl h2
  · exact (memberCheck_kept _ _).trans ((foldl_kept _ (fun t e => setColl_kept _ _ t) _ _).trans (Eq.trans rfl h2))

@[simp] theorem jobLaunch_kept (i : Nat) (m : Slot) (s : State) : (jobLaunch i m s).kept = s.kept := by
  unfold jobLaunch
  repeat' first
    | (simp [State.kept_ite]; done)
    | (refine (foldl_kept _ (fun _ _ => ?_) _ _).trans ?_)
    | split
    | intro _
    | simp [State.kept_ite]

@[simp] theorem endHeld_kept (i : Nat) (s : State) : (endHeld i s).kept = s.kept := by simp [endHeld, State.kept_ite]

@[simp] theorem abortAll_kept (i : Nat) (cs : List Nat) (s : State) : (abortAll i cs s).1.kept = s.kept := by
  unfold abortAll
  repeat' first
    | (simp [State.kept_ite]; done)
    | (refine (foldl_kept _ (fun _ _ => ?_) _ _).trans ?_)
    | split

@[simp] theorem abortReply_kept (i : Nat) (nabort : Nat) (ndone : Nat) (left : Nat) (single : Bool) (s : State) : (abortReply i nabort ndone left single s).kept = s.kept := by simp [abortReply, State.kept_ite]

@[simp] theorem abortJob_kept (i : Nat) (j : Nat) (s : State) : (abortJob i j s).kept = s.kept := by simp [abortJob, State.kept_ite]

@[simp] theorem finishJob_kept (i : Nat) (j : Nat) (s : State) : (finishJob i j s).kept = s.kept := by simp [finishJob, State.kept_ite]

@[simp] theorem abortOne_kept (i : Nat) (j : Nat) (c : Nat) (s : State) : (abortOne i j c s).kept = s.kept := by simp [abortOne, State.kept_ite]

@[simp] theorem jobAbort_kept (i : Nat) (m : Slot) (s : State) : (jobAbort i m s).kept = s.kept := by
  unfold jobAbort
  repeat' first
    | (simp [State.kept_ite]; done)
    | (refine (foldl_kept _ (fun _ _ => ?_) _ _).trans ?_)
    | split
    | intro _
    | simp [State.kept_ite]

@[simp] theorem recordBegin_kept (i : Nat) (m : Slot) (s : State) : (recordBegin i m s).kept = s.kept := by
  unfold recordBegin
  split <;> simp [State.kept_ite]

@[simp] theorem jobClose_kept (j : Nat) (s : State) : (jobClose j s).kept = s.kept := by simp [jobClose, State.kept_ite]

@[simp] theorem recordDone_kept (i : Nat) (ok : Bool) (m : Slot) (s : State) : (recordDone i ok m s).kept = s.kept := by simp [recordDone, State.kept_ite]

@[simp] theorem adoptTake_kept (keep : Bool) (s : State) : (adoptTake keep s).kept = s.kept := by
  unfold adoptTake
  refine (logOpen_kept _ _ _).trans ?_
  split
  · exact modHif_kept _ _
  · exact (foldl_kept _ (fun t c => freeOwned_kept c t) _ _).trans (modHif_kept _ _)

@[simp] theorem adopt_kept (i : Nat) (hostOk : Bool) (m : Slot) (s : State) : (adopt i hostOk m s).kept = s.kept := by simp [adopt, State.kept_ite]

@[simp] theorem ckptBegin_kept (i : Nat) (m : Slot) (s : State) : (ckptBegin i m s).kept = s.kept := by
  unfold ckptBegin
  split <;> simp [State.kept_ite]

@[simp] theorem ckObj_kept (o : Nat) (b : List Byte) (s : State) : (ckObj o b s).kept = s.kept := by simp [ckObj, State.kept_ite]

@[simp] theorem ckDigest_kept (j : Nat) (c : Nat) (tiles : Table (List Byte)) (s : State) : (ckDigest j c tiles s).kept = s.kept := by simp [ckDigest, State.kept_ite]

@[simp] theorem ckRestore_kept (j : Nat) (epoch : Nat) (s : State) (x : CkSec) : (ckRestore j epoch s x).kept = s.kept := by
  unfold ckRestore
  split <;> simp [State.kept_ite]

@[simp] theorem ckColls_kept (j : Nat) (s : State) : (ckColls j s).kept = s.kept := by
  unfold ckColls
  repeat' first
    | (simp [State.kept_ite]; done)
    | (refine (foldl_kept _ (fun _ _ => ?_) _ _).trans ?_)
    | split

@[simp] theorem resumeJob_kept (j : Nat) (l : Nat) (c : List Byte) (s : State) : (resumeJob j l c s).kept = s.kept := by
  unfold resumeJob
  repeat' first
    | (simp [State.kept_ite]; done)
    | (refine (foldl_kept _ (fun _ _ => ?_) _ _).trans ?_)
    | split
    | intro _
    | simp [State.kept_ite]

@[simp] theorem unlessPoison_kept (i : Nat) (a : Nat) (n : Nat) (f : State → State) (s : State) (h_f : ∀ x0, (f x0).kept = x0.kept) : (unlessPoison i a n f s).kept = s.kept := by
  unfold unlessPoison
  split <;> simp [State.kept_ite, h_f]

@[simp] theorem jobResume_kept (i : Nat) (m : Slot) (s : State) : (jobResume i m s).kept = s.kept := by
  unfold jobResume
  dsimp only
  split
  · split <;> simp
  · refine unlessPoison_kept _ _ _ _ _ (fun t => ?_)
    split <;> simp

@[simp] theorem postMessages_kept (c : Nat) (d : List Byte) (o : PostObjs) (s : State) : (postMessages c d o s).kept = s.kept := by
  unfold postMessages
  repeat' first
    | (simp [State.kept_ite]; done)
    | (refine (foldl_kept _ (fun _ _ => ?_) _ _).trans ?_)
    | split
    | intro _
    | simp [State.kept_ite]

@[simp] theorem postCompare_kept (h : HeardPost) (s : State) : (postCompare h s).kept = s.kept := by simp [postCompare, State.kept_ite]

@[simp] theorem postHear_kept (h : HeardPost) (s : State) : (postHear h s).kept = s.kept := by simp [postHear, State.kept_ite]

@[simp] theorem postsHeard_kept (s : State) : (postsHeard s).kept = s.kept := by
  unfold postsHeard
  repeat' first
    | (simp [State.kept_ite]; done)
    | (refine (foldl_kept _ (fun _ _ => ?_) _ _).trans ?_)
    | split

@[simp] theorem inboxTake_kept (p : Packet) (s : State) : (inboxTake p s).kept = s.kept := by
  unfold inboxTake
  split <;> simp [State.kept_ite]

@[simp] theorem collPost_kept (i : Nat) (m : Slot) (s : State) : (collPost i m s).kept = s.kept := by
  unfold collPost
  repeat' first
    | (simp [State.kept_ite]; done)
    | (refine (foldl_kept _ (fun _ _ => ?_) _ _).trans ?_)
    | split
    | intro _
    | simp [State.kept_ite]

@[simp] theorem modFw_kept (f : Firmware → Firmware) (s : State) : (modFw f s).kept = s.kept := by simp [modFw, State.kept_ite]

@[simp] theorem modCal_kept (f : Calib → Calib) (s : State) : (modCal f s).kept = s.kept := by simp [modCal, State.kept_ite]

@[simp] theorem setMeas_kept (i : Nat) (d : List Byte) (s : State) : (setMeas i d s).kept = s.kept := by simp [setMeas, State.kept_ite]

@[simp] theorem modFwSlot_kept (k : Nat) (f : FwSlot → FwSlot) (s : State) : (modFwSlot k f s).kept = s.kept := by simp [modFwSlot, State.kept_ite]

@[simp] theorem stageBegin_kept (i : Nat) (m : Slot) (s : State) : (stageBegin i m s).kept = s.kept := by simp [stageBegin, State.kept_ite]

@[simp] theorem stageRead_kept (i : Nat) (ok : Bool) (f : List Byte) (s : State) : (stageRead i ok f s).kept = s.kept := by simp [stageRead, State.kept_ite]

@[simp] theorem stageDone_kept (i : Nat) (ok : Bool) (m : Slot) (s : State) : (stageDone i ok m s).kept = s.kept := by
  unfold stageDone
  repeat' first
    | (simp [State.kept_ite]; done)
    | (refine (foldl_kept _ (fun _ _ => ?_) _ _).trans ?_)
    | split
    | intro _
    | simp [State.kept_ite]

@[simp] theorem moltCommit_kept (s : State) : (moltCommit s).kept = s.kept := by
  unfold moltCommit
  repeat' first
    | (simp [State.kept_ite]; done)
    | (refine (foldl_kept _ (fun _ _ => ?_) _ _).trans ?_)
    | split
    | intro _
    | simp [State.kept_ite]

@[simp] theorem moltBegin_kept (i : Nat) (m : Slot) (s : State) : (moltBegin i m s).kept = s.kept := by
  unfold moltBegin
  split <;> simp [State.kept_ite]

@[simp] theorem handover_kept (s : State) : (handover s).kept = s.kept := by simp [handover, State.kept_ite]

@[simp] theorem pauseOver_kept (s : State) : (pauseOver s).kept = s.kept := by simp [pauseOver, State.kept_ite]

@[simp] theorem takeInbox_kept (s : State) : (takeInbox s).kept = s.kept := by
  unfold takeInbox
  repeat' first
    | (simp [State.kept_ite]; done)
    | (refine (foldl_kept _ (fun _ _ => ?_) _ _).trans ?_)
    | split

@[simp] theorem moltTimeout_kept (s : State) : (moltTimeout s).kept = s.kept := by simp [moltTimeout, State.kept_ite]

@[simp] theorem moltEnd_kept (pauseNs : Nat) (s : State) : (moltEnd pauseNs s).kept = s.kept := by simp [moltEnd, State.kept_ite]

@[simp] theorem watchdog_kept (core : Nat) (s : State) : (watchdog core s).kept = s.kept := by simp [watchdog, State.kept_ite]

@[simp] theorem inboxArrive_kept (p : Packet) (s : State) : (inboxArrive p s).kept = s.kept := by simp [inboxArrive, State.kept_ite]

@[simp] theorem attGo_kept (s : State) : (attGo s).kept = s.kept := by simp [attGo, State.kept_ite]

@[simp] theorem attDone_kept (ok : Bool) (s : State) : (attDone ok s).kept = s.kept := by simp [attDone, State.kept_ite]

@[simp] theorem testBegin_kept (i : Nat) (m : Slot) (s : State) : (testBegin i m s).kept = s.kept := by
  unfold testBegin
  repeat' first
    | (simp [State.kept_ite]; done)
    | (refine (foldl_kept _ (fun _ _ => ?_) _ _).trans ?_)
    | split
    | intro _
    | simp [State.kept_ite]

@[simp] theorem testDone_kept (i : Nat) (failed : List (Nat × Nat)) (s : State) : (testDone i failed s).kept = s.kept := by
  unfold testDone
  repeat' first
    | (simp [State.kept_ite]; done)
    | (refine (foldl_kept _ (fun _ _ => ?_) _ _).trans ?_)
    | split
    | intro _
    | simp [State.kept_ite]

@[simp] theorem calRead_kept (i : Nat) (m : Slot) (s : State) : (calRead i m s).kept = s.kept := by simp [calRead, State.kept_ite]

@[simp] theorem calReadDone_kept (i : Nat) (ok : Bool) (m : Slot) (s : State) : (calReadDone i ok m s).kept = s.kept := by simp [calReadDone, State.kept_ite]

@[simp] theorem calWrite_kept (i : Nat) (m : Slot) (s : State) : (calWrite i m s).kept = s.kept := by simp [calWrite, State.kept_ite]

@[simp] theorem calWriteRead_kept (i : Nat) (ok : Bool) (b : List Byte) (m : Slot) (s : State) : (calWriteRead i ok b m s).kept = s.kept := by
  unfold calWriteRead
  repeat' first
    | (simp [State.kept_ite]; done)
    | (refine (foldl_kept _ (fun _ _ => ?_) _ _).trans ?_)
    | split

@[simp] theorem calWriteDone_kept (i : Nat) (ok : Bool) (m : Slot) (s : State) : (calWriteDone i ok m s).kept = s.kept := by simp [calWriteDone, State.kept_ite]

@[simp] theorem logCore_kept (e : LogItem) (s : State) : (logCore e s).kept = s.kept := by simp [logCore, State.kept_ite]

@[simp] theorem logEntryWrite_kept (entry : Option LogInput) (s : State) : (logEntryWrite entry s).kept = s.kept := by
  unfold logEntryWrite
  repeat' first
    | (simp [State.kept_ite]; done)
    | (refine (foldl_kept _ (fun _ _ => ?_) _ _).trans ?_)
    | split

@[simp] theorem traceEntry_kept (id : Nat) (data : List Byte) (s : State) : (traceEntry id data s).kept = s.kept := by simp [traceEntry, State.kept_ite]

@[simp] theorem powerTrace_kept (s : State) : (powerTrace s).kept = s.kept := by simp [powerTrace, State.kept_ite]

@[simp] theorem densityPoll_kept (s : State) : (densityPoll s).kept = s.kept := by
  unfold densityPoll
  repeat' first
    | (simp [State.kept_ite]; done)
    | (refine (foldl_kept _ (fun _ _ => ?_) _ _).trans ?_)
    | split

@[simp] theorem adaptShape_kept (s : State) : (adaptShape s).kept = s.kept := by
  unfold adaptShape
  repeat' first
    | (simp [State.kept_ite]; done)
    | (refine (foldl_kept _ (fun _ _ => ?_) _ _).trans ?_)
    | split

@[simp] theorem transferDone_kept (i : Nat) (ok : Bool) (data : List Byte) (s : State) : (transferDone i ok data s).kept = s.kept := by
  unfold transferDone
  repeat' first
    | (simp [State.kept_ite]; done)
    | (refine (foldl_kept _ (fun _ _ => ?_) _ _).trans ?_)
    | split
    | intro _
    | simp [State.kept_ite]

@[simp] theorem flashDone_kept (i : Nat) (ok : Bool) (s : State) : (flashDone i ok s).kept = s.kept := by
  unfold flashDone
  repeat' first
    | (simp [State.kept_ite]; done)
    | (refine (foldl_kept _ (fun _ _ => ?_) _ _).trans ?_)
    | split
    | intro _
    | simp [State.kept_ite]

@[simp] theorem modLov_kept (f : Lovor → Lovor) (s : State) : (modLov f s).kept = s.kept := by simp [modLov, State.kept_ite]

@[simp] theorem refresh_kept (st : Nat) (p : Nat) (s : State) : (refresh st p s).kept = s.kept := by simp [refresh, State.kept_ite]

@[simp] theorem planChange_kept (s : State) : (planChange s).kept = s.kept := by
  unfold planChange
  split <;> simp [State.kept_ite]

@[simp] theorem scrub_kept (b : Nat) (res : ReadResult) (s : State) : (scrub b res s).kept = s.kept := by simp [scrub, State.kept_ite]

@[simp] theorem ceRate_kept (n : Nat) (s : State) : (ceRate n s).kept = s.kept := by simp [ceRate, State.kept_ite]

@[simp] theorem stkFault_kept (n : Nat) (s : State) : (stkFault n s).kept = s.kept := by
  rw [stkFault.eq_def]
  exact (allLinksDown_kept _).trans ((raise_kept _ _).trans (modStack_kept _ _ _))

@[simp] theorem coolReturn_kept (n : Nat) (s : State) : (coolReturn n s).kept = s.kept := by simp [coolReturn, State.kept_ite]

@[simp] theorem modPins_kept (f : Pins → Pins) (s : State) : (modPins f s).kept = s.kept := by simp [modPins, State.kept_ite]

@[simp] theorem modTherm_kept (f : Therm → Therm) (s : State) : (modTherm f s).kept = s.kept := by simp [modTherm, State.kept_ite]

@[simp] theorem aonRaise_kept (o : Occ) (s : State) : (aonRaise o s).kept = s.kept := by simp [aonRaise, State.kept_ite]

@[simp] theorem powerGood_kept (recov : Bool) (test : Bool) (s : State) : (powerGood recov test s).kept = s.kept := by simp [powerGood, State.kept_ite]

@[simp] theorem considerSlot_kept (k : Nat) (s : State) : (considerSlot k s).kept = s.kept := by
  unfold considerSlot
  repeat' first
    | (simp [State.kept_ite]; done)
    | (refine (foldl_kept _ (fun _ _ => ?_) _ _).trans ?_)
    | split
    | intro _
    | simp [State.kept_ite]

@[simp] theorem bootRecovery_kept (s : State) : (bootRecovery s).kept = s.kept := by simp [bootRecovery, State.kept_ite]

@[simp] theorem bootRun_kept (k : Nat) (s : State) : (bootRun k s).kept = s.kept := by simp [bootRun, State.kept_ite]

@[simp] theorem boot2_kept (s : State) : (boot2 s).kept = s.kept := by
  unfold boot2
  repeat' first
    | (simp [State.kept_ite]; done)
    | (refine (foldl_kept _ (fun _ _ => ?_) _ _).trans ?_)
    | split
    | intro _
    | simp [State.kept_ite]

@[simp] theorem calApply_kept (b : List Byte) (valid : Bool) (which : Nat) (s : State) : (calApply b valid which s).kept = s.kept := by simp [calApply, State.kept_ite]

@[simp] theorem boot3_kept (s : State) : (boot3 s).kept = s.kept := by
  unfold boot3
  repeat' first
    | (simp [State.kept_ite]; done)
    | (refine (foldl_kept _ (fun _ _ => ?_) _ _).trans ?_)
    | split

@[simp] theorem reportSurvivor_kept (code : Nat) (s : State) : (reportSurvivor code s).kept = s.kept := by simp [reportSurvivor, State.kept_ite]

@[simp] theorem boot4_kept (s : State) : (boot4 s).kept = s.kept := by
  unfold boot4
  repeat' first
    | (simp [State.kept_ite]; done)
    | (refine (foldl_kept _ (fun _ _ => ?_) _ _).trans ?_)
    | split

@[simp] theorem boot5_kept (excl : List (Nat × Word)) (s : State) : (boot5 excl s).kept = s.kept := by
  unfold boot5
  repeat' first
    | (simp [State.kept_ite]; done)
    | (refine (foldl_kept _ (fun _ _ => ?_) _ _).trans ?_)
    | split

@[simp] theorem bootLayFail_kept (code : Nat) (chk : Nat) (s : State) : (bootLayFail code chk s).kept = s.kept := by simp [bootLayFail, State.kept_ite]

@[simp] theorem boot6_kept (s : State) : (boot6 s).kept = s.kept := by
  unfold boot6
  split
  · rfl
  · split
    · rfl
    · split
      · exact bootLayFail_kept _ _ _
      · dsimp only
        split
        · exact (bootLayFail_kept _ _ _).trans (lovStore_kept _ _ _)
        · exact (activate_kept _ _ _ _).trans (lovStore_kept _ _ _)

@[simp] theorem reportIrq_kept (s : State) : (reportIrq s).kept = s.kept := by
  unfold reportIrq
  repeat' first
    | (simp [State.kept_ite]; done)
    | (refine (foldl_kept _ (fun _ _ => ?_) _ _).trans ?_)
    | split
    | intro _
    | simp [State.kept_ite]

@[simp] theorem boot7_kept (s : State) : (boot7 s).kept = s.kept := by simp [boot7, State.kept_ite]

@[simp] theorem boot_kept (excl : List (Nat × Word)) (s : State) : (boot excl s).kept = s.kept := by simp [boot, State.kept_ite]

@[simp] theorem stopIslands_kept (s : State) : (stopIslands s).kept = s.kept := by simp [stopIslands, State.kept_ite]

@[simp] theorem railFault_kept (r : Nat) (mv : Nat) (s : State) : (railFault r mv s).kept = s.kept := by simp [railFault, State.kept_ite]

@[simp] theorem refFault_kept (khz : Nat) (s : State) : (refFault khz s).kept = s.kept := by simp [refFault, State.kept_ite]

@[simp] theorem sensorRead_kept (i : Nat) (raw : Option Int) (s : State) : (sensorRead i raw s).kept = s.kept := by
  unfold sensorRead
  repeat' first
    | (simp [State.kept_ite]; done)
    | (refine (foldl_kept _ (fun _ _ => ?_) _ _).trans ?_)
    | split
    | intro _
    | simp [State.kept_ite]

@[simp] theorem stackHeat_kept (s : State) (n : Nat) : (stackHeat s n).kept = s.kept := by simp [stackHeat, State.kept_ite]

@[simp] theorem respond_kept (s : State) : (respond s).kept = s.kept := by simp [respond, State.kept_ite]

@[simp] theorem trip_kept (s : State) : (trip s).kept = s.kept := by
  unfold trip
  repeat' first
    | (simp [State.kept_ite]; done)
    | (refine (foldl_kept _ (fun _ _ => ?_) _ _).trans ?_)
    | split
    | intro _
    | simp [State.kept_ite]

@[simp] theorem sensors_kept (raw : List (Option Int)) (s : State) : (sensors raw s).kept = s.kept := by
  unfold sensors
  split
  · rfl
  · refine (trip_kept _).trans ((respond_kept _).trans ?_)
    exact (foldl_kept _ (fun t n => stackHeat_kept t n) _ _).trans (foldl_kept _ (fun t i => sensorRead_kept i _ t) _ _)

@[simp] theorem powerRead_kept (k : Nat) (mw : Nat) (s : State) : (powerRead k mw s).kept = s.kept := by simp [powerRead, State.kept_ite]

@[simp] theorem power_kept (rails avg10ms avg1ms avg100us : List Nat) (s : State) : (power rails avg10ms avg1ms avg100us s).kept = s.kept := by simp [power, State.kept_ite]

@[simp] theorem emergClear_kept (s : State) : (emergClear s).kept = s.kept := by simp [emergClear, State.kept_ite]

@[simp] theorem wantIdle_kept (s : State) : (wantIdle s).kept = s.kept := by simp [wantIdle, State.kept_ite]

@[simp] theorem jtagTake_kept (i : JtagInstr) (s : State) : (jtagTake i s).kept = s.kept := by
  unfold jtagTake
  repeat' first
    | (simp [State.kept_ite]; done)
    | (refine (foldl_kept _ (fun _ _ => ?_) _ _).trans ?_)
    | split
    | intro _
    | simp [State.kept_ite]

@[simp] theorem modMon_kept (f : Monitor → Monitor) (s : State) : (modMon f s).kept = s.kept := by simp [modMon, State.kept_ite]

@[simp] theorem monKeyWrite_kept (i : Nat) (w : Word) (s : State) : (monKeyWrite i w s).kept = s.kept := by simp [monKeyWrite, State.kept_ite]

@[simp] theorem monCtlWrite_kept (w : Nat) (s : State) : (monCtlWrite w s).kept = s.kept := by simp [monCtlWrite, State.kept_ite]

@[simp] theorem attCtlWrite_kept (w : Nat) (s : State) : (attCtlWrite w s).kept = s.kept := by simp [attCtlWrite, State.kept_ite]

@[simp] theorem shapeSet_kept (on : Bool) (s : State) : (shapeSet on s).kept = s.kept := by simp [shapeSet, State.kept_ite]

@[simp] theorem msixWrite_kept (v : Nat) (half : Nat) (w : Word) (s : State) : (msixWrite v half w s).kept = s.kept := by simp [msixWrite, State.kept_ite]

@[simp] theorem writeHif_kept (o : Nat) (w : Word) (s : State) : (writeHif o w s).kept = s.kept := by simp [writeHif, State.kept_ite]

@[simp] theorem writeDma_kept (o : Nat) (v : Nat) (s : State) : (writeDma o v s).kept = s.kept := by
  unfold writeDma
  repeat' first
    | (simp [State.kept_ite]; done)
    | (refine (foldl_kept _ (fun _ _ => ?_) _ _).trans ?_)
    | split

@[simp] theorem quotaWrite_kept (r : Nat) (v : Nat) (s : State) : (quotaWrite r v s).kept = s.kept := by simp [quotaWrite, State.kept_ite]

@[simp] theorem writePool_kept (o : Nat) (v : Nat) (s : State) : (writePool o v s).kept = s.kept := by simp [writePool, State.kept_ite]

@[simp] theorem writeSync_kept (o : Nat) (v : Nat) (s : State) : (writeSync o v s).kept = s.kept := by
  unfold writeSync
  repeat' first
    | (simp [State.kept_ite]; done)
    | (refine (foldl_kept _ (fun _ _ => ?_) _ _).trans ?_)
    | split

@[simp] theorem mirWrite_kept (i : Nat) (r : Nat) (w : Word) (s : State) : (mirWrite i r w s).kept = s.kept := by
  unfold mirWrite
  split <;> simp [State.kept_ite]

@[simp] theorem writeSwc_kept (o : Nat) (w : Word) (s : State) : (writeSwc o w s).kept = s.kept := by simp [writeSwc, State.kept_ite]

@[simp] theorem writeRte_kept (o : Nat) (v : Nat) (s : State) : (writeRte o v s).kept = s.kept := by simp [writeRte, State.kept_ite]

@[simp] theorem policerWrite_kept (k : Nat) (r : Nat) (v : Nat) (s : State) : (policerWrite k r v s).kept = s.kept := by
  unfold policerWrite
  split <;> simp [State.kept_ite]

@[simp] theorem writeShp_kept (o : Nat) (v : Nat) (s : State) : (writeShp o v s).kept = s.kept := by
  unfold writeShp
  repeat' first
    | (simp [State.kept_ite]; done)
    | (refine (foldl_kept _ (fun _ _ => ?_) _ _).trans ?_)
    | split

@[simp] theorem lnkWrite_kept (q : Nat) (o : Nat) (v : Nat) (s : State) : (lnkWrite q o v s).kept = s.kept := by simp [lnkWrite, State.kept_ite]

@[simp] theorem writeNwt_kept (o : Nat) (v : Nat) (s : State) : (writeNwt o v s).kept = s.kept := by simp [writeNwt, State.kept_ite]

@[simp] theorem writeSch_kept (o : Nat) (v : Nat) (s : State) : (writeSch o v s).kept = s.kept := by simp [writeSch, State.kept_ite]

@[simp] theorem writeLog_kept (o : Nat) (w : Word) (s : State) : (writeLog o w s).kept = s.kept := by simp [writeLog, State.kept_ite]

@[simp] theorem rasInject_kept (v : Nat) (s : State) : (rasInject v s).kept = s.kept := by simp [rasInject, State.kept_ite]

@[simp] theorem rasSetWrite_kept (w : Nat) (v : Nat) (s : State) : (rasSetWrite w v s).kept = s.kept := by
  unfold rasSetWrite
  repeat' first
    | (simp [State.kept_ite]; done)
    | (refine (foldl_kept _ (fun _ _ => ?_) _ _).trans ?_)
    | split

@[simp] theorem evenWrite_kept (w : Nat) (v : Nat) (s : State) : (evenWrite w v s).kept = s.kept := by
  unfold evenWrite
  repeat' first
    | (simp [State.kept_ite]; done)
    | (refine (foldl_kept _ (fun _ _ => ?_) _ _).trans ?_)
    | split

@[simp] theorem irqenWrite_kept (w : Nat) (v : Nat) (s : State) : (irqenWrite w v s).kept = s.kept := by
  unfold irqenWrite
  repeat' first
    | (simp [State.kept_ite]; done)
    | (refine (foldl_kept _ (fun _ _ => ?_) _ _).trans ?_)
    | split

@[simp] theorem writeRas_kept (o : Nat) (v : Nat) (s : State) : (writeRas o v s).kept = s.kept := by simp [writeRas, State.kept_ite]

@[simp] theorem taggedWrite_kept (q : Nat) (o : Nat) (src : Nat) (addr : Nat) (data : List Byte) (s : State) : (taggedWrite q o src addr data s).kept = s.kept := by simp [taggedWrite, State.kept_ite]

@[simp] theorem heldRejected_kept (h : HeldSig) (code : Nat) (s : State) : (heldRejected h code s).kept = s.kept := by
  unfold heldRejected
  repeat' first
    | (simp [State.kept_ite]; done)
    | (refine (foldl_kept _ (fun _ _ => ?_) _ _).trans ?_)
    | split

@[simp] theorem heldNext_kept (o : Nat) (s : State) : (heldNext o s).kept = s.kept := by
  unfold heldNext
  repeat' first
    | (simp [State.kept_ite]; done)
    | split
    | ((repeat (rename_i heq; first | (have ht := congrArg Prod.fst heq; dsimp only at ht; subst ht; clear heq) | clear heq | revert heq)); intros; simp [State.kept_ite]; done)

@[simp] theorem monLine_kept (text : String) (s : State) : (monLine text s).kept = s.kept := by simp [monLine, State.kept_ite]

@[simp] theorem monLast_kept (text : String) (s : State) : (monLast text s).kept = s.kept := by simp [monLast, State.kept_ite]

@[simp] theorem monOk_kept (s : State) : (monOk s).kept = s.kept := by simp [monOk, State.kept_ite]

@[simp] theorem monVals_kept (vs : List Nat) (s : State) : (monVals vs s).kept = s.kept := by
  unfold monVals
  repeat' first
    | (simp [State.kept_ite]; done)
    | (refine (foldl_kept _ (fun _ _ => ?_) _ _).trans ?_)
    | split

@[simp] theorem monErrLine_kept (code : Nat) (s : State) : (monErrLine code s).kept = s.kept := by simp [monErrLine, State.kept_ite]

@[simp] theorem monErr_kept (code : Nat) (s : State) : (monErr code s).kept = s.kept := by simp [monErr, State.kept_ite]

@[simp] theorem monSyntax_kept (s : State) : (monSyntax s).kept = s.kept := by simp [monSyntax, State.kept_ite]

@[simp] theorem needUnlock_kept (f : State → State) (s : State) (h_f : ∀ x0, (f x0).kept = x0.kept) : (needUnlock f s).kept = s.kept := by simp [needUnlock, State.kept_ite, h_f]

@[simp] theorem monHelp_kept (s : State) : (monHelp s).kept = s.kept := by simp [monHelp, State.kept_ite]

@[simp] theorem monVer_kept (s : State) : (monVer s).kept = s.kept := by simp [monVer, State.kept_ite]

@[simp] theorem monStat_kept (s : State) : (monStat s).kept = s.kept := by simp [monStat, State.kept_ite]

@[simp] theorem monMap_kept (w : Nat) (s : State) : (monMap w s).kept = s.kept := by simp [monMap, State.kept_ite]

@[simp] theorem monPeek_kept (o : Nat) (n : Nat) (s : State) : (monPeek o n s).kept = s.kept := by simp [monPeek, State.kept_ite]

@[simp] theorem monLog_kept (n : Nat) (s : State) : (monLog n s).kept = s.kept := by simp [monLog, State.kept_ite]

@[simp] theorem monEye_kept (q : Nat) (lane : Nat) (s : State) : (monEye q lane s).kept = s.kept := by simp [monEye, State.kept_ite]

@[simp] theorem monBaud_kept (r : Nat) (s : State) : (monBaud r s).kept = s.kept := by simp [monBaud, State.kept_ite]

@[simp] theorem monChal_kept (s : State) : (monChal s).kept = s.kept := by simp [monChal, State.kept_ite]

@[simp] theorem tokenWrong_kept (s : State) : (tokenWrong s).kept = s.kept := by simp [tokenWrong, State.kept_ite]

@[simp] theorem monUnlock_kept (t : List Nat) (s : State) : (monUnlock t s).kept = s.kept := by simp [monUnlock, State.kept_ite]

@[simp] theorem monLock_kept (s : State) : (monLock s).kept = s.kept := by simp [monLock, State.kept_ite]

@[simp] theorem stallCycle_kept (s : State) : (stallCycle s).kept = s.kept := by
  unfold stallCycle
  repeat' first
    | (simp [State.kept_ite]; done)
    | (refine (foldl_kept _ (fun _ _ => ?_) _ _).trans ?_)
    | split

@[simp] theorem tick_kept (s : State) : (tick s).kept = s.kept := by simp [tick, State.kept_ite]

/-! The fuse commands and the registers behind them. -/

theorem pending_of_kept {s t : State} (h : t.kept = s.kept) : t.pending = s.pending :=
  congrArg (fun k => k.2.2.2.2) h

/-- The fuses may be read through `kept`: what keeps it keeps their rule. -/
theorem ok_of_kept {s t : State} (h : t.kept = s.kept) (hs : s.fuse.ok) : t.fuse.ok := by
  simp only [State.kept, Prod.mk.injEq] at h
  obtain ⟨h1, h2, h3, h4, -⟩ := h
  unfold Fuses.ok at *
  rw [h1, h2, h3, h4]
  exact hs

theorem burnt_of_kept {s t : State} (h : t.kept = s.kept) : s.fuse.onlyBurnt t.fuse := by
  simp only [State.kept, Prod.mk.injEq] at h
  obtain ⟨h1, h2, h3, -, -⟩ := h
  exact ⟨fun k hk => h1.trans hk, fun hk => h2.trans hk, Nat.le_of_eq h3.symm⟩

/-- What an operation on the fuses may do: their rule stays, nothing is unprogrammed, and the queue is left alone. -/
def FuseStep (s t : State) : Prop := (s.fuse.ok → t.fuse.ok ∧ s.fuse.onlyBurnt t.fuse) ∧ t.pending = s.pending

theorem fuseStep_of_kept {s t : State} (h : t.kept = s.kept) : FuseStep s t :=
  ⟨fun hs => ⟨ok_of_kept h hs, burnt_of_kept h⟩, pending_of_kept h⟩

theorem FuseStep.trans {s t u : State} (h1 : FuseStep s t) (h2 : FuseStep t u) : FuseStep s u := by
  refine ⟨fun hs => ?_, h2.2.trans h1.2⟩
  obtain ⟨ht, hb⟩ := h1.1 hs
  obtain ⟨hu, hc⟩ := h2.1 ht
  exact ⟨hu, fun k hk => hc.1 k (hb.1 k hk), fun hk => hc.2.1 (hb.2.1 hk), Nat.le_trans hb.2.2 hc.2.2⟩

/-- Fields of the fuses that are no fuse leave the rule alone. -/
theorem modFuse_kept (f : Fuses → Fuses) (s : State) (h1 : (f s.fuse).custkey = s.fuse.custkey)
    (h2 : (f s.fuse).sigreq = s.fuse.sigreq) (h3 : (f s.fuse).svn = s.fuse.svn) (h4 : (f s.fuse).busy = s.fuse.busy) :
    (modFuse f s).kept = s.kept := by
  show ((f s.fuse).custkey, (f s.fuse).sigreq, (f s.fuse).svn, (f s.fuse).busy, s.pending) = s.kept
  rw [h1, h2, h3, h4]
  rfl

theorem fuseStart_step (a c : Nat) (s : State) : FuseStep s (fuseStart a c s) := by
  unfold fuseStart
  split
  · refine fuseStep_of_kept ((raise_kept _ _).trans ?_)
    split
    · rfl
    · exact modFuse_kept _ _ rfl rfl rfl rfl
  · rename_i hr
    refine ⟨fun hs => ⟨⟨?_, ?_, hs.2.2⟩, fun _ hk => hk, fun hk => hk, Nat.le_refl _⟩, rfl⟩
    · intro h
      have h : some a = some 1 := h
      injection h with h
      subst h
      simp only [fuseRefused, Bool.or_eq_true, not_or] at hr
      show s.fuse.custkey = none
      simpa using hr.2.1
    · rintro (h | h)
      · exact hs.2.1 (Or.inl h)
      · have h : some a = some 2 := h
        injection h with h
        subst h
        simp only [fuseRefused, Bool.or_eq_true, not_or] at hr
        have := hr.2
        show s.fuse.custkey.isSome = true
        cases hc : s.fuse.custkey with
        | none => simp [hc] at this
        | some k => rfl

theorem fuseDone_step (s : State) : FuseStep s (fuseDone s) := by
  unfold fuseDone
  split
  · exact fuseStep_of_kept rfl
  · rename_i a ha
    have h2 : ∀ t : State, (logOpen 1 8 (setMeas 1 (shake256 (fuseRecord t) 32) t)).kept = t.kept := by simp
    refine FuseStep.trans ?_ (fuseStep_of_kept (h2 _))
    refine ⟨fun hs => ?_, rfl⟩
    unfold modFuse fuseEffect Fuses.ok Fuses.onlyBurnt
    obtain ⟨h1, h2, h3⟩ := hs
    split
    · have := h1 ha
      refine ⟨⟨by simp, by simp, h3⟩, ?_, fun hk => hk, Nat.le_refl _⟩
      intro k hk
      rw [this] at hk
      cases hk
    · exact ⟨⟨by simp, fun _ => h2 (Or.inr ha), h3⟩, fun _ hk => hk, fun _ => rfl, Nat.le_refl _⟩
    · refine ⟨⟨by simp, ?_, ?_⟩, fun _ hk => hk, fun hk => hk, Nat.le_max_left _ _⟩
      · rintro (h | h)
        · exact h2 (Or.inl h)
        · cases h
      · exact Nat.max_le.mpr ⟨h3, Nat.min_le_left _ _⟩
    · refine ⟨⟨by simp, ?_, h3⟩, fun _ hk => hk, fun hk => hk, Nat.le_refl _⟩
      rintro (h | h)
      · exact h2 (Or.inl h)
      · cases h

theorem fuseCtlWrite_step (w : Nat) (s : State) : FuseStep s (fuseCtlWrite w s) := by
  unfold fuseCtlWrite
  have h : ∀ (c : Prop) [Decidable c], FuseStep s (if c then modFuse (fun f => { f with done := false }) s else s) := by
    intro c _
    split
    · exact fuseStep_of_kept (modFuse_kept _ _ rfl rfl rfl rfl)
    · exact fuseStep_of_kept rfl
  dsimp only
  generalize bits w 2 0 = a
  cases a with
  | zero => exact h _
  | succ a => exact FuseStep.trans (h _) (fuseStart_step _ _ _)

theorem writeGlb_step (o : Nat) (w : Word) (s : State) : FuseStep s (writeGlb o w s) := by
  unfold writeGlb
  dsimp only
  repeat' split
  all_goals first
    | exact fuseCtlWrite_step _ _
    | exact fuseStep_of_kept (modFuse_kept _ _ rfl rfl rfl rfl)
    | exact fuseStep_of_kept (by simp)

theorem fuseStep_ite {s a b : State} (c : Prop) [Decidable c] (ha : FuseStep s a) (hb : FuseStep s b) :
    FuseStep s (if c then a else b) := by
  split
  · exact ha
  · exact hb

theorem regStore_step (o : Nat) (w : Word) (s : State) : FuseStep s (regStore o w s) := by
  unfold regStore
  dsimp only
  refine fuseStep_ite _ (writeGlb_step _ _ _) ?_
  exact fuseStep_of_kept (by simp [State.kept_ite])

theorem regWrite_step (o : Nat) (w : Word) (width : Nat) (s : State) : FuseStep s (regWrite o w width s) := by
  unfold regWrite
  repeat' split
  all_goals first
    | exact regStore_step _ _ _
    | exact fuseStep_of_kept (by simp)

theorem monPoke_step (o : Nat) (v : Word) (s : State) : FuseStep s (monPoke o v s) := by
  unfold monPoke needUnlock
  split
  · dsimp only
    split
    · exact FuseStep.trans (regWrite_step o v 8 s) (fuseStep_of_kept (by simp))
    · exact FuseStep.trans (regWrite_step o v 8 s) (fuseStep_of_kept (by simp))
  · exact fuseStep_of_kept (by simp)

theorem keptOver_step (p : Pins) (s : State) : FuseStep s (keptOver p s) := by
  refine ⟨fun hs => ⟨⟨by simp [keptOver], ?_, hs.2.2⟩, fun _ hk => hk, fun hk => hk, Nat.le_refl _⟩, rfl⟩
  rintro (h | h)
  · exact hs.2.1 (Or.inl h)
  · cases h

end Sys2Proof.Machine
end

