-- ==== Sys2Proof/Laws/Table.lean ====
section
/-! SUPPORT. Read after write for the sparse tables and the byte memories, and that writes keep their canonical
form. -/

namespace Sys2Proof.Machine

variable {α : Type}

@[simp] theorem tget_nil (d : α) (k : Nat) : tget d [] k = d := rfl

theorem tget_cons (d : α) (i : Nat) (v : α) (r : Table α) (k : Nat) :
    tget d ((i, v) :: r) k = if i = k then v else tget d r k := rfl

/-- A key that no entry names reads as the default. -/
theorem tget_absent (d : α) (t : Table α) (k : Nat) (h : ∀ e ∈ t, e.1 ≠ k) : tget d t k = d := by
  induction t with
  | nil => rfl
  | cons e r ih =>
    obtain ⟨i, v⟩ := e
    rw [tget_cons, if_neg (h (i, v) (by simp))]
    exact ih (fun e he => h e (by simp [he]))

/-- Entries before the ones that may hold the key are passed over. -/
theorem tget_append (d : α) (t u : Table α) (k : Nat) (h : ∀ e ∈ t, e.1 ≠ k) : tget d (t ++ u) k = tget d u k := by
  induction t with
  | nil => rfl
  | cons e r ih =>
    obtain ⟨i, v⟩ := e
    rw [List.cons_append, tget_cons, if_neg (h (i, v) (by simp))]
    exact ih (fun e he => h e (by simp [he]))

theorem mem_takeWhile_key {p : Nat × α → Bool} {t : Table α} {e : Nat × α} (h : e ∈ t.takeWhile p) : p e = true := by
  induction t with
  | nil => simp at h
  | cons a r ih =>
    rw [List.takeWhile_cons] at h
    split at h
    · rcases List.mem_cons.mp h with h | h
      · rwa [h]
      · exact ih h
    · simp at h

/-- In a sorted table, what is left after dropping the keys up to `k` has keys above `k`. -/
theorem mem_dropWhile_le {t : Table α} (ht : tsorted t) {k : Nat} {e : Nat × α}
    (h : e ∈ t.dropWhile (fun e => decide (e.1 ≤ k))) : k < e.1 := by
  induction t with
  | nil => simp at h
  | cons a r ih =>
    obtain ⟨ha, hr⟩ := List.pairwise_cons.mp ht
    rw [List.dropWhile_cons] at h
    split at h
    · exact ih hr h
    · rename_i hk
      simp only [decide_eq_true_eq, Nat.not_le] at hk
      rcases List.mem_cons.mp h with h | h
      · rwa [h]
      · exact Nat.lt_trans hk (ha e h)

/-- The value just written is read back. -/
theorem tget_tset_self [DecidableEq α] (d : α) {t : Table α} (ht : tsorted t) (k : Nat) (v : α) :
    tget d (tset d t k v) k = v := by
  unfold tset
  rw [List.append_assoc, tget_append]
  · split
    · rename_i hv
      rw [List.nil_append, tget_absent, hv]
      intro e he
      have := mem_dropWhile_le ht he
      omega
    · simp [tget_cons]
  · intro e he
    have := mem_takeWhile_key he
    simp only [decide_eq_true_eq] at this
    omega

/-- A value that is not the default is read back from any table. -/
theorem tget_tset_ne_default [DecidableEq α] (d : α) (t : Table α) (k : Nat) (v : α) (hv : v ≠ d) :
    tget d (tset d t k v) k = v := by
  unfold tset
  rw [List.append_assoc, tget_append]
  · simp [hv, tget_cons]
  · intro e he
    have := mem_takeWhile_key he
    simp only [decide_eq_true_eq] at this
    omega

theorem tget_takeWhile (d : α) (t : Table α) (k j : Nat) (h : j < k) (ht : tsorted t) :
    tget d (t.takeWhile (fun e => decide (e.1 < k))) j = tget d t j := by
  induction t with
  | nil => rfl
  | cons e r ih =>
    obtain ⟨i, v⟩ := e
    obtain ⟨ha, hr⟩ := List.pairwise_cons.mp ht
    rw [List.takeWhile_cons]
    split
    · rw [tget_cons, tget_cons, ih hr]
    · rename_i hk
      simp only [decide_eq_true_eq, Nat.not_lt] at hk
      rw [tget_nil, tget_cons, if_neg (by omega), tget_absent]
      intro e he
      have : i < e.1 := ha e he
      omega

theorem tget_dropWhile (d : α) (t : Table α) (k j : Nat) (h : k < j) :
    tget d (t.dropWhile (fun e => decide (e.1 ≤ k))) j = tget d t j := by
  induction t with
  | nil => rfl
  | cons e r ih =>
    obtain ⟨i, v⟩ := e
    rw [List.dropWhile_cons]
    split
    · rename_i hk
      simp only [decide_eq_true_eq] at hk
      rw [tget_cons, if_neg (by omega), ih]
    · rfl

/-- A write leaves every other key alone. -/
theorem tget_tset_other [DecidableEq α] (d : α) {t : Table α} (ht : tsorted t) (k j : Nat) (v : α) (h : j ≠ k) :
    tget d (tset d t k v) j = tget d t j := by
  unfold tset
  have hmid : ∀ e ∈ (if v = d then [] else [(k, v)] : Table α), e.1 ≠ j := by
    intro e he
    split at he
    · simp at he
    · simp only [List.mem_singleton] at he
      rw [he]
      exact fun hk => h hk.symm
  rcases Nat.lt_or_gt_of_ne h with hj | hj
  · rw [List.append_assoc, ← tget_takeWhile d t k j hj ht]
    induction t.takeWhile (fun e => decide (e.1 < k)) with
    | nil =>
      rw [List.nil_append, tget_append _ _ _ _ hmid, tget_absent]
      · rfl
      · intro e he
        have := mem_dropWhile_le ht he
        omega
    | cons e r ih =>
      obtain ⟨i, w⟩ := e
      rw [List.cons_append, tget_cons, tget_cons, ih]
  · rw [tget_append, tget_dropWhile d t k j hj]
    intro e he
    rcases List.mem_append.mp he with he | he
    · have := mem_takeWhile_key he
      simp only [decide_eq_true_eq] at this
      omega
    · exact hmid e he

theorem tsorted_takeWhile {p : Nat × α → Bool} {t : Table α} (ht : tsorted t) : tsorted (t.takeWhile p) :=
  List.Pairwise.sublist (List.takeWhile_sublist p) ht

theorem tsorted_dropWhile {p : Nat × α → Bool} {t : Table α} (ht : tsorted t) : tsorted (t.dropWhile p) :=
  List.Pairwise.sublist (List.dropWhile_sublist p) ht

theorem tsorted_filter {p : Nat × α → Bool} {t : Table α} (ht : tsorted t) : tsorted (t.filter p) :=
  List.Pairwise.sublist List.filter_sublist ht

theorem tsorted_map {β : Type} {f : Nat × α → Nat × β} (hf : ∀ e, (f e).1 = e.1) {t : Table α} (ht : tsorted t) :
    tsorted (t.map f) := by
  unfold tsorted
  rw [List.pairwise_map]
  exact List.Pairwise.imp (fun h => by rw [hf, hf]; exact h) ht

/-- A write keeps the keys in order. -/
theorem tsorted_tset [DecidableEq α] (d : α) {t : Table α} (ht : tsorted t) (k : Nat) (v : α) :
    tsorted (tset d t k v) := by
  unfold tset tsorted
  rw [List.pairwise_append, List.pairwise_append]
  refine ⟨⟨tsorted_takeWhile ht, ?_, ?_⟩, tsorted_dropWhile ht, ?_⟩
  · split <;> simp
  · intro a ha b hb
    have := mem_takeWhile_key ha
    simp only [decide_eq_true_eq] at this
    split at hb
    · simp at hb
    · simp only [List.mem_singleton] at hb
      rw [hb]
      exact this
  · intro a ha b hb
    have hb' := mem_dropWhile_le ht hb
    rcases List.mem_append.mp ha with ha | ha
    · have := mem_takeWhile_key ha
      simp only [decide_eq_true_eq] at this
      omega
    · split at ha
      · simp at ha
      · simp only [List.mem_singleton] at ha
        rw [ha]
        exact hb'

theorem twf_iff [DecidableEq α] (d : α) (t : Table α) : twf d t = true ↔ tsorted t ∧ ∀ e ∈ t, e.2 ≠ d := by
  simp [twf, tsorted]

/-- A write keeps the canonical form. -/
theorem twf_tset [DecidableEq α] (d : α) {t : Table α} (ht : twf d t = true) (k : Nat) (v : α) :
    twf d (tset d t k v) = true := by
  rw [twf_iff] at ht ⊢
  refine ⟨tsorted_tset d ht.1 k v, ?_⟩
  intro e he
  unfold tset at he
  rcases List.mem_append.mp he with he | he
  · rcases List.mem_append.mp he with he | he
    · exact ht.2 e (List.takeWhile_sublist _ |>.subset he)
    · split at he
      · simp at he
      · simp only [List.mem_singleton] at he
        rw [he]
        assumption
  · exact ht.2 e (List.dropWhile_sublist _ |>.subset he)

/-- Removing entries keeps the canonical form. -/
theorem twf_filter [DecidableEq α] (d : α) {t : Table α} (ht : twf d t = true) (p : Nat × α → Bool) :
    twf d (t.filter p) = true := by
  rw [twf_iff] at ht ⊢
  exact ⟨List.Pairwise.filter p ht.1, fun e he => ht.2 e (List.mem_of_mem_filter he)⟩

theorem memCells_mem {a : Nat} {bs : List Byte} {e : Nat × Byte} (h : e ∈ memCells a bs) :
    a ≤ e.1 ∧ e.1 < a + bs.length ∧ e.2 ≠ 0 := by
  induction bs generalizing a with
  | nil => simp [memCells] at h
  | cons b r ih =>
    unfold memCells at h
    split at h
    · obtain ⟨h1, h2, h3⟩ := ih h
      simp only [List.length_cons]
      exact ⟨by omega, by omega, h3⟩
    · rename_i hb
      rcases List.mem_cons.mp h with h | h
      · rw [h]
        simp only [List.length_cons]
        exact ⟨Nat.le_refl a, by omega, hb⟩
      · obtain ⟨h1, h2, h3⟩ := ih h
        simp only [List.length_cons]
        exact ⟨by omega, by omega, h3⟩

theorem tsorted_memCells (a : Nat) (bs : List Byte) : tsorted (memCells a bs) := by
  induction bs generalizing a with
  | nil => simp [memCells, tsorted]
  | cons b r ih =>
    unfold memCells
    split
    · exact ih (a + 1)
    · refine List.pairwise_cons.mpr ⟨?_, ih (a + 1)⟩
      intro e he
      have := (memCells_mem he).1
      show a < e.1
      omega

theorem mem_dropWhile_lt {t : Table α} (ht : tsorted t) {k : Nat} {e : Nat × α}
    (h : e ∈ t.dropWhile (fun e => decide (e.1 < k))) : k ≤ e.1 := by
  cases k with
  | zero => omega
  | succ k =>
    have hp : (fun e : Nat × α => decide (e.1 < k + 1)) = (fun e => decide (e.1 ≤ k)) := by
      funext e
      exact decide_eq_decide.mpr Nat.lt_succ_iff
    rw [hp] at h
    exact mem_dropWhile_le ht h

/-- A memory write keeps the canonical form. -/
theorem memWf_memWrite {m : Mem} (hm : memWf m = true) (a : Nat) (bs : List Byte) : memWf (memWrite m a bs) = true := by
  unfold memWf at *
  rw [twf_iff] at hm ⊢
  unfold memWrite
  constructor
  · unfold tsorted
    rw [List.pairwise_append, List.pairwise_append]
    refine ⟨⟨tsorted_takeWhile hm.1, tsorted_memCells a bs, ?_⟩, tsorted_dropWhile hm.1, ?_⟩
    · intro x hx y hy
      have h1 := mem_takeWhile_key hx
      have h2 := (memCells_mem hy).1
      simp only [decide_eq_true_eq] at h1
      omega
    · intro x hx y hy
      have h2 := mem_dropWhile_lt hm.1 hy
      rcases List.mem_append.mp hx with hx | hx
      · have h1 := mem_takeWhile_key hx
        simp only [decide_eq_true_eq] at h1
        omega
      · have h1 := (memCells_mem hx).2.1
        omega
  · intro e he
    rcases List.mem_append.mp he with he | he
    · rcases List.mem_append.mp he with he | he
      · exact hm.2 e (List.takeWhile_sublist _ |>.subset he)
      · exact (memCells_mem he).2.2
    · exact hm.2 e (List.dropWhile_sublist _ |>.subset he)

theorem tget_memCells (a : Nat) (bs : List Byte) (k : Nat) (h1 : a ≤ k) (h2 : k < a + bs.length) :
    tget 0 (memCells a bs) k = bs.getD (k - a) 0 := by
  induction bs generalizing a with
  | nil => simp at h2; omega
  | cons b r ih =>
    simp only [List.length_cons] at h2
    unfold memCells
    by_cases hk : k = a
    · subst hk
      simp only [Nat.sub_self, List.getD_cons_zero]
      split
      · rename_i hb
        rw [tget_absent, hb]
        intro e he
        have := (memCells_mem he).1
        omega
      · simp [tget_cons]
    · have hs : k - a = (k - (a + 1)) + 1 := by omega
      rw [hs, List.getD_cons_succ]
      split
      · exact ih (a + 1) (by omega) (by omega)
      · rw [tget_cons, if_neg (by omega)]
        exact ih (a + 1) (by omega) (by omega)

/-- The bytes just written are read back. -/
theorem memByte_memWrite_in {m : Mem} (hm : tsorted m) (a : Nat) (bs : List Byte) (k : Nat) (h1 : a ≤ k)
    (h2 : k < a + bs.length) : memByte (memWrite m a bs) k = bs.getD (k - a) 0 := by
  unfold memByte memWrite
  rw [List.append_assoc, tget_append]
  · rw [← tget_memCells a bs k h1 h2]
    have hd : ∀ e ∈ m.dropWhile (fun e => decide (e.1 < a + bs.length)), e.1 ≠ k := by
      intro e he
      have := mem_dropWhile_lt hm he
      omega
    have h0 : tget 0 (m.dropWhile (fun e => decide (e.1 < a + bs.length))) k = 0 := tget_absent _ _ _ hd
    induction memCells a bs with
    | nil => rw [List.nil_append, h0]; rfl
    | cons e r ih =>
      obtain ⟨i, v⟩ := e
      rw [List.cons_append, tget_cons, tget_cons, ih]
  · intro e he
    have := mem_takeWhile_key he
    simp only [decide_eq_true_eq] at this
    omega

/-- A memory write leaves every byte outside its range alone. -/
theorem memByte_memWrite_out {m : Mem} (hm : tsorted m) (a : Nat) (bs : List Byte) (k : Nat)
    (h : k < a ∨ a + bs.length ≤ k) : memByte (memWrite m a bs) k = memByte m k := by
  unfold memByte memWrite
  have hmid : ∀ e ∈ memCells a bs, e.1 ≠ k := by
    intro e he
    have := memCells_mem he
    omega
  rcases h with h | h
  · rw [List.append_assoc, ← tget_takeWhile 0 m a k h hm]
    induction m.takeWhile (fun e => decide (e.1 < a)) with
    | nil =>
      rw [List.nil_append, tget_append _ _ _ _ hmid, tget_absent]
      · rfl
      · intro e he
        have := mem_dropWhile_lt hm he
        omega
    | cons e r ih =>
      obtain ⟨i, w⟩ := e
      rw [List.cons_append, tget_cons, tget_cons, ih]
  · rw [tget_append]
    · cases hk : a + bs.length with
      | zero =>
        have : (fun e : Nat × Byte => decide (e.1 < 0)) = fun _ => false := by funext e; simp
        rw [this]
        cases m <;> simp [List.dropWhile]
      | succ n =>
        have : (fun e : Nat × Byte => decide (e.1 < n + 1)) = (fun e => decide (e.1 ≤ n)) := by
          funext e
          exact decide_eq_decide.mpr Nat.lt_succ_iff
        rw [this]
        exact tget_dropWhile 0 m n k (by omega)
    · intro e he
      rcases List.mem_append.mp he with he | he
      · have := mem_takeWhile_key he
        simp only [decide_eq_true_eq] at this
        omega
      · exact hmid e he

end Sys2Proof.Machine
end

