-- ==== Sys2Proof/Laws/State.lean ====
section
/-! SUPPORT. One lemma per field and update: what each change of one part of the state leaves alone, and that the part
just written is read back. -/

namespace Sys2Proof.Machine

@[simp] theorem setNewt_pins (n : Nat) (v : Newt) (s : State) : (setNewt n v s).pins = s.pins := rfl
@[simp] theorem setNewt_ras (n : Nat) (v : Newt) (s : State) : (setNewt n v s).ras = s.ras := rfl
@[simp] theorem setNewt_log (n : Nat) (v : Newt) (s : State) : (setNewt n v s).log = s.log := rfl
@[simp] theorem setNewt_unit (n : Nat) (v : Newt) (s : State) : (setNewt n v s).unit = s.unit := rfl
@[simp] theorem setNewt_lay (n : Nat) (v : Newt) (s : State) : (setNewt n v s).lay = s.lay := rfl
@[simp] theorem setNewt_fw (n : Nat) (v : Newt) (s : State) : (setNewt n v s).fw = s.fw := rfl
@[simp] theorem setNewt_fuse (n : Nat) (v : Newt) (s : State) : (setNewt n v s).fuse = s.fuse := rfl
@[simp] theorem setNewt_att (n : Nat) (v : Newt) (s : State) : (setNewt n v s).att = s.att := rfl
@[simp] theorem setNewt_mon (n : Nat) (v : Newt) (s : State) : (setNewt n v s).mon = s.mon := rfl
@[simp] theorem setNewt_cal (n : Nat) (v : Newt) (s : State) : (setNewt n v s).cal = s.cal := rfl
@[simp] theorem setNewt_hif (n : Nat) (v : Newt) (s : State) : (setNewt n v s).hif = s.hif := rfl
@[simp] theorem setNewt_nonce (n : Nat) (v : Newt) (s : State) : (setNewt n v s).nonce = s.nonce := rfl
@[simp] theorem setNewt_nextJob (n : Nat) (v : Newt) (s : State) : (setNewt n v s).nextJob = s.nextJob := rfl
@[simp] theorem setNewt_jobs (n : Nat) (v : Newt) (s : State) : (setNewt n v s).jobs = s.jobs := rfl
@[simp] theorem setNewt_colls (n : Nat) (v : Newt) (s : State) : (setNewt n v s).colls = s.colls := rfl
@[simp] theorem setNewt_sync (n : Nat) (v : Newt) (s : State) : (setNewt n v s).sync = s.sync := rfl
@[simp] theorem setNewt_sch (n : Nat) (v : Newt) (s : State) : (setNewt n v s).sch = s.sch := rfl
@[simp] theorem setNewt_swc (n : Nat) (v : Newt) (s : State) : (setNewt n v s).swc = s.swc := rfl
@[simp] theorem setNewt_rte (n : Nat) (v : Newt) (s : State) : (setNewt n v s).rte = s.rte := rfl
@[simp] theorem setNewt_shp (n : Nat) (v : Newt) (s : State) : (setNewt n v s).shp = s.shp := rfl
@[simp] theorem setNewt_quads (n : Nat) (v : Newt) (s : State) : (setNewt n v s).quads = s.quads := rfl
@[simp] theorem setNewt_lov (n : Nat) (v : Newt) (s : State) : (setNewt n v s).lov = s.lov := rfl
@[simp] theorem setNewt_pool (n : Nat) (v : Newt) (s : State) : (setNewt n v s).pool = s.pool := rfl
@[simp] theorem setNewt_dma (n : Nat) (v : Newt) (s : State) : (setNewt n v s).dma = s.dma := rfl
@[simp] theorem setNewt_therm (n : Nat) (v : Newt) (s : State) : (setNewt n v s).therm = s.therm := rfl
@[simp] theorem setNewt_hostMem (n : Nat) (v : Newt) (s : State) : (setNewt n v s).hostMem = s.hostMem := rfl
@[simp] theorem setNewt_out (n : Nat) (v : Newt) (s : State) : (setNewt n v s).out = s.out := rfl
@[simp] theorem setNewt_free (n : Nat) (v : Newt) (s : State) : (setNewt n v s).free = s.free := rfl
@[simp] theorem setNewt_pending (n : Nat) (v : Newt) (s : State) : (setNewt n v s).pending = s.pending := rfl
@[simp] theorem setJob_pins (j : Nat) (v : Job) (s : State) : (setJob j v s).pins = s.pins := rfl
@[simp] theorem setJob_ras (j : Nat) (v : Job) (s : State) : (setJob j v s).ras = s.ras := rfl
@[simp] theorem setJob_log (j : Nat) (v : Job) (s : State) : (setJob j v s).log = s.log := rfl
@[simp] theorem setJob_unit (j : Nat) (v : Job) (s : State) : (setJob j v s).unit = s.unit := rfl
@[simp] theorem setJob_lay (j : Nat) (v : Job) (s : State) : (setJob j v s).lay = s.lay := rfl
@[simp] theorem setJob_fw (j : Nat) (v : Job) (s : State) : (setJob j v s).fw = s.fw := rfl
@[simp] theorem setJob_fuse (j : Nat) (v : Job) (s : State) : (setJob j v s).fuse = s.fuse := rfl
@[simp] theorem setJob_att (j : Nat) (v : Job) (s : State) : (setJob j v s).att = s.att := rfl
@[simp] theorem setJob_mon (j : Nat) (v : Job) (s : State) : (setJob j v s).mon = s.mon := rfl
@[simp] theorem setJob_cal (j : Nat) (v : Job) (s : State) : (setJob j v s).cal = s.cal := rfl
@[simp] theorem setJob_hif (j : Nat) (v : Job) (s : State) : (setJob j v s).hif = s.hif := rfl
@[simp] theorem setJob_nonce (j : Nat) (v : Job) (s : State) : (setJob j v s).nonce = s.nonce := rfl
@[simp] theorem setJob_nextJob (j : Nat) (v : Job) (s : State) : (setJob j v s).nextJob = s.nextJob := rfl
@[simp] theorem setJob_colls (j : Nat) (v : Job) (s : State) : (setJob j v s).colls = s.colls := rfl
@[simp] theorem setJob_newts (j : Nat) (v : Job) (s : State) : (setJob j v s).newts = s.newts := rfl
@[simp] theorem setJob_sync (j : Nat) (v : Job) (s : State) : (setJob j v s).sync = s.sync := rfl
@[simp] theorem setJob_sch (j : Nat) (v : Job) (s : State) : (setJob j v s).sch = s.sch := rfl
@[simp] theorem setJob_swc (j : Nat) (v : Job) (s : State) : (setJob j v s).swc = s.swc := rfl
@[simp] theorem setJob_rte (j : Nat) (v : Job) (s : State) : (setJob j v s).rte = s.rte := rfl
@[simp] theorem setJob_shp (j : Nat) (v : Job) (s : State) : (setJob j v s).shp = s.shp := rfl
@[simp] theorem setJob_quads (j : Nat) (v : Job) (s : State) : (setJob j v s).quads = s.quads := rfl
@[simp] theorem setJob_lov (j : Nat) (v : Job) (s : State) : (setJob j v s).lov = s.lov := rfl
@[simp] theorem setJob_pool (j : Nat) (v : Job) (s : State) : (setJob j v s).pool = s.pool := rfl
@[simp] theorem setJob_dma (j : Nat) (v : Job) (s : State) : (setJob j v s).dma = s.dma := rfl
@[simp] theorem setJob_therm (j : Nat) (v : Job) (s : State) : (setJob j v s).therm = s.therm := rfl
@[simp] theorem setJob_hostMem (j : Nat) (v : Job) (s : State) : (setJob j v s).hostMem = s.hostMem := rfl
@[simp] theorem setJob_out (j : Nat) (v : Job) (s : State) : (setJob j v s).out = s.out := rfl
@[simp] theorem setJob_free (j : Nat) (v : Job) (s : State) : (setJob j v s).free = s.free := rfl
@[simp] theorem setJob_pending (j : Nat) (v : Job) (s : State) : (setJob j v s).pending = s.pending := rfl
@[simp] theorem setColl_pins (c : Nat) (v : Coll) (s : State) : (setColl c v s).pins = s.pins := rfl
@[simp] theorem setColl_ras (c : Nat) (v : Coll) (s : State) : (setColl c v s).ras = s.ras := rfl
@[simp] theorem setColl_log (c : Nat) (v : Coll) (s : State) : (setColl c v s).log = s.log := rfl
@[simp] theorem setColl_unit (c : Nat) (v : Coll) (s : State) : (setColl c v s).unit = s.unit := rfl
@[simp] theorem setColl_lay (c : Nat) (v : Coll) (s : State) : (setColl c v s).lay = s.lay := rfl
@[simp] theorem setColl_fw (c : Nat) (v : Coll) (s : State) : (setColl c v s).fw = s.fw := rfl
@[simp] theorem setColl_fuse (c : Nat) (v : Coll) (s : State) : (setColl c v s).fuse = s.fuse := rfl
@[simp] theorem setColl_att (c : Nat) (v : Coll) (s : State) : (setColl c v s).att = s.att := rfl
@[simp] theorem setColl_mon (c : Nat) (v : Coll) (s : State) : (setColl c v s).mon = s.mon := rfl
@[simp] theorem setColl_cal (c : Nat) (v : Coll) (s : State) : (setColl c v s).cal = s.cal := rfl
@[simp] theorem setColl_hif (c : Nat) (v : Coll) (s : State) : (setColl c v s).hif = s.hif := rfl
@[simp] theorem setColl_nonce (c : Nat) (v : Coll) (s : State) : (setColl c v s).nonce = s.nonce := rfl
@[simp] theorem setColl_nextJob (c : Nat) (v : Coll) (s : State) : (setColl c v s).nextJob = s.nextJob := rfl
@[simp] theorem setColl_jobs (c : Nat) (v : Coll) (s : State) : (setColl c v s).jobs = s.jobs := rfl
@[simp] theorem setColl_newts (c : Nat) (v : Coll) (s : State) : (setColl c v s).newts = s.newts := rfl
@[simp] theorem setColl_sync (c : Nat) (v : Coll) (s : State) : (setColl c v s).sync = s.sync := rfl
@[simp] theorem setColl_sch (c : Nat) (v : Coll) (s : State) : (setColl c v s).sch = s.sch := rfl
@[simp] theorem setColl_swc (c : Nat) (v : Coll) (s : State) : (setColl c v s).swc = s.swc := rfl
@[simp] theorem setColl_rte (c : Nat) (v : Coll) (s : State) : (setColl c v s).rte = s.rte := rfl
@[simp] theorem setColl_shp (c : Nat) (v : Coll) (s : State) : (setColl c v s).shp = s.shp := rfl
@[simp] theorem setColl_quads (c : Nat) (v : Coll) (s : State) : (setColl c v s).quads = s.quads := rfl
@[simp] theorem setColl_lov (c : Nat) (v : Coll) (s : State) : (setColl c v s).lov = s.lov := rfl
@[simp] theorem setColl_pool (c : Nat) (v : Coll) (s : State) : (setColl c v s).pool = s.pool := rfl
@[simp] theorem setColl_dma (c : Nat) (v : Coll) (s : State) : (setColl c v s).dma = s.dma := rfl
@[simp] theorem setColl_therm (c : Nat) (v : Coll) (s : State) : (setColl c v s).therm = s.therm := rfl
@[simp] theorem setColl_hostMem (c : Nat) (v : Coll) (s : State) : (setColl c v s).hostMem = s.hostMem := rfl
@[simp] theorem setColl_out (c : Nat) (v : Coll) (s : State) : (setColl c v s).out = s.out := rfl
@[simp] theorem setColl_free (c : Nat) (v : Coll) (s : State) : (setColl c v s).free = s.free := rfl
@[simp] theorem setColl_pending (c : Nat) (v : Coll) (s : State) : (setColl c v s).pending = s.pending := rfl
@[simp] theorem setObj_pins (o : Nat) (v : SyncObj) (s : State) : (setObj o v s).pins = s.pins := rfl
@[simp] theorem setObj_ras (o : Nat) (v : SyncObj) (s : State) : (setObj o v s).ras = s.ras := rfl
@[simp] theorem setObj_log (o : Nat) (v : SyncObj) (s : State) : (setObj o v s).log = s.log := rfl
@[simp] theorem setObj_unit (o : Nat) (v : SyncObj) (s : State) : (setObj o v s).unit = s.unit := rfl
@[simp] theorem setObj_lay (o : Nat) (v : SyncObj) (s : State) : (setObj o v s).lay = s.lay := rfl
@[simp] theorem setObj_fw (o : Nat) (v : SyncObj) (s : State) : (setObj o v s).fw = s.fw := rfl
@[simp] theorem setObj_fuse (o : Nat) (v : SyncObj) (s : State) : (setObj o v s).fuse = s.fuse := rfl
@[simp] theorem setObj_att (o : Nat) (v : SyncObj) (s : State) : (setObj o v s).att = s.att := rfl
@[simp] theorem setObj_mon (o : Nat) (v : SyncObj) (s : State) : (setObj o v s).mon = s.mon := rfl
@[simp] theorem setObj_cal (o : Nat) (v : SyncObj) (s : State) : (setObj o v s).cal = s.cal := rfl
@[simp] theorem setObj_hif (o : Nat) (v : SyncObj) (s : State) : (setObj o v s).hif = s.hif := rfl
@[simp] theorem setObj_nonce (o : Nat) (v : SyncObj) (s : State) : (setObj o v s).nonce = s.nonce := rfl
@[simp] theorem setObj_nextJob (o : Nat) (v : SyncObj) (s : State) : (setObj o v s).nextJob = s.nextJob := rfl
@[simp] theorem setObj_jobs (o : Nat) (v : SyncObj) (s : State) : (setObj o v s).jobs = s.jobs := rfl
@[simp] theorem setObj_colls (o : Nat) (v : SyncObj) (s : State) : (setObj o v s).colls = s.colls := rfl
@[simp] theorem setObj_newts (o : Nat) (v : SyncObj) (s : State) : (setObj o v s).newts = s.newts := rfl
@[simp] theorem setObj_sch (o : Nat) (v : SyncObj) (s : State) : (setObj o v s).sch = s.sch := rfl
@[simp] theorem setObj_swc (o : Nat) (v : SyncObj) (s : State) : (setObj o v s).swc = s.swc := rfl
@[simp] theorem setObj_rte (o : Nat) (v : SyncObj) (s : State) : (setObj o v s).rte = s.rte := rfl
@[simp] theorem setObj_shp (o : Nat) (v : SyncObj) (s : State) : (setObj o v s).shp = s.shp := rfl
@[simp] theorem setObj_quads (o : Nat) (v : SyncObj) (s : State) : (setObj o v s).quads = s.quads := rfl
@[simp] theorem setObj_lov (o : Nat) (v : SyncObj) (s : State) : (setObj o v s).lov = s.lov := rfl
@[simp] theorem setObj_pool (o : Nat) (v : SyncObj) (s : State) : (setObj o v s).pool = s.pool := rfl
@[simp] theorem setObj_dma (o : Nat) (v : SyncObj) (s : State) : (setObj o v s).dma = s.dma := rfl
@[simp] theorem setObj_therm (o : Nat) (v : SyncObj) (s : State) : (setObj o v s).therm = s.therm := rfl
@[simp] theorem setObj_hostMem (o : Nat) (v : SyncObj) (s : State) : (setObj o v s).hostMem = s.hostMem := rfl
@[simp] theorem setObj_out (o : Nat) (v : SyncObj) (s : State) : (setObj o v s).out = s.out := rfl
@[simp] theorem setObj_free (o : Nat) (v : SyncObj) (s : State) : (setObj o v s).free = s.free := rfl
@[simp] theorem setObj_pending (o : Nat) (v : SyncObj) (s : State) : (setObj o v s).pending = s.pending := rfl
@[simp] theorem setBline_pins (l : Nat) (v : BLine) (s : State) : (setBline l v s).pins = s.pins := rfl
@[simp] theorem setBline_ras (l : Nat) (v : BLine) (s : State) : (setBline l v s).ras = s.ras := rfl
@[simp] theorem setBline_log (l : Nat) (v : BLine) (s : State) : (setBline l v s).log = s.log := rfl
@[simp] theorem setBline_unit (l : Nat) (v : BLine) (s : State) : (setBline l v s).unit = s.unit := rfl
@[simp] theorem setBline_lay (l : Nat) (v : BLine) (s : State) : (setBline l v s).lay = s.lay := rfl
@[simp] theorem setBline_fw (l : Nat) (v : BLine) (s : State) : (setBline l v s).fw = s.fw := rfl
@[simp] theorem setBline_fuse (l : Nat) (v : BLine) (s : State) : (setBline l v s).fuse = s.fuse := rfl
@[simp] theorem setBline_att (l : Nat) (v : BLine) (s : State) : (setBline l v s).att = s.att := rfl
@[simp] theorem setBline_mon (l : Nat) (v : BLine) (s : State) : (setBline l v s).mon = s.mon := rfl
@[simp] theorem setBline_cal (l : Nat) (v : BLine) (s : State) : (setBline l v s).cal = s.cal := rfl
@[simp] theorem setBline_hif (l : Nat) (v : BLine) (s : State) : (setBline l v s).hif = s.hif := rfl
@[simp] theorem setBline_nonce (l : Nat) (v : BLine) (s : State) : (setBline l v s).nonce = s.nonce := rfl
@[simp] theorem setBline_nextJob (l : Nat) (v : BLine) (s : State) : (setBline l v s).nextJob = s.nextJob := rfl
@[simp] theorem setBline_jobs (l : Nat) (v : BLine) (s : State) : (setBline l v s).jobs = s.jobs := rfl
@[simp] theorem setBline_colls (l : Nat) (v : BLine) (s : State) : (setBline l v s).colls = s.colls := rfl
@[simp] theorem setBline_newts (l : Nat) (v : BLine) (s : State) : (setBline l v s).newts = s.newts := rfl
@[simp] theorem setBline_sch (l : Nat) (v : BLine) (s : State) : (setBline l v s).sch = s.sch := rfl
@[simp] theorem setBline_swc (l : Nat) (v : BLine) (s : State) : (setBline l v s).swc = s.swc := rfl
@[simp] theorem setBline_rte (l : Nat) (v : BLine) (s : State) : (setBline l v s).rte = s.rte := rfl
@[simp] theorem setBline_shp (l : Nat) (v : BLine) (s : State) : (setBline l v s).shp = s.shp := rfl
@[simp] theorem setBline_quads (l : Nat) (v : BLine) (s : State) : (setBline l v s).quads = s.quads := rfl
@[simp] theorem setBline_lov (l : Nat) (v : BLine) (s : State) : (setBline l v s).lov = s.lov := rfl
@[simp] theorem setBline_pool (l : Nat) (v : BLine) (s : State) : (setBline l v s).pool = s.pool := rfl
@[simp] theorem setBline_dma (l : Nat) (v : BLine) (s : State) : (setBline l v s).dma = s.dma := rfl
@[simp] theorem setBline_therm (l : Nat) (v : BLine) (s : State) : (setBline l v s).therm = s.therm := rfl
@[simp] theorem setBline_hostMem (l : Nat) (v : BLine) (s : State) : (setBline l v s).hostMem = s.hostMem := rfl
@[simp] theorem setBline_out (l : Nat) (v : BLine) (s : State) : (setBline l v s).out = s.out := rfl
@[simp] theorem setBline_free (l : Nat) (v : BLine) (s : State) : (setBline l v s).free = s.free := rfl
@[simp] theorem setBline_pending (l : Nat) (v : BLine) (s : State) : (setBline l v s).pending = s.pending := rfl
@[simp] theorem setFline_pins (l : Nat) (v : FLine) (s : State) : (setFline l v s).pins = s.pins := rfl
@[simp] theorem setFline_ras (l : Nat) (v : FLine) (s : State) : (setFline l v s).ras = s.ras := rfl
@[simp] theorem setFline_log (l : Nat) (v : FLine) (s : State) : (setFline l v s).log = s.log := rfl
@[simp] theorem setFline_unit (l : Nat) (v : FLine) (s : State) : (setFline l v s).unit = s.unit := rfl
@[simp] theorem setFline_lay (l : Nat) (v : FLine) (s : State) : (setFline l v s).lay = s.lay := rfl
@[simp] theorem setFline_fw (l : Nat) (v : FLine) (s : State) : (setFline l v s).fw = s.fw := rfl
@[simp] theorem setFline_fuse (l : Nat) (v : FLine) (s : State) : (setFline l v s).fuse = s.fuse := rfl
@[simp] theorem setFline_att (l : Nat) (v : FLine) (s : State) : (setFline l v s).att = s.att := rfl
@[simp] theorem setFline_mon (l : Nat) (v : FLine) (s : State) : (setFline l v s).mon = s.mon := rfl
@[simp] theorem setFline_cal (l : Nat) (v : FLine) (s : State) : (setFline l v s).cal = s.cal := rfl
@[simp] theorem setFline_hif (l : Nat) (v : FLine) (s : State) : (setFline l v s).hif = s.hif := rfl
@[simp] theorem setFline_nonce (l : Nat) (v : FLine) (s : State) : (setFline l v s).nonce = s.nonce := rfl
@[simp] theorem setFline_nextJob (l : Nat) (v : FLine) (s : State) : (setFline l v s).nextJob = s.nextJob := rfl
@[simp] theorem setFline_jobs (l : Nat) (v : FLine) (s : State) : (setFline l v s).jobs = s.jobs := rfl
@[simp] theorem setFline_colls (l : Nat) (v : FLine) (s : State) : (setFline l v s).colls = s.colls := rfl
@[simp] theorem setFline_newts (l : Nat) (v : FLine) (s : State) : (setFline l v s).newts = s.newts := rfl
@[simp] theorem setFline_sch (l : Nat) (v : FLine) (s : State) : (setFline l v s).sch = s.sch := rfl
@[simp] theorem setFline_swc (l : Nat) (v : FLine) (s : State) : (setFline l v s).swc = s.swc := rfl
@[simp] theorem setFline_rte (l : Nat) (v : FLine) (s : State) : (setFline l v s).rte = s.rte := rfl
@[simp] theorem setFline_shp (l : Nat) (v : FLine) (s : State) : (setFline l v s).shp = s.shp := rfl
@[simp] theorem setFline_quads (l : Nat) (v : FLine) (s : State) : (setFline l v s).quads = s.quads := rfl
@[simp] theorem setFline_lov (l : Nat) (v : FLine) (s : State) : (setFline l v s).lov = s.lov := rfl
@[simp] theorem setFline_pool (l : Nat) (v : FLine) (s : State) : (setFline l v s).pool = s.pool := rfl
@[simp] theorem setFline_dma (l : Nat) (v : FLine) (s : State) : (setFline l v s).dma = s.dma := rfl
@[simp] theorem setFline_therm (l : Nat) (v : FLine) (s : State) : (setFline l v s).therm = s.therm := rfl
@[simp] theorem setFline_hostMem (l : Nat) (v : FLine) (s : State) : (setFline l v s).hostMem = s.hostMem := rfl
@[simp] theorem setFline_out (l : Nat) (v : FLine) (s : State) : (setFline l v s).out = s.out := rfl
@[simp] theorem setFline_free (l : Nat) (v : FLine) (s : State) : (setFline l v s).free = s.free := rfl
@[simp] theorem setFline_pending (l : Nat) (v : FLine) (s : State) : (setFline l v s).pending = s.pending := rfl
@[simp] theorem setQuad_pins (q : Nat) (v : Quad) (s : State) : (setQuad q v s).pins = s.pins := rfl
@[simp] theorem setQuad_ras (q : Nat) (v : Quad) (s : State) : (setQuad q v s).ras = s.ras := rfl
@[simp] theorem setQuad_log (q : Nat) (v : Quad) (s : State) : (setQuad q v s).log = s.log := rfl
@[simp] theorem setQuad_unit (q : Nat) (v : Quad) (s : State) : (setQuad q v s).unit = s.unit := rfl
@[simp] theorem setQuad_lay (q : Nat) (v : Quad) (s : State) : (setQuad q v s).lay = s.lay := rfl
@[simp] theorem setQuad_fw (q : Nat) (v : Quad) (s : State) : (setQuad q v s).fw = s.fw := rfl
@[simp] theorem setQuad_fuse (q : Nat) (v : Quad) (s : State) : (setQuad q v s).fuse = s.fuse := rfl
@[simp] theorem setQuad_att (q : Nat) (v : Quad) (s : State) : (setQuad q v s).att = s.att := rfl
@[simp] theorem setQuad_mon (q : Nat) (v : Quad) (s : State) : (setQuad q v s).mon = s.mon := rfl
@[simp] theorem setQuad_cal (q : Nat) (v : Quad) (s : State) : (setQuad q v s).cal = s.cal := rfl
@[simp] theorem setQuad_hif (q : Nat) (v : Quad) (s : State) : (setQuad q v s).hif = s.hif := rfl
@[simp] theorem setQuad_nonce (q : Nat) (v : Quad) (s : State) : (setQuad q v s).nonce = s.nonce := rfl
@[simp] theorem setQuad_nextJob (q : Nat) (v : Quad) (s : State) : (setQuad q v s).nextJob = s.nextJob := rfl
@[simp] theorem setQuad_jobs (q : Nat) (v : Quad) (s : State) : (setQuad q v s).jobs = s.jobs := rfl
@[simp] theorem setQuad_colls (q : Nat) (v : Quad) (s : State) : (setQuad q v s).colls = s.colls := rfl
@[simp] theorem setQuad_newts (q : Nat) (v : Quad) (s : State) : (setQuad q v s).newts = s.newts := rfl
@[simp] theorem setQuad_sync (q : Nat) (v : Quad) (s : State) : (setQuad q v s).sync = s.sync := rfl
@[simp] theorem setQuad_sch (q : Nat) (v : Quad) (s : State) : (setQuad q v s).sch = s.sch := rfl
@[simp] theorem setQuad_swc (q : Nat) (v : Quad) (s : State) : (setQuad q v s).swc = s.swc := rfl
@[simp] theorem setQuad_rte (q : Nat) (v : Quad) (s : State) : (setQuad q v s).rte = s.rte := rfl
@[simp] theorem setQuad_shp (q : Nat) (v : Quad) (s : State) : (setQuad q v s).shp = s.shp := rfl
@[simp] theorem setQuad_lov (q : Nat) (v : Quad) (s : State) : (setQuad q v s).lov = s.lov := rfl
@[simp] theorem setQuad_pool (q : Nat) (v : Quad) (s : State) : (setQuad q v s).pool = s.pool := rfl
@[simp] theorem setQuad_dma (q : Nat) (v : Quad) (s : State) : (setQuad q v s).dma = s.dma := rfl
@[simp] theorem setQuad_therm (q : Nat) (v : Quad) (s : State) : (setQuad q v s).therm = s.therm := rfl
@[simp] theorem setQuad_hostMem (q : Nat) (v : Quad) (s : State) : (setQuad q v s).hostMem = s.hostMem := rfl
@[simp] theorem setQuad_out (q : Nat) (v : Quad) (s : State) : (setQuad q v s).out = s.out := rfl
@[simp] theorem setQuad_free (q : Nat) (v : Quad) (s : State) : (setQuad q v s).free = s.free := rfl
@[simp] theorem setQuad_pending (q : Nat) (v : Quad) (s : State) : (setQuad q v s).pending = s.pending := rfl
@[simp] theorem setMslot_pins (i : Nat) (v : Slot) (s : State) : (setMslot i v s).pins = s.pins := rfl
@[simp] theorem setMslot_ras (i : Nat) (v : Slot) (s : State) : (setMslot i v s).ras = s.ras := rfl
@[simp] theorem setMslot_log (i : Nat) (v : Slot) (s : State) : (setMslot i v s).log = s.log := rfl
@[simp] theorem setMslot_unit (i : Nat) (v : Slot) (s : State) : (setMslot i v s).unit = s.unit := rfl
@[simp] theorem setMslot_lay (i : Nat) (v : Slot) (s : State) : (setMslot i v s).lay = s.lay := rfl
@[simp] theorem setMslot_fw (i : Nat) (v : Slot) (s : State) : (setMslot i v s).fw = s.fw := rfl
@[simp] theorem setMslot_fuse (i : Nat) (v : Slot) (s : State) : (setMslot i v s).fuse = s.fuse := rfl
@[simp] theorem setMslot_att (i : Nat) (v : Slot) (s : State) : (setMslot i v s).att = s.att := rfl
@[simp] theorem setMslot_mon (i : Nat) (v : Slot) (s : State) : (setMslot i v s).mon = s.mon := rfl
@[simp] theorem setMslot_cal (i : Nat) (v : Slot) (s : State) : (setMslot i v s).cal = s.cal := rfl
@[simp] theorem setMslot_nonce (i : Nat) (v : Slot) (s : State) : (setMslot i v s).nonce = s.nonce := rfl
@[simp] theorem setMslot_nextJob (i : Nat) (v : Slot) (s : State) : (setMslot i v s).nextJob = s.nextJob := rfl
@[simp] theorem setMslot_jobs (i : Nat) (v : Slot) (s : State) : (setMslot i v s).jobs = s.jobs := rfl
@[simp] theorem setMslot_colls (i : Nat) (v : Slot) (s : State) : (setMslot i v s).colls = s.colls := rfl
@[simp] theorem setMslot_newts (i : Nat) (v : Slot) (s : State) : (setMslot i v s).newts = s.newts := rfl
@[simp] theorem setMslot_sync (i : Nat) (v : Slot) (s : State) : (setMslot i v s).sync = s.sync := rfl
@[simp] theorem setMslot_sch (i : Nat) (v : Slot) (s : State) : (setMslot i v s).sch = s.sch := rfl
@[simp] theorem setMslot_swc (i : Nat) (v : Slot) (s : State) : (setMslot i v s).swc = s.swc := rfl
@[simp] theorem setMslot_rte (i : Nat) (v : Slot) (s : State) : (setMslot i v s).rte = s.rte := rfl
@[simp] theorem setMslot_shp (i : Nat) (v : Slot) (s : State) : (setMslot i v s).shp = s.shp := rfl
@[simp] theorem setMslot_quads (i : Nat) (v : Slot) (s : State) : (setMslot i v s).quads = s.quads := rfl
@[simp] theorem setMslot_lov (i : Nat) (v : Slot) (s : State) : (setMslot i v s).lov = s.lov := rfl
@[simp] theorem setMslot_pool (i : Nat) (v : Slot) (s : State) : (setMslot i v s).pool = s.pool := rfl
@[simp] theorem setMslot_dma (i : Nat) (v : Slot) (s : State) : (setMslot i v s).dma = s.dma := rfl
@[simp] theorem setMslot_therm (i : Nat) (v : Slot) (s : State) : (setMslot i v s).therm = s.therm := rfl
@[simp] theorem setMslot_hostMem (i : Nat) (v : Slot) (s : State) : (setMslot i v s).hostMem = s.hostMem := rfl
@[simp] theorem setMslot_out (i : Nat) (v : Slot) (s : State) : (setMslot i v s).out = s.out := rfl
@[simp] theorem setMslot_free (i : Nat) (v : Slot) (s : State) : (setMslot i v s).free = s.free := rfl
@[simp] theorem setMslot_pending (i : Nat) (v : Slot) (s : State) : (setMslot i v s).pending = s.pending := rfl
@[simp] theorem setChan_pins (c : Nat) (v : DmaCh) (s : State) : (setChan c v s).pins = s.pins := rfl
@[simp] theorem setChan_ras (c : Nat) (v : DmaCh) (s : State) : (setChan c v s).ras = s.ras := rfl
@[simp] theorem setChan_log (c : Nat) (v : DmaCh) (s : State) : (setChan c v s).log = s.log := rfl
@[simp] theorem setChan_unit (c : Nat) (v : DmaCh) (s : State) : (setChan c v s).unit = s.unit := rfl
@[simp] theorem setChan_lay (c : Nat) (v : DmaCh) (s : State) : (setChan c v s).lay = s.lay := rfl
@[simp] theorem setChan_fw (c : Nat) (v : DmaCh) (s : State) : (setChan c v s).fw = s.fw := rfl
@[simp] theorem setChan_fuse (c : Nat) (v : DmaCh) (s : State) : (setChan c v s).fuse = s.fuse := rfl
@[simp] theorem setChan_att (c : Nat) (v : DmaCh) (s : State) : (setChan c v s).att = s.att := rfl
@[simp] theorem setChan_mon (c : Nat) (v : DmaCh) (s : State) : (setChan c v s).mon = s.mon := rfl
@[simp] theorem setChan_cal (c : Nat) (v : DmaCh) (s : State) : (setChan c v s).cal = s.cal := rfl
@[simp] theorem setChan_hif (c : Nat) (v : DmaCh) (s : State) : (setChan c v s).hif = s.hif := rfl
@[simp] theorem setChan_nonce (c : Nat) (v : DmaCh) (s : State) : (setChan c v s).nonce = s.nonce := rfl
@[simp] theorem setChan_nextJob (c : Nat) (v : DmaCh) (s : State) : (setChan c v s).nextJob = s.nextJob := rfl
@[simp] theorem setChan_jobs (c : Nat) (v : DmaCh) (s : State) : (setChan c v s).jobs = s.jobs := rfl
@[simp] theorem setChan_colls (c : Nat) (v : DmaCh) (s : State) : (setChan c v s).colls = s.colls := rfl
@[simp] theorem setChan_newts (c : Nat) (v : DmaCh) (s : State) : (setChan c v s).newts = s.newts := rfl
@[simp] theorem setChan_sync (c : Nat) (v : DmaCh) (s : State) : (setChan c v s).sync = s.sync := rfl
@[simp] theorem setChan_sch (c : Nat) (v : DmaCh) (s : State) : (setChan c v s).sch = s.sch := rfl
@[simp] theorem setChan_swc (c : Nat) (v : DmaCh) (s : State) : (setChan c v s).swc = s.swc := rfl
@[simp] theorem setChan_rte (c : Nat) (v : DmaCh) (s : State) : (setChan c v s).rte = s.rte := rfl
@[simp] theorem setChan_shp (c : Nat) (v : DmaCh) (s : State) : (setChan c v s).shp = s.shp := rfl
@[simp] theorem setChan_quads (c : Nat) (v : DmaCh) (s : State) : (setChan c v s).quads = s.quads := rfl
@[simp] theorem setChan_lov (c : Nat) (v : DmaCh) (s : State) : (setChan c v s).lov = s.lov := rfl
@[simp] theorem setChan_pool (c : Nat) (v : DmaCh) (s : State) : (setChan c v s).pool = s.pool := rfl
@[simp] theorem setChan_therm (c : Nat) (v : DmaCh) (s : State) : (setChan c v s).therm = s.therm := rfl
@[simp] theorem setChan_hostMem (c : Nat) (v : DmaCh) (s : State) : (setChan c v s).hostMem = s.hostMem := rfl
@[simp] theorem setChan_out (c : Nat) (v : DmaCh) (s : State) : (setChan c v s).out = s.out := rfl
@[simp] theorem setChan_free (c : Nat) (v : DmaCh) (s : State) : (setChan c v s).free = s.free := rfl
@[simp] theorem setChan_pending (c : Nat) (v : DmaCh) (s : State) : (setChan c v s).pending = s.pending := rfl
@[simp] theorem modStack_pins (n : Nat) (f : Stack → Stack) (s : State) : (modStack n f s).pins = s.pins := rfl
@[simp] theorem modStack_ras (n : Nat) (f : Stack → Stack) (s : State) : (modStack n f s).ras = s.ras := rfl
@[simp] theorem modStack_log (n : Nat) (f : Stack → Stack) (s : State) : (modStack n f s).log = s.log := rfl
@[simp] theorem modStack_unit (n : Nat) (f : Stack → Stack) (s : State) : (modStack n f s).unit = s.unit := rfl
@[simp] theorem modStack_lay (n : Nat) (f : Stack → Stack) (s : State) : (modStack n f s).lay = s.lay := rfl
@[simp] theorem modStack_fw (n : Nat) (f : Stack → Stack) (s : State) : (modStack n f s).fw = s.fw := rfl
@[simp] theorem modStack_fuse (n : Nat) (f : Stack → Stack) (s : State) : (modStack n f s).fuse = s.fuse := rfl
@[simp] theorem modStack_att (n : Nat) (f : Stack → Stack) (s : State) : (modStack n f s).att = s.att := rfl
@[simp] theorem modStack_mon (n : Nat) (f : Stack → Stack) (s : State) : (modStack n f s).mon = s.mon := rfl
@[simp] theorem modStack_cal (n : Nat) (f : Stack → Stack) (s : State) : (modStack n f s).cal = s.cal := rfl
@[simp] theorem modStack_hif (n : Nat) (f : Stack → Stack) (s : State) : (modStack n f s).hif = s.hif := rfl
@[simp] theorem modStack_nonce (n : Nat) (f : Stack → Stack) (s : State) : (modStack n f s).nonce = s.nonce := rfl
@[simp] theorem modStack_nextJob (n : Nat) (f : Stack → Stack) (s : State) :
    (modStack n f s).nextJob = s.nextJob := rfl
@[simp] theorem modStack_jobs (n : Nat) (f : Stack → Stack) (s : State) : (modStack n f s).jobs = s.jobs := rfl
@[simp] theorem modStack_colls (n : Nat) (f : Stack → Stack) (s : State) : (modStack n f s).colls = s.colls := rfl
@[simp] theorem modStack_newts (n : Nat) (f : Stack → Stack) (s : State) : (modStack n f s).newts = s.newts := rfl
@[simp] theorem modStack_sync (n : Nat) (f : Stack → Stack) (s : State) : (modStack n f s).sync = s.sync := rfl
@[simp] theorem modStack_sch (n : Nat) (f : Stack → Stack) (s : State) : (modStack n f s).sch = s.sch := rfl
@[simp] theorem modStack_swc (n : Nat) (f : Stack → Stack) (s : State) : (modStack n f s).swc = s.swc := rfl
@[simp] theorem modStack_rte (n : Nat) (f : Stack → Stack) (s : State) : (modStack n f s).rte = s.rte := rfl
@[simp] theorem modStack_shp (n : Nat) (f : Stack → Stack) (s : State) : (modStack n f s).shp = s.shp := rfl
@[simp] theorem modStack_quads (n : Nat) (f : Stack → Stack) (s : State) : (modStack n f s).quads = s.quads := rfl
@[simp] theorem modStack_pool (n : Nat) (f : Stack → Stack) (s : State) : (modStack n f s).pool = s.pool := rfl
@[simp] theorem modStack_dma (n : Nat) (f : Stack → Stack) (s : State) : (modStack n f s).dma = s.dma := rfl
@[simp] theorem modStack_therm (n : Nat) (f : Stack → Stack) (s : State) : (modStack n f s).therm = s.therm := rfl
@[simp] theorem modStack_hostMem (n : Nat) (f : Stack → Stack) (s : State) :
    (modStack n f s).hostMem = s.hostMem := rfl
@[simp] theorem modStack_out (n : Nat) (f : Stack → Stack) (s : State) : (modStack n f s).out = s.out := rfl
@[simp] theorem modStack_free (n : Nat) (f : Stack → Stack) (s : State) : (modStack n f s).free = s.free := rfl
@[simp] theorem modStack_pending (n : Nat) (f : Stack → Stack) (s : State) :
    (modStack n f s).pending = s.pending := rfl
@[simp] theorem setRas_pins (c : Nat) (r : RasRec) (s : State) : (setRas c r s).pins = s.pins := rfl
@[simp] theorem setRas_log (c : Nat) (r : RasRec) (s : State) : (setRas c r s).log = s.log := rfl
@[simp] theorem setRas_unit (c : Nat) (r : RasRec) (s : State) : (setRas c r s).unit = s.unit := rfl
@[simp] theorem setRas_lay (c : Nat) (r : RasRec) (s : State) : (setRas c r s).lay = s.lay := rfl
@[simp] theorem setRas_fw (c : Nat) (r : RasRec) (s : State) : (setRas c r s).fw = s.fw := rfl
@[simp] theorem setRas_fuse (c : Nat) (r : RasRec) (s : State) : (setRas c r s).fuse = s.fuse := rfl
@[simp] theorem setRas_att (c : Nat) (r : RasRec) (s : State) : (setRas c r s).att = s.att := rfl
@[simp] theorem setRas_mon (c : Nat) (r : RasRec) (s : State) : (setRas c r s).mon = s.mon := rfl
@[simp] theorem setRas_cal (c : Nat) (r : RasRec) (s : State) : (setRas c r s).cal = s.cal := rfl
@[simp] theorem setRas_hif (c : Nat) (r : RasRec) (s : State) : (setRas c r s).hif = s.hif := rfl
@[simp] theorem setRas_nonce (c : Nat) (r : RasRec) (s : State) : (setRas c r s).nonce = s.nonce := rfl
@[simp] theorem setRas_nextJob (c : Nat) (r : RasRec) (s : State) : (setRas c r s).nextJob = s.nextJob := rfl
@[simp] theorem setRas_jobs (c : Nat) (r : RasRec) (s : State) : (setRas c r s).jobs = s.jobs := rfl
@[simp] theorem setRas_colls (c : Nat) (r : RasRec) (s : State) : (setRas c r s).colls = s.colls := rfl
@[simp] theorem setRas_newts (c : Nat) (r : RasRec) (s : State) : (setRas c r s).newts = s.newts := rfl
@[simp] theorem setRas_sync (c : Nat) (r : RasRec) (s : State) : (setRas c r s).sync = s.sync := rfl
@[simp] theorem setRas_sch (c : Nat) (r : RasRec) (s : State) : (setRas c r s).sch = s.sch := rfl
@[simp] theorem setRas_swc (c : Nat) (r : RasRec) (s : State) : (setRas c r s).swc = s.swc := rfl
@[simp] theorem setRas_rte (c : Nat) (r : RasRec) (s : State) : (setRas c r s).rte = s.rte := rfl
@[simp] theorem setRas_shp (c : Nat) (r : RasRec) (s : State) : (setRas c r s).shp = s.shp := rfl
@[simp] theorem setRas_quads (c : Nat) (r : RasRec) (s : State) : (setRas c r s).quads = s.quads := rfl
@[simp] theorem setRas_lov (c : Nat) (r : RasRec) (s : State) : (setRas c r s).lov = s.lov := rfl
@[simp] theorem setRas_pool (c : Nat) (r : RasRec) (s : State) : (setRas c r s).pool = s.pool := rfl
@[simp] theorem setRas_dma (c : Nat) (r : RasRec) (s : State) : (setRas c r s).dma = s.dma := rfl
@[simp] theorem setRas_therm (c : Nat) (r : RasRec) (s : State) : (setRas c r s).therm = s.therm := rfl
@[simp] theorem setRas_hostMem (c : Nat) (r : RasRec) (s : State) : (setRas c r s).hostMem = s.hostMem := rfl
@[simp] theorem setRas_out (c : Nat) (r : RasRec) (s : State) : (setRas c r s).out = s.out := rfl
@[simp] theorem setRas_free (c : Nat) (r : RasRec) (s : State) : (setRas c r s).free = s.free := rfl
@[simp] theorem setRas_pending (c : Nat) (r : RasRec) (s : State) : (setRas c r s).pending = s.pending := rfl
@[simp] theorem emit_pins (o : Out) (s : State) : (emit o s).pins = s.pins := rfl
@[simp] theorem emit_ras (o : Out) (s : State) : (emit o s).ras = s.ras := rfl
@[simp] theorem emit_log (o : Out) (s : State) : (emit o s).log = s.log := rfl
@[simp] theorem emit_unit (o : Out) (s : State) : (emit o s).unit = s.unit := rfl
@[simp] theorem emit_lay (o : Out) (s : State) : (emit o s).lay = s.lay := rfl
@[simp] theorem emit_fw (o : Out) (s : State) : (emit o s).fw = s.fw := rfl
@[simp] theorem emit_fuse (o : Out) (s : State) : (emit o s).fuse = s.fuse := rfl
@[simp] theorem emit_att (o : Out) (s : State) : (emit o s).att = s.att := rfl
@[simp] theorem emit_mon (o : Out) (s : State) : (emit o s).mon = s.mon := rfl
@[simp] theorem emit_cal (o : Out) (s : State) : (emit o s).cal = s.cal := rfl
@[simp] theorem emit_hif (o : Out) (s : State) : (emit o s).hif = s.hif := rfl
@[simp] theorem emit_nonce (o : Out) (s : State) : (emit o s).nonce = s.nonce := rfl
@[simp] theorem emit_nextJob (o : Out) (s : State) : (emit o s).nextJob = s.nextJob := rfl
@[simp] theorem emit_jobs (o : Out) (s : State) : (emit o s).jobs = s.jobs := rfl
@[simp] theorem emit_colls (o : Out) (s : State) : (emit o s).colls = s.colls := rfl
@[simp] theorem emit_newts (o : Out) (s : State) : (emit o s).newts = s.newts := rfl
@[simp] theorem emit_sync (o : Out) (s : State) : (emit o s).sync = s.sync := rfl
@[simp] theorem emit_sch (o : Out) (s : State) : (emit o s).sch = s.sch := rfl
@[simp] theorem emit_swc (o : Out) (s : State) : (emit o s).swc = s.swc := rfl
@[simp] theorem emit_rte (o : Out) (s : State) : (emit o s).rte = s.rte := rfl
@[simp] theorem emit_shp (o : Out) (s : State) : (emit o s).shp = s.shp := rfl
@[simp] theorem emit_quads (o : Out) (s : State) : (emit o s).quads = s.quads := rfl
@[simp] theorem emit_lov (o : Out) (s : State) : (emit o s).lov = s.lov := rfl
@[simp] theorem emit_pool (o : Out) (s : State) : (emit o s).pool = s.pool := rfl
@[simp] theorem emit_dma (o : Out) (s : State) : (emit o s).dma = s.dma := rfl
@[simp] theorem emit_therm (o : Out) (s : State) : (emit o s).therm = s.therm := rfl
@[simp] theorem emit_hostMem (o : Out) (s : State) : (emit o s).hostMem = s.hostMem := rfl
@[simp] theorem emit_free (o : Out) (s : State) : (emit o s).free = s.free := rfl
@[simp] theorem emit_pending (o : Out) (s : State) : (emit o s).pending = s.pending := rfl
@[simp] theorem drawn_pins (s : State) : (drawn s).pins = s.pins := rfl
@[simp] theorem drawn_ras (s : State) : (drawn s).ras = s.ras := rfl
@[simp] theorem drawn_log (s : State) : (drawn s).log = s.log := rfl
@[simp] theorem drawn_unit (s : State) : (drawn s).unit = s.unit := rfl
@[simp] theorem drawn_lay (s : State) : (drawn s).lay = s.lay := rfl
@[simp] theorem drawn_fw (s : State) : (drawn s).fw = s.fw := rfl
@[simp] theorem drawn_fuse (s : State) : (drawn s).fuse = s.fuse := rfl
@[simp] theorem drawn_att (s : State) : (drawn s).att = s.att := rfl
@[simp] theorem drawn_mon (s : State) : (drawn s).mon = s.mon := rfl
@[simp] theorem drawn_cal (s : State) : (drawn s).cal = s.cal := rfl
@[simp] theorem drawn_hif (s : State) : (drawn s).hif = s.hif := rfl
@[simp] theorem drawn_nonce (s : State) : (drawn s).nonce = s.nonce := rfl
@[simp] theorem drawn_nextJob (s : State) : (drawn s).nextJob = s.nextJob := rfl
@[simp] theorem drawn_jobs (s : State) : (drawn s).jobs = s.jobs := rfl
@[simp] theorem drawn_colls (s : State) : (drawn s).colls = s.colls := rfl
@[simp] theorem drawn_newts (s : State) : (drawn s).newts = s.newts := rfl
@[simp] theorem drawn_sync (s : State) : (drawn s).sync = s.sync := rfl
@[simp] theorem drawn_sch (s : State) : (drawn s).sch = s.sch := rfl
@[simp] theorem drawn_swc (s : State) : (drawn s).swc = s.swc := rfl
@[simp] theorem drawn_rte (s : State) : (drawn s).rte = s.rte := rfl
@[simp] theorem drawn_shp (s : State) : (drawn s).shp = s.shp := rfl
@[simp] theorem drawn_quads (s : State) : (drawn s).quads = s.quads := rfl
@[simp] theorem drawn_lov (s : State) : (drawn s).lov = s.lov := rfl
@[simp] theorem drawn_pool (s : State) : (drawn s).pool = s.pool := rfl
@[simp] theorem drawn_dma (s : State) : (drawn s).dma = s.dma := rfl
@[simp] theorem drawn_therm (s : State) : (drawn s).therm = s.therm := rfl
@[simp] theorem drawn_hostMem (s : State) : (drawn s).hostMem = s.hostMem := rfl
@[simp] theorem drawn_out (s : State) : (drawn s).out = s.out := rfl
@[simp] theorem drawn_pending (s : State) : (drawn s).pending = s.pending := rfl
@[simp] theorem lovWrite_pins (a : Nat) (bs : List Byte) (s : State) : (lovWrite a bs s).pins = s.pins := rfl
@[simp] theorem lovWrite_ras (a : Nat) (bs : List Byte) (s : State) : (lovWrite a bs s).ras = s.ras := rfl
@[simp] theorem lovWrite_log (a : Nat) (bs : List Byte) (s : State) : (lovWrite a bs s).log = s.log := rfl
@[simp] theorem lovWrite_unit (a : Nat) (bs : List Byte) (s : State) : (lovWrite a bs s).unit = s.unit := rfl
@[simp] theorem lovWrite_lay (a : Nat) (bs : List Byte) (s : State) : (lovWrite a bs s).lay = s.lay := rfl
@[simp] theorem lovWrite_fw (a : Nat) (bs : List Byte) (s : State) : (lovWrite a bs s).fw = s.fw := rfl
@[simp] theorem lovWrite_fuse (a : Nat) (bs : List Byte) (s : State) : (lovWrite a bs s).fuse = s.fuse := rfl
@[simp] theorem lovWrite_att (a : Nat) (bs : List Byte) (s : State) : (lovWrite a bs s).att = s.att := rfl
@[simp] theorem lovWrite_mon (a : Nat) (bs : List Byte) (s : State) : (lovWrite a bs s).mon = s.mon := rfl
@[simp] theorem lovWrite_cal (a : Nat) (bs : List Byte) (s : State) : (lovWrite a bs s).cal = s.cal := rfl
@[simp] theorem lovWrite_hif (a : Nat) (bs : List Byte) (s : State) : (lovWrite a bs s).hif = s.hif := rfl
@[simp] theorem lovWrite_nonce (a : Nat) (bs : List Byte) (s : State) : (lovWrite a bs s).nonce = s.nonce := rfl
@[simp] theorem lovWrite_nextJob (a : Nat) (bs : List Byte) (s : State) : (lovWrite a bs s).nextJob = s.nextJob := rfl
@[simp] theorem lovWrite_jobs (a : Nat) (bs : List Byte) (s : State) : (lovWrite a bs s).jobs = s.jobs := rfl
@[simp] theorem lovWrite_colls (a : Nat) (bs : List Byte) (s : State) : (lovWrite a bs s).colls = s.colls := rfl
@[simp] theorem lovWrite_newts (a : Nat) (bs : List Byte) (s : State) : (lovWrite a bs s).newts = s.newts := rfl
@[simp] theorem lovWrite_sync (a : Nat) (bs : List Byte) (s : State) : (lovWrite a bs s).sync = s.sync := rfl
@[simp] theorem lovWrite_sch (a : Nat) (bs : List Byte) (s : State) : (lovWrite a bs s).sch = s.sch := rfl
@[simp] theorem lovWrite_swc (a : Nat) (bs : List Byte) (s : State) : (lovWrite a bs s).swc = s.swc := rfl
@[simp] theorem lovWrite_rte (a : Nat) (bs : List Byte) (s : State) : (lovWrite a bs s).rte = s.rte := rfl
@[simp] theorem lovWrite_shp (a : Nat) (bs : List Byte) (s : State) : (lovWrite a bs s).shp = s.shp := rfl
@[simp] theorem lovWrite_quads (a : Nat) (bs : List Byte) (s : State) : (lovWrite a bs s).quads = s.quads := rfl
@[simp] theorem lovWrite_pool (a : Nat) (bs : List Byte) (s : State) : (lovWrite a bs s).pool = s.pool := rfl
@[simp] theorem lovWrite_dma (a : Nat) (bs : List Byte) (s : State) : (lovWrite a bs s).dma = s.dma := rfl
@[simp] theorem lovWrite_therm (a : Nat) (bs : List Byte) (s : State) : (lovWrite a bs s).therm = s.therm := rfl
@[simp] theorem lovWrite_hostMem (a : Nat) (bs : List Byte) (s : State) : (lovWrite a bs s).hostMem = s.hostMem := rfl
@[simp] theorem lovWrite_out (a : Nat) (bs : List Byte) (s : State) : (lovWrite a bs s).out = s.out := rfl
@[simp] theorem lovWrite_free (a : Nat) (bs : List Byte) (s : State) : (lovWrite a bs s).free = s.free := rfl
@[simp] theorem lovWrite_pending (a : Nat) (bs : List Byte) (s : State) : (lovWrite a bs s).pending = s.pending := rfl
@[simp] theorem hostWrite_pins (a : Nat) (bs : List Byte) (s : State) : (hostWrite a bs s).pins = s.pins := rfl
@[simp] theorem hostWrite_ras (a : Nat) (bs : List Byte) (s : State) : (hostWrite a bs s).ras = s.ras := rfl
@[simp] theorem hostWrite_log (a : Nat) (bs : List Byte) (s : State) : (hostWrite a bs s).log = s.log := rfl
@[simp] theorem hostWrite_unit (a : Nat) (bs : List Byte) (s : State) : (hostWrite a bs s).unit = s.unit := rfl
@[simp] theorem hostWrite_lay (a : Nat) (bs : List Byte) (s : State) : (hostWrite a bs s).lay = s.lay := rfl
@[simp] theorem hostWrite_fw (a : Nat) (bs : List Byte) (s : State) : (hostWrite a bs s).fw = s.fw := rfl
@[simp] theorem hostWrite_fuse (a : Nat) (bs : List Byte) (s : State) : (hostWrite a bs s).fuse = s.fuse := rfl
@[simp] theorem hostWrite_att (a : Nat) (bs : List Byte) (s : State) : (hostWrite a bs s).att = s.att := rfl
@[simp] theorem hostWrite_mon (a : Nat) (bs : List Byte) (s : State) : (hostWrite a bs s).mon = s.mon := rfl
@[simp] theorem hostWrite_cal (a : Nat) (bs : List Byte) (s : State) : (hostWrite a bs s).cal = s.cal := rfl
@[simp] theorem hostWrite_hif (a : Nat) (bs : List Byte) (s : State) : (hostWrite a bs s).hif = s.hif := rfl
@[simp] theorem hostWrite_nonce (a : Nat) (bs : List Byte) (s : State) : (hostWrite a bs s).nonce = s.nonce := rfl
@[simp] theorem hostWrite_nextJob (a : Nat) (bs : List Byte) (s : State) :
    (hostWrite a bs s).nextJob = s.nextJob := rfl
@[simp] theorem hostWrite_jobs (a : Nat) (bs : List Byte) (s : State) : (hostWrite a bs s).jobs = s.jobs := rfl
@[simp] theorem hostWrite_colls (a : Nat) (bs : List Byte) (s : State) : (hostWrite a bs s).colls = s.colls := rfl
@[simp] theorem hostWrite_newts (a : Nat) (bs : List Byte) (s : State) : (hostWrite a bs s).newts = s.newts := rfl
@[simp] theorem hostWrite_sync (a : Nat) (bs : List Byte) (s : State) : (hostWrite a bs s).sync = s.sync := rfl
@[simp] theorem hostWrite_sch (a : Nat) (bs : List Byte) (s : State) : (hostWrite a bs s).sch = s.sch := rfl
@[simp] theorem hostWrite_swc (a : Nat) (bs : List Byte) (s : State) : (hostWrite a bs s).swc = s.swc := rfl
@[simp] theorem hostWrite_rte (a : Nat) (bs : List Byte) (s : State) : (hostWrite a bs s).rte = s.rte := rfl
@[simp] theorem hostWrite_shp (a : Nat) (bs : List Byte) (s : State) : (hostWrite a bs s).shp = s.shp := rfl
@[simp] theorem hostWrite_quads (a : Nat) (bs : List Byte) (s : State) : (hostWrite a bs s).quads = s.quads := rfl
@[simp] theorem hostWrite_lov (a : Nat) (bs : List Byte) (s : State) : (hostWrite a bs s).lov = s.lov := rfl
@[simp] theorem hostWrite_pool (a : Nat) (bs : List Byte) (s : State) : (hostWrite a bs s).pool = s.pool := rfl
@[simp] theorem hostWrite_dma (a : Nat) (bs : List Byte) (s : State) : (hostWrite a bs s).dma = s.dma := rfl
@[simp] theorem hostWrite_therm (a : Nat) (bs : List Byte) (s : State) : (hostWrite a bs s).therm = s.therm := rfl
@[simp] theorem hostWrite_out (a : Nat) (bs : List Byte) (s : State) : (hostWrite a bs s).out = s.out := rfl
@[simp] theorem hostWrite_free (a : Nat) (bs : List Byte) (s : State) : (hostWrite a bs s).free = s.free := rfl
@[simp] theorem hostWrite_pending (a : Nat) (bs : List Byte) (s : State) :
    (hostWrite a bs s).pending = s.pending := rfl

/-! Reading back a part just written: from a sorted table, or from any table when the value is not the default. -/

theorem newt_setNewt (n : Nat) (v : Newt) (s : State) (h : tsorted s.newts) : newt (setNewt n v s) n = v :=
  tget_tset_self _ h n v
theorem newt_setNewt_other (n m : Nat) (v : Newt) (s : State) (h : tsorted s.newts) (hm : m ≠ n) :
    newt (setNewt n v s) m = newt s m := tget_tset_other _ h n m v hm
theorem job_setJob (n : Nat) (v : Job) (s : State) (h : tsorted s.jobs) : job (setJob n v s) n = v :=
  tget_tset_self _ h n v
theorem job_setJob_other (n m : Nat) (v : Job) (s : State) (h : tsorted s.jobs) (hm : m ≠ n) :
    job (setJob n v s) m = job s m := tget_tset_other _ h n m v hm
theorem coll_setColl (n : Nat) (v : Coll) (s : State) (h : tsorted s.colls) : coll (setColl n v s) n = v :=
  tget_tset_self _ h n v
theorem coll_setColl_other (n m : Nat) (v : Coll) (s : State) (h : tsorted s.colls) (hm : m ≠ n) :
    coll (setColl n v s) m = coll s m := tget_tset_other _ h n m v hm
theorem obj_setObj (n : Nat) (v : SyncObj) (s : State) (h : tsorted s.sync.objs) : obj (setObj n v s) n = v :=
  tget_tset_self _ h n v
theorem obj_setObj_other (n m : Nat) (v : SyncObj) (s : State) (h : tsorted s.sync.objs) (hm : m ≠ n) :
    obj (setObj n v s) m = obj s m := tget_tset_other _ h n m v hm
theorem bline_setBline (n : Nat) (v : BLine) (s : State) (h : tsorted s.sync.lines) : bline (setBline n v s) n = v :=
  tget_tset_self _ h n v
theorem fline_setFline (n : Nat) (v : FLine) (s : State) (h : tsorted s.sync.fbl) : fline (setFline n v s) n = v :=
  tget_tset_self _ h n v
theorem quad_setQuad (n : Nat) (v : Quad) (s : State) (h : tsorted s.quads) : quad (setQuad n v s) n = v :=
  tget_tset_self _ h n v
theorem quad_setQuad_other (n m : Nat) (v : Quad) (s : State) (h : tsorted s.quads) (hm : m ≠ n) :
    quad (setQuad n v s) m = quad s m := tget_tset_other _ h n m v hm
theorem mslot_setMslot (n : Nat) (v : Slot) (s : State) (h : tsorted s.hif.slots) : mslot (setMslot n v s) n = v :=
  tget_tset_self _ h n v
theorem mslot_setMslot_other (n m : Nat) (v : Slot) (s : State) (h : tsorted s.hif.slots) (hm : m ≠ n) :
    mslot (setMslot n v s) m = mslot s m := tget_tset_other _ h n m v hm
theorem chan_setChan (n : Nat) (v : DmaCh) (s : State) (h : tsorted s.dma.chans) : chan (setChan n v s) n = v :=
  tget_tset_self _ h n v
theorem chan_setChan_other (n m : Nat) (v : DmaCh) (s : State) (h : tsorted s.dma.chans) (hm : m ≠ n) :
    chan (setChan n v s) m = chan s m := tget_tset_other _ h n m v hm
theorem rasRec_setRas (c : Nat) (r : RasRec) (s : State) (h : tsorted s.ras.recs) : rasRec (setRas c r s) c = r :=
  tget_tset_self _ h c r
theorem rasRec_setRas_ne (c : Nat) (r : RasRec) (s : State) (h : r ≠ {}) : rasRec (setRas c r s) c = r :=
  tget_tset_ne_default _ _ c r h
theorem rasRec_setRas_other (c d : Nat) (r : RasRec) (s : State) (h : tsorted s.ras.recs) (hd : d ≠ c) :
    rasRec (setRas c r s) d = rasRec s d := tget_tset_other _ h c d r hd

end Sys2Proof.Machine
end

