-- ==== Sys2Proof/Laws/Ops.lean ====
section
/-! SUPPORT. What the shared operations leave alone: vectors, events, the log, the raise of an error, replies and job
states. -/

namespace Sys2Proof.Machine

theorem foldl_field {α β : Type} (g : State → β) (f : State → α → State) (h : ∀ s a, g (f s a) = g s) (l : List α) (s : State) :
    g (l.foldl f s) = g s := by
  induction l generalizing s with
  | nil => rfl
  | cons a r ih => rw [List.foldl_cons, ih, h]

@[simp] theorem vector_pins (v : Nat) (s : State) : (vector v s).pins = s.pins := by
  unfold vector; (try dsimp only); (repeat' split) <;> simp [modJob]
@[simp] theorem vector_ras (v : Nat) (s : State) : (vector v s).ras = s.ras := by
  unfold vector; (try dsimp only); (repeat' split) <;> simp [modJob]
@[simp] theorem vector_log (v : Nat) (s : State) : (vector v s).log = s.log := by
  unfold vector; (try dsimp only); (repeat' split) <;> simp [modJob]
@[simp] theorem vector_unit (v : Nat) (s : State) : (vector v s).unit = s.unit := by
  unfold vector; (try dsimp only); (repeat' split) <;> simp [modJob]
@[simp] theorem vector_lay (v : Nat) (s : State) : (vector v s).lay = s.lay := by
  unfold vector; (try dsimp only); (repeat' split) <;> simp [modJob]
@[simp] theorem vector_fw (v : Nat) (s : State) : (vector v s).fw = s.fw := by
  unfold vector; (try dsimp only); (repeat' split) <;> simp [modJob]
@[simp] theorem vector_fuse (v : Nat) (s : State) : (vector v s).fuse = s.fuse := by
  unfold vector; (try dsimp only); (repeat' split) <;> simp [modJob]
@[simp] theorem vector_att (v : Nat) (s : State) : (vector v s).att = s.att := by
  unfold vector; (try dsimp only); (repeat' split) <;> simp [modJob]
@[simp] theorem vector_mon (v : Nat) (s : State) : (vector v s).mon = s.mon := by
  unfold vector; (try dsimp only); (repeat' split) <;> simp [modJob]
@[simp] theorem vector_cal (v : Nat) (s : State) : (vector v s).cal = s.cal := by
  unfold vector; (try dsimp only); (repeat' split) <;> simp [modJob]
@[simp] theorem vector_nonce (v : Nat) (s : State) : (vector v s).nonce = s.nonce := by
  unfold vector; (try dsimp only); (repeat' split) <;> simp [modJob]
@[simp] theorem vector_nextJob (v : Nat) (s : State) : (vector v s).nextJob = s.nextJob := by
  unfold vector; (try dsimp only); (repeat' split) <;> simp [modJob]
@[simp] theorem vector_jobs (v : Nat) (s : State) : (vector v s).jobs = s.jobs := by
  unfold vector; (try dsimp only); (repeat' split) <;> simp [modJob]
@[simp] theorem vector_colls (v : Nat) (s : State) : (vector v s).colls = s.colls := by
  unfold vector; (try dsimp only); (repeat' split) <;> simp [modJob]
@[simp] theorem vector_newts (v : Nat) (s : State) : (vector v s).newts = s.newts := by
  unfold vector; (try dsimp only); (repeat' split) <;> simp [modJob]
@[simp] theorem vector_sync (v : Nat) (s : State) : (vector v s).sync = s.sync := by
  unfold vector; (try dsimp only); (repeat' split) <;> simp [modJob]
@[simp] theorem vector_sch (v : Nat) (s : State) : (vector v s).sch = s.sch := by
  unfold vector; (try dsimp only); (repeat' split) <;> simp [modJob]
@[simp] theorem vector_swc (v : Nat) (s : State) : (vector v s).swc = s.swc := by
  unfold vector; (try dsimp only); (repeat' split) <;> simp [modJob]
@[simp] theorem vector_rte (v : Nat) (s : State) : (vector v s).rte = s.rte := by
  unfold vector; (try dsimp only); (repeat' split) <;> simp [modJob]
@[simp] theorem vector_shp (v : Nat) (s : State) : (vector v s).shp = s.shp := by
  unfold vector; (try dsimp only); (repeat' split) <;> simp [modJob]
@[simp] theorem vector_quads (v : Nat) (s : State) : (vector v s).quads = s.quads := by
  unfold vector; (try dsimp only); (repeat' split) <;> simp [modJob]
@[simp] theorem vector_lov (v : Nat) (s : State) : (vector v s).lov = s.lov := by
  unfold vector; (try dsimp only); (repeat' split) <;> simp [modJob]
@[simp] theorem vector_pool (v : Nat) (s : State) : (vector v s).pool = s.pool := by
  unfold vector; (try dsimp only); (repeat' split) <;> simp [modJob]
@[simp] theorem vector_dma (v : Nat) (s : State) : (vector v s).dma = s.dma := by
  unfold vector; (try dsimp only); (repeat' split) <;> simp [modJob]
@[simp] theorem vector_therm (v : Nat) (s : State) : (vector v s).therm = s.therm := by
  unfold vector; (try dsimp only); (repeat' split) <;> simp [modJob]
@[simp] theorem vector_hostMem (v : Nat) (s : State) : (vector v s).hostMem = s.hostMem := by
  unfold vector; (try dsimp only); (repeat' split) <;> simp [modJob]
@[simp] theorem vector_free (v : Nat) (s : State) : (vector v s).free = s.free := by
  unfold vector; (try dsimp only); (repeat' split) <;> simp [modJob]
@[simp] theorem vector_pending (v : Nat) (s : State) : (vector v s).pending = s.pending := by
  unfold vector; (try dsimp only); (repeat' split) <;> simp [modJob]
@[simp] theorem pushEvent_pins (typ : Nat) (data : List Byte) (s : State) : (pushEvent typ data s).pins = s.pins := by
  unfold pushEvent; (try dsimp only); (repeat' split) <;> simp [modJob]
@[simp] theorem pushEvent_ras (typ : Nat) (data : List Byte) (s : State) : (pushEvent typ data s).ras = s.ras := by
  unfold pushEvent; (try dsimp only); (repeat' split) <;> simp [modJob]
@[simp] theorem pushEvent_log (typ : Nat) (data : List Byte) (s : State) : (pushEvent typ data s).log = s.log := by
  unfold pushEvent; (try dsimp only); (repeat' split) <;> simp [modJob]
@[simp] theorem pushEvent_unit (typ : Nat) (data : List Byte) (s : State) : (pushEvent typ data s).unit = s.unit := by
  unfold pushEvent; (try dsimp only); (repeat' split) <;> simp [modJob]
@[simp] theorem pushEvent_lay (typ : Nat) (data : List Byte) (s : State) : (pushEvent typ data s).lay = s.lay := by
  unfold pushEvent; (try dsimp only); (repeat' split) <;> simp [modJob]
@[simp] theorem pushEvent_fw (typ : Nat) (data : List Byte) (s : State) : (pushEvent typ data s).fw = s.fw := by
  unfold pushEvent; (try dsimp only); (repeat' split) <;> simp [modJob]
@[simp] theorem pushEvent_fuse (typ : Nat) (data : List Byte) (s : State) : (pushEvent typ data s).fuse = s.fuse := by
  unfold pushEvent; (try dsimp only); (repeat' split) <;> simp [modJob]
@[simp] theorem pushEvent_att (typ : Nat) (data : List Byte) (s : State) : (pushEvent typ data s).att = s.att := by
  unfold pushEvent; (try dsimp only); (repeat' split) <;> simp [modJob]
@[simp] theorem pushEvent_mon (typ : Nat) (data : List Byte) (s : State) : (pushEvent typ data s).mon = s.mon := by
  unfold pushEvent; (try dsimp only); (repeat' split) <;> simp [modJob]
@[simp] theorem pushEvent_cal (typ : Nat) (data : List Byte) (s : State) : (pushEvent typ data s).cal = s.cal := by
  unfold pushEvent; (try dsimp only); (repeat' split) <;> simp [modJob]
@[simp] theorem pushEvent_nonce (typ : Nat) (data : List Byte) (s : State) :
    (pushEvent typ data s).nonce = s.nonce := by
  unfold pushEvent; (try dsimp only); (repeat' split) <;> simp [modJob]
@[simp] theorem pushEvent_nextJob (typ : Nat) (data : List Byte) (s : State) :
    (pushEvent typ data s).nextJob = s.nextJob := by
  unfold pushEvent; (try dsimp only); (repeat' split) <;> simp [modJob]
@[simp] theorem pushEvent_jobs (typ : Nat) (data : List Byte) (s : State) : (pushEvent typ data s).jobs = s.jobs := by
  unfold pushEvent; (try dsimp only); (repeat' split) <;> simp [modJob]
@[simp] theorem pushEvent_colls (typ : Nat) (data : List Byte) (s : State) :
    (pushEvent typ data s).colls = s.colls := by
  unfold pushEvent; (try dsimp only); (repeat' split) <;> simp [modJob]
@[simp] theorem pushEvent_newts (typ : Nat) (data : List Byte) (s : State) :
    (pushEvent typ data s).newts = s.newts := by
  unfold pushEvent; (try dsimp only); (repeat' split) <;> simp [modJob]
@[simp] theorem pushEvent_sync (typ : Nat) (data : List Byte) (s : State) : (pushEvent typ data s).sync = s.sync := by
  unfold pushEvent; (try dsimp only); (repeat' split) <;> simp [modJob]
@[simp] theorem pushEvent_sch (typ : Nat) (data : List Byte) (s : State) : (pushEvent typ data s).sch = s.sch := by
  unfold pushEvent; (try dsimp only); (repeat' split) <;> simp [modJob]
@[simp] theorem pushEvent_swc (typ : Nat) (data : List Byte) (s : State) : (pushEvent typ data s).swc = s.swc := by
  unfold pushEvent; (try dsimp only); (repeat' split) <;> simp [modJob]
@[simp] theorem pushEvent_rte (typ : Nat) (data : List Byte) (s : State) : (pushEvent typ data s).rte = s.rte := by
  unfold pushEvent; (try dsimp only); (repeat' split) <;> simp [modJob]
@[simp] theorem pushEvent_shp (typ : Nat) (data : List Byte) (s : State) : (pushEvent typ data s).shp = s.shp := by
  unfold pushEvent; (try dsimp only); (repeat' split) <;> simp [modJob]
@[simp] theorem pushEvent_quads (typ : Nat) (data : List Byte) (s : State) :
    (pushEvent typ data s).quads = s.quads := by
  unfold pushEvent; (try dsimp only); (repeat' split) <;> simp [modJob]
@[simp] theorem pushEvent_lov (typ : Nat) (data : List Byte) (s : State) : (pushEvent typ data s).lov = s.lov := by
  unfold pushEvent; (try dsimp only); (repeat' split) <;> simp [modJob]
@[simp] theorem pushEvent_pool (typ : Nat) (data : List Byte) (s : State) : (pushEvent typ data s).pool = s.pool := by
  unfold pushEvent; (try dsimp only); (repeat' split) <;> simp [modJob]
@[simp] theorem pushEvent_dma (typ : Nat) (data : List Byte) (s : State) : (pushEvent typ data s).dma = s.dma := by
  unfold pushEvent; (try dsimp only); (repeat' split) <;> simp [modJob]
@[simp] theorem pushEvent_therm (typ : Nat) (data : List Byte) (s : State) :
    (pushEvent typ data s).therm = s.therm := by
  unfold pushEvent; (try dsimp only); (repeat' split) <;> simp [modJob]
@[simp] theorem pushEvent_hostMem (typ : Nat) (data : List Byte) (s : State) :
    (pushEvent typ data s).hostMem = s.hostMem := by
  unfold pushEvent; (try dsimp only); (repeat' split) <;> simp [modJob]
@[simp] theorem pushEvent_out (typ : Nat) (data : List Byte) (s : State) : (pushEvent typ data s).out = s.out := by
  unfold pushEvent; (try dsimp only); (repeat' split) <;> simp [modJob]
@[simp] theorem pushEvent_free (typ : Nat) (data : List Byte) (s : State) : (pushEvent typ data s).free = s.free := by
  unfold pushEvent; (try dsimp only); (repeat' split) <;> simp [modJob]
@[simp] theorem pushEvent_pending (typ : Nat) (data : List Byte) (s : State) :
    (pushEvent typ data s).pending = s.pending := by
  unfold pushEvent; (try dsimp only); (repeat' split) <;> simp [modJob]
@[simp] theorem logRing_pins (e : LogItem) (s : State) : (logRing e s).pins = s.pins := by
  unfold logRing; (try dsimp only); (repeat' split) <;> simp [modJob]
@[simp] theorem logRing_ras (e : LogItem) (s : State) : (logRing e s).ras = s.ras := by
  unfold logRing; (try dsimp only); (repeat' split) <;> simp [modJob]
@[simp] theorem logRing_unit (e : LogItem) (s : State) : (logRing e s).unit = s.unit := by
  unfold logRing; (try dsimp only); (repeat' split) <;> simp [modJob]
@[simp] theorem logRing_lay (e : LogItem) (s : State) : (logRing e s).lay = s.lay := by
  unfold logRing; (try dsimp only); (repeat' split) <;> simp [modJob]
@[simp] theorem logRing_fw (e : LogItem) (s : State) : (logRing e s).fw = s.fw := by
  unfold logRing; (try dsimp only); (repeat' split) <;> simp [modJob]
@[simp] theorem logRing_fuse (e : LogItem) (s : State) : (logRing e s).fuse = s.fuse := by
  unfold logRing; (try dsimp only); (repeat' split) <;> simp [modJob]
@[simp] theorem logRing_att (e : LogItem) (s : State) : (logRing e s).att = s.att := by
  unfold logRing; (try dsimp only); (repeat' split) <;> simp [modJob]
@[simp] theorem logRing_mon (e : LogItem) (s : State) : (logRing e s).mon = s.mon := by
  unfold logRing; (try dsimp only); (repeat' split) <;> simp [modJob]
@[simp] theorem logRing_cal (e : LogItem) (s : State) : (logRing e s).cal = s.cal := by
  unfold logRing; (try dsimp only); (repeat' split) <;> simp [modJob]
@[simp] theorem logRing_hif (e : LogItem) (s : State) : (logRing e s).hif = s.hif := by
  unfold logRing; (try dsimp only); (repeat' split) <;> simp [modJob]
@[simp] theorem logRing_nonce (e : LogItem) (s : State) : (logRing e s).nonce = s.nonce := by
  unfold logRing; (try dsimp only); (repeat' split) <;> simp [modJob]
@[simp] theorem logRing_nextJob (e : LogItem) (s : State) : (logRing e s).nextJob = s.nextJob := by
  unfold logRing; (try dsimp only); (repeat' split) <;> simp [modJob]
@[simp] theorem logRing_jobs (e : LogItem) (s : State) : (logRing e s).jobs = s.jobs := by
  unfold logRing; (try dsimp only); (repeat' split) <;> simp [modJob]
@[simp] theorem logRing_colls (e : LogItem) (s : State) : (logRing e s).colls = s.colls := by
  unfold logRing; (try dsimp only); (repeat' split) <;> simp [modJob]
@[simp] theorem logRing_newts (e : LogItem) (s : State) : (logRing e s).newts = s.newts := by
  unfold logRing; (try dsimp only); (repeat' split) <;> simp [modJob]
@[simp] theorem logRing_sync (e : LogItem) (s : State) : (logRing e s).sync = s.sync := by
  unfold logRing; (try dsimp only); (repeat' split) <;> simp [modJob]
@[simp] theorem logRing_sch (e : LogItem) (s : State) : (logRing e s).sch = s.sch := by
  unfold logRing; (try dsimp only); (repeat' split) <;> simp [modJob]
@[simp] theorem logRing_swc (e : LogItem) (s : State) : (logRing e s).swc = s.swc := by
  unfold logRing; (try dsimp only); (repeat' split) <;> simp [modJob]
@[simp] theorem logRing_rte (e : LogItem) (s : State) : (logRing e s).rte = s.rte := by
  unfold logRing; (try dsimp only); (repeat' split) <;> simp [modJob]
@[simp] theorem logRing_shp (e : LogItem) (s : State) : (logRing e s).shp = s.shp := by
  unfold logRing; (try dsimp only); (repeat' split) <;> simp [modJob]
@[simp] theorem logRing_quads (e : LogItem) (s : State) : (logRing e s).quads = s.quads := by
  unfold logRing; (try dsimp only); (repeat' split) <;> simp [modJob]
@[simp] theorem logRing_pool (e : LogItem) (s : State) : (logRing e s).pool = s.pool := by
  unfold logRing; (try dsimp only); (repeat' split) <;> simp [modJob]
@[simp] theorem logRing_dma (e : LogItem) (s : State) : (logRing e s).dma = s.dma := by
  unfold logRing; (try dsimp only); (repeat' split) <;> simp [modJob]
@[simp] theorem logRing_therm (e : LogItem) (s : State) : (logRing e s).therm = s.therm := by
  unfold logRing; (try dsimp only); (repeat' split) <;> simp [modJob]
@[simp] theorem logRing_hostMem (e : LogItem) (s : State) : (logRing e s).hostMem = s.hostMem := by
  unfold logRing; (try dsimp only); (repeat' split) <;> simp [modJob]
@[simp] theorem logRing_out (e : LogItem) (s : State) : (logRing e s).out = s.out := by
  unfold logRing; (try dsimp only); (repeat' split) <;> simp [modJob]
@[simp] theorem logRing_free (e : LogItem) (s : State) : (logRing e s).free = s.free := by
  unfold logRing; (try dsimp only); (repeat' split) <;> simp [modJob]
@[simp] theorem logRing_pending (e : LogItem) (s : State) : (logRing e s).pending = s.pending := by
  unfold logRing; (try dsimp only); (repeat' split) <;> simp [modJob]
@[simp] theorem logUnstage_pins (s : State) :
    (logUnstage s).pins = s.pins := foldl_field (·.pins) _ (fun _ _ => by simp) _ _
@[simp] theorem logUnstage_ras (s : State) :
    (logUnstage s).ras = s.ras := foldl_field (·.ras) _ (fun _ _ => by simp) _ _
@[simp] theorem logUnstage_unit (s : State) :
    (logUnstage s).unit = s.unit := foldl_field (·.unit) _ (fun _ _ => by simp) _ _
@[simp] theorem logUnstage_lay (s : State) :
    (logUnstage s).lay = s.lay := foldl_field (·.lay) _ (fun _ _ => by simp) _ _
@[simp] theorem logUnstage_fw (s : State) : (logUnstage s).fw = s.fw := foldl_field (·.fw) _ (fun _ _ => by simp) _ _
@[simp] theorem logUnstage_fuse (s : State) :
    (logUnstage s).fuse = s.fuse := foldl_field (·.fuse) _ (fun _ _ => by simp) _ _
@[simp] theorem logUnstage_att (s : State) :
    (logUnstage s).att = s.att := foldl_field (·.att) _ (fun _ _ => by simp) _ _
@[simp] theorem logUnstage_mon (s : State) :
    (logUnstage s).mon = s.mon := foldl_field (·.mon) _ (fun _ _ => by simp) _ _
@[simp] theorem logUnstage_cal (s : State) :
    (logUnstage s).cal = s.cal := foldl_field (·.cal) _ (fun _ _ => by simp) _ _
@[simp] theorem logUnstage_hif (s : State) :
    (logUnstage s).hif = s.hif := foldl_field (·.hif) _ (fun _ _ => by simp) _ _
@[simp] theorem logUnstage_nonce (s : State) :
    (logUnstage s).nonce = s.nonce := foldl_field (·.nonce) _ (fun _ _ => by simp) _ _
@[simp] theorem logUnstage_nextJob (s : State) :
    (logUnstage s).nextJob = s.nextJob := foldl_field (·.nextJob) _ (fun _ _ => by simp) _ _
@[simp] theorem logUnstage_jobs (s : State) :
    (logUnstage s).jobs = s.jobs := foldl_field (·.jobs) _ (fun _ _ => by simp) _ _
@[simp] theorem logUnstage_colls (s : State) :
    (logUnstage s).colls = s.colls := foldl_field (·.colls) _ (fun _ _ => by simp) _ _
@[simp] theorem logUnstage_newts (s : State) :
    (logUnstage s).newts = s.newts := foldl_field (·.newts) _ (fun _ _ => by simp) _ _
@[simp] theorem logUnstage_sync (s : State) :
    (logUnstage s).sync = s.sync := foldl_field (·.sync) _ (fun _ _ => by simp) _ _
@[simp] theorem logUnstage_sch (s : State) :
    (logUnstage s).sch = s.sch := foldl_field (·.sch) _ (fun _ _ => by simp) _ _
@[simp] theorem logUnstage_swc (s : State) :
    (logUnstage s).swc = s.swc := foldl_field (·.swc) _ (fun _ _ => by simp) _ _
@[simp] theorem logUnstage_rte (s : State) :
    (logUnstage s).rte = s.rte := foldl_field (·.rte) _ (fun _ _ => by simp) _ _
@[simp] theorem logUnstage_shp (s : State) :
    (logUnstage s).shp = s.shp := foldl_field (·.shp) _ (fun _ _ => by simp) _ _
@[simp] theorem logUnstage_quads (s : State) :
    (logUnstage s).quads = s.quads := foldl_field (·.quads) _ (fun _ _ => by simp) _ _
@[simp] theorem logUnstage_pool (s : State) :
    (logUnstage s).pool = s.pool := foldl_field (·.pool) _ (fun _ _ => by simp) _ _
@[simp] theorem logUnstage_dma (s : State) :
    (logUnstage s).dma = s.dma := foldl_field (·.dma) _ (fun _ _ => by simp) _ _
@[simp] theorem logUnstage_therm (s : State) :
    (logUnstage s).therm = s.therm := foldl_field (·.therm) _ (fun _ _ => by simp) _ _
@[simp] theorem logUnstage_hostMem (s : State) :
    (logUnstage s).hostMem = s.hostMem := foldl_field (·.hostMem) _ (fun _ _ => by simp) _ _
@[simp] theorem logUnstage_out (s : State) :
    (logUnstage s).out = s.out := foldl_field (·.out) _ (fun _ _ => by simp) _ _
@[simp] theorem logUnstage_free (s : State) :
    (logUnstage s).free = s.free := foldl_field (·.free) _ (fun _ _ => by simp) _ _
@[simp] theorem logUnstage_pending (s : State) :
    (logUnstage s).pending = s.pending := foldl_field (·.pending) _ (fun _ _ => by simp) _ _
@[simp] theorem logNow_pins (e : LogItem) (s : State) : (logNow e s).pins = s.pins := by
  unfold logNow; (try dsimp only); (repeat' split) <;> simp [modJob]
@[simp] theorem logNow_ras (e : LogItem) (s : State) : (logNow e s).ras = s.ras := by
  unfold logNow; (try dsimp only); (repeat' split) <;> simp [modJob]
@[simp] theorem logNow_unit (e : LogItem) (s : State) : (logNow e s).unit = s.unit := by
  unfold logNow; (try dsimp only); (repeat' split) <;> simp [modJob]
@[simp] theorem logNow_lay (e : LogItem) (s : State) : (logNow e s).lay = s.lay := by
  unfold logNow; (try dsimp only); (repeat' split) <;> simp [modJob]
@[simp] theorem logNow_fw (e : LogItem) (s : State) : (logNow e s).fw = s.fw := by
  unfold logNow; (try dsimp only); (repeat' split) <;> simp [modJob]
@[simp] theorem logNow_fuse (e : LogItem) (s : State) : (logNow e s).fuse = s.fuse := by
  unfold logNow; (try dsimp only); (repeat' split) <;> simp [modJob]
@[simp] theorem logNow_att (e : LogItem) (s : State) : (logNow e s).att = s.att := by
  unfold logNow; (try dsimp only); (repeat' split) <;> simp [modJob]
@[simp] theorem logNow_mon (e : LogItem) (s : State) : (logNow e s).mon = s.mon := by
  unfold logNow; (try dsimp only); (repeat' split) <;> simp [modJob]
@[simp] theorem logNow_cal (e : LogItem) (s : State) : (logNow e s).cal = s.cal := by
  unfold logNow; (try dsimp only); (repeat' split) <;> simp [modJob]
@[simp] theorem logNow_hif (e : LogItem) (s : State) : (logNow e s).hif = s.hif := by
  unfold logNow; (try dsimp only); (repeat' split) <;> simp [modJob]
@[simp] theorem logNow_nonce (e : LogItem) (s : State) : (logNow e s).nonce = s.nonce := by
  unfold logNow; (try dsimp only); (repeat' split) <;> simp [modJob]
@[simp] theorem logNow_nextJob (e : LogItem) (s : State) : (logNow e s).nextJob = s.nextJob := by
  unfold logNow; (try dsimp only); (repeat' split) <;> simp [modJob]
@[simp] theorem logNow_jobs (e : LogItem) (s : State) : (logNow e s).jobs = s.jobs := by
  unfold logNow; (try dsimp only); (repeat' split) <;> simp [modJob]
@[simp] theorem logNow_colls (e : LogItem) (s : State) : (logNow e s).colls = s.colls := by
  unfold logNow; (try dsimp only); (repeat' split) <;> simp [modJob]
@[simp] theorem logNow_newts (e : LogItem) (s : State) : (logNow e s).newts = s.newts := by
  unfold logNow; (try dsimp only); (repeat' split) <;> simp [modJob]
@[simp] theorem logNow_sync (e : LogItem) (s : State) : (logNow e s).sync = s.sync := by
  unfold logNow; (try dsimp only); (repeat' split) <;> simp [modJob]
@[simp] theorem logNow_sch (e : LogItem) (s : State) : (logNow e s).sch = s.sch := by
  unfold logNow; (try dsimp only); (repeat' split) <;> simp [modJob]
@[simp] theorem logNow_swc (e : LogItem) (s : State) : (logNow e s).swc = s.swc := by
  unfold logNow; (try dsimp only); (repeat' split) <;> simp [modJob]
@[simp] theorem logNow_rte (e : LogItem) (s : State) : (logNow e s).rte = s.rte := by
  unfold logNow; (try dsimp only); (repeat' split) <;> simp [modJob]
@[simp] theorem logNow_shp (e : LogItem) (s : State) : (logNow e s).shp = s.shp := by
  unfold logNow; (try dsimp only); (repeat' split) <;> simp [modJob]
@[simp] theorem logNow_quads (e : LogItem) (s : State) : (logNow e s).quads = s.quads := by
  unfold logNow; (try dsimp only); (repeat' split) <;> simp [modJob]
@[simp] theorem logNow_pool (e : LogItem) (s : State) : (logNow e s).pool = s.pool := by
  unfold logNow; (try dsimp only); (repeat' split) <;> simp [modJob]
@[simp] theorem logNow_dma (e : LogItem) (s : State) : (logNow e s).dma = s.dma := by
  unfold logNow; (try dsimp only); (repeat' split) <;> simp [modJob]
@[simp] theorem logNow_therm (e : LogItem) (s : State) : (logNow e s).therm = s.therm := by
  unfold logNow; (try dsimp only); (repeat' split) <;> simp [modJob]
@[simp] theorem logNow_hostMem (e : LogItem) (s : State) : (logNow e s).hostMem = s.hostMem := by
  unfold logNow; (try dsimp only); (repeat' split) <;> simp [modJob]
@[simp] theorem logNow_out (e : LogItem) (s : State) : (logNow e s).out = s.out := by
  unfold logNow; (try dsimp only); (repeat' split) <;> simp [modJob]
@[simp] theorem logNow_pending (e : LogItem) (s : State) : (logNow e s).pending = s.pending := by
  unfold logNow; (try dsimp only); (repeat' split) <;> simp [modJob]
@[simp] theorem logAdd_pins (typ id : Nat) (data : List Byte) (s : State) : (logAdd typ id data s).pins = s.pins := by
  unfold logAdd; (try dsimp only); (repeat' split) <;> simp [modJob]
@[simp] theorem logAdd_ras (typ id : Nat) (data : List Byte) (s : State) : (logAdd typ id data s).ras = s.ras := by
  unfold logAdd; (try dsimp only); (repeat' split) <;> simp [modJob]
@[simp] theorem logAdd_unit (typ id : Nat) (data : List Byte) (s : State) : (logAdd typ id data s).unit = s.unit := by
  unfold logAdd; (try dsimp only); (repeat' split) <;> simp [modJob]
@[simp] theorem logAdd_lay (typ id : Nat) (data : List Byte) (s : State) : (logAdd typ id data s).lay = s.lay := by
  unfold logAdd; (try dsimp only); (repeat' split) <;> simp [modJob]
@[simp] theorem logAdd_fw (typ id : Nat) (data : List Byte) (s : State) : (logAdd typ id data s).fw = s.fw := by
  unfold logAdd; (try dsimp only); (repeat' split) <;> simp [modJob]
@[simp] theorem logAdd_fuse (typ id : Nat) (data : List Byte) (s : State) : (logAdd typ id data s).fuse = s.fuse := by
  unfold logAdd; (try dsimp only); (repeat' split) <;> simp [modJob]
@[simp] theorem logAdd_att (typ id : Nat) (data : List Byte) (s : State) : (logAdd typ id data s).att = s.att := by
  unfold logAdd; (try dsimp only); (repeat' split) <;> simp [modJob]
@[simp] theorem logAdd_mon (typ id : Nat) (data : List Byte) (s : State) : (logAdd typ id data s).mon = s.mon := by
  unfold logAdd; (try dsimp only); (repeat' split) <;> simp [modJob]
@[simp] theorem logAdd_cal (typ id : Nat) (data : List Byte) (s : State) : (logAdd typ id data s).cal = s.cal := by
  unfold logAdd; (try dsimp only); (repeat' split) <;> simp [modJob]
@[simp] theorem logAdd_hif (typ id : Nat) (data : List Byte) (s : State) : (logAdd typ id data s).hif = s.hif := by
  unfold logAdd; (try dsimp only); (repeat' split) <;> simp [modJob]
@[simp] theorem logAdd_nonce (typ id : Nat) (data : List Byte) (s : State) :
    (logAdd typ id data s).nonce = s.nonce := by
  unfold logAdd; (try dsimp only); (repeat' split) <;> simp [modJob]
@[simp] theorem logAdd_nextJob (typ id : Nat) (data : List Byte) (s : State) :
    (logAdd typ id data s).nextJob = s.nextJob := by
  unfold logAdd; (try dsimp only); (repeat' split) <;> simp [modJob]
@[simp] theorem logAdd_jobs (typ id : Nat) (data : List Byte) (s : State) : (logAdd typ id data s).jobs = s.jobs := by
  unfold logAdd; (try dsimp only); (repeat' split) <;> simp [modJob]
@[simp] theorem logAdd_colls (typ id : Nat) (data : List Byte) (s : State) :
    (logAdd typ id data s).colls = s.colls := by
  unfold logAdd; (try dsimp only); (repeat' split) <;> simp [modJob]
@[simp] theorem logAdd_newts (typ id : Nat) (data : List Byte) (s : State) :
    (logAdd typ id data s).newts = s.newts := by
  unfold logAdd; (try dsimp only); (repeat' split) <;> simp [modJob]
@[simp] theorem logAdd_sync (typ id : Nat) (data : List Byte) (s : State) : (logAdd typ id data s).sync = s.sync := by
  unfold logAdd; (try dsimp only); (repeat' split) <;> simp [modJob]
@[simp] theorem logAdd_sch (typ id : Nat) (data : List Byte) (s : State) : (logAdd typ id data s).sch = s.sch := by
  unfold logAdd; (try dsimp only); (repeat' split) <;> simp [modJob]
@[simp] theorem logAdd_swc (typ id : Nat) (data : List Byte) (s : State) : (logAdd typ id data s).swc = s.swc := by
  unfold logAdd; (try dsimp only); (repeat' split) <;> simp [modJob]
@[simp] theorem logAdd_rte (typ id : Nat) (data : List Byte) (s : State) : (logAdd typ id data s).rte = s.rte := by
  unfold logAdd; (try dsimp only); (repeat' split) <;> simp [modJob]
@[simp] theorem logAdd_shp (typ id : Nat) (data : List Byte) (s : State) : (logAdd typ id data s).shp = s.shp := by
  unfold logAdd; (try dsimp only); (repeat' split) <;> simp [modJob]
@[simp] theorem logAdd_quads (typ id : Nat) (data : List Byte) (s : State) :
    (logAdd typ id data s).quads = s.quads := by
  unfold logAdd; (try dsimp only); (repeat' split) <;> simp [modJob]
@[simp] theorem logAdd_pool (typ id : Nat) (data : List Byte) (s : State) : (logAdd typ id data s).pool = s.pool := by
  unfold logAdd; (try dsimp only); (repeat' split) <;> simp [modJob]
@[simp] theorem logAdd_dma (typ id : Nat) (data : List Byte) (s : State) : (logAdd typ id data s).dma = s.dma := by
  unfold logAdd; (try dsimp only); (repeat' split) <;> simp [modJob]
@[simp] theorem logAdd_therm (typ id : Nat) (data : List Byte) (s : State) :
    (logAdd typ id data s).therm = s.therm := by
  unfold logAdd; (try dsimp only); (repeat' split) <;> simp [modJob]
@[simp] theorem logAdd_hostMem (typ id : Nat) (data : List Byte) (s : State) :
    (logAdd typ id data s).hostMem = s.hostMem := by
  unfold logAdd; (try dsimp only); (repeat' split) <;> simp [modJob]
@[simp] theorem logAdd_out (typ id : Nat) (data : List Byte) (s : State) : (logAdd typ id data s).out = s.out := by
  unfold logAdd; (try dsimp only); (repeat' split) <;> simp [modJob]
@[simp] theorem logAdd_pending (typ id : Nat) (data : List Byte) (s : State) :
    (logAdd typ id data s).pending = s.pending := by
  unfold logAdd; (try dsimp only); (repeat' split) <;> simp [modJob]
@[simp] theorem logOpen_pins (typ id : Nat) (s : State) : (logOpen typ id s).pins = s.pins := by
  unfold logOpen; (try dsimp only); (repeat' split) <;> simp [modJob]
@[simp] theorem logOpen_ras (typ id : Nat) (s : State) : (logOpen typ id s).ras = s.ras := by
  unfold logOpen; (try dsimp only); (repeat' split) <;> simp [modJob]
@[simp] theorem logOpen_unit (typ id : Nat) (s : State) : (logOpen typ id s).unit = s.unit := by
  unfold logOpen; (try dsimp only); (repeat' split) <;> simp [modJob]
@[simp] theorem logOpen_lay (typ id : Nat) (s : State) : (logOpen typ id s).lay = s.lay := by
  unfold logOpen; (try dsimp only); (repeat' split) <;> simp [modJob]
@[simp] theorem logOpen_fw (typ id : Nat) (s : State) : (logOpen typ id s).fw = s.fw := by
  unfold logOpen; (try dsimp only); (repeat' split) <;> simp [modJob]
@[simp] theorem logOpen_fuse (typ id : Nat) (s : State) : (logOpen typ id s).fuse = s.fuse := by
  unfold logOpen; (try dsimp only); (repeat' split) <;> simp [modJob]
@[simp] theorem logOpen_att (typ id : Nat) (s : State) : (logOpen typ id s).att = s.att := by
  unfold logOpen; (try dsimp only); (repeat' split) <;> simp [modJob]
@[simp] theorem logOpen_mon (typ id : Nat) (s : State) : (logOpen typ id s).mon = s.mon := by
  unfold logOpen; (try dsimp only); (repeat' split) <;> simp [modJob]
@[simp] theorem logOpen_cal (typ id : Nat) (s : State) : (logOpen typ id s).cal = s.cal := by
  unfold logOpen; (try dsimp only); (repeat' split) <;> simp [modJob]
@[simp] theorem logOpen_hif (typ id : Nat) (s : State) : (logOpen typ id s).hif = s.hif := by
  unfold logOpen; (try dsimp only); (repeat' split) <;> simp [modJob]
@[simp] theorem logOpen_nonce (typ id : Nat) (s : State) : (logOpen typ id s).nonce = s.nonce := by
  unfold logOpen; (try dsimp only); (repeat' split) <;> simp [modJob]
@[simp] theorem logOpen_nextJob (typ id : Nat) (s : State) : (logOpen typ id s).nextJob = s.nextJob := by
  unfold logOpen; (try dsimp only); (repeat' split) <;> simp [modJob]
@[simp] theorem logOpen_jobs (typ id : Nat) (s : State) : (logOpen typ id s).jobs = s.jobs := by
  unfold logOpen; (try dsimp only); (repeat' split) <;> simp [modJob]
@[simp] theorem logOpen_colls (typ id : Nat) (s : State) : (logOpen typ id s).colls = s.colls := by
  unfold logOpen; (try dsimp only); (repeat' split) <;> simp [modJob]
@[simp] theorem logOpen_newts (typ id : Nat) (s : State) : (logOpen typ id s).newts = s.newts := by
  unfold logOpen; (try dsimp only); (repeat' split) <;> simp [modJob]
@[simp] theorem logOpen_sync (typ id : Nat) (s : State) : (logOpen typ id s).sync = s.sync := by
  unfold logOpen; (try dsimp only); (repeat' split) <;> simp [modJob]
@[simp] theorem logOpen_sch (typ id : Nat) (s : State) : (logOpen typ id s).sch = s.sch := by
  unfold logOpen; (try dsimp only); (repeat' split) <;> simp [modJob]
@[simp] theorem logOpen_swc (typ id : Nat) (s : State) : (logOpen typ id s).swc = s.swc := by
  unfold logOpen; (try dsimp only); (repeat' split) <;> simp [modJob]
@[simp] theorem logOpen_rte (typ id : Nat) (s : State) : (logOpen typ id s).rte = s.rte := by
  unfold logOpen; (try dsimp only); (repeat' split) <;> simp [modJob]
@[simp] theorem logOpen_shp (typ id : Nat) (s : State) : (logOpen typ id s).shp = s.shp := by
  unfold logOpen; (try dsimp only); (repeat' split) <;> simp [modJob]
@[simp] theorem logOpen_quads (typ id : Nat) (s : State) : (logOpen typ id s).quads = s.quads := by
  unfold logOpen; (try dsimp only); (repeat' split) <;> simp [modJob]
@[simp] theorem logOpen_pool (typ id : Nat) (s : State) : (logOpen typ id s).pool = s.pool := by
  unfold logOpen; (try dsimp only); (repeat' split) <;> simp [modJob]
@[simp] theorem logOpen_dma (typ id : Nat) (s : State) : (logOpen typ id s).dma = s.dma := by
  unfold logOpen; (try dsimp only); (repeat' split) <;> simp [modJob]
@[simp] theorem logOpen_therm (typ id : Nat) (s : State) : (logOpen typ id s).therm = s.therm := by
  unfold logOpen; (try dsimp only); (repeat' split) <;> simp [modJob]
@[simp] theorem logOpen_hostMem (typ id : Nat) (s : State) : (logOpen typ id s).hostMem = s.hostMem := by
  unfold logOpen; (try dsimp only); (repeat' split) <;> simp [modJob]
@[simp] theorem logOpen_out (typ id : Nat) (s : State) : (logOpen typ id s).out = s.out := by
  unfold logOpen; (try dsimp only); (repeat' split) <;> simp [modJob]
@[simp] theorem logOpen_pending (typ id : Nat) (s : State) : (logOpen typ id s).pending = s.pending := by
  unfold logOpen; (try dsimp only); (repeat' split) <;> simp [modJob]
@[simp] theorem rasLog_pins (o : Occ) (s : State) : (rasLog o s).pins = s.pins := by
  unfold rasLog; (try dsimp only); (repeat' split) <;> simp [modJob]
@[simp] theorem rasLog_unit (o : Occ) (s : State) : (rasLog o s).unit = s.unit := by
  unfold rasLog; (try dsimp only); (repeat' split) <;> simp [modJob]
@[simp] theorem rasLog_lay (o : Occ) (s : State) : (rasLog o s).lay = s.lay := by
  unfold rasLog; (try dsimp only); (repeat' split) <;> simp [modJob]
@[simp] theorem rasLog_fw (o : Occ) (s : State) : (rasLog o s).fw = s.fw := by
  unfold rasLog; (try dsimp only); (repeat' split) <;> simp [modJob]
@[simp] theorem rasLog_fuse (o : Occ) (s : State) : (rasLog o s).fuse = s.fuse := by
  unfold rasLog; (try dsimp only); (repeat' split) <;> simp [modJob]
@[simp] theorem rasLog_att (o : Occ) (s : State) : (rasLog o s).att = s.att := by
  unfold rasLog; (try dsimp only); (repeat' split) <;> simp [modJob]
@[simp] theorem rasLog_mon (o : Occ) (s : State) : (rasLog o s).mon = s.mon := by
  unfold rasLog; (try dsimp only); (repeat' split) <;> simp [modJob]
@[simp] theorem rasLog_cal (o : Occ) (s : State) : (rasLog o s).cal = s.cal := by
  unfold rasLog; (try dsimp only); (repeat' split) <;> simp [modJob]
@[simp] theorem rasLog_hif (o : Occ) (s : State) : (rasLog o s).hif = s.hif := by
  unfold rasLog; (try dsimp only); (repeat' split) <;> simp [modJob]
@[simp] theorem rasLog_nonce (o : Occ) (s : State) : (rasLog o s).nonce = s.nonce := by
  unfold rasLog; (try dsimp only); (repeat' split) <;> simp [modJob]
@[simp] theorem rasLog_nextJob (o : Occ) (s : State) : (rasLog o s).nextJob = s.nextJob := by
  unfold rasLog; (try dsimp only); (repeat' split) <;> simp [modJob]
@[simp] theorem rasLog_jobs (o : Occ) (s : State) : (rasLog o s).jobs = s.jobs := by
  unfold rasLog; (try dsimp only); (repeat' split) <;> simp [modJob]
@[simp] theorem rasLog_colls (o : Occ) (s : State) : (rasLog o s).colls = s.colls := by
  unfold rasLog; (try dsimp only); (repeat' split) <;> simp [modJob]
@[simp] theorem rasLog_newts (o : Occ) (s : State) : (rasLog o s).newts = s.newts := by
  unfold rasLog; (try dsimp only); (repeat' split) <;> simp [modJob]
@[simp] theorem rasLog_sync (o : Occ) (s : State) : (rasLog o s).sync = s.sync := by
  unfold rasLog; (try dsimp only); (repeat' split) <;> simp [modJob]
@[simp] theorem rasLog_sch (o : Occ) (s : State) : (rasLog o s).sch = s.sch := by
  unfold rasLog; (try dsimp only); (repeat' split) <;> simp [modJob]
@[simp] theorem rasLog_swc (o : Occ) (s : State) : (rasLog o s).swc = s.swc := by
  unfold rasLog; (try dsimp only); (repeat' split) <;> simp [modJob]
@[simp] theorem rasLog_rte (o : Occ) (s : State) : (rasLog o s).rte = s.rte := by
  unfold rasLog; (try dsimp only); (repeat' split) <;> simp [modJob]
@[simp] theorem rasLog_shp (o : Occ) (s : State) : (rasLog o s).shp = s.shp := by
  unfold rasLog; (try dsimp only); (repeat' split) <;> simp [modJob]
@[simp] theorem rasLog_quads (o : Occ) (s : State) : (rasLog o s).quads = s.quads := by
  unfold rasLog; (try dsimp only); (repeat' split) <;> simp [modJob]
@[simp] theorem rasLog_pool (o : Occ) (s : State) : (rasLog o s).pool = s.pool := by
  unfold rasLog; (try dsimp only); (repeat' split) <;> simp [modJob]
@[simp] theorem rasLog_dma (o : Occ) (s : State) : (rasLog o s).dma = s.dma := by
  unfold rasLog; (try dsimp only); (repeat' split) <;> simp [modJob]
@[simp] theorem rasLog_therm (o : Occ) (s : State) : (rasLog o s).therm = s.therm := by
  unfold rasLog; (try dsimp only); (repeat' split) <;> simp [modJob]
@[simp] theorem rasLog_hostMem (o : Occ) (s : State) : (rasLog o s).hostMem = s.hostMem := by
  unfold rasLog; (try dsimp only); (repeat' split) <;> simp [modJob]
@[simp] theorem rasLog_out (o : Occ) (s : State) : (rasLog o s).out = s.out := by
  unfold rasLog; (try dsimp only); (repeat' split) <;> simp [modJob]
@[simp] theorem rasLog_pending (o : Occ) (s : State) : (rasLog o s).pending = s.pending := by
  unfold rasLog; (try dsimp only); (repeat' split) <;> simp [modJob]
@[simp] theorem rasEvent_pins (code : Nat) (s : State) : (rasEvent code s).pins = s.pins := by
  unfold rasEvent; (try dsimp only); (repeat' split) <;> simp [modJob]
@[simp] theorem rasEvent_log (code : Nat) (s : State) : (rasEvent code s).log = s.log := by
  unfold rasEvent; (try dsimp only); (repeat' split) <;> simp [modJob]
@[simp] theorem rasEvent_unit (code : Nat) (s : State) : (rasEvent code s).unit = s.unit := by
  unfold rasEvent; (try dsimp only); (repeat' split) <;> simp [modJob]
@[simp] theorem rasEvent_lay (code : Nat) (s : State) : (rasEvent code s).lay = s.lay := by
  unfold rasEvent; (try dsimp only); (repeat' split) <;> simp [modJob]
@[simp] theorem rasEvent_fw (code : Nat) (s : State) : (rasEvent code s).fw = s.fw := by
  unfold rasEvent; (try dsimp only); (repeat' split) <;> simp [modJob]
@[simp] theorem rasEvent_fuse (code : Nat) (s : State) : (rasEvent code s).fuse = s.fuse := by
  unfold rasEvent; (try dsimp only); (repeat' split) <;> simp [modJob]
@[simp] theorem rasEvent_att (code : Nat) (s : State) : (rasEvent code s).att = s.att := by
  unfold rasEvent; (try dsimp only); (repeat' split) <;> simp [modJob]
@[simp] theorem rasEvent_mon (code : Nat) (s : State) : (rasEvent code s).mon = s.mon := by
  unfold rasEvent; (try dsimp only); (repeat' split) <;> simp [modJob]
@[simp] theorem rasEvent_cal (code : Nat) (s : State) : (rasEvent code s).cal = s.cal := by
  unfold rasEvent; (try dsimp only); (repeat' split) <;> simp [modJob]
@[simp] theorem rasEvent_nonce (code : Nat) (s : State) : (rasEvent code s).nonce = s.nonce := by
  unfold rasEvent; (try dsimp only); (repeat' split) <;> simp [modJob]
@[simp] theorem rasEvent_nextJob (code : Nat) (s : State) : (rasEvent code s).nextJob = s.nextJob := by
  unfold rasEvent; (try dsimp only); (repeat' split) <;> simp [modJob]
@[simp] theorem rasEvent_jobs (code : Nat) (s : State) : (rasEvent code s).jobs = s.jobs := by
  unfold rasEvent; (try dsimp only); (repeat' split) <;> simp [modJob]
@[simp] theorem rasEvent_colls (code : Nat) (s : State) : (rasEvent code s).colls = s.colls := by
  unfold rasEvent; (try dsimp only); (repeat' split) <;> simp [modJob]
@[simp] theorem rasEvent_newts (code : Nat) (s : State) : (rasEvent code s).newts = s.newts := by
  unfold rasEvent; (try dsimp only); (repeat' split) <;> simp [modJob]
@[simp] theorem rasEvent_sync (code : Nat) (s : State) : (rasEvent code s).sync = s.sync := by
  unfold rasEvent; (try dsimp only); (repeat' split) <;> simp [modJob]
@[simp] theorem rasEvent_sch (code : Nat) (s : State) : (rasEvent code s).sch = s.sch := by
  unfold rasEvent; (try dsimp only); (repeat' split) <;> simp [modJob]
@[simp] theorem rasEvent_swc (code : Nat) (s : State) : (rasEvent code s).swc = s.swc := by
  unfold rasEvent; (try dsimp only); (repeat' split) <;> simp [modJob]
@[simp] theorem rasEvent_rte (code : Nat) (s : State) : (rasEvent code s).rte = s.rte := by
  unfold rasEvent; (try dsimp only); (repeat' split) <;> simp [modJob]
@[simp] theorem rasEvent_shp (code : Nat) (s : State) : (rasEvent code s).shp = s.shp := by
  unfold rasEvent; (try dsimp only); (repeat' split) <;> simp [modJob]
@[simp] theorem rasEvent_quads (code : Nat) (s : State) : (rasEvent code s).quads = s.quads := by
  unfold rasEvent; (try dsimp only); (repeat' split) <;> simp [modJob]
@[simp] theorem rasEvent_lov (code : Nat) (s : State) : (rasEvent code s).lov = s.lov := by
  unfold rasEvent; (try dsimp only); (repeat' split) <;> simp [modJob]
@[simp] theorem rasEvent_pool (code : Nat) (s : State) : (rasEvent code s).pool = s.pool := by
  unfold rasEvent; (try dsimp only); (repeat' split) <;> simp [modJob]
@[simp] theorem rasEvent_dma (code : Nat) (s : State) : (rasEvent code s).dma = s.dma := by
  unfold rasEvent; (try dsimp only); (repeat' split) <;> simp [modJob]
@[simp] theorem rasEvent_therm (code : Nat) (s : State) : (rasEvent code s).therm = s.therm := by
  unfold rasEvent; (try dsimp only); (repeat' split) <;> simp [modJob]
@[simp] theorem rasEvent_hostMem (code : Nat) (s : State) : (rasEvent code s).hostMem = s.hostMem := by
  unfold rasEvent; (try dsimp only); (repeat' split) <;> simp [modJob]
@[simp] theorem rasEvent_out (code : Nat) (s : State) : (rasEvent code s).out = s.out := by
  unfold rasEvent; (try dsimp only); (repeat' split) <;> simp [modJob]
@[simp] theorem rasEvent_free (code : Nat) (s : State) : (rasEvent code s).free = s.free := by
  unfold rasEvent; (try dsimp only); (repeat' split) <;> simp [modJob]
@[simp] theorem rasEvent_pending (code : Nat) (s : State) : (rasEvent code s).pending = s.pending := by
  unfold rasEvent; (try dsimp only); (repeat' split) <;> simp [modJob]
@[simp] theorem rasIrq_pins (c : Nat) (s : State) : (rasIrq c s).pins = s.pins := by
  unfold rasIrq; (try dsimp only); (repeat' split) <;> simp [modJob]
@[simp] theorem rasIrq_log (c : Nat) (s : State) : (rasIrq c s).log = s.log := by
  unfold rasIrq; (try dsimp only); (repeat' split) <;> simp [modJob]
@[simp] theorem rasIrq_unit (c : Nat) (s : State) : (rasIrq c s).unit = s.unit := by
  unfold rasIrq; (try dsimp only); (repeat' split) <;> simp [modJob]
@[simp] theorem rasIrq_lay (c : Nat) (s : State) : (rasIrq c s).lay = s.lay := by
  unfold rasIrq; (try dsimp only); (repeat' split) <;> simp [modJob]
@[simp] theorem rasIrq_fw (c : Nat) (s : State) : (rasIrq c s).fw = s.fw := by
  unfold rasIrq; (try dsimp only); (repeat' split) <;> simp [modJob]
@[simp] theorem rasIrq_fuse (c : Nat) (s : State) : (rasIrq c s).fuse = s.fuse := by
  unfold rasIrq; (try dsimp only); (repeat' split) <;> simp [modJob]
@[simp] theorem rasIrq_att (c : Nat) (s : State) : (rasIrq c s).att = s.att := by
  unfold rasIrq; (try dsimp only); (repeat' split) <;> simp [modJob]
@[simp] theorem rasIrq_mon (c : Nat) (s : State) : (rasIrq c s).mon = s.mon := by
  unfold rasIrq; (try dsimp only); (repeat' split) <;> simp [modJob]
@[simp] theorem rasIrq_cal (c : Nat) (s : State) : (rasIrq c s).cal = s.cal := by
  unfold rasIrq; (try dsimp only); (repeat' split) <;> simp [modJob]
@[simp] theorem rasIrq_nonce (c : Nat) (s : State) : (rasIrq c s).nonce = s.nonce := by
  unfold rasIrq; (try dsimp only); (repeat' split) <;> simp [modJob]
@[simp] theorem rasIrq_nextJob (c : Nat) (s : State) : (rasIrq c s).nextJob = s.nextJob := by
  unfold rasIrq; (try dsimp only); (repeat' split) <;> simp [modJob]
@[simp] theorem rasIrq_jobs (c : Nat) (s : State) : (rasIrq c s).jobs = s.jobs := by
  unfold rasIrq; (try dsimp only); (repeat' split) <;> simp [modJob]
@[simp] theorem rasIrq_colls (c : Nat) (s : State) : (rasIrq c s).colls = s.colls := by
  unfold rasIrq; (try dsimp only); (repeat' split) <;> simp [modJob]
@[simp] theorem rasIrq_newts (c : Nat) (s : State) : (rasIrq c s).newts = s.newts := by
  unfold rasIrq; (try dsimp only); (repeat' split) <;> simp [modJob]
@[simp] theorem rasIrq_sync (c : Nat) (s : State) : (rasIrq c s).sync = s.sync := by
  unfold rasIrq; (try dsimp only); (repeat' split) <;> simp [modJob]
@[simp] theorem rasIrq_sch (c : Nat) (s : State) : (rasIrq c s).sch = s.sch := by
  unfold rasIrq; (try dsimp only); (repeat' split) <;> simp [modJob]
@[simp] theorem rasIrq_swc (c : Nat) (s : State) : (rasIrq c s).swc = s.swc := by
  unfold rasIrq; (try dsimp only); (repeat' split) <;> simp [modJob]
@[simp] theorem rasIrq_rte (c : Nat) (s : State) : (rasIrq c s).rte = s.rte := by
  unfold rasIrq; (try dsimp only); (repeat' split) <;> simp [modJob]
@[simp] theorem rasIrq_shp (c : Nat) (s : State) : (rasIrq c s).shp = s.shp := by
  unfold rasIrq; (try dsimp only); (repeat' split) <;> simp [modJob]
@[simp] theorem rasIrq_quads (c : Nat) (s : State) : (rasIrq c s).quads = s.quads := by
  unfold rasIrq; (try dsimp only); (repeat' split) <;> simp [modJob]
@[simp] theorem rasIrq_lov (c : Nat) (s : State) : (rasIrq c s).lov = s.lov := by
  unfold rasIrq; (try dsimp only); (repeat' split) <;> simp [modJob]
@[simp] theorem rasIrq_pool (c : Nat) (s : State) : (rasIrq c s).pool = s.pool := by
  unfold rasIrq; (try dsimp only); (repeat' split) <;> simp [modJob]
@[simp] theorem rasIrq_dma (c : Nat) (s : State) : (rasIrq c s).dma = s.dma := by
  unfold rasIrq; (try dsimp only); (repeat' split) <;> simp [modJob]
@[simp] theorem rasIrq_therm (c : Nat) (s : State) : (rasIrq c s).therm = s.therm := by
  unfold rasIrq; (try dsimp only); (repeat' split) <;> simp [modJob]
@[simp] theorem rasIrq_hostMem (c : Nat) (s : State) : (rasIrq c s).hostMem = s.hostMem := by
  unfold rasIrq; (try dsimp only); (repeat' split) <;> simp [modJob]
@[simp] theorem rasIrq_free (c : Nat) (s : State) : (rasIrq c s).free = s.free := by
  unfold rasIrq; (try dsimp only); (repeat' split) <;> simp [modJob]
@[simp] theorem rasIrq_pending (c : Nat) (s : State) : (rasIrq c s).pending = s.pending := by
  unfold rasIrq; (try dsimp only); (repeat' split) <;> simp [modJob]
@[simp] theorem eventAmend_pins (code : Nat) (s : State) : (eventAmend code s).pins = s.pins := by
  unfold eventAmend; (try dsimp only); (repeat' split) <;> simp [modJob]
@[simp] theorem eventAmend_ras (code : Nat) (s : State) : (eventAmend code s).ras = s.ras := by
  unfold eventAmend; (try dsimp only); (repeat' split) <;> simp [modJob]
@[simp] theorem eventAmend_log (code : Nat) (s : State) : (eventAmend code s).log = s.log := by
  unfold eventAmend; (try dsimp only); (repeat' split) <;> simp [modJob]
@[simp] theorem eventAmend_unit (code : Nat) (s : State) : (eventAmend code s).unit = s.unit := by
  unfold eventAmend; (try dsimp only); (repeat' split) <;> simp [modJob]
@[simp] theorem eventAmend_lay (code : Nat) (s : State) : (eventAmend code s).lay = s.lay := by
  unfold eventAmend; (try dsimp only); (repeat' split) <;> simp [modJob]
@[simp] theorem eventAmend_fw (code : Nat) (s : State) : (eventAmend code s).fw = s.fw := by
  unfold eventAmend; (try dsimp only); (repeat' split) <;> simp [modJob]
@[simp] theorem eventAmend_fuse (code : Nat) (s : State) : (eventAmend code s).fuse = s.fuse := by
  unfold eventAmend; (try dsimp only); (repeat' split) <;> simp [modJob]
@[simp] theorem eventAmend_att (code : Nat) (s : State) : (eventAmend code s).att = s.att := by
  unfold eventAmend; (try dsimp only); (repeat' split) <;> simp [modJob]
@[simp] theorem eventAmend_mon (code : Nat) (s : State) : (eventAmend code s).mon = s.mon := by
  unfold eventAmend; (try dsimp only); (repeat' split) <;> simp [modJob]
@[simp] theorem eventAmend_cal (code : Nat) (s : State) : (eventAmend code s).cal = s.cal := by
  unfold eventAmend; (try dsimp only); (repeat' split) <;> simp [modJob]
@[simp] theorem eventAmend_nonce (code : Nat) (s : State) : (eventAmend code s).nonce = s.nonce := by
  unfold eventAmend; (try dsimp only); (repeat' split) <;> simp [modJob]
@[simp] theorem eventAmend_nextJob (code : Nat) (s : State) : (eventAmend code s).nextJob = s.nextJob := by
  unfold eventAmend; (try dsimp only); (repeat' split) <;> simp [modJob]
@[simp] theorem eventAmend_jobs (code : Nat) (s : State) : (eventAmend code s).jobs = s.jobs := by
  unfold eventAmend; (try dsimp only); (repeat' split) <;> simp [modJob]
@[simp] theorem eventAmend_colls (code : Nat) (s : State) : (eventAmend code s).colls = s.colls := by
  unfold eventAmend; (try dsimp only); (repeat' split) <;> simp [modJob]
@[simp] theorem eventAmend_newts (code : Nat) (s : State) : (eventAmend code s).newts = s.newts := by
  unfold eventAmend; (try dsimp only); (repeat' split) <;> simp [modJob]
@[simp] theorem eventAmend_sync (code : Nat) (s : State) : (eventAmend code s).sync = s.sync := by
  unfold eventAmend; (try dsimp only); (repeat' split) <;> simp [modJob]
@[simp] theorem eventAmend_sch (code : Nat) (s : State) : (eventAmend code s).sch = s.sch := by
  unfold eventAmend; (try dsimp only); (repeat' split) <;> simp [modJob]
@[simp] theorem eventAmend_swc (code : Nat) (s : State) : (eventAmend code s).swc = s.swc := by
  unfold eventAmend; (try dsimp only); (repeat' split) <;> simp [modJob]
@[simp] theorem eventAmend_rte (code : Nat) (s : State) : (eventAmend code s).rte = s.rte := by
  unfold eventAmend; (try dsimp only); (repeat' split) <;> simp [modJob]
@[simp] theorem eventAmend_shp (code : Nat) (s : State) : (eventAmend code s).shp = s.shp := by
  unfold eventAmend; (try dsimp only); (repeat' split) <;> simp [modJob]
@[simp] theorem eventAmend_quads (code : Nat) (s : State) : (eventAmend code s).quads = s.quads := by
  unfold eventAmend; (try dsimp only); (repeat' split) <;> simp [modJob]
@[simp] theorem eventAmend_lov (code : Nat) (s : State) : (eventAmend code s).lov = s.lov := by
  unfold eventAmend; (try dsimp only); (repeat' split) <;> simp [modJob]
@[simp] theorem eventAmend_pool (code : Nat) (s : State) : (eventAmend code s).pool = s.pool := by
  unfold eventAmend; (try dsimp only); (repeat' split) <;> simp [modJob]
@[simp] theorem eventAmend_dma (code : Nat) (s : State) : (eventAmend code s).dma = s.dma := by
  unfold eventAmend; (try dsimp only); (repeat' split) <;> simp [modJob]
@[simp] theorem eventAmend_therm (code : Nat) (s : State) : (eventAmend code s).therm = s.therm := by
  unfold eventAmend; (try dsimp only); (repeat' split) <;> simp [modJob]
@[simp] theorem eventAmend_hostMem (code : Nat) (s : State) : (eventAmend code s).hostMem = s.hostMem := by
  unfold eventAmend; (try dsimp only); (repeat' split) <;> simp [modJob]
@[simp] theorem eventAmend_out (code : Nat) (s : State) : (eventAmend code s).out = s.out := by
  unfold eventAmend; (try dsimp only); (repeat' split) <;> simp [modJob]
@[simp] theorem eventAmend_free (code : Nat) (s : State) : (eventAmend code s).free = s.free := by
  unfold eventAmend; (try dsimp only); (repeat' split) <;> simp [modJob]
@[simp] theorem eventAmend_pending (code : Nat) (s : State) : (eventAmend code s).pending = s.pending := by
  unfold eventAmend; (try dsimp only); (repeat' split) <;> simp [modJob]
@[simp] theorem rasFirst_pins (code : Nat) (s : State) : (rasFirst code s).pins = s.pins := by
  unfold rasFirst; (try dsimp only); (repeat' split) <;> simp [modJob]
@[simp] theorem rasFirst_log (code : Nat) (s : State) : (rasFirst code s).log = s.log := by
  unfold rasFirst; (try dsimp only); (repeat' split) <;> simp [modJob]
@[simp] theorem rasFirst_unit (code : Nat) (s : State) : (rasFirst code s).unit = s.unit := by
  unfold rasFirst; (try dsimp only); (repeat' split) <;> simp [modJob]
@[simp] theorem rasFirst_lay (code : Nat) (s : State) : (rasFirst code s).lay = s.lay := by
  unfold rasFirst; (try dsimp only); (repeat' split) <;> simp [modJob]
@[simp] theorem rasFirst_fw (code : Nat) (s : State) : (rasFirst code s).fw = s.fw := by
  unfold rasFirst; (try dsimp only); (repeat' split) <;> simp [modJob]
@[simp] theorem rasFirst_fuse (code : Nat) (s : State) : (rasFirst code s).fuse = s.fuse := by
  unfold rasFirst; (try dsimp only); (repeat' split) <;> simp [modJob]
@[simp] theorem rasFirst_att (code : Nat) (s : State) : (rasFirst code s).att = s.att := by
  unfold rasFirst; (try dsimp only); (repeat' split) <;> simp [modJob]
@[simp] theorem rasFirst_mon (code : Nat) (s : State) : (rasFirst code s).mon = s.mon := by
  unfold rasFirst; (try dsimp only); (repeat' split) <;> simp [modJob]
@[simp] theorem rasFirst_cal (code : Nat) (s : State) : (rasFirst code s).cal = s.cal := by
  unfold rasFirst; (try dsimp only); (repeat' split) <;> simp [modJob]
@[simp] theorem rasFirst_nonce (code : Nat) (s : State) : (rasFirst code s).nonce = s.nonce := by
  unfold rasFirst; (try dsimp only); (repeat' split) <;> simp [modJob]
@[simp] theorem rasFirst_nextJob (code : Nat) (s : State) : (rasFirst code s).nextJob = s.nextJob := by
  unfold rasFirst; (try dsimp only); (repeat' split) <;> simp [modJob]
@[simp] theorem rasFirst_jobs (code : Nat) (s : State) : (rasFirst code s).jobs = s.jobs := by
  unfold rasFirst; (try dsimp only); (repeat' split) <;> simp [modJob]
@[simp] theorem rasFirst_colls (code : Nat) (s : State) : (rasFirst code s).colls = s.colls := by
  unfold rasFirst; (try dsimp only); (repeat' split) <;> simp [modJob]
@[simp] theorem rasFirst_newts (code : Nat) (s : State) : (rasFirst code s).newts = s.newts := by
  unfold rasFirst; (try dsimp only); (repeat' split) <;> simp [modJob]
@[simp] theorem rasFirst_sync (code : Nat) (s : State) : (rasFirst code s).sync = s.sync := by
  unfold rasFirst; (try dsimp only); (repeat' split) <;> simp [modJob]
@[simp] theorem rasFirst_sch (code : Nat) (s : State) : (rasFirst code s).sch = s.sch := by
  unfold rasFirst; (try dsimp only); (repeat' split) <;> simp [modJob]
@[simp] theorem rasFirst_swc (code : Nat) (s : State) : (rasFirst code s).swc = s.swc := by
  unfold rasFirst; (try dsimp only); (repeat' split) <;> simp [modJob]
@[simp] theorem rasFirst_rte (code : Nat) (s : State) : (rasFirst code s).rte = s.rte := by
  unfold rasFirst; (try dsimp only); (repeat' split) <;> simp [modJob]
@[simp] theorem rasFirst_shp (code : Nat) (s : State) : (rasFirst code s).shp = s.shp := by
  unfold rasFirst; (try dsimp only); (repeat' split) <;> simp [modJob]
@[simp] theorem rasFirst_quads (code : Nat) (s : State) : (rasFirst code s).quads = s.quads := by
  unfold rasFirst; (try dsimp only); (repeat' split) <;> simp [modJob]
@[simp] theorem rasFirst_lov (code : Nat) (s : State) : (rasFirst code s).lov = s.lov := by
  unfold rasFirst; (try dsimp only); (repeat' split) <;> simp [modJob]
@[simp] theorem rasFirst_pool (code : Nat) (s : State) : (rasFirst code s).pool = s.pool := by
  unfold rasFirst; (try dsimp only); (repeat' split) <;> simp [modJob]
@[simp] theorem rasFirst_dma (code : Nat) (s : State) : (rasFirst code s).dma = s.dma := by
  unfold rasFirst; (try dsimp only); (repeat' split) <;> simp [modJob]
@[simp] theorem rasFirst_therm (code : Nat) (s : State) : (rasFirst code s).therm = s.therm := by
  unfold rasFirst; (try dsimp only); (repeat' split) <;> simp [modJob]
@[simp] theorem rasFirst_hostMem (code : Nat) (s : State) : (rasFirst code s).hostMem = s.hostMem := by
  unfold rasFirst; (try dsimp only); (repeat' split) <;> simp [modJob]
@[simp] theorem rasFirst_free (code : Nat) (s : State) : (rasFirst code s).free = s.free := by
  unfold rasFirst; (try dsimp only); (repeat' split) <;> simp [modJob]
@[simp] theorem rasFirst_pending (code : Nat) (s : State) : (rasFirst code s).pending = s.pending := by
  unfold rasFirst; (try dsimp only); (repeat' split) <;> simp [modJob]
@[simp] theorem rasRecord_pins (o : Occ) (s : State) : (rasRecord o s).pins = s.pins := by
  unfold rasRecord; (try dsimp only); (repeat' split) <;> simp [modJob]
@[simp] theorem rasRecord_unit (o : Occ) (s : State) : (rasRecord o s).unit = s.unit := by
  unfold rasRecord; (try dsimp only); (repeat' split) <;> simp [modJob]
@[simp] theorem rasRecord_lay (o : Occ) (s : State) : (rasRecord o s).lay = s.lay := by
  unfold rasRecord; (try dsimp only); (repeat' split) <;> simp [modJob]
@[simp] theorem rasRecord_fw (o : Occ) (s : State) : (rasRecord o s).fw = s.fw := by
  unfold rasRecord; (try dsimp only); (repeat' split) <;> simp [modJob]
@[simp] theorem rasRecord_fuse (o : Occ) (s : State) : (rasRecord o s).fuse = s.fuse := by
  unfold rasRecord; (try dsimp only); (repeat' split) <;> simp [modJob]
@[simp] theorem rasRecord_att (o : Occ) (s : State) : (rasRecord o s).att = s.att := by
  unfold rasRecord; (try dsimp only); (repeat' split) <;> simp [modJob]
@[simp] theorem rasRecord_mon (o : Occ) (s : State) : (rasRecord o s).mon = s.mon := by
  unfold rasRecord; (try dsimp only); (repeat' split) <;> simp [modJob]
@[simp] theorem rasRecord_cal (o : Occ) (s : State) : (rasRecord o s).cal = s.cal := by
  unfold rasRecord; (try dsimp only); (repeat' split) <;> simp [modJob]
@[simp] theorem rasRecord_nonce (o : Occ) (s : State) : (rasRecord o s).nonce = s.nonce := by
  unfold rasRecord; (try dsimp only); (repeat' split) <;> simp [modJob]
@[simp] theorem rasRecord_nextJob (o : Occ) (s : State) : (rasRecord o s).nextJob = s.nextJob := by
  unfold rasRecord; (try dsimp only); (repeat' split) <;> simp [modJob]
@[simp] theorem rasRecord_jobs (o : Occ) (s : State) : (rasRecord o s).jobs = s.jobs := by
  unfold rasRecord; (try dsimp only); (repeat' split) <;> simp [modJob]
@[simp] theorem rasRecord_colls (o : Occ) (s : State) : (rasRecord o s).colls = s.colls := by
  unfold rasRecord; (try dsimp only); (repeat' split) <;> simp [modJob]
@[simp] theorem rasRecord_newts (o : Occ) (s : State) : (rasRecord o s).newts = s.newts := by
  unfold rasRecord; (try dsimp only); (repeat' split) <;> simp [modJob]
@[simp] theorem rasRecord_sync (o : Occ) (s : State) : (rasRecord o s).sync = s.sync := by
  unfold rasRecord; (try dsimp only); (repeat' split) <;> simp [modJob]
@[simp] theorem rasRecord_sch (o : Occ) (s : State) : (rasRecord o s).sch = s.sch := by
  unfold rasRecord; (try dsimp only); (repeat' split) <;> simp [modJob]
@[simp] theorem rasRecord_swc (o : Occ) (s : State) : (rasRecord o s).swc = s.swc := by
  unfold rasRecord; (try dsimp only); (repeat' split) <;> simp [modJob]
@[simp] theorem rasRecord_rte (o : Occ) (s : State) : (rasRecord o s).rte = s.rte := by
  unfold rasRecord; (try dsimp only); (repeat' split) <;> simp [modJob]
@[simp] theorem rasRecord_shp (o : Occ) (s : State) : (rasRecord o s).shp = s.shp := by
  unfold rasRecord; (try dsimp only); (repeat' split) <;> simp [modJob]
@[simp] theorem rasRecord_quads (o : Occ) (s : State) : (rasRecord o s).quads = s.quads := by
  unfold rasRecord; (try dsimp only); (repeat' split) <;> simp [modJob]
@[simp] theorem rasRecord_pool (o : Occ) (s : State) : (rasRecord o s).pool = s.pool := by
  unfold rasRecord; (try dsimp only); (repeat' split) <;> simp [modJob]
@[simp] theorem rasRecord_dma (o : Occ) (s : State) : (rasRecord o s).dma = s.dma := by
  unfold rasRecord; (try dsimp only); (repeat' split) <;> simp [modJob]
@[simp] theorem rasRecord_therm (o : Occ) (s : State) : (rasRecord o s).therm = s.therm := by
  unfold rasRecord; (try dsimp only); (repeat' split) <;> simp [modJob]
@[simp] theorem rasRecord_hostMem (o : Occ) (s : State) : (rasRecord o s).hostMem = s.hostMem := by
  unfold rasRecord; (try dsimp only); (repeat' split) <;> simp [modJob]
@[simp] theorem rasRecord_pending (o : Occ) (s : State) : (rasRecord o s).pending = s.pending := by
  unfold rasRecord; (try dsimp only); (repeat' split) <;> simp [modJob]
@[simp] theorem stickyBit_pins (c : Nat) (s : State) : (stickyBit c s).pins = s.pins := by
  unfold stickyBit; (try dsimp only); (repeat' split) <;> simp [modJob]
@[simp] theorem stickyBit_ras (c : Nat) (s : State) : (stickyBit c s).ras = s.ras := by
  unfold stickyBit; (try dsimp only); (repeat' split) <;> simp [modJob]
@[simp] theorem stickyBit_log (c : Nat) (s : State) : (stickyBit c s).log = s.log := by
  unfold stickyBit; (try dsimp only); (repeat' split) <;> simp [modJob]
@[simp] theorem stickyBit_unit (c : Nat) (s : State) : (stickyBit c s).unit = s.unit := by
  unfold stickyBit; (try dsimp only); (repeat' split) <;> simp [modJob]
@[simp] theorem stickyBit_fuse (c : Nat) (s : State) : (stickyBit c s).fuse = s.fuse := by
  unfold stickyBit; (try dsimp only); (repeat' split) <;> simp [modJob]
@[simp] theorem stickyBit_att (c : Nat) (s : State) : (stickyBit c s).att = s.att := by
  unfold stickyBit; (try dsimp only); (repeat' split) <;> simp [modJob]
@[simp] theorem stickyBit_mon (c : Nat) (s : State) : (stickyBit c s).mon = s.mon := by
  unfold stickyBit; (try dsimp only); (repeat' split) <;> simp [modJob]
@[simp] theorem stickyBit_cal (c : Nat) (s : State) : (stickyBit c s).cal = s.cal := by
  unfold stickyBit; (try dsimp only); (repeat' split) <;> simp [modJob]
@[simp] theorem stickyBit_nonce (c : Nat) (s : State) : (stickyBit c s).nonce = s.nonce := by
  unfold stickyBit; (try dsimp only); (repeat' split) <;> simp [modJob]
@[simp] theorem stickyBit_nextJob (c : Nat) (s : State) : (stickyBit c s).nextJob = s.nextJob := by
  unfold stickyBit; (try dsimp only); (repeat' split) <;> simp [modJob]
@[simp] theorem stickyBit_jobs (c : Nat) (s : State) : (stickyBit c s).jobs = s.jobs := by
  unfold stickyBit; (try dsimp only); (repeat' split) <;> simp [modJob]
@[simp] theorem stickyBit_colls (c : Nat) (s : State) : (stickyBit c s).colls = s.colls := by
  unfold stickyBit; (try dsimp only); (repeat' split) <;> simp [modJob]
@[simp] theorem stickyBit_newts (c : Nat) (s : State) : (stickyBit c s).newts = s.newts := by
  unfold stickyBit; (try dsimp only); (repeat' split) <;> simp [modJob]
@[simp] theorem stickyBit_sync (c : Nat) (s : State) : (stickyBit c s).sync = s.sync := by
  unfold stickyBit; (try dsimp only); (repeat' split) <;> simp [modJob]
@[simp] theorem stickyBit_quads (c : Nat) (s : State) : (stickyBit c s).quads = s.quads := by
  unfold stickyBit; (try dsimp only); (repeat' split) <;> simp [modJob]
@[simp] theorem stickyBit_lov (c : Nat) (s : State) : (stickyBit c s).lov = s.lov := by
  unfold stickyBit; (try dsimp only); (repeat' split) <;> simp [modJob]
@[simp] theorem stickyBit_therm (c : Nat) (s : State) : (stickyBit c s).therm = s.therm := by
  unfold stickyBit; (try dsimp only); (repeat' split) <;> simp [modJob]
@[simp] theorem stickyBit_hostMem (c : Nat) (s : State) : (stickyBit c s).hostMem = s.hostMem := by
  unfold stickyBit; (try dsimp only); (repeat' split) <;> simp [modJob]
@[simp] theorem stickyBit_out (c : Nat) (s : State) : (stickyBit c s).out = s.out := by
  unfold stickyBit; (try dsimp only); (repeat' split) <;> simp [modJob]
@[simp] theorem stickyBit_free (c : Nat) (s : State) : (stickyBit c s).free = s.free := by
  unfold stickyBit; (try dsimp only); (repeat' split) <;> simp [modJob]
@[simp] theorem stickyBit_pending (c : Nat) (s : State) : (stickyBit c s).pending = s.pending := by
  unfold stickyBit; (try dsimp only); (repeat' split) <;> simp [modJob]
@[simp] theorem freshMark_pins (k : Option Nat) (s : State) : (freshMark k s).pins = s.pins := by
  cases k <;> rfl
@[simp] theorem freshMark_log (k : Option Nat) (s : State) : (freshMark k s).log = s.log := by
  cases k <;> rfl
@[simp] theorem freshMark_unit (k : Option Nat) (s : State) : (freshMark k s).unit = s.unit := by
  cases k <;> rfl
@[simp] theorem freshMark_lay (k : Option Nat) (s : State) : (freshMark k s).lay = s.lay := by
  cases k <;> rfl
@[simp] theorem freshMark_fw (k : Option Nat) (s : State) : (freshMark k s).fw = s.fw := by
  cases k <;> rfl
@[simp] theorem freshMark_fuse (k : Option Nat) (s : State) : (freshMark k s).fuse = s.fuse := by
  cases k <;> rfl
@[simp] theorem freshMark_att (k : Option Nat) (s : State) : (freshMark k s).att = s.att := by
  cases k <;> rfl
@[simp] theorem freshMark_mon (k : Option Nat) (s : State) : (freshMark k s).mon = s.mon := by
  cases k <;> rfl
@[simp] theorem freshMark_cal (k : Option Nat) (s : State) : (freshMark k s).cal = s.cal := by
  cases k <;> rfl
@[simp] theorem freshMark_hif (k : Option Nat) (s : State) : (freshMark k s).hif = s.hif := by
  cases k <;> rfl
@[simp] theorem freshMark_nonce (k : Option Nat) (s : State) : (freshMark k s).nonce = s.nonce := by
  cases k <;> rfl
@[simp] theorem freshMark_nextJob (k : Option Nat) (s : State) : (freshMark k s).nextJob = s.nextJob := by
  cases k <;> rfl
@[simp] theorem freshMark_jobs (k : Option Nat) (s : State) : (freshMark k s).jobs = s.jobs := by
  cases k <;> rfl
@[simp] theorem freshMark_colls (k : Option Nat) (s : State) : (freshMark k s).colls = s.colls := by
  cases k <;> rfl
@[simp] theorem freshMark_newts (k : Option Nat) (s : State) : (freshMark k s).newts = s.newts := by
  cases k <;> rfl
@[simp] theorem freshMark_sync (k : Option Nat) (s : State) : (freshMark k s).sync = s.sync := by
  cases k <;> rfl
@[simp] theorem freshMark_sch (k : Option Nat) (s : State) : (freshMark k s).sch = s.sch := by
  cases k <;> rfl
@[simp] theorem freshMark_swc (k : Option Nat) (s : State) : (freshMark k s).swc = s.swc := by
  cases k <;> rfl
@[simp] theorem freshMark_rte (k : Option Nat) (s : State) : (freshMark k s).rte = s.rte := by
  cases k <;> rfl
@[simp] theorem freshMark_shp (k : Option Nat) (s : State) : (freshMark k s).shp = s.shp := by
  cases k <;> rfl
@[simp] theorem freshMark_quads (k : Option Nat) (s : State) : (freshMark k s).quads = s.quads := by
  cases k <;> rfl
@[simp] theorem freshMark_lov (k : Option Nat) (s : State) : (freshMark k s).lov = s.lov := by
  cases k <;> rfl
@[simp] theorem freshMark_pool (k : Option Nat) (s : State) : (freshMark k s).pool = s.pool := by
  cases k <;> rfl
@[simp] theorem freshMark_dma (k : Option Nat) (s : State) : (freshMark k s).dma = s.dma := by
  cases k <;> rfl
@[simp] theorem freshMark_therm (k : Option Nat) (s : State) : (freshMark k s).therm = s.therm := by
  cases k <;> rfl
@[simp] theorem freshMark_hostMem (k : Option Nat) (s : State) : (freshMark k s).hostMem = s.hostMem := by
  cases k <;> rfl
@[simp] theorem freshMark_out (k : Option Nat) (s : State) : (freshMark k s).out = s.out := by
  cases k <;> rfl
@[simp] theorem freshMark_free (k : Option Nat) (s : State) : (freshMark k s).free = s.free := by
  cases k <;> rfl
@[simp] theorem freshMark_pending (k : Option Nat) (s : State) : (freshMark k s).pending = s.pending := by
  cases k <;> rfl
@[simp] theorem raise_pins (o : Occ) (s : State) : (raise o s).pins = s.pins := by
  unfold raise; (try dsimp only); (repeat' split) <;> simp [modJob]
@[simp] theorem raise_unit (o : Occ) (s : State) : (raise o s).unit = s.unit := by
  unfold raise; (try dsimp only); (repeat' split) <;> simp [modJob]
@[simp] theorem raise_fuse (o : Occ) (s : State) : (raise o s).fuse = s.fuse := by
  unfold raise; (try dsimp only); (repeat' split) <;> simp [modJob]
@[simp] theorem raise_att (o : Occ) (s : State) : (raise o s).att = s.att := by
  unfold raise; (try dsimp only); (repeat' split) <;> simp [modJob]
@[simp] theorem raise_mon (o : Occ) (s : State) : (raise o s).mon = s.mon := by
  unfold raise; (try dsimp only); (repeat' split) <;> simp [modJob]
@[simp] theorem raise_cal (o : Occ) (s : State) : (raise o s).cal = s.cal := by
  unfold raise; (try dsimp only); (repeat' split) <;> simp [modJob]
@[simp] theorem raise_nonce (o : Occ) (s : State) : (raise o s).nonce = s.nonce := by
  unfold raise; (try dsimp only); (repeat' split) <;> simp [modJob]
@[simp] theorem raise_nextJob (o : Occ) (s : State) : (raise o s).nextJob = s.nextJob := by
  unfold raise; (try dsimp only); (repeat' split) <;> simp [modJob]
@[simp] theorem raise_jobs (o : Occ) (s : State) : (raise o s).jobs = s.jobs := by
  unfold raise; (try dsimp only); (repeat' split) <;> simp [modJob]
@[simp] theorem raise_colls (o : Occ) (s : State) : (raise o s).colls = s.colls := by
  unfold raise; (try dsimp only); (repeat' split) <;> simp [modJob]
@[simp] theorem raise_newts (o : Occ) (s : State) : (raise o s).newts = s.newts := by
  unfold raise; (try dsimp only); (repeat' split) <;> simp [modJob]
@[simp] theorem raise_sync (o : Occ) (s : State) : (raise o s).sync = s.sync := by
  unfold raise; (try dsimp only); (repeat' split) <;> simp [modJob]
@[simp] theorem raise_quads (o : Occ) (s : State) : (raise o s).quads = s.quads := by
  unfold raise; (try dsimp only); (repeat' split) <;> simp [modJob]
@[simp] theorem raise_therm (o : Occ) (s : State) : (raise o s).therm = s.therm := by
  unfold raise; (try dsimp only); (repeat' split) <;> simp [modJob]
@[simp] theorem raise_hostMem (o : Occ) (s : State) : (raise o s).hostMem = s.hostMem := by
  unfold raise; (try dsimp only); (repeat' split) <;> simp [modJob]
@[simp] theorem raise_pending (o : Occ) (s : State) : (raise o s).pending = s.pending := by
  unfold raise; (try dsimp only); (repeat' split) <;> simp [modJob]
@[simp] theorem layStatus_pins (op status : Nat) (s : State) : (layStatus op status s).pins = s.pins := by
  unfold layStatus; split <;> rfl
@[simp] theorem layStatus_ras (op status : Nat) (s : State) : (layStatus op status s).ras = s.ras := by
  unfold layStatus; split <;> rfl
@[simp] theorem layStatus_log (op status : Nat) (s : State) : (layStatus op status s).log = s.log := by
  unfold layStatus; split <;> rfl
@[simp] theorem layStatus_unit (op status : Nat) (s : State) : (layStatus op status s).unit = s.unit := by
  unfold layStatus; split <;> rfl
@[simp] theorem layStatus_fw (op status : Nat) (s : State) : (layStatus op status s).fw = s.fw := by
  unfold layStatus; split <;> rfl
@[simp] theorem layStatus_fuse (op status : Nat) (s : State) : (layStatus op status s).fuse = s.fuse := by
  unfold layStatus; split <;> rfl
@[simp] theorem layStatus_att (op status : Nat) (s : State) : (layStatus op status s).att = s.att := by
  unfold layStatus; split <;> rfl
@[simp] theorem layStatus_mon (op status : Nat) (s : State) : (layStatus op status s).mon = s.mon := by
  unfold layStatus; split <;> rfl
@[simp] theorem layStatus_cal (op status : Nat) (s : State) : (layStatus op status s).cal = s.cal := by
  unfold layStatus; split <;> rfl
@[simp] theorem layStatus_hif (op status : Nat) (s : State) : (layStatus op status s).hif = s.hif := by
  unfold layStatus; split <;> rfl
@[simp] theorem layStatus_nonce (op status : Nat) (s : State) : (layStatus op status s).nonce = s.nonce := by
  unfold layStatus; split <;> rfl
@[simp] theorem layStatus_nextJob (op status : Nat) (s : State) : (layStatus op status s).nextJob = s.nextJob := by
  unfold layStatus; split <;> rfl
@[simp] theorem layStatus_jobs (op status : Nat) (s : State) : (layStatus op status s).jobs = s.jobs := by
  unfold layStatus; split <;> rfl
@[simp] theorem layStatus_colls (op status : Nat) (s : State) : (layStatus op status s).colls = s.colls := by
  unfold layStatus; split <;> rfl
@[simp] theorem layStatus_newts (op status : Nat) (s : State) : (layStatus op status s).newts = s.newts := by
  unfold layStatus; split <;> rfl
@[simp] theorem layStatus_sync (op status : Nat) (s : State) : (layStatus op status s).sync = s.sync := by
  unfold layStatus; split <;> rfl
@[simp] theorem layStatus_sch (op status : Nat) (s : State) : (layStatus op status s).sch = s.sch := by
  unfold layStatus; split <;> rfl
@[simp] theorem layStatus_swc (op status : Nat) (s : State) : (layStatus op status s).swc = s.swc := by
  unfold layStatus; split <;> rfl
@[simp] theorem layStatus_rte (op status : Nat) (s : State) : (layStatus op status s).rte = s.rte := by
  unfold layStatus; split <;> rfl
@[simp] theorem layStatus_shp (op status : Nat) (s : State) : (layStatus op status s).shp = s.shp := by
  unfold layStatus; split <;> rfl
@[simp] theorem layStatus_quads (op status : Nat) (s : State) : (layStatus op status s).quads = s.quads := by
  unfold layStatus; split <;> rfl
@[simp] theorem layStatus_lov (op status : Nat) (s : State) : (layStatus op status s).lov = s.lov := by
  unfold layStatus; split <;> rfl
@[simp] theorem layStatus_pool (op status : Nat) (s : State) : (layStatus op status s).pool = s.pool := by
  unfold layStatus; split <;> rfl
@[simp] theorem layStatus_dma (op status : Nat) (s : State) : (layStatus op status s).dma = s.dma := by
  unfold layStatus; split <;> rfl
@[simp] theorem layStatus_therm (op status : Nat) (s : State) : (layStatus op status s).therm = s.therm := by
  unfold layStatus; split <;> rfl
@[simp] theorem layStatus_hostMem (op status : Nat) (s : State) : (layStatus op status s).hostMem = s.hostMem := by
  unfold layStatus; split <;> rfl
@[simp] theorem layStatus_out (op status : Nat) (s : State) : (layStatus op status s).out = s.out := by
  unfold layStatus; split <;> rfl
@[simp] theorem layStatus_free (op status : Nat) (s : State) : (layStatus op status s).free = s.free := by
  unfold layStatus; split <;> rfl
@[simp] theorem layStatus_pending (op status : Nat) (s : State) : (layStatus op status s).pending = s.pending := by
  unfold layStatus; split <;> rfl
@[simp] theorem reply_pins (i status : Nat) (payload : List Byte) (s : State) :
    (reply i status payload s).pins = s.pins := by
  unfold reply; (try dsimp only); (repeat' split) <;> simp [modJob]
@[simp] theorem reply_ras (i status : Nat) (payload : List Byte) (s : State) :
    (reply i status payload s).ras = s.ras := by
  unfold reply; (try dsimp only); (repeat' split) <;> simp [modJob]
@[simp] theorem reply_log (i status : Nat) (payload : List Byte) (s : State) :
    (reply i status payload s).log = s.log := by
  unfold reply; (try dsimp only); (repeat' split) <;> simp [modJob]
@[simp] theorem reply_unit (i status : Nat) (payload : List Byte) (s : State) :
    (reply i status payload s).unit = s.unit := by
  unfold reply; (try dsimp only); (repeat' split) <;> simp [modJob]
@[simp] theorem reply_lay (i status : Nat) (payload : List Byte) (s : State) :
    (reply i status payload s).lay = (layStatus (slotCmd (mslot s i)) status s).lay := by
  unfold reply layStatus; dsimp only; split <;> split <;> first | rfl | exact vector_lay _ _
@[simp] theorem reply_fw (i status : Nat) (payload : List Byte) (s : State) :
    (reply i status payload s).fw = s.fw := by
  unfold reply; (try dsimp only); (repeat' split) <;> simp [modJob]
@[simp] theorem reply_fuse (i status : Nat) (payload : List Byte) (s : State) :
    (reply i status payload s).fuse = s.fuse := by
  unfold reply; (try dsimp only); (repeat' split) <;> simp [modJob]
@[simp] theorem reply_att (i status : Nat) (payload : List Byte) (s : State) :
    (reply i status payload s).att = s.att := by
  unfold reply; (try dsimp only); (repeat' split) <;> simp [modJob]
@[simp] theorem reply_mon (i status : Nat) (payload : List Byte) (s : State) :
    (reply i status payload s).mon = s.mon := by
  unfold reply; (try dsimp only); (repeat' split) <;> simp [modJob]
@[simp] theorem reply_cal (i status : Nat) (payload : List Byte) (s : State) :
    (reply i status payload s).cal = s.cal := by
  unfold reply; (try dsimp only); (repeat' split) <;> simp [modJob]
@[simp] theorem reply_nonce (i status : Nat) (payload : List Byte) (s : State) :
    (reply i status payload s).nonce = s.nonce := by
  unfold reply; (try dsimp only); (repeat' split) <;> simp [modJob]
@[simp] theorem reply_nextJob (i status : Nat) (payload : List Byte) (s : State) :
    (reply i status payload s).nextJob = s.nextJob := by
  unfold reply; (try dsimp only); (repeat' split) <;> simp [modJob]
@[simp] theorem reply_jobs (i status : Nat) (payload : List Byte) (s : State) :
    (reply i status payload s).jobs = s.jobs := by
  unfold reply; (try dsimp only); (repeat' split) <;> simp [modJob]
@[simp] theorem reply_colls (i status : Nat) (payload : List Byte) (s : State) :
    (reply i status payload s).colls = s.colls := by
  unfold reply; (try dsimp only); (repeat' split) <;> simp [modJob]
@[simp] theorem reply_newts (i status : Nat) (payload : List Byte) (s : State) :
    (reply i status payload s).newts = s.newts := by
  unfold reply; (try dsimp only); (repeat' split) <;> simp [modJob]
@[simp] theorem reply_sync (i status : Nat) (payload : List Byte) (s : State) :
    (reply i status payload s).sync = s.sync := by
  unfold reply; (try dsimp only); (repeat' split) <;> simp [modJob]
@[simp] theorem reply_sch (i status : Nat) (payload : List Byte) (s : State) :
    (reply i status payload s).sch = s.sch := by
  unfold reply; (try dsimp only); (repeat' split) <;> simp [modJob]
@[simp] theorem reply_swc (i status : Nat) (payload : List Byte) (s : State) :
    (reply i status payload s).swc = s.swc := by
  unfold reply; (try dsimp only); (repeat' split) <;> simp [modJob]
@[simp] theorem reply_rte (i status : Nat) (payload : List Byte) (s : State) :
    (reply i status payload s).rte = s.rte := by
  unfold reply; (try dsimp only); (repeat' split) <;> simp [modJob]
@[simp] theorem reply_shp (i status : Nat) (payload : List Byte) (s : State) :
    (reply i status payload s).shp = s.shp := by
  unfold reply; (try dsimp only); (repeat' split) <;> simp [modJob]
@[simp] theorem reply_quads (i status : Nat) (payload : List Byte) (s : State) :
    (reply i status payload s).quads = s.quads := by
  unfold reply; (try dsimp only); (repeat' split) <;> simp [modJob]
@[simp] theorem reply_lov (i status : Nat) (payload : List Byte) (s : State) :
    (reply i status payload s).lov = s.lov := by
  unfold reply; (try dsimp only); (repeat' split) <;> simp [modJob]
@[simp] theorem reply_pool (i status : Nat) (payload : List Byte) (s : State) :
    (reply i status payload s).pool = s.pool := by
  unfold reply; (try dsimp only); (repeat' split) <;> simp [modJob]
@[simp] theorem reply_dma (i status : Nat) (payload : List Byte) (s : State) :
    (reply i status payload s).dma = s.dma := by
  unfold reply; (try dsimp only); (repeat' split) <;> simp [modJob]
@[simp] theorem reply_therm (i status : Nat) (payload : List Byte) (s : State) :
    (reply i status payload s).therm = s.therm := by
  unfold reply; (try dsimp only); (repeat' split) <;> simp [modJob]
@[simp] theorem reply_hostMem (i status : Nat) (payload : List Byte) (s : State) :
    (reply i status payload s).hostMem = s.hostMem := by
  unfold reply; (try dsimp only); (repeat' split) <;> simp [modJob]
@[simp] theorem reply_free (i status : Nat) (payload : List Byte) (s : State) :
    (reply i status payload s).free = s.free := by
  unfold reply; (try dsimp only); (repeat' split) <;> simp [modJob]
@[simp] theorem reply_pending (i status : Nat) (payload : List Byte) (s : State) :
    (reply i status payload s).pending = s.pending := by
  unfold reply; (try dsimp only); (repeat' split) <;> simp [modJob]
@[simp] theorem cmdFailWith_pins (i : Nat) (o : Occ) (s : State) : (cmdFailWith i o s).pins = s.pins := by
  unfold cmdFailWith; (try dsimp only); (repeat' split) <;> simp [modJob]
@[simp] theorem cmdFailWith_unit (i : Nat) (o : Occ) (s : State) : (cmdFailWith i o s).unit = s.unit := by
  unfold cmdFailWith; (try dsimp only); (repeat' split) <;> simp [modJob]
@[simp] theorem cmdFailWith_fuse (i : Nat) (o : Occ) (s : State) : (cmdFailWith i o s).fuse = s.fuse := by
  unfold cmdFailWith; (try dsimp only); (repeat' split) <;> simp [modJob]
@[simp] theorem cmdFailWith_att (i : Nat) (o : Occ) (s : State) : (cmdFailWith i o s).att = s.att := by
  unfold cmdFailWith; (try dsimp only); (repeat' split) <;> simp [modJob]
@[simp] theorem cmdFailWith_mon (i : Nat) (o : Occ) (s : State) : (cmdFailWith i o s).mon = s.mon := by
  unfold cmdFailWith; (try dsimp only); (repeat' split) <;> simp [modJob]
@[simp] theorem cmdFailWith_cal (i : Nat) (o : Occ) (s : State) : (cmdFailWith i o s).cal = s.cal := by
  unfold cmdFailWith; (try dsimp only); (repeat' split) <;> simp [modJob]
@[simp] theorem cmdFailWith_nonce (i : Nat) (o : Occ) (s : State) : (cmdFailWith i o s).nonce = s.nonce := by
  unfold cmdFailWith; (try dsimp only); (repeat' split) <;> simp [modJob]
@[simp] theorem cmdFailWith_nextJob (i : Nat) (o : Occ) (s : State) : (cmdFailWith i o s).nextJob = s.nextJob := by
  unfold cmdFailWith; (try dsimp only); (repeat' split) <;> simp [modJob]
@[simp] theorem cmdFailWith_jobs (i : Nat) (o : Occ) (s : State) : (cmdFailWith i o s).jobs = s.jobs := by
  unfold cmdFailWith; (try dsimp only); (repeat' split) <;> simp [modJob]
@[simp] theorem cmdFailWith_colls (i : Nat) (o : Occ) (s : State) : (cmdFailWith i o s).colls = s.colls := by
  unfold cmdFailWith; (try dsimp only); (repeat' split) <;> simp [modJob]
@[simp] theorem cmdFailWith_newts (i : Nat) (o : Occ) (s : State) : (cmdFailWith i o s).newts = s.newts := by
  unfold cmdFailWith; (try dsimp only); (repeat' split) <;> simp [modJob]
@[simp] theorem cmdFailWith_sync (i : Nat) (o : Occ) (s : State) : (cmdFailWith i o s).sync = s.sync := by
  unfold cmdFailWith; (try dsimp only); (repeat' split) <;> simp [modJob]
@[simp] theorem cmdFailWith_quads (i : Nat) (o : Occ) (s : State) : (cmdFailWith i o s).quads = s.quads := by
  unfold cmdFailWith; (try dsimp only); (repeat' split) <;> simp [modJob]
@[simp] theorem cmdFailWith_therm (i : Nat) (o : Occ) (s : State) : (cmdFailWith i o s).therm = s.therm := by
  unfold cmdFailWith; (try dsimp only); (repeat' split) <;> simp [modJob]
@[simp] theorem cmdFailWith_hostMem (i : Nat) (o : Occ) (s : State) : (cmdFailWith i o s).hostMem = s.hostMem := by
  unfold cmdFailWith; (try dsimp only); (repeat' split) <;> simp [modJob]
@[simp] theorem cmdFailWith_pending (i : Nat) (o : Occ) (s : State) : (cmdFailWith i o s).pending = s.pending := by
  unfold cmdFailWith; (try dsimp only); (repeat' split) <;> simp [modJob]
@[simp] theorem cmdFail_pins (i code : Nat) (s : State) : (cmdFail i code s).pins = s.pins := by
  unfold cmdFail; (try dsimp only); (repeat' split) <;> simp [modJob]
@[simp] theorem cmdFail_unit (i code : Nat) (s : State) : (cmdFail i code s).unit = s.unit := by
  unfold cmdFail; (try dsimp only); (repeat' split) <;> simp [modJob]
@[simp] theorem cmdFail_fuse (i code : Nat) (s : State) : (cmdFail i code s).fuse = s.fuse := by
  unfold cmdFail; (try dsimp only); (repeat' split) <;> simp [modJob]
@[simp] theorem cmdFail_att (i code : Nat) (s : State) : (cmdFail i code s).att = s.att := by
  unfold cmdFail; (try dsimp only); (repeat' split) <;> simp [modJob]
@[simp] theorem cmdFail_mon (i code : Nat) (s : State) : (cmdFail i code s).mon = s.mon := by
  unfold cmdFail; (try dsimp only); (repeat' split) <;> simp [modJob]
@[simp] theorem cmdFail_cal (i code : Nat) (s : State) : (cmdFail i code s).cal = s.cal := by
  unfold cmdFail; (try dsimp only); (repeat' split) <;> simp [modJob]
@[simp] theorem cmdFail_nonce (i code : Nat) (s : State) : (cmdFail i code s).nonce = s.nonce := by
  unfold cmdFail; (try dsimp only); (repeat' split) <;> simp [modJob]
@[simp] theorem cmdFail_nextJob (i code : Nat) (s : State) : (cmdFail i code s).nextJob = s.nextJob := by
  unfold cmdFail; (try dsimp only); (repeat' split) <;> simp [modJob]
@[simp] theorem cmdFail_jobs (i code : Nat) (s : State) : (cmdFail i code s).jobs = s.jobs := by
  unfold cmdFail; (try dsimp only); (repeat' split) <;> simp [modJob]
@[simp] theorem cmdFail_colls (i code : Nat) (s : State) : (cmdFail i code s).colls = s.colls := by
  unfold cmdFail; (try dsimp only); (repeat' split) <;> simp [modJob]
@[simp] theorem cmdFail_newts (i code : Nat) (s : State) : (cmdFail i code s).newts = s.newts := by
  unfold cmdFail; (try dsimp only); (repeat' split) <;> simp [modJob]
@[simp] theorem cmdFail_sync (i code : Nat) (s : State) : (cmdFail i code s).sync = s.sync := by
  unfold cmdFail; (try dsimp only); (repeat' split) <;> simp [modJob]
@[simp] theorem cmdFail_quads (i code : Nat) (s : State) : (cmdFail i code s).quads = s.quads := by
  unfold cmdFail; (try dsimp only); (repeat' split) <;> simp [modJob]
@[simp] theorem cmdFail_therm (i code : Nat) (s : State) : (cmdFail i code s).therm = s.therm := by
  unfold cmdFail; (try dsimp only); (repeat' split) <;> simp [modJob]
@[simp] theorem cmdFail_hostMem (i code : Nat) (s : State) : (cmdFail i code s).hostMem = s.hostMem := by
  unfold cmdFail; (try dsimp only); (repeat' split) <;> simp [modJob]
@[simp] theorem cmdFail_pending (i code : Nat) (s : State) : (cmdFail i code s).pending = s.pending := by
  unfold cmdFail; (try dsimp only); (repeat' split) <;> simp [modJob]
@[simp] theorem cmdDone_pins (i : Nat) (payload : List Byte) (s : State) : (cmdDone i payload s).pins = s.pins := by
  unfold cmdDone; (try dsimp only); (repeat' split) <;> simp [modJob]
@[simp] theorem cmdDone_ras (i : Nat) (payload : List Byte) (s : State) : (cmdDone i payload s).ras = s.ras := by
  unfold cmdDone; (try dsimp only); (repeat' split) <;> simp [modJob]
@[simp] theorem cmdDone_log (i : Nat) (payload : List Byte) (s : State) : (cmdDone i payload s).log = s.log := by
  unfold cmdDone; (try dsimp only); (repeat' split) <;> simp [modJob]
@[simp] theorem cmdDone_unit (i : Nat) (payload : List Byte) (s : State) : (cmdDone i payload s).unit = s.unit := by
  unfold cmdDone; (try dsimp only); (repeat' split) <;> simp [modJob]
@[simp] theorem cmdDone_fw (i : Nat) (payload : List Byte) (s : State) : (cmdDone i payload s).fw = s.fw := by
  unfold cmdDone; (try dsimp only); (repeat' split) <;> simp [modJob]
@[simp] theorem cmdDone_fuse (i : Nat) (payload : List Byte) (s : State) : (cmdDone i payload s).fuse = s.fuse := by
  unfold cmdDone; (try dsimp only); (repeat' split) <;> simp [modJob]
@[simp] theorem cmdDone_att (i : Nat) (payload : List Byte) (s : State) : (cmdDone i payload s).att = s.att := by
  unfold cmdDone; (try dsimp only); (repeat' split) <;> simp [modJob]
@[simp] theorem cmdDone_mon (i : Nat) (payload : List Byte) (s : State) : (cmdDone i payload s).mon = s.mon := by
  unfold cmdDone; (try dsimp only); (repeat' split) <;> simp [modJob]
@[simp] theorem cmdDone_cal (i : Nat) (payload : List Byte) (s : State) : (cmdDone i payload s).cal = s.cal := by
  unfold cmdDone; (try dsimp only); (repeat' split) <;> simp [modJob]
@[simp] theorem cmdDone_nonce (i : Nat) (payload : List Byte) (s : State) :
    (cmdDone i payload s).nonce = s.nonce := by
  unfold cmdDone; (try dsimp only); (repeat' split) <;> simp [modJob]
@[simp] theorem cmdDone_nextJob (i : Nat) (payload : List Byte) (s : State) :
    (cmdDone i payload s).nextJob = s.nextJob := by
  unfold cmdDone; (try dsimp only); (repeat' split) <;> simp [modJob]
@[simp] theorem cmdDone_jobs (i : Nat) (payload : List Byte) (s : State) : (cmdDone i payload s).jobs = s.jobs := by
  unfold cmdDone; (try dsimp only); (repeat' split) <;> simp [modJob]
@[simp] theorem cmdDone_colls (i : Nat) (payload : List Byte) (s : State) :
    (cmdDone i payload s).colls = s.colls := by
  unfold cmdDone; (try dsimp only); (repeat' split) <;> simp [modJob]
@[simp] theorem cmdDone_newts (i : Nat) (payload : List Byte) (s : State) :
    (cmdDone i payload s).newts = s.newts := by
  unfold cmdDone; (try dsimp only); (repeat' split) <;> simp [modJob]
@[simp] theorem cmdDone_sync (i : Nat) (payload : List Byte) (s : State) : (cmdDone i payload s).sync = s.sync := by
  unfold cmdDone; (try dsimp only); (repeat' split) <;> simp [modJob]
@[simp] theorem cmdDone_sch (i : Nat) (payload : List Byte) (s : State) : (cmdDone i payload s).sch = s.sch := by
  unfold cmdDone; (try dsimp only); (repeat' split) <;> simp [modJob]
@[simp] theorem cmdDone_swc (i : Nat) (payload : List Byte) (s : State) : (cmdDone i payload s).swc = s.swc := by
  unfold cmdDone; (try dsimp only); (repeat' split) <;> simp [modJob]
@[simp] theorem cmdDone_rte (i : Nat) (payload : List Byte) (s : State) : (cmdDone i payload s).rte = s.rte := by
  unfold cmdDone; (try dsimp only); (repeat' split) <;> simp [modJob]
@[simp] theorem cmdDone_shp (i : Nat) (payload : List Byte) (s : State) : (cmdDone i payload s).shp = s.shp := by
  unfold cmdDone; (try dsimp only); (repeat' split) <;> simp [modJob]
@[simp] theorem cmdDone_quads (i : Nat) (payload : List Byte) (s : State) :
    (cmdDone i payload s).quads = s.quads := by
  unfold cmdDone; (try dsimp only); (repeat' split) <;> simp [modJob]
@[simp] theorem cmdDone_lov (i : Nat) (payload : List Byte) (s : State) : (cmdDone i payload s).lov = s.lov := by
  unfold cmdDone; (try dsimp only); (repeat' split) <;> simp [modJob]
@[simp] theorem cmdDone_pool (i : Nat) (payload : List Byte) (s : State) : (cmdDone i payload s).pool = s.pool := by
  unfold cmdDone; (try dsimp only); (repeat' split) <;> simp [modJob]
@[simp] theorem cmdDone_dma (i : Nat) (payload : List Byte) (s : State) : (cmdDone i payload s).dma = s.dma := by
  unfold cmdDone; (try dsimp only); (repeat' split) <;> simp [modJob]
@[simp] theorem cmdDone_therm (i : Nat) (payload : List Byte) (s : State) :
    (cmdDone i payload s).therm = s.therm := by
  unfold cmdDone; (try dsimp only); (repeat' split) <;> simp [modJob]
@[simp] theorem cmdDone_hostMem (i : Nat) (payload : List Byte) (s : State) :
    (cmdDone i payload s).hostMem = s.hostMem := by
  unfold cmdDone; (try dsimp only); (repeat' split) <;> simp [modJob]
@[simp] theorem cmdDone_free (i : Nat) (payload : List Byte) (s : State) : (cmdDone i payload s).free = s.free := by
  unfold cmdDone; (try dsimp only); (repeat' split) <;> simp [modJob]
@[simp] theorem cmdDone_pending (i : Nat) (payload : List Byte) (s : State) :
    (cmdDone i payload s).pending = s.pending := by
  unfold cmdDone; (try dsimp only); (repeat' split) <;> simp [modJob]
@[simp] theorem jobState_pins (j : Nat) (t : JobState) (s : State) : (jobState j t s).pins = s.pins := by
  unfold jobState; (try dsimp only); (repeat' split) <;> simp [modJob]
@[simp] theorem jobState_ras (j : Nat) (t : JobState) (s : State) : (jobState j t s).ras = s.ras := by
  unfold jobState; (try dsimp only); (repeat' split) <;> simp [modJob]
@[simp] theorem jobState_log (j : Nat) (t : JobState) (s : State) : (jobState j t s).log = s.log := by
  unfold jobState; (try dsimp only); (repeat' split) <;> simp [modJob]
@[simp] theorem jobState_unit (j : Nat) (t : JobState) (s : State) : (jobState j t s).unit = s.unit := by
  unfold jobState; (try dsimp only); (repeat' split) <;> simp [modJob]
@[simp] theorem jobState_lay (j : Nat) (t : JobState) (s : State) : (jobState j t s).lay = s.lay := by
  unfold jobState; (try dsimp only); (repeat' split) <;> simp [modJob]
@[simp] theorem jobState_fw (j : Nat) (t : JobState) (s : State) : (jobState j t s).fw = s.fw := by
  unfold jobState; (try dsimp only); (repeat' split) <;> simp [modJob]
@[simp] theorem jobState_fuse (j : Nat) (t : JobState) (s : State) : (jobState j t s).fuse = s.fuse := by
  unfold jobState; (try dsimp only); (repeat' split) <;> simp [modJob]
@[simp] theorem jobState_att (j : Nat) (t : JobState) (s : State) : (jobState j t s).att = s.att := by
  unfold jobState; (try dsimp only); (repeat' split) <;> simp [modJob]
@[simp] theorem jobState_mon (j : Nat) (t : JobState) (s : State) : (jobState j t s).mon = s.mon := by
  unfold jobState; (try dsimp only); (repeat' split) <;> simp [modJob]
@[simp] theorem jobState_cal (j : Nat) (t : JobState) (s : State) : (jobState j t s).cal = s.cal := by
  unfold jobState; (try dsimp only); (repeat' split) <;> simp [modJob]
@[simp] theorem jobState_nonce (j : Nat) (t : JobState) (s : State) : (jobState j t s).nonce = s.nonce := by
  unfold jobState; (try dsimp only); (repeat' split) <;> simp [modJob]
@[simp] theorem jobState_nextJob (j : Nat) (t : JobState) (s : State) : (jobState j t s).nextJob = s.nextJob := by
  unfold jobState; (try dsimp only); (repeat' split) <;> simp [modJob]
@[simp] theorem jobState_colls (j : Nat) (t : JobState) (s : State) : (jobState j t s).colls = s.colls := by
  unfold jobState; (try dsimp only); (repeat' split) <;> simp [modJob]
@[simp] theorem jobState_newts (j : Nat) (t : JobState) (s : State) : (jobState j t s).newts = s.newts := by
  unfold jobState; (try dsimp only); (repeat' split) <;> simp [modJob]
@[simp] theorem jobState_sync (j : Nat) (t : JobState) (s : State) : (jobState j t s).sync = s.sync := by
  unfold jobState; (try dsimp only); (repeat' split) <;> simp [modJob]
@[simp] theorem jobState_sch (j : Nat) (t : JobState) (s : State) : (jobState j t s).sch = s.sch := by
  unfold jobState; (try dsimp only); (repeat' split) <;> simp [modJob]
@[simp] theorem jobState_swc (j : Nat) (t : JobState) (s : State) : (jobState j t s).swc = s.swc := by
  unfold jobState; (try dsimp only); (repeat' split) <;> simp [modJob]
@[simp] theorem jobState_rte (j : Nat) (t : JobState) (s : State) : (jobState j t s).rte = s.rte := by
  unfold jobState; (try dsimp only); (repeat' split) <;> simp [modJob]
@[simp] theorem jobState_shp (j : Nat) (t : JobState) (s : State) : (jobState j t s).shp = s.shp := by
  unfold jobState; (try dsimp only); (repeat' split) <;> simp [modJob]
@[simp] theorem jobState_quads (j : Nat) (t : JobState) (s : State) : (jobState j t s).quads = s.quads := by
  unfold jobState; (try dsimp only); (repeat' split) <;> simp [modJob]
@[simp] theorem jobState_lov (j : Nat) (t : JobState) (s : State) : (jobState j t s).lov = s.lov := by
  unfold jobState; (try dsimp only); (repeat' split) <;> simp [modJob]
@[simp] theorem jobState_pool (j : Nat) (t : JobState) (s : State) : (jobState j t s).pool = s.pool := by
  unfold jobState; (try dsimp only); (repeat' split) <;> simp [modJob]
@[simp] theorem jobState_dma (j : Nat) (t : JobState) (s : State) : (jobState j t s).dma = s.dma := by
  unfold jobState; (try dsimp only); (repeat' split) <;> simp [modJob]
@[simp] theorem jobState_therm (j : Nat) (t : JobState) (s : State) : (jobState j t s).therm = s.therm := by
  unfold jobState; (try dsimp only); (repeat' split) <;> simp [modJob]
@[simp] theorem jobState_hostMem (j : Nat) (t : JobState) (s : State) : (jobState j t s).hostMem = s.hostMem := by
  unfold jobState; (try dsimp only); (repeat' split) <;> simp [modJob]
@[simp] theorem jobState_out (j : Nat) (t : JobState) (s : State) : (jobState j t s).out = s.out := by
  unfold jobState; (try dsimp only); (repeat' split) <;> simp [modJob]
@[simp] theorem jobState_free (j : Nat) (t : JobState) (s : State) : (jobState j t s).free = s.free := by
  unfold jobState; (try dsimp only); (repeat' split) <;> simp [modJob]
@[simp] theorem jobState_pending (j : Nat) (t : JobState) (s : State) : (jobState j t s).pending = s.pending := by
  unfold jobState; (try dsimp only); (repeat' split) <;> simp [modJob]

end Sys2Proof.Machine
end

