-- ==== Sys2Proof/Tests/Slice0.lean ====
section
/-! SUPPORT. Small checks on fixed values: the word of a row and well-formedness, then, for each statement with hypotheses,
states and operands that meet them, clause by clause, with what the command gives there. Expected values come from the
rules that the statements cite. -/

namespace Sys2Proof.Tests

-- One theorem at a time: the kernel evaluations are large enough for memory.
set_option Elab.async false

open Sys2Proof Sys2Proof.Machine

/-- The next state of an outcome, or the reset state. -/
def nx (r : Res) : State :=
  match r with
  | .next t => t
  | _ => State.reset

/-- A running chip owned by a host. -/
def chip : State :=
  { State.reset with
    pins := { State.reset.pins with phase := .running, pwrgood := true, perstN := true }
    fw := { State.reset.fw with bootStep := 7 }
    hif := { State.reset.hif with state := .owned, epoch := 1, cxlUp := true } }

/-- The chip during boot. -/
def bootChip : State := { chip with pins := { chip.pins with phase := .booting }, fw := { chip.fw with bootStep := 0 } }

/-- The premise s.Wf as a Bool. -/
def wf (s : State) : Bool := decide s.Wf

/-- A well-formed collective tag and the terms that break it. -/
def tag0 : CollTag := { coll := 0xFFFFFF, kind := 12, tile := 0, rank := 0, offset := 0xFFFF, stage := 7, last := true }
def pkt0 : Packet := { dst := 0x3FFFFF, src := 0x3FFFFF, cls := 7, vc := 1 }
def frame0 : LaneFrame := { lanes := List.replicate 3 (List.replicate 2240 0) ++ [[]] }
def cell0 : LandCell := { addr := 0x7FFFF, lc := 63, tag := tag0, data := List.replicate 256 0 }

theorem test_wf_tag :
    tag0.wf = true ∧ { tag0 with coll := 2 ^ 24 }.wf = false ∧ { tag0 with kind := 13 }.wf = false ∧
    { tag0 with tile := 2 ^ 32 }.wf = false ∧ { tag0 with rank := 2 ^ 32 }.wf = false ∧ { tag0 with offset := 2 ^ 16 }.wf = false ∧
    { tag0 with stage := 8 }.wf = false ∧ (Tag.plain (2 ^ 16)).wf = false ∧ (Tag.txn 0 4097 0 0 0).wf = false ∧
    (Tag.txn (2 ^ 32) 0 0 0 0).wf = false ∧ (Tag.txn 0 0 256 0 0).wf = false ∧ (Tag.txn 0 0 0 256 0).wf = false ∧
    (Tag.txn 0 0 0 0 (2 ^ 64)).wf = false ∧ (Tag.sync 8192 0).wf = false ∧ (Tag.sync 0 (2 ^ 38)).wf = false := by decide +kernel

theorem test_wf_packet :
    pkt0.wf = true ∧ { pkt0 with dst := 2 ^ 22 }.wf = false ∧ { pkt0 with src := 2 ^ 22 }.wf = false ∧ { pkt0 with cls := 8 }.wf = false ∧
    { pkt0 with vc := 2 }.wf = false ∧ { pkt0 with chan := 16 }.wf = false ∧ { pkt0 with colour := 4 }.wf = false ∧
    { pkt0 with prio := 4 }.wf = false ∧ { pkt0 with seq := 2 ^ 16 }.wf = false ∧ { pkt0 with dunit := 2 ^ 16 }.wf = false ∧
    { pkt0 with sunit := 2 ^ 16 }.wf = false ∧ { pkt0 with payload := List.replicate 4097 0 }.wf = false ∧
    { pkt0 with stomp := 16 }.wf = false ∧ { pkt0 with tag := .plain (2 ^ 16) }.wf = false ∧ { pkt0 with left := 1 }.wf = false ∧
    { pkt0 with sid := 1 }.wf = false ∧ { pkt0 with mirs := [⟨0, 0, 0, 0, 0⟩] }.wf = false ∧
    { pkt0 with land := some (0, 0) }.wf = false := by decide +kernel

theorem test_wf_frame_cell :
    frame0.wf = true ∧ { frame0 with lanes := [[], [], []] }.wf = false ∧
    { frame0 with lanes := [[], [], [], List.replicate 2239 0] }.wf = false ∧ cell0.wf = true ∧ { cell0 with addr := 2 ^ 19 }.wf = false ∧
    { cell0 with lc := 64 }.wf = false ∧ { cell0 with data := List.replicate 257 0 }.wf = false ∧
    { cell0 with tag := { tag0 with stage := 8 } }.wf = false := by decide +kernel

theorem test_wf_host :
    (Instr.sensorReading []).wf = false ∧ (Instr.hdmRead 32).wf = false ∧ (Instr.hdmWrite 0 [] false).wf = false ∧
    (Instr.registerWrite (2 ^ 26) 0 8).wf = false ∧ (Instr.mailboxSlotWrite (2 ^ 20) 0 8).wf = false ∧ (Instr.dmaNop 0 []).wf = false ∧
    (Instr.dmaH2d 0 [] []).wf = false ∧ (Instr.dmaD2h 0 []).wf = false ∧ (Instr.dmaFill 0 []).wf = false ∧
    (Instr.dmaWait 0 []).wf = false ∧ (Instr.dmaSig 0 []).wf = false ∧ (Instr.dmaBarr 0 []).wf = false ∧
    (Instr.map 72).wf = false ∧ (Instr.peek 0 0).wf = false ∧ (Instr.log 65).wf = false ∧ (Instr.eye 0 4).wf = false ∧
    (Instr.unlock [32]).wf = false ∧ (Instr.mpeek 0 17).wf = false ∧ (Instr.identify 255).wf = true := by decide +kernel

theorem test_wf_chip :
    (Instr.syncWaitTimeout 0 (2 ^ 16)).wf = false ∧ (Instr.syncTaggedWrite 0 0 (2 ^ 23) 0 []).wf = false ∧
    (Instr.newtInstructionComplete 0 (2 ^ 13)).wf = false ∧ (Instr.cellLanding 0 { cell0 with lc := 64 }).wf = false ∧
    (Instr.asbPacketMerge 0 cell0).wf = false ∧ (Instr.abortRequest 0 (2 ^ 16) {}).wf = false ∧
    (Instr.activateLayout ⟨0, some { code := 4096, kind := 0, unit := 0 }⟩).wf = false ∧
    (Instr.activateLayout ⟨0, some { code := 0, kind := 32, unit := 0 }⟩).wf = false ∧
    (Instr.noticeReceive 0 3 0 {} []).wf = false ∧ (Instr.noticeReceive 0 3 0 {} (zeros 40)).wf = true ∧ (Instr.newtAbort 0 (2 ^ 24)).wf = false ∧ (Instr.abortRequest (2 ^ 24) 0 {}).wf = false ∧
    (Instr.collTimeout (2 ^ 24)).wf = false ∧ (Instr.noticeReceive 0 4 0 {} []).wf = false ∧ (Instr.outcomeDecided (2 ^ 24)).wf = false ∧
    (Instr.deliveredSend (2 ^ 24) 0).wf = false ∧ (Instr.postedCollectiveStart (2 ^ 24) ⟨[], []⟩).wf = false ∧
    (Instr.postedCollectiveStart 0 ⟨List.replicate 8225 0, []⟩).wf = false ∧
    (Instr.padFrameReceive 0 { frame0 with lanes := [] }).wf = false ∧ (Instr.chipLost (2 ^ 15)).wf = false ∧
    (Instr.chipLostNotice (2 ^ 15)).wf = false ∧ (Instr.depart (2 ^ 22)).wf = false ∧ (Instr.packetArrival 0 { pkt0 with vc := 2 }).wf = false ∧
    (Instr.resequence { pkt0 with vc := 2 }).wf = false ∧ (Instr.mgmtInboxArrival { pkt0 with vc := 2 }).wf = false ∧
    (Instr.alignmentCorrection [⟨1, 1, 0⟩] [⟨1, 2, 0⟩] [⟨1, 5, 0⟩]).wf = true ∧
    (Instr.alignmentCorrection [⟨1, 2, 0⟩] [] []).wf = false ∧ (Instr.alignmentCorrection [] [⟨1, 4, 0⟩] []).wf = false ∧
    (Instr.alignmentCorrection [] [] [⟨1, 6, 0⟩]).wf = false ∧
    (Instr.stomp 133 7 1 ⟨15, 207⟩).wf = true ∧ (Instr.stomp 134 0 0 ⟨0, 0⟩).wf = false ∧
    (Instr.stomp 0 0 0 ⟨16, 0⟩).wf = false ∧ (Instr.stomp 0 0 0 ⟨0, 208⟩).wf = false ∧ (Instr.overflowMoveBack 134 0 0).wf = false ∧ (Instr.swcStall 0 8 0).wf = false ∧
    (Instr.nodeConfigWrite (2 ^ 16) 0).wf = false ∧ (Instr.drainReleaseReceive (2 ^ 15)).wf = false := by decide +kernel

/-- The table gives no row bits, so no word spells a command. -/
theorem test_no_word : decodeTableWord 64 0 = none ∧ chip.withFetchWord 64 0 = chip := by decide +kernel

theorem test_StepRunsFront :
    let s : State := { chip with pending := [.loop 3] }
    nx (step { s with pending := .tokenRefill :: s.pending }) = nx (exec .tokenRefill s) ∧
    (nx (step { s with pending := .tokenRefill :: s.pending })).pending = [.loop 3] := by decide +kernel

theorem test_IdleTick :
    chip.pending = [] ∧ up chip = true ∧ nx (step chip) = { chip with sch := { chip.sch with croak := 1 } } ∧
    State.reset.pending = [] ∧ up State.reset = false ∧ nx (step State.reset) = State.reset := by decide +kernel

theorem test_IdleTickReleases :
    let v : SyncObj := { kind := 2, bl := 1, prod := 6 }
    let s : State := { chip with sync := { objs := [(5, v), (6, { kind := 1, depth := 4 })], lines := [(1, { bound := some 5 })] } }
    up s = true ∧ wf s ∧ s.sync.objs.filter (fun e => e.2.kind == 2 && (bline s e.2.bl).mask.isEmpty) = [(5, v)] ∧
    v.fabric = false ∧ (bline (nx (step s)) 1).out = true ∧ (obj (nx (step s)) 5).prod = 7 ∧
    (nx (step s)).sch.croak = 1 := by decide +kernel

theorem test_StepKeeps :
    let s : State := { chip with pending := [.syncPost 5 1], sync := { objs := [(5, { kind := 1, depth := 4 })] } }
    wf s ∧ s.pending.tail = [] ∧ wf (nx (step s)) ∧ (nx (step s)).pending = [] ∧
    (obj (nx (step s)) 5).prod = 1 := by decide +kernel

theorem test_StepKeepsFuses : chip.fuse.ok ∧ (nx (step chip)).fuse.ok ∧ chip.fuse.onlyBurnt (nx (step chip)).fuse := by
  unfold Fuses.ok Fuses.onlyBurnt; decide +kernel

theorem test_RaiseRecords :
    let o : Occ := { code := 0x0402, kind := 9, unit := 5, d := [1, 2, 3, 4] }
    up chip = true ∧ definedCode o.code = true ∧ (rasRec chip o.code).set = false ∧
    (rasRec (raise o chip) o.code).count = 1 ∧ (rasRec (raise o chip) o.code).rdata = [1, 2, 3, 4] ∧
    (rasRec (raise o chip) o.code).set = true ∧ (rasRec (raise o (raise o chip)) o.code).count = 2 ∧
    (rasRec (raise { o with unit := 4 } (raise o chip)) o.code).rsrc = BitVec.ofNat 64 (9 + 256 * 4) ∧
    (rasRec (raise { o with unit := 6 } (raise o chip)) o.code).rsrc = BitVec.ofNat 64 (9 + 256 * 5) := by decide +kernel

theorem test_RaiseFrame :
    let o : Occ := { code := 0x0402, kind := 9, unit := 5 }
    wf chip ∧ (0x0403 ≠ o.code) ∧ rasRec (raise o chip) 0x0403 = rasRec chip 0x0403 ∧ 5 < logBase ∧
    memByte (raise o chip).lov.mem 5 = 0 := by decide +kernel

theorem test_PowerGoodSamplesStraps :
    State.reset.pins.phase = .off ∧
    (nx (exec (.powerGood true false) State.reset)).pins.phase = .booting ∧
    (nx (exec (.powerGood true false) State.reset)).pins.recov = true ∧
    (nx (exec (.powerGood false true) State.reset)).pins.faultN = false ∧
    (nx (exec (.powerGood false true) State.reset)).fw.boots = 0 := by decide +kernel

theorem test_ResetClears :
    let s := raise { code := 0x0E06 } (raise { code := 0x0402 } chip)
    wf s ∧ (rasRec (nx (exec .pwrgoodFall s)) 0x0E06).set = true ∧ (rasRec (nx (exec .pwrgoodFall s)) 0x0402).set = false ∧
    (nx (exec .conventionalReset s)).pins.perstN = false ∧ (nx (exec .conventionalReset s)).hif.state = .booting := by
  decide +kernel

theorem test_BootReachesUnowned :
    bootChip.pins.phase = .booting ∧ bootChip.fw.bootStep = 0 ∧ bootChip.fw.lost = false ∧ bootChip.pins.refBad = false ∧
    (nx (exec (.boot []) bootChip)).fw.bootStep = 7 ∧ (nx (exec (.boot []) bootChip)).hif.state = .unowned := by
  decide +kernel

theorem test_FaultsStopIslands :
    up chip = true ∧ (0 : Nat) < (railRange 0).1 ∧ (rasRec chip 0x0E06).set = false ∧
    (nx (exec (.railFault 0 0) chip)).pins.faultN = false ∧ (rasRec (nx (exec (.railFault 0 0) chip)) 0x0E06).set = true ∧
    (155699 : Nat) < 155700 ∧ (nx (exec (.referenceFault 155699) chip)).pins.phase = .stopped ∧
    (nx (exec (.referenceFault 156271) bootChip)).pins.faultN = false ∧
    bootChip.pins.phase = .booting ∧ (rasRec (nx (exec (.referenceFault 156271) bootChip)) 0x0E08).set = true ∧
    (nx (exec (.referenceFault 156271) bootChip)).pins.phase = .booting ∧
    (nx (exec (.boot []) (nx (exec (.referenceFault 156271) bootChip)))).pins.phase = .booting := by decide +kernel

theorem test_SensorReadingTaken :
    wf chip ∧ awake chip = true ∧ 0 ∉ chip.therm.ignored ∧ chip.cal.sensorOff.getD 0 0 = 0 ∧
    tget 0 (nx (exec (.sensorReading [some (-640)]) chip)).therm.temps 0 = -640 ∧
    (0 : Nat) ∉ chip.therm.tripped ∧ sensorThr 0 3 ≤ 2400 ∧
    (nx (exec (.sensorReading [some 2400]) chip)).pins.thermtripN = false ∧
    (nx (exec (.sensorReading [some (sensorThr 0 2)]) chip)).fw.emerg = true ∧
    2 ≤ (nx (exec (.sensorReading [some (sensorThr 0 2)]) chip)).therm.want := by decide +kernel

theorem test_PowerReadingTaken :
    wf chip ∧ awake chip = true ∧ (nx (exec (.powerReading [7] [0] [0] [1999999, 1]) chip)).fw.emerg = true ∧
    2 ≤ (nx (exec (.powerReading [7] [0] [0] [1999999, 1]) chip)).therm.want ∧
    (nx (exec (.powerReading [7] [1750000] [] []) chip)).therm.want = 2 ∧
    (nx (exec (.powerReading [7] [] [1850000] []) chip)).therm.want = 2 ∧
    (nx (exec (.powerReading [7] [1650000] [] []) chip)).therm.want = 1 ∧
    (nx (exec (.powerReading [7] [1649999] [] []) chip)).therm.want = 0 := by decide +kernel

theorem test_WantFalls :
    let s := nx (exec (.powerReading [] [] [] [2000000]) chip)
    let t := nx (exec (.powerReading [] [] [] []) s)
    let u := nx (exec .emergencyClear t)
    let m (w : Word) : State := { chip with hif := { chip.hif with msix := [(450, [0, w])] } }
    up t = true ∧ t.fw.emerg = true ∧ standing t.therm < 3 ∧ u.fw.emerg = false ∧
    schedRuns u = false ∧ u.therm.want = 2 ∧ (nx (exec .wantFallIdle (nx (exec .wantFallIdle u)))).therm.want = 0 ∧
    (vector 450 (m 0)).out = [.vector 450] ∧ (vector 450 (m (BitVec.ofNat 64 (2 ^ 32)))).hif.pba = [(450, true)] := by
  decide +kernel

theorem test_TestPortAnswers :
    awake chip = true ∧ chip.pins.perstN = true ∧ (nx (exec (.jtagInstruction .idcode) chip)).out = [.jtag 0x1483019F] ∧
    (nx (exec (.jtagInstruction .bypass) chip)).out = [.jtag 0] ∧ (nx (exec (.jtagInstruction .extest) chip)).out = [.jtag 0] ∧
    (nx (exec (.jtagInstruction .samplePreload) chip)).pins.boundary = [true, true, true, false, false, true, true, true, true] ∧
    (let low : State := { chip with pins := { chip.pins with phase := .off, perstN := false, boundary := [true] } }
     awake low = false ∧ (nx (exec (.jtagInstruction .extest) low)).out = [.pins .extest [true]] ∧
     nx (exec (.jtagInstruction .bypass) low) = { low with pins := { low.pins with jtag := .bypass, trstN := true } }) := by decide +kernel

theorem test_StackCommands :
    let hot : State := { chip with lov := { chip.lov with stk := [(1, { hot := true })] } }
    let s : State := { chip with lov := { chip.lov with nextPlan := some [1] } }
    (∃ n ∈ List.range 4096, instantAt chip 0 0 n = true) ∧ up hot = true ∧ (stack hot 1).hot = true ∧ stackTemp hot 1 < 80 * 16 ∧
    (stack (nx (exec (.stackCoolReturn 1) hot)) 1).hot = false ∧
    s.lov.nextPlan = some [1] ∧ croak s % 128 = 0 ∧ padNow s % planPeriod s.lov.plan = 0 ∧ padNow s % planPeriod [1] = 0 ∧
    (nx (exec .stackPlanChange s)).lov.plan = [1] ∧ (stack (nx (exec (.stkCeRate 2) chip)) 2).ce = 4096 ∧
    (stack (nx (exec (.stkCeRate 2) (setStack 2 { ce := 3, ceTimes := [0, 0, 0] } chip))) 2).ce = 4096 := by decide +kernel

theorem test_StackFaults :
    let bad : State := { chip with lov := { chip.lov with poison := [9] } }
    wf chip ∧ up chip = true ∧ padKept 255 (64 * 9) chip = false ∧ 64 * 9 < logBase ∧
    9 ∈ (nx (exec (.patrolScrub 9 .uncorrectable) chip)).lov.poison ∧ nx (exec (.patrolScrub 9 .clean) chip) = chip ∧
    (stack (nx (exec (.patrolScrub 9 .corrected) chip)) 0).ce = 1 ∧ wf bad ∧
    (rasRec (nx (exec (.patrolScrub 9 .clean) bad)) 0x0D01).set = true ∧ nx (exec (.patrolScrub (2 ^ 32) .corrected) chip) = chip ∧ (stack (nx (exec (.stkFault 3) chip)) 3).faulted = true := by
  decide +kernel

theorem test_HdmAccess :
    let d := (List.range 64).map (BitVec.ofNat 8)
    let t := nx (exec (.hdmWrite 0 d false) chip)
    let u := nx (exec (.hdmWrite 0 d true) chip)
    wf chip ∧ hdmOpen chip 0 = true ∧ d.length = 64 ∧ poisoned chip (hdmAddr chip 0) 64 = false ∧
    memByte t.lov.mem (hdmAddr chip 0 + 63) = 63 ∧ padKept 255 (hdmAddr chip 0) chip = false ∧ poisoned t (hdmAddr t 0) 64 = false ∧
    lovRead t (hdmAddr t 0) 64 = d ∧ hdmOpen u 0 = true ∧
    poisoned u (hdmAddr u 0) 64 = true ∧ (rasRec (nx (exec (.hdmRead 0) u)) 0x0D01).set = true ∧
    hdmOpen State.reset 0 = false ∧ nx (exec (.hdmWrite 0 d false) State.reset) = State.reset := by decide +kernel

theorem test_HostLinkUpDown :
    let p : State := { chip with fw := { chip.fw with molt := .paused } }
    let o : State := { chip with hif := { chip.hif with state := .unowned } }
    up chip = true ∧ chip.hif.state = .owned ∧ chip.fw.molt ≠ .paused ∧ (nx (exec .cxlLinkDown chip)).hif.state = .orphan ∧
    (rasRec (nx (exec .cxlLinkDown chip)) 0x0116).set = true ∧ (rasRec (nx (exec .heartbeatLoss chip)) 0x0106).set = true ∧
    (nx (exec .heartbeatLoss chip)).hif.cxlUp = true ∧ up p = true ∧ (nx (exec .cxlRefclkLoss p)).fw.orphanDue = 0x0116 ∧
    up o = true ∧ nx (exec .cxlLinkDown o) = { o with hif := { o.hif with cxlUp := false } } ∧
    (nx (exec (.cxlLinkUp true false true) o)).hif.cxlIoOnly = true := by decide +kernel

theorem test_FunctionLevelReset :
    let s : State := { chip with
      hif := { chip.hif with slots := [(7, { bytes := leBytes 256 1 })], pba := [(3, true)], evBase := 9 }
      dma := { chans := [(2, { state := .run, count := 4 })] }, jobs := [(1, { state := .opened, wr := 3 })] }
    wf s ∧ up s = true ∧ s.hif.state = .owned ∧ s.fw.molt ≠ .paused ∧ (chan s 2).state ≠ .idle ∧
    slotState (mslot (nx (exec .functionLevelReset s)) 7) = 0 ∧ (nx (exec .functionLevelReset s)).hif.pba = [] ∧
    (chan (nx (exec .functionLevelReset s)) 2).count = 0 ∧ (job (nx (exec .functionLevelReset s)) 1).wr = 0 ∧
    (nx (exec .functionLevelReset s)).hif.state = .orphan := by decide +kernel

theorem test_HostRegisterWrites :
    let r : Word := 0x1000000000000004
    let s : State := { chip with jobs := [(2, { state := .running })] }
    up chip = true ∧ chip.hif.held = [] ∧ (nx (exec (.heartbeatWrite 1) { chip with sch := { chip.sch with croak := 9 } })).hif.lastBeat = 9 ∧
    nx (exec (.heartbeatWrite 2) chip) = chip ∧ (nx (exec (.hdmSizeWrite 0xC0) chip)).hif.hdmNext = 12 ∧
    (nx (exec (.eventRingWrite r) { chip with hif := { chip.hif with held := [{ typ := 3, croak := 5, data := [] }] } })).hif.held = [] ∧
    (rasRec (nx (exec (.hdmSizeWrite 0xD0) chip)) 0x0101).set = true ∧ bits r.toNat 63 6 ≠ 0 ∧ bits r.toNat 3 0 = 4 ∧
    (nx (exec (.eventRingWrite r) chip)).hif.evLog2 = 4 ∧ (rasRec (nx (exec (.eventRingWrite (r - 1)) chip)) 0x0101).set = true ∧
    (nx (exec (.eventRingWrite 3) chip)).hif.evLog2 = 3 ∧ (nx (exec (.ringReadAdvance none 65537) chip)).hif.evRd = 1 ∧
    wf s ∧ (job (nx (exec (.ringReadAdvance (some 2) 5) s)) 2).rd = 5 := by decide +kernel

theorem test_RingEntriesWritten :
    let e : EventItem := { typ := 3, croak := 5, data := [] }
    let s : State := { chip with hif := { chip.hif with held := [e], evBase := 1, evLog2 := 4 } }
    let v : Job := { state := .running, cring := 4096, clog2 := 4, vec := 1, held := [(leBytes 64 9, true)] }
    let j : State := { chip with jobs := [(2, v)] }
    wf s ∧ eventRoom s = true ∧ memByte (nx (exec .eventWrite s)).hostMem 64 = 3 ∧ (nx (exec .eventWrite s)).hif.evWr = 1 ∧
    wf j ∧ recordRoom 2 j = true ∧ memByte (nx (exec (.completionRecordWrite 2) j)).hostMem 4096 = 9 ∧
    (job (nx (exec (.completionRecordWrite 2) j)) 2).wr = 1 ∧ eventRoom chip = false ∧ recordRoom 2 chip = false := by decide +kernel

theorem test_MemberNotes :
    let b := leBytes 3 7 ++ leBytes 1 1 ++ leBytes 2 0x0A01 ++ zeros 58
    let s : State := { chip with colls := [(7, { members := [(4, 0)] })] }
    let d : State := { s with rte := { s.rte with drain := { classes := 8 } } }
    drains s 4 = false ∧ (memberNotes b s).out = [.mgmt "ABORT" 4 (collVals 10 7 0x0A01 0xFFFFFFFF [])] ∧
    (memberNotes (b.set 3 0) s).out = [.mgmt "COMPLETE" 4 (collVals 9 7 0 0xFFFFFFFF [])] ∧
    drains d 4 = true ∧ (memberNotes b d).out = [] ∧
    (memberNotes b d).rte.mgmtHeld = [("ABORT", 4, collVals 10 7 0x0A01 0xFFFFFFFF [])] := by decide +kernel

/-- A slot holding a TAKEN command, ready to run: code, then request bytes 32 on. -/
def ready (code : Nat) (rq : List Byte) : Slot :=
  { bytes := slice (leBytes 1 2 ++ zeros 1 ++ leBytes 2 code ++ zeros 28 ++ rq) 0 256, work := .ready, order := 1 }

/-- The chip with such a command in slot 4. -/
def cmd (code : Nat) (rq : List Byte) (s : State := chip) : State := { s with hif := { s.hif with slots := [(4, ready code rq)] } }

theorem test_ReplyWrites :
    let s := cmd 1 []
    wf s ∧ slotState (mslot (reply 4 0x0107 [5] s) 4) = 3 ∧ hdr (mslot (reply 4 0x0107 [5] s) 4).bytes 20 2 = 0x0107 ∧
    slice (mslot (reply 4 0x0107 [5] s) 4).bytes 32 1 = [5] ∧ up s = true ∧ definedCode 0x0107 = true ∧
    (rasRec (cmdFail 4 0x0107 s) 0x0107).set = true ∧ mslot (cmdFail 4 0x0107 s) 5 = mslot s 5 := by decide +kernel
theorem test_MailboxSlotWrites :
    let s := nx (exec (.mailboxSlotWrite (4096 * 255 + 248) 0x0807060504030201 8) chip)
    let p := nx (exec (.mailboxPost 255 0x01) s)
    wf chip ∧ up chip = true ∧ slotState (mslot chip 255) = 0 ∧ (mslot s 255).bytes.getD 255 0 = 8 ∧
    wf s ∧ slotState (mslot p 255) = 1 ∧ wf p ∧ up p = true ∧ (nx (exec (.mailboxPost 255 0x01) p)).hif.mbDiscarded = 1 ∧
    (rasRec (nx (exec (.mailboxSlotWrite (4096 * 255 + 4) 1 4) chip)) 0x0101).set = true ∧
    (rasRec (nx (exec (.mailboxSlotWrite (4096 * 255 + 9) 1 8) chip)) 0x0101).set = true ∧
    slotState (mslot (nx (exec (.mailboxSlotWrite (4096 * 255) 2 8) chip)) 255) = 0 ∧
    nx (exec (.mailboxSlotWrite (4096 * 255 + 256) 1 8) chip) = chip ∧ slotRead (4096 * 255 + 256) 8 s = (s, 0) ∧
    slotRead (4096 * 255 + 254) 2 s = (s, 0x0807) ∧ (slotRead (4096 * 255 + 253) 2 s).2 = 0 ∧
    (rasRec (slotRead (4096 * 255 + 253) 2 s).1 0x0101).set = true := by decide +kernel

/-- The same slot with other work, as a transfer or a flash write leaves it. -/
def held (code : Nat) (rq : List Byte) (w : SlotWork) (buf : List Byte) (scr : List Nat) (s : State := chip) : State :=
  setMslot 4 { ready code rq with work := w, buffer := buf, scratch := scr } s

/-- A POSTED command of RQLEN n in slot 4, with its PREOP byte. -/
def posted (code n pre : Nat) (rest : List Byte) (s : State := chip) : State :=
  setMslot 4 { bytes := slice (leBytes 1 1 ++ leBytes 1 pre ++ leBytes 2 code ++ zeros 4 ++ leBytes 4 1 ++ zeros 2 ++
    leBytes 2 n ++ rest) 0 256 } s

theorem test_MailboxScanTakes :
    let s := posted 0x70 16 0 []
    let b := posted 0x70 15 0 []
    let o : State := { posted 0x70 16 0 [] with hif := { s.hif with state := .orphan } }
    let w := held 0x40 [] .waiting [] []
    let h := setMslot 3 { ({ bytes := (mslot w 4).bytes, work := .waiting, order := 1 } : Slot) with buffer := [] }
      (modMslot 4 (fun m => { m with work := .ready, order := 2 }) w)
    taken (mslot h 3) = true ∧ h.hif.slots.any (heldBy h 4) = true ∧ w.hif.slots.any (heldBy w 4) = false ∧
    hdr (mslot (nx (exec (.commandTimeout 4) h)) 4).bytes 20 2 = 0x0107 ∧
    fwRuns s = true ∧ slotState (mslot s 4) = 1 ∧ headerGood (mslot s 4) = true ∧ requestGood (mslot s 4) = true ∧
    stateRule s (mslot s 4) = none ∧ preop (mslot s 4) = 0 ∧ slotState (mslot (nx (exec .mailboxScan s)) 4) = 2 ∧
    headerGood (mslot b 4) = false ∧ hdr (mslot (nx (exec .mailboxScan b)) 4).bytes 20 2 = 0x0102 ∧
    stateRule o (mslot o 4) = some 0x0105 ∧ up w = true ∧ (mslot w 4).work = .waiting ∧
    hdr (mslot (nx (exec (.commandTimeout 4) w)) 4).bytes 20 2 = 0x0107 := by decide +kernel

theorem test_PreopTimesOut :
    let o : State := { chip with sync := { objs := [(5, { kind := 1, depth := 4 })] } }
    let s := nx (exec .mailboxScan (posted 0x70 16 0 (leBytes 2 5 ++ leBytes 2 1) o))
    let p := nx (exec .mailboxScan (posted 0x70 16 2 (leBytes 2 5 ++ leBytes 2 1) o))
    hdr (mslot s 4).bytes 20 2 = 0x0102 ∧ (mslot p 4).work = .preop ∧ up p = true ∧
    (rasRec (nx (exec (.commandTimeout 4) p)) 0x0401).set = true := by decide +kernel

theorem test_ReadCommands :
    let c : State := { chip with cal := { chip.cal with set := [7], valid := true } }
    let j : State := { chip with jobs := [(2, { state := .ended, handle := 9, record := [1, 2] })] }
    runnable 1 4 (cmd 1 []) = true ∧ slice (mslot (nx (exec (.identify 4) (cmd 1 []))) 4).bytes 128 4 = leBytes 4 1 ∧
    runnable 0x70 4 (cmd 0x70 [1] c) = true ∧ req (mslot (cmd 0x70 [1] c) 4) 0 8 % 64 ≠ 0 ∧
    hdr (mslot (nx (exec (.calRead 4) (cmd 0x70 [1] c))) 4).bytes 20 2 = 0x010F ∧
    hdr (mslot (nx (exec (.calRead 4) (cmd 0x70 (zeros 8)))) 4).bytes 20 2 = 0x0C0B ∧
    hdr (mslot (nx (exec (.calRead 4) (cmd 0x70 (zeros 8) c))) 4).bytes 20 2 = 0x0114 ∧
    (mslot (nx (exec (.calRead 4) (cmd 0x70 (zeros 8 ++ [1]) c))) 4).work = .transfer ∧ runnable 0x80 4 (cmd 0x80 [9] j) = true ∧
    jobOf (req (mslot (cmd 0x80 [9] j) 4) 0 8) j = some 2 ∧
    (mslot (nx (exec (.runRecord 4) (cmd 0x80 (leBytes 16 9 ++ [2]) j))) 4).work = .transfer ∧
    hdr (mslot (nx (exec (.runRecord 4) (cmd 0x80 (leBytes 16 9 ++ [1]) j))) 4).bytes 20 2 = 0x0114 ∧
    hdr (mslot (nx (exec (.runRecord 4) (cmd 0x80 [9] { j with jobs := [(2, { state := .running, handle := 9 })] }))) 4).bytes 20 2 =
      0x0117 := by decide +kernel

theorem test_LogSnapshot :
    let s := cmd 0xA0 (zeros 8 ++ leBytes 8 128) { chip with log := { chip.log with head := 2 } }
    let n := cmd 0xA0 (zeros 8 ++ leBytes 8 127) { chip with log := { chip.log with head := 2 } }
    runnable 0xA0 4 s = true ∧ (nx (exec (.logSnapshot 4) s)).log.snap = true ∧
    hdr (mslot (nx (exec (.logSnapshot 4) n)) 4).bytes 20 2 = 0x0114 := by decide +kernel

theorem test_LoadLayout :
    let big := cmd 0x10 (zeros 8 ++ leBytes 8 (2 ^ 32 + 1))
    let max := cmd 0x10 (zeros 8 ++ leBytes 8 (2 ^ 32))
    let busy := cmd 0x10 [] { chip with lay := { chip.lay with busy := true } }
    runnable 0x10 4 max = true ∧ max.lay.busy = false ∧ max.fw.molt = .none ∧ (nx (exec (.loadLayout 4) max)).lay.busy = true ∧
    (nx (exec (.loadLayout 4) big)).lay.lastErr = 0x0C40 ∧ (nx (exec (.loadLayout 4) busy)).lay.lastErr = 0x0C46 ∧
    (nx (exec (.loadLayout 4) (cmd 0x10 [1]))).lay.lastErr = 0x010F := by decide +kernel

theorem test_ActivateLayout :
    let s := cmd 0x11 (imFp (zeros 256)) { chip with lay := { chip.lay with staged := some (zeros 256) } }
    let n := cmd 0x11 (zeros 32)
    runnable 0x11 4 s = true ∧ s.fw.recovery = false ∧ activateFails s (slice (mslot s 4).bytes 32 32) = none ∧
    s.lay.staged.isSome = true ∧ (nx (exec (.activateLayout ⟨4, none⟩) s)).lay.active = true ∧ definedCode 0x0D04 = true ∧
    (nx (exec (.activateLayout ⟨4, some { code := 0x0D04, kind := 5, unit := 1 }⟩) s)).lay.active = false ∧
    (nx (exec (.activateLayout ⟨4, some { code := 0x0D04, kind := 5, unit := 1 }⟩) s)).lay.staged = s.lay.staged ∧
    (rasRec (nx (exec (.activateLayout ⟨4, some { code := 0x0D04, kind := 5, unit := 1 }⟩) s)) 0x0D04).set = true ∧
    activateFails n (slice (mslot n 4).bytes 32 32) = some 0x0C47 ∧ (nx (exec (.activateLayout ⟨4, none⟩) n)).lay.lastErr = 0x0C47 := by
  decide +kernel

theorem test_TableSwap :
    let d : DrainSt := { classes := 0x1F, scope := 1, drained := true }
    let s := cmd 0x41 [1] { chip with lay := { chip.lay with active := true }, rte := { chip.rte with drain := d } }
    runnable 0x41 4 s = true ∧ swapCheck s 1 = none ∧ (nx (exec (.tableSwap 4) s)).lay.routeBank = 1 ∧
    swapCheck (cmd 0x41 [1]) 1 = some 0x0C4A ∧ (nx (exec (.tableSwap 4) (cmd 0x41 [1]))).lay.lastErr = 0x0C4A := by
  decide +kernel

theorem test_Drain :
    let b := cmd 0x40 (leBytes 2 7 ++ [2, 0, 0])
    let w := cmd 0x40 (leBytes 2 7 ++ [2, 0, 2])
    let r := cmd 0x40 (leBytes 2 7 ++ [0, 0, 1]) { chip with rte := { chip.rte with drain := { classes := 2 } } }
    let n := cmd 0x40 (leBytes 2 7 ++ [8, 1, 0])
    runnable 0x40 4 b = true ∧ drainRefused b 2 0 false = false ∧ (nx (exec (.drain 4) b)).rte.drain.id = 7 ∧
    (mslot (nx (exec (.drain 4) w)) 4).work = .waiting ∧ drainRefused r 0 0 true = false ∧ r.rte.drain.classes ≠ 0 ∧
    (mslot (nx (exec (.drain 4) r)) 4).work = .idle ∧ drainRefused n 8 1 false = true ∧
    (rasRec (nx (exec (.drain 4) n)) 0x060B).set = true := by decide +kernel

theorem test_JobOpen :
    let s := cmd 0x20 (leBytes 8 5 ++ zeros 16 ++ [4, 0xFF, 0])
    let f := cmd 0x20 [] { chip with jobs := (List.range 64).map (fun j => (j, { state := .opened })) }
    let r := cmd 0x20 (zeros 24 ++ [9, 1, 1] ++ zeros 5 ++ leBytes 8 77) { chip with jobs := [(3, { state := .running, handle := 77, wr := 4 })] }
    wf s ∧ runnable 0x20 4 s = true ∧ freeJob s = some 0 ∧ (job (nx (exec (.jobOpen 4) s)) 0).seed = 5 ∧
    (job (nx (exec (.jobOpen 4) s)) 0).state = .opened ∧ freeJob f = none ∧
    (rasRec (nx (exec (.jobOpen 4) f)) 0x010A).set = true ∧ jobOf (req (mslot r 4) 32 8) r = some 3 ∧ wf r ∧
    (job (nx (exec (.jobOpen 4) r)) 3).wr = 0 := by decide +kernel

theorem test_JobLaunch :
    let c : State := { chip with lay := { chip.lay with active := true }, jobs := [(3, { state := .opened, handle := 77 })] }
    let s := cmd 0x21 (leBytes 8 77 ++ leBytes 8 80000) c
    let e := cmd 0x21 (leBytes 8 77 ++ leBytes 8 79872) c
    wf s ∧ runnable 0x21 4 s = true ∧ launchFails s 77 80000 false = none ∧ jobOf 77 s = some 3 ∧
    (job (nx (exec (.jobLaunch 4) s)) 3).state = .armed ∧ launchFails e 77 79872 false = some 0x0B04 ∧
    (rasRec (nx (exec (.jobLaunch 4) e)) 0x0B04).set = true := by decide +kernel

theorem test_JobAbort :
    let c : State := { chip with jobs := [(3, { state := .opened, handle := 77 }), (4, { state := .ended, handle := 78 })] }
    let s := cmd 0x22 (leBytes 8 77) c
    wf s ∧ runnable 0x22 4 s = true ∧ heldCkpts 4 77 s = [] ∧ (job (nx (exec (.jobAbort 4) s)) 3).state = .ended ∧
    (rasRec (nx (exec (.jobAbort 4) (cmd 0x22 (leBytes 8 78) c))) 0x0108).set = true ∧
    (rasRec (nx (exec (.jobAbort 4) (cmd 0x22 (leBytes 8 1) c))) 0x0109).set = true := by decide +kernel

theorem test_Adopt :
    let s := cmd 0x90 (leBytes 4 1)
    runnable 0x90 4 s = true ∧ req (mslot s 4) 0 4 = s.hif.epoch ∧ (nx (exec (.adopt 4 true) s)).hif.epoch = 2 ∧
    (rasRec (nx (exec (.adopt 4 false) s)) 0x0110).set = true ∧ (adoptReport s).length ≤ req (mslot s 4) 16 8 ∧
    (rasRec (nx (exec (.adopt 4 true) (cmd 0x90 (leBytes 4 2)))) 0x0104).set = true := by decide +kernel

/-- An address of host memory on the chip. -/
def dev : Nat := 0x1FFFFF0000

/-- Job slot 3 in a state, with handle 77. -/
def withJob (v : Job) (s : State := chip) : State := { s with jobs := [(3, { v with handle := 77 })] }

theorem test_JobCheckpoint :
    let v : Job := { state := .running, sched := true }
    let s := cmd 0x23 (leBytes 8 77 ++ leBytes 8 dev ++ leBytes 8 64) (withJob v)
    let b := cmd 0x23 (leBytes 8 77 ++ leBytes 8 0 ++ leBytes 8 64) (withJob v)
    let f := cmd 0x23 (leBytes 8 77) (withJob { state := .running })
    runnable 0x23 4 s = true ∧ jobOf 77 s = some 3 ∧ hostRange s dev 64 = true ∧
    (job (nx (exec (.jobCheckpoint 4) s)) 3).ckptPending = some 4 ∧ hostRange b 0 64 = false ∧
    (rasRec (nx (exec (.jobCheckpoint 4) b)) 0x010F).set = true ∧ (rasRec (nx (exec (.jobCheckpoint 4) f)) 0x0109).set = true := by
  decide +kernel

theorem test_PauseAndCheckpoint :
    let p : State := { withJob { state := .running, sched := true, ckptPending := some 4, ckptAddr := dev, ckptLimit := 4096 }
                       (cmd 0x23 []) with sch := { chip.sch with state := .run, job := some 3 } }
    let q : State := { p with sch := { p.sch with state := .paused } }
    let l : State := { withJob { state := .running, ckptPending := some 4, ckptAddr := dev, ckptLimit := 100 } q with sch := q.sch }
    up p = true ∧ (job p 3).ckptPending.isSome = true ∧ jobColls p 3 = [] ∧ (nx (exec .pauseRequest p)).sch.pausePend = true ∧
    scheduledNewts q = [] ∧ (checkpoint q 3).length ≤ (job q 3).ckptLimit ∧
    lovRead (nx (exec (.checkpointWrite 4) q)) dev 4 = (checkpoint q 3).take 4 ∧ (job l 3).ckptLimit < (checkpoint l 3).length ∧
    (rasRec (nx (exec (.checkpointWrite 4) l)) 0x0114).set = true := by decide +kernel

/-- A checkpoint of epoch 5 with no sections. -/
def ckpt : List Byte :=
  let c := slice (zeros 88 ++ leBytes 8 5) 0 128
  c ++ shake256 c 32

theorem test_JobResume :
    let c := { chip with lay := { chip.lay with active := true }, sch := { chip.sch with align := .aligned } }
    let s := lovWrite dev ckpt (cmd 0x24 (leBytes 8 77 ++ leBytes 8 dev ++ leBytes 8 80000) (withJob { state := .opened } c))
    let e := { s with lay := chip.lay }
    let n := cmd 0x24 (leBytes 8 77 ++ leBytes 8 0) (withJob { state := .opened } c)
    runnable 0x24 4 s = true ∧ resumeFails s 77 dev = none ∧ ckLength s dev = some 160 ∧ poisonAt s dev 160 = none ∧
    resumeRefused s (lovRead s dev 160) 80000 = none ∧ (job (nx (exec (.jobResume 4) s)) 3).state = .armed ∧ resumeRefused e (lovRead e dev 160) 80000 = some 0x0B07 ∧
    (rasRec (nx (exec (.jobResume 4) e)) 0x0B07).set = true ∧ resumeFails n 77 0 = some 0x010F ∧
    (rasRec (nx (exec (.jobResume 4) n)) 0x010F).set = true := by decide +kernel

/-- The descriptor of an operation of collective 7 whose group record lies at `dev`, and a group of one member on chip 0. -/
def collDesc (op tiles : Nat) : List Byte :=
  leBytes 3 7 ++ leBytes 1 op ++ zeros 8 ++ leBytes 4 tiles ++ leBytes 2 1 ++ leBytes 2 8 ++ zeros 4 ++ leBytes 8 dev ++ zeros 32
def oneGroup : List Byte := zeros 8 ++ leBytes 4 1 ++ leBytes 4 1 ++ zeros 48 ++ leBytes 16 1

theorem test_CollPost :
    let c : State := { chip with rte := { chip.rte with coord := 1, extX := 2 }, newts := [(9, { role := .free })] }
    let s := lovWrite dev oneGroup (cmd 0x30 (leBytes 8 77 ++ collDesc 3 1) (withJob { state := .armed } c))
    let z := lovWrite dev oneGroup (cmd 0x30 (leBytes 8 77 ++ collDesc 3 0) (withJob { state := .armed } c))
    let rs := [(dev, 64), (dev, 80)]
    let o := postObjs s (collDesc 3 1) rs
    runnable 0x30 4 s = true ∧ postDesc (mslot s 4) = collDesc 3 1 ∧ postFails s 77 7 = none ∧ postRanges s (collDesc 3 1) = some rs ∧
    poisoned s dev 80 = false ∧ postCheck s 3 (collDesc 3 1) o = none ∧ (coll (nx (exec (.collPost 4) s)) 7).job = 3 ∧
    postCheck z 3 (collDesc 3 0) o = some 0x0A06 ∧ (rasRec (nx (exec (.collPost 4) z)) 0x0A06).set = true ∧
    (rasRec (nx (exec (.collPost 4) (withJob { state := .armed, ckptPending := some 4 } s))) 0x010D).set = true ∧
    postFails { s with newts := [] } 77 7 = some 0x010C ∧
    (rasRec (nx (exec (.collPost 4) { s with newts := [] })) 0x010C).set = true := by decide +kernel

theorem test_PostQuarantined :
    let c : State := { chip with rte := { chip.rte with coord := 1, extX := 2 }, newts := [(9, { role := .free })] }
    let s := lovWrite dev oneGroup (cmd 0x30 (leBytes 8 77 ++ collDesc 3 1) (withJob { state := .armed, sched := true } c))
    let q : State := { s with sync := { objs := [(5, { kind := 1, depth := 4, quar := true })] }, lay := { s.lay with syncObjs := [5] } }
    postFails q 77 7 = some 0x0408 ∧ (rasRec (nx (exec (.collPost 4) q)) 0x0408).set = true := by decide +kernel

theorem test_FwStage :
    let s := cmd 0x50 (zeros 8 ++ leBytes 8 (2 ^ 25))
    let b := cmd 0x50 (zeros 8 ++ leBytes 8 (2 ^ 25 + 1))
    runnable 0x50 4 s = true ∧ cmdActive s 0x50 = false ∧ (mslot (nx (exec (.fwStage 4) s)) 4).work = .transfer ∧
    (rasRec (nx (exec (.fwStage 4) b)) 0x0C01).set = true ∧
    (rasRec (nx (exec (.fwStage 4) (cmd 0x50 [] { chip with fw := { chip.fw with molt := .waiting } }))) 0x0C06).set = true := by
  decide +kernel

theorem test_FwMolt :
    let f : Firmware := { chip.fw with staged := some 1, slotB := { image := slice (zeros 16 ++ leBytes 8 9 ++ zeros 24 ++ shake256 [] 32) 0 256 } }
    let s := cmd 0x51 (leBytes 8 9) { chip with fw := f }
    let r := cmd 0x51 (leBytes 8 9) { chip with fw := { f with recovery := true } }
    let x := cmd 0x51 (leBytes 8 8) { chip with fw := f }
    let y := cmd 0x51 (leBytes 8 9) { chip with fw := { f with slotB := { image := slice (zeros 16 ++ leBytes 8 9) 0 256 } } }
    runnable 0x51 4 s = true ∧ moltCheck s 9 = none ∧ (nx (exec (.fwMolt 4) s)).fw.molt = .waiting ∧
    moltCheck r 9 = none ∧ (nx (exec (.fwMolt 4) r)).fw.ver = 9 ∧ moltCheck x 8 = some (0x0C04, 1) ∧
    (rasRec (nx (exec (.fwMolt 4) x)) 0x0C04).set = true ∧
    fiBody (stagedImage s) = true ∧ moltCheck y 9 = none ∧ fiBody (stagedImage y) = false ∧
    (rasRec (nx (exec (.fwMolt 4) y)) 0x0C01).set = true := by decide +kernel

theorem test_Selftest :
    let rq (a n us : Nat) : List Byte := zeros 2 ++ leBytes 2 a ++ leBytes 2 n ++ zeros 2 ++ leBytes 4 us ++ leBytes 4 1
    let s := cmd 0x60 (rq 2047 1 5000)
    let d := nx (exec (.selftest 4) s)
    let b := cmd 0x60 (rq 2047 1 5000) { chip with newts := [(2047, { state := .run })] }
    wf s ∧ runnable 0x60 4 s = true ∧ testWindow 0 1 = 5000 ∧ unitTestBusy s 0 2047 = false ∧ (newt d 2047).reserved = true ∧
    wf d ∧ up d = true ∧ (mslot d 4).work = .waiting ∧ (mslot d 4).scratch.length = 3 ∧
    (newt (nx (exec (.selftestDone 4 []) d)) 2047).reserved = false ∧
    (rasRec (nx (exec (.selftestDone 4 [(2047, 0)]) d)) 0x0C10).set = true ∧
    (rasRec (nx (exec (.selftest 4) (cmd 0x60 (rq 2047 2 5000)))) 0x0C0E).set = true ∧
    (rasRec (nx (exec (.selftest 4) (cmd 0x60 (rq 2047 1 4999)))) 0x0C0F).set = true ∧
    (rasRec (nx (exec (.selftest 4) b)) 0x0111).set = true ∧
    (mslot (nx (exec (.calWrite 4) (cmd 0x71 []))) 4).work = .transfer := by decide +kernel

theorem test_TransfersEnd :
    let r := held 0x70 [] .transfer [7] []
    let v := held 0x80 (leBytes 8 77 ++ zeros 12 ++ [1]) .transfer [1, 2] [3] (withJob { state := .ended })
    let l := held 0xA0 [] .transfer (zeros 64) [0, 1] { chip with log := { chip.log with snap := true } }
    let f := held 0x50 (zeros 8 ++ leBytes 8 1) .transfer [] []
    let c := held 0x71 [] .transfer [] []
    let y := held 0x10 (zeros 8 ++ leBytes 8 1) .transfer [] []
    fwRuns r = true ∧ (mslot r 4).work = .transfer ∧ slotCmd (mslot r 4) ∈ [0x50, 0x70, 0x71, 0x80] ∧
    (rasRec (nx (exec (.cxlIoTransferDone 4 false []) r)) 0x0110).set = true ∧
    memByte (nx (exec (.cxlIoTransferDone 4 true []) r)).hostMem 0 = 7 ∧
    (job (nx (exec (.cxlIoTransferDone 4 true []) v)) 3).state = .free ∧ l.log.snapEarly = none ∧
    (nx (exec (.cxlIoTransferDone 4 true []) l)).log.snap = false ∧
    (mslot (nx (exec (.cxlIoTransferDone 4 true [9]) f)) 4).work = .flash ∧ calCheck c (mslot c 4) [] = some 0x0C0D ∧
    (rasRec (nx (exec (.cxlIoTransferDone 4 true []) c)) 0x0C0D).set = true ∧ loadCheck y [1] 1 0 false = some 0x0C40 ∧
    (nx (exec (.cxlIoTransferDone 4 true [1]) y)).lay.lastErr = 0x0C40 := by decide +kernel

theorem test_FlashWritesEnd :
    let f := held 0x50 [] .flash [1] []
    let c := held 0x71 [] .flash [7] []
    let y := held 0x10 [] .flash (zeros 256) []
    fwRuns f = true ∧ (mslot f 4).work = .flash ∧ fiCheck f [1] = some 0x0C01 ∧
    (rasRec (nx (exec (.flashWriteDone 4 true) f)) 0x0C01).set = true ∧
    (nx (exec (.flashWriteDone 4 true) c)).cal.set = [7] ∧
    (nx (exec (.flashWriteDone 4 true) y)).lay.staged = some (keptFile (zeros 256) (loadCoord (mslot y 4))) ∧
    slotCmd (mslot c 4) ∈ [0x50, 0x71] ∧ slotCmd (mslot y 4) = 0x10 := by decide +kernel

theorem test_FusesAndAttestation :
    let s : State := { chip with fuse := { chip.fuse with key := [1, 0, 0, 0] } }
    let d := nx (exec (.progCustkey 0xA5) s)
    let a := nx (exec .attestGo s)
    up s = true ∧ fuseRefused s 1 0xA5 = false ∧ d.fuse.busy = some 1 ∧ fuseRefused s 1 0xA4 = true ∧
    (rasRec (nx (exec (.progCustkey 0xA4) s)) 0x0C11).set = true ∧ fuseRefused s 2 0xA5 = true ∧
    (nx (exec .fuseActionDone d)).fuse.custkey = some (leBytes 32 1) ∧ s.att.busy = false ∧ fwRuns s = true ∧
    a.att.busy = true ∧ (nx (exec (.attestDone false) a)).att.status = 0x0C17 ∧
    (nx (exec (.attestDone true) a)).att.status = 0 := by decide +kernel

theorem test_FirmwareEvents :
    let f : Firmware := { chip.fw with
      staged := some 1, moltSlot := 4, slotB := { image := slice (zeros 16 ++ leBytes 8 9) 0 256 }
      blob := zeros 10 ++ shake256 (zeros 10) 32 }
    let w : State := { cmd 0x51 [] with fw := { f with molt := .waiting } }
    let e : State := { cmd 0x51 [] with fw := { f with molt := .waiting, emerg := true } }
    let p : State := { cmd 0x51 [] with fw := { f with molt := .paused } }
    let k : Packet := { cls := 4 }
    up w = true ∧ handoverPoint w = true ∧ moltBlocked w = false ∧ majorBlocked w = false ∧
    (nx (exec .moltHandover w)).fw.molt = .paused ∧ blobTaken p = true ∧
    blobTaken { p with fw := { p.fw with blob := [] } } = false ∧ (rasRec (nx (exec .moltHandover e)) 0x0112).set = true ∧ p.fw.orphanDue = 0 ∧
    (nx (exec (.moltPauseEnd 5) p)).fw.ver = 9 ∧ (rasRec (nx (exec .moltTimeout p)) 0x0C08).set = true ∧
    (nx (exec (.watchdogExpiry 7) chip)).pins.faultN = false ∧ fwRuns p = false ∧
    (nx (exec (.mgmtInboxArrival k) p)).fw.inbox = [k] ∧ nx (exec .moltHandover chip) = chip := by decide +kernel

theorem test_FirmwarePolicies :
    let e : LogInput := { typ := 1, core := 0, id := 8, data := [5] }
    let r : LogInput := { typ := 2, core := 0, id := 576, data := [] }
    let l : State := { chip with log := { chip.log with ready := true, trmask := [(9, 1)] } }
    let d : State := { chip with therm := { chip.therm with density := [(1, 3)] } }
    let v : ShpNode := { en := true, lo := 1, hi := 9, rate := 5, port := 3, cls := 1 }
    let h : State := { chip with fw := { chip.fw with shape := true }, shp := { nodes := [(0x4000, v), (0x4001, v)] } }
    fwRuns l = true ∧ traceOn l 576 = true ∧ (nx (exec (.logEntryWrite (some e)) l)).log.head = 1 ∧
    memByte (nx (exec (.logEntryWrite (some e)) l)).lov.mem (logBase + 24) = 5 ∧
    (nx (exec (.logEntryWrite (some e)) chip)).log.queued.length = 1 ∧ nx (exec (.logEntryWrite (some r)) chip) = chip ∧
    (nx (exec (.logEntryWrite none) (nx (exec (.logEntryWrite (some e)) chip)))).log.head = 0 ∧
    (nx (exec (.logEntryWrite (some e)) { l with log := { l.log with snap := true } })).log.staging.length = 1 ∧
    traceOn l r.id = true ∧ traceOn chip r.id = false ∧
    (nx (exec .powerTrace l)).log.head = 1 ∧ (nx (exec .densityPoll d)).therm.density = [] ∧
    (nx (exec .densityPoll d)).hif.held.length = 1 ∧ wf h ∧ (snode (nx (exec .adaptiveShaping h)) 0x4000).rate ≤ 9 ∧
    nx (exec .adaptiveShaping chip) = chip := by decide +kernel

theorem test_RegisterWrites :
    up chip = true ∧ (rasRec (nx (exec (.registerWrite 0x300300 0 4) chip)) 0x0101).set = true ∧
    nx (exec (.registerWrite 0x10 5 8) chip) = chip ∧
    (nx (exec (.registerWrite 0x100008 1 8) { chip with sch := { chip.sch with croak := 9 } })).hif.lastBeat = 9 ∧
    bitOf (1 : Word).toNat 0 = true ∧ (nx (exec (.monitorKeyWrite 3 7) chip)).mon.key = [0, 0, 0, 7] ∧
    (nx (exec (.monitorLockWrite 4) { chip with mon := { chip.mon with unlocked := true } })).mon.unlocked = false ∧
    bitOf (0x10000000402 : Word).toNat 40 = true ∧ definedCode 0x0402 = true ∧
    (rasRec (nx (exec (.rasInject 0x10000000402) chip)) 0x0402).inj = true ∧
    (rasRec (nx (exec (.rasInject 0x11300000402) chip)) 0x0101).set = true ∧ wf chip ∧
    (rasRec (nx (exec (.rasRecordClear 0x402) { raise { code := 0x0402 } chip with
      sch := { chip.sch with croak := 1 } })) 0x0402).set = false := by decide +kernel

/-- A record raised at croak counts 0 and 1 and cleared at 1 is set afresh by the occurrence of that cycle alone; one raised at 1 only stays. -/
theorem test_RecordClearedInItsCycle :
    let o : Occ := { code := 0x0402, kind := 9, unit := 5 }
    let at1 (s : State) : State := { s with sch := { s.sch with croak := 1 } }
    let a := raise { o with unit := 7 } (at1 (raise o chip))
    let b := raise o (at1 chip)
    let t := nx (exec (.rasRecordClear 0x402) a)
    wf a ∧ (rasRec a 0x402).count = 2 ∧ (rasRec a 0x402).cyc.map (·.tick) = some (croak a) ∧ (rasRec t 0x402).count = 1 ∧
    (rasRec t 0x402).rsrc = BitVec.ofNat 64 (9 + 256 * 7) ∧ (rasRec t 0x402).rtime = 1 ∧ nx (exec (.rasRecordClear 0x402) b) = b := by
  decide +kernel

/-- GLB_UNITMAP_SEL keeps seven bits; a 32-bit write to the upper half of a vector's control word keeps MASK, its bit 32. -/
theorem test_PlainRegisters :
    let t := nx (exec (.registerWrite 0x100 0xFF 8) chip)
    let u := nx (exec (.registerWrite 0x11000C 0xFFFFFFFF 4) chip)
    up chip = true ∧ regRead t 0x100 = 0x7F ∧ wf chip ∧ (tget msixReset chip.hif.msix 0).length = 2 ∧ tget false chip.hif.pba 0 = false ∧
    regRead u 0x110008 = regRead chip 0x110008 % 2 ^ 32 + 2 ^ 32 ∧ regRead u 0x110000 = regRead chip 0x110000 := by decide +kernel

theorem test_PoolCommands :
    let b : Buf := { addr := 0x200000000, owner := 63, units := 1, half := 0 }
    let s : State := { chip with pool := { chip.pool with size := [(0, 1)], list := [(0, 4)], front := [(0, 1)], bufs := [b] } }
    let t := nx (exec (.poolFree 0x200000000) s)
    let w : Word := BitVec.ofNat 64 (8 * 2 ^ 18 + 24576)
    wf s ∧ up s = true ∧ s.pool.bufs.find? (fun c => decide (c.addr = bits (0x200000000 : Word).toNat 37 0)) = some b ∧
    halfList s 0 = 2048 ∧ t.pool.bufs = [] ∧ lovRead t 0x200000000 8 = leBytes 8 0x200000100 ∧
    (rasRec (nx (exec (.poolFree 0) s)) 0x0303).set = true ∧ poolArea chip = 24576 ∧
    (nx (exec (.poolCarve 1 6 w) chip)).pool.size = [(13, 24576)] ∧
    (rasRec (nx (exec (.poolCarve 1 6 (w + 1)) chip)) 0x0305).set = true ∧ nx (exec (.listRebuildDone 0 0) s) = s ∧
    tget [] (nx (exec (.listRebuildDone 0 0) { t with pool := { t.pool with rebuild := [(0, true)] } })).pool.order 0 = [0x200000000] := by
  decide +kernel

/-- Channel 2 with a value, on the chip. -/
def withChan (c : DmaCh) (s : State := chip) : State := { s with dma := { chans := [(2, c)] } }

theorem test_StoppedChannelLeaves :
    let b : Buf := { addr := 0x200000000, owner := 2, units := 1, half := 0 }
    let s : State := withChan { state := .error, count := 1, code := 0x0203, alloc := 0x200000000 } { chip with pool := { chip.pool with bufs := [b] } }
    let z := withChan { state := .busstop }
    let e : State := { s with dma := { s.dma with buserr := true } }
    let l : BLine := { mask := [0, 2050], arrived := [2050], bound := some 5 }
    let o : Sync := { objs := [(5, { kind := 2, bl := 1 })], lines := [(1, l)] }
    let w := withChan { state := .error, count := 1, arrived := true } { chip with sync := o }
    let d := slice (leBytes 2 6 ++ leBytes 2 8 ++ zeros 20 ++ leBytes 2 5) 0 64
    wf s ∧ up s = true ∧ (chan s 2).state = .error ∧ nx (exec (.resume 2) e) = e ∧ (chan (nx (exec (.abandon 2) z)) 2).state = .idle ∧
    (chan (nx (exec (.resume 2) s)) 2).state = .run ∧ (chan (nx (exec (.abandon 2) s)) 2).next = 1 ∧
    (nx (exec (.abandon 2) s)).pool.bufs = [] ∧ wf w ∧ dOp d = 6 ∧ descOk d = true ∧
    (chan (nx (exec (.dmaBarr 2 d) (nx (exec (.resume 2) w)))) 2).state = .wait := by decide +kernel

theorem test_DmaRegisters :
    let s := withChan { count := 8, log2 := 3, state := .wait }
    let o : State := { s with hif := { s.hif with state := .orphan } }
    up chip = true ∧ (chan (nx (exec (.dmaRingWrite 2 0x43) chip)) 2).base = 1 ∧ nx (exec (.dmaRingWrite 2 0x42) chip) = chip ∧
    nx (exec (.dmaRingWrite 2 0x43) s) = s ∧ nx (exec (.dmaDoorbell 2 1) o) = o ∧
    (rasRec (nx (exec (.dmaDoorbell 2 1) s)) 0x0206).set = true ∧ (chan (nx (exec (.dmaDoorbell 2 8) chip)) 2).count = 8 ∧
    wf s ∧ (chan (nx (exec (.dmaBusError 7) s)) 2).state = .busstop ∧ (nx (exec (.dmaBusError 7) s)).dma.busaddr = 7 := by
  decide +kernel

/-- A descriptor: OP and DFLAGS, LEN, HADDR, DADDR. -/
def desc (op fl len h a : Nat) : List Byte :=
  slice (leBytes 1 op ++ leBytes 1 fl ++ zeros 2 ++ leBytes 4 len ++ leBytes 8 h ++ leBytes 8 a ++ zeros 8 ++ leBytes 8 0x0807060504030201) 0 64

theorem test_DmaDescriptors :
    let s := withChan { state := .run, count := 1 }
    let n := slice (desc 0 0 0 0 0) 0 32 ++ zeros 32
    let h := slice (desc 1 0 2 64 dev) 0 32 ++ zeros 32
    let f := desc 3 0 3 0 (dev + 7)
    let g := slice (desc 2 0 2 64 dev) 0 32 ++ zeros 32
    let x := nx (exec (.dmaH2d 2 h [5, 6]) s)
    wf s ∧ chanTakes 2 s = true ∧ descCheck 2 n s = none ∧ (chan (nx (exec (.dmaNop 2 n) s)) 2).state = .idle ∧
    descCheck 2 h s = none ∧ memByte x.lov.mem (dev + 1) = 6 ∧ (chan x 2).cur = some h ∧ (chan x 2).readback = true ∧
    poisoned x ((dDaddr h + dLen h - 1) / 64 * 64) 64 = false ∧ (chan (nx (exec (.dmaCompletion 2) x)) 2).bytes = 2 ∧
    descCheck 2 f s = none ∧ memByte (nx (exec (.dmaFill 2 f) s)).lov.mem (dev + 8) = 1 ∧ descCheck 2 g s = none ∧
    chanWaits 2 g { s with lov := x.lov } = false ∧ lovRead { s with lov := x.lov } dev 2 = [5, 6] := by decide +kernel

/-- A plan of PERIOD 24 with one window: channel 2, pseudo-channel 0 of stack 1, pads 3 to 5. -/
def windowPlan : List Byte :=
  leBytes 2 24 ++ leBytes 4 0 ++ leBytes 4 1 ++ zeros 6 ++ leBytes 2 0 ++ [1, 3] ++ leBytes 4 1 ++ leBytes 2 3 ++ leBytes 2 3 ++ zeros 4

theorem test_DmaWindow :
    let s (pad : Nat) : State := { withChan { state := .run, count := 1 } with
      lov := { chip.lov with plan := windowPlan }, sch := { chip.sch with croak := 128 * pad } }
    let h := slice (desc 1 0 2 64 dev) 0 32 ++ zeros 32
    let x := nx (exec (.dmaH2d 2 h [5, 6]) (s 3))
    let y : State := { x with sch := { x.sch with croak := 128 * 3 + 256 } }
    wf (s 3) ∧ descCheck 2 h (s 3) = none ∧ chanTakes 2 (s 2) = true ∧ chanWaits 2 h (s 2) = true ∧
    nx (exec (.dmaH2d 2 h [5, 6]) (s 2)) = s 2 ∧ windowWaits 2 dev 2 (s 3) = false ∧ (chan x 2).due = 128 * 3 + 256 ∧
    nx (exec (.dmaCompletion 2) x) = x ∧ (chan (nx (exec (.dmaCompletion 2) y)) 2).bytes = 2 := by decide +kernel

theorem test_DmaSigdone :
    let g := slice (desc 2 4 2 64 dev) 0 24 ++ leBytes 2 5 ++ leBytes 2 1 ++ zeros 36
    let s (k : Nat) : State := { withChan { state := .run, count := 1, cur := some g, readback := true } with
      sync := { objs := [(5, { kind := k, depth := 4 })] } }
    dSig g = true ∧ dFree g = false ∧ (signalLocal (dObj g) (dCount g) (agentDma 2) 0 (s 1)).2 = none ∧
    (obj (nx (exec (.dmaCompletion 2) (s 1))) 5).prod = 1 ∧ (chan (nx (exec (.dmaCompletion 2) (s 1))) 2).state = .idle ∧
    (signalLocal (dObj g) (dCount g) (agentDma 2) 0 (s 2)).2 = some 0x0403 ∧
    (chan (nx (exec (.dmaCompletion 2) (s 2))) 2).state = .error := by decide +kernel

theorem test_DmaAllocAndErrors :
    let b : Buf := { addr := 0x200000000, owner := 2, units := 1, half := 0 }
    let s := withChan { state := .run, count := 2 } { chip with pool := { chip.pool with size := [(0, 1)], limit := [(2, 2)] } }
    let a := slice (desc 1 1 2 64 0) 0 32 ++ zeros 32
    let g := slice (desc 2 2 2 64 0x200000000) 0 32 ++ zeros 32
    let x := slice (desc 2 0 2 64 0x1FFFFFFFF) 0 32 ++ zeros 32
    let r := withChan { state := .run, count := 2, cur := some g, readback := true } { chip with pool := { chip.pool with bufs := [b] } }
    descCheck 2 a s = none ∧ dAlloc a = true ∧ (chan s 2).alloc = 0 ∧
    (poolTake 2 2 0 (setChan 2 { chan s 2 with cur := some a, readback := false } s)).2 = .inl 0x200000000 ∧
    (chan (nx (exec (.dmaH2d 2 a [5, 6]) s)) 2).alloc = 0x200000000 ∧ descCheck 2 x s = some 0x0204 ∧ s.hif.state ≠ .orphan ∧
    (chan (nx (exec (.dmaD2h 2 x) s)) 2).state = .error ∧ descCheck 2 (desc 7 0 0 0 0) s = some 0x0203 ∧
    (chan (nx (exec (.dmaNop 2 (desc 7 0 0 0 0)) s)) 2).code = 0x0203 ∧ dFree g = true ∧ dSig g = false ∧
    (nx (exec (.dmaCompletion 2) r)).pool.bufs = [] := by decide +kernel

/-- Object 5 with a value, on the chip. -/
def withObj (o : SyncObj) (s : State := chip) : State := { s with sync := { s.sync with objs := [(5, o)] } }

theorem test_SyncObjects :
    let c : Word := BitVec.ofNat 64 (4 * 2 ^ 32 + 1)
    let s := withObj { kind := 1, depth := 4 }
    let w := withObj { kind := 1, depth := 4, waiters := [{ agent := 2047, d := 3 }] }
    let q := withObj { kind := 1, depth := 4, quar := true }
    wf chip ∧ cfgValid chip 5 c.toNat = true ∧ (obj (nx (exec (.syncCreate 5 c) chip)) 5).depth = 4 ∧
    cfgValid chip 5 1 = false ∧ (rasRec (nx (exec (.syncCreate 5 1) chip)) 0x0405).set = true ∧ wf q ∧
    (obj (nx (exec (.syncDestroy 5 0) q)) 5).kind = 0 ∧ wf w ∧ (rasRec (nx (exec (.syncDestroy 5 0) w)) 0x0405).set = true ∧
    (rasRec (nx (exec (.syncCreate 5 c) s)) 0x0405).set = true ∧ (obj (nx (exec (.syncPost 5 4) s)) 5).prod = 4 ∧
    (rasRec (nx (exec (.syncPost 5 5) s)) 0x0402).set = true ∧ (rasRec (nx (exec (.syncPost 5 0) s)) 0x0403).set = true ∧
    (obj (nx (exec (.syncPost 5 2) w)) 5).prod = 2 ∧ (newt (nx (exec (.syncWaitTimeout 5 2047) w)) 2047).state = .error ∧
    nx (exec (.syncWaitTimeout 5 2046) w) = w := by decide +kernel

theorem test_RemoteSignals :
    let s := withObj { kind := 1, counted := true, peer := 9, depth := 4 }
    let r := withObj { kind := 1, counted := true, depth := 4, cnt := 3, holdq := [{ d := 2, ann := 4, agent := 0x4000 }] }
    let o (a : Nat) : State := withObj { kind := 1, counted := true, depth := 4, cnt := 4, prod := 3, holdq := [{ d := 2, ann := 4, agent := a, pc := 7 }] }
    let bad (a : Nat) : State := nx (exec (.heldSignalApply 5) (o a))
    let x := nx (exec (.syncTaggedWrite 0 5 9 dev [7]) s)
    wf s ∧ up s = true ∧ (obj x 5).cnt = 1 ∧ memByte x.lov.mem dev = 7 ∧
    (rasRec (nx (exec (.syncTaggedWrite 0 5 8 dev [7]) s)) 0x0404).set = true ∧ wf r ∧ nx (exec (.heldSignalApply 5) r) = r ∧
    (obj (nx (exec (.heldSignalApply 5) (withObj { obj r 5 with cnt := 4 }))) 5).prod = 2 ∧
    wf (o 9) ∧ (obj (o 9) 5).depth < avail (obj (o 9) 5) + 2 ∧ (rasRec (bad 9) 0x0402).set = true ∧ (newt (bad 9) 9).errPc = 7 ∧
    (chan (bad 0x2002) 2).code = 0x0402 ∧ (rasRec (bad 0x4000) 0x0402).set = true ∧ (obj (bad 0x4000) 5).prod = 3 ∧
    nx (exec (.heldSignalApply 5) s) = s := by decide +kernel

/-- Newt 9 at the head of a program of one 4 KiB unit, with pond bytes at 4096. -/
def prog (w : Nat) (v : Newt := {}) (data : List Byte := []) (s : State := chip) : State :=
  { s with newts := [(9, { v with state := .run, progSize := 1, pond := memWrite (memWrite [] 0 (leBytes 8 w)) 4096 data })] }

/-- The word of an opcode with lower bits. -/
def iw (op low : Nat) : Nat := op * 2 ^ 58 + low
/-- TMO 1 in units of 1 µs. -/
def tmo1 : Nat := 8 * 2 ^ 48

theorem test_NewtControl :
    let e := prog (iw 1 0)
    let b := prog (iw 1 0) { inflight := [{ (default : Inflight) with pc := 7 }] }
    let l := prog (iw 2 (511 * 2 ^ 32 + 3))
    let w := prog (iw 8 (tmo1 + 2 ^ 16 + 5)) { lc := [(5, 1)] }
    let x := prog (iw 8 (tmo1 + 2 ^ 16 + 5))
    let h := prog (iw 8 (tmo1 + 2 ^ 16 + 5)) { lc := [(5, 1)], role := .scheduled }
    wf (prog 0) ∧ issuing (newt (prog 0) 9) = true ∧ headWord (prog 0) 9 = 0 ∧ (nextPc 5 1 []).2 < 512 ∧
    (newt (nx (exec (.nop 9) (prog 0))) 9).pc = 1 ∧ (newt (nx (exec (.nop 9) (prog 1))) 9).errCode = 0x0905 ∧
    iOpc (headWord e 9) = 1 ∧ allDone (newt e 9) = true ∧ (newt (nx (exec (.endProgram 9) e)) 9).state = .done ∧
    (newt (nx (exec (.endProgram 9) b)) 9).stall = 6 ∧ (newt (nx (exec (.loop 9) l)) 9).loops.length = 1 ∧
    iLen (headWord l 9) = 511 ∧ (tmoTicks (iTmo (headWord w 9))).isSome = true ∧ (newt (nx (exec (.wland 9) w)) 9).lc = [] ∧
    (newt (nx (exec (.wland 9) x)) 9).stall = 1 ∧ (nx (exec (.wland 9) h)).sch.waits = [(0, 1)] := by decide +kernel

theorem test_BoundaryAndCommit :
    let f := prog (iw 0xD 0)
    let c (e : Nat) : State := prog (iw 0xD 0) { role := .scheduled }
      [] { chip with sch := { chip.sch with epoch := e }, lay := { chip.lay with padgrp := zeros 8 ++ leBytes 4 3 } }
    let k : Coll := { chips := [1, 2] }
    let m := prog (iw 0xC 7) {} [] { chip with colls := [(7, k)] }
    wf (c 1) ∧ iOpc (headWord f 9) = 0xD ∧ (newt (nx (exec (.tbnd 9) f)) 9).pc = 1 ∧ pgEpochs (c 1) = 3 ∧
    (newt (nx (exec (.tbnd 9) (c 1))) 9).epochs = 1 ∧ (newt (nx (exec (.tbnd 9) (c 0))) 9).stall = 7 ∧ wf m ∧
    unreported m 7 = true ∧ (coll m 7).commitChip = m.rte.coord ∧ (coll (nx (exec (.cmt 9) m)) 7).state = .committed ∧
    (nx (exec (.cmt 9) m)).out.length = 2 ∧ drains m 4 = false ∧
    (nx (exec (.cmt 9) { m with rte := { m.rte with drain := { classes := 8 } } })).rte.mgmtHeld.length = 2 ∧ (newt (nx (exec (.cmt 9) (prog (iw 0xC 7)))) 9).pc = 1 := by decide +kernel

theorem test_NewtWaits :
    let ww := iw 9 (tmo1 + 2 * 2 ^ 16 + 5)
    let a := withObj { kind := 1, depth := 4, prod := 2 }
    let b := withObj { kind := 1, depth := 4, prod := 1 }
    let s := prog ww {} [] a
    let t := nx (exec (.wso 9) (prog ww {} [] b))
    let g := iw 0xA (2 * 2 ^ 16 + 5)
    let i := prog g { inflight := [{ (default : Inflight) with pc := 7 }] } [] b
    wf s ∧ (obj (nx (exec (.wso 9) s)) 5).cons = 2 ∧ (newt (nx (exec (.wso 9) s)) 9).pc = 1 ∧ (newt t 9).registered = true ∧
    (newt t 9).stall = 2 ∧ (newt (nx (exec (.wso 9) (prog ww { waitPassed := true }))) 9).pc = 1 ∧
    (newt (nx (exec (.wso 9) (prog ww { registered := true }))) 9).stall = 2 ∧ wf (prog g {} [] b) ∧
    (obj (nx (exec (.sig 9) (prog g {} [] b))) 5).prod = 3 ∧ (newt (nx (exec (.sig 9) i)) 9).inflight.length = 2 ∧
    ((newt (nx (exec (.sig 9) i)) 9).inflight.getLast?.map (·.sigObj)) = some (some (5, 2)) := by decide +kernel

theorem test_NewtBarrier :
    let ww := iw 0xB (tmo1 + 5)
    let c (l : BLine) : State := prog ww {} [] { chip with sync := { objs := [(5, { kind := 2, bl := 1 })], lines := [(1, l)] } }
    let s := c { mask := [0, 9], bound := some 5 }
    let t := c { mask := [0, 9], arrived := [0], bound := some 5 }
    wf s ∧ 0 ∈ (bline s 1).mask ∧ 0 ∉ (bline s 1).arrived ∧ (newt (nx (exec (.barr 9) s)) 9).stall = 2 ∧
    (bline (nx (exec (.barr 9) s)) 1).arrived = [9] ∧ wf t ∧ (bline (nx (exec (.barr 9) t)) 1).out = true ∧
    (obj (nx (exec (.barr 9) t)) 5).prod = 1 ∧ (newt (nx (exec (.barr 9) t)) 9).pc = 1 := by decide +kernel

theorem test_NewtBarrierKinds :
    let ww := iw 0xB (tmo1 + 5)
    let c (l : BLine) (v : Newt := {}) : State := prog ww v [] { chip with
      sync := { objs := [(5, { kind := 2, bl := 1 })], lines := [(1, l)] }
      colls := [(7, { posted := true, desc := leBytes 3 7 ++ [7], group := leBytes 8 0 ++ leBytes 4 1 })] }
    let a := c { mask := [0, 9], arrived := [9], bound := some 5 }
    let p := c { mask := [0, 9], arrived := [0], bound := some 5 } { colls := [7], role := .scheduled }
    let t := nx (exec (.barr 9) a)
    wf a ∧ 9 ∈ (bline a 1).arrived ∧ (bline t 1).arrived = [] ∧ (bline t 1).out = false ∧ (newt t 9).pc = 1 ∧ wf p ∧
    (newt p 9).colls = [7] ∧ cdOp (coll p 7).desc = 7 ∧ (coll (nx (exec (.barr 9) p)) 7).lineDone = true ∧
    (nx (exec (.barr 9) p)).sch.waits = [(0, 1)] := by decide +kernel

/-- An operand block of a COPY of n bytes from 8192 to dst. -/
def copyBlock (n dst : Nat) : List Byte := slice (leBytes 4 8192 ++ leBytes 4 n ++ leBytes 4 dst) 0 64

theorem test_WorkIssues :
    let w := iw 0x11 (64 * 2 ^ 21)
    let g : State := prog w { inflight := [{ (default : Inflight) with groups := [.moveUnit], occupancy := 1 }] } (copyBlock 0 12288)
    let v (i : Inflight) : Newt := { inflight := [i] }
    let s := prog w {} (copyBlock 2 12288)
    let d : Inflight := default
    let t := nx (exec (.copy 9) s)
    wf s ∧ iOpc (headWord s 9) = 0x11 ∧ obAddr (newt s 9) w = 4096 ∧ fmtAOk w = true ∧
    (newt t 9).inflight.length = 1 ∧ (newt t 9).pc = 1 ∧ fmtAOk (w + 1) = false ∧
    (newt (nx (exec (.copy 9) (prog (w + 1)))) 9).errCode = 0x0905 ∧
    (newt (nx (exec (.copy 9) (prog w {} (copyBlock 0 12288)))) 9).errCode = 0x0906 ∧
    (newt (nx (exec (.copy 9) (prog w {} (copyBlock 2 64)))) 9).errCode = 0x0907 ∧
    (newt (nx (exec (.copy 9) (prog w (v { d with writes := [(4096, 1)] }) (copyBlock 2 12288)))) 9).stall = 5 ∧
    unitBusy g (newt g 9) .moveUnit = true ∧ (newt (nx (exec (.copy 9) g)) 9).stall = 4 ∧ (newt (nx (exec (.copy 9) g)) 9).err = false ∧
    (newt (nx (exec (.copy 9) (prog w (v { d with groups := [.moveUnit], occupancy := 1 }) (copyBlock 2 12288)))) 9).stall = 4 ∧
    (newt (nx (exec (.copy 9) (prog w (v { d with reads := [(12288, 1)] }) (copyBlock 2 12288)))) 9).stall = 5 := by
  decide +kernel

/-- An operand block of a RED of one slot of n binary32 elements at 8192, to 12288, with the ASB at 16384. -/
def redBlock (n : Nat) : List Byte :=
  leBytes 2 1 ++ leBytes 2 n ++ leBytes 4 12288 ++ leBytes 4 16384 ++ leBytes 4 addrNone ++ zeros 48 ++ leBytes 8 (8192 + 8 * 2 ^ 19)

/-- Operand blocks of a CTR and an EPI of one binary32 element, with the epilogue block of the second at 12288. -/
def ctrBlock : List Byte :=
  leBytes 4 8192 ++ leBytes 4 addrNone ++ leBytes 4 12288 ++ leBytes 4 addrNone ++ [8, 8] ++ leBytes 2 1 ++ leBytes 4 1 ++
  leBytes 4 1 ++ leBytes 4 16384 ++ leBytes 4 20480 ++ leBytes 4 addrNone ++ zeros 24
def epiBlk : List Byte :=
  leBytes 4 8192 ++ [8, 0] ++ leBytes 2 1 ++ leBytes 4 16384 ++ leBytes 4 20480 ++ leBytes 4 12288 ++ zeros 44 ++ zeros 8128 ++
  leBytes 16 (2 ^ 128 - 1) ++ leBytes 4 addrNone ++ zeros 12

/-- An operand block of a RED of one slot that is a partial at 8192, whose block has escaped. -/
def escBlock : List Byte :=
  (redBlock 1).take 64 ++ leBytes 8 (8192 + 8 * 2 ^ 19 + 2 ^ 27) ++ zeros 4024 ++ leBytes 8 (2 ^ 16)

theorem test_ArithmeticAndSendIssue :
    let r := prog (iw 0x18 (8 * 2 ^ 34 + 64 * 2 ^ 21)) {} (redBlock 1)
    let c := prog (iw 0x19 (8 * 2 ^ 34 + 64 * 2 ^ 21)) {} ctrBlock
    let e := prog (iw 0x1A (8 * 2 ^ 34 + 64 * 2 ^ 21)) {} epiBlk
    let x := prog (iw 0x18 (8 * 2 ^ 34 + 64 * 2 ^ 21)) {} escBlock
    let q : Newt := { streams := [(3, zeros 16)] }
    let p := prog (iw 0x10 (64 * 2 ^ 21)) q (slice (leBytes 4 8192 ++ leBytes 4 2 ++ leBytes 4 3) 0 64)
    wf r ∧ (newt (nx (exec (.red 9) r)) 9).inflight.length = 1 ∧
    ((newt (nx (exec (.red 9) r)) 9).inflight.head?.map (·.writes)) = some [(12288, 64), (16384, 40)] ∧
    (newt (nx (exec (.ctr 9) (prog (iw 0x19 (64 * 2 ^ 21))))) 9).errCode = 0x0907 ∧
    (newt (nx (exec (.epi 9) (prog (iw 0x1A (64 * 2 ^ 21))))) 9).errCode = 0x0907 ∧
    ((newt (nx (exec (.ctr 9) c)) 9).inflight.head?.map (·.writes)) = some [(16384, 64), (20480, 40)] ∧
    ((newt (nx (exec (.epi 9) e)) 9).inflight.head?.map (·.writes)) = some [(16384, 64), (20480, 40)] ∧
    (newt (nx (exec (.red 9) x)) 9).stall = 3 ∧
    ((newt (nx (exec (.send 9) p)) 9).inflight.head?.map (·.packets.length)) = some 1 := by decide +kernel

/-- A state at a croak count. -/
def atCroak (k : Nat) (s : State) : State := { s with sch := { s.sch with croak := k } }

theorem test_MovesComplete :
    let s := prog (iw 0x11 (64 * 2 ^ 21)) {} (copyBlock 2 12288 ++ zeros 4032 ++ [5, 6])
    let i := nx (exec (.copy 9) s)
    let u := nx (exec (.newtInstructionComplete 9 0) (atCroak 5 i))
    let x := 63 * 2 ^ 52 + 2 ^ 45
    let c := prog (iw 0x20 x) { wr := [(63, { nan := true })], held := true }
    let v := prog (iw 0x21 (x + 128 * 2 ^ 31)) { wr := [(63, { w := 5 })] }
    let m := nx (exec (.newtInstructionComplete 9 0) (atCroak 5 (nx (exec (.wsv 9) v))))
    let l := prog (iw 0x22 (x + 128 * 2 ^ 31)) {} [7]
    wf s ∧ nx (exec (.newtInstructionComplete 9 0) (atCroak 4 i)) = atCroak 4 i ∧ memByte (newt u 9).pond 12289 = 6 ∧ (newt u 9).inflight = [] ∧ fmtXOk (headWord c 9) = true ∧
    (newt (nx (exec (.wclr 9) c)) 9).wr = [] ∧ (newt (nx (exec (.wclr 9) c)) 9).held = true ∧
    inGeneral (newt v 9) (iAddr (headWord v 9), 96) = true ∧ memByte (newt m 9).pond 4096 = 5 ∧
    (newt (nx (exec (.wld 9) l)) 9).held = true ∧ (tget {} (newt (nx (exec (.wld 9) l)) 9).wr 63).w = 7 := by decide +kernel

theorem test_NewtLandings :
    let t : CollTag := { coll := 7, kind := 0, tile := 0, rank := 0, offset := 0, stage := 0, last := false }
    let c : LandCell := { addr := 4096, lc := 5, tag := t, data := [1, 2] }
    let b : LandCell := { addr := 0, lc := 5, tag := t, data := [1, 2] }
    let s := prog 0 {} [] { chip with colls := [(7, { commitChip := 2 })] }
    let d : State := { s with colls := [(7, { state := .aborted })] }
    let x := nx (exec (.cellLanding 9 c) s)
    let f := prog 0 { lc := [(5, 0xFFFFFFFF)] }
    let y : State := { x with colls := [(7, { commitChip := 0 })] }
    let z : State := { x with colls := [(7, { state := .committed })] }
    let n : LandCell := { addr := 4608, lc := 5, tag := { t with kind := 3 }, data := [1, 2] }
    let w : LandCell := { c with addr := 4096 + 255 }
    let e : EscapeRec := { coll := 7, tile := 0, rank := 0, block := 0, wide := false, data := [1] }
    wf s ∧ collDead s 7 = false ∧ landBad (newt s 9) (4096, 2) = false ∧ memByte (newt x 9).pond 4097 = 2 ∧
    (newt x 9).lc = [(5, 1)] ∧ (rasRec (nx (exec (.cellLanding 9 c) x)) 0x0A08).set = true ∧
    (nx (exec (.cellLanding 9 c) x)).out.length = 1 ∧ (nx (exec (.cellLanding 9 w) x)).newts = x.newts ∧
    (coll (nx (exec (.cellLanding 9 c) y)) 7).state = .aborting ∧ (nx (exec (.cellLanding 9 c) z)).colls = z.colls ∧
    (newt (nx (exec (.cellLanding 9 n) x)) 9).arrivals.length = 1 ∧
    (newt (nx (exec (.cellLanding 9 b) s)) 9).errCode = 0x0908 ∧ (newt (nx (exec (.cellLanding 9 c) f)) 9).errCode = 0x0908 ∧
    collDead d 7 = true ∧ (nx (exec (.cellLanding 9 c) d)).newts = d.newts ∧
    (newt (nx (exec (.asbPacketMerge 9 c) s)) 9).lc = [(5, 1)] ∧ memByte (newt (nx (exec (.asbPacketMerge 9 c) s)) 9).pond 4096 = 1 ∧
    (newt (nx (exec (.escapeRecordLand 9 e) s)) 9).escapes.length = 1 ∧ wf x := by decide +kernel

theorem test_InstructionCompletes :
    let d : Inflight := default
    let i : Inflight := { d with land := [(4096, [5])] }
    let j : Inflight := { d with asb := some (8192, leBytes 40 1), coll := 7 }
    let a := nx (exec (.newtInstructionComplete 9 0) (prog 0 { inflight := [i] }))
    let b := nx (exec (.newtInstructionComplete 9 0) (prog 0 { inflight := [j] }))
    wf (prog 0 { inflight := [i] }) ∧ memByte (newt a 9).pond 4096 = 5 ∧ (newt a 9).inflight = [] ∧
    memByte (newt b 9).pond 8192 = 1 ∧ (newt b 9).asbOf = [(7, 8192)] := by decide +kernel

theorem test_NewtStops :
    let s := prog 0
    let t := newtError 9 0x0905 3 0 true s
    let w : State := { s with newts := [(9, { newt (prog (iw 8 5)) 9 with state := .stall, stall := 1 })] }
    let p := prog (iw 0xD 0) { pausePend := true }
    let i : State := { chip with newts := [(9, { role := .scheduled })], sch := { chip.sch with job := some 3 } }
    let q (pc : Nat) : Newt := newt (newtError 9 0x0906 pc 0 true t) 9
    let a := prog 0 { inflight := [default], colls := [7] }
    wf s ∧ definedCode 0x0905 = true ∧ (newt t 9).errPc = 3 ∧ (newt (newtError 9 0x0906 4 0 true t) 9).more = 1 ∧
    (newt (nx (exec (.wlandTimeout 9) w)) 9).errCode = 0x090C ∧ (newt (nx (exec (.newtPause 9) p)) 9).state = .paused ∧
    (newt (nx (exec (.newtAbort 9 7) (prog 0 { colls := [7] }))) 9).aborted = true ∧
    (newt (nx (exec (.newtAbort 9 7) a)) 9).abortPend = true ∧ (q 2).errPc = 2 ∧ (q 3).errPc = 3 ∧ (q 2).more = 1 ∧
    (newt (nx (exec (.newtAbort 9 7) i)) 9).state = .done ∧ (newt (nx (exec (.newtAbort 9 7) t)) 9).aborted = true ∧ (newt chip 9).state = .idle ∧
    nx (exec (.newtAbort 9 7) chip) = chip := by decide +kernel

theorem test_SumsOrderIndependent :
    let x : Val := .fin false 3 0
    let y : Val := .fin true 1 (-4)
    let b := accBase false
    let f := partialBlock b 2 (List.replicate 32 (accAdd b {} x))
    [x, y].Perm [y, x] ∧ accAdd b (accAdd b {} x) y = accAdd b (accAdd b {} y) x ∧ f.2 = false ∧
    (accAdd b {} x).w.natAbs < 2 ^ (2 * b) ∧ partialAdd b 2 f.1 0 {} 31 = accAdd b {} x := by decide +kernel

theorem test_DmaSyncDescriptors :
    let sy (op n : Nat) : List Byte := slice (leBytes 2 op ++ leBytes 2 (if op = 5 then 0 else 8) ++ zeros 20 ++ leBytes 2 5 ++ leBytes 2 n) 0 64
    let c (p : Nat) : State := withChan { state := .run, count := 1 } (withObj { kind := 1, depth := 4, prod := p })
    let b (arr : List Nat) : State := withChan { state := .run, count := 1 } { withObj { kind := 2, bl := 1 } with
      sync := { objs := [(5, { kind := 2, bl := 1 })], lines := [(1, { mask := [0, 2050], arrived := arr, bound := some 5 })] } }
    wf (c 2) ∧ chanTakes 2 (c 2) = true ∧ descCheck 2 (sy 4 2) (c 2) = none ∧ dOp (sy 4 2) = 4 ∧ dCount (sy 4 2) = 2 ∧
    (obj (nx (exec (.dmaWait 2 (sy 4 2)) (c 2))) 5).cons = 2 ∧ (chan (nx (exec (.dmaWait 2 (sy 4 2)) (c 2))) 2).readback = true ∧
    (chan (nx (exec (.dmaWait 2 (sy 4 2)) (c 1))) 2).state = .wait ∧ descCheck 2 (sy 5 2) (c 2) = none ∧
    (obj (nx (exec (.dmaSig 2 (sy 5 2)) (c 2))) 5).prod = 4 ∧ wf (b []) ∧ descCheck 2 (sy 6 0) (b []) = none ∧
    (chan (nx (exec (.dmaBarr 2 (sy 6 0)) (b []))) 2).state = .wait ∧
    (bline (nx (exec (.dmaBarr 2 (sy 6 0)) (b [0]))) 1).out = true ∧
    (bline (nx (exec (.dmaBarr 2 (sy 6 0)) (b [2050]))) 1).arrived = [] ∧
    (chan (nx (exec (.dmaBarr 2 (sy 6 0)) (b [2050]))) 2).readback = true := by decide +kernel

/-- Collective 7 with a value, on the chip. -/
def withColl (v : Coll) (s : State := chip) : State := { s with colls := [(7, v)] }

theorem test_AbortsAndTimeouts :
    let p : FaultPlace := { fchip := 1, funit := 2, fkind := 3 }
    let m := withColl { started := true, chips := [1], parts := [9] } { chip with newts := [(9, { state := .run })] }
    let f := withColl { started := true, commitChip := 1 }
    let d := withColl { started := true, state := .committed }
    let t := { m with jobs := [(0, { state := .running })] }
    wf m ∧ up m = true ∧ unreported m 7 = true ∧ (coll (nx (exec (.abortRequest 7 0x0A01 p) m)) 7).state = .aborting ∧
    stoppable m 9 = true ∧ drains m 4 = false ∧ (newt (nx (exec (.abortRequest 7 0x0A01 p) m)) 9).aborted = true ∧
    (nx (exec (.abortRequest 7 0x0A01 p) f)).out.length = 1 ∧ nx (exec (.abortRequest 7 0x0A01 p) d) = d ∧
    timeoutRuns t 7 = true ∧ (rasRec (nx (exec (.collTimeout 7) t)) 0x0A02).set = true ∧ timeoutRuns chip 7 = false ∧
    nx (exec (.collTimeout 7) chip) = chip := by decide +kernel

theorem test_CollectiveOutcomes :
    let p : FaultPlace := {}
    let v : Coll := { started := true, commitChip := 1, members := [(4, 0)] }
    let f := withColl v { chip with jobs := [(0, { state := .running })] }
    let c := withColl { v with commitChip := 0, state := .committed } { chip with jobs := [(0, { state := .running })] }
    let a := withColl { v with commitChip := 0, state := .aborting } { chip with jobs := [(0, { state := .running })] }
    let e := withColl { v with commitChip := 0 }
    let l := withColl { v with desc := zeros 3 ++ [7], acked := [(4, 1)] }
    let m := fun (st : Nat) (x : State) => nx (exec (.noticeReceive 7 st 5 p []) x)
    wf f ∧ (coll (nx (exec (.noticeReceive 7 0 0 p []) f)) 7).state = .completed ∧
    (job (nx (exec (.noticeReceive 7 0 0 p []) f)) 0).ncomp = 1 ∧ (job (nx (exec (.noticeReceive 7 1 5 p []) f)) 0).nfail = 1 ∧
    nx (exec (.noticeReceive 7 0 0 p []) e) = e ∧ wf c ∧ (coll (nx (exec (.outcomeDecided 7) c)) 7).state = .completed ∧
    (coll (nx (exec (.outcomeDecided 7) a)) 7).state = .aborted ∧ nx (exec (.outcomeDecided 7) e) = e ∧
    (coll (m 1 f) 7).state = .aborted ∧ (m 1 f).out.length = 1 ∧ allDelivered l 7 4 = true ∧
    (nx (exec (.deliveredSend 7 4) l)).out = [.mgmt "DELIVERED" 1 (collVals 11 7 0 0 [4])] ∧
    (coll (nx (exec (.deliveredSend 7 4) l)) 7).delivered = [4] ∧
    nx (exec (.deliveredSend 7 4) (nx (exec (.deliveredSend 7 4) l))) = nx (exec (.deliveredSend 7 4) l) ∧
    nx (exec (.deliveredSend 7 4) e) = e ∧ nx (exec (.deliveredSend 7 5) e) = e := by decide +kernel

theorem test_PostedCollectiveStart :
    let s := withColl { posted := true } { chip with jobs := [(0, { state := .running })], newts := [(9, { role := .free })] }
    let w : Placement := { newt := 9, progk := 16, words := [5, 6], pond := [], streams := [] }
    let t := nx (exec (.postedCollectiveStart 7 ⟨[], [w]⟩) s)
    wf s ∧ fwRuns s = true ∧ unreported s 7 = true ∧ placeable s 9 = true ∧ (coll t 7).parts = [9] ∧ (newt t 9).state = .run ∧
    wordAt (newt t 9) 1 = 6 := by decide +kernel

/-- A running scheduled job in slot 3: H 2, SLIPQ 4, two epochs of 10 pads. -/
def sched (u : Sch) (s : State := chip) : State :=
  { s with
    lay := { s.lay with padgrp := leBytes 2 2 ++ leBytes 2 4 ++ zeros 4 ++ leBytes 8 2 ++ leBytes 4 10 ++ zeros 8 ++ leBytes 12 10 }
    jobs := [(3, { state := .running, sched := true })], sch := { u with job := some 3 } }

theorem test_LaunchAndPads :
    let a : State := { sched { state := .armed, croak := 128 } with
      jobs := [(3, { state := .armed, sched := true, launchL := 128 })], newts := [(9, { role := .scheduled })] }
    let b : State := { a with jobs := [(3, { state := .armed, launchL := 129 })] }
    let h : State := { a with jobs := [(3, { state := .armed, launchL := 128 })] }
    let r := sched { state := .run, jp := 3, croak := 128 }
    let f := sched { state := .frozen, jp := 3, quantum := 1, frozenPads := 3, extQuantum := 1, croak := 128 }
    wf a ∧ (newt (nx (exec (.launchCountReached 3) a)) 9).state = .run ∧ nx (exec (.launchCountReached 3) b) = b ∧
    (job (nx (exec (.launchCountReached 3) h)) 3).state = .running ∧ wf r ∧ boundaryTaken r = false ∧ freezeDue r = false ∧
    epochDue r = false ∧ (nx (exec .padBoundary r)).sch.jp = 4 ∧ boundaryTaken (nx (exec .padBoundary r)) = true ∧
    wf f ∧ freezeOver f = false ∧ (nx (exec .padBoundary f)).sch.quantum = 2 ∧ nx (exec .padBoundary chip) = chip := by
  decide +kernel

theorem test_FreezesAndEpochs :
    let d := sched { state := .run, jp := 5, callPend := some 3 }
    let o := sched { state := .frozen, jp := 5, frozenPads := 4, quantum := 1 }
    let x := sched { state := .frozen, jp := 5, frozenPads := 2, quantum := 1 }
    let y := sched { state := .run, jp := 6 } { chip with therm := { chip.therm with want := 2 } }
    let e := sched { state := .run, jp := 10, fbl62 := 10 }
    let p := sched { state := .run, jp := 10, fbl62 := 12 }
    let n : State := { e with newts := [(9, { role := .scheduled, state := .run })] }
    let b (w : Nat) : Sch := (nx (exec .epochBoundary { e with sch := { e.sch with jp := 0, level := 1, fbl62 := w } })).sch
    wf d ∧ freezeDue d = true ∧ (nx (exec .freezeBegin d)).sch.state = .frozen ∧ freezeOver o = true ∧
    (nx (exec .freezeEnd o)).sch.state = .run ∧ x.sch.frozenPads = pgSlipq x - pgH x ∧ nx (exec .extensionCall o) = o ∧
    y.sch.jp + 2 * pgH y = epochEnd y ∧ (nx (exec .densitySample y)).sch.fbl62 = 10 ∧ wf e ∧ epochDue e = true ∧
    epochClear e = true ∧ (nx (exec .epochBoundary e)).sch.level = 2 ∧ (nx (exec .epochBoundary p)).sch.state = .paused ∧
    (b 2).epoch = 1 ∧ (b 2).level = 1 ∧ (b 8).epoch = 1 ∧ (b 8).level = 0 ∧
    epochClear n = false ∧ (rasRec (nx (exec .epochBoundary n)) 0x0B09).set = true := by decide +kernel

theorem test_ExtensionCallAndEnd :
    let g := leBytes 2 2 ++ leBytes 2 4 ++ leBytes 4 1 ++ leBytes 4 1 ++ zeros 4 ++ leBytes 12 10 ++ zeros 4 ++ leBytes 8 1 ++ zeros 20 ++ leBytes 2 1
    let v : Newt := { role := .scheduled, state := .stall, stall := 1, progSize := 1, pond := memWrite [] 0 (leBytes 8 (iw 8 0)) }
    let s := sched { state := .frozen, jp := 5, frozenPads := 2, quantum := 1 }
    let x : State := { s with lay := { s.lay with padgrp := g, nspan := 1 }, newts := [(9, v)] }
    let j := sched { state := .run, jp := 20, epoch := 2 }
    (epochGroups x).any (fun k => groupShort x k (callsPassed x k 5)) = true ∧
    (nx (exec .extensionCall x)).sch.extQuantum = 1 ∧ nx (exec .extensionCall s) = s ∧ wf j ∧ jobOver j 3 = true ∧ (job (nx (exec (.jobDone 3) j)) 3).state = .ended ∧
    (nx (exec (.jobDone 3) j)).sch.state = .idle ∧ jobOver chip 3 = false ∧ nx (exec (.jobDone 3) chip) = chip := by
  decide +kernel

/-- A newt that has sent fewer cells than its route's home positions that have ended (pads 0 to 3) is behind, and so is an
endpoint. -/
theorem test_UnsentBehind :
    let g := leBytes 2 2 ++ leBytes 2 4 ++ leBytes 4 1 ++ leBytes 4 1 ++ zeros 4 ++ leBytes 12 10 ++ zeros 4 ++ leBytes 8 1 ++
      leBytes 4 3 ++ zeros 16 ++ leBytes 2 1
    let r (k : Byte) := zeros 2 ++ [k, 0, 1, 0, 0, 1] ++ zeros 4 ++ leBytes 4 0 ++ leBytes 4 3 ++ zeros 8 ++ leBytes 4 64
    let s := sched { state := .frozen, jp := 5, frozenPads := 2, quantum := 1, waits := [(0, 100)] }
    let x (k : Nat) (c : Byte := 1) : State := { s with
      lay := { s.lay with padgrp := g, nspan := 1, slotOf := [(1, 9)], pads := [zeros 4 ++ leBytes 4 1 ++ zeros 24 ++ r c ++ zeros 4] }
      newts := [(9, { role := .scheduled, state := .run })], quads := [(0, { state := .up })], sch := { s.sch with routeCnt := [(0, k)] } }
    (x 3).sch.frozenPads = pgSlipq (x 3) - pgH (x 3) ∧ unsentBehind (x 3) 9 = true ∧ unsentBehind (x 4) 9 = false ∧
    endpointBehind (x 3 0) = true ∧ endpointBehind (x 4 0) = false ∧
    (nx (exec .extensionCall (x 3 0))).sch.extQuantum = 1 ∧ (nx (exec .extensionCall (x 3))).sch.extQuantum = 1 ∧ nx (exec .extensionCall (x 4)) = x 4 := by decide +kernel

theorem test_CroakMaster :
    let m : State := { chip with sch := { chip.sch with master := true, hbSeq := 0xFFFFFFFF } }
    let f : State := { chip with sch := { chip.sch with align := .aligned, term := 1 }, quads := [(4, { measured := true })] }
    (nx (exec .masterHeartbeat m)).sch.hbSeq = 0 ∧ nx (exec .masterHeartbeat chip) = chip ∧ wf f ∧
    (rasRec (nx (exec .schMasterLost f)) 0x0B02).set = true ∧ nx (exec .schMasterLost m) = m ∧
    nx (exec (.alignmentCorrection [] [] []) chip) = chip := by decide +kernel

/-- Chip 0 of a ring of four in X, whose link to chip 1 is 40/16 ticks off; the master is chip 2, and chip 1 has measured its link. -/
theorem test_Alignment :
    let s (st : Sch) : State := { chip with
      sch := { st with align := .measuring, term := 1, masterXyz := 2 }, rte := { chip.rte with extX := 4 }
      quads := [(4, { use := 1, state := .up, measured := true, offset := 40 })] }
    let l (o : Int) : List ChipLink := [{ chip := 1, dir := 0, offset := o }]
    let t := nx (exec (.alignmentCorrection (l 8) [] []) (s { hops := 3 }))
    masterPath (s {}) (l 8) = some (2, 48) ∧ masterPath (s {}) [] = none ∧ (s {}).sch.state = .idle ∧ t.sch.croak = 3 ∧
    t.sch.hops = 2 ∧ t.sch.align = .aligned ∧ t.sch.bound = 10 ∧ (quad t 4).offset = -8 ∧
    (nx (exec (.alignmentCorrection (l (-8)) [] []) (s {}))).sch.croak = 0 ∧ (nx (exec (.alignmentCorrection (l (-8)) [] []) (s {}))).sch.align = .aligned ∧
    (nx (exec (.alignmentCorrection (l 8) [] []) (s {}))).sch.croak = 3 ∧
    nx (exec (.alignmentCorrection [] [] []) (s {})) = s {} := by decide +kernel

theorem test_Elections :
    let s : State := { chip with lay := { chip.lay with startupDone := true } }
    let o := nx (exec (.electionOpen .masterLost) s)
    let b := nx (exec (.bidReceive { term := 1, mprio := 2, coord := 9 }) o)
    let r : State := { s with sch := { s.sch with electTerm := 1 } }
    fwRuns s = true ∧ o.sch.electTerm = 1 ∧ o.sch.bids.length = 1 ∧ b.sch.bids.length = 2 ∧
    nx (exec (.bidReceive { term := 1, mprio := 2, coord := 9 }) b) = b ∧ nx (exec (.bidReceive { term := 0, mprio := 2, coord := 9 }) s) = s ∧
    (nx (exec (.bidReceive { term := 5, mprio := 2, coord := 9 }) b)).sch.electTerm = 5 ∧
    (nx (exec .electionRetry r)).sch.electTerm = 2 ∧ wf b ∧ (nx (exec .electionDecide b)).sch.masterXyz = 9 ∧
    (rasRec (nx (exec .electionDecide o)) 0x0C16).set = true ∧ nx (exec .electionDecide s) = s := by decide +kernel

/-- Quad 4 with a value, on the chip. -/
def withQuad (v : Quad) (s : State := chip) : State := { s with quads := [(4, v)] }
/-- Four lanes with the same state but their far lane. -/
def lanes (l : Lane) : List Lane := (List.range 4).map (fun n => { l with farLane := n })

theorem test_Training :
    let d := withQuad { use := 1 }
    let m := withQuad { use := 1, maint := true }
    let t (k : Nat) (v : Quad := {}) : State := withQuad { v with use := 1, state := .train, step := k }
    let go (s : State) : Nat := (quad (nx (exec (.trainingStepEnd 4) s)) 4).step
    let on : Lane := { signal := true, cdr := true, aligned := true, req := 256 }
    wf d ∧ linksHeld d = false ∧ (quad (nx (exec (.trainingStart 4) d)) 4).step = 1 ∧
    (quad (nx (exec (.trainingRestart 4) d)) 4).state = .train ∧ nx (exec (.trainingStart 4) m) = m ∧ wf (t 1) ∧
    (rasRec (nx (exec (.lnkTrainFail 4) (t 1))) 0x0801).set = true ∧ nx (exec (.lnkTrainFail 4) d) = d ∧
    nx (exec (.trainingStepEnd 4) d) = d ∧ go (t 1 { lanes := lanes on }) = 2 ∧ go (t 2 { lanes := lanes on }) = 3 ∧
    go (t 3 { lanes := lanes on, skew := 160 }) = 4 ∧ go (t 4 { lanes := lanes on }) = 5 ∧ go (t 5 { readyRun := 16 }) = 6 ∧
    go (t 6 { txSlot := 1, ctrlSeen := true }) = 7 := by decide +kernel

theorem test_LinkBringUp :
    let w := withQuad { use := 1, state := .train, step := 3, lanes := lanes {}, skew := 161 }
    let x := withQuad { use := 1, state := .train, step := 3 }
    let r : State := { withQuad { use := 1, reserved := true } with sch := { chip.sch with state := .run } }
    let m := withQuad { use := 1, maint := true }
    let u := withQuad { use := 1, state := .up, ncoord := 1 }
    let d := withQuad {}
    (rasRec (nx (exec (.trainingStepEnd 4) w)) 0x0803).set = true ∧ (rasRec (nx (exec (.trainingStepEnd 4) x)) 0x0803).set = true ∧
    (((quad (nx (exec (.lnkRqWrite 4 3 0x1FFFF) d)) 4).lanes.getD 3 {}).req = 0xFFFF) ∧
    (((quad (nx (exec (.lnkSlip 4 (895 * 4 + 3)) d)) 4).lanes.getD 3 {}).offset = 895) ∧
    nx (exec (.lnkSlip 4 (896 * 4)) d) = d ∧ nx (exec (.lnkSlip 4 3) d) = d ∧ wf r ∧ schActive r = true ∧
    (rasRec (nx (exec (.maint 4 1) r)) 0x0808).set = true ∧ (quad (nx (exec (.maint 4 1) u)) 4).maint = true ∧
    nx (exec (.maint 4 1) m) = m ∧ testSlot m 4 = none ∧ (quad (nx (exec (.maint 4 0) m)) 4).state = .train ∧
    (quad (nx (exec (.retrain 4 2) u)) 4).step = 1 ∧ nx (exec (.retrain 4 0) u) = u := by decide +kernel

theorem test_LinkFailureAndIdentity :
    let c : State := { chip with rte := { chip.rte with extX := 2 } }
    let u := withQuad { use := 1, state := .up } c
    let i := withQuad { use := 1, state := .ident } c
    let g := withQuad { use := 1, state := .mgmtOnly } c
    let e := withQuad { use := 7, state := .up } c
    let r : IdentRec := { kind := 1, major := fwMajor c, coord := 1, dir := 1, fp := zeros 32 }
    let go (x : IdentRec) : Quad := quad (nx (exec (.identity 4 x) i)) 4
    wf u ∧ (quad (nx (exec (.quadLinkFailure 4) u)) 4).state = .down ∧ quadPort (quad u 4) = some 128 ∧
    (rasRec (nx (exec (.quadLinkFailure 4) u)) 0x0606).set = true ∧ neighbour i i.rte.coord 0 = 1 ∧ (go r).state = .measure ∧
    (go { r with coord := 0 }).state = .quarantine ∧ (go { r with major := r.major + 1 }).state = .mgmtOnly ∧
    nx (exec (.identity 4 r) u) = u ∧ slice r.fp 0 32 = activeFp u ∧
    (quad (nx (exec (.identity 4 { r with major := r.major + 1 }) u)) 4).state = .mgmtOnly ∧
    (quad (nx (exec (.identity 4 r) e)) 4).state = .quarantine ∧ (rasRec (nx (exec (.identity 4 r) e)) 0x0603).set = true ∧ wf e ∧
    (quad (nx (exec (.identity 4 { r with kind := 2, major := 1 }) e)) 4).txQueue ≠ [] ∧ (quad (nx (exec (.identityRepeat 4) g)) 4).txQueue ≠ [] ∧
    nx (exec (.quadLinkFailure 4) (withQuad {})) = withQuad {} ∧ wf g ∧ (quad (nx (exec (.identityRepeat 4) u)) 4).txQueue = [] := by decide +kernel

/-- A frame marker of far lane n and type t. -/
def marker (n t : Nat) : List Byte :=
  let m := leBytes 8 (alignWord n) ++ leBytes 1 (t + 4 * n) ++ zeros 19
  m ++ leBytes 2 (mcrc m)

theorem test_LinkFrames :
    let d := withQuad {}
    let t := withQuad { use := 1, state := .train, step := 5 }
    let u := withQuad { use := 1, state := .up, step := 7, txSlot := 32 }
    let f (k : Nat) : LaneFrame := { lanes := (List.range 4).map (fun n => marker n k ++ zeros 2210) }
    let g (k : Nat) : RxFrame := quadFrame u 4 (f k)
    wf d ∧ nx (exec (.padFrameSend 4) d) = d ∧ (nx (exec (.padFrameSend 4) t)).out.length = 1 ∧ wf u ∧
    (quad (nx (exec (.padFrameSend 4) u)) 4).txSlot = 64 ∧ nx (exec (.padFrameReceive 4 (f 0)) d) = d ∧
    ((quad (nx (exec (.padFrameReceive 4 (f 1)) t)) 4).lanes.getD 3 {}).farLane = 3 ∧ (f 0).wf = true ∧ usableHeader (g 0) = true ∧
    (takeMarkers (g 0) (quad u 4)).lanes.all (fun l => l.badRun < 8) = true ∧ bitOf (fieldAt (padHeaderOf (g 0)) 6 1) 0 = false ∧
    usableHeader (g 1) = false ∧
    (rasRec (nx (exec (.linkRetryFail 4) u)) 0x0804).set = true ∧ nx (exec (.linkRetryFail 4) t) = t := by decide +kernel

theorem test_ChipsLost :
    let c : State := { withColl { started := true, commitChip := 1, chips := [1] } with rte := { chip.rte with extX := 2 } }
    let p (k : Nat) : State := { c with rte := { c.rte with lost := [k] } }
    let f : Flow := { key := (2 ^ 15, 0, 3, 0, 0, 0), next := 0, ctx := none }
    let g : State := { chip with rte := { chip.rte with flows := [f] } }
    wf c ∧ (1 : Nat) ≠ c.rte.coord ∧ 1 ∉ c.rte.lost ∧ neighboursOf c 1 = [0, 0] ∧ dirUp c 0 = false ∧
    (coll (nx (exec (.chipLostNotice 1) c)) 7).state = .lost ∧ (rasRec (nx (exec (.chipLost 1) c)) 0x0607).set = true ∧
    nx (exec (.chipLost 1) (p 1)) = p 1 ∧ (nx (exec (.chipLost 0) c)).rte.bridgeLost = true ∧
    linksHeld (nx (exec (.chipLost 0) c)) = true ∧ (nx (exec (.depart (2 ^ 15)) g)).rte.flows = [] := by decide +kernel

/-- A flow of this chip with packets unacknowledged and waiting. -/
def flow (ps ws : List Packet) : State :=
  { chip with rte := { chip.rte with
      srcFlows := [{ key := (0, 1, 3, 0, 0, 0), unacked := ps, waitq := ws, opened := true, nextSeq := 1 }] } }

theorem test_Flows :
    let p : Packet := { dst := 1, cls := 3, seqv := true, seq := 0 }
    let w : Packet := { dst := 1, cls := 3, payload := [1] }
    let a : FlowAck := { fsrc := 0, fdst := 1, fsunit := 0, fdunit := 0, cls := 3, chan := 0, nak := false, closed := false
                         win := 8, reason := 0, next := 1, nseq := 0 }
    (((nx (exec (.flowAck a) (flow [p] []))).rte.srcFlows.map (fun f => (f.win, f.unacked))) = [(8, [])]) ∧
    ((nx (exec (.flowAck a) (flow [p] [w]))).rte.srcFlows.map (·.nextSeq)) = [2] ∧
    (nx (exec (.flowAck { a with closed := true }) (flow [p] []))).rte.srcFlows = [] ∧
    (nx (exec (.flowAck { a with nak := true }) (flow [p] []))).swc.unitOut = [p] ∧ (flow [p] []).rte.compat = false ∧
    (nx (exec (.flowAck { a with nak := true, reason := 4 }) (flow [p] []))).rte.srcFlows = [] ∧
    (nx (exec (.flowAck { a with nak := true, reason := 2 }) (flow [p] []))).rte.busyWait = [(busyTicks, p)] ∧
    (nx (exec (.resendTimeout 0 1 3 0 0 0) { flow [p] [] with rte := { (flow [p] []).rte with busyWait := [(9, p)] } })).swc.unitOut = [] ∧
    nx (exec (.flowAck a) chip) = chip ∧ (nx (exec (.resendTimeout 0 1 3 0 0 0) (flow [p] []))).swc.unitOut = [p] := by
  decide +kernel

theorem test_RouteBanks :
    let c : State := { withQuad { use := 1, state := .up } with rte := { chip.rte with extX := 2, valid := true } }
    let t := nx (exec (.bankwinWrite 0 (0x38 * 256 + 62)) c)
    let r := nx (exec (.faultReroute [] []) c)
    wf c ∧ standbyBank c = [] ∧ entryOk c 1 0x38 = true ∧ tget 0 (standbyBank t) 1 = 0x38 ∧ entryOk c 0 0 = false ∧
    (rasRec (nx (exec (.bankwinWrite 0 0) c)) 0x0602).set = true ∧ r.rte.drain.classes = 0x17 ∧ r.rte.drain.fw = true ∧
    tget 0 (standbyBank r) 0 = 62 ∧ nx (exec (.faultReroute [] []) r) = r ∧ nx (exec (.faultReroute [] []) chip) = chip := by
  decide +kernel

theorem test_Drains :
    let s (d : DrainSt) (x : Nat := 1) : State := { chip with rte := { chip.rte with extX := x, drain := d } }
    let w : DrainSt := { classes := 2, scope := 1 }
    let z : DrainRep := { chip := 0, empty := [true, true, true, true, true], sent := [0, 0, 0, 0, 0], recvd := [0, 0, 0, 0, 0] }
    let o : State := { s w 2 with rte := { (s w 2).rte with coord := 1 } }
    let n := s { w with prevRound := [z], good := true }
    wf (s w) ∧ nx (exec .drainReport chip) = chip ∧ coordinator o = 0 ∧ (nx (exec .drainReport o)).out.length = 1 ∧
    coordinator (s w) = 0 ∧ ((nx (exec .drainReport (s w))).rte.drain.prevRound.length = 1) ∧
    (nx (exec (.drainReportReceive z) n)).rte.drain.drained = true ∧ roundGood n [z] [z] = true ∧
    ((nx (exec (.drainReportReceive z) (s w 2))).rte.drain.round.length = 1) ∧ drainWaiters (s w) = [] ∧
    (nx (exec .drained (s { w with scope := 0 }))).rte.drain.drained = true ∧
    (nx (exec .released (s { w with releasePend := true }))).rte.drain = {} ∧
    (nx (exec .released { s { w with releasePend := true } with
      rte := { (s { w with releasePend := true }).rte with mgmtHeld := [("ABORT", 4, [7])] } })).out = [.mgmt "ABORT" 4 [7]] ∧
    (quad (nx (exec .released { s { w with releasePend := true } with quads := [(4, { creds := [{ adv := 5, owed := 3 }] })] })) 4).creds =
      [{ adv := 8 }] ∧ nx (exec .released chip) = chip ∧
    (rasRec (nx (exec .rteDrainTimeout (s w))) 0x0609).set = true ∧
    (nx (exec (.drainReleaseReceive 0) (s w))).rte.drain = {} ∧
    (nx (exec (.drainReleaseReceive 1) (s w 2))).rte.drain.releases = [1] := by decide +kernel

/-- Quad 4 in torus direction 0 and quad 5 an endpoint port 3, both UP, with the identity of a torus of two chips. -/
def fabric (w : Swc) : State :=
  { chip with
    rte := { chip.rte with extX := 2, valid := true, bank0 := [(0, 62), (1, 0x38)] }, swc := w
    quads := [(4, { use := 1, state := .up, ctrlSeen := true, creds := List.replicate 10 { limit := 8 } })
             , (5, { use := 7, port := 3, state := .up, creds := List.replicate 10 {} })] }
/-- A packet for port 3 of this chip. -/
def pkt : Packet := { dst := 3 * 2 ^ 15, src := 1, cls := 3, payload := [9] }
/-- That packet queued for the torus port. -/
def queued : Held := { pkt := pkt, outPort := 128, vc := 0, cells := 1, acct := 2 }

theorem test_PacketArrival :
    let s := fabric {}
    let g : State := { s with quads := [(4, { use := 1, state := .mgmtOnly })] }
    let t := nx (exec (.packetArrival 4 pkt) s)
    wf s ∧ carries .mgmtOnly pkt = false ∧ (rasRec (nx (exec (.packetArrival 4 pkt) g)) 0x0805).set = true ∧ carries .up pkt = true ∧
    (rasRec (nx (exec (.packetArrival 4 { pkt with stomp := 2 }) s)) 0x0501).set = true ∧
    nextHop s (prevDir s 4) pkt = some (3, 0) ∧ portUp s 3 = true ∧ t.swc.ingress.map (·.out) = [3] ∧
    (tget {} t.swc.ctr (8 * 128 + 3)).rxPkt = 1 := by decide +kernel

theorem test_PacketAdmit :
    let w : Waiting := { src := 4, inStream := 5, out := 3, pkt := pkt }
    let b : Swc := { bufpart := slice (leBytes 1 6) 0 64, ingress := [w], valid := true }
    let s := fabric b
    let z := fabric { b with bufpart := slice (zeros 8 ++ leBytes 4 393216 ++ leBytes 4 393216) 0 64 }
    let u := fabric { b with ingress := [], unitOut := [pkt] }
    wf s ∧ ingressHead s 4 5 = some w ∧ atEgress s pkt = false ∧ rspNeed s 4 pkt = none ∧ collTag pkt = none ∧
    acctCells s 3 3 0 3 = 0 ∧ (onDieAcct s 3 3 0 1).isSome = true ∧ (nx (exec (.packetAdmit 4 5) s)).swc.queues.length = 1 ∧
    (credOf (quad (nx (exec (.packetAdmit 4 5) s)) 4) 5).adv = 1 ∧ onDieAcct z 3 3 0 1 = none ∧
    nx (exec (.packetAdmit 4 5) z) = z ∧ u.swc.unitOut.find? (fun p => streamOf p.cls p.vc == 5) = some pkt ∧
    (nx (exec (.packetAdmit 128 5) u)).swc.unitOut = [] := by decide +kernel

theorem test_Resequence :
    let p (n : Nat) : Packet := { pkt with seqv := true, seq := n }
    let f : Flow := { key := flowKey (p 0), next := 5, ctx := some 0 }
    let st (n : Nat) (c : Option Nat) : State :=
      let s := fabric { bufpart := slice (leBytes 1 6) 0 64, valid := true, ingress := [{ src := 4, inStream := 5, out := 3, pkt := p n }] }
      { s with rte := { s.rte with flows := [{ f with ctx := c }] } }
    let go (n : Nat) (c : Option Nat := some 0) : State := nx (exec (.resequence (p n)) (st n c))
    wf (st 4 none) ∧ atEgress (st 4 none) (p 4) = true ∧ flowOf (st 4 (some 0)) (p 4) = some f ∧ (go 4).rte.dup = 1 ∧
    (go 68).rte.flows.map (fun g => g.slots.length) = [1] ∧ (rasRec (go 69) 0x0608).set = true ∧
    (rasRec (go 6 none) 0x0608).set = true ∧ (go 5).rte.flows.map (·.next) = [6] ∧ (go 5).swc.queues.length = 1 := by
  decide +kernel

theorem test_ForwardStart :
    let s := fabric { queues := [queued] }
    let n : ShpNode := { en := true, burst := 8192 }
    let h : State := { s with shp := { nodes := [(128, n)] } }
    let t := nx (exec (.packetForwardStart 4 5) s)
    wf s ∧ (quad s 4).state = .up ∧ quadPort (quad s 4) = some 128 ∧ (forwardHeads s 128 3 0).filter (mayLeave s 4 128 5) = [queued] ∧
    shapeShort s 128 pkt = [] ∧ t.swc.queues.map (·.started) = [true] ∧ (quad t 4).txQueue.length = 2 ∧
    nx (exec (.packetForwardStart 4 5) (fabric {})) = fabric {} ∧ shapeShort h 128 pkt ≠ [] ∧
    (nx (exec (.packetForwardStart 4 5) h)).swc.queues.length = 1 := by decide +kernel

theorem test_StompAndStall :
    let s := fabric { queues := [queued] }
    let b := fabric { queues := [{ queued with started := true, quad := 4 }] }
    let o := fabric { queues := [{ queued with acct := 3, loc := dev }], bufpart := slice (leBytes 1 6) 0 64, valid := true }
    let i := fabric { ingress := [{ src := 4, inStream := 5, out := 3, pkt := pkt }] }
    let r := fabric { res := [{ port := 3, cells := 1, txn := 0 }] }
    let l := fabric { queues := [{ queued with acct := 3, loc := dev, pkt := { pkt with left := 1 } }], bufpart := slice (leBytes 1 6) 0 64, valid := true }
    wf s ∧ stompTarget s 128 3 0 = some queued ∧ (nx (exec (.stomp 128 3 0 ⟨9, 0⟩) s)).swc.queues = [] ∧
    ((nx (exec (.stomp 128 3 0 ⟨5, 0⟩) b)).swc.queues.map (fun h => h.pkt.stomp)) = [2] ∧
    bufferSegs s (homeDie s 128) = List.range 96 ∧ (nx (exec (.stomp 128 3 0 ⟨0, 95⟩) s)).swc.stat = 128 ∧
    nx (exec (.stomp 128 3 0 ⟨0, 96⟩) s) = s ∧ nx (exec (.stomp 128 3 0 ⟨3, 96⟩) s) = s ∧
    (rasRec (nx (exec (.stomp 128 3 0 ⟨3, 95⟩) s)) 0x0502).set = true ∧ (rasRec (nx (exec (.stomp 128 3 0 ⟨3, 95⟩) s)) 0x0502).rsrc.toNat / 256 % 65536 = 95 ∧
    (rasRec (nx (exec (.stomp 128 3 0 ⟨3, 0⟩) o)) 0x0503).set = true ∧ nx (exec (.stomp 128 2 0 ⟨1, 0⟩) s) = s ∧
    nx (exec (.overflowMoveBack 128 3 0) s) = s ∧ nx (exec (.overflowMoveBack 128 3 0) l) = l ∧ poisoned o dev 256 = false ∧
    ((nx (exec (.overflowMoveBack 128 3 0) o)).swc.queues.map (·.loc)) = [0] ∧
    ((nx (exec (.swcStall 128 3 0) i)).swc.ingress.map (·.stalled)) = [true] ∧
    nx (exec (.swcStall 3 3 0) i) = i ∧ (rasRec (nx (exec (.rspReservationTimeout 3) r)) 0x0507).set = true ∧
    (nx (exec (.rspReservationTimeout 3) r)).swc.res = [] ∧ nx (exec (.rspReservationTimeout 3) s) = s := by decide +kernel

theorem test_SwitchRegisters :
    let s := fabric { sharedHigh := [1, 2], disc := List.replicate 8 3 }
    let w : Word := BitVec.ofNat 64 (1 + 16 * 255 + 2 ^ 20)
    let p : Policer := { wCir := 1, wCbs := 1, wErate := 1, wEbs := 1 }
    let n : ShpNode := { en := true, rate := 5, burst := 8192, lo := 1, hi := 9 }
    let h : State := { s with shp := { nodes := [(3, n)], pols := [(0, p)] } }
    let ok : Word := BitVec.ofNat 64 (8192 * 2 ^ 23 + 9 * 4 + 3)
    wf s ∧ fabricEndpoint s 1 = true ∧ (tget {} (nx (exec (.mirrorEnable 15 w) s)).swc.mirrors 15).en = true ∧
    nx (exec (.mirrorEnable 15 0) s) = s ∧ (rasRec (nx (exec (.mirrorEnable 15 1) s)) 0x0506).set = true ∧
    (nx (exec .clearHigh s)).swc.sharedHigh = [0, 0] ∧ (nx (exec .clearCounters s)).swc.disc = List.replicate 8 0 ∧ wf h ∧
    (rasRec (nx (exec (.nodeConfigWrite 5 (8192 * 2 ^ 23 + 1)) s)) 0x0701).set = true ∧
    (rasRec (nx (exec (.nodeConfigWrite 3 (BitVec.ofNat 64 (8192 * 2 ^ 23 + 4 * 1800001))) h)) 0x0701).set = true ∧
    (snode (nx (exec .tokenRefill h)) 3).tokens = 20 ∧ (snode (nx (exec (.nodeConfigWrite 3 ok) h)) 3).rate = 9 ∧
    (rasRec (nx (exec (.nodeConfigWrite 3 (ok + 4)) h)) 0x0702).set = true ∧
    (rasRec (nx (exec (.nodeConfigWrite 3 1) h)) 0x0701).set = true := by decide +kernel

theorem test_PolicersAndKeys :
    let p : Policer := { wCir := 1, wCbs := 1, wErate := 1, wEbs := 1 }
    let s : State := { fabric {} with shp := { nodes := [(0x4000, { en := true })], pols := [(511, p)] } }
    let w : Word := BitVec.ofNat 64 (1 + 3 * 2 ^ 13)
    wf s ∧ (policer (nx (exec (.policerConfigWrite 511 w) s)) 511).en = true ∧
    (rasRec (nx (exec (.policerConfigWrite 0 w) s)) 0x0701).set = true ∧
    (snode (nx (exec (.subscriberKeyWrite 16383 (3 * 2 ^ 22 + 7)) s)) 0x7FFF).src = 7 ∧
    (rasRec (nx (exec (.subscriberKeyWrite 0 (3 * 2 ^ 22)) s)) 0x0701).set = true := by decide +kernel

theorem test_MonitorCommands :
    let d : State := { chip with fw := { chip.fw with lost := true } }
    let m := withQuad { maint := true }
    let u : State := { chip with mon := { chip.mon with unlocked := true } }
    let k : State := { chip with mon := { chip.mon with keyset := true, wrongRun := 2 } }
    fwRuns d = false ∧ nx (exec .help d) = d ∧ fwRuns chip = true ∧ (nx (exec .help chip)).out.length = 15 ∧
    (nx (exec (.map 71) chip)).out.length = 4 ∧ (nx (exec (.peek 0x100000 16) chip)).out.length = 18 ∧
    (nx (exec (.log 64) chip)).out.length = 2 ∧ (quad m 4).maint = true ∧ (nx (exec (.eye 4 3) m)).free = 2050 ∧
    (nx (exec (.baud 921600) chip)).mon.fast = true ∧ (nx (exec .chal chip)).free = 1 ∧ (nx (exec .lock u)).mon.unlocked = false ∧
    (nx (exec .monitorIdleLock u)).mon.unlocked = false ∧
    (nx (exec .unlockLockoutEnd { chip with mon := { chip.mon with lockout := true } })).mon.lockout = false ∧ wf k ∧
    (nx (exec (.unlock (List.replicate 12 31)) k)).mon.lockout = true := by decide +kernel

theorem test_MonitorUnlocked :
    let u : State := { chip with mon := { chip.mon with unlocked := true } }
    let err (c : Instr) (s : State := chip) : Option Out :=
      match (nx (exec c s)).out.reverse with
      | .uart "> " :: o :: _ => some o
      | _ => none
    writeError 0x100008 u (regWrite 0x100008 1 8 u) = none ∧ err (.poke 0x100008 1) u = some (.uart "OK\r\n") ∧
    writeError 1 u (regWrite 1 1 8 u) = some 0x0101 ∧ err (.poke 1 1) u = some (.uart "ERR 0101\r\n") ∧
    poisonAt u (2 ^ 38 - 128) 128 = none ∧ err (.mpeek (2 ^ 38 - 128) 16) u = some (.uart "OK\r\n") ∧ wf chip ∧
    err .fwMonSyntax = some (.uart "ERR 0C15\r\n") ∧ err (.map 72) = some (.uart "ERR 0C15\r\n") ∧ err (.peek 0 17) = some (.uart "ERR 0C15\r\n") ∧
    err (.log 65) = some (.uart "ERR 0C15\r\n") ∧ err (.baud 1) = some (.uart "ERR 0C15\r\n") ∧ err (.eye 128 0) = some (.uart "ERR 0C15\r\n") ∧
    err (.unlock []) = some (.uart "ERR 0C15\r\n") ∧ err (.eye 4 0) = some (.uart "ERR 0111\r\n") ∧ err (.poke 0 0) = some (.uart "ERR 0C13\r\n") ∧
    err (.unlock (List.replicate 12 0)) = some (.uart "ERR 0C13\r\n") := by decide +kernel

/-! Clauses on what else a command meets: what stands, holds back or is already there. -/

theorem test_BarrierCreated :
    let l (bound : Option Nat) : State := { chip with sync := { lines := [(1, { mask := [0], arrived := [0], bound := bound })] } }
    let b : Word := 258
    let f : Word := 258 + 2 ^ 14
    let t := nx (exec (.syncCreate 5 b) (l none))
    wf (l none) ∧ cfgValid (l none) 5 b.toNat = true ∧ (bline t 1).bound = some 5 ∧ (bline t 1).arrived = [] ∧
    cfgValid (l none) 5 f.toNat = true ∧ (obj (nx (exec (.syncCreate 5 f) (l none))) 5).fabric = true ∧
    cfgValid (l (some 4)) 5 b.toNat = false ∧ (rasRec (nx (exec (.syncCreate 5 b) (l (some 4)))) 0x0405).set = true := by decide +kernel

theorem test_PostReleases :
    let n : State := { chip with newts := [(9, { registered := true })] }
    let c := withObj { kind := 1, depth := 4, waiters := [{ agent := 9, d := 3 }] } n
    let e := withObj { kind := 3, waiters := [{ agent := 9, d := 2 }] } n
    let t := nx (exec (.syncPost 5 4) c)
    let u := nx (exec (.syncPost 5 1) e)
    wf c ∧ (obj t 5).cons = 3 ∧ (obj t 5).prod = 4 ∧ (newt t 9).waitPassed = true ∧ (newt t 9).registered = false ∧ wf e ∧
    avail (obj e 5) = 0 ∧ (obj u 5).cons = 1 ∧ (newt u 9).waitPassed = true := by decide +kernel

/-- END frees a list buffer: it is the first of its list again, with the address of the next in its first bytes. -/
theorem test_EndFreesBuffers :
    let b : Buf := { addr := 0x200000000, owner := 0x109, units := 1, half := 0 }
    let s : State := { prog (iw 1 0) with pool := { chip.pool with size := [(0, 1)], list := [(0, 8)], front := [(0, 1)], bufs := [b] } }
    let t := nx (exec (.endProgram 9) s)
    wf s ∧ allDone (newt s 9) = true ∧ b.addr < halfBase s 0 + halfList s 0 * poolBuf 0 ∧ t.pool.bufs = [] ∧
    t.pool.order = [(0, [0x200000000])] ∧ leNat (lovRead t 0x200000000 8) = 0x200000100 := by decide +kernel

theorem test_OneIssueInACycle :
    let s := prog 0 { issuedAt := some 0 }
    (newt s 9).issuedAt = some (croak s) ∧ nx (exec (.nop 9) s) = s ∧ (newt (nx (exec (.nop 9) (atCroak 1 s))) 9).pc = 1 := by
  decide +kernel

/-- A CMT that meets its conditions in the cycle of the abort commits first (R94); an abandoned WLAND does not time out. -/
theorem test_CommitBeforeAbort :
    let m := prog (iw 0xC 7) { colls := [7] } [] { chip with colls := [(7, { chips := [1], parts := [9] })] }
    let w : State := { chip with newts := [(9, { newt (prog (iw 8 5)) 9 with state := .stall, stall := 1, abortPend := true })] }
    let a := nx (exec (.newtAbort 9 7) m)
    wf m ∧ cmtDue m 9 = true ∧ workers m 7 = [9] ∧ iArg (headWord m 9) = 7 ∧ unreported m 7 = true ∧
    (coll (nx (exec (.abortRequest 7 0x0A01 {}) m)) 7).state = .committed ∧ (coll a 7).state = .committed ∧
    (newt a 9).aborted = true ∧ (newt a 9).issued = 1 ∧ nx (exec (.wlandTimeout 9) w) = w := by decide +kernel

theorem test_PostedStartQuarantined :
    let s := withColl { posted := true } { withObj { kind := 1, depth := 4, quar := true } with
      jobs := [(0, { state := .running })], newts := [(9, { role := .free })] }
    let w : Placement := { newt := 9, progk := 16, words := [BitVec.ofNat 64 (iw 0xA (2 * 2 ^ 16 + 5))], pond := [], streams := [] }
    let t := nx (exec (.postedCollectiveStart 7 ⟨[], [w]⟩) s)
    wf s ∧ placeable s 9 = true ∧ workObjs [w] = [(5, 9)] ∧ workers s 7 = [] ∧ (rasRec t 0x0408).set = true ∧
    (coll t 7).state = .aborting ∧ (coll t 7).cause = 0x0408 := by decide +kernel

theorem test_PoisonedImage :
    let s (c : Nat) : State := { cmd c [0] with
      lay := { chip.lay with staged := some (zeros 256) }, lov := { chip.lov with poison := [1] } }
    runnable 0x11 4 (s 0x11) = true ∧ poisonAt (s 0x11) 0 256 = some 64 ∧
    (rasRec (nx (exec (.activateLayout ⟨4, none⟩) (s 0x11))) 0x0D01).set = true ∧
    hdr (mslot (nx (exec (.tableSwap 4) (s 0x41))) 4).bytes 20 2 = 0x0D01 := by decide +kernel

theorem test_RunRecordErrors :
    let j : State := { chip with jobs := [(2, { state := .ended, handle := 9, record := [1, 2] })] }
    let s (r : List Byte) : State := cmd 0x80 r j
    runnable 0x80 4 (s (leBytes 8 9 ++ [1])) = true ∧ jobOf (req (mslot (s (leBytes 8 9 ++ [1])) 4) 0 8) j = some 2 ∧
    hdr (mslot (nx (exec (.runRecord 4) (s (leBytes 8 9 ++ [1])))) 4).bytes 20 2 = 0x010F ∧ jobOf 8 j = none ∧
    hdr (mslot (nx (exec (.runRecord 4) (s [8]))) 4).bytes 20 2 = 0x0109 := by decide +kernel

/-- A command that an ADOPT holds back is judged once it has ended; until then its time-out ends it. -/
theorem test_HeldByAdopt :
    let a := cmd 0x90 (leBytes 4 1)
    let s : State := { a with hif := { a.hif with slots := a.hif.slots ++ [(5, { ready 0x70 (leBytes 4 1) with unruled := true })] } }
    (mslot s 5).unruled = true ∧ (mslot (nx (exec (.adopt 4 false) s)) 5).unruled = false ∧ (mslot s 5).work = .ready ∧
    hdr (mslot (nx (exec (.commandTimeout 5) s)) 5).bytes 20 2 = 0x0107 := by decide +kernel

theorem test_PauseInSampledPad :
    let p : State := { withJob { state := .running, sched := true, ckptPending := some 4 } with
      sch := { chip.sch with state := .run, job := some 3, jp := 6, sampled := some 6, fbl62 := 8 } }
    (nx (exec .pauseRequest p)).sch.fbl62 = 12 ∧ (nx (exec .pauseRequest p)).sch.pausePend = true := by decide +kernel

theorem test_ResumePoisoned :
    let a := 0x2000000000 - 128
    let s := cmd 0x24 (leBytes 8 77 ++ leBytes 8 a ++ leBytes 8 80000) (withJob { state := .opened })
    let p : State := { s with lov := { s.lov with poison := [a / 64] } }
    runnable 0x24 4 p = true ∧ ckHeadPoison p a = some a ∧ resumeFails p 77 a = some 0x010F ∧
    (rasRec (nx (exec (.jobResume 4) p)) 0x0D01).set = true := by decide +kernel

theorem test_HeardPosts :
    let k : Packet := { cls := 4, src := 3, tag := .plain 0x0100, payload := leBytes 8 5 ++ leBytes 4 7 ++ zeros 31 ++ [1] }
    let s := withColl { posted := true } { chip with jobs := [(0, { state := .running, fjob := 5 })] }
    let same := withColl { posted := true, postDig := zeros 31 ++ [1] } s
    fwRuns chip = true ∧ postOf k = some { chip := 3, fjob := 5, coll := 7, digest := zeros 31 ++ [1] } ∧
    (nx (exec (.mgmtInboxArrival k) chip)).fw.posts.length = 1 ∧ (coll (nx (exec (.mgmtInboxArrival k) s)) 7).cause = 0x0A06 ∧
    nx (exec (.mgmtInboxArrival k) same) = same := by decide +kernel

/-- A ring of 2^16 descriptors, a descriptor that waits for its channel's window, and a FREE that its completion refuses. -/
theorem test_DmaWaitsAndRefusals :
    let g := slice (desc 2 2 2 64 0x200000000) 0 32 ++ zeros 32
    let r := withChan { state := .run, count := 2, cur := some g, readback := true }
    (chan (nx (exec (.dmaRingWrite 2 0x40) chip)) 2).log2 = 16 ∧ dFree g = true ∧ (poolFree' (dDaddr g) (· == 2) 2 r).2 = false ∧
    (chan (nx (exec (.dmaCompletion 2) r)) 2).state = .error ∧ (chan (nx (exec (.dmaCompletion 2) r)) 2).code = 0x0303 := by
  decide +kernel

theorem test_MasterHeardOf :
    let s : State := { chip with sch := { chip.sch with electing := true, term := 1 } }
    s.sch.align = .unaligned ∧ wf s ∧ (rasRec (nx (exec .schMasterLost s)) 0x0B02).set = true ∧
    nx (exec .schMasterLost chip) = chip := by decide +kernel

theorem test_DisabledNodeInRange :
    let n : ShpNode := { rate := 5, burst := 8192, lo := 1, hi := 9 }
    let h : State := { fabric {} with shp := { nodes := [(3, n)] } }
    let w (rate : Nat) : Word := BitVec.ofNat 64 (8192 * 2 ^ 23 + 4 * rate)
    wf h ∧ nodeExists h 3 = true ∧ (rasRec (nx (exec (.nodeConfigWrite 3 (w 10)) h)) 0x0701).set = true ∧
    (snode (nx (exec (.nodeConfigWrite 3 (w 9)) h)) 3).rate = 9 := by decide +kernel

theorem test_MpeekOwnTables :
    let u : State := { chip with mon := { chip.mon with unlocked := true } }
    lovOwn 0x0184000000 = true ∧ poisonAt u 0x0184000000 8 = none ∧ (nx (exec (.mpeek 0x0184000000 1) u)).free = (logOpen 4 13 u).free + 1 := by
  decide +kernel

/-- R348: the locator of two symbols in error finds both and no third. -/
theorem test_rs_decoder :
    let syn := (List.range 30).map (fun i => gf 5 (gfExp (gfPow 43) i) ^^^ gf 9 (gfExp (gfPow 7) i))
    let l := locator syn
    let e (p : Nat) : Option Nat := errorAt l.c (polyMul 30 syn l.c) (polyDeriv l.c) p
    l.len = 2 ∧ e 43 = some 5 ∧ e 7 = some 9 ∧ e 42 = none ∧ syndromes [5] = List.replicate 30 5 := by decide +kernel

/-- R346: pairs 00, 01, 10, 11 of 0xE4, earlier bit first, are levels 0, 1, 3, 2. -/
theorem test_pam4 : pamLevels [0xE4] = [0, 1, 3, 2] := by decide

/-- R356: slot 20 is a control slot of some pad, slot 21 of none; a claim of slot 20 in four pads in a row meets that pad, one in three
need not, and a hop that is no quad has no control slots. -/
theorem test_control_slots :
    let c (k n : Nat) (q : Option Nat) : Claim := { route := 0, hops := [], first := 4, last := 3 + n, place := 2 * (k * 2 ^ 14), quad := q }
    let free (x : Claim) : Bool := ctrlFree [x] x
    free (c 20 4 (some 0)) = false ∧ free (c 20 3 (some 0)) = true ∧ free (c 21 4 (some 0)) = true ∧
    free (c 20 4 none) = true := by decide +kernel

/-- The token of any challenge has 12 digits below 32, so a right one exists whatever the part's serial is. -/
theorem test_TokenExists : ∀ (k : List Word) (c : Word), (tokenOf k c).length = 12 ∧ ∀ d ∈ tokenOf k c, d < 32 := by
  intro k c
  have b : ∀ x : Bool, bnat x ≤ 1 := by decide
  refine ⟨by simp [tokenOf], fun d h => ?_⟩
  simp only [tokenOf, List.mem_map] at h
  obtain ⟨i, _, rfl⟩ := h
  simp only [show List.range 5 = [0, 1, 2, 3, 4] from rfl, List.foldl]
  have h0 := b; grind

end Sys2Proof.Tests
end

section
/-! The writes of BAR0: where a write goes, what a word of the MSI-X table holds after one, what an occurrence and a clear
leave in an error record, and the obligation RegisterWrites assembled from them. -/

namespace Sys2Proof.Machine

/-! Where a write of BAR0 goes (R8, Table 1-5). -/

theorem whenUp_of_up (f : State → State) {s : State} (hup : up s = true) : whenUp f s = .next (f s) := by
  simp [whenUp, hup]

theorem whenUp_of_fixed {f : State → State} {s : State} (hf : f s = s) : whenUp f s = .next s := by
  simp [whenUp, hf]

/-- An aligned 64-bit write stores the word (R8). -/
theorem exec_registerWrite_word (o : Nat) (w : Word) (s : State) (hlt : o < 0x4000000) (hal : o % 8 = 0) :
    exec (.registerWrite o w 8) s = whenUp (regStore o w) s := by
  have hw : regWrite o w 8 = regStore o w := by
    funext s; simp [regWrite, Nat.not_le.mpr hlt, hal]
  rw [← hw]; rfl

/-- An aligned 32-bit write in a range that takes it stores the word with the addressed half replaced (R8). -/
theorem regWrite_half (o : Nat) (w : Word) (s : State) (hlt : o < 0x4000000) (hal : o % 4 = 0)
    (hh : halfWritable o = true) : regWrite o w 4 s = regStore (o / 8 * 8) (halfMerge s o w) s := by
  simp [regWrite, Nat.not_le.mpr hlt, hal, hh]

/-- Any other access raises 0x0101 and stores nothing (R8, log 100). -/
theorem regWrite_malformed {o width : Nat} (w : Word) (s : State) (hlt : o < 0x4000000) (h8 : ¬ (width = 8 ∧ o % 8 = 0))
    (h4 : ¬ (width = 4 ∧ o % 4 = 0 ∧ halfWritable o = true)) : regWrite o w width s = raise { code := 0x0101 } s := by
  simp [regWrite, Nat.not_le.mpr hlt, h8, h4, badAccess]

section Blocks

variable (o : Nat) (w : Word) (s : State)

theorem regStore_glb (h : o < 0x100000) : regStore o w s = writeGlb o w s := by
  simp [regStore, h]

theorem regStore_hif (h : o < 0x100000) : regStore (0x100000 + o) w s = writeHif o w s := by
  unfold regStore
  rw [if_neg (by omega), if_pos (by omega), Nat.add_sub_cancel_left]

theorem regStore_dma (h : o < 0x100000) : regStore (0x200000 + o) w s = writeDma o w.toNat s := by
  unfold regStore
  rw [if_neg (by omega), if_neg (by omega), if_pos (by omega), Nat.add_sub_cancel_left]

theorem regStore_pool (h : o < 0x100000) : regStore (0x300000 + o) w s = writePool o w.toNat s := by
  unfold regStore
  rw [if_neg (by omega), if_neg (by omega), if_neg (by omega), if_pos (by omega), Nat.add_sub_cancel_left]

theorem regStore_sync (h : o < 0x400000) : regStore (0x400000 + o) w s = writeSync o w.toNat s := by
  unfold regStore
  rw [if_neg (by omega), if_neg (by omega), if_neg (by omega), if_neg (by omega), if_pos (by omega),
    Nat.add_sub_cancel_left]

theorem regStore_rte (h : o < 0x400000) : regStore (0xC00000 + o) w s = writeRte o w.toNat s := by
  unfold regStore
  rw [if_neg (by omega), if_neg (by omega), if_neg (by omega), if_neg (by omega), if_neg (by omega), if_neg (by omega),
    if_pos (by omega), Nat.add_sub_cancel_left]

theorem regStore_lnk (h : o < 0x80000) : regStore (0x1400000 + o) w s = lnkWrite (o / 4096) (o % 4096) w.toNat s := by
  unfold regStore
  rw [if_neg (by omega), if_neg (by omega), if_neg (by omega), if_neg (by omega), if_neg (by omega), if_neg (by omega),
    if_neg (by omega), if_neg (by omega), if_pos (by omega), if_pos (by omega), Nat.add_sub_cancel_left,
    show (0x1400000 + o) % 4096 = o % 4096 by omega]

theorem regStore_ras (h : o < 0xF00000) : regStore (0x3000000 + o) w s = writeRas o w.toNat s := by
  unfold regStore
  rw [if_neg (by omega), if_neg (by omega), if_neg (by omega), if_neg (by omega), if_neg (by omega), if_neg (by omega),
    if_neg (by omega), if_neg (by omega), if_neg (by omega), if_neg (by omega), if_neg (by omega), if_neg (by omega),
    if_pos (by omega), Nat.add_sub_cancel_left]

end Blocks

/-- Read-only registers take no write (R9). -/
theorem regStore_readOnly {o : Nat} (w : Word) (s : State)
    (ho : o ∈ [0, 8, 0x10, 0x200, 0x308, 0x100000, 0x100010, 0x1C00000, 0x1C00008, 0x1C00010, 0x3000000]) :
    o < 0x4000000 ∧ o % 8 = 0 ∧ regStore o w s = s := by
  simp only [List.mem_cons, List.not_mem_nil, or_false] at ho
  rcases ho with rfl | rfl | rfl | rfl | rfl | rfl | rfl | rfl | rfl | rfl | rfl <;> exact ⟨by decide, by decide, rfl⟩

/-! Registers in rows, each of which has a command of its own (Table 15-7). -/

theorem regStore_monKey (i : Fin 4) (w : Word) (s : State) : regStore (0x3C0 + 8 * i.val) w s = monKeyWrite i.val w s := by
  fin_cases i <;> rfl

theorem regStore_carve (d : Fin 2) (p : Fin 7) (w : Word) (s : State) :
    regStore (0x300000 + 8 * (7 * d.val + p.val)) w s = carveWrite (7 * d.val + p.val) w.toNat s := by
  rw [regStore_pool _ _ _ (by omega), writePool, if_pos (by omega), Nat.mul_div_cancel_left _ (by decide)]

theorem regStore_dmaRing (c : Fin 64) (w : Word) (s : State) :
    regStore (0x200000 + 64 * c.val) w s = dmaRing c.val w.toNat s := by
  rw [regStore_dma _ _ _ (by omega), writeDma, if_pos (by omega), Nat.mul_div_cancel_left _ (by decide),
    show 64 * c.val % 64 / 8 = 0 by omega]
  rfl

theorem regStore_dmaBell (c : Fin 64) (w : Word) (s : State) :
    regStore (0x200008 + 64 * c.val) w s = dmaBell c.val w.toNat s := by
  rw [show 0x200008 + 64 * c.val = 0x200000 + (64 * c.val + 8) by omega, regStore_dma _ _ _ (by omega), writeDma,
    if_pos (by omega), show (64 * c.val + 8) / 64 = c.val by omega, show (64 * c.val + 8) % 64 / 8 = 1 by omega]
  rfl

theorem regStore_syncPost (o : Fin 8192) (w : Word) (s : State) :
    regStore (0x400030 + 64 * o.val) w s = (signalLocal o.val (bits w.toNat 15 0) agentPost 0 s).1 := by
  rw [show 0x400030 + 64 * o.val = 0x400000 + (64 * o.val + 48) by omega, regStore_sync _ _ _ (by omega), writeSync,
    if_pos (by omega), show (64 * o.val + 48) / 64 = o.val by omega, show (64 * o.val + 48) % 64 / 8 = 6 by omega]
  rfl

theorem regStore_bankwin (k : Fin 4096) (w : Word) (s : State) :
    regStore (0xC10000 + 8 * k.val) w s = bankWrite k.val w.toNat s := by
  rw [show 0xC10000 + 8 * k.val = 0xC00000 + (0x10000 + 8 * k.val) by omega, regStore_rte _ _ _ (by omega), writeRte,
    if_neg (by omega), if_pos (by omega), Nat.add_sub_cancel_left, Nat.mul_div_cancel_left _ (by decide)]

theorem regStore_lnkRq (q : Fin 128) (l : Fin 4) (w : Word) (s : State) :
    regStore (0x1400060 + 4096 * q.val + 8 * l.val) w s = rqWrite q.val l.val w.toNat s := by
  rw [show 0x1400060 + 4096 * q.val + 8 * l.val = 0x1400000 + (4096 * q.val + (0x60 + 8 * l.val)) by omega,
    regStore_lnk _ _ _ (by omega), show (4096 * q.val + (0x60 + 8 * l.val)) / 4096 = q.val by omega,
    show (4096 * q.val + (0x60 + 8 * l.val)) % 4096 = 0x60 + 8 * l.val by omega, lnkWrite,
    if_neg (by omega), if_neg (by omega), if_neg (by omega), if_pos (by omega), Nat.add_sub_cancel_left,
    Nat.mul_div_cancel_left _ (by decide)]

theorem regStore_rasRecord (c : Fin 4096) (w : Word) (s : State) (hb : bitOf w.toNat 0 = true) :
    regStore (0x3100000 + 64 * c.val) w s = rasClear c.val s := by
  rw [show 0x3100000 + 64 * c.val = 0x3000000 + (0x100000 + 64 * c.val) by omega, regStore_ras _ _ _ (by omega), writeRas,
    if_neg (by omega), if_neg (by omega), if_neg (by omega), if_neg (by omega), if_pos (by omega),
    if_pos ⟨by omega, hb⟩, Nat.add_sub_cancel_left, Nat.mul_div_cancel_left _ (by decide)]

/-! The MSI-X table (R440). -/

/-- The offset of half `half` of entry `v` in BAR0. -/
def msixOffset (v half : Nat) : Nat := 0x110000 + 16 * v + 8 * half

theorem regRead_msix (v : Fin 512) (half : Fin 2) (s : State) :
    regRead s (msixOffset v half) = ((tget msixReset s.hif.msix v.val).getD half.val 0).toNat := by
  have hr : regRead s (msixOffset v half) = readHif s (0x10000 + (16 * v.val + 8 * half.val)) := by
    unfold regRead msixOffset
    rw [if_neg (by omega), if_neg (by omega), if_pos (by omega),
      show 0x110000 + 16 * v.val + 8 * half.val - 0x100000 = 0x10000 + (16 * v.val + 8 * half.val) by omega]
  rw [hr]
  unfold readHif
  rw [if_neg (by omega), if_neg (by omega), if_neg (by omega), if_neg (by omega), if_neg (by omega), if_neg (by omega),
    if_neg (by omega), if_neg (by omega), if_neg (by omega), if_pos (by omega),
    show (0x10000 + (16 * v.val + 8 * half.val) - 0x10000) / 16 = v.val by omega,
    show (0x10000 + (16 * v.val + 8 * half.val)) / 8 % 2 = half.val by omega]

theorem regStore_msix (v : Fin 512) (half : Fin 2) (w : Word) (s : State) :
    regStore (msixOffset v half) w s = msixWrite v.val half.val w s := by
  rw [show msixOffset v half = 0x100000 + (0x10000 + (16 * v.val + 8 * half.val)) by unfold msixOffset; omega,
    regStore_hif _ _ _ (by omega)]
  unfold writeHif
  rw [if_neg (by omega), if_neg (by omega), if_neg (by omega), if_neg (by omega), if_neg (by omega), if_neg (by omega),
    if_pos (by omega), show (0x10000 + (16 * v.val + 8 * half.val) - 0x10000) / 16 = v.val by omega,
    show (0x10000 + (16 * v.val + 8 * half.val)) / 8 % 2 = half.val by omega]

/-- The word that a 64-bit write leaves in a half of an entry: of the second half only bits 32 to 0 are held. -/
def msixWord (half : Nat) (w : Word) : Word := if half = 1 then w &&& 0x1FFFFFFFF else w

theorem msixWord_toNat (half : Nat) (w : Word) :
    (msixWord half w).toNat = if half = 1 then w.toNat % 2 ^ 33 else w.toNat := by
  unfold msixWord
  split
  · rw [BitVec.toNat_and]; exact Nat.and_two_pow_sub_one_eq_mod w.toNat 33
  · rfl

/-- With no pending bit a write of the table changes the one half and sends nothing. -/
theorem msixWrite_not_pending {v : Nat} (half : Nat) (w : Word) {s : State} (hp : tget false s.hif.pba v = false) :
    msixWrite v half w s = { s with hif := { s.hif with
      msix := tset msixReset s.hif.msix v ((tget msixReset s.hif.msix v).set half (msixWord half w)) } } := by
  simp [msixWrite, hp, modHif, msixWord]

/-- The word that a 32-bit write of a half leaves: the addressed half of `old` is replaced (R8). -/
theorem halfMerge_toNat (o : Nat) (lo : Fin 2) (w : Word) (s : State) (hal : o % 8 = 0) (hold : regRead s o < 2 ^ 64) :
    (halfMerge s (o + 4 * lo.val) w).toNat =
      if lo.val = 0 then 2 ^ 32 * (regRead s o / 2 ^ 32) + w.toNat % 2 ^ 32
      else 2 ^ 32 * (w.toNat % 2 ^ 32) + regRead s o % 2 ^ 32 := by
  have hlo : (o + 4 * lo.val) % 8 = 0 ↔ lo.val = 0 := by omega
  unfold halfMerge
  simp only [show (o + 4 * lo.val) / 8 * 8 = o by omega, hlo, BitVec.toNat_ofNat]
  split <;> omega

/-! What the log entry, the event and vector 449 of an error leave in its record (R475 to R482). -/

theorem rasRec_of_ras {s t : State} (h : t.ras = s.ras) (c : Nat) : rasRec t c = rasRec s c := by
  rw [rasRec, h]; rfl

/-- A record without the marks that its event, its vector and its log entry set. -/
def latched (r : RasRec) : RasRec := { r with evt := false, irq := false, logAt := none }

theorem set_of_latched {r q : RasRec} (h : latched r = latched q) : r.set = q.set := by
  have hs := congrArg RasRec.set h
  exact hs

theorem rasRec_setRas_set {c : Nat} {r : RasRec} (s : State) (h : r.set = true) : rasRec (setRas c r s) c = r :=
  rasRec_setRas_ne c r s (by rintro rfl; simp at h)

/-- From `s` to `t` the record of `c`, where it is set, keeps all but those marks, and no other record changes. -/
structure MarksOnly (c : Nat) (s t : State) : Prop where
  latched_eq : (rasRec s c).set = true → latched (rasRec t c) = latched (rasRec s c)
  sorted : tsorted s.ras.recs → tsorted t.ras.recs
  other : tsorted s.ras.recs → ∀ n, n ≠ c → rasRec t n = rasRec s n

theorem MarksOnly.of_ras {c : Nat} {s t : State} (h : t.ras = s.ras) : MarksOnly c s t where
  latched_eq _ := by rw [rasRec_of_ras h]
  sorted hs := by rwa [h]
  other _ n _ := rasRec_of_ras h n

theorem MarksOnly.trans {c : Nat} {s t u : State} (h : MarksOnly c s t) (g : MarksOnly c t u) : MarksOnly c s u where
  latched_eq hs := by
    have hst := h.latched_eq hs
    rw [g.latched_eq (by rw [set_of_latched hst, hs]), hst]
  sorted hs := g.sorted (h.sorted hs)
  other hs n hn := by rw [g.other (h.sorted hs) n hn, h.other hs n hn]

/-- A write of the record that keeps its latched fields. -/
theorem MarksOnly.setRas {c : Nat} {r : RasRec} {s t : State} (ht : t.ras = s.ras) (hr : latched r = latched (rasRec s c)) :
    MarksOnly c s (setRas c r t) where
  latched_eq hs := by rw [rasRec_setRas_set t (by rw [set_of_latched hr, hs]), hr]
  sorted hs := tsorted_tset _ (by rwa [ht]) _ _
  other hs n hn := by rw [rasRec_setRas_other c n r t (by rwa [ht]) hn, rasRec_of_ras ht]

theorem rasLog_marksOnly (o : Occ) (s : State) : MarksOnly o.code s (rasLog o s) := by
  have h : rasLog o s = logAdd 0 o.code (occBytes (BitVec.ofNat 64 (occSrc o)) (occData o))
      (setRas o.code { rasRec s o.code with logAt := some (croak s) } s) ∨ rasLog o s = s := ite_eq_or_eq _ _ _
  rcases h with h | h
  · rw [h]
    refine .trans ?_ (.of_ras (logAdd_ras _ _ _ _))
    exact .setRas rfl rfl
  · rw [h]; exact .of_ras rfl

theorem rasEvent_marksOnly (c : Nat) (s : State) : MarksOnly c s (rasEvent c s) := by
  unfold rasEvent
  split
  · exact .setRas (pushEvent_ras _ _ _) rfl
  · exact .of_ras rfl

theorem rasIrq_marksOnly (c : Nat) (s : State) : MarksOnly c s (rasIrq c s) := by
  unfold rasIrq
  split
  · exact .setRas (vector_ras _ _) rfl
  · exact .of_ras rfl

theorem rasFirst_marksOnly (c : Nat) (s : State) : MarksOnly c s (rasFirst c s) := by
  have hev : MarksOnly c s (if rasWrites c s then rasEvent c s else s) := by
    split
    · exact rasEvent_marksOnly c s
    · exact .of_ras rfl
  unfold rasFirst
  dsimp only
  split
  · exact hev.trans (rasIrq_marksOnly c _)
  · exact hev

/-- After an occurrence of a defined code its record is the raised one but for those marks. -/
theorem rasRecord_latched {o : Occ} (s : State) (hd : definedCode o.code = true)
    (hset : (recRaise o (croak s) (rasRec s o.code)).set = true) :
    latched (rasRec (rasRecord o s) o.code) = latched (recRaise o (croak s) (rasRec s o.code)) := by
  have hr := rasRec_setRas_set (c := o.code) s hset
  set s1 := setRas o.code (recRaise o (croak s) (rasRec s o.code)) s with hs1
  have hlog : MarksOnly o.code s1 (if rasWrites o.code s1 then rasLog o s1 else s1) := by
    split
    · exact rasLog_marksOnly o s1
    · exact .of_ras rfl
  have hall : MarksOnly o.code s1 (rasRecord o s) := by
    unfold rasRecord
    simp only [if_pos hd, ← hs1]
    generalize (if rasWrites o.code s1 then rasLog o s1 else s1) = s2 at hlog ⊢
    split
    · split
      · exact hlog.trans (.of_ras (eventAmend_ras _ _))
      · exact hlog
    · exact hlog.trans (rasFirst_marksOnly _ _)
  rw [hall.latched_eq (by rw [hr, hset]), hr]

/-! The raised record (R475, R476). -/

theorem recRaise_set (o : Occ) (now : Nat) (r : RasRec) : (recRaise o now r).set = true := by
  unfold recRaise
  dsimp only
  split
  · rfl
  · rename_i h
    simp only [Bool.or_eq_true, Bool.not_eq_true', not_or, Bool.not_eq_false] at h
    exact h.1

theorem recRaise_clear (o : Occ) (now : Nat) {r : RasRec} (hr : r.set = false) :
    (recRaise o now r).inj = o.inj ∧ (recRaise o now r).count = 1 := by
  simp [recRaise, recOf, cycRaise, hr]

/-- An occurrence of a later cycle leaves INJ of a set record. -/
theorem recRaise_inj_later (o : Occ) {now : Nat} {r : RasRec} (hr : r.set = true)
    (hc : ∀ k, r.cyc = some k → k.tick ≠ now) : (recRaise o now r).inj = r.inj := by
  have hno : r.cyc.any (fun c => c.tick == now && recOnly c r) = false := by
    cases hk : r.cyc with
    | none => rfl
    | some k => simp [hc k hk]
  simp [recRaise, hr, hno]

/-! What an occurrence leaves of the host interface. -/

@[simp] theorem vector_hifErr (v : Nat) (s : State) : (vector v s).hif.err = s.hif.err := by
  unfold vector; repeat' split
  all_goals rfl

@[simp] theorem pushEvent_hifErr (typ : Nat) (data : List Byte) (s : State) :
    (pushEvent typ data s).hif.err = s.hif.err := by
  unfold pushEvent; dsimp only; split <;> rfl

@[simp] theorem eventAmend_hifErr (c : Nat) (s : State) : (eventAmend c s).hif.err = s.hif.err := by
  unfold eventAmend; dsimp only; split <;> rfl

@[simp] theorem rasFirst_hifErr (c : Nat) (s : State) : (rasFirst c s).hif.err = s.hif.err := by
  have hev : (rasEvent c s).hif.err = s.hif.err := by
    unfold rasEvent; split <;> simp
  have hirq (t : State) : (rasIrq c t).hif.err = t.hif.err := by
    unfold rasIrq; split <;> simp
  unfold rasFirst
  dsimp only
  split <;> split <;> simp [hev, hirq]

@[simp] theorem rasRecord_hifErr (o : Occ) (s : State) : (rasRecord o s).hif.err = s.hif.err := by
  unfold rasRecord
  dsimp only
  repeat' split
  all_goals simp

/-! RAS_INJECT (R487). -/

/-- The occurrence that a write of RAS_INJECT names. -/
def injected (v : Nat) : Occ := { code := bits v 15 0, kind := bits v 36 32, unit := bits v 31 16, inj := true }

theorem rasInject_accepted {v : Nat} {s : State} (hgo : bitOf v 40 = true) (hcode : definedCode (bits v 15 0) = true)
    (hkind : bits v 36 32 < 19) (hown : s.hif.state = .owned) : rasInject v s = rasRecord (injected v) s := by
  simp [rasInject, hgo, hcode, Nat.not_le.mpr hkind, hown, injected]

theorem rasInject_refused {v : Nat} {s : State} (hgo : bitOf v 40 = true)
    (h : definedCode (bits v 15 0) = false ∨ 19 ≤ bits v 36 32 ∨ s.hif.state ≠ .owned) :
    rasInject v s = raise { code := 0x0101 } s := by
  have hc : (!definedCode (bits v 15 0) || decide (19 ≤ bits v 36 32) || s.hif.state != .owned) = true := by
    simpa [or_assoc] using h
  unfold rasInject
  simp only [hgo, Bool.not_true, Bool.false_eq_true, if_false, if_pos hc]
  rfl

/-! The clear of a record (R476, R477). -/

/-- Where no occurrence of this cycle has raised the record, all of it but the time of its last log entry is cleared. -/
theorem rasClear_earlier {c : Nat} {s : State}
    (h : (rasRec s c).set = false ∨ ∀ k, (rasRec s c).cyc = some k → k.tick ≠ croak s) :
    rasClear c s = setRas c { logAt := (rasRec s c).logAt } s := by
  unfold rasClear
  dsimp only
  split
  · rfl
  · rename_i k hk
    have hc : (!(rasRec s c).set || decide (k.tick ≠ croak s)) = true := by
      rcases h with h | h
      · simp [h]
      · simp [h k hk]
    rw [if_pos hc]

section ThisCycle

variable {c : Nat} {s : State} {k : RasCycle}

/-- A record that occurrences of this cycle alone have set stays as it is. -/
theorem rasClear_only (hset : (rasRec s c).set = true) (hk : (rasRec s c).cyc = some k) (hnow : k.tick = croak s)
    (ho : (rasRec s c).rtime = k.tick ∧ (rasRec s c).count = k.n) : rasClear c s = s := by
  simp [rasClear, hset, hk, hnow, recOnly, ho]

/-- A record set before this cycle is set afresh by the occurrences of this cycle, and routed as a first one. -/
theorem rasClear_afresh (hset : (rasRec s c).set = true) (hk : (rasRec s c).cyc = some k) (hnow : k.tick = croak s)
    (ho : ¬ ((rasRec s c).rtime = k.tick ∧ (rasRec s c).count = k.n)) :
    rasClear c s = rasFirst c (setRas c (recOf k { logAt := (rasRec s c).logAt }) s) := by
  have hr : recOnly k (rasRec s c) = false := by simp only [recOnly, hset, Bool.true_and, decide_eq_false ho]
  simp [rasClear, hset, hk, hnow, hr]

end ThisCycle

/-! The clauses of the obligation that speak of a state after the write. -/

theorem unitmapSel_write (w : Word) {s : State} (hup : up s = true) :
    ∃ t, exec (.registerWrite 0x100 w 8) s = .next t ∧ regRead t 0x100 = w.toNat % 128 ∧
      t = { s with unit := { s.unit with sel := w.toNat % 128 } } := by
  refine ⟨{ s with unit := { s.unit with sel := w.toNat % 128 } }, ?_, rfl, rfl⟩
  rw [exec_registerWrite_word _ _ _ (by decide) (by decide), whenUp_of_up _ hup]
  rfl

/-- A 32-bit write of the MSI-X table, in the words of the table itself. -/
theorem exec_registerWrite_msixHalf (v : Fin 512) (half lo : Fin 2) (w : Word) {s : State} (hup : up s = true)
    (hp : tget false s.hif.pba v.val = false) :
    exec (.registerWrite (msixOffset v half + 4 * lo.val) w 4) s = .next { s with hif := { s.hif with
      msix := tset msixReset s.hif.msix v ((tget msixReset s.hif.msix v.val).set half.val
        (msixWord half (halfMerge s (msixOffset v half + 4 * lo.val) w))) } } := by
  have hst : regWrite (msixOffset v half + 4 * lo.val) w 4 s =
      msixWrite v.val half.val (halfMerge s (msixOffset v half + 4 * lo.val) w) s := by
    rw [regWrite_half, ← regStore_msix]
    · congr 1; unfold msixOffset; omega
    · unfold msixOffset; omega
    · unfold msixOffset; omega
    · unfold halfWritable msixOffset; rw [decide_eq_true_eq]; omega
  rw [← msixWrite_not_pending _ _ hp, ← hst]
  exact whenUp_of_up _ hup

theorem msixHalf_write (v : Fin 512) (half lo : Fin 2) (w : Word) {s : State} (hwf : s.Wf) (hup : up s = true)
    (hlen : (tget msixReset s.hif.msix v.val).length = 2) (hp : tget false s.hif.pba v.val = false) :
    let o := msixOffset v half
    let old := regRead s o
    let new := if lo.val = 0 then 2 ^ 32 * (old / 2 ^ 32) + w.toNat % 2 ^ 32 else 2 ^ 32 * (w.toNat % 2 ^ 32) + old % 2 ^ 32
    ∃ t, exec (.registerWrite (o + 4 * lo.val) w 4) s = .next t ∧ regRead t o = (if half.val = 1 then new % 2 ^ 33 else new) ∧
      (∀ k, k ≠ v.val → tget msixReset t.hif.msix k = tget msixReset s.hif.msix k) ∧
      t = { s with hif := { s.hif with msix := t.hif.msix } } := by
  obtain ⟨-, ⟨-, -, -, -, -, -, hsorted, -⟩, -, -⟩ := hwf
  refine ⟨_, exec_registerWrite_msixHalf v half lo w hup hp, ?_, fun k hk => tget_tset_other _ hsorted _ _ _ hk, rfl⟩
  have hold : regRead s (msixOffset v half) < 2 ^ 64 := by rw [regRead_msix]; exact BitVec.isLt _
  rw [regRead_msix, tget_tset_self _ hsorted, List.getD_eq_getElem _ _ (by rw [List.length_set, hlen]; exact half.isLt),
    List.getElem_set_self, msixWord_toNat, halfMerge_toNat _ _ _ _ (by unfold msixOffset; omega) hold]

theorem rasInject_record {w : Word} {s : State} (hup : up s = true) (hgo : bitOf w.toNat 40 = true)
    (hcode : definedCode (bits w.toNat 15 0) = true) (hkind : bits w.toNat 36 32 < 19) (hown : s.hif.state = .owned) :
    let code := bits w.toNat 15 0
    ∃ t, exec (.rasInject w) s = .next t ∧
      (rasRec t code).set = true ∧ ((rasRec s code).set = false → (rasRec t code).inj = true ∧ (rasRec t code).count = 1) ∧
      ((rasRec s code).set = true → (∀ k, (rasRec s code).cyc = some k → k.tick ≠ croak s) →
        (rasRec t code).inj = (rasRec s code).inj) ∧
      t.fw = s.fw ∧ t.dma = s.dma ∧ t.pool = s.pool ∧ t.swc = s.swc ∧ t.rte = s.rte ∧ t.shp = s.shp ∧ t.sch = s.sch ∧
      t.lay = s.lay ∧ t.hif.err = s.hif.err ∧ t.quads = s.quads ∧ t.newts = s.newts ∧ t.jobs = s.jobs := by
  intro code
  have hrec : latched (rasRec (rasRecord (injected w.toNat) s) code) =
      latched (recRaise (injected w.toNat) (croak s) (rasRec s code)) :=
    rasRecord_latched (o := injected w.toNat) s hcode (recRaise_set _ _ _)
  have hinj := congrArg RasRec.inj hrec
  have hcount := congrArg RasRec.count hrec
  refine ⟨rasRecord (injected w.toNat) s, ?_, ?_, fun hclear => ?_, fun hset hcyc => ?_, by simp⟩
  · rw [← rasInject_accepted hgo hcode hkind hown]
    exact whenUp_of_up _ hup
  · rw [set_of_latched hrec, recRaise_set]
  · obtain ⟨hi, hc⟩ := recRaise_clear (injected w.toNat) (croak s) hclear
    exact ⟨hinj.trans hi, hcount.trans hc⟩
  · exact hinj.trans (recRaise_inj_later _ hset hcyc)

theorem rasRecordClear_earlier {c : Fin 4096} {s : State} (hs : tsorted s.ras.recs) (hup : up s = true)
    (h : (rasRec s c.val).set = false ∨ ∀ k, (rasRec s c.val).cyc = some k → k.tick ≠ croak s) :
    ∃ t, exec (.rasRecordClear c) s = .next t ∧ rasRec t c.val = { logAt := (rasRec s c.val).logAt } ∧
      (∀ k, k ≠ c.val → rasRec t k = rasRec s k) ∧ t = { s with ras := { s.ras with recs := t.ras.recs } } := by
  refine ⟨setRas c.val { logAt := (rasRec s c.val).logAt } s, ?_, rasRec_setRas _ _ _ hs,
    fun k hk => rasRec_setRas_other _ _ _ _ hs hk, rfl⟩
  rw [← rasClear_earlier h]
  exact whenUp_of_up _ hup

theorem rasRecordClear_afresh {c : Fin 4096} {s : State} {k : RasCycle} (hs : tsorted s.ras.recs) (hup : up s = true)
    (hset : (rasRec s c.val).set = true) (hk : (rasRec s c.val).cyc = some k) (hnow : k.tick = croak s)
    (ho : ¬ ((rasRec s c.val).rtime = k.tick ∧ (rasRec s c.val).count = k.n)) :
    ∃ t, exec (.rasRecordClear c) s = .next t ∧
      (rasRec t c.val).set = true ∧ (rasRec t c.val).count = k.n ∧ (rasRec t c.val).rtime = k.tick ∧
      (rasRec t c.val).rlast = k.tick ∧ (rasRec t c.val).rsrc = k.src ∧ (rasRec t c.val).rdata = k.data ∧
      (∀ n, n ≠ c.val → rasRec t n = rasRec s n) := by
  set r := recOf k { logAt := (rasRec s c.val).logAt } with hr
  have hread : rasRec (setRas c.val r s) c.val = r := rasRec_setRas _ _ _ hs
  have hmarks := rasFirst_marksOnly c.val (setRas c.val r s)
  have hrec : latched (rasRec (rasFirst c.val (setRas c.val r s)) c.val) = latched r := by
    rw [hmarks.latched_eq (by rw [hread, hr]; rfl), hread]
  refine ⟨rasFirst c.val (setRas c.val r s), ?_, set_of_latched hrec, (congrArg RasRec.count hrec :), (congrArg RasRec.rtime hrec :),
    (congrArg RasRec.rlast hrec :), (congrArg RasRec.rsrc hrec :), (congrArg RasRec.rdata hrec :), fun n hn => ?_⟩
  · rw [hr, ← rasClear_afresh hset hk hnow ho]
    exact whenUp_of_up _ hup
  · rw [hmarks.other (tsorted_tset _ hs _ _) n hn, rasRec_setRas_other _ _ _ _ hs hn]

/-- Each 64-bit write at the offset of a register with a command of its own is that command (Table 15-7). -/
theorem registerWrite_isCommand (w : Word) (s : State) :
    exec (.registerWrite 0x100008 w 8) s = exec (.heartbeatWrite w) s ∧
    exec (.registerWrite 0x100018 w 8) s = exec (.hdmSizeWrite w) s ∧
    exec (.registerWrite 0x100020 w 8) s = exec (.eventRingWrite w) s ∧
    exec (.registerWrite 0x100028 w 8) s = exec (.ringReadAdvance none (bits w.toNat 31 16)) s ∧
    exec (.registerWrite 0x300300 w 8) s = exec (.poolFree w) s ∧
    exec (.registerWrite 0x3E0 w 8) s = exec (.monitorLockWrite w) s ∧
    exec (.registerWrite 0x3000010 w 8) s = exec (.rasInject w) s :=
  ⟨rfl, rfl, rfl, rfl, rfl, rfl, rfl⟩

/-- A 64-bit write is the command whose effect the store has. -/
theorem exec_registerWrite_eq {o : Nat} {w : Word} {i : Instr} {f : State → State} (s : State)
    (hst : ∀ s, regStore o w s = f s) (hi : exec i s = whenUp f s) (hlt : o < 0x4000000) (hal : o % 8 = 0) :
    exec (.registerWrite o w 8) s = exec i s := by
  rw [exec_registerWrite_word o w s hlt hal, hi, funext hst]

/-- Settles O38: every clause is the store at its offset followed by what the store does to the state. -/
theorem registerWrites : Obligations.RegisterWrites := by
  unfold Obligations.RegisterWrites
  refine ⟨?_, ?_, ?_, ?_, ?_, ?_, ?_, ?_, ?_⟩
  · intro o width w s hup hlt h8 h4
    rw [← regWrite_malformed w s hlt h8 h4]
    exact whenUp_of_up _ hup
  · exact fun w s hup => unitmapSel_write w hup
  · exact fun v half lo w s hwf hup hlen hp => msixHalf_write v half lo w hwf hup hlen hp
  · intro o w s ho
    obtain ⟨hlt, hal, hst⟩ := regStore_readOnly w s ho
    rw [exec_registerWrite_word o w s hlt hal, whenUp_of_fixed hst]
  · intro w s
    obtain ⟨hbeat, hhdm, hring, hrd, hfree, hlock, hinj⟩ := registerWrite_isCommand w s
    refine ⟨hbeat, hhdm, hring, hrd, hfree, hlock, hinj, fun i => ?_, fun d p => ?_, fun c => ⟨?_, ?_⟩, fun o => ?_,
      fun k => ?_, fun q l => ?_, fun c hb => ?_⟩
    · exact exec_registerWrite_eq s (regStore_monKey i w) rfl (by omega) (by omega)
    · exact exec_registerWrite_eq s (regStore_carve d p w) rfl (by omega) (by omega)
    · exact exec_registerWrite_eq s (regStore_dmaRing c w) rfl (by omega) (by omega)
    · exact exec_registerWrite_eq s (regStore_dmaBell c w) rfl (by omega) (by omega)
    · exact exec_registerWrite_eq s (regStore_syncPost o w) rfl (by omega) (by omega)
    · exact exec_registerWrite_eq s (regStore_bankwin k w) rfl (by omega) (by omega)
    · exact exec_registerWrite_eq s (regStore_lnkRq q l w) rfl (by omega) (by omega)
    · exact exec_registerWrite_eq s (fun s => regStore_rasRecord c w s hb) rfl (by omega) (by omega)
  · exact fun i w s hup => whenUp_of_up (monKeyWrite i.val w) hup
  · intro w s hup
    refine (whenUp_of_up (monCtlWrite w.toNat) hup).trans ?_
    cases hb : bitOf w.toNat 2 <;> simp [monCtlWrite, hb, modMon]
  · intro w s hup hgo
    refine ⟨rasInject_record hup hgo, fun h => ?_⟩
    rw [← rasInject_refused hgo h]
    exact whenUp_of_up _ hup
  · intro c s hwf hup
    obtain ⟨-, ⟨-, -, -, -, hs, -⟩, -, -⟩ := hwf
    refine ⟨rasRecordClear_earlier hs hup, fun k hset hk hnow => ⟨fun ho => ?_, rasRecordClear_afresh hs hup hset hk hnow⟩⟩
    exact whenUp_of_fixed (rasClear_only hset hk hnow ho)

end Sys2Proof.Machine
end

section
/-! Exact sums: the order and the grouping of the addends of a sum leave no trace, an unescaped partial block carries its
sums to the sum that takes it, and the obligation SumsOrderIndependent assembled from them. -/

namespace Sys2Proof.Machine

/-! Addends and partial sums (R55 to R57). -/

theorem accJoin_assoc (a b c : Acc) : accJoin (accJoin a b) c = accJoin a (accJoin b c) := by
  simp [accJoin, Bool.or_assoc, Int.add_assoc]

theorem accJoin_right_comm (a b c : Acc) : accJoin (accJoin a b) c = accJoin (accJoin a c) b := by
  simp [accJoin, Bool.or_right_comm, Int.add_right_comm]

@[simp] theorem accJoin_empty (a : Acc) : accJoin a {} = a := by
  simp [accJoin]

/-- An addend is a sum of one, joined. -/
theorem accAdd_eq_accJoin (base : Nat) (a : Acc) (v : Val) : accAdd base a v = accJoin a (accAdd base {} v) := by
  cases v <;> simp [accAdd, accJoin]

theorem accAdd_right_comm (base : Nat) (a : Acc) (v w : Val) :
    accAdd base (accAdd base a v) w = accAdd base (accAdd base a w) v := by
  rw [accAdd_eq_accJoin base (accAdd base a v), accAdd_eq_accJoin base a, accJoin_right_comm, ← accAdd_eq_accJoin,
    ← accAdd_eq_accJoin]

theorem accAdd_accJoin (base : Nat) (a b : Acc) (v : Val) :
    accAdd base (accJoin a b) v = accJoin a (accAdd base b v) := by
  rw [accAdd_eq_accJoin, accJoin_assoc, ← accAdd_eq_accJoin]

/-- A sum does not depend on the order of its addends. -/
theorem foldl_accAdd_perm (base : Nat) {xs ys : List Val} (h : xs.Perm ys) (a : Acc) :
    xs.foldl (accAdd base) a = ys.foldl (accAdd base) a :=
  h.foldl_eq' (fun v _ w _ b => accAdd_right_comm base b v w) a

/-- Addends added one by one are their sum, joined. -/
theorem foldl_accAdd_eq_accJoin (base : Nat) (a : Acc) (g : List Val) :
    g.foldl (accAdd base) a = accJoin a (g.foldl (accAdd base) {}) := by
  have shift (b : Acc) : g.foldl (accAdd base) (accJoin a b) = accJoin a (g.foldl (accAdd base) b) := by
    induction g generalizing b with
    | nil => rfl
    | cons v g ih => simp only [List.foldl_cons, accAdd_accJoin, ih]
  simpa using shift {}

/-- Sums of groups, joined, are the sum of all the addends, whatever the groups. -/
theorem foldl_accJoin_groups (base : Nat) (gs : List (List Val)) (a : Acc) :
    (gs.map (fun g => g.foldl (accAdd base) {})).foldl accJoin a = gs.flatten.foldl (accAdd base) a := by
  rw [List.foldl_map, List.foldl_flatten]
  simp only [← foldl_accAdd_eq_accJoin]

/-- What the tags of a sum of at least one addend say (R55): something was added, and a sum that is not zero is no
accumulated −0. -/
structure Acc.Tagged (a : Acc) : Prop where
  added : a.added = true
  notNegZ : a.w ≠ 0 → a.notNegZ = true

@[simp] theorem toUnits_zero (base : Nat) (neg : Bool) (e : Int) : toUnits base neg 0 e = 0 := by
  simp [toUnits]

theorem accAdd_tagged (base : Nat) {a : Acc} (h : a.w ≠ 0 → a.notNegZ = true) (v : Val) : (accAdd base a v).Tagged := by
  cases v with
  | nan => exact ⟨rfl, fun _ => rfl⟩
  | inf s => exact ⟨rfl, fun _ => rfl⟩
  | fin s m e =>
    refine ⟨rfl, fun hw => ?_⟩
    rcases Nat.eq_zero_or_pos m with rfl | hm
    · have : a.w ≠ 0 := by simpa [accAdd] using hw
      simp [accAdd, h this]
    · simp [accAdd, Nat.ne_of_gt hm]

theorem foldl_accAdd_tagged (base : Nat) {g : List Val} (hg : g ≠ []) : (g.foldl (accAdd base) {}).Tagged := by
  induction g using List.reverseRecOn with
  | nil => exact absurd rfl hg
  | append_singleton g v ih =>
    rw [List.foldl_append]
    refine accAdd_tagged base ?_ v
    rcases eq_or_ne g [] with rfl | hne
    · exact fun h => absurd rfl h
    · exact (ih hne).notNegZ

/-! Fields of bytes read back (R7). -/

@[simp] theorem leBytes_length (n v : Nat) : (leBytes n v).length = n := by
  induction n generalizing v with
  | zero => rfl
  | succ n ih => simp [leBytes, ih]

theorem leNat_leBytes (n v : Nat) : leNat (leBytes n v) = v % 2 ^ (8 * n) := by
  induction n generalizing v with
  | zero => simp [leBytes, leNat, Nat.mod_one]
  | succ n ih =>
    rw [show 2 ^ (8 * (n + 1)) = 256 * 2 ^ (8 * n) by rw [Nat.mul_add, Nat.pow_add, Nat.mul_comm], Nat.mod_mul]
    simp [leBytes, leNat, ih]

/-- A field reads back what was stored at its place. -/
theorem fieldAt_leBytes {bs p r : List Byte} {off n v : Nat} (hbs : bs = p ++ (leBytes n v ++ r)) (hp : p.length = off) :
    fieldAt bs off n = v % 2 ^ (8 * n) := by
  subst hbs hp
  simp [fieldAt, slice, leNat_leBytes]

theorem unsigned_lt (n : Nat) (v : Int) : unsigned n v < 2 ^ n := by
  have hpos : (0 : Int) < 2 ^ n := by positivity
  have := Int.emod_lt_of_pos v hpos
  have : ((unsigned n v : Nat) : Int) < ((2 ^ n : Nat) : Int) := by
    rw [unsigned, Int.toNat_of_nonneg (Int.emod_nonneg v hpos.ne')]
    simpa
  exact_mod_cast this

/-- A number in the range of a signed field is read back from it. -/
theorem signed_unsigned {n : Nat} {v : Int} (hn : 0 < n) (hlo : -(2 ^ (n - 1)) ≤ v) (hhi : v < 2 ^ (n - 1)) :
    signed n (unsigned n v) = v := by
  obtain ⟨m, rfl⟩ := Nat.exists_eq_succ_of_ne_zero hn.ne'
  simp only [Nat.succ_eq_add_one, Nat.add_sub_cancel] at hlo hhi ⊢
  have hcast : ((2 ^ m : Nat) : Int) = 2 ^ m := by norm_num
  have hpow : (2 : Int) ^ (m + 1) = 2 * 2 ^ m := by ring
  have hpos : (0 : Int) < 2 ^ m := by positivity
  generalize (2 : Int) ^ m = p at *
  rcases le_or_gt 0 v with h | h
  · have : unsigned (m + 1) v = v.toNat := by rw [unsigned, hpow, Int.emod_eq_of_lt h (by omega)]
    rw [signed, this, Nat.add_sub_cancel, if_pos (by omega)]
    omega
  · have : unsigned (m + 1) v = (v + 2 * p).toNat := by
      rw [unsigned, hpow, ← Int.add_emod_right, Int.emod_eq_of_lt (by omega) (by omega)]
    rw [signed, this, Nat.add_sub_cancel, if_neg (by omega), hpow]
    omega

/-- A signed number stored in a field is read back from it. -/
theorem signed_fieldAt {bs p r : List Byte} {off n : Nat} {v : Int} (hbs : bs = p ++ (leBytes n (unsigned (8 * n) v) ++ r))
    (hp : p.length = off) (hn : 0 < n) (hlo : -(2 ^ (8 * n - 1)) ≤ v) (hhi : v < 2 ^ (8 * n - 1)) :
    signed (8 * n) (fieldAt bs off n) = v := by
  rw [fieldAt_leBytes hbs hp, Nat.mod_eq_of_lt (unsigned_lt _ v), signed_unsigned (by omega) hlo hhi]

theorem bitOf_eq_testBit (w i : Nat) : bitOf w i = w.testBit i :=
  Nat.testBit_eq_decide_div_mod_eq.symm

theorem bitOf_ofBits (l : List Nat) (i : Nat) : bitOf (ofBits l) i = decide (i ∈ l) := by
  have shift (a : Nat) : (l.foldl (fun a i => a ||| 2 ^ i) a).testBit i = (a.testBit i || decide (i ∈ l)) := by
    induction l generalizing a with
    | nil => simp
    | cons j l ih =>
      rw [List.foldl_cons, ih, Nat.testBit_or, Nat.testBit_two_pow, Bool.or_assoc]
      simp [eq_comm]
  rw [bitOf_eq_testBit, ofBits, shift]
  simp

/-- The bytes of a row of fields, cut at field `i`. -/
theorem flatMap_range_cut (f : Nat → List Byte) {i n : Nat} (h : i < n) :
    ∃ r, (List.range n).flatMap f = (List.range i).flatMap f ++ (f i ++ r) := by
  obtain ⟨k, rfl⟩ := Nat.exists_eq_add_of_lt h
  refine ⟨((List.range k).map (fun j => i + (j + 1))).flatMap f, ?_⟩
  rw [Nat.add_assoc, List.range_add, List.range_succ_eq_map]
  simp [List.map_map, Function.comp_def]

/-! A partial block (R60, R61). -/

theorem two_pow_lowBit_dvd (fuel n : Nat) : 2 ^ lowBit fuel n ∣ n := by
  induction fuel generalizing n with
  | zero => simp [lowBit]
  | succ fuel ih =>
    unfold lowBit
    split
    · simp
    · rw [Nat.pow_add, Nat.pow_one, show n = 2 * (n / 2) by omega]
      exact Nat.mul_dvd_mul_left 2 (by simpa using ih (n / 2))

theorem lowBit_le (fuel n : Nat) : lowBit fuel n ≤ fuel := by
  induction fuel generalizing n with
  | zero => exact Nat.le_refl 0
  | succ fuel ih =>
    unfold lowBit
    split
    · exact Nat.zero_le _
    · have := ih (n / 2)
      omega

theorem foldl_min_le (l : List Nat) (d : Nat) : l.foldl min d ≤ d ∧ ∀ x ∈ l, l.foldl min d ≤ x := by
  induction l generalizing d with
  | nil => simp
  | cons y l ih =>
    obtain ⟨hd, hl⟩ := ih (min d y)
    simp only [List.foldl_cons, List.mem_cons, forall_eq_or_imp]
    exact ⟨by omega, by omega, hl⟩

/-- The lowest set bits of the non-zero sums of a block. -/
def partialLows (as : List Acc) : List Nat := (as.filter (fun a => a.w ≠ 0)).map (fun a => lowBit 2560 a.w.natAbs)

/-- The lowest of them: a block's integers count units of 2 to this power of the register's unit. -/
def partialLow (as : List Acc) : Nat := (partialLows as).foldl min ((partialLows as).headD 0)

/-- EXP of a block. -/
def partialExp (base : Nat) (as : List Acc) : Int := if (partialLows as).isEmpty then 0 else (partialLow as : Int) - base

/-- The sums that are an accumulated −0. -/
def partialNegZ (as : List Acc) : List Nat :=
  (List.range 32).filter (fun i => (as.getD i default).w == 0 && !(as.getD i default).notNegZ && (as.getD i default).added)

/-- The bytes of an unescaped block. -/
def partialSent (base pw : Nat) (as : List Acc) : List Byte :=
  leBytes 2 (unsigned 16 (partialExp base as)) ++ leBytes 2 0 ++ leBytes 4 (ofBits (partialNegZ as)) ++
    (List.range 32).flatMap (fun i =>
      leBytes (pwBytes pw) (unsigned (8 * pwBytes pw) ((as.map (fun a => a.w / 2 ^ partialLow as)).getD i 0)))

/-- Whether a block is sent unescaped. -/
def partialFits (pw : Nat) (as : List Acc) : Bool :=
  (as.map (fun a => a.w / 2 ^ partialLow as)).all
      (fun k => decide (-(2 ^ (8 * pwBytes pw - 1) : Int) ≤ k ∧ k < 2 ^ (8 * pwBytes pw - 1))) &&
    as.all (fun a => !a.nan && !a.pinf && !a.ninf)

theorem partialBlock_eq (base pw : Nat) (as : List Acc) :
    ∃ esc, partialBlock base pw as = if partialFits pw as then (partialSent base pw as, false) else (esc, true) := by
  have hw : 8 * pwBytes pw / 8 = pwBytes pw := Nat.mul_div_cancel_left _ (by decide)
  unfold partialBlock
  simp only [hw]
  exact ⟨_, rfl⟩

/-- What R61 asks of each sum of an unescaped block: its integer fits, and it is finite. -/
structure Acc.Fits (pw lo : Nat) (a : Acc) : Prop where
  lower : -(2 ^ (8 * pwBytes pw - 1)) ≤ a.w / 2 ^ lo
  upper : a.w / 2 ^ lo < 2 ^ (8 * pwBytes pw - 1)
  nan : a.nan = false
  pinf : a.pinf = false
  ninf : a.ninf = false

theorem Acc.Fits.of_partialFits {pw : Nat} {as : List Acc} (h : partialFits pw as = true) {a : Acc} (ha : a ∈ as) :
    a.Fits pw (partialLow as) := by
  simp only [partialFits, Bool.and_eq_true, List.all_eq_true, List.forall_mem_map, decide_eq_true_eq,
    Bool.not_eq_true'] at h
  obtain ⟨hrange, htags⟩ := h
  obtain ⟨hlo, hhi⟩ := hrange a ha
  obtain ⟨⟨hn, hp⟩, hm⟩ := htags a ha
  exact ⟨hlo, hhi, hn, hp, hm⟩

theorem partialBlock_unescaped {base pw : Nat} {as : List Acc} (h : (partialBlock base pw as).2 = false) :
    (partialBlock base pw as).1 = partialSent base pw as ∧ ∀ a ∈ as, a.Fits pw (partialLow as) := by
  obtain ⟨esc, heq⟩ := partialBlock_eq base pw as
  have hfits : partialFits pw as = true := by
    by_contra hf
    simp [heq, hf] at h
  exact ⟨by simp [heq, hfits], fun a ha => .of_partialFits hfits ha⟩

/-- A sum that is not zero is a multiple of the block's unit, and EXP is that unit's exponent. -/
theorem partialLow_of_ne_zero (base : Nat) {as : List Acc} {x : Acc} (hx : x ∈ as) (hw : x.w ≠ 0) :
    x.w / 2 ^ partialLow as * 2 ^ partialLow as = x.w ∧ partialLow as ≤ 2560 ∧
    partialExp base as = (partialLow as : Int) - base := by
  have hmem : lowBit 2560 x.w.natAbs ∈ partialLows as :=
    List.mem_map_of_mem (f := fun a : Acc => lowBit 2560 a.w.natAbs) (List.mem_filter.mpr ⟨hx, by simpa using hw⟩)
  have hle : partialLow as ≤ lowBit 2560 x.w.natAbs := (foldl_min_le _ _).2 _ hmem
  have hdvd : 2 ^ partialLow as ∣ x.w.natAbs := (Nat.pow_dvd_pow 2 hle).trans (two_pow_lowBit_dvd _ _)
  refine ⟨Int.ediv_mul_cancel ?_, hle.trans (lowBit_le _ _), ?_⟩
  · simpa using Int.natCast_dvd.mpr hdvd
  · rw [partialExp, if_neg]
    simpa using List.ne_nil_of_mem hmem

/-! What a newt reads from a block. -/

section Sent

variable {base pw i : Nat} {as : List Acc}

theorem partialSent_exp (hlo : -32768 ≤ partialExp base as) (hhi : partialExp base as < 32768) :
    signed 16 (fieldAt (partialSent base pw as) 0 2) = partialExp base as :=
  signed_fieldAt (p := []) (n := 2) (by simp only [partialSent, List.append_assoc, List.nil_append]; rfl) rfl (by decide) hlo hhi

theorem partialSent_negZ (hi : i < 32) :
    bitOf (fieldAt (partialSent base pw as) 4 4) i = decide (i ∈ partialNegZ as) := by
  have hfield : fieldAt (partialSent base pw as) 4 4 = ofBits (partialNegZ as) % 2 ^ 32 :=
    fieldAt_leBytes (n := 4) (by rw [partialSent, List.append_assoc]) (by simp)
  rw [hfield, bitOf_eq_testBit, Nat.testBit_mod_two_pow, ← bitOf_eq_testBit, bitOf_ofBits]
  simp [hi]

theorem partialSent_integer (hi : i < 32) (hlen : i < as.length) (hfits : as[i].Fits pw (partialLow as)) :
    signed (8 * pwBytes pw) (fieldAt (partialSent base pw as) (8 + i * pwBytes pw) (pwBytes pw)) =
      as[i].w / 2 ^ partialLow as := by
  obtain ⟨r, hcut⟩ := flatMap_range_cut (fun j =>
    leBytes (pwBytes pw) (unsigned (8 * pwBytes pw) ((as.map (fun a => a.w / 2 ^ partialLow as)).getD j 0))) hi
  have hget : (as.map (fun a => a.w / 2 ^ partialLow as)).getD i 0 = as[i].w / 2 ^ partialLow as := by simp [hlen]
  rw [hget] at hcut
  refine signed_fieldAt (r := r) (by rw [partialSent, hcut, ← List.append_assoc]) ?_ (by unfold pwBytes; positivity)
    hfits.lower hfits.upper
  simp [List.length_flatMap]
  omega

end Sent

theorem mem_partialNegZ {as : List Acc} {i : Nat} (hi : i < 32) (hlen : i < as.length) :
    i ∈ partialNegZ as ↔ as[i].w = 0 ∧ as[i].notNegZ = false ∧ as[i].added = true := by
  simp [partialNegZ, hi, hlen, and_assoc]

/-- An integer in units of 2^e, which is no finer than the register's, is added exactly. -/
theorem accAdd_intVal {base n : Nat} {e : Int} (a : Acc) (k : Int) (he : e + base = n) :
    accAdd base a (intVal k e) = { a with w := a.w + k * 2 ^ n, notNegZ := true, added := true } := by
  have hunits : toUnits base (decide (k < 0)) k.natAbs e = k * 2 ^ n := by
    rcases lt_or_ge k 0 with h | h
    · simp [toUnits, he, h, abs_of_neg h]
    · simp [toUnits, he, not_lt.mpr h, abs_of_nonneg h]
  have hsign : (decide (k < 0) && k.natAbs == 0) = false := by simp; omega
  simp [accAdd, intVal, hunits, hsign]

/-- The integer of an unescaped block as an addend: the sum itself, and no −0 (R61). -/
theorem accAdd_partialAddend (chain : Bool) {pw i : Nat} {as : List Acc} (free : Nat) (a : Acc) (hi : i < 32)
    (hlen : i < as.length) (hfits : as[i].Fits pw (partialLow as)) (hsize : as[i].w.natAbs < 2 ^ (2 * accBase chain)) :
    accAdd (accBase chain) a (partialAddend (accBase chain) pw (partialSent (accBase chain) pw as) free i) =
      { a with w := a.w + as[i].w, notNegZ := true, added := true } := by
  have hbase : accBase chain ≤ 1280 := by cases chain <;> decide
  generalize accBase chain = base at *
  unfold partialAddend
  rw [partialSent_integer hi hlen hfits]
  rcases eq_or_ne as[i].w 0 with hw | hw
  · simp [hw, accAdd]
  · obtain ⟨hmul, hlow, hexp⟩ := partialLow_of_ne_zero base (List.getElem_mem hlen) hw
    simp only [partialSent_exp (show -32768 ≤ partialExp base as by omega) (by omega), hexp]
    generalize as[i].w / 2 ^ partialLow as = k at *
    have hk : k ≠ 0 := by rintro rfl; exact hw (by simpa using hmul.symm)
    have hlog : k.natAbs.log2 + partialLow as < 2 * base := by
      rw [← hmul, Int.natAbs_mul, Int.natAbs_pow] at hsize
      rw [← Nat.pow_lt_pow_iff_right (a := 2) (by decide), Nat.pow_add]
      exact (Nat.mul_le_mul_right _ (Nat.log2_self_le (Int.natAbs_ne_zero.mpr hk))).trans_lt hsize
    rw [if_neg hk, if_neg (by omega), accAdd_intVal a k (n := partialLow as) (by omega), hmul]

/-- An unescaped block gives back each of its sums: the sum that takes it is as if joined with it (R61). -/
theorem partialAdd_partialBlock (chain : Bool) {pw i : Nat} {as : List Acc} (free : Nat) (a : Acc) (hi : i < 32)
    (hlen : i < as.length) (hsent : (partialBlock (accBase chain) pw as).2 = false)
    (hsize : as[i].w.natAbs < 2 ^ (2 * accBase chain)) (htags : as[i].Tagged) :
    partialAdd (accBase chain) pw (partialBlock (accBase chain) pw as).1 free a i = accJoin a as[i] := by
  obtain ⟨hblock, hall⟩ := partialBlock_unescaped hsent
  have hfits := hall _ (List.getElem_mem hlen)
  rw [hblock, partialAdd, accAdd_partialAddend chain free a hi hlen hfits hsize, partialSent_negZ hi]
  simp only [decide_eq_true_eq, mem_partialNegZ hi hlen, htags.added, and_true]
  split_ifs with hneg
  · simp [accJoin, hneg, hfits.nan, hfits.pinf, hfits.ninf, htags.added]
  · have hpos : as[i].notNegZ = true := by
      by_contra h
      exact hneg ⟨by_contra fun hw => h (htags.notNegZ hw), by simpa using h⟩
    simp [accJoin, hpos, hfits.nan, hfits.pinf, hfits.ninf, htags.added]

/-- Settles O51: an addend added is a sum joined, joins commute, and an unescaped block is read back sum by sum. -/
theorem sumsOrderIndependent : Obligations.SumsOrderIndependent := by
  unfold Obligations.SumsOrderIndependent
  refine ⟨fun base xs ys a h => ?_, foldl_accJoin_groups, ?_⟩
  · have hsum := foldl_accAdd_perm base h a
    exact ⟨hsum, congrArg (accVal base) hsum⟩
  · intro chain pw i free gs a _ hlen hi hgs base sums hsize hsent
    have hi' : i < gs.length := hlen ▸ hi
    have hs : i < sums.length := by simpa [sums] using hi'
    have hsum : sums[i] = gs[i].foldl (accAdd base) {} := by simp [sums]
    have htags : sums[i].Tagged := hsum ▸ foldl_accAdd_tagged base (hgs _ (List.getElem_mem hi')).1
    rw [partialAdd_partialBlock chain free a hi hs hsent (hsize _ (List.getElem_mem hs)) htags, hsum,
      ← foldl_accAdd_eq_accJoin, List.getD_eq_getElem _ _ hi']

end Sys2Proof.Machine
end

section
/-! Three statements of this family that fail, each at one concrete state. -/

namespace Sys2Proof.Machine

/-- A running chip with newt 9 at the first instruction `w` of its program. -/
def chipAtWord (w : Nat) (v : Newt) : State :=
  { State.reset with
    pins := { State.reset.pins with phase := .running }
    newts := [(9, { v with state := .run, progSize := 1, pond := memWrite [] 0 (leBytes 8 w) })] }

/-! A CMT is due on a chip that is not the commit chip. R94 has it issue before the abort: it leaves its collective in the newt's
COLL, so the request changes more than the messages that go out. -/

/-- Newt 9 works for collective 7, whose commit chip is chip 1 and not this one, and a CMT of it is at the newt's head. -/
def cmtDueElsewhere : State :=
  { chipAtWord (0xC * 2 ^ 58 + 7) { colls := [7], arrivals := [{ coll := 7, kind := 0, tile := 0, rank := 0, addr := 4096, len := 2 }] } with
    colls := [(7, { commitChip := 1 })] }

/-- A contribution cell on the bytes where one of `cmtDueElsewhere` has landed. -/
def cellAgain : LandCell :=
  { addr := 4096, lc := 5, data := [1, 2]
    tag := { coll := 7, kind := 0, tile := 0, rank := 0, offset := 0, stage := 0, last := false } }

theorem cmtDueElsewhere_wf : cmtDueElsewhere.Wf := by decide +kernel

theorem cmtDueElsewhere_pending : up cmtDueElsewhere = true ∧ drains cmtDueElsewhere 4 = false ∧
    unreported cmtDueElsewhere 7 = true ∧ (coll cmtDueElsewhere 7).state = .pending ∧
    (coll cmtDueElsewhere 7).commitChip ≠ cmtDueElsewhere.rte.coord := by decide +kernel

theorem cmtDueElsewhere_coll : (newt cmtDueElsewhere 9).coll = 0 := by decide +kernel

theorem abortArrives_cmtDueElsewhere_coll : (newt (abortArrives 7 0 {} cmtDueElsewhere) 9).coll = 7 := by decide +kernel

theorem landCell_cmtDueElsewhere_coll : (newt (landCell 9 cellAgain cmtDueElsewhere) 9).coll = 7 := by decide +kernel

theorem cellAgain_meets : collDead cmtDueElsewhere cellAgain.tag.coll = false ∧
    landBad (newt cmtDueElsewhere 9) (cellAgain.addr, cellAgain.data.length) = false ∧
    tget 0 (newt cmtDueElsewhere 9).lc cellAgain.lc + 1 < 2 ^ 32 ∧
    ∃ x ∈ (newt cmtDueElsewhere 9).arrivals, arrivalMeets cellAgain.tag cellAgain.addr cellAgain.data.length x = true := by
  decide +kernel

/-- Refutes O53: an abort request for a collective of another commit chip does not only go there. In `cmtDueElsewhere` a CMT is due
in that cycle, and it sets COLL of newt 9 before the request goes out. -/
theorem not_collectiveOutcomes : ¬ Obligations.CollectiveOutcomes := by
  unfold Obligations.CollectiveOutcomes
  intro ⟨hrequest, _⟩
  obtain ⟨hup, hdrain, hunrep, hpend, hchip⟩ := cmtDueElsewhere_pending
  obtain ⟨_, hsent, _⟩ := hrequest 7 0 {} cmtDueElsewhere cmtDueElsewhere_wf hup hdrain
  have hnext := Host.Outcome.next.inj ((whenUp_of_up (abortArrives 7 0 {}) hup).symm.trans (hsent hunrep hpend hchip))
  have hcoll := abortArrives_cmtDueElsewhere_coll
  rw [hnext] at hcoll
  exact absurd (cmtDueElsewhere_coll.symm.trans hcoll) (by decide)

/-- Refutes O49: a second arrival whose collective's commit chip is another does not leave every newt as it was. In
`cmtDueElsewhere` a CMT is due in that cycle, and it sets COLL of newt 9 before the abort request goes out. -/
theorem not_newtLandings : ¬ Obligations.NewtLandings := by
  unfold Obligations.NewtLandings
  intro ⟨hlanding, _⟩
  obtain ⟨hup, hdrain, hunrep, hpend, hchip⟩ := cmtDueElsewhere_pending
  obtain ⟨hlives, hgood, hcount, hmeets⟩ := cellAgain_meets
  obtain ⟨_, _, _, hagain⟩ := hlanding 9 cellAgain cmtDueElsewhere cmtDueElsewhere_wf hup
  obtain ⟨helsewhere, _, _⟩ := hagain hlives hgood hcount (.inl rfl) hmeets
  obtain ⟨t, hexec, hnewts, _⟩ := helsewhere hunrep hpend hchip hdrain
  have hnext : landCell 9 cellAgain cmtDueElsewhere = t :=
    Host.Outcome.next.inj ((whenUp_of_up (landCell 9 cellAgain) hup).symm.trans hexec)
  have hcoll := landCell_cmtDueElsewhere_coll
  rw [hnext, newt, hnewts] at hcoll
  exact absurd (cmtDueElsewhere_coll.symm.trans hcoll) (by decide)

/-! The order of the freed buffers is a table that `State.Wf` does not keep sorted, and a write to a table that is not sorted may
lose another key. -/

/-- Newt 9 is at its END and holds a buffer of the list of half 3; the table of freed buffers names half 3 before half 1. -/
def endWithOrderUnsorted : State :=
  { chipAtWord (1 * 2 ^ 58) {} with
    pool := { State.reset.pool with
      size := [(3, 1)], list := [(3, 8)], order := [(3, [0x200004000]), (1, [0x200008000])]
      bufs := [{ addr := 0x200000000, owner := 0x109, units := 64, half := 3 }] } }

theorem endWithOrderUnsorted_wf : endWithOrderUnsorted.Wf := by decide +kernel

theorem endWithOrderUnsorted_atHead : atHead endWithOrderUnsorted 9 1 ∧ headWord endWithOrderUnsorted 9 % 2 ^ 58 = 0 ∧
    allDone (newt endWithOrderUnsorted 9) = true ∧ endWithOrderUnsorted.lov.poison = [] := by
  unfold atHead; decide +kernel

theorem endHead_loses_order :
    (onHead 1 9 (endHead 9) endWithOrderUnsorted).pool.order = [(3, [0x200000000, 0x200004000])] := by
  decide +kernel

/-- Refutes O45: an END does not always keep the freed buffers of the halves whose buffers it does not free. In
`endWithOrderUnsorted`, which is well formed, it loses those of half 1. -/
theorem not_newtControl : ¬ Obligations.NewtControl := by
  unfold Obligations.NewtControl
  intro ⟨_, _, _, hend, _⟩
  obtain ⟨hat, hlow, hdone, hclean⟩ := endWithOrderUnsorted_atHead
  obtain ⟨t, hexec, _, _, _, _, _, hframe⟩ := (hend 9 endWithOrderUnsorted endWithOrderUnsorted_wf hat hlow).2 hdone
  have hnext : onHead 1 9 (endHead 9) endWithOrderUnsorted = t :=
    Host.Outcome.next.inj ((whenUp_of_up (onHead 1 9 (endHead 9)) hat.1).symm.trans hexec)
  obtain ⟨_, horder, _⟩ := hframe (by simp [hclean])
  have hhalf := horder 1
  rw [← hnext, endHead_loses_order] at hhalf
  revert hhalf
  decide +kernel

end Sys2Proof.Machine
end

section
/-! Newts at their head: what issuing an instruction leaves, how a work instruction is judged (R90 to R92), and the obligation
WorkIssues assembled from them. -/

namespace Sys2Proof.Machine

/-! Tables and newts written twice. -/

section Tables

variable {α : Type}

theorem takeWhile_lt_append {t u : Table α} {k : Nat} (ht : ∀ e ∈ t, e.1 < k) (hu : ∀ e ∈ u, k ≤ e.1) :
    (t ++ u).takeWhile (fun e => decide (e.1 < k)) = t := by
  rw [List.takeWhile_append_of_pos (by simpa using ht)]
  cases u with
  | nil => simp
  | cons e r => simp [Nat.not_lt.mpr (hu e (by simp))]

theorem dropWhile_le_append {t u : Table α} {k : Nat} (ht : ∀ e ∈ t, e.1 ≤ k) (hu : ∀ e ∈ u, k < e.1) :
    (t ++ u).dropWhile (fun e => decide (e.1 ≤ k)) = u := by
  rw [List.dropWhile_append_of_pos (by simpa using ht)]
  cases u with
  | nil => rfl
  | cons e r => simp [Nat.not_le.mpr (hu e (by simp))]

/-- Of two writes at one key the later one stands. -/
theorem tset_tset [DecidableEq α] (d : α) {t : Table α} (ht : tsorted t) (k : Nat) (v w : α) :
    tset d (tset d t k v) k w = tset d t k w := by
  have hlow : ∀ e ∈ t.takeWhile (fun e => decide (e.1 < k)), e.1 < k := fun e he => by simpa using mem_takeWhile_key he
  have hhigh : ∀ e ∈ t.dropWhile (fun e => decide (e.1 ≤ k)), k < e.1 := fun e he => mem_dropWhile_le ht he
  have hmid : ∀ e ∈ (if v = d then [] else [(k, v)] : Table α), e.1 = k := by
    intro e he
    split at he <;> simp_all
  unfold tset
  congr 1
  · congr 1
    rw [List.append_assoc, takeWhile_lt_append hlow]
    intro e he
    rcases List.mem_append.mp he with he | he
    · exact (hmid e he).ge
    · exact (hhigh e he).le
  · refine dropWhile_le_append ?_ hhigh
    intro e he
    rcases List.mem_append.mp he with he | he
    · exact (hlow e he).le
    · exact (hmid e he).le

end Tables

theorem setNewt_setNewt {s : State} (hs : tsorted s.newts) (n : Nat) (v w : Newt) :
    setNewt n w (setNewt n v s) = setNewt n w s := by
  simp only [setNewt, tset_tset _ hs]

theorem State.Wf.newts_sorted {s : State} (h : s.Wf) : tsorted s.newts := by
  obtain ⟨-, ⟨hnewts, -⟩, -⟩ := h
  exact hnewts

/-! The instruction at the head. -/

section Head

variable {n opc : Nat} {s : State}

theorem onHead_of_atHead (f : Nat → State → State) (hat : atHead s n opc) : onHead opc n f s = f (headWord s n) s := by
  obtain ⟨-, hmay, hopc⟩ := hat
  have hopc' : iOpc (wordAt (newt s n) (newt s n).pc) = opc := hopc
  simp [onHead, hmay, hopc', headWord]

/-- A command of the instruction at the head has the head's effect. -/
theorem exec_of_atHead {c : Instr} {f : Nat → State → State} (hc : exec c s = whenUp (onHead opc n f) s) (hat : atHead s n opc) :
    exec c s = .next (f (headWord s n) s) := by
  rw [hc, whenUp_of_up _ hat.1, onHead_of_atHead f hat]

/-- An instruction whose next one lies in the program region issues (R90, R98). -/
theorem issued_of_goesOn (hgo : goesOn (newt s n)) : issued n s = setNewt n (afterIssue (croak s) (newt s n)) s := by
  unfold goesOn at hgo
  simp only [issued, if_pos hgo]
  rfl

theorem issued_setNewt (hs : tsorted s.newts) {v : Newt} (hgo : goesOn v) :
    issued n (setNewt n v s) = setNewt n (afterIssue (croak s) v) s := by
  have hv : newt (setNewt n v s) n = v := newt_setNewt n v s hs
  rw [issued_of_goesOn (by rwa [hv]), hv, setNewt_setNewt hs]
  rfl

end Head

/-! Work instructions (R90 to R92, log 40). -/

/-- An accepted instruction as the newt holds it until it completes. -/
def heldWork (now : Nat) (v : Newt) (ob : Nat) (k : Work) (ps : List Packet) : Inflight :=
  { pc := v.pc, groups := k.groups, reads := k.reads, writes := k.writes, occupancy := k.occ, issuedAt := now
    due := now + k.occ + k.lat, land := k.land, asb := k.asb, packets := ps, newEscapes := k.newEsc
    dropEscapes := k.dropEsc, clearArrivals := k.slots, ob := ob, coll := k.coll }

/-- A newt that holds an accepted instruction. -/
def withWork (now : Nat) (v : Newt) (w ob : Nat) (k : Work) (ps : List Packet) : Newt :=
  { v with
    inflight := v.inflight ++ [heldWork now v ob k ps]
    coll := if iOpc w = 0x11 then v.coll else k.coll
    wr := (k.regs.map (·.1)).getD v.wr, held := (k.regs.map (·.2)).getD v.held
    wrAdds := if k.regs.isSome then k.adds else v.wrAdds
    asbOf := match k.asb with
      | none => v.asbOf
      | some (a, _) => tset 0 v.asbOf k.coll a }

theorem issueWork_eq {n : Nat} {s : State} (hs : tsorted s.newts) (hgo : goesOn (newt s n)) (w ob : Nat) (k : Work)
    (ps : List Packet) : issueWork n w ob k ps s =
      { setNewt n (afterIssue (croak s) (withWork (croak s) (newt s n) w ob k ps)) s with free := s.free + k.free } :=
  issued_setNewt (s := { s with free := s.free + k.free }) (v := withWork (croak s) (newt s n) w ob k ps) hs hgo

theorem newt_issueWork {n : Nat} {s : State} (hs : tsorted s.newts) (hgo : goesOn (newt s n)) (w ob : Nat) (k : Work)
    (ps : List Packet) :
    newt (issueWork n w ob k ps s) n = afterIssue (croak s) (withWork (croak s) (newt s n) w ob k ps) := by
  rw [issueWork_eq hs hgo]
  exact newt_setNewt n _ s hs

theorem newt_issueWork_other {n m : Nat} {s : State} (hs : tsorted s.newts) (hgo : goesOn (newt s n)) (w ob : Nat) (k : Work)
    (ps : List Packet) (hm : m ≠ n) : newt (issueWork n w ob k ps s) m = newt s m := by
  rw [issueWork_eq hs hgo]
  exact newt_setNewt_other n m _ s hs hm

theorem issueWork_frame {n : Nat} {s : State} (hs : tsorted s.newts) (hgo : goesOn (newt s n)) (w ob : Nat) (k : Work)
    (ps : List Packet) : issueWork n w ob k ps s =
      { s with newts := (issueWork n w ob k ps s).newts, free := (issueWork n w ob k ps s).free } := by
  rw [issueWork_eq hs hgo]
  rfl

section WorkHead

variable {n w : Nat} {f : State → Newt → Nat → Nat → Except Nat Work} {pk : State → Newt → Nat → State × List Packet} {s : State}

theorem workHead_reserved (hw : fmtAOk w = false) : workHead n w f pk s = headErr n 0x0905 s := by
  simp [workHead, hw]

theorem workHead_judged_busy (hw : fmtAOk w = true)
    (hj : rangeBusy (newt s n) (judged (newt s n) w (obAddr (newt s n) w)) [] = true) : workHead n w f pk s =
      stallHead n (if headBusy s (newt s n) w (obAddr (newt s n) w) then 4 else 5) s := by
  simp [workHead, hw, hj]

theorem workHead_refused (hw : fmtAOk w = true)
    (hj : rangeBusy (newt s n) (judged (newt s n) w (obAddr (newt s n) w)) [] = false) {code : Nat}
    (hf : f s (newt s n) w (obAddr (newt s n) w) = .error code) : workHead n w f pk s =
      if headBusy s (newt s n) w (obAddr (newt s n) w) then stallHead n 4 s else headErr n code s := by
  simp [workHead, hw, hj, hf]

/-- An accepted instruction waits for its escape records, its units and its ranges, and then issues. -/
theorem workHead_accepted (hw : fmtAOk w = true)
    (hj : rangeBusy (newt s n) (judged (newt s n) w (obAddr (newt s n) w)) [] = false) {k : Work}
    (hf : f s (newt s n) w (obAddr (newt s n) w) = .ok k) : workHead n w f pk s =
      if k.dropEsc.any (fun e => (escFind (newt s n) e.1 e.2.1 e.2.2.1 e.2.2.2).isNone) then stallHead n 3 s
      else if k.groups.any (unitBusy s (newt s n)) then stallHead n 4 s
      else if rangeBusy (newt s n) k.reads k.writes then stallHead n 5 s
      else issueWork n w (obAddr (newt s n) w) k (pk s (newt s n) (obAddr (newt s n) w)).2
        (pk s (newt s n) (obAddr (newt s n) w)).1 := by
  simp [workHead, hw, hj, hf]

end WorkHead

/-- Each work instruction at the head is judged by its own checks and takes its own packets. -/
theorem exec_work {c : Instr} {opc : Nat} {f : State → Newt → Nat → Nat → Except Nat Work}
    {ps : State → Newt → Nat → List Packet} {n : Fin 2048} {s : State} (hat : atHead s n.val opc)
    (hc : (c = .send n ∧ opc = 0x10 ∧ f = sendWork ∧ ps = (fun s v ob => (sendPackets n.val s v ob).2)) ∨
      (c = .copy n ∧ opc = 0x11 ∧ f = copyWork ∧ ps = (fun _ _ _ => [])) ∨
      (c = .red n ∧ opc = 0x18 ∧ f = redWork ∧ ps = (fun _ _ _ => [])) ∨
      (c = .ctr n ∧ opc = 0x19 ∧ f = ctrWork ∧ ps = (fun _ _ _ => [])) ∨
      (c = .epi n ∧ opc = 0x1A ∧ f = epiWork ∧ ps = (fun _ _ _ => []))) :
    exec c s = .next (workHead n.val (headWord s n.val) f (fun s v ob => (s, ps s v ob)) s) := by
  rcases hc with ⟨rfl, rfl, rfl, rfl⟩ | ⟨rfl, rfl, rfl, rfl⟩ | ⟨rfl, rfl, rfl, rfl⟩ | ⟨rfl, rfl, rfl, rfl⟩ | ⟨rfl, rfl, rfl, rfl⟩
  · exact exec_of_atHead (f := fun w => workHead n.val w sendWork (sendPackets n.val)) rfl hat
  · exact exec_of_atHead (f := fun w => workHead n.val w copyWork noPackets) rfl hat
  · exact exec_of_atHead (f := fun w => workHead n.val w redWork noPackets) rfl hat
  · exact exec_of_atHead (f := fun w => workHead n.val w ctrWork noPackets) rfl hat
  · exact exec_of_atHead (f := fun w => workHead n.val w epiWork noPackets) rfl hat

/-- Settles O47: the conditions of issue in their order, and what an accepted instruction leaves in its newt. -/
theorem workIssues : Obligations.WorkIssues := by
  unfold Obligations.WorkIssues
  intro c opc f ps n s hwf hat hgo hc
  dsimp only
  have hs := hwf.newts_sorted
  rw [exec_work hat hc]
  refine ⟨fun hw => ?_, fun hw hj => ?_, fun hw hj => ⟨fun code hf hb => ?_, fun code hf hb => ?_, fun k hf => ?_⟩⟩
  · rw [workHead_reserved hw]; rfl
  · rw [workHead_judged_busy hw hj]; rfl
  · rw [workHead_refused hw hj hf, if_pos hb]; rfl
  · rw [workHead_refused hw hj hf, hb]; rfl
  · rw [workHead_accepted hw hj hf]
    refine ⟨fun hl => ?_, fun hl hu => ?_, fun hl hu hr => ?_, fun hl hu hr => ?_⟩
    · rw [if_pos hl]; rfl
    · rw [hl, if_neg Bool.false_ne_true, if_pos hu]; rfl
    · rw [hl, hu, if_neg Bool.false_ne_true, if_neg Bool.false_ne_true, if_pos hr]; rfl
    · rw [hl, hu, hr, if_neg Bool.false_ne_true, if_neg Bool.false_ne_true, if_neg Bool.false_ne_true]
      refine ⟨_, heldWork (croak s) (newt s n.val) (obAddr (newt s n.val) (headWord s n.val)) k (ps s (newt s n.val)
        (obAddr (newt s n.val) (headWord s n.val))), rfl, ?_⟩
      rw [newt_issueWork hs hgo]
      refine ⟨rfl, rfl, rfl, rfl, rfl, rfl, rfl, rfl, rfl, rfl, rfl, rfl, rfl, rfl, fun r hr => ?_, fun hr => ?_,
        fun m hm => newt_issueWork_other hs hgo _ _ k _ hm, issueWork_frame hs hgo _ _ k _⟩
      · simp [afterIssue, withWork, hr]
      · simp [afterIssue, withWork, hr]

end Sys2Proof.Machine
end

section
/-! COPY and the wide-register instructions, issued and completed (R91, R92, R113, R114), and the obligation MovesComplete
assembled from them. -/

namespace Sys2Proof.Machine

/-! Bytes of a memory read one by one. -/

/-- Dropping the keys below an address leaves the bytes from it on. -/
theorem memByte_dropWhile (m : Mem) {a k : Nat} (h : a ≤ k) : memByte (m.dropWhile (fun e => decide (e.1 < a))) k = memByte m k := by
  induction m with
  | nil => rfl
  | cons e r ih =>
    obtain ⟨i, v⟩ := e
    rw [List.dropWhile_cons]
    split
    · rename_i hi
      simp only [decide_eq_true_eq] at hi
      rw [ih, memByte, memByte, tget_cons, if_neg (by omega)]
    · rfl

/-- A read takes the byte at its address, and goes on past it. -/
theorem memRead_succ {m : Mem} (hm : tsorted m) (a n : Nat) :
    memRead m a (n + 1) = memByte m a :: memRead (m.dropWhile (fun e => decide (e.1 < a))) (a + 1) n := by
  rw [← memByte_dropWhile m le_rfl, memRead]
  have hsorted := tsorted_dropWhile (p := fun e : Nat × Byte => decide (e.1 < a)) hm
  have hkeys : ∀ e ∈ m.dropWhile (fun e => decide (e.1 < a)), a ≤ e.1 := fun e he => mem_dropWhile_lt hm he
  generalize m.dropWhile (fun e => decide (e.1 < a)) = r at *
  cases r with
  | nil => rfl
  | cons e r =>
    obtain ⟨k, v⟩ := e
    suffices h : (if k = a then v else 0) = memByte ((k, v) :: r) a by rw [← h]
    rw [memByte, tget_cons]
    refine if_congr Iff.rfl rfl (tget_absent 0 r a fun e he => ?_).symm
    have hka : k < e.1 := List.rel_of_pairwise_cons hsorted he
    have := hkeys (k, v) (by simp)
    omega

theorem memRead_eq_map {m : Mem} (hm : tsorted m) (a n : Nat) :
    memRead m a n = (List.range n).map (fun i => memByte m (a + i)) := by
  induction n generalizing m a with
  | zero => rfl
  | succ n ih =>
    rw [memRead_succ hm, ih (tsorted_dropWhile hm), List.range_succ_eq_map, List.map_cons, List.map_map]
    refine congrArg (memByte m a :: ·) (List.map_congr_left fun i _ => ?_)
    rw [memByte_dropWhile m (by omega)]
    exact congrArg _ (by omega)

@[simp] theorem pondRead_length {v : Newt} (hv : tsorted v.pond) (a n : Nat) : (pondRead v a n).length = n := by
  simp [pondRead, memRead_eq_map hv]

theorem pondRead_getD {v : Newt} (hv : tsorted v.pond) (a : Nat) {n i : Nat} (hi : i < n) :
    (pondRead v a n).getD i 0 = memByte v.pond (a + i) := by
  simp [pondRead, memRead_eq_map hv, hi]

theorem State.Wf.pond_sorted {s : State} (h : s.Wf) (n : Nat) : tsorted (newt s n).pond := by
  obtain ⟨hmem, -, -⟩ := h
  simp only [State.memOk, Bool.and_eq_true, List.all_eq_true] at hmem
  rw [newt]
  generalize hv : tget {} s.newts n = v
  have hmem' : v = {} ∨ ∃ e ∈ s.newts, e.2 = v := by
    rw [← hv]
    clear hv hmem
    induction s.newts with
    | nil => exact .inl rfl
    | cons e r ih =>
      obtain ⟨i, w⟩ := e
      rw [tget_cons]
      split
      · exact .inr ⟨(i, w), by simp, rfl⟩
      · exact ih.imp id fun ⟨e, he, hev⟩ => ⟨e, by simp [he], hev⟩
  rcases hmem' with rfl | ⟨e, he, rfl⟩
  · exact List.Pairwise.nil
  · exact ((twf_iff 0 _).mp (hmem.2 e he)).1

/-! An instruction that is alone in its newt completes. -/

section Lone

variable {n pc : Nat} {s : State} {i : Inflight}

theorem complete_early (hi : (newt s n).inflight = [i]) (hdue : croak s < i.due) : complete n pc s = s := by
  simp [complete, hi, Nat.not_le.mpr hdue]

/-- An instruction that only writes the pond lands its bytes, and a COPY takes the places of its bytes along (R102). -/
theorem complete_lone (hs : tsorted s.newts) (hi : (newt s n).inflight = [i]) (hpc : i.pc = pc) (hdue : i.due ≤ croak s)
    (habort : (newt s n).abortPend = false) (hsig : i.sigObj = none) (hasb : i.asb = none) (hpackets : i.packets = [])
    (hnew : i.newEscapes = []) (hdrop : i.dropEscapes = []) (hclear : i.clearArrivals = []) :
    ∃ es ps, complete n pc s = setNewt n { newt s n with
      pond := i.land.foldl (fun m e => memWrite m e.1 e.2) (newt s n).pond, inflight := [], escapes := es, partAt := ps } s := by
  have hland : ∀ (l : List (Nat × List Byte)) (v : Newt), l.foldl (fun t e => pondWrite e.1 e.2 t) v =
      { v with pond := l.foldl (fun m e => memWrite m e.1 e.2) v.pond } := by
    intro l
    induction l with
    | nil => intro v; rfl
    | cons e r ih => intro v; simp only [List.foldl_cons, ih]; rfl
  have hfind : (newt s n).inflight.find? (fun j => j.pc == pc && j.sigObj.isNone && decide (j.due ≤ croak s)) = some i := by
    simp [hi, hpc, hsig, hdue]
  have hrest : (newt s n).inflight.erase i = [] := by simp [hi]
  have hfree : (newt s n).arrivals.filter (fun b => !i.clearArrivals.any (fun r => rangesMeet r (b.addr, b.len))) =
      (newt s n).arrivals := by simp [hclear]
  simp only [complete, hfind, hland, hrest, hfree, hasb, sendLeave, hpackets, escDrop, hdrop, hnew, List.foldl_nil]
  split
  all_goals
    simp only [escCopy, modNewt, newt_setNewt n _ _ hs, setNewt_setNewt hs, List.length_nil, sigPump, abortFinish, habort,
      Bool.false_and, Bool.false_eq_true, if_false]
    exact ⟨_, _, rfl⟩

end Lone

/-! An instruction that is alone in its newt, from its issue to its completion. -/

/-- A state with nothing but its croak count changed. -/
def atCroak (c : Nat) (s : State) : State := { s with sch := { s.sch with croak := c } }

theorem memByte_memWrite {m : Mem} (hm : tsorted m) (a : Nat) (bs : List Byte) (k : Nat) :
    memByte (memWrite m a bs) k = if a ≤ k ∧ k < a + bs.length then bs.getD (k - a) 0 else memByte m k := by
  split
  · next h => exact memByte_memWrite_in hm a bs k h.1 h.2
  · next h => exact memByte_memWrite_out hm a bs k (by omega)

section Alone

variable {n w ob c : Nat} {s : State} {k : Work}

theorem rangeBusy_alone {v : Newt} (hin : v.inflight = []) (reads writes : List (Nat × Nat)) :
    rangeBusy v reads writes = false := by
  simp [rangeBusy, hin]

theorem unitBusy_alone {v : Newt} (hin : v.inflight = []) (g : UnitGroup) : unitBusy s v g = false := by
  simp [unitBusy, hin]

/-- An accepted instruction of a newt with nothing in progress issues. -/
theorem workHead_alone {f : State → Newt → Nat → Nat → Except Nat Work} (hin : (newt s n).inflight = []) (hw : fmtAOk w = true)
    (hf : f s (newt s n) w (obAddr (newt s n) w) = .ok k) (hdrop : k.dropEsc = []) :
    workHead n w f noPackets s = issueWork n w (obAddr (newt s n) w) k [] s := by
  rw [workHead_accepted hw (rangeBusy_alone hin _ _) hf, hdrop, rangeBusy_alone hin]
  simp [noPackets, unitBusy_alone hin]

/-- A WSV or WLD in range of a newt with nothing in progress issues. -/
theorem saveHead_alone {k : Newt → Work} (hin : (newt s n).inflight = []) (hw : fmtXOk w = true)
    (hrange : inGeneral (newt s n) (iAddr w, 96 * iNr w) = true)
    (hrecords : iOpc w = 0x22 → ∀ i, i < iNr w → allZero (pondRead (newt s n) (iAddr w + 96 * i + 81) 15) = true ∧
      pondNat (newt s n) (iAddr w + 96 * i + 80) 1 < 32) :
    saveHead n w k s = issueWork n w 0 { k (newt s n) with coll := (newt s n).coll } [] s := by
  unfold saveHead
  simp only [hw, hrange, unitBusy_alone hin, rangeBusy_alone hin, Bool.not_true, Bool.false_eq_true, if_false]
  refine if_neg ?_
  simp only [List.any_eq_true, List.mem_range, not_and, not_exists, Bool.or_eq_true, Bool.not_eq_true', decide_eq_true_eq]
  rintro hop i hi
  obtain ⟨hzero, htags⟩ := hrecords hop i hi
  simp [hzero, htags]

/-- What an instruction that only writes the pond leaves once it has completed, alone in its newt. -/
structure Completed (n : Nat) (k : Work) (s t later u : State) : Prop where
  pond : (newt u n).pond = k.land.foldl (fun m e => memWrite m e.1 e.2) (newt s n).pond
  inflight : (newt u n).inflight = []
  pc : (newt u n).pc = (afterIssue (croak s) (newt s n)).pc
  wr : (newt u n).wr = (newt t n).wr
  held : (newt u n).held = (newt t n).held
  other : ∀ m, m ≠ n → newt u m = newt s m
  frame : u = { later with newts := u.newts }

section Issued

variable (hs : tsorted s.newts) (hgo : goesOn (newt s n)) (hin : (newt s n).inflight = [])

include hs hgo hin

theorem issueWork_inflight : (newt (issueWork n w ob k [] s) n).inflight = [heldWork (croak s) (newt s n) ob k []] := by
  rw [newt_issueWork hs hgo]
  simp [afterIssue, withWork, hin]

theorem complete_issueWork_early (hearly : c < croak s + k.occ + k.lat) :
    complete n (newt s n).pc (atCroak c (issueWork n w ob k [] s)) = atCroak c (issueWork n w ob k [] s) :=
  complete_early (issueWork_inflight hs hgo hin) hearly

/-- An instruction that only writes the pond, issued in a newt with nothing in progress, lands its bytes once its cycles have
passed (R113). -/
theorem complete_issueWork (habort : (newt s n).abortPend = false) (hasb : k.asb = none) (hnew : k.newEsc = [])
    (hdrop : k.dropEsc = []) (hslots : k.slots = []) (hdue : croak s + k.occ + k.lat ≤ c) :
    Completed n k s (issueWork n w ob k [] s) (atCroak c (issueWork n w ob k [] s))
      (complete n (newt s n).pc (atCroak c (issueWork n w ob k [] s))) := by
  have hnewt := newt_issueWork hs hgo w ob k []
  have hsorted : tsorted (atCroak c (issueWork n w ob k [] s)).newts := by
    rw [issueWork_eq hs hgo]
    exact tsorted_tset _ hs _ _
  have hpond : (newt (issueWork n w ob k [] s) n).pond = (newt s n).pond := by rw [hnewt]; rfl
  have hpc : (newt (issueWork n w ob k [] s) n).pc = (afterIssue (croak s) (newt s n)).pc := by rw [hnewt]; rfl
  have habort' : (newt (issueWork n w ob k [] s) n).abortPend = false := by rw [hnewt]; exact habort
  obtain ⟨es, ps, h⟩ := complete_lone (s := atCroak c (issueWork n w ob k [] s)) (pc := (newt s n).pc) hsorted
    (issueWork_inflight hs hgo hin) rfl hdue habort' rfl hasb rfl hnew hdrop hslots
  rw [h]
  have hself := newt_setNewt n { newt (atCroak c (issueWork n w ob k [] s)) n with
    pond := (heldWork (croak s) (newt s n) ob k []).land.foldl (fun m e => memWrite m e.1 e.2)
      (newt (atCroak c (issueWork n w ob k [] s)) n).pond, inflight := [], escapes := es, partAt := ps } _ hsorted
  constructor
  case other => exact fun m hm => (newt_setNewt_other n m _ _ hsorted hm).trans (newt_issueWork_other hs hgo w ob k [] hm)
  case frame => rfl
  all_goals rw [hself]
  case pond => rw [← hpond]; rfl
  case pc => exact hpc
  all_goals rfl

end Issued

/-- An instruction that only writes the pond is held until its cycles have passed, and then completes. -/
theorem exec_complete_alone {n : Fin 2048} {w ob : Nat} {s : State} {k : Work} (hs : tsorted s.newts) (hup : up s = true)
    (hgo : goesOn (newt s n.val)) (hin : (newt s n.val).inflight = []) (habort : (newt s n.val).abortPend = false)
    (hasb : k.asb = none) (hnew : k.newEsc = []) (hdrop : k.dropEsc = []) (hslots : k.slots = []) {later : State}
    (hlater : later = { issueWork n.val w ob k [] s with
      sch := { (issueWork n.val w ob k [] s).sch with croak := later.sch.croak } }) :
    (later.sch.croak < croak s + k.occ + k.lat → exec (.newtInstructionComplete n (newt s n.val).pc) later = .next later) ∧
    (croak s + k.occ + k.lat ≤ later.sch.croak → ∃ u, exec (.newtInstructionComplete n (newt s n.val).pc) later = .next u ∧
      Completed n.val k s (issueWork n.val w ob k [] s) later u) := by
  obtain ⟨c, rfl⟩ : ∃ c, later = atCroak c (issueWork n.val w ob k [] s) := ⟨_, hlater⟩
  have hlive : up (atCroak c (issueWork n.val w ob k [] s)) = true := by rw [issueWork_eq hs hgo]; exact hup
  refine ⟨fun hearly => (whenUp_of_up _ hlive).trans (congrArg _ (complete_issueWork_early hs hgo hin hearly)), fun hdue => ?_⟩
  exact ⟨_, whenUp_of_up _ hlive, complete_issueWork hs hgo hin habort hasb hnew hdrop hslots hdue⟩

end Alone

/-! Save records (Table 3-11). -/

@[simp] theorem saveRecord_length (r : WReg) : (saveRecord r).length = 96 := by
  simp [saveRecord, zeros]

theorem loadRecord_saveRecord (r : WReg) : loadRecord (saveRecord r) = r := by
  have hw : fieldAt (saveRecord r) 0 80 = r.w.toNat := by
    have hfield : fieldAt (saveRecord r) 0 80 = r.w.toNat % 2 ^ (8 * 80) :=
      fieldAt_leBytes (p := []) (by rw [saveRecord, List.append_assoc, List.nil_append]) rfl
    rw [hfield, Nat.mod_eq_of_lt r.w.isLt]
  have ht : fieldAt (saveRecord r) 80 1 = accTags (regAcc r) % 2 ^ 8 :=
    fieldAt_leBytes (by rw [saveRecord, List.append_assoc]) (leBytes_length _ _)
  obtain ⟨w, nan, pinf, ninf, notNegZ, added⟩ := r
  have htags : ∀ a b c d e : Bool, let t := accTags { w := w.toInt, nan := a, pinf := b, ninf := c, notNegZ := d, added := e } % 2 ^ 8
      bitOf t 0 = a ∧ bitOf t 1 = b ∧ bitOf t 2 = c ∧ bitOf t 3 = d ∧ bitOf t 4 = e := by
    simp only [accTags]
    decide
  obtain ⟨h0, h1, h2, h3, h4⟩ := htags nan pinf ninf notNegZ added
  simp only [loadRecord, hw, ht, regAcc, h0, h1, h2, h3, h4, BitVec.ofNat_toNat, BitVec.setWidth_eq]

/-- Byte `j` of a row of fields of one size. -/
theorem getD_flatMap_range {f : Nat → List Byte} {m : Nat} (hf : ∀ i, (f i).length = m) {n j : Nat} (hj : j < m * n) :
    ((List.range n).flatMap f).getD j 0 = (f (j / m)).getD (j % m) 0 := by
  have hm : 0 < m := Nat.pos_of_ne_zero (by rintro rfl; simp at hj)
  obtain ⟨r, hr⟩ := flatMap_range_cut f (Nat.div_lt_of_lt_mul hj)
  have hlen : ((List.range (j / m)).flatMap f).length = m * (j / m) := by simp [List.length_flatMap, hf, Nat.mul_comm]
  have hdiv := Nat.div_add_mod j m
  rw [hr, List.getD_append_right _ _ _ _ (by omega), hlen, List.getD_append _ _ _ _ (by rw [hf]; have := Nat.mod_lt j hm; omega)]
  congr 1
  omega

/-- A table without the keys that `q` refuses. -/
theorem tget_filter {α : Type} (d : α) (t : Table α) (q : Nat → Bool) (k : Nat) :
    tget d (t.filter (fun e => q e.1)) k = if q k then tget d t k else d := by
  induction t with
  | nil => simp
  | cons e r ih =>
    obtain ⟨i, v⟩ := e
    rw [List.filter_cons, tget_cons]
    rcases eq_or_ne i k with rfl | hik
    · cases hq : q i <;> simp [hq, tget_cons, ih]
    · cases q i <;> simp [tget_cons, hik, ih]

/-- A row of writes to the keys from `b` on leaves the keys outside it alone. -/
theorem tget_foldl_tset {α : Type} [DecidableEq α] (d : α) (b : Nat) (g : Nat → α) {t : Table α} (ht : tsorted t) (n k : Nat) :
    tsorted ((List.range n).foldl (fun t i => tset d t (b + i) (g i)) t) ∧
    tget d ((List.range n).foldl (fun t i => tset d t (b + i) (g i)) t) k = if b ≤ k ∧ k < b + n then g (k - b) else tget d t k := by
  induction n with
  | zero => exact ⟨ht, (if_neg (by omega)).symm⟩
  | succ n ih =>
    obtain ⟨hsorted, hget⟩ := ih
    rw [List.range_succ, List.foldl_append]
    refine ⟨tsorted_tset d hsorted _ _, ?_⟩
    simp only [List.foldl_cons, List.foldl_nil]
    rcases eq_or_ne k (b + n) with rfl | hk
    · rw [tget_tset_self d hsorted, if_pos (by omega), Nat.add_sub_cancel_left]
    · rw [tget_tset_other d hsorted _ _ _ hk, hget]
      exact if_congr (by omega) rfl rfl

/-! The clauses of MovesComplete. -/

theorem copyWork_ok {s : State} {v : Newt} {w ob : Nat} {k : Work} (h : copyWork s v w ob = .ok k) :
    k = { reads := [(ob, 64), (pondNat v ob 4, pondNat v (ob + 4) 4)], writes := [(pondNat v (ob + 8) 4, pondNat v (ob + 4) 4)]
          groups := [.moveUnit], occ := (pondNat v (ob + 4) 4 + 255) / 256, lat := 4
          land := [(pondNat v (ob + 8) 4, pondRead v (pondNat v ob 4) (pondNat v (ob + 4) 4))] } := by
  unfold copyWork at h
  dsimp only at h
  split at h
  · cases h
  · split at h
    · cases h
    · split at h
      · cases h
      · exact (Except.ok.inj h).symm

/-- The byte at `a` after the save records from register `rb` on have been stored at `p`. -/
theorem memByte_saved {m : Mem} (hm : tsorted m) (p rb nr a : Nat) (wr : Table WReg) :
    memByte (memWrite m p ((List.range nr).flatMap (fun i => saveRecord (tget {} wr (rb + i))))) a =
      if p ≤ a ∧ a < p + 96 * nr then (saveRecord (tget {} wr (rb + (a - p) / 96))).getD ((a - p) % 96) 0 else memByte m a := by
  have hlen : ((List.range nr).flatMap (fun i => saveRecord (tget {} wr (rb + i)))).length = 96 * nr := by
    simp [List.length_flatMap, Nat.mul_comm]
  rw [memByte_memWrite hm, hlen]
  split
  · next h => exact getD_flatMap_range (fun i => saveRecord_length _) (by omega)
  · rfl

/-- A WCLR in range whose unit is free issues, and clears its registers (R92). -/
theorem wclrHead_issues {n w : Nat} {s : State} (hs : tsorted s.newts) (hgo : goesOn (newt s n)) (hw : fmtXOk w = true)
    (hlow : bits w 44 31 = 0) (hunit : unitBusy s (newt s n) .register = false) :
    wclrHead n w s = setNewt n (afterIssue (croak s) { newt s n with
      wr := (newt s n).wr.filter (fun e => decide (e.1 < iRb w ∨ iRb w + iNr w ≤ e.1))
      wrAdds := (newt s n).wrAdds.filter (fun e => decide (e.1 < iRb w ∨ iRb w + iNr w ≤ e.1))
      held := (newt s n).held && iNr w != 64 }) s := by
  rw [wclrHead]
  simp only [hw, hlow, hunit, Bool.not_true, Bool.false_eq_true, false_or, ne_eq, not_true_eq_false, if_false]
  exact issued_setNewt hs hgo

/-- Settles O48: an instruction that is alone in its newt issues, and lands its bytes once its cycles have passed. -/
theorem movesComplete : Obligations.MovesComplete := by
  unfold Obligations.MovesComplete
  refine ⟨?copy, ?wclr, ?wsv, ?wld, loadRecord_saveRecord⟩
  case copy =>
    intro n k s hwf hat hgo hin
    dsimp only
    intro habort hw hk
    have hpond := hwf.pond_sorted n.val
    have hmove := copyWork_ok hk
    refine ⟨_, (exec_of_atHead (f := fun w => workHead n.val w copyWork noPackets) rfl hat).trans
      (congrArg _ (workHead_alone hin hw hk (by rw [hmove]))), fun later => ?_⟩
    have hdone (h) := exec_complete_alone (later := later) (w := headWord s n.val) (ob := obAddr (newt s n.val) (headWord s n.val))
      (k := k) hwf.newts_sorted hat.1 hgo hin habort (by rw [hmove]) (by rw [hmove]) (by rw [hmove]) (by rw [hmove]) h
    refine ⟨fun h => (hdone h).1, fun h hdue => ?_⟩
    obtain ⟨u, hu, hdone⟩ := (hdone h).2 hdue
    refine ⟨u, hu, fun a => ?_, hdone.inflight, hdone.pc, hdone.other, hdone.frame⟩
    rw [hdone.pond, hmove, List.foldl_cons, List.foldl_nil, memByte_memWrite hpond, pondRead_length hpond]
    split
    · next ha => exact pondRead_getD hpond _ (by omega)
    · rfl
  case wclr =>
    intro n s hwf hat hgo
    dsimp only
    intro hw hlow hunit
    refine ⟨_, (exec_of_atHead (f := wclrHead n.val) rfl hat).trans
      (congrArg _ (wclrHead_issues hwf.newts_sorted hgo hw hlow hunit)), fun _ r => ?_⟩
    rw [tget_filter {} (newt s n.val).wr (fun i => decide (i < iRb (headWord s n.val) ∨ iRb (headWord s n.val) + iNr (headWord s n.val) ≤ i))]
    simp only [decide_eq_true_eq]
    split
    · rw [if_neg (by omega)]
    · rw [if_pos (by omega)]
  case wsv =>
    intro n s hwf hat hgo hin
    dsimp only
    intro habort hw hrange
    have hpond := hwf.pond_sorted n.val
    refine ⟨_, (exec_of_atHead (f := fun w => saveHead n.val w (wsvWork w)) rfl hat).trans
      (congrArg _ (saveHead_alone hin hw hrange (fun h => absurd (hat.2.2.symm.trans h) (by decide)))), fun later h hdue => ?_⟩
    obtain ⟨u, hu, hdone⟩ := (exec_complete_alone hwf.newts_sorted hat.1 hgo hin habort rfl rfl rfl rfl h).2 hdue
    have hissued := newt_issueWork hwf.newts_sorted hgo (headWord s n.val) 0
      { wsvWork (headWord s n.val) (newt s n.val) with coll := (newt s n.val).coll } []
    refine ⟨u, hu, fun a => ?_, ?_, ?_, hdone.frame⟩
    · rw [hdone.pond]
      exact memByte_saved hpond _ _ _ a _
    · rw [hdone.wr, hissued]; rfl
    · rw [hdone.held, hissued]; rfl
  case wld =>
    intro n s hwf hat hgo hin
    dsimp only
    intro hw hrange hsorted hrecords
    refine ⟨_, (exec_of_atHead (f := fun w => saveHead n.val w (wldWork w)) rfl hat).trans
      (congrArg _ (saveHead_alone hin hw hrange fun _ => hrecords)), ?_⟩
    have hissued := newt_issueWork hwf.newts_sorted hgo (headWord s n.val) 0
      { wldWork (headWord s n.val) (newt s n.val) with coll := (newt s n.val).coll } []
    refine ⟨by rw [hissued]; rfl, by rw [hissued]; rfl, fun r => ?_, issueWork_frame hwf.newts_sorted hgo _ _ _ _⟩
    rw [hissued]
    exact (tget_foldl_tset {} _ _ hsorted _ r).2

end Sys2Proof.Machine
end

section
/-! How a newt stops (R93 to R97): what the waits, the buffers and the packets of a stop leave of newts and of error records. -/

namespace Sys2Proof.Machine

/-! A raise leaves every newt and sets no record back. -/

theorem rasRecord_marksOnly {o : Occ} (s : State) (hd : definedCode o.code = true) :
    MarksOnly o.code (setRas o.code (recRaise o (croak s) (rasRec s o.code)) s) (rasRecord o s) := by
  unfold rasRecord
  simp only [if_pos hd]
  set s1 := setRas o.code (recRaise o (croak s) (rasRec s o.code)) s
  have hlog : MarksOnly o.code s1 (if rasWrites o.code s1 then rasLog o s1 else s1) := by
    split
    · exact rasLog_marksOnly o s1
    · exact .of_ras rfl
  generalize (if rasWrites o.code s1 then rasLog o s1 else s1) = s2 at hlog ⊢
  split
  · split
    · exact hlog.trans (.of_ras (eventAmend_ras _ _))
    · exact hlog
  · exact hlog.trans (rasFirst_marksOnly _ _)

/-- The records stay in order, and what is set stays set. -/
structure RecordsStand (s t : State) : Prop where
  sorted : tsorted s.ras.recs → tsorted t.ras.recs
  set : tsorted s.ras.recs → ∀ c, (rasRec s c).set = true → (rasRec t c).set = true

theorem RecordsStand.of_recs {s t : State} (h : t.ras.recs = s.ras.recs) : RecordsStand s t where
  sorted hs := by rwa [h]
  set _ c hc := by rwa [rasRec, h]

theorem RecordsStand.trans {s t u : State} (h : RecordsStand s t) (g : RecordsStand t u) : RecordsStand s u where
  sorted hs := g.sorted (h.sorted hs)
  set hs c hc := g.set (h.sorted hs) c (h.set hs c hc)

theorem MarksOnly.recordsStand {c : Nat} {s t : State} (h : MarksOnly c s t) : RecordsStand s t where
  sorted := h.sorted
  set hs d hd := by
    rcases eq_or_ne d c with rfl | hne
    · rw [set_of_latched (h.latched_eq hd), hd]
    · rw [h.other hs d hne, hd]

theorem rasRecord_recordsStand (o : Occ) (s : State) : RecordsStand s (rasRecord o s) := by
  cases hd : definedCode o.code with
  | false => simpa [rasRecord, hd] using RecordsStand.of_recs (s := s) rfl
  | true =>
    refine RecordsStand.trans ⟨fun hs => tsorted_tset _ hs _ _, fun hs c hc => ?_⟩ (rasRecord_marksOnly s hd).recordsStand
    rcases eq_or_ne c o.code with rfl | hne
    · rw [rasRec_setRas _ _ _ hs, recRaise_set]
    · rw [rasRec_setRas_other _ _ _ _ hs hne, hc]

theorem freshMark_recs (k : Option Nat) (s : State) : (freshMark k s).ras.recs = s.ras.recs := by
  cases k <;> rfl

theorem raise_recordsStand (o : Occ) (s : State) : RecordsStand s (raise o s) := by
  unfold raise
  split
  · refine RecordsStand.trans (.of_recs ?_) (rasRecord_recordsStand _ _)
    rw [freshMark_recs, stickyBit_ras]
  · exact .of_recs rfl

/-- A raise of a defined code in a running chip sets its record. -/
theorem rasRec_raise_set {o : Occ} {s : State} (hup : up s = true) (hd : definedCode o.code = true) :
    (rasRec (raise o s) o.code).set = true := by
  rw [raise, if_pos hup, set_of_latched (rasRecord_latched _ hd (recRaise_set _ _ _)), recRaise_set]

theorem stickyBit_croak (c : Nat) (s : State) : croak (stickyBit c s) = croak s := by
  unfold stickyBit croak
  dsimp only
  (repeat' split) <;> rfl

theorem stickyBit_bufs (c : Nat) (s : State) : (stickyBit c s).pool.bufs = s.pool.bufs := by
  unfold stickyBit
  dsimp only
  (repeat' split) <;> rfl

theorem raise_croak (o : Occ) (s : State) : croak (raise o s) = croak s := by
  unfold raise
  split
  · rw [← stickyBit_croak o.code s]
    simp [croak]
  · rfl

theorem raise_bufs (o : Occ) (s : State) : (raise o s).pool.bufs = s.pool.bufs := by
  unfold raise
  split
  · simp [stickyBit_bufs]
  · rfl

/-! Waits that end change nothing of a newt but its two wait flags (R163 to R167). -/

/-- A newt without its wait flags. -/
def unwaiting (v : Newt) : Newt := { v with waitPassed := false, registered := false }

/-- From `s` to `t` only waits have moved on: in the sync-object unit, and at the agents that waited. -/
structure WaitsOnly (s t : State) : Prop where
  sorted : tsorted s.newts → tsorted t.newts
  newt : tsorted s.newts → ∀ n, unwaiting (newt t n) = unwaiting (newt s n)
  frame : t = { s with newts := t.newts, sync := t.sync, dma := t.dma, hif := t.hif }

theorem WaitsOnly.refl (s : State) : WaitsOnly s s := ⟨id, fun _ _ => rfl, rfl⟩

theorem WaitsOnly.trans {s t u : State} (h : WaitsOnly s t) (g : WaitsOnly t u) : WaitsOnly s u where
  sorted hs := g.sorted (h.sorted hs)
  newt hs n := (g.newt (h.sorted hs) n).trans (h.newt hs n)
  frame := g.frame.trans (by rw [h.frame])

theorem WaitsOnly.of_newts {s t : State} (h : t.newts = s.newts)
    (hf : t = { s with newts := t.newts, sync := t.sync, dma := t.dma, hif := t.hif }) : WaitsOnly s t where
  sorted hs := by rwa [h]
  newt _ n := by rw [Machine.newt, h]; rfl
  frame := hf

theorem WaitsOnly.after {s t u : State} (h : WaitsOnly t u) (hn : t.newts = s.newts)
    (hf : t = { s with newts := t.newts, sync := t.sync, dma := t.dma, hif := t.hif }) : WaitsOnly s u :=
  (WaitsOnly.of_newts hn hf).trans h

theorem WaitsOnly.foldl {α : Type} {f : State → α → State} (h : ∀ s a, WaitsOnly s (f s a)) (l : List α) (s : State) :
    WaitsOnly s (l.foldl f s) := by
  induction l generalizing s with
  | nil => exact .refl s
  | cons a r ih => exact (h s a).trans (ih _)

theorem releaseAgent_waitsOnly (agent : Nat) (s : State) : WaitsOnly s (releaseAgent agent s) := by
  unfold releaseAgent
  split
  · refine ⟨fun hs => tsorted_tset _ hs _ _, fun hs n => ?_, rfl⟩
    rcases eq_or_ne n agent with rfl | hn
    · rw [modNewt, newt_setNewt _ _ _ hs]; rfl
    · rw [modNewt, newt_setNewt_other _ _ _ _ hs hn]
  · split <;> exact .of_newts rfl rfl

theorem serveN_waitsOnly (fuel o : Nat) (s : State) : WaitsOnly s (serveN fuel o s) := by
  induction fuel generalizing s with
  | zero => exact .refl s
  | succ fuel ih =>
    unfold serveN
    dsimp only
    split
    · exact .refl s
    · split
      · exact ((releaseAgent_waitsOnly _ _).trans (ih _)).after rfl rfl
      · exact .refl s

theorem unwait_waitsOnly (o agent : Nat) (s : State) : WaitsOnly s (unwait o agent s) :=
  (serveN_waitsOnly _ o _).after rfl rfl

theorem unwaitAll_waitsOnly (agent : Nat) (s : State) : WaitsOnly s (unwaitAll agent s) := by
  unfold unwaitAll
  exact WaitsOnly.foldl (fun t (e : Nat × SyncObj) => unwait_waitsOnly e.1 agent t) _ s

/-! What an error has left in a newt stands, whatever else stops after it. -/

/-- What an error leaves in its newt: the state, NWT_ERR, the pond and the PC. -/
def errorFace (v : Newt) : NewtState × Bool × Nat × Nat × Nat × Mem × Nat :=
  (v.state, v.err, v.errCode, v.errPc, v.more, v.pond, v.pc)

/-- From `s` to `t` every newt in ERROR keeps what its error has left, and no record is set back. -/
structure ErrorsStand (s t : State) : Prop where
  newts_sorted : tsorted s.newts → tsorted t.newts
  newt : tsorted s.newts → ∀ n, (newt s n).state = .error → errorFace (newt t n) = errorFace (newt s n)
  records : tsorted s.newts → RecordsStand s t

theorem ErrorsStand.of_eq {s t : State} (hn : t.newts = s.newts) (hr : t.ras = s.ras) : ErrorsStand s t where
  newts_sorted hs := by rwa [hn]
  newt _ n _ := by rw [Machine.newt, hn]; rfl
  records _ := .of_recs (by rw [hr])

theorem ErrorsStand.refl (s : State) : ErrorsStand s s := .of_eq rfl rfl

theorem state_of_errorFace {v w : Newt} (h : errorFace v = errorFace w) : v.state = w.state := congrArg (·.1) h

theorem ErrorsStand.trans {s t u : State} (h : ErrorsStand s t) (g : ErrorsStand t u) : ErrorsStand s u where
  newts_sorted hs := g.newts_sorted (h.newts_sorted hs)
  newt hs n he := by
    have hst := h.newt hs n he
    rw [g.newt (h.newts_sorted hs) n ((state_of_errorFace hst).trans he), hst]
  records hs := (h.records hs).trans (g.records (h.newts_sorted hs))

theorem ErrorsStand.of_sorted {s t : State} (h : tsorted s.newts → ErrorsStand s t) : ErrorsStand s t :=
  ⟨fun hs => (h hs).newts_sorted hs, fun hs => (h hs).newt hs, fun hs => (h hs).records hs⟩

theorem ErrorsStand.after {s t u : State} (h : ErrorsStand t u) (hn : t.newts = s.newts) (hr : t.ras = s.ras) : ErrorsStand s u :=
  (ErrorsStand.of_eq hn hr).trans h

theorem ErrorsStand.foldl {α : Type} {f : State → α → State} (h : ∀ s a, ErrorsStand s (f s a)) (l : List α) (s : State) :
    ErrorsStand s (l.foldl f s) := by
  induction l generalizing s with
  | nil => exact .refl s
  | cons a r ih => exact (h s a).trans (ih _)

theorem ErrorsStand.ite {s t u : State} {c : Prop} [Decidable c] (h : ErrorsStand s t) (g : ErrorsStand s u) :
    ErrorsStand s (if c then t else u) := by
  split
  · exact h
  · exact g

/-- A newt that is not in ERROR may change in any way; one in ERROR keeps its error. -/
theorem ErrorsStand.setNewt {s : State} {n : Nat} {v : Newt}
    (h : (Machine.newt s n).state = .error → errorFace v = errorFace (Machine.newt s n)) : ErrorsStand s (setNewt n v s) where
  newts_sorted hs := tsorted_tset _ hs _ _
  newt hs m he := by
    rcases eq_or_ne m n with rfl | hm
    · rw [newt_setNewt _ _ _ hs, h he]
    · rw [newt_setNewt_other _ _ _ _ hs hm]
  records _ := .of_recs rfl

theorem ErrorsStand.modNewt {s : State} (n : Nat) {f : Newt → Newt} (h : ∀ v, errorFace (f v) = errorFace v) :
    ErrorsStand s (modNewt n f s) := .setNewt fun _ => h _

theorem WaitsOnly.errorsStand {s t : State} (h : WaitsOnly s t) : ErrorsStand s t where
  newts_sorted := h.sorted
  newt hs n _ := by
    have hface := congrArg errorFace (h.newt hs n)
    exact hface
  records _ := .of_recs (by rw [h.frame])

theorem raise_errorsStand (o : Occ) (s : State) : ErrorsStand s (raise o s) where
  newts_sorted hs := by rwa [raise_newts]
  newt _ n _ := by rw [Machine.newt, raise_newts]; rfl
  records _ := raise_recordsStand o s

/-! Buffers that are freed (R400, R403). -/

theorem stkUe_errorsStand (a : Nat) (s : State) : ErrorsStand s (stkUe a s) :=
  (raise_errorsStand _ _).after rfl rfl

theorem lovStore_errorsStand (a : Nat) (bs : List Byte) (s : State) : ErrorsStand s (lovStore a bs s) := by
  unfold lovStore
  exact (ErrorsStand.foldl (fun t b => stkUe_errorsStand (64 * b) t) _ _).after rfl rfl

theorem bufFree_errorsStand (b : Buf) (s : State) : ErrorsStand s (bufFree b s) := by
  unfold bufFree
  extract_lets _ s1 next s2
  split
  · have hstore : ErrorsStand s s2 := (lovStore_errorsStand b.addr _ s1).after rfl rfl
    exact hstore.trans (.of_eq rfl rfl)
  · exact .of_eq rfl rfl

theorem freeOwned_errorsStand (r : Nat) (s : State) : ErrorsStand s (freeOwned r s) := by
  unfold freeOwned
  exact .foldl (fun t b => bufFree_errorsStand b t) _ s

theorem programEnds_errorsStand (n : Nat) (s : State) : ErrorsStand s (programEnds n s) :=
  (freeOwned_errorsStand _ s).trans (.modNewt n fun _ => rfl)

/-! Packets that are stomped (R148, R259, R260). -/

theorem discard_errorsStand (r : Nat) (s : State) : ErrorsStand s (discard r s) := .of_eq rfl rfl

theorem abortErr_errorsStand (port : Nat) (p : Packet) (s : State) : ErrorsStand s (abortErr port p s) := raise_errorsStand _ s

theorem stompCopiesOf_errorsStand (k n code : Nat) (s : State) : ErrorsStand s (stompCopiesOf k n code s) := by
  unfold stompCopiesOf
  refine .foldl (fun t h => ?_) _ s
  exact .ite (.of_eq rfl rfl) (.of_eq rfl rfl)

theorem stompErr_errorsStand (h : Held) (code seg : Nat) (s : State) : ErrorsStand s (stompErr h code seg s) := by
  unfold stompErr
  dsimp only
  exact (ErrorsStand.ite (.refl s) (.ite (raise_errorsStand _ s) (raise_errorsStand _ s))).trans (raise_errorsStand _ _)

theorem ovfTrim_errorsStand (die : Nat) (s : State) : ErrorsStand s (ovfTrim die s) := by
  unfold ovfTrim
  dsimp only
  refine (ErrorsStand.foldl (fun t b => bufFree_errorsStand b t) _ s).trans (.ite (.of_eq rfl rfl) (.refl _))

theorem stompQueued_errorsStand (h : Held) (code : Nat) (s : State) : ErrorsStand s (stompQueued h code s) := by
  have hqueue : ErrorsStand s (if h.started then
      (if h.pkt.stomp ≠ 0 then s
       else stompPassed h.outPort h.pkt.cls (modHeld h (fun h => { h with pkt := { h.pkt with stomp := code } }) s))
      else ovfTrim (homeDie s h.outPort) (discard 0 (modSwc (fun w => { w with queues := w.queues.erase h }) s))) :=
    .ite (.ite (.refl s) (.of_eq rfl rfl)) ((ovfTrim_errorsStand _ _).after rfl rfl)
  unfold stompQueued
  split
  · exact hqueue
  · exact hqueue.trans (stompCopiesOf_errorsStand _ _ _ _)

theorem stompOne_errorsStand (h : Held) (code seg : Nat) (s : State) : ErrorsStand s (stompOne h code seg s) :=
  (stompErr_errorsStand h code seg s).trans (stompQueued_errorsStand h code _)

theorem returnCredit_errorsStand (src st n : Nat) (s : State) : ErrorsStand s (returnCredit src st n s) := by
  unfold returnCredit
  exact .ite (.refl s) (.ite (.of_eq rfl rfl) (.of_eq rfl rfl))

theorem ingressDrop_errorsStand (w : Waiting) (s : State) : ErrorsStand s (ingressDrop w s) :=
  (returnCredit_errorsStand _ _ _ _).after rfl rfl

theorem growHeld_errorsStand (b : List Byte) (last : Bool) (h : Held) (s : State) : ErrorsStand s (growHeld b last h s) := by
  have hstore : ErrorsStand s (if h.acct = 3 then lovStore (h.loc + h.pkt.payload.length) (b.take h.pkt.left)
      (modHeld h (fun x => { x with pkt := growPkt b last h.pkt }) s)
      else modHeld h (fun x => { x with pkt := growPkt b last h.pkt }) s) :=
    .ite ((lovStore_errorsStand _ _ _).after rfl rfl) (.of_eq rfl rfl)
  unfold growHeld
  exact .ite (hstore.trans (.of_eq rfl rfl)) hstore

theorem schedCopies_errorsStand (p : Packet) (code : Nat) (b : List Byte) (s : State) : ErrorsStand s (schedCopies p code b s) := by
  unfold schedCopies cellJoins
  exact .ite (.refl s) ((ErrorsStand.foldl (fun t h => growHeld_errorsStand b true h t) _ s).trans (stompCopiesOf_errorsStand _ _ _ _))

/-- A packet that is discarded with its record, and its copies. -/
theorem abortPacket_errorsStand (port r code : Nat) (p : Packet) (b : List Byte) (s : State) :
    ErrorsStand s (schedCopies p code b (discard r (abortErr port p s))) :=
  (abortErr_errorsStand port p s).trans ((discard_errorsStand r _).trans (schedCopies_errorsStand p code b _))

theorem abortPipe_errorsStand (c : Nat) (s : State) : ErrorsStand s (abortPipe c s) := by
  unfold abortPipe
  refine (ErrorsStand.foldl (fun t f => ?_) _ _).after rfl rfl
  exact .ite (abortPacket_errorsStand _ _ _ _ _ t) (.ite (abortPacket_errorsStand _ _ _ _ _ t) (.refl t))

theorem abortOpen_errorsStand (q : Nat) (e : Nat × Packet × Nat × Nat) (s : State) : ErrorsStand s (abortOpen q e s) := by
  unfold abortOpen
  refine .ite (.of_eq rfl rfl) ((abortPacket_errorsStand _ _ _ _ _ _).after rfl rfl)

theorem abortAtNewt_errorsStand (c n : Nat) (s : State) : ErrorsStand s (abortAtNewt c n s) := by
  have hpackets (r : Nat) (l : List (Nat × Nat × SCell)) (t : State) :
      ErrorsStand t (l.foldl (fun t e => discard r (abortErr 134 e.2.2.hdr t)) t) := by
    refine .foldl (fun t e => ?_) l t
    exact (abortErr_errorsStand 134 e.2.2.hdr t).trans (discard_errorsStand r _)
  unfold abortAtNewt
  extract_lets l mine left s1 s2
  have hwhole : ErrorsStand s s1 := hpackets 0 _ s
  have hsent : ErrorsStand s1 s2 := hpackets 1 _ s1
  clear_value s1 s2
  exact .ite ((hwhole.trans hsent).trans (.modNewt n fun _ => rfl)) (hwhole.trans hsent)

theorem abortSched_errorsStand (c : Nat) (s : State) : ErrorsStand s (abortSched c s) := by
  unfold abortSched
  extract_lets s1
  have hquads : ErrorsStand s s1 := by
    refine ErrorsStand.foldl (fun t (e : Nat × Quad) => ?_) _ s
    exact .foldl (fun u x => abortOpen_errorsStand e.1 x u) _ t
  exact (hquads.trans (abortPipe_errorsStand c s1)).trans (.foldl (fun t (e : Nat × Newt) => abortAtNewt_errorsStand c e.1 t) _ _)

theorem abortStomps_errorsStand (c : Nat) (s : State) : ErrorsStand s (abortStomps c s) := by
  unfold abortStomps
  extract_lets s1
  have hqueues : ErrorsStand s s1 := .foldl (fun t h => stompOne_errorsStand h 4 0 t) _ s
  refine (hqueues.trans (.foldl (fun t w => ?_) _ s1)).trans (abortSched_errorsStand c _)
  exact (ingressDrop_errorsStand w t).trans ((abortErr_errorsStand _ _ _).trans
    ((discard_errorsStand 0 _).trans (stompCopiesOf_errorsStand _ _ _ _)))

end Sys2Proof.Machine
end

section
/-! How a newt stops (R93 to R97), continued: aborts at a newt and its collectives, the halt of a newt in error, and what an
error leaves in its newt. -/

namespace Sys2Proof.Machine

/-! Messages, commits and aborts of collectives (R94, R141 to R145, R511). -/

/-- A message changes only what waits for a drain and what has gone out. -/
theorem mgmt_frame (msg : String) (dst : Nat) (vals : List Nat) (s : State) :
    mgmt msg dst vals s = { s with rte := (mgmt msg dst vals s).rte, out := (mgmt msg dst vals s).out } := by
  unfold mgmt
  split <;> rfl

theorem notices_frame (c status cause : Nat) (p : FaultPlace) (s : State) :
    notices c status cause p s = { s with rte := (notices c status cause p s).rte, out := (notices c status cause p s).out } := by
  unfold notices
  extract_lets asb
  generalize (coll s c).chips = l
  clear_value asb
  induction l generalizing s with
  | nil => rfl
  | cons ch r ih =>
    rw [List.foldl_cons, ih, collMsg, mgmt_frame]

theorem mgmt_errorsStand (msg : String) (dst : Nat) (vals : List Nat) (s : State) : ErrorsStand s (mgmt msg dst vals s) :=
  .of_eq (by rw [mgmt_frame]) (by rw [mgmt_frame])

theorem notices_errorsStand (c status cause : Nat) (p : FaultPlace) (s : State) : ErrorsStand s (notices c status cause p s) :=
  .of_eq (by rw [notices_frame]) (by rw [notices_frame])

/-- A CMT leaves its collective in the newt, and changes no other newt and no record. -/
theorem commitBy_newts (n c : Nat) (s : State) : (commitBy n c s).newts = (modNewt n (fun v => { v with coll := c }) s).newts := by
  unfold commitBy
  dsimp only
  split
  · rw [notices_frame]; rfl
  · rfl

theorem commitBy_ras (n c : Nat) (s : State) : (commitBy n c s).ras = s.ras := by
  unfold commitBy
  dsimp only
  split
  · rw [notices_frame]; rfl
  · rfl

theorem commitBy_errorsStand (n c : Nat) (s : State) : ErrorsStand s (commitBy n c s) :=
  (ErrorsStand.modNewt n (f := fun v => { v with coll := c }) fun _ => rfl).trans
    (.of_eq (commitBy_newts n c s) (commitBy_ras n c s))

theorem cmtFirst_errorsStand (ns : List Nat) (s : State) : ErrorsStand s (cmtFirst ns s) := by
  unfold cmtFirst
  exact .foldl (fun t n => .ite (commitBy_errorsStand n _ t) (.refl t)) ns s

theorem collRaise_errorsStand (c cause : Nat) (p : FaultPlace) (s : State) : ErrorsStand s (collRaise c cause p s) := by
  unfold collRaise
  exact .ite (raise_errorsStand _ s) (.refl s)

theorem setColl_errorsStand (c : Nat) (v : Coll) (s : State) : ErrorsStand s (setColl c v s) := .of_eq rfl rfl

theorem abortMark_errorsStand (c cause : Nat) (p : FaultPlace) (s : State) : ErrorsStand s (abortMark c cause p s) := by
  unfold abortMark
  extract_lets t v
  refine (cmtFirst_errorsStand (workers s c) s).trans (.ite (.refl t) (.ite (mgmt_errorsStand _ _ _ t) ?_))
  exact ((setColl_errorsStand c _ t).trans (abortStomps_errorsStand c _)).trans (notices_errorsStand _ _ _ _ _)

/-! What the end of a program frees (R95, R400). -/

theorem stkUe_newts (a : Nat) (s : State) : (stkUe a s).newts = s.newts := by simp [stkUe]
theorem stkUe_colls (a : Nat) (s : State) : (stkUe a s).colls = s.colls := by simp [stkUe]
theorem stkUe_bufs (a : Nat) (s : State) : (stkUe a s).pool.bufs = s.pool.bufs := raise_bufs _ _

theorem lovStore_newts (a : Nat) (bs : List Byte) (s : State) : (lovStore a bs s).newts = s.newts :=
  foldl_field State.newts _ (fun t b => stkUe_newts (64 * b) t) _ _

theorem lovStore_colls (a : Nat) (bs : List Byte) (s : State) : (lovStore a bs s).colls = s.colls :=
  foldl_field State.colls _ (fun t b => stkUe_colls (64 * b) t) _ _

theorem lovStore_bufs (a : Nat) (bs : List Byte) (s : State) : (lovStore a bs s).pool.bufs = s.pool.bufs :=
  foldl_field (fun t => t.pool.bufs) _ (fun t b => stkUe_bufs (64 * b) t) _ _

theorem bufFree_newts (b : Buf) (s : State) : (bufFree b s).newts = s.newts := by
  unfold bufFree
  extract_lets _ s1 next s2
  split
  · exact lovStore_newts _ _ s1
  · rfl

theorem bufFree_colls (b : Buf) (s : State) : (bufFree b s).colls = s.colls := by
  unfold bufFree
  extract_lets _ s1 next s2
  split
  · exact lovStore_colls _ _ s1
  · rfl

theorem bufFree_bufs (b : Buf) (s : State) :
    (bufFree b s).pool.bufs = s.pool.bufs.filter (fun c => decide (c.addr ≠ b.addr)) := by
  unfold bufFree
  extract_lets _ s1 next s2
  split
  · exact lovStore_bufs _ _ s1
  · rfl

theorem freeOwned_newts (r : Nat) (s : State) : (freeOwned r s).newts = s.newts :=
  foldl_field State.newts _ (fun t b => bufFree_newts b t) _ s

theorem freeOwned_colls (r : Nat) (s : State) : (freeOwned r s).colls = s.colls :=
  foldl_field State.colls _ (fun t b => bufFree_colls b t) _ s

/-- Of the buffers freed one after another, none stays, and no buffer comes back. -/
theorem mem_foldl_bufFree {b : Buf} {l : List Buf} {s : State} (h : b ∈ (l.foldl (fun t b => bufFree b t) s).pool.bufs) :
    b ∈ s.pool.bufs ∧ b ∉ l := by
  induction l generalizing s with
  | nil => exact ⟨h, List.not_mem_nil⟩
  | cons a r ih =>
    obtain ⟨hin, hr⟩ := ih h
    rw [bufFree_bufs, List.mem_filter, decide_eq_true_eq] at hin
    refine ⟨hin.1, fun hmem => ?_⟩
    rcases List.mem_cons.mp hmem with rfl | hbr
    · exact hin.2 rfl
    · exact hr hbr

theorem owner_ne_of_mem_freeOwned {b : Buf} {r : Nat} {s : State} (h : b ∈ (freeOwned r s).pool.bufs) : b.owner ≠ r := by
  obtain ⟨hin, hnot⟩ := mem_foldl_bufFree h
  exact fun ho => hnot (List.mem_filter.mpr ⟨hin, decide_eq_true ho⟩)

theorem newt_freeOwned (r n : Nat) (s : State) : newt (freeOwned r s) n = newt s n := by
  unfold newt
  rw [freeOwned_newts]

theorem newt_programEnds {s : State} (n : Nat) (hs : tsorted s.newts) :
    newt (programEnds n s) n = { newt s n with escapes := [], partAt := [] } := by
  unfold programEnds modNewt
  rw [newt_setNewt _ _ _ (by rwa [freeOwned_newts]), newt_freeOwned]

theorem programEnds_colls (n : Nat) (s : State) : (programEnds n s).colls = s.colls := freeOwned_colls _ s

/-! An abort at a newt (R94). -/

/-- A newt that stops on an abort, as it will be once nothing of it is in progress. -/
def abortedNewt (v : Newt) : Newt :=
  { v with abortPend := false, state := .done, aborted := true, stall := 0, escapes := [], partAt := [] }

/-- The program of a newt runs: it issues, stalls or is paused. -/
def runs (v : Newt) : Prop := v.state = .run ∨ v.state = .stall ∨ v.state = .paused

theorem state_ne_error_of_runs {v : Newt} (h : runs v) : v.state ≠ .error := by
  rcases h with h | h | h <;> simp [h]

/-- The chip once newt `n` has been told of an abort and waits for no sync object. -/
def abortTold (n : Nat) (s : State) : State :=
  unwaitAll n (setNewt n { newt s n with abortPend := true, registered := false, waitPassed := false } s)

theorem abortNewt_of_error {n : Nat} {s : State} (h : (newt s n).state = .error) :
    abortNewt n s = setNewt n { newt s n with aborted := true } s := if_pos h

theorem abortNewt_of_runs {n : Nat} {s : State} (h : runs (newt s n)) : abortNewt n s = abortFinish n (abortTold n s) :=
  (if_neg (state_ne_error_of_runs h)).trans (if_pos h)

theorem abortNewt_of_waiting {n : Nat} {s : State} (h : (newt s n).state = .idle) (hr : (newt s n).role = .scheduled)
    (hj : s.sch.job.isSome = true) : abortNewt n s = setNewt n { newt s n with state := .done, aborted := true } s := by
  simp [abortNewt, h, hr, hj]

theorem abortNewt_of_idle {n : Nat} {s : State} (h : (newt s n).state = .idle)
    (hj : ¬ ((newt s n).role = .scheduled ∧ s.sch.job.isSome = true)) : abortNewt n s = s := by
  exact (if_neg (by simp [h])).trans ((if_neg (by simp [h])).trans (if_neg fun hw => hj hw.2))

theorem abortNewt_of_done {n : Nat} {s : State} (h : (newt s n).state = .done) : abortNewt n s = s := by
  simp [abortNewt, h]

theorem abortTold_waitsOnly (n : Nat) (s : State) :
    WaitsOnly (setNewt n { newt s n with abortPend := true, registered := false, waitPassed := false } s) (abortTold n s) :=
  unwaitAll_waitsOnly n _

theorem abortTold_newts_sorted {s : State} (n : Nat) (hs : tsorted s.newts) : tsorted (abortTold n s).newts :=
  (abortTold_waitsOnly n s).sorted (tsorted_tset _ hs _ _)

theorem abortTold_colls (n : Nat) (s : State) : (abortTold n s).colls = s.colls := by
  rw [(abortTold_waitsOnly n s).frame]
  rfl

theorem newt_abortTold {s : State} (n : Nat) (hs : tsorted s.newts) :
    unwaiting (newt (abortTold n s) n) = unwaiting { newt s n with abortPend := true } := by
  rw [(abortTold_waitsOnly n s).newt (tsorted_tset _ hs _ _), newt_setNewt _ _ _ hs]
  rfl

theorem inflight_abortTold {s : State} (n : Nat) (hs : tsorted s.newts) :
    (newt (abortTold n s) n).inflight = (newt s n).inflight := by
  have h := congrArg Newt.inflight (newt_abortTold n hs)
  exact h

theorem abortPend_abortTold {s : State} (n : Nat) (hs : tsorted s.newts) : (newt (abortTold n s) n).abortPend = true := by
  have h := congrArg Newt.abortPend (newt_abortTold n hs)
  exact h

theorem state_abortTold {s : State} (n : Nat) (hs : tsorted s.newts) : (newt (abortTold n s) n).state = (newt s n).state := by
  have h := congrArg Newt.state (newt_abortTold n hs)
  exact h

/-- A newt with instructions in progress is told of the abort and goes on with them. -/
theorem abortNewt_busy {n : Nat} {s : State} (hs : tsorted s.newts) (hr : runs (newt s n)) (hin : (newt s n).inflight ≠ []) :
    abortNewt n s = abortTold n s := by
  have hbusy : ((newt (abortTold n s) n).abortPend && (newt (abortTold n s) n).inflight.isEmpty) = false := by
    simp [inflight_abortTold n hs, hin]
  rw [abortNewt_of_runs hr]
  exact if_neg (by rw [hbusy]; exact Bool.false_ne_true)

theorem abortFinish_eq {n : Nat} {s : State} (hp : (newt s n).abortPend = true) (hin : (newt s n).inflight = []) :
    abortFinish n s = programEnds n (setNewt n { newt s n with abortPend := false, state := .done, aborted := true, stall := 0 } s) :=
  if_pos (by rw [hp, hin]; rfl)

/-- A newt with nothing in progress ends its program: it is DONE and ABORTED, and owns no buffer. -/
theorem abortNewt_alone {n : Nat} {s : State} (hs : tsorted s.newts) (hr : runs (newt s n)) (hin : (newt s n).inflight = []) :
    unwaiting (newt (abortNewt n s) n) = unwaiting (abortedNewt (newt s n)) ∧ (abortNewt n s).colls = s.colls ∧
      ∀ b ∈ (abortNewt n s).pool.bufs, b.owner ≠ 0x100 + n := by
  have htold := newt_abortTold n hs
  have hsort := abortTold_newts_sorted n hs
  have hcolls := abortTold_colls n s
  rw [abortNewt_of_runs hr, abortFinish_eq (abortPend_abortTold n hs) (by rw [inflight_abortTold n hs, hin])]
  generalize abortTold n s = u at htold hsort hcolls
  refine ⟨?_, by rw [programEnds_colls]; exact hcolls, fun b hb => owner_ne_of_mem_freeOwned hb⟩
  rw [newt_programEnds n (tsorted_tset _ hsort _ _), newt_setNewt _ _ _ hsort]
  have habort := congrArg abortedNewt htold
  exact habort

theorem abortFinish_errorsStand {n : Nat} {s : State} (hn : (newt s n).state ≠ .error) : ErrorsStand s (abortFinish n s) := by
  unfold abortFinish
  extract_lets v
  exact .ite ((ErrorsStand.setNewt fun he => absurd he hn).trans (programEnds_errorsStand n _)) (.refl s)

theorem abortNewt_errorsStand (n : Nat) (s : State) : ErrorsStand s (abortNewt n s) := by
  cases hstate : (newt s n).state with
  | error =>
    rw [abortNewt_of_error hstate]
    exact .setNewt fun _ => rfl
  | idle =>
    by_cases hj : (newt s n).role = .scheduled ∧ s.sch.job.isSome = true
    · rw [abortNewt_of_waiting hstate hj.1 hj.2]
      exact .setNewt fun he => absurd (hstate.symm.trans he) (by simp)
    · rw [abortNewt_of_idle hstate hj]
      exact .refl s
  | done =>
    rw [abortNewt_of_done hstate]
    exact .refl s
  | run | stall | paused =>
    have hr : runs (newt s n) := by simp [runs, hstate]
    have hne := state_ne_error_of_runs hr
    rw [abortNewt_of_runs hr]
    have htold : ErrorsStand s (abortTold n s) :=
      (ErrorsStand.setNewt fun he => absurd he hne).trans (abortTold_waitsOnly n s).errorsStand
    exact .of_sorted fun hs => htold.trans (abortFinish_errorsStand (by rwa [state_abortTold n hs]))

theorem abortAt_errorsStand (n : Nat) (s : State) : ErrorsStand s (abortAt n s) := by
  unfold abortAt
  have hcmt := (cmtFirst_errorsStand [n] s).trans
    (.modNewt n (f := fun v => { v with issued := (v.issued + 1) % 2 ^ 32, issuedAt := some (croak s) }) fun _ => rfl)
  exact (ErrorsStand.ite hcmt (.refl s)).trans (abortNewt_errorsStand n _)

/-- A collective that is to stop. -/
theorem abortRaised_errorsStand (c cause : Nat) (p : FaultPlace) (s : State) :
    ErrorsStand s (abortMark c cause p (collRaise c cause p s)) :=
  (collRaise_errorsStand c cause p s).trans (abortMark_errorsStand c cause p _)

theorem abortStop_errorsStand (fuel : Nat) (cs seen : List Nat) (s : State) : ErrorsStand s (abortStop fuel cs seen s) := by
  induction fuel generalizing cs seen s with
  | zero => exact .refl s
  | succ fuel ih =>
    cases cs with
    | nil => exact .refl s
    | cons c r =>
      unfold abortStop
      extract_lets ns s1 more
      have hparts : ErrorsStand s s1 := .foldl (fun t n => abortAt_errorsStand n t) _ s
      clear_value s1 more
      refine .ite (ih _ _ s) ((hparts.trans (.foldl (fun t e => ?_) more s1)).trans (ih _ _ _))
      exact abortRaised_errorsStand _ _ _ t

theorem abortEach_errorsStand (cause : Nat) (es : List (Nat × FaultPlace)) (s : State) : ErrorsStand s (abortEach cause es s) := by
  unfold abortEach
  extract_lets ds
  have hraised := ErrorsStand.foldl (fun t (e : Nat × FaultPlace) => abortRaised_errorsStand e.1 cause e.2 t) ds s
  exact hraised.trans (abortStop_errorsStand _ _ _ _)

theorem newtStopped_errorsStand (n : Nat) (s : State) : ErrorsStand s (newtStopped n s) := abortEach_errorsStand _ _ s

theorem jobStop_errorsStand (cause : Nat) (p : FaultPlace) (s : State) : ErrorsStand s (jobStop cause p s) := by
  unfold jobStop
  extract_lets _ s1
  have hstop : ErrorsStand s s1 := .of_eq rfl rfl
  refine .ite (.refl s) ?_
  split
  · exact hstop
  · extract_lets s2 s3
    have hjob : ErrorsStand s s2 := .of_eq rfl rfl
    have hopen : ErrorsStand s2 s3 := abortEach_errorsStand cause _ s2
    clear_value s2 s3
    exact (hjob.trans hopen).trans (.foldl (fun t n => abortAt_errorsStand n t) _ s3)

/-! The halt of a newt in error (R93, R95). -/

/-- A newt at its error, before its program ends. -/
def erredNewt (now code pc : Nat) (v : Newt) : Newt :=
  { errRecord now code pc v with
    state := .error, stall := 0, registered := false, waitPassed := false, abortPend := false, aborted := v.aborted || v.abortPend }

theorem newtHalt_errorsStand (n code pc : Nat) (s : State) :
    ErrorsStand (setNewt n (erredNewt (croak s) code pc (newt s n)) s) (newtHalt n code pc s) := by
  unfold newtHalt
  extract_lets v _ s2 s3
  have hwait : ErrorsStand (setNewt n (erredNewt (croak s) code pc (newt s n)) s) s2 := (unwaitAll_waitsOnly n _).errorsStand
  have hends : ErrorsStand s2 s3 := (programEnds_errorsStand n s2).trans (newtStopped_errorsStand n _)
  clear_value s2 s3
  exact (hwait.trans hends).trans (.ite (jobStop_errorsStand _ _ s3) (.refl s3))

/-- What an error leaves in its newt. -/
theorem errorFace_newtHalt (n code pc : Nat) {s : State} (hs : tsorted s.newts) :
    errorFace (newt (newtHalt n code pc s) n) = errorFace (erredNewt (croak s) code pc (newt s n)) := by
  have hnewt := newt_setNewt n (erredNewt (croak s) code pc (newt s n)) s hs
  rw [(newtHalt_errorsStand n code pc s).newt (tsorted_tset _ hs _ _) n (by rw [hnewt]; rfl), hnewt]

theorem errorFace_newtError (n code pc lc : Nat) {s : State} (hs : tsorted s.newts) :
    errorFace (newt (newtError n code pc lc true s) n) = errorFace (erredNewt (croak s) code pc (newt s n)) := by
  have hnewt (o : Occ) : newt (raise o s) n = newt s n := by rw [newt, raise_newts]; rfl
  unfold newtError
  rw [if_pos rfl, errorFace_newtHalt n code pc (by rwa [raise_newts]), raise_croak, hnewt]

theorem rasRec_newtError (n : Nat) {code : Nat} (pc lc : Nat) {s : State} (hs : tsorted s.newts) (hr : tsorted s.ras.recs)
    (hup : up s = true) (hd : definedCode code = true) : (rasRec (newtError n code pc lc true s) code).set = true := by
  have hrec : (rasRec (raise (newtOcc n code pc lc s) s) code).set = true := rasRec_raise_set (o := newtOcc n code pc lc s) hup hd
  unfold newtError
  rw [if_pos rfl]
  have hsort : tsorted (raise (newtOcc n code pc lc s) s).newts := by rwa [raise_newts]
  have hrecs := (raise_recordsStand (newtOcc n code pc lc s) s).sorted hr
  exact ((newtHalt_errorsStand n code pc _).records (tsorted_tset _ hsort _ _)).set hrecs code hrec

/-! NWT_ERR: the first error stands, and of several in one cycle the one of the lowest PC. -/

theorem errRecord_first {v : Newt} (now code pc : Nat) (h : v.err = false) :
    (errRecord now code pc v).err = true ∧ (errRecord now code pc v).errCode = code ∧ (errRecord now code pc v).errPc = pc := by
  simp [errRecord, h]

theorem errRecord_lower {v : Newt} {now pc : Nat} (code : Nat) (h : v.err = true) (hpc : v.errAt = now ∧ pc < v.errPc) :
    (errRecord now code pc v).errCode = code ∧ (errRecord now code pc v).errPc = pc := by
  simp [errRecord, h, hpc]

theorem errRecord_later {v : Newt} {now pc : Nat} (code : Nat) (h : v.err = true) (hpc : ¬ (v.errAt = now ∧ pc < v.errPc)) :
    (errRecord now code pc v).errCode = v.errCode ∧ (errRecord now code pc v).errPc = v.errPc := by
  rw [errRecord, if_neg (by simp [h]), if_neg hpc]
  exact ⟨rfl, rfl⟩

theorem errRecord_counts {v : Newt} (now code pc : Nat) (h : v.err = true) :
    (errRecord now code pc v).err = true ∧ (errRecord now code pc v).more = min 255 (v.more + 1) := by
  rw [errRecord, if_neg (by simp [h])]
  split <;> exact ⟨h, rfl⟩

theorem errRecord_pond (now code pc : Nat) (v : Newt) :
    (errRecord now code pc v).pond = v.pond ∧ (errRecord now code pc v).pc = v.pc := by
  unfold errRecord
  split
  · exact ⟨rfl, rfl⟩
  · split <;> exact ⟨rfl, rfl⟩

end Sys2Proof.Machine
end

section
/-! How a newt stops (R93 to R97), concluded: a CMT that its abort's cycle still issues, an abort of one newt, and the obligation
NewtStops assembled from the clauses. -/

namespace Sys2Proof.Machine

/-! An abort of a newt whose program runs. -/

/-- An abort of a newt whose program runs marks it ABORTED at once, or lets the instructions in progress complete. -/
theorem newt_abortNewt {n : Nat} {s : State} (hs : tsorted s.newts) (hr : runs (newt s n)) :
    (newt (abortNewt n s) n).aborted = ((newt s n).inflight.isEmpty || (newt s n).aborted) ∧
      (newt (abortNewt n s) n).abortPend = !(newt s n).inflight.isEmpty ∧
      (newt (abortNewt n s) n).issued = (newt s n).issued ∧ (newt (abortNewt n s) n).colls = (newt s n).colls := by
  by_cases hin : (newt s n).inflight = []
  · obtain ⟨hnewt, -, -⟩ := abortNewt_alone hs hr hin
    have haborted := congrArg Newt.aborted hnewt
    have hpend := congrArg Newt.abortPend hnewt
    have hissued := congrArg Newt.issued hnewt
    have hcolls := congrArg Newt.colls hnewt
    rw [hin]
    exact ⟨haborted, hpend, hissued, hcolls⟩
  · have hnewt := newt_abortTold n hs
    have haborted := congrArg Newt.aborted hnewt
    have hissued := congrArg Newt.issued hnewt
    have hcolls := congrArg Newt.colls hnewt
    rw [abortNewt_busy hs hr hin, List.isEmpty_eq_false_iff.mpr hin]
    exact ⟨haborted, abortPend_abortTold n hs, hissued, hcolls⟩

theorem abortNewt_colls {n : Nat} {s : State} (hs : tsorted s.newts) (hr : runs (newt s n)) :
    (abortNewt n s).colls = s.colls := by
  by_cases hin : (newt s n).inflight = []
  · obtain ⟨-, hcolls, -⟩ := abortNewt_alone hs hr hin
    exact hcolls
  · rw [abortNewt_busy hs hr hin, abortTold_colls]

theorem cmtDue_of_not_issuing {n : Nat} {s : State} (h : issuing (newt s n) = false) : cmtDue s n = false := by
  simp [cmtDue, mayIssue, h]

theorem abortAt_of_not_due {n : Nat} {s : State} (h : cmtDue s n = false) : abortAt n s = abortNewt n s := by
  rw [abortAt, h, if_neg Bool.false_ne_true]

/-- The chip once the CMT at the head of newt `n` has issued in the cycle of an abort (R94). -/
def commitFirst (n : Nat) (s : State) : State :=
  modNewt n (fun v => { v with issued := (v.issued + 1) % 2 ^ 32, issuedAt := some (croak s) })
    (commitBy n (iArg (headWord s n)) s)

theorem abortAt_of_due {n : Nat} {s : State} (h : cmtDue s n = true) : abortAt n s = abortNewt n (commitFirst n s) := by
  have hfirst : cmtFirst [n] s = commitBy n (iArg (headWord s n)) s := if_pos h
  rw [abortAt, if_pos h, hfirst]
  rfl

theorem commitBy_newts_sorted {s : State} (n c : Nat) (hs : tsorted s.newts) : tsorted (commitBy n c s).newts := by
  rw [commitBy_newts]
  exact tsorted_tset _ hs _ _

theorem newt_commitBy {s : State} (n c : Nat) (hs : tsorted s.newts) : newt (commitBy n c s) n = { newt s n with coll := c } := by
  have hsame : newt (commitBy n c s) n = newt (modNewt n (fun v => { v with coll := c }) s) n := by
    rw [newt, commitBy_newts]
    rfl
  rw [hsame]
  exact newt_setNewt n _ s hs

theorem newt_commitFirst {s : State} (n : Nat) (hs : tsorted s.newts) :
    newt (commitFirst n s) n =
      { newt s n with coll := iArg (headWord s n), issued := ((newt s n).issued + 1) % 2 ^ 32, issuedAt := some (croak s) } := by
  rw [commitFirst, modNewt, newt_setNewt _ _ _ (commitBy_newts_sorted n _ hs), newt_commitBy n _ hs]

theorem commitFirst_newts_sorted {s : State} (n : Nat) (hs : tsorted s.newts) : tsorted (commitFirst n s).newts :=
  tsorted_tset _ (commitBy_newts_sorted n _ hs) _ _

/-! An abort on one newt that works for no other collective goes no further. -/

theorem abortStop_nil (fuel : Nat) (seen : List Nat) (s : State) : abortStop fuel [] seen s = s := by
  cases fuel <;> rfl

theorem abortMany_nil (cause : Nat) (p : FaultPlace) (s : State) : abortMany [] cause p s = s := abortStop_nil _ _ s

theorem stopFor_one {c n : Nat} {s : State} (h : ∀ d ∈ (newt (abortAt n s) n).colls, d = c) : stopFor c [n] s = abortAt n s := by
  have hnone : (newt (abortAt n s) n).colls.filter (fun d => decide (d ≠ c)) = [] := by
    simpa [List.filter_eq_nil_iff] using h
  unfold stopFor
  cases hstop : stoppable s n with
  | false => simp [hstop]
  | true => simp only [List.filter_cons, List.filter_nil, hstop, if_true, List.foldl_cons, List.foldl_nil, hnone, abortMany_nil]

theorem exec_newtAbort_one {n : Fin 2048} {c : Nat} {s : State} (hup : up s = true)
    (h : ∀ d ∈ (newt (abortAt n.val s) n.val).colls, d = c) : exec (.newtAbort n c) s = .next (abortAt n.val s) :=
  (whenUp_of_up _ hup).trans (congrArg _ (stopFor_one h))

/-- An abort of a newt that does not run its program and works for no other collective. -/
theorem exec_newtAbort_still {n : Fin 2048} {c : Nat} {s t : State} (hup : up s = true) (hiss : issuing (newt s n.val) = false)
    (ht : abortNewt n.val s = t) (hcolls : ∀ d ∈ (newt t n.val).colls, d = c) : exec (.newtAbort n c) s = .next t := by
  have hat := (abortAt_of_not_due (cmtDue_of_not_issuing hiss)).trans ht
  rw [exec_newtAbort_one hup (by rwa [hat]), hat]

/-- A newt in another state than IDLE is read back from any table. -/
theorem newt_setNewt_of_state (n : Nat) {v : Newt} (s : State) (h : v.state ≠ .idle) : newt (setNewt n v s) n = v :=
  tget_tset_ne_default _ _ _ _ fun hv => h (by rw [hv])

theorem State.Wf.recs_sorted {s : State} (h : s.Wf) : tsorted s.ras.recs := by
  obtain ⟨-, ⟨-, -, -, -, hrecs, -⟩, -⟩ := h
  exact hrecs

/-! The clauses of NewtStops. -/

theorem landTimeout_stops {n : Nat} {s : State} (hst : (newt s n).state = .stall) (hwait : (newt s n).stall = 1)
    (hop : iOpc (headWord s n) = 8) (hpend : (newt s n).abortPend = false) :
    landTimeout n s = newtError n 0x090C (newt s n).pc (iIdx (headWord s n)) true s :=
  if_pos (by rw [headWord] at hop; simp [hst, hwait, hpend, hop])

theorem landTimeout_abandoned {n : Nat} {s : State} (hpend : (newt s n).abortPend = true) : landTimeout n s = s :=
  if_neg (by simp [hpend])

theorem pauseNewt_pauses {n : Nat} {s : State} (hiss : issuing (newt s n) = true) (hop : iOpc (headWord s n) = 0xD)
    (hpend : (newt s n).pausePend = true) (hin : (newt s n).inflight = []) :
    pauseNewt n s = setNewt n { newt s n with state := .paused, stall := 0, pausePend := false } s :=
  if_pos (by rw [headWord] at hop; simp [hiss, hpend, hop, hin])

/-- An error stops its newt, sets its record and counts in NWT_ERR (R93). -/
theorem newtError_stops (n : Nat) {code : Nat} (pc lc : Nat) {s : State} (hs : tsorted s.newts) (hr : tsorted s.ras.recs)
    (hup : up s = true) (hd : definedCode code = true) :
    let v := newt s n
    let t := newtError n code pc lc true s
    (newt t n).state = .error ∧ (rasRec t code).set = true ∧ (newt t n).err = true ∧
    (v.err = false → (newt t n).errCode = code ∧ (newt t n).errPc = pc) ∧
    (v.err = true → (newt t n).more = min 255 (v.more + 1) ∧
      (v.errAt = croak s ∧ pc < v.errPc → (newt t n).errCode = code ∧ (newt t n).errPc = pc) ∧
      (¬ (v.errAt = croak s ∧ pc < v.errPc) → (newt t n).errCode = v.errCode ∧ (newt t n).errPc = v.errPc)) ∧
    (newt t n).pond = v.pond ∧ (newt t n).pc = v.pc := by
  intro v t
  have hrec : (rasRec t code).set = true := rasRec_newtError n pc lc hs hr hup hd
  have hface : errorFace (newt t n) = errorFace (erredNewt (croak s) code pc v) := errorFace_newtError n code pc lc hs
  clear_value t
  simp only [errorFace, Prod.mk.injEq] at hface
  obtain ⟨hstate, herr, hcode, hpc, hmore, hpond, hat⟩ := hface
  obtain ⟨hpondv, hatv⟩ := errRecord_pond (croak s) code pc v
  have hset : (errRecord (croak s) code pc v).err = true := by
    cases hv : v.err with
    | false => exact (errRecord_first _ code pc hv).1
    | true => exact (errRecord_counts _ code pc hv).1
  rw [hstate, herr, hcode, hpc, hmore, hpond, hat]
  exact ⟨rfl, hrec, hset, fun hv => (errRecord_first _ code pc hv).2,
    fun hv => ⟨(errRecord_counts _ code pc hv).2, errRecord_lower code hv, errRecord_later code hv⟩, hpondv, hatv⟩

/-- Settles O50: an error, a timeout, a pause and an abort of a newt by case; what a newt in ERROR holds stands through the
stops that follow from its error. -/
theorem newtStops : Obligations.NewtStops := by
  unfold Obligations.NewtStops
  refine ⟨?_, ?_, ?_, ?_, ?_⟩
  case refine_1 =>
    intro n code pc lc s hwf hup hd
    exact newtError_stops n.val pc lc hwf.newts_sorted hwf.recs_sorted hup hd
  case refine_2 =>
    intro n s hup hst hwait hop
    exact ⟨fun hpend => (whenUp_of_up _ hup).trans (congrArg _ (landTimeout_stops hst hwait hop hpend)),
      fun hpend => (whenUp_of_up _ hup).trans (congrArg _ (landTimeout_abandoned hpend))⟩
  case refine_3 =>
    intro n s hup hiss hop hpend hin
    exact (whenUp_of_up _ hup).trans (congrArg _ (pauseNewt_pauses hiss hop hpend hin))
  case refine_4 =>
    intro n c s hwf hup v hr hpend hcolls
    have hs := hwf.newts_sorted
    have hexec (hnot : cmtDue s n.val = false) : exec (.newtAbort n c) s = .next (abortNewt n.val s) := by
      obtain ⟨-, -, -, hsame⟩ := newt_abortNewt hs hr
      rw [exec_newtAbort_one hup (by rwa [abortAt_of_not_due hnot, hsame]), abortAt_of_not_due hnot]
    refine ⟨fun hdue => ?_, fun hnot hin => ⟨_, hexec hnot, ?_⟩, fun hnot hin => ⟨_, hexec hnot, ?_⟩⟩
    · have hfirst := newt_commitFirst n.val hs
      have hsort := commitFirst_newts_sorted n.val hs
      have hr1 : runs (newt (commitFirst n.val s) n.val) := by rw [hfirst]; exact hr
      obtain ⟨haborted, habortPend, hissued, hsame⟩ := newt_abortNewt hsort hr1
      rw [hfirst] at haborted habortPend hissued hsame
      refine ⟨abortNewt n.val (commitFirst n.val s), ?_, haborted, habortPend, hissued, abortNewt_colls hsort hr1⟩
      rw [exec_newtAbort_one hup (by rwa [abortAt_of_due hdue, hsame]), abortAt_of_due hdue]
    · obtain ⟨hnewt, hsame, howned⟩ := abortNewt_alone hs hr hin
      have hstate := congrArg Newt.state hnewt
      have haborted := congrArg Newt.aborted hnewt
      have hescapes := congrArg Newt.escapes hnewt
      exact ⟨hstate, haborted, hescapes, howned, hsame⟩
    · rw [abortNewt_busy hs hr hin]
      refine ⟨abortPend_abortTold _ hs, ?_, inflight_abortTold _ hs, abortTold_colls _ s⟩
      simp [issuing, abortPend_abortTold _ hs]
  case refine_5 =>
    intro n c s hup hcolls
    dsimp only
    refine ⟨fun hst hrole hjob => ?_, fun hst => ?_, fun hst => ?_⟩
    · refine exec_newtAbort_still hup (by simp [issuing, hst]) (abortNewt_of_waiting hst hrole hjob) ?_
      rwa [newt_setNewt_of_state _ _ (by simp)]
    · refine exec_newtAbort_still hup (by simp [issuing, hst]) (abortNewt_of_error hst) ?_
      rwa [newt_setNewt_of_state _ _ (by simp [hst])]
    · rcases hst with hst | ⟨hst, hno⟩
      · exact exec_newtAbort_still hup (by simp [issuing, hst]) (abortNewt_of_done hst) hcolls
      · refine exec_newtAbort_still hup (by simp [issuing, hst]) (abortNewt_of_idle hst fun ⟨hrole, hjob⟩ => ?_) hcolls
        rcases hno with hno | hno
        · exact hno hrole
        · simp [hno] at hjob

end Sys2Proof.Machine
end

section
/-! Two statements about sync objects that fail, each at one concrete state. -/

namespace Sys2Proof.Machine

/-- A running chip. -/
def runningChip : State := { State.reset with pins := { State.reset.pins with phase := .running } }

/-! A table that lists an object with the value of an object that no write has touched: `State.Wf` asks for rising keys only, and a
configuration write that is rejected stores the object as it is, which takes such an entry off the list. -/

/-- Object 0 is free, and the table of objects lists it all the same. -/
def freeObjectListed : State := { runningChip with sync := { runningChip.sync with objs := [(0, {})] } }

theorem freeObjectListed_wf : freeObjectListed.Wf := by decide +kernel

/-- A COUNTER of DEPTH 0 is none that R159 admits. -/
theorem freeObjectListed_refuses : up freeObjectListed = true ∧ (obj freeObjectListed 0).kind = 0 ∧
    bits (1 : Word).toNat 1 0 = 1 ∧ cfgValid freeObjectListed 0 (1 : Word).toNat = false := by decide +kernel

theorem syncCfgWrite_freeObjectListed : (syncCfgWrite 0 (1 : Word).toNat freeObjectListed).sync.objs = [] := by decide +kernel

theorem exec_syncCreate (o : Fin 8192) {w : Word} {s : State} (hup : up s = true) (hw : bits w.toNat 1 0 ≠ 0) :
    exec (.syncCreate o w) s = .next (syncCfgWrite o.val w.toNat s) :=
  (whenUp_of_up (fun s => if bits w.toNat 1 0 = 0 then s else syncCfgWrite o.val w.toNat s) hup).trans (congrArg _ (if_neg hw))

/-- Refutes O43: a configuration write that is rejected does not always leave the sync-object unit as it is. In `freeObjectListed`,
which is well formed, it takes the free object off the table. -/
theorem not_syncObjects : ¬ Obligations.SyncObjects := by
  unfold Obligations.SyncObjects
  intro ⟨hcreate, _⟩
  obtain ⟨hup, hkind, hword, hbad⟩ := freeObjectListed_refuses
  obtain ⟨_, hrejected⟩ := hcreate 0 1 freeObjectListed freeObjectListed_wf hup hkind (.inl hword)
  obtain ⟨t, hexec, _, hsync⟩ := hrejected hbad
  have hnext := Host.Outcome.next.inj ((exec_syncCreate 0 hup (by rw [hword]; decide)).symm.trans hexec)
  have hobjs := syncCfgWrite_freeObjectListed
  rw [Fin.val_zero] at hnext
  rw [hnext, hsync] at hobjs
  exact absurd hobjs (by decide)

/-! A cell over a part of a poisoned block: the stack controller reads the block first (R383, R387), an uncorrectable read that is
recorded, and the record's log entry is written to the log ring, which lies in Lovor memory. -/

/-- The log is written to its ring, block 1 is poisoned, and object 0 is a COUNTED counter whose declared source is agent 0. -/
def cellOnPoison : State :=
  { runningChip with
    log := { runningChip.log with ready := true }
    lov := { runningChip.lov with poison := [1] }
    sync := { runningChip.sync with objs := [(0, { kind := 1, counted := true, depth := 1 })] } }

theorem cellOnPoison_wf : cellOnPoison.Wf := by decide +kernel

theorem cellOnPoison_counts : up cellOnPoison = true ∧ (obj cellOnPoison 0).kind = 1 ∧ (obj cellOnPoison 0).counted = true ∧
    0 % 2 ^ 23 = (obj cellOnPoison 0).peer % 2 ^ 23 ∧ memByte cellOnPoison.lov.mem (logBase + 19) = 0 := by decide +kernel

/-- Byte 19 of a log entry is the high byte of its ID, here the code 0x0D01. -/
theorem taggedWrite_cellOnPoison : memByte (taggedWrite 0 0 0 64 [1] cellOnPoison).lov.mem (logBase + 19) = 0x0D := by decide +kernel

/-- Refutes O44: a cell that covers a part of a poisoned block changes other bytes of Lovor memory than its own. In `cellOnPoison` the
uncorrectable read of the block is logged, and the entry's bytes change in the log ring. -/
theorem not_remoteSignals : ¬ Obligations.RemoteSignals := by
  unfold Obligations.RemoteSignals
  intro ⟨hcell, _⟩
  obtain ⟨hup, hkind, hcounted, hsource, hzero⟩ := cellOnPoison_counts
  obtain ⟨hcounts, _⟩ := hcell 0 0 0 64 [1] cellOnPoison cellOnPoison_wf hup
  obtain ⟨t, hexec, _, _, hbytes, _⟩ := hcounts hkind hcounted hsource
  have hnext : taggedWrite 0 0 0 64 [1] cellOnPoison = t :=
    Host.Outcome.next.inj ((whenUp_of_up (taggedWrite 0 0 0 64 [1]) hup).symm.trans hexec)
  have hbyte := hbytes (logBase + 19)
  rw [← hnext, taggedWrite_cellOnPoison, if_neg (by decide), hzero] at hbyte
  exact absurd hbyte (by decide)

end Sys2Proof.Machine
end

section
/-! Rules of the sync-object unit: what a write of an object or of a barrier line is read back as, how waiters are served (R163), and
what a signal, a wait and an arrival at a barrier do (R157, R162, R170). -/

namespace Sys2Proof.Machine

/-! Objects and lines. -/

theorem State.Wf.objs_sorted {s : State} (h : s.Wf) : tsorted s.sync.objs := by
  obtain ⟨-, ⟨-, -, -, -, -, -, -, -, hobjs, -⟩, -⟩ := h
  exact hobjs

theorem State.Wf.lines_sorted {s : State} (h : s.Wf) : tsorted s.sync.lines := by
  obtain ⟨-, ⟨-, -, -, -, -, -, -, -, -, hlines, -⟩, -⟩ := h
  exact hlines

theorem obj_of_sync {s t : State} (h : t.sync = s.sync) (o : Nat) : obj t o = obj s o := by
  rw [obj, h]; rfl

theorem bline_of_sync {s t : State} (h : t.sync = s.sync) (l : Nat) : bline t l = bline s l := by
  rw [bline, h]; rfl

@[simp] theorem newt_setObj (o n : Nat) (v : SyncObj) (s : State) : newt (setObj o v s) n = newt s n := rfl
@[simp] theorem newt_setBline (l n : Nat) (v : BLine) (s : State) : newt (setBline l v s) n = newt s n := rfl
@[simp] theorem obj_setBline (l o : Nat) (v : BLine) (s : State) : obj (setBline l v s) o = obj s o := rfl
@[simp] theorem bline_setObj (o l : Nat) (v : SyncObj) (s : State) : bline (setObj o v s) l = bline s l := rfl

theorem setObj_setObj {s : State} (hs : tsorted s.sync.objs) (o : Nat) (v w : SyncObj) :
    setObj o w (setObj o v s) = setObj o w s := by
  simp only [setObj, tset_tset _ hs]

/-! Serving the waiters of an object. -/

theorem serve_of_no_waiter {o : Nat} {s : State} (h : (obj s o).waiters = []) : serve o s = s := by
  rw [serve, h]; rfl

theorem serve_of_unmet {o : Nat} {s : State} {w : Waiter} {r : List Waiter} (h : (obj s o).waiters = w :: r)
    (hw : waitMet (obj s o) w.d = false) : serve o s = s := by
  rw [serve, h, List.length_cons, serveN]
  simp [h, hw]

/-- The only waiter, whose condition holds, is released. -/
theorem serve_of_met {o : Nat} {s : State} {w : Waiter} (h : (obj s o).waiters = [w]) (hw : waitMet (obj s o) w.d = true) :
    serve o s = releaseAgent w.agent (setObj o { waitTake (obj s o) w.d with waiters := [] } s) := by
  rw [serve, h, List.length_singleton, serveN]
  simp only [h, hw, if_true]
  rfl

/-- The only object that waiters are added to is served as it stands with them. -/
theorem serve_setObj_met {o : Nat} {v : SyncObj} {s : State} {w : Waiter} (hs : tsorted s.sync.objs) (h : v.waiters = [w])
    (hw : waitMet v w.d = true) :
    serve o (setObj o v s) = releaseAgent w.agent (setObj o { waitTake v w.d with waiters := [] } s) := by
  have hv : obj (setObj o v s) o = v := obj_setObj o v s hs
  rw [serve_of_met (by rw [hv, h]) (by rw [hv, hw]), hv, setObj_setObj hs]

theorem releaseAgent_newt {n : Nat} (h : n < 0x2000) (s : State) :
    releaseAgent n s = setNewt n { newt s n with waitPassed := true, registered := false } s := if_pos h

/-! Waits on a plain COUNTER that no other agent waits on (R162, R163). -/

section Wait

variable {o agent d : Nat} {s : State} (hs : tsorted s.sync.objs) (hkind : (obj s o).kind = 1) (hproxy : (obj s o).proxy = false)
  (hnone : (obj s o).waiters = []) (hd : 1 ≤ d ∧ d ≤ 65535)

include hs hkind hproxy hnone hd

theorem syncWait_takes (h : d ≤ avail (obj s o)) : syncWait o agent d s =
    (releaseAgent agent (setObj o { obj s o with cons := ((obj s o).cons + d) % 2 ^ 64 } s), none) := by
  have hvalid : waitValid (obj s o) d = true := by simp [waitValid, hd, hkind, hproxy]
  have hmet : waitMet { obj s o with waiters := [{ agent := agent, d := d }] } d = true := (if_pos hkind).trans (decide_eq_true h)
  rw [syncWait, if_pos hvalid, modObj, hnone, List.nil_append, serve_setObj_met hs rfl hmet]
  simp [waitTake, hkind, hnone]

theorem syncWait_registers (h : avail (obj s o) < d) : syncWait o agent d s =
    (setObj o { obj s o with waiters := [{ agent := agent, d := d }] } s, none) := by
  have hvalid : waitValid (obj s o) d = true := by simp [waitValid, hd, hkind, hproxy]
  have hmet : waitMet { obj s o with waiters := [{ agent := agent, d := d }] } d = false :=
    (if_pos hkind).trans (decide_eq_false (Nat.not_le.mpr h))
  have hread := obj_setObj o { obj s o with waiters := [{ agent := agent, d := d }] } s hs
  rw [syncWait, if_pos hvalid, modObj, hnone, List.nil_append, serve_of_unmet (by rw [hread]) (by rw [hread]; exact hmet)]

end Wait

/-- A signal adds its D to a plain COUNTER with room for it and no waiter (R157). -/
theorem signalLocal_adds {o d agent pc : Nat} {s : State} (hs : tsorted s.sync.objs) (hkind : (obj s o).kind = 1)
    (hproxy : (obj s o).proxy = false) (hcounted : (obj s o).counted = false) (hnone : (obj s o).waiters = [])
    (hd : 1 ≤ d ∧ d ≤ 65535) (hroom : avail (obj s o) + d ≤ (obj s o).depth) :
    signalLocal o d agent pc s = (setObj o { obj s o with prod := ((obj s o).prod + d) % 2 ^ 64 } s, none) := by
  have hd' : ¬ (d = 0 ∨ 65535 < d) := by omega
  have hplain : signalLocal o d agent pc s = signalApply o d agent (chipSrc s) s := by simp [signalLocal, hd', hproxy, hcounted]
  rw [hplain, signalApply, if_pos hkind, if_neg (Nat.not_lt.mpr hroom), serve_of_no_waiter]
  rw [obj_setObj _ _ _ hs]
  exact hnone

/-! Arrivals at an on-chip barrier that no agent waits on (R170, R171). -/

section Arrive

variable {o n : Nat} {s : State} (hobjs : tsorted s.sync.objs) (hlines : tsorted s.sync.lines) (hn : n < 0x2000)
  (hkind : (obj s o).kind = 2) (hnone : (obj s o).waiters = [])
  (hmask : n ∈ (bline s (obj s o).bl).mask)

theorem leafOf_newt {n : Nat} (hn : n < 0x2000) : leafOf n = n := if_pos hn

theorem mem_insertNat {l : List Nat} {v a : Nat} : a ∈ insertNat l v ↔ a = v ∨ a ∈ l := by
  induction l with
  | nil => simp [insertNat]
  | cons b r ih =>
    unfold insertNat
    split
    · simp
    · split
      · next h => simp [h]
      · rw [List.mem_cons, ih, List.mem_cons]; tauto

/-- The chip once the leaf of newt `n` has arrived and `n` waits. -/
def arrivedAt (o n : Nat) (s : State) : State :=
  setObj o { obj s o with waiters := [{ agent := n, d := 0 }] }
    (setBline (obj s o).bl { bline s (obj s o).bl with arrived := insertNat (bline s (obj s o).bl).arrived n } s)

include hn hkind hnone hmask

theorem barrArrive_arrives (hfresh : n ∉ (bline s (obj s o).bl).arrived) :
    barrArrive o n s = (lineCheck o (arrivedAt o n s), none) := by
  unfold barrArrive
  simp only [leafOf_newt hn]
  rw [if_pos ⟨hkind, hmask⟩, if_neg hfresh]
  simp [modObj, hnone, arrivedAt]

include hobjs hlines

omit hn hkind hnone hmask in
theorem arrivedAt_reads : obj (arrivedAt o n s) o = { obj s o with waiters := [{ agent := n, d := 0 }] } ∧
    bline (arrivedAt o n s) (obj s o).bl =
      { bline s (obj s o).bl with arrived := insertNat (bline s (obj s o).bl).arrived n } := by
  refine ⟨obj_setObj _ _ _ hobjs, ?_⟩
  rw [arrivedAt, bline_setObj, bline_setBline _ _ _ hlines]

/-- While another enabled leaf has not arrived, the newt waits. -/
theorem barrArrive_waits (hfabric : (obj s o).fabric = false) (hfresh : n ∉ (bline s (obj s o).bl).arrived)
    (hmissing : ∃ i, i ∈ (bline s (obj s o).bl).mask ∧ i ≠ n ∧ i ∉ (bline s (obj s o).bl).arrived) :
    barrArrive o n s = (arrivedAt o n s, none) := by
  obtain ⟨hobj, hline⟩ := arrivedAt_reads (o := o) (n := n) hobjs hlines
  have hnot : lineFull (bline (arrivedAt o n s) (obj s o).bl) = false := by
    obtain ⟨i, him, hin, hia⟩ := hmissing
    rw [hline, lineFull, List.all_eq_false]
    exact ⟨i, him, by simp [mem_insertNat, hin, hia]⟩
  rw [barrArrive_arrives hn hkind hnone hmask hfresh]
  simp [lineCheck, hobj, hfabric, hnot]

/-- The last enabled leaf to arrive completes the line (R170). -/
theorem barrArrive_completes (hfabric : (obj s o).fabric = false) (hfresh : n ∉ (bline s (obj s o).bl).arrived)
    (hall : ∀ i, i ∈ (bline s (obj s o).bl).mask → i = n ∨ i ∈ (bline s (obj s o).bl).arrived) :
    ∃ x, barrArrive o n s = (releaseAgent n x, none) ∧ x = { s with sync := x.sync } ∧
      (bline x (obj s o).bl).out = !(bline s (obj s o).bl).out ∧ (bline x (obj s o).bl).arrived = [] ∧
      (obj x o).prod = ((obj s o).prod + 1) % 2 ^ 64 := by
  obtain ⟨hobj, hline⟩ := arrivedAt_reads (o := o) (n := n) hobjs hlines
  have hfull : lineFull (bline (arrivedAt o n s) (obj s o).bl) = true := by
    rw [hline, lineFull, List.all_eq_true]
    intro i hi
    simpa [mem_insertNat] using hall i hi
  refine ⟨setObj o { obj s o with prod := ((obj s o).prod + 1) % 2 ^ 64, waiters := [] } (setBline (obj s o).bl
      { bline (arrivedAt o n s) (obj s o).bl with out := !(bline s (obj s o).bl).out, arrived := [] } (arrivedAt o n s)),
    ?_, rfl, ?_, ?_, ?_⟩
  · rw [barrArrive_arrives hn hkind hnone hmask hfresh]
    rw [lineCheck, hobj, if_neg (by simp [hfabric]), if_pos hfull, lineRelease, hobj, hline]
    rfl
  · rw [bline_setObj, bline_setBline _ _ _ (tsorted_tset _ hlines _ _)]
  · rw [bline_setObj, bline_setBline _ _ _ (tsorted_tset _ hlines _ _)]
  · rw [obj_setObj _ _ _ (tsorted_tset _ hobjs _ _)]

/-- A leaf that still stands arrived from an abandoned arrival toggles back, and the newt leaves at once (R167, log 117). -/
theorem barrArrive_toggles (hstands : n ∈ (bline s (obj s o).bl).arrived) :
    ∃ x, barrArrive o n s = (releaseAgent n x, none) ∧ x = { s with sync := x.sync } ∧
      (bline x (obj s o).bl).out = (bline s (obj s o).bl).out ∧ n ∉ (bline x (obj s o).bl).arrived ∧
      (obj x o).prod = (obj s o).prod := by
  refine ⟨setObj o (obj s o) (setBline (obj s o).bl { bline s (obj s o).bl with
    arrived := (bline s (obj s o).bl).arrived.filter (fun i => decide (i ≠ n)) } s), ?_, rfl, ?_, ?_, ?_⟩
  · unfold barrArrive
    simp only [leafOf_newt hn]
    rw [if_pos ⟨hkind, hmask⟩, if_pos hstands]
    simp only [modObj, obj_setBline, hnone, List.filter_nil, List.map_nil, List.nil_append, List.foldl_cons, List.foldl_nil]
    rw [← hnone]
  · rw [bline_setObj, bline_setBline _ _ _ hlines]
  · rw [bline_setObj, bline_setBline _ _ _ hlines]
    simp
  · rw [obj_setObj _ _ _ (by exact hobjs)]

end Arrive

end Sys2Proof.Machine
end


section
/-! Waits and signals of a newt at its head (R162, R163, R170, R171), and the obligation NewtSync assembled from them. -/

namespace Sys2Proof.Machine

/-! A wait that has registered (R163). -/

theorem touch_frame (j : Option Nat) (o : Nat) (s : State) : touch j o s = { s with jobs := (touch j o s).jobs } := by
  cases j <;> rfl

/-- The schedule once a wait of newt `v` that names pad group `pg` has issued (R198). -/
def countedSch (v : Newt) (pg : Nat) (c : Sch) : Sch :=
  if v.role = .scheduled then { c with waits := tset 0 c.waits pg (tget 0 c.waits pg + 1) } else c

theorem countWait_eq (v : Newt) (pg : Nat) (s : State) : countWait v pg s = { s with sch := countedSch v pg s.sch } := by
  unfold countWait countedSch
  split <;> rfl

/-- From `s` to `x` the wait at the head of newt `n` has registered; beside that newt, only sync objects and the objects that jobs have
touched may have changed. -/
structure Registered (n : Nat) (s x : State) : Prop where
  sorted : tsorted x.newts
  newt_eq : newt x n = { newt s n with registered := true }
  other : ∀ m, m ≠ n → newt x m = newt s m
  frame : x = { s with newts := x.newts, sync := x.sync, jobs := x.jobs }

theorem Registered.of_sync {n : Nat} {s x y : State} (h : Registered n s x) (hy : y = { x with sync := y.sync }) :
    Registered n s y where
  sorted := by rw [hy]; exact h.sorted
  newt_eq := by rw [hy]; exact h.newt_eq
  other m hm := by rw [hy]; exact h.other m hm
  frame := by rw [hy, h.frame]

section Released

variable {n : Nat} {s x : State}

/-- A newt whose wait is not met stalls on it. -/
theorem Registered.stalls (h : Registered n s x) :
    newt (stallHead n 2 x) n = { newt s n with state := .stall, stall := 2, registered := true } ∧
      (∀ m, m ≠ n → newt (stallHead n 2 x) m = newt s m) ∧ (stallHead n 2 x).sync = x.sync ∧
      stallHead n 2 x = { s with newts := (stallHead n 2 x).newts, sync := x.sync, jobs := x.jobs } := by
  refine ⟨?_, fun m hm => ?_, rfl, ?_⟩
  · rw [stallHead, modNewt, newt_setNewt _ _ _ h.sorted, h.newt_eq]
  · rw [stallHead, modNewt, newt_setNewt_other _ _ _ _ h.sorted hm, h.other m hm]
  · rw [stallHead, modNewt, setNewt, h.frame]

theorem Registered.issued_release (hn : n < 0x2000) (h : Registered n s x) (hgo : goesOn (newt s n)) :
    issued n (releaseAgent n x) = setNewt n (afterIssue (croak s) (newt s n)) x := by
  rw [releaseAgent_newt hn, issued_setNewt h.sorted (v := { newt x n with waitPassed := true, registered := false })
    (by rw [h.newt_eq]; exact hgo), h.newt_eq, croak, h.frame]
  rfl

/-- A newt whose wait has been released issues, and a scheduled one is counted for its pad group (R163, R198). -/
theorem Registered.issues (hn : n < 0x2000) (h : Registered n s x) (hgo : goesOn (newt s n)) (pg : Nat) {t : State}
    (ht : t = countWait (newt s n) pg (issued n (releaseAgent n x))) :
    newt t n = afterIssue (croak s) (newt s n) ∧ (∀ m, m ≠ n → newt t m = newt s m) ∧ t.sync = x.sync ∧
      t = { s with newts := t.newts, sync := t.sync, jobs := t.jobs, sch := countedSch (newt s n) pg s.sch } := by
  rw [h.issued_release hn hgo, countWait_eq] at ht
  subst ht
  refine ⟨?_, fun m hm => ?_, rfl, ?_⟩
  · exact newt_setNewt _ _ _ h.sorted
  · exact (newt_setNewt_other _ _ _ _ h.sorted hm).trans (h.other m hm)
  · rw [h.frame]; rfl

end Released

section ObjWait

variable {n w : Nat} {s : State} {reg : State → State × Option Nat}

theorem objWait_passed (h : (newt s n).waitPassed = true) : objWait n w reg s = countWait (newt s n) (iPg w) (issued n s) := by
  simp [objWait, h]

theorem objWait_registered (h : (newt s n).waitPassed = false) (hr : (newt s n).registered = true) :
    objWait n w reg s = stallHead n 2 s := by
  simp [objWait, h, hr]

/-- A wait that reaches the head registers; it issues if its newt is released at once, and stalls otherwise. -/
theorem objWait_fresh (hs : tsorted s.newts) (h : (newt s n).waitPassed = false) (hr : (newt s n).registered = false) :
    ∃ x, Registered n s x ∧ x.sync = s.sync ∧ ∀ t, reg x = (t, none) → objWait n w reg s =
      if (newt t n).waitPassed then countWait (newt s n) (iPg w) (issued n t) else stallHead n 2 t := by
  refine ⟨touch (newtJob s (newt s n)) (iIdx w) (setNewt n { newt s n with registered := true } s), ?_, ?_, fun t ht => ?_⟩
  · rw [touch_frame]
    exact ⟨tsorted_tset _ hs _ _, newt_setNewt n _ s hs, fun m hm => newt_setNewt_other n m _ s hs hm, rfl⟩
  · rw [touch_frame]; rfl
  · unfold objWait
    simp only [h, hr]
    rw [modNewt, ht]
    rfl

variable (hs : tsorted s.newts) (hpassed : (newt s n).waitPassed = false) (hreg : (newt s n).registered = false)

include hs hpassed hreg

/-- A wait that its registration does not release stalls. -/
theorem objWait_stalls {P : Sync → Prop}
    (hwait : ∀ x, x.sync = s.sync → ∃ y, reg x = (y, none) ∧ y = { x with sync := y.sync } ∧ P y.sync) :
    ∃ t, objWait n w reg s = t ∧ newt t n = { newt s n with state := .stall, stall := 2, registered := true } ∧ P t.sync ∧
      (∀ m, m ≠ n → newt t m = newt s m) ∧ t = { s with newts := t.newts, sync := t.sync, jobs := t.jobs } := by
  obtain ⟨x, hx, hsync, hrun⟩ := objWait_fresh (w := w) (reg := reg) hs hpassed hreg
  obtain ⟨y, hy, hframe, hP⟩ := hwait x hsync
  have hyreg := hx.of_sync hframe
  obtain ⟨hnewt, hother, hsync', hall⟩ := hyreg.stalls
  refine ⟨stallHead n 2 y, ?_, hnewt, by rwa [hsync'], hother, hall⟩
  rw [hrun y hy, hyreg.newt_eq, if_neg (by simp [hpassed])]

/-- A wait that its registration releases issues. -/
theorem objWait_issues {P : Sync → Prop} (hn : n < 0x2000) (hgo : goesOn (newt s n))
    (hwait : ∀ x, x.sync = s.sync → ∃ y, reg x = (releaseAgent n y, none) ∧ y = { x with sync := y.sync } ∧ P y.sync) :
    ∃ t, objWait n w reg s = t ∧ newt t n = afterIssue (croak s) (newt s n) ∧ P t.sync ∧ (∀ m, m ≠ n → newt t m = newt s m) ∧
      t = { s with newts := t.newts, sync := t.sync, jobs := t.jobs, sch := countedSch (newt s n) (iPg w) s.sch } := by
  obtain ⟨x, hx, hsync, hrun⟩ := objWait_fresh (w := w) (reg := reg) hs hpassed hreg
  obtain ⟨y, hy, hframe, hP⟩ := hwait x hsync
  have hyreg := hx.of_sync hframe
  obtain ⟨hnewt, hother, hsync', hall⟩ := hyreg.issues hn hgo (iPg w) rfl
  refine ⟨countWait (newt s n) (iPg w) (issued n (releaseAgent n y)), ?_, hnewt, by rwa [hsync'], hother, hall⟩
  have hreleased : (newt (releaseAgent n y) n).waitPassed = true := by
    rw [releaseAgent_newt hn, newt_setNewt _ _ _ hyreg.sorted]
  rw [hrun _ hy, if_pos hreleased]

end ObjWait

/-! WSO (R163). -/

theorem iN_le (w : Nat) : iN w ≤ 65535 := Nat.le_of_lt_succ (Nat.mod_lt _ (by decide))

theorem wsoHead_waits {n w : Nat} {s : State} (hN : iN w ≠ 0) (hhigh : bits w 35 32 = 0) (hlow : bits w 15 13 = 0)
    (htmo : (tmoTicks (iTmo w)).isSome = true) : wsoHead n w s = objWait n w (syncWait (iIdx w) n (iN w)) s := by
  simp [wsoHead, waitTmo, hN, hhigh, hlow, htmo]

section Wso

variable {n w : Nat} {s : State} (hwf : s.Wf) (hN : iN w ≠ 0) (hpassed : (newt s n).waitPassed = false)
  (hreg : (newt s n).registered = false) (hkind : (obj s (iIdx w)).kind = 1) (hproxy : (obj s (iIdx w)).proxy = false)
  (hnone : (obj s (iIdx w)).waiters = [])

include hwf hN hpassed hreg hkind hproxy hnone

theorem wso_takes (hn : n < 0x2000) (hgo : goesOn (newt s n)) (h : iN w ≤ avail (obj s (iIdx w))) :
    ∃ t, objWait n w (syncWait (iIdx w) n (iN w)) s = t ∧ newt t n = afterIssue (croak s) (newt s n) ∧
      (obj t (iIdx w) = { obj s (iIdx w) with cons := ((obj s (iIdx w)).cons + iN w) % 2 ^ 64 } ∧
        ∀ k, k ≠ iIdx w → obj t k = obj s k) ∧ (∀ m, m ≠ n → newt t m = newt s m) ∧
      t = { s with newts := t.newts, sync := t.sync, jobs := t.jobs, sch := countedSch (newt s n) (iPg w) s.sch } := by
  refine objWait_issues hwf.newts_sorted hpassed hreg hn hgo
    (P := fun y => tget {} y.objs (iIdx w) = { obj s (iIdx w) with cons := ((obj s (iIdx w)).cons + iN w) % 2 ^ 64 } ∧
      ∀ k, k ≠ iIdx w → tget {} y.objs k = obj s k) fun x hx => ?_
  have hobjs : tsorted x.sync.objs := by rw [hx]; exact hwf.objs_sorted
  have hsame := obj_of_sync hx
  rw [syncWait_takes hobjs (by rwa [hsame]) (by rwa [hsame]) (by rwa [hsame]) ⟨Nat.one_le_iff_ne_zero.mpr hN, iN_le w⟩
    (by rwa [hsame]), hsame]
  exact ⟨_, rfl, rfl, obj_setObj _ _ _ hobjs, fun k hk => (obj_setObj_other _ _ _ _ hobjs hk).trans (hsame k)⟩

theorem wso_registers (h : avail (obj s (iIdx w)) < iN w) :
    ∃ t, objWait n w (syncWait (iIdx w) n (iN w)) s = t ∧
      newt t n = { newt s n with state := .stall, stall := 2, registered := true } ∧
      (obj t (iIdx w) = { obj s (iIdx w) with waiters := [{ agent := n, d := iN w }] } ∧ ∀ k, k ≠ iIdx w → obj t k = obj s k) ∧
      (∀ m, m ≠ n → newt t m = newt s m) ∧ t = { s with newts := t.newts, sync := t.sync, jobs := t.jobs } := by
  refine objWait_stalls hwf.newts_sorted hpassed hreg
    (P := fun y => tget {} y.objs (iIdx w) = { obj s (iIdx w) with waiters := [{ agent := n, d := iN w }] } ∧
      ∀ k, k ≠ iIdx w → tget {} y.objs k = obj s k) fun x hx => ?_
  have hobjs : tsorted x.sync.objs := by rw [hx]; exact hwf.objs_sorted
  have hsame := obj_of_sync hx
  rw [syncWait_registers hobjs (by rwa [hsame]) (by rwa [hsame]) (by rwa [hsame]) ⟨Nat.one_le_iff_ne_zero.mpr hN, iN_le w⟩
    (by rwa [hsame]), hsame]
  exact ⟨_, rfl, rfl, obj_setObj _ _ _ hobjs, fun k hk => (obj_setObj_other _ _ _ _ hobjs hk).trans (hsame k)⟩

end Wso

/-! SIG (R162). -/

section Sig

variable {n w : Nat} {s : State}

/-- The SIG at the head of a newt as it waits for the instructions before it. -/
def heldSig (now : Nat) (v : Newt) (w : Nat) : Inflight :=
  { pc := v.pc, groups := [], reads := [], writes := [], issuedAt := now, sigObj := some (iIdx w, iN w) }

/-- A SIG issues, and is applied once those before it have completed. -/
theorem sigHead_pumps (hs : tsorted s.newts) (hgo : goesOn (newt s n)) (hN : iN w ≠ 0) (hhigh : bits w 57 32 = 0)
    (hlow : bits w 15 13 = 0) : sigHead n w s = sigPump ((newt s n).inflight.length + 1) n (setNewt n
      (afterIssue (croak s) { newt s n with inflight := (newt s n).inflight ++ [heldSig (croak s) (newt s n) w] }) s) := by
  unfold sigHead
  simp only [hN, hhigh, hlow, ne_eq, not_true_eq_false, or_self, if_false]
  rw [issued_setNewt hs (by exact hgo), newt_setNewt _ _ _ hs]
  simp [afterIssue, heldSig]

theorem sigPump_blocked {i : Inflight} {r : List Inflight} (fuel : Nat) (h : (newt s n).inflight = i :: r)
    (hi : i.sigObj = none) : sigPump fuel n s = s := by
  cases fuel with
  | zero => rfl
  | succ fuel => simp [sigPump, h, hi]

/-- The only instruction in progress is a SIG: it leaves the newt once its signal is accepted. -/
theorem sigPump_applies {i : Inflight} {o d : Nat} {t : State} (h : (newt s n).inflight = [i]) (hi : i.sigObj = some (o, d))
    (ht : signalLocal o d n i.pc (touch (newtJob s (newt s n)) o (setNewt n { newt s n with inflight := [] } s)) = (t, none)) :
    sigPump 1 n s = t := by
  unfold sigPump
  simp only [h, hi]
  rw [ht]
  rfl

theorem sig_adds (hwf : s.Wf) (hgo : goesOn (newt s n)) (hN : iN w ≠ 0) (hhigh : bits w 57 32 = 0) (hlow : bits w 15 13 = 0)
    (hin : (newt s n).inflight = []) (hkind : (obj s (iIdx w)).kind = 1) (hproxy : (obj s (iIdx w)).proxy = false)
    (hcounted : (obj s (iIdx w)).counted = false) (hroom : avail (obj s (iIdx w)) + iN w ≤ (obj s (iIdx w)).depth)
    (hnone : (obj s (iIdx w)).waiters = []) : ∃ t, sigHead n w s = t ∧ newt t n = afterIssue (croak s) (newt s n) ∧
      obj t (iIdx w) = { obj s (iIdx w) with prod := ((obj s (iIdx w)).prod + iN w) % 2 ^ 64 } ∧
      (∀ k, k ≠ iIdx w → obj t k = obj s k) ∧ (∀ m, m ≠ n → newt t m = newt s m) ∧
      t = { s with newts := t.newts, sync := t.sync, jobs := t.jobs } := by
  have hs := hwf.newts_sorted
  have hobjs := hwf.objs_sorted
  rw [sigHead_pumps hs hgo hN hhigh hlow, hin]
  set u := setNewt n (afterIssue (croak s) { newt s n with inflight := [] ++ [heldSig (croak s) (newt s n) w] }) s with hu
  have hnewt : newt u n = afterIssue (croak s) { newt s n with inflight := [heldSig (croak s) (newt s n) w] } :=
    newt_setNewt _ _ _ hs
  have hpump (x : State) (hx : touch (newtJob u (newt u n)) (iIdx w) (setNewt n { newt u n with inflight := [] } u) = x)
      (hobj : obj x (iIdx w) = obj s (iIdx w)) (hsort : tsorted x.sync.objs) :=
    sigPump_applies (s := u) (n := n) (i := heldSig (croak s) (newt s n) w) (by rw [hnewt]; rfl) rfl
      (hx.symm ▸ signalLocal_adds (agent := n) (pc := (newt s n).pc) hsort (by rwa [hobj]) (by rwa [hobj]) (by rwa [hobj])
        (by rwa [hobj]) ⟨Nat.one_le_iff_ne_zero.mpr hN, iN_le w⟩ (by rwa [hobj]))
  rw [touch_frame, hnewt, hu, setNewt_setNewt hs] at hpump
  refine ⟨_, hpump _ rfl rfl hobjs, ?_, ?_, fun k hk => ?_, fun m hm => ?_, rfl⟩
  · refine (newt_setNewt _ _ _ hs).trans ?_
    rw [← hin]
    rfl
  · exact obj_setObj _ _ _ hobjs
  · exact obj_setObj_other _ _ _ _ hobjs hk
  · exact newt_setNewt_other _ _ _ _ hs hm

end Sig

/-! BARR (R118, R167, R170). -/

theorem afterIssue_issued_ne (now : Nat) (v : Newt) : (afterIssue now v).issued ≠ v.issued := by
  simp only [afterIssue]
  omega

section Barr

variable {n w : Nat} {s t : State}

theorem barrHead_stalled (hlow : bits w 35 13 = 0) (htmo : (tmoTicks (iTmo w)).isSome = true)
    (ht : objWait n w (barrArrive (iIdx w) n) s = t) (h : (newt t n).issued = (newt s n).issued) : barrHead n w s = t := by
  simp [barrHead, waitTmo, hlow, htmo, ht, h]

theorem barrHead_issued (hlow : bits w 35 13 = 0) (htmo : (tmoTicks (iTmo w)).isSome = true)
    (ht : objWait n w (barrArrive (iIdx w) n) s = t) (h : newt t n = afterIssue (croak s) (newt s n)) :
    barrHead n w s = barrIssued n t := by
  have hne : (newt t n).issued ≠ (newt s n).issued := by
    rw [h]
    exact afterIssue_issued_ne _ _
  simp [barrHead, waitTmo, hlow, htmo, ht, hne]

/-- A newt that works for no posted BARRIER marks no fabric line. -/
theorem barrIssued_of_none (h : ∀ c ∈ (newt t n).colls, (coll t c).posted = false ∨ cdOp (coll t c).desc ≠ 7) :
    barrIssued n t = t := by
  unfold barrIssued
  generalize (newt t n).colls = l at h
  induction l with
  | nil => rfl
  | cons c r ih =>
    obtain ⟨hc, hr⟩ := List.forall_mem_cons.mp h
    rw [List.foldl_cons, if_neg, ih hr]
    rcases hc with hc | hc <;> simp [hc]

theorem barrIssued_of_one {c : Nat} (hcolls : (newt t n).colls = [c]) (hposted : (coll t c).posted = true)
    (hop : cdOp (coll t c).desc = 7) :
    barrIssued n t = barrierRelease c (setColl c { coll t c with lineDone := true } t) := by
  simp [barrIssued, hcolls, hposted, hop, modColl]

section Head

variable (hwf : s.Wf) (hn : n < 0x2000) (hpassed : (newt s n).waitPassed = false) (hreg : (newt s n).registered = false)
  (hkind : (obj s (iIdx w)).kind = 2) (hnone : (obj s (iIdx w)).waiters = [])
  (hmask : n ∈ (bline s (obj s (iIdx w)).bl).mask)

include hwf hn hpassed hreg

/-- An arrival that releases its newt at once lets it issue. -/
theorem barr_issues (hgo : goesOn (newt s n)) {P : BLine → SyncObj → Prop}
    (harrive : ∀ x, obj x (iIdx w) = obj s (iIdx w) → bline x (obj s (iIdx w)).bl = bline s (obj s (iIdx w)).bl →
      tsorted x.sync.objs → tsorted x.sync.lines → ∃ y, barrArrive (iIdx w) n x = (releaseAgent n y, none) ∧
        y = { x with sync := y.sync } ∧ P (bline y (obj s (iIdx w)).bl) (obj y (iIdx w))) :
    ∃ t, objWait n w (barrArrive (iIdx w) n) s = t ∧ newt t n = afterIssue (croak s) (newt s n) ∧
      P (bline t (obj s (iIdx w)).bl) (obj t (iIdx w)) ∧ (∀ m, m ≠ n → newt t m = newt s m) ∧
      t = { s with newts := t.newts, sync := t.sync, jobs := t.jobs, sch := countedSch (newt s n) (iPg w) s.sch } := by
  refine objWait_issues hwf.newts_sorted hpassed hreg hn hgo
    (P := fun y => P (tget {} y.lines (obj s (iIdx w)).bl) (tget {} y.objs (iIdx w))) fun x hx => ?_
  exact harrive x (obj_of_sync hx _) (bline_of_sync hx _) (by rw [hx]; exact hwf.objs_sorted) (by rw [hx]; exact hwf.lines_sorted)

include hkind hnone hmask

theorem barr_waits (hfabric : (obj s (iIdx w)).fabric = false) (hfresh : n ∉ (bline s (obj s (iIdx w)).bl).arrived)
    (hmissing : ∃ i, i ∈ (bline s (obj s (iIdx w)).bl).mask ∧ i ≠ n ∧ i ∉ (bline s (obj s (iIdx w)).bl).arrived) :
    ∃ t, objWait n w (barrArrive (iIdx w) n) s = t ∧
      newt t n = { newt s n with state := .stall, stall := 2, registered := true } ∧
      (n ∈ (bline t (obj s (iIdx w)).bl).arrived ∧
        (bline t (obj s (iIdx w)).bl).out = (bline s (obj s (iIdx w)).bl).out ∧
        (obj t (iIdx w)).waiters = [{ agent := n, d := 0 }] ∧ (obj t (iIdx w)).prod = (obj s (iIdx w)).prod) ∧
      (∀ m, m ≠ n → newt t m = newt s m) ∧ t = { s with newts := t.newts, sync := t.sync, jobs := t.jobs } := by
  refine objWait_stalls hwf.newts_sorted hpassed hreg
    (P := fun y => n ∈ (tget {} y.lines (obj s (iIdx w)).bl).arrived ∧
      (tget {} y.lines (obj s (iIdx w)).bl).out = (bline s (obj s (iIdx w)).bl).out ∧
      (tget {} y.objs (iIdx w)).waiters = [{ agent := n, d := 0 }] ∧ (tget {} y.objs (iIdx w)).prod = (obj s (iIdx w)).prod)
    fun x hx => ?_
  have hobjs : tsorted x.sync.objs := by rw [hx]; exact hwf.objs_sorted
  have hlines : tsorted x.sync.lines := by rw [hx]; exact hwf.lines_sorted
  have hsame := obj_of_sync hx (iIdx w)
  have hline := bline_of_sync hx (obj s (iIdx w)).bl
  have hread := arrivedAt_reads (s := x) (o := iIdx w) (n := n) hobjs hlines
  have harrive := barrArrive_waits hobjs hlines (o := iIdx w) hn
  rw [hsame, hline] at hread harrive
  obtain ⟨hobj, hbline⟩ := hread
  have harrived := congrArg BLine.arrived hbline
  have hout := congrArg BLine.out hbline
  have hwaiters := congrArg SyncObj.waiters hobj
  have hprod := congrArg SyncObj.prod hobj
  refine ⟨_, harrive hkind hnone hmask hfabric hfresh hmissing, rfl, ?_, hout, hwaiters, hprod⟩
  exact Eq.mpr (congrArg (n ∈ ·) harrived) (mem_insertNat.mpr (.inl rfl))

theorem barr_completes (hgo : goesOn (newt s n)) (hfabric : (obj s (iIdx w)).fabric = false)
    (hfresh : n ∉ (bline s (obj s (iIdx w)).bl).arrived)
    (hall : ∀ i, i ∈ (bline s (obj s (iIdx w)).bl).mask → i = n ∨ i ∈ (bline s (obj s (iIdx w)).bl).arrived) :
    ∃ t, objWait n w (barrArrive (iIdx w) n) s = t ∧ newt t n = afterIssue (croak s) (newt s n) ∧
      ((bline t (obj s (iIdx w)).bl).out = !(bline s (obj s (iIdx w)).bl).out ∧ (bline t (obj s (iIdx w)).bl).arrived = [] ∧
        (obj t (iIdx w)).prod = ((obj s (iIdx w)).prod + 1) % 2 ^ 64) ∧ (∀ m, m ≠ n → newt t m = newt s m) ∧
      t = { s with newts := t.newts, sync := t.sync, jobs := t.jobs, sch := countedSch (newt s n) (iPg w) s.sch } := by
  refine barr_issues hwf hn hpassed hreg hgo
    (P := fun l o => l.out = (!(bline s (obj s (iIdx w)).bl).out) ∧ l.arrived = [] ∧ o.prod = ((obj s (iIdx w)).prod + 1) % 2 ^ 64)
    fun x hobj hline hobjs hlines => ?_
  have h := barrArrive_completes hobjs hlines (o := iIdx w) hn
  rw [hobj, hline] at h
  exact h hkind hnone hmask hfabric hfresh hall

theorem barr_toggles (hgo : goesOn (newt s n)) (hstands : n ∈ (bline s (obj s (iIdx w)).bl).arrived) :
    ∃ t, objWait n w (barrArrive (iIdx w) n) s = t ∧ newt t n = afterIssue (croak s) (newt s n) ∧
      ((bline t (obj s (iIdx w)).bl).out = (bline s (obj s (iIdx w)).bl).out ∧ n ∉ (bline t (obj s (iIdx w)).bl).arrived ∧
        (obj t (iIdx w)).prod = (obj s (iIdx w)).prod) ∧ (∀ m, m ≠ n → newt t m = newt s m) ∧
      t = { s with newts := t.newts, sync := t.sync, jobs := t.jobs, sch := countedSch (newt s n) (iPg w) s.sch } := by
  refine barr_issues hwf hn hpassed hreg hgo
    (P := fun l o => l.out = (bline s (obj s (iIdx w)).bl).out ∧ n ∉ l.arrived ∧ o.prod = (obj s (iIdx w)).prod)
    fun x hobj hline hobjs hlines => ?_
  have h := barrArrive_toggles hobjs hlines (o := iIdx w) hn
  rw [hobj, hline] at h
  exact h hkind hnone hmask hstands

end Head

end Barr

/-- Settles O46: WSO, SIG and BARR by case. A wait registers and then either stalls or is released at once; what registering does to
the object or to the barrier line is said by the rules of the sync-object unit. -/
theorem newtSync : Obligations.NewtSync := by
  unfold Obligations.NewtSync
  refine ⟨?wso, ?sig, ?barr⟩
  case wso =>
    intro n s hwf hat
    dsimp only
    intro hN hhigh hlow htmo
    have hexec : exec (.wso n) s = .next (objWait n.val (headWord s n.val) (syncWait (iIdx (headWord s n.val)) n.val
        (iN (headWord s n.val))) s) :=
      (exec_of_atHead (f := wsoHead n.val) rfl hat).trans (congrArg _ (wsoHead_waits hN hhigh hlow htmo))
    rw [hexec]
    refine ⟨fun hpassed hgo => ?_, fun hpassed hreg => ?_, fun hpassed hreg hkind hproxy hnone hav hgo => ?_,
      fun hpassed hreg hkind hproxy hnone hav => ?_⟩
    · rw [objWait_passed hpassed, issued_of_goesOn hgo, countWait_eq]
      rfl
    · rw [objWait_registered hpassed hreg]
      rfl
    · obtain ⟨t, ht, hnewt, ⟨hobj, hobjs⟩, hnewts, hframe⟩ :=
        wso_takes hwf hN hpassed hreg hkind hproxy hnone (by omega) hgo hav
      exact ⟨t, congrArg _ ht, hnewt, hobj, hobjs, hnewts, hframe⟩
    · obtain ⟨t, ht, hnewt, ⟨hobj, hobjs⟩, hnewts, hframe⟩ := wso_registers hwf hN hpassed hreg hkind hproxy hnone hav
      exact ⟨t, congrArg _ ht, hnewt, hobj, hobjs, hnewts, hframe⟩
  case sig =>
    intro n s hwf hat
    dsimp only
    intro hN hhigh hlow hgo
    have hexec : exec (.sig n) s = .next (sigHead n.val (headWord s n.val) s) := exec_of_atHead (f := sigHead n.val) rfl hat
    rw [hexec]
    refine ⟨fun hin hkind hproxy hcounted hroom hnone => ?_, fun i r hin hi => ?_⟩
    · obtain ⟨t, ht, hrest⟩ := sig_adds hwf hgo hN hhigh hlow hin hkind hproxy hcounted hroom hnone
      exact ⟨t, congrArg _ ht, hrest⟩
    · refine ⟨heldSig (croak s) (newt s n.val) (headWord s n.val), congrArg _ ?_, rfl, rfl, rfl⟩
      rw [sigHead_pumps hwf.newts_sorted hgo hN hhigh hlow]
      refine sigPump_blocked (i := i) (r := r ++ [heldSig (croak s) (newt s n.val) (headWord s n.val)]) _ ?_ hi
      rw [newt_setNewt _ _ _ hwf.newts_sorted, hin]
      rfl
  case barr =>
    intro n s hwf hat
    dsimp only
    intro hlow htmo hpassed hreg hkind hfabric hnone hmask
    have hn : n.val < 0x2000 := by omega
    have hexec : exec (.barr n) s = .next (barrHead n.val (headWord s n.val) s) := exec_of_atHead (f := barrHead n.val) rfl hat
    rw [hexec]
    refine ⟨fun hfresh hmissing => ?_, fun hfresh hall hgo => ?_, fun hstands hgo hplain => ?_⟩
    · obtain ⟨t, ht, hnewt, ⟨harrived, hout, hwaiters, hprod⟩, hnewts, hframe⟩ :=
        barr_waits hwf hn hpassed hreg hkind hnone hmask hfabric hfresh hmissing
      have hhead := barrHead_stalled hlow htmo ht (by rw [hnewt])
      exact ⟨t, congrArg _ hhead, hnewt, harrived, hout, hwaiters, hprod, hnewts, hframe⟩
    · obtain ⟨t, ht, hnewt, ⟨hout, harrived, hprod⟩, hnewts, hframe⟩ :=
        barr_completes hwf hn hpassed hreg hkind hnone hmask hgo hfabric hfresh hall
      have hhead := barrHead_issued hlow htmo ht hnewt
      have hcolls : (newt t n.val).colls = (newt s n.val).colls := by rw [hnewt]; rfl
      have hcoll (c : Nat) : coll t c = coll s c := by rw [hframe]; rfl
      refine ⟨fun hplain => ⟨t, ?_, hnewt, hout, harrived, hprod, hnewts, hframe⟩,
        fun c hone hposted hop => ⟨t, ?_, hnewt, hout, hprod, hframe⟩⟩
      · rw [hhead, barrIssued_of_none (by simpa only [hcolls, hcoll] using hplain)]
      · rw [hhead, barrIssued_of_one (by rw [hcolls, hone]) (by rwa [hcoll]) (by rwa [hcoll]), hcoll]
    · obtain ⟨t, ht, hnewt, ⟨hout, harrived, hprod⟩, hnewts, hframe⟩ :=
        barr_toggles hwf hn hpassed hreg hkind hnone hmask hgo hstands
      have hcolls : (newt t n.val).colls = (newt s n.val).colls := by rw [hnewt]; rfl
      have hcoll (c : Nat) : coll t c = coll s c := by rw [hframe]; rfl
      refine ⟨t, ?_, hnewt, hout, harrived, hprod, hnewts, hframe⟩
      rw [barrHead_issued hlow htmo ht hnewt, barrIssued_of_none (by simpa only [hcolls, hcoll] using hplain)]

end Sys2Proof.Machine
end

section
/-! PROOF. What the fabric's state keeps through the abort of collectives and through the end of links: the state of
the quads, the lost chips and the flows, and what is final about a collective. -/

namespace Sys2Proof.Machine

/-! A raise in the fabric's terms. -/

theorem stickyBit_rte (c : Nat) (s : State) : (stickyBit c s).rte = { s.rte with err := (stickyBit c s).rte.err } := by
  unfold stickyBit
  dsimp only
  (repeat' split) <;> rfl

theorem stickyBit_span (c : Nat) (s : State) : (stickyBit c s).lay.spanChips = s.lay.spanChips := by
  unfold stickyBit
  dsimp only
  (repeat' split) <;> rfl

theorem stickyBit_routeBank (c : Nat) (s : State) : (stickyBit c s).lay.routeBank = s.lay.routeBank := by
  unfold stickyBit
  dsimp only
  (repeat' split) <;> rfl

theorem stickyBit_schState (c : Nat) (s : State) : (stickyBit c s).sch.state = s.sch.state := by
  unfold stickyBit
  dsimp only
  (repeat' split) <;> rfl


theorem raise_rte (o : Occ) (s : State) : (raise o s).rte = { s.rte with err := (raise o s).rte.err } := by
  unfold raise
  split
  · rw [rasRecord_rte, freshMark_rte]
    exact stickyBit_rte _ s
  · rfl

theorem raise_span (o : Occ) (s : State) : (raise o s).lay.spanChips = s.lay.spanChips := by
  unfold raise
  split
  · rw [rasRecord_lay, freshMark_lay, stickyBit_span]
  · rfl

theorem raise_routeBank (o : Occ) (s : State) : (raise o s).lay.routeBank = s.lay.routeBank := by
  unfold raise
  split
  · rw [rasRecord_lay, freshMark_lay, stickyBit_routeBank]
  · rfl

theorem raise_schState (o : Occ) (s : State) : (raise o s).sch.state = s.sch.state := by
  unfold raise
  split
  · rw [rasRecord_sch, freshMark_sch, stickyBit_schState]
  · rfl

theorem vector_out (v : Nat) (s : State) : s.out <+: (vector v s).out := by
  unfold vector
  (repeat' split)
  · exact ⟨[], List.append_nil _⟩
  · exact ⟨[], List.append_nil _⟩
  · exact ⟨_, rfl⟩

theorem rasIrq_out (code : Nat) (s : State) : s.out <+: (rasIrq code s).out := by
  unfold rasIrq
  split
  · exact vector_out 449 s
  · exact ⟨[], List.append_nil _⟩

theorem rasFirst_out (code : Nat) (s : State) : s.out <+: (rasFirst code s).out := by
  have hevent : (if rasWrites code s then rasEvent code s else s).out = s.out := by
    split
    · exact rasEvent_out code s
    · rfl
  unfold rasFirst
  dsimp only
  split
  · exact hevent ▸ rasIrq_out code _
  · rw [hevent]

theorem rasRecord_out (o : Occ) (s : State) : s.out <+: (rasRecord o s).out := by
  unfold rasRecord
  split
  · extract_lets s1 s2
    have hlog : s2.out = s.out := by
      unfold s2
      split
      · exact rasLog_out o s1
      · rfl
    clear_value s2
    rw [← hlog]
    split
    · split
      · rw [eventAmend_out]
      · exact ⟨[], List.append_nil _⟩
    · exact rasFirst_out _ s2
  · exact ⟨[], List.append_nil _⟩

theorem raise_out (o : Occ) (s : State) : s.out <+: (raise o s).out := by
  unfold raise
  split
  · have h := rasRecord_out o (freshMark (stickyKey o) (stickyBit o.code s))
    rwa [freshMark_out, stickyBit_out] at h
  · exact ⟨[], List.append_nil _⟩

/-! The relation. -/

/-- Collective `k` is LOST, and reported so. -/
def isLost (s : State) (k : Nat) : Prop := (coll s k).state = .lost ∧ (coll s k).reported = true

/-- From `s` to `t` no quad has changed its state, no chip was lost and no flow opened or freed; what is outside the chip
stays there, records stand, a lost collective stays lost, and the scheduled job is as it was or has stopped. -/
structure FabricKept (s t : State) : Prop where
  quads_sorted : tsorted s.quads → tsorted t.quads
  quad : tsorted s.quads → ∀ q, (quad t q).state = (quad s q).state
  lost : t.rte.lost = s.rte.lost
  bridge : t.rte.bridgeLost = s.rte.bridgeLost
  flows : t.rte.flows = s.rte.flows
  span : t.lay.spanChips = s.lay.spanChips
  out : s.out <+: t.out
  records : RecordsStand s t
  colls_sorted : tsorted s.colls → tsorted t.colls
  coll : tsorted s.colls → ∀ k, isLost s k → isLost t k
  job : t.sch.state = s.sch.state ∨ t.sch.state = .stopped

/-- The parts of a state that the relation speaks of. -/
def fabricFace (s : State) :=
  ((s.quads, s.colls, s.out, s.ras.recs), s.rte.lost, s.rte.bridgeLost, s.rte.flows, s.lay.spanChips, s.sch.state)

theorem FabricKept.of_face {s t : State} (h : fabricFace t = fabricFace s) : FabricKept s t := by
  unfold fabricFace at h
  simp only [Prod.mk.injEq] at h
  obtain ⟨⟨hq, hc, ho, hr⟩, hl, hb, hf, hsp, hst⟩ := h
  exact {
    quads_sorted := fun hs => by rwa [hq]
    quad := fun _ q => by rw [Machine.quad, hq]; rfl
    lost := hl, bridge := hb, flows := hf, span := hsp
    out := by rw [ho]
    records := .of_recs hr
    colls_sorted := fun hs => by rwa [hc]
    coll := fun _ k hk => by unfold isLost Machine.coll; rw [hc]; exact hk
    job := .inl hst }

theorem FabricKept.refl (s : State) : FabricKept s s := .of_face rfl

theorem FabricKept.trans {s t u : State} (h : FabricKept s t) (g : FabricKept t u) : FabricKept s u where
  quads_sorted hs := g.quads_sorted (h.quads_sorted hs)
  quad hs q := (g.quad (h.quads_sorted hs) q).trans (h.quad hs q)
  lost := g.lost.trans h.lost
  bridge := g.bridge.trans h.bridge
  flows := g.flows.trans h.flows
  span := g.span.trans h.span
  out := h.out.trans g.out
  records := h.records.trans g.records
  colls_sorted hs := g.colls_sorted (h.colls_sorted hs)
  coll hs k hk := g.coll (h.colls_sorted hs) k (h.coll hs k hk)
  job := g.job.elim (fun e => h.job.elim (fun e' => .inl (e.trans e')) (fun e' => .inr (e.trans e'))) .inr

theorem FabricKept.after {s t u : State} (h : FabricKept t u) (hf : fabricFace t = fabricFace s) : FabricKept s u :=
  (FabricKept.of_face hf).trans h

theorem FabricKept.foldl {α : Type} {f : State → α → State} (h : ∀ s a, FabricKept s (f s a)) (l : List α) (s : State) :
    FabricKept s (l.foldl f s) := by
  induction l generalizing s with
  | nil => exact .refl s
  | cons a r ih => exact (h s a).trans (ih _)

theorem FabricKept.ite {s t u : State} {c : Prop} [Decidable c] (h : FabricKept s t) (g : FabricKept s u) :
    FabricKept s (if c then t else u) := by
  split
  · exact h
  · exact g

/-- A quad may change in any way but its state. -/
theorem FabricKept.setQuad {s : State} {q : Nat} {v : Quad} (h : v.state = (Machine.quad s q).state) :
    FabricKept s (setQuad q v s) :=
  { FabricKept.refl s with
    records := .of_recs rfl
    quads_sorted := fun hs => tsorted_tset _ hs _ _
    quad := fun hs k => by
      rcases eq_or_ne k q with rfl | hk
      · rw [quad_setQuad _ _ _ hs, h]
      · rw [quad_setQuad_other _ _ _ _ hs hk]
    coll := fun _ _ hk => hk }

theorem FabricKept.modQuad {s : State} (q : Nat) {f : Quad → Quad} (h : ∀ v, (f v).state = v.state) :
    FabricKept s (modQuad q f s) := .setQuad (h _)

/-- A collective that is not lost may change in any way. -/
theorem FabricKept.setColl {s : State} {c : Nat} {v : Coll}
    (h : isLost s c → v.state = .lost ∧ v.reported = true) : FabricKept s (setColl c v s) :=
  { FabricKept.refl s with
    records := .of_recs rfl
    quad := fun _ _ => rfl
    colls_sorted := fun hs => tsorted_tset _ hs _ _
    coll := fun hs k hk => by
      unfold isLost
      rcases eq_or_ne k c with rfl | hne
      · rw [coll_setColl _ _ _ hs]; exact h hk
      · rw [coll_setColl_other _ _ _ _ hs hne]; exact hk }

theorem raise_fabricKept (o : Occ) (s : State) : FabricKept s (raise o s) where
  quads_sorted hs := by rwa [raise_quads]
  quad _ q := by rw [Machine.quad, raise_quads]; rfl
  lost := by rw [raise_rte]
  bridge := by rw [raise_rte]
  flows := by rw [raise_rte]
  span := raise_span o s
  out := raise_out o s
  records := raise_recordsStand o s
  colls_sorted hs := by rwa [raise_colls]
  coll _ k hk := by unfold isLost Machine.coll; rw [raise_colls]; exact hk
  job := .inl (raise_schState o s)

end Sys2Proof.Machine
end

section
/-! PROOF. What the fabric keeps (continued): packets that are stomped, aborts of collectives, newts that stop. -/

namespace Sys2Proof.Machine

/-! Buffers and packets (R148, R259, R260, R400). -/

theorem stkUe_fabricKept (a : Nat) (s : State) : FabricKept s (stkUe a s) := (raise_fabricKept _ _).after rfl

theorem lovStore_fabricKept (a : Nat) (bs : List Byte) (s : State) : FabricKept s (lovStore a bs s) := by
  unfold lovStore
  exact (FabricKept.foldl (fun t b => stkUe_fabricKept (64 * b) t) _ _).after rfl

theorem bufFree_fabricKept (b : Buf) (s : State) : FabricKept s (bufFree b s) := by
  unfold bufFree
  extract_lets _ s1 next s2
  split
  · have hstore : FabricKept s s2 := (lovStore_fabricKept b.addr _ s1).after rfl
    exact hstore.trans (.of_face rfl)
  · exact .of_face rfl

theorem programEnds_fabricKept (n : Nat) (s : State) : FabricKept s (programEnds n s) := by
  unfold programEnds freeOwned
  exact (FabricKept.foldl (fun t b => bufFree_fabricKept b t) _ s).trans (.of_face rfl)

theorem discard_fabricKept (r : Nat) (s : State) : FabricKept s (discard r s) := .of_face rfl

theorem stompCopiesOf_fabricKept (k n code : Nat) (s : State) : FabricKept s (stompCopiesOf k n code s) := by
  unfold stompCopiesOf
  refine .foldl (fun t h => ?_) _ s
  exact .ite (.of_face rfl) (.of_face rfl)

theorem stompErr_fabricKept (h : Held) (code seg : Nat) (s : State) : FabricKept s (stompErr h code seg s) := by
  unfold stompErr
  dsimp only
  exact (FabricKept.ite (.refl s) (.ite (raise_fabricKept _ s) (raise_fabricKept _ s))).trans (raise_fabricKept _ _)

theorem ovfTrim_fabricKept (die : Nat) (s : State) : FabricKept s (ovfTrim die s) := by
  unfold ovfTrim
  dsimp only
  exact (FabricKept.foldl (fun t b => bufFree_fabricKept b t) _ s).trans (.ite (.of_face rfl) (.refl _))

theorem stompQueued_fabricKept (h : Held) (code : Nat) (s : State) : FabricKept s (stompQueued h code s) := by
  have hqueue : FabricKept s (if h.started then
      (if h.pkt.stomp ≠ 0 then s
       else stompPassed h.outPort h.pkt.cls (modHeld h (fun h => { h with pkt := { h.pkt with stomp := code } }) s))
      else ovfTrim (homeDie s h.outPort) (discard 0 (modSwc (fun w => { w with queues := w.queues.erase h }) s))) :=
    .ite (.ite (.refl s) (.of_face rfl)) ((ovfTrim_fabricKept _ _).after rfl)
  unfold stompQueued
  split
  · exact hqueue
  · exact hqueue.trans (stompCopiesOf_fabricKept _ _ _ _)

theorem stompOne_fabricKept (h : Held) (code seg : Nat) (s : State) : FabricKept s (stompOne h code seg s) :=
  (stompErr_fabricKept h code seg s).trans (stompQueued_fabricKept h code _)

theorem returnCredit_fabricKept (src st n : Nat) (s : State) : FabricKept s (returnCredit src st n s) := by
  unfold returnCredit
  exact .ite (.refl s) (.ite (.modQuad src fun _ => rfl) (.modQuad src fun _ => rfl))

theorem ingressDrop_fabricKept (w : Waiting) (s : State) : FabricKept s (ingressDrop w s) :=
  (returnCredit_fabricKept _ _ _ _).after rfl

theorem growHeld_fabricKept (b : List Byte) (last : Bool) (h : Held) (s : State) : FabricKept s (growHeld b last h s) := by
  have hstore : FabricKept s (if h.acct = 3 then lovStore (h.loc + h.pkt.payload.length) (b.take h.pkt.left)
      (modHeld h (fun x => { x with pkt := growPkt b last h.pkt }) s)
      else modHeld h (fun x => { x with pkt := growPkt b last h.pkt }) s) :=
    .ite ((lovStore_fabricKept _ _ _).after rfl) (.of_face rfl)
  unfold growHeld
  exact .ite (hstore.trans (.modQuad _ fun _ => rfl)) hstore

theorem cellJoins_fabricKept (k : Nat) (b : List Byte) (last : Bool) (s : State) : FabricKept s (cellJoins k b last s) := by
  unfold cellJoins
  exact .foldl (fun t h => growHeld_fabricKept b last h t) _ s

theorem schedCopies_fabricKept (p : Packet) (code : Nat) (b : List Byte) (s : State) : FabricKept s (schedCopies p code b s) := by
  unfold schedCopies
  exact .ite (.refl s) ((cellJoins_fabricKept _ b true s).trans (stompCopiesOf_fabricKept _ _ _ _))

/-- A packet that is discarded with its record, and its copies. -/
theorem abortPacket_fabricKept (port r code : Nat) (p : Packet) (b : List Byte) (s : State) :
    FabricKept s (schedCopies p code b (discard r (abortErr port p s))) :=
  (raise_fabricKept _ s).trans ((discard_fabricKept r _).trans (schedCopies_fabricKept p code b _))

theorem abortPipe_fabricKept (c : Nat) (s : State) : FabricKept s (abortPipe c s) := by
  unfold abortPipe
  refine (FabricKept.foldl (fun t f => ?_) _ _).after rfl
  exact .ite (abortPacket_fabricKept _ _ _ _ _ t) (.ite (abortPacket_fabricKept _ _ _ _ _ t) (.refl t))

theorem abortOpen_fabricKept (q : Nat) (e : Nat × Packet × Nat × Nat) (s : State) : FabricKept s (abortOpen q e s) := by
  obtain ⟨route, p, len, got⟩ := e
  unfold abortOpen
  dsimp -zeta only
  extract_lets outs cell s1
  have hquad : FabricKept s s1 := .modQuad q fun _ => rfl
  exact .ite hquad (hquad.trans ((abortPacket_fabricKept _ _ _ _ _ _).after rfl))

theorem abortAtNewt_fabricKept (c n : Nat) (s : State) : FabricKept s (abortAtNewt c n s) := by
  have hpackets (r : Nat) (l : List (Nat × Nat × SCell)) (t : State) :
      FabricKept t (l.foldl (fun t e => discard r (abortErr 134 e.2.2.hdr t)) t) :=
    .foldl (fun t e => (raise_fabricKept _ t).trans (discard_fabricKept r _)) l t
  unfold abortAtNewt
  extract_lets l mine left s1 s2
  have hwhole : FabricKept s s1 := hpackets 0 _ s
  have hsent : FabricKept s1 s2 := hpackets 1 _ s1
  clear_value s1 s2
  exact .ite ((hwhole.trans hsent).trans (.of_face rfl)) (hwhole.trans hsent)

theorem abortSched_fabricKept (c : Nat) (s : State) : FabricKept s (abortSched c s) := by
  unfold abortSched
  extract_lets s1
  have hquads : FabricKept s s1 :=
    .foldl (fun t (e : Nat × Quad) => .foldl (fun u x => abortOpen_fabricKept e.1 x u) _ t) _ s
  exact (hquads.trans (abortPipe_fabricKept c s1)).trans (.foldl (fun t (e : Nat × Newt) => abortAtNewt_fabricKept c e.1 t) _ _)

theorem abortStomps_fabricKept (c : Nat) (s : State) : FabricKept s (abortStomps c s) := by
  unfold abortStomps
  extract_lets s1
  have hqueues : FabricKept s s1 := .foldl (fun t h => stompOne_fabricKept h 4 0 t) _ s
  refine (hqueues.trans (.foldl (fun t w => ?_) _ s1)).trans (abortSched_fabricKept c _)
  exact (ingressDrop_fabricKept w t).trans ((raise_fabricKept _ _).trans
    ((discard_fabricKept 0 _).trans (stompCopiesOf_fabricKept _ _ _ _)))

/-! Messages, commits and aborts of collectives (R94, R141 to R145, R511). -/

theorem mgmt_fabricKept (msg : String) (dst : Nat) (vals : List Nat) (s : State) : FabricKept s (mgmt msg dst vals s) := by
  unfold mgmt
  split
  · exact .of_face rfl
  · exact { FabricKept.refl s with
      records := .of_recs rfl, quad := fun _ _ => rfl, coll := fun _ _ hk => hk, out := ⟨_, rfl⟩ }

theorem notices_fabricKept (c status cause : Nat) (p : FaultPlace) (s : State) : FabricKept s (notices c status cause p s) := by
  unfold notices
  exact .foldl (fun t ch => mgmt_fabricKept _ ch _ t) _ s

theorem not_isLost_of_unreported {s : State} {c : Nat} (h : unreported s c = true) : ¬ isLost s c := by
  rintro ⟨-, hr⟩
  simp [unreported, hr] at h

/-- A collective that has not been reported may change in any way. -/
theorem FabricKept.setColl_unreported {s : State} {c : Nat} (v : Coll) (h : unreported s c = true) :
    FabricKept s (Machine.setColl c v s) := .setColl fun hl => absurd hl (not_isLost_of_unreported h)

theorem commitBy_fabricKept (n c : Nat) (s : State) : FabricKept s (commitBy n c s) := by
  unfold commitBy
  extract_lets s1 k s2
  have hnewt : FabricKept s s1 := .of_face rfl
  split
  · rename_i hc
    simp only [Bool.and_eq_true] at hc
    have hcommit : FabricKept s1 s2 := .setColl_unreported _ hc.1.1
    have hasb : FabricKept s2 (modColl c (fun v => { v with asb := commitAsb c s2 }) s2) := .setColl id
    exact ((hnewt.trans hcommit).trans hasb).trans (notices_fabricKept _ _ _ _ _)
  · exact hnewt

theorem cmtFirst_fabricKept (ns : List Nat) (s : State) : FabricKept s (cmtFirst ns s) := by
  unfold cmtFirst
  exact .foldl (fun t n => .ite (commitBy_fabricKept n _ t) (.refl t)) ns s

theorem collRaise_fabricKept (c cause : Nat) (p : FaultPlace) (s : State) : FabricKept s (collRaise c cause p s) := by
  unfold collRaise
  exact .ite (raise_fabricKept _ s) (.refl s)

theorem abortMark_fabricKept (c cause : Nat) (p : FaultPlace) (s : State) : FabricKept s (abortMark c cause p s) := by
  unfold abortMark
  extract_lets t v
  refine (cmtFirst_fabricKept (workers s c) s).trans ?_
  split
  · exact .refl t
  · rename_i hc
    simp only [Bool.or_eq_true, Bool.not_eq_true', not_or, Bool.not_eq_false] at hc
    refine .ite (mgmt_fabricKept _ _ _ t) ?_
    exact ((FabricKept.setColl_unreported _ hc.1).trans (abortStomps_fabricKept c _)).trans (notices_fabricKept _ _ _ _ _)

/-! Newts that stop (R93 to R95). -/

theorem WaitsOnly.fabricKept {s t : State} (h : WaitsOnly s t) : FabricKept s t := .of_face (by rw [h.frame]; rfl)

theorem abortNewt_fabricKept (n : Nat) (s : State) : FabricKept s (abortNewt n s) := by
  have hfinish (t : State) : FabricKept t (abortFinish n t) := by
    unfold abortFinish
    exact .ite ((programEnds_fabricKept n _).after rfl) (.refl t)
  unfold abortNewt
  extract_lets v
  have htold : FabricKept s (unwaitAll n (setNewt n { v with abortPend := true, registered := false, waitPassed := false } s)) :=
    (unwaitAll_waitsOnly n _).fabricKept.after rfl
  exact .ite (.of_face rfl) (.ite (htold.trans (hfinish _)) (.ite (.of_face rfl) (.refl s)))

theorem abortAt_fabricKept (n : Nat) (s : State) : FabricKept s (abortAt n s) := by
  have hcmt : FabricKept s (modNewt n (fun v => { v with issued := (v.issued + 1) % 2 ^ 32, issuedAt := some (croak s) })
      (cmtFirst [n] s)) := (cmtFirst_fabricKept [n] s).trans (.of_face rfl)
  unfold abortAt
  exact (FabricKept.ite hcmt (.refl s)).trans (abortNewt_fabricKept n _)

/-- The cause of an abort is recorded, and the abort asked for. -/
theorem abortRaised_fabricKept (c cause : Nat) (p : FaultPlace) (s : State) :
    FabricKept s (abortMark c cause p (collRaise c cause p s)) :=
  (collRaise_fabricKept c cause p s).trans (abortMark_fabricKept c cause p _)

theorem abortStop_fabricKept (fuel : Nat) (cs seen : List Nat) (s : State) : FabricKept s (abortStop fuel cs seen s) := by
  induction fuel generalizing cs seen s with
  | zero => exact .refl s
  | succ fuel ih =>
    cases cs with
    | nil => exact .refl s
    | cons c r =>
      unfold abortStop
      extract_lets ns s1 more
      have hparts : FabricKept s s1 := .foldl (fun t n => abortAt_fabricKept n t) _ s
      clear_value s1 more
      refine .ite (ih _ _ s) ((hparts.trans (.foldl (fun t e => ?_) more s1)).trans (ih _ _ _))
      exact abortRaised_fabricKept _ _ _ t

theorem abortEach_fabricKept (cause : Nat) (es : List (Nat × FaultPlace)) (s : State) : FabricKept s (abortEach cause es s) := by
  unfold abortEach
  extract_lets ds
  exact (FabricKept.foldl (fun t (e : Nat × FaultPlace) => abortRaised_fabricKept e.1 cause e.2 t) ds s).trans
    (abortStop_fabricKept _ _ _ _)

theorem abortMany_fabricKept (cs : List Nat) (cause : Nat) (p : FaultPlace) (s : State) : FabricKept s (abortMany cs cause p s) :=
  abortEach_fabricKept _ _ s

theorem stopFor_fabricKept (c : Nat) (ns : List Nat) (s : State) : FabricKept s (stopFor c ns s) := by
  unfold stopFor
  extract_lets stops s1
  have hparts : FabricKept s s1 := .foldl (fun t n => abortAt_fabricKept n t) _ s
  exact hparts.trans (.foldl (fun t n => abortMany_fabricKept _ _ _ t) _ s1)

/-- The scheduled job stops, whatever else follows (R209). -/
theorem jobStop_fabricKept (cause : Nat) (p : FaultPlace) (s : State) :
    FabricKept s (jobStop cause p s) ∧ (schActive s = true → (jobStop cause p s).sch.state = .stopped) := by
  unfold jobStop
  extract_lets _ s1
  have hstop : FabricKept s s1 :=
    { FabricKept.refl s with
      records := .of_recs rfl, quad := fun _ _ => rfl, coll := fun _ _ hk => hk, job := .inr rfl }
  have hafter (t : State) (h : FabricKept s1 t) : t.sch.state = .stopped := h.job.elim id id
  have hrest : FabricKept s1 (match s.sch.job with
      | none => s1
      | some j =>
        let s2 := modJob j (fun v => { v with stopped := true, endc := croak s, endTerm := s.sch.term }) s1
        let s3 := abortMany (openColls s2 j) cause p s2
        (scheduledNewts s3).foldl (fun t n => abortAt n t) s3) := by
    split
    · exact .refl s1
    · extract_lets s2 s3
      have hopen : FabricKept s1 s3 := (abortMany_fabricKept _ cause p s2).after rfl
      exact hopen.trans (.foldl (fun t n => abortAt_fabricKept n t) _ s3)
  split
  · rename_i hidle
    exact ⟨.refl s, fun ha => absurd hidle (by simp [ha])⟩
  · exact ⟨hstop.trans hrest, fun _ => hafter _ hrest⟩

theorem newtError_fabricKept (n code pc lc : Nat) (ras : Bool) (s : State) : FabricKept s (newtError n code pc lc ras s) := by
  have hhalt (t : State) : FabricKept t (newtHalt n code pc t) := by
    unfold newtHalt
    extract_lets v _ s2 s3
    have hwait : FabricKept t s2 := (unwaitAll_waitsOnly n _).fabricKept.after rfl
    have hends : FabricKept s2 s3 := (programEnds_fabricKept n s2).trans (abortMany_fabricKept _ _ _ _)
    exact (hwait.trans hends).trans (.ite (jobStop_fabricKept _ _ s3).1 (.refl s3))
  unfold newtError
  exact (FabricKept.ite (raise_fabricKept _ s) (.refl s)).trans (hhalt _)

end Sys2Proof.Machine
end

section
/-! PROOF. What the fabric keeps (continued): the outcomes of collectives, replies, and the end of a drain. -/

namespace Sys2Proof.Machine

/-! Replies and outcomes (R145, R426, R432). -/

theorem vector_fabricKept (v : Nat) (s : State) : FabricKept s (vector v s) := by
  unfold vector
  (repeat' split)
  · exact .refl s
  · exact .of_face rfl
  · exact { FabricKept.refl s with
      records := .of_recs rfl, quad := fun _ _ => rfl, coll := fun _ _ hk => hk, out := ⟨_, rfl⟩ }

theorem layStatus_fabricFace (cmd status : Nat) (s : State) : fabricFace (layStatus cmd status s) = fabricFace s := by
  unfold layStatus
  split <;> rfl

theorem reply_fabricKept (i status : Nat) (payload : List Byte) (s : State) : FabricKept s (reply i status payload s) := by
  unfold reply
  extract_lets m b s1 hif s2
  have hslot : FabricKept s s2 := .of_face (layStatus_fabricFace _ _ _)
  exact .ite (hslot.trans (vector_fabricKept _ s2)) hslot

theorem cmdFail_fabricKept (i code : Nat) (s : State) : FabricKept s (cmdFail i code s) :=
  (raise_fabricKept _ s).trans (reply_fabricKept _ _ _ _)

theorem abortSettle_fabricKept (i : Nat) (v : Coll) (s : State) : FabricKept s (abortSettle i v s) := by
  unfold abortSettle
  exact .ite (.refl s) (.ite (cmdFail_fabricKept _ _ s) (.ite (reply_fabricKept _ _ _ s) (.of_face rfl)))

/-- A collective whose commit chip is lost is LOST, as every one was that was lost before (R318). -/
theorem collLost_fabricKept (c chip : Nat) {s : State} (hs : tsorted s.colls) :
    FabricKept s (collLost c chip s) ∧ isLost (collLost c chip s) c := by
  unfold collLost collReport
  extract_lets v place s1 w s2
  have hplace : FabricKept s s1 :=
    (FabricKept.setColl (v := { v with cause := 0x0A0A, place := place, asb := partsAsb c s }) (fun hl => hl)).trans
      ((stopFor_fabricKept c _ _).trans (abortStomps_fabricKept c _))
  have hraise := hplace.trans (collRaise_fabricKept c 0x0A0A place s1)
  have hreport : FabricKept s s2 := hraise.trans (.setColl fun _ => ⟨rfl, rfl⟩)
  have hlost : isLost s2 c := by
    unfold isLost s2
    rw [coll_setColl _ _ _ (hraise.colls_sorted hs)]
    exact ⟨rfl, rfl⟩
  have hsettle : FabricKept s2 (w.abortSlots.foldl (fun t i => abortSettle i (coll s2 c) t) (modJob w.job (jobCount c 2 w) s2)) :=
    (FabricKept.foldl (fun t i => abortSettle_fabricKept i _ t) _ _).after rfl
  exact ⟨hreport.trans hsettle, hsettle.coll (hreport.colls_sorted hs) c hlost⟩

/-- Of the collectives that are lost one after another, every one is LOST in the end. -/
theorem foldl_collLost (l : List Nat) (chip : Nat) {s : State} (hs : tsorted s.colls) :
    FabricKept s (l.foldl (fun t c => collLost c chip t) s) ∧ ∀ c ∈ l, isLost (l.foldl (fun t c => collLost c chip t) s) c := by
  induction l generalizing s with
  | nil => exact ⟨.refl s, fun _ h => absurd h List.not_mem_nil⟩
  | cons a r ih =>
    obtain ⟨hkept, hlost⟩ := collLost_fabricKept a chip hs
    have hsort := hkept.colls_sorted hs
    obtain ⟨hrest, hall⟩ := ih hsort
    refine ⟨hkept.trans hrest, fun c hc => ?_⟩
    rcases List.mem_cons.mp hc with rfl | hr
    · exact hrest.coll hsort c hlost
    · exact hall c hr

/-! The end of a drain (R313 to R315). -/

theorem modDrain_fabricKept (f : DrainSt → DrainSt) (s : State) : FabricKept s (modDrain f s) := .of_face rfl

theorem tget_map_value {α : Type} (d : α) (f : α → α) (hd : f d = d) (t : Table α) (k : Nat) :
    tget d (t.map (fun e => (e.1, f e.2))) k = f (tget d t k) := by
  induction t with
  | nil => exact hd.symm
  | cons e r ih =>
    rw [List.map_cons, tget_cons, ih, show e = (e.1, e.2) from rfl, tget_cons]
    split <;> rfl

/-- The withheld credits of a quad return. -/
def creditsReturned (v : Quad) : Quad :=
  { v with creds := v.creds.map (fun c => { c with adv := (c.adv + c.owed) % 65536, owed := 0 }) }

theorem releaseOwed_quads (s : State) : (releaseOwed s).quads = s.quads.map (fun e => (e.1, creditsReturned e.2)) := rfl

theorem quad_releaseOwed (s : State) (q : Nat) : quad (releaseOwed s) q = creditsReturned (quad s q) := by
  rw [quad, releaseOwed_quads, tget_map_value {} creditsReturned (by decide)]
  rfl

theorem releaseOwed_fabricKept (s : State) : FabricKept s (releaseOwed s) :=
  { FabricKept.refl s with
    records := .of_recs rfl
    quads_sorted := fun hs => by
      rw [releaseOwed_quads]
      exact tsorted_map (f := fun e => (e.1, creditsReturned e.2)) (fun _ => rfl) hs
    quad := fun _ q => by rw [quad_releaseOwed]; rfl
    coll := fun _ _ hk => hk }

theorem emit_fabricKept (o : Out) (s : State) : FabricKept s (emit o s) :=
  { FabricKept.refl s with
    records := .of_recs rfl, quad := fun _ _ => rfl, coll := fun _ _ hk => hk, out := ⟨_, rfl⟩ }

theorem liftDrain_fabricKept (s : State) : FabricKept s (liftDrain s) := by
  unfold liftDrain
  extract_lets s1
  have hcredit : FabricKept s s1 := (releaseOwed_fabricKept _).after rfl
  exact hcredit.trans ((FabricKept.foldl (fun t m => emit_fabricKept _ t) _ _).after rfl)

theorem releaseCheck_fabricKept (s : State) : FabricKept s (releaseCheck s) := by
  unfold releaseCheck
  exact .ite ((FabricKept.foldl (fun t c => mgmt_fabricKept _ c _ t) _ s).trans (liftDrain_fabricKept _)) (.refl s)

theorem releaseTake_fabricKept (chip : Nat) (s : State) : FabricKept s (releaseTake chip s) := by
  unfold releaseTake
  exact .ite (.refl s) ((modDrain_fabricKept _ s).trans (releaseCheck_fabricKept _))

theorem drainRelease_fabricKept (s : State) : FabricKept s (drainRelease s) := by
  unfold drainRelease
  extract_lets s1
  have hpend : FabricKept s s1 := modDrain_fabricKept _ s
  exact .ite (liftDrain_fabricKept s) (.ite (hpend.trans (releaseTake_fabricKept _ s1)) (hpend.trans (mgmt_fabricKept _ _ _ s1)))

theorem pushEvent_fabricKept (typ : Nat) (data : List Byte) (s : State) : FabricKept s (pushEvent typ data s) :=
  .of_face (by simp [fabricFace])

theorem logAdd_fabricKept (typ id : Nat) (data : List Byte) (s : State) : FabricKept s (logAdd typ id data s) :=
  .of_face (by simp [fabricFace])

theorem setDrained_fabricKept (s : State) : FabricKept s (setDrained s) := by
  unfold setDrained
  extract_lets s0 s1 s2
  have hwaiters : FabricKept s s1 := (FabricKept.foldl (fun t i => reply_fabricKept i 0 _ t) _ s0).after rfl
  have hlog : FabricKept s1 s2 := (logAdd_fabricKept _ _ _ _).after rfl
  clear_value s1 s2
  exact .ite ((hwaiters.trans hlog).trans ((pushEvent_fabricKept _ _ s2).trans (drainRelease_fabricKept _))) hwaiters

theorem roundCheck_fabricKept (s : State) : FabricKept s (roundCheck s) := by
  unfold roundCheck
  extract_lets d g s1
  have hround : FabricKept s s1 := modDrain_fabricKept _ s
  refine .ite (.ite (hround.trans ?_) hround) (.refl s)
  exact (FabricKept.foldl (fun t c => mgmt_fabricKept _ c _ t) _ s1).trans (setDrained_fabricKept _)

end Sys2Proof.Machine
end

section
/-! PROOF. What the fabric keeps (continued): landings, buffering, acknowledgements, copies and arrivals. -/

namespace Sys2Proof.Machine

theorem FabricKept.of_pair {α : Type} {s t : State} {r : State × α} {b : α} (h : FabricKept s r.1) (e : r = (t, b)) :
    FabricKept s t := by rwa [e] at h

theorem foldl_fst_fabricKept {α β : Type} (f : State × β → α → State × β) (h : ∀ a x, FabricKept a.1 (f a x).1) (l : List α)
    (a : State × β) : FabricKept a.1 (l.foldl f a).1 := by
  induction l generalizing a with
  | nil => exact .refl _
  | cons x r ih => exact (h a x).trans (ih _)

/-- A change of a collective that keeps its state and its report. -/
theorem modColl_fabricKept (c : Nat) {f : Coll → Coll} (hf : ∀ v, (f v).state = v.state ∧ (f v).reported = v.reported) (s : State) :
    FabricKept s (modColl c f s) := .setColl fun hl => by rw [(hf _).1, (hf _).2]; exact hl

/-! Landings (R87 to R89, R133 to R135). -/

theorem asbLand_fabricKept (n a : Nat) (d : List Byte) (c : Nat) (src : Option (Nat × Nat)) (s : State) :
    FabricKept s (asbLand n a d c src s) := by
  unfold asbLand
  extract_lets v old new occ at0 s1 s2
  have hasb : FabricKept s s2 := (FabricKept.ite (raise_fabricKept _ s1) (.refl s1)).after rfl
  clear_value s2
  exact hasb.trans (.ite (raise_fabricKept _ s2) (.refl s2))

theorem landErr_fabricKept (n lc : Nat) (s : State) : FabricKept s (landErr n lc s) := newtError_fabricKept _ _ _ _ _ _

theorem landCell_fabricKept (n : Nat) (c : LandCell) (s : State) : FabricKept s (landCell n c s) := by
  unfold landCell
  extract_lets v r k contrib place s1
  have hdisc : FabricKept s s1 := discard_fabricKept 3 s
  exact .ite (discard_fabricKept 2 s) (.ite (landErr_fabricKept _ _ s)
    (.ite (hdisc.trans (.ite (abortMany_fabricKept _ _ _ s1) (raise_fabricKept _ s1))) (.of_face rfl)))

theorem landAsb_fabricKept (n : Nat) (c : LandCell) (s : State) : FabricKept s (landAsb n c s) := by
  unfold landAsb
  exact .ite (discard_fabricKept 2 s) (.ite (landErr_fabricKept _ _ s) ((asbLand_fabricKept _ _ _ _ _ _).after rfl))

theorem landAny_fabricKept (n : Nat) (c : LandCell) (s : State) : FabricKept s (landAny n c s) := by
  unfold landAny
  exact .ite (landAsb_fabricKept n c s) (landCell_fabricKept n c s)

theorem landPacket_fabricKept (p : Packet) (s : State) : FabricKept s (landPacket p s) := by
  unfold landPacket
  split
  · exact .foldl (fun u i => landAny_fabricKept _ _ u) _ s
  · exact .refl s

/-! Buffering (R263 to R272, R399). -/

theorem bitmapTake_fabricKept (r h : Nat) (s : State) : FabricKept s (bitmapTake r h s).1 := by
  unfold bitmapTake
  split
  · exact .refl s
  · exact .of_face rfl

theorem listPop_fabricKept (h a : Nat) (s : State) : FabricKept s (listPop h a s) := by
  unfold listPop
  exact .ite (.of_face rfl) (.of_face rfl)

theorem halfTake_fabricKept (r n h : Nat) (s : State) : FabricKept s (halfTake r n h s).1 := by
  unfold halfTake
  split
  · split
    · exact bitmapTake_fabricKept r h s
    · split
      · exact (listPop_fabricKept h _ s).trans (.of_face rfl)
      · extract_lets s0 s1
        have hpoison : FabricKept s s0 := .ite (stkUe_fabricKept _ s) (.refl s)
        have hbad : FabricKept s s1 := hpoison.trans (raise_fabricKept _ s0)
        exact hbad.trans ((bitmapTake_fabricKept r h _).after rfl)
  · exact bitmapTake_fabricKept r h s

theorem poolTake_fabricKept (r n die : Nat) (s : State) : FabricKept s (poolTake r n die s).1 := by
  unfold poolTake
  extract_lets k d
  split
  · exact .refl s
  · have hhalf := halfTake_fabricKept r n (7 * d + k) s
    split <;> rename_i heq <;> exact hhalf.of_pair heq

theorem ovfTake_fabricKept (die n : Nat) (s : State) : FabricKept s (ovfTake die n s).1 := by
  unfold ovfTake
  split
  · exact .refl s
  · have hpool := poolTake_fabricKept (0x900 + die) 65536 die s
    split <;> rename_i heq <;> exact hpool.of_pair heq

theorem enqueue_fabricKept (port vc acct loc : Nat) (p : Packet) (s : State) : FabricKept s (enqueue port vc acct loc p s) :=
  .of_face rfl

theorem ovfAdmit_fabricKept (port vc : Nat) (p : Packet) (s : State) : FabricKept s (ovfAdmit port vc p s).1 := by
  unfold ovfAdmit
  extract_lets d n free full
  have hfull (t : State) : FabricKept t (full t) := by
    exact .ite (.refl t) ((raise_fabricKept _ _).after rfl)
  have htake := ovfTake_fabricKept d n s
  clear_value full
  split
  · exact .refl s
  · split
    · exact hfull s
    · split
      · exact .refl s
      · split
        · rename_i heq
          exact (htake.of_pair heq).trans ((lovStore_fabricKept _ _ _).trans (enqueue_fabricKept _ _ _ _ _ _))
        · rename_i heq
          exact (htake.of_pair heq).trans (hfull _)

theorem admitTo_fabricKept (port vc : Nat) (p : Packet) (s : State) : FabricKept s (admitTo port vc p s).1 := by
  unfold admitTo
  extract_lets n txn
  split
  · exact landPacket_fabricKept p s
  · split
    · exact ovfAdmit_fabricKept _ _ _ s
    · split
      · exact enqueue_fabricKept _ _ _ _ _ s
      · split
        · exact enqueue_fabricKept _ _ _ _ _ s
        · exact ovfAdmit_fabricKept _ _ _ s

theorem copyAdmit_fabricKept (port : Nat) (p : Packet) (own : Bool) (s : State) : FabricKept s (copyAdmit port p own s) := by
  unfold copyAdmit
  extract_lets d n prio ses
  split
  · exact .ite (.of_face rfl) (.of_face rfl)
  · extract_lets gone s1
    have hevict : FabricKept s s1 := by
      refine .foldl (fun t e => ?_) _ s
      exact .ite (.of_face rfl) (.of_face rfl)
    clear_value s1
    exact hevict.trans (.of_face rfl)

/-! Acknowledgements, and packets that have no way on (R302 to R307). -/

theorem ackOut_fabricKept (p : Packet) (s : State) : FabricKept s (ackOut p s) := by
  unfold ackOut
  split
  · exact .of_face rfl
  · split <;> exact .of_face rfl

theorem sendAck_fabricKept (p : Packet) (nak closed : Bool) (win reason next : Nat) (s : State) :
    FabricKept s (sendAck p nak closed win reason next s) := ackOut_fabricKept _ s

theorem proxyCount_fabricKept (p : Packet) (s : State) : FabricKept s (proxyCount p s) := by
  unfold proxyCount
  split
  · split
    · exact .refl s
    · exact .of_face rfl
  · exact .refl s

theorem flowPump_fabricKept (fuel : Nat) (f : SrcFlow) (s : State) : FabricKept s (flowPump fuel f s).1 := by
  induction fuel generalizing f s with
  | zero => exact .refl s
  | succ fuel ih =>
    unfold flowPump
    split
    · rename_i fuel' p r hfuel hwait
      obtain rfl : fuel = fuel' := Nat.succ.inj hfuel
      split
      · extract_lets q
        have hsent : FabricKept s (unitOut q (proxyCount q s)) := (proxyCount_fabricKept q s).trans (.of_face rfl)
        exact hsent.trans (ih _ _)
      · exact .refl s
    · exact .refl s

theorem unitSend_fabricKept (p : Packet) (s : State) : FabricKept s (unitSend p s) := by
  unfold unitSend
  extract_lets k f
  split
  · have hpump := flowPump_fabricKept (f.waitq.length + 1) { f with waitq := f.waitq ++ [p] } s
    split
    rename_i heq
    exact (hpump.of_pair heq).trans (.of_face rfl)
  · exact (proxyCount_fabricKept p s).trans (.of_face rfl)

theorem tellSource_fabricKept (p : Packet) (s : State) : FabricKept s (tellSource p s) := by
  unfold tellSource
  exact .ite (unitSend_fabricKept _ s) (.ite (sendAck_fabricKept _ _ _ _ _ _ s) (.refl s))

theorem onNoRoute_fabricKept (src : Nat) (p : Packet) (s : State) : FabricKept s (onNoRoute src p s) := by
  unfold onNoRoute
  extract_lets s1
  have hdisc : FabricKept s s1 := discard_fabricKept 4 s
  exact .ite hdisc (hdisc.trans ((raise_fabricKept _ s1).trans (tellSource_fabricKept p _)))

theorem onPortDown_fabricKept (src : Nat) (p : Packet) (s : State) : FabricKept s (onPortDown src p s) :=
  (discard_fabricKept 4 s).trans ((raise_fabricKept _ _).trans (tellSource_fabricKept p _))

/-! Copies and metering (R273 to R276, R326). -/

theorem makeCopies_fabricKept (pls : List CopyPlan) (p : Packet) (s : State) : FabricKept s (makeCopies pls p s) := by
  unfold makeCopies
  refine .foldl (fun t pl => .ite (.refl t) ?_) _ s
  extract_lets c t1
  have hcount : FabricKept t t1 := .of_face rfl
  split
  · exact hcount.trans (onNoRoute_fabricKept _ _ t1)
  · exact hcount.trans (.ite (copyAdmit_fabricKept _ _ _ t1) (onPortDown_fabricKept _ _ t1))

theorem mirrorPlan_fabricKept (ins outs : List Nat) (p : Packet) (s : State) : FabricKept s (mirrorPlan ins outs p s).1 := by
  unfold mirrorPlan
  refine foldl_fst_fabricKept _ (fun a i => ?_) _ (s, [], [])
  dsimp only
  split
  · exact .refl _
  · (repeat' split) <;> exact .of_face rfl

theorem mirrored_fabricKept (ins outs : List Nat) (p : Packet) (s : State) : FabricKept s (mirrored ins outs p s).1 := by
  have hplan := mirrorPlan_fabricKept ins outs p s
  unfold mirrored
  generalize mirrorPlan ins outs p s = r at hplan ⊢
  obtain ⟨t, onIn, onOut⟩ := r
  exact hplan.trans (makeCopies_fabricKept onIn p t)

theorem police_fabricKept (port : Nat) (p : Packet) (s : State) : FabricKept s (police port p s).1 := by
  unfold police
  split
  · exact .refl s
  · extract_lets v s1 pre
    have hraise : FabricKept s s1 := .ite (raise_fabricKept _ s) (.refl s)
    clear_value s1
    generalize meter v pre (charge p v.ovh) = taken
    obtain ⟨col, c, e⟩ := taken
    dsimp only
    split <;> exact hraise.trans (.of_face rfl)

/-! Arrivals (R132, R148, R259 to R261, R300). -/

theorem barrierRelease_fabricKept (c : Nat) (s : State) : FabricKept s (barrierRelease c s) := by
  unfold barrierRelease
  refine .ite ((modColl_fabricKept c (f := fun v => { v with freed := true }) (fun _ => ⟨rfl, rfl⟩) s).trans ?_) (.refl s)
  exact .foldl (fun t m => unitSend_fabricKept _ t) _ _

theorem collCheck_fabricKept (q : Nat) (p : Packet) (s : State) : FabricKept s (collCheck q p s).1 := by
  have htaken (port : Nat) (t : CollTag) : FabricKept s (contribTaken port t s) := by
    unfold contribTaken
    exact .ite ((modColl_fabricKept _ (f := fun v => { v with arrived := insertNat v.arrived port })
      (fun _ => ⟨rfl, rfl⟩) s).trans (barrierRelease_fabricKept _ _)) (.refl s)
  have hbad (place : FaultPlace) (t : CollTag) : FabricKept s (contribBad place t s) := by
    unfold contribBad
    extract_lets s1
    have hdisc : FabricKept s s1 := discard_fabricKept 3 s
    exact hdisc.trans (.ite (abortMany_fabricKept _ _ _ s1) (raise_fabricKept _ s1))
  unfold collCheck
  split
  · exact .refl s
  · extract_lets port
    split
    · exact discard_fabricKept 2 s
    · split
      · split
        · exact htaken _ _
        · exact hbad _ _
      · exact .refl s

theorem stompCount_fabricKept (q : Nat) (p : Packet) (code : Nat) (s : State) : FabricKept s (stompCount q p code s) :=
  (raise_fabricKept _ _).after rfl

theorem stompColl_fabricKept (p : Packet) (code : Nat) (place : FaultPlace) (s : State) : FabricKept s (stompColl p code place s) := by
  unfold stompColl
  split
  · exact .refl s
  · exact .ite (.ite (.refl s) (abortMany_fabricKept _ _ _ s)) (.ite (abortMany_fabricKept _ _ _ s) (.refl s))

theorem stompDrop_fabricKept (q : Nat) (p : Packet) (code : Nat) (s : State) : FabricKept s (stompDrop q p code s) := by
  unfold stompDrop
  extract_lets s1
  have hcopies : FabricKept s s1 :=
    (discard_fabricKept 0 s).trans ((stompCopiesOf_fabricKept _ _ _ _).trans (stompColl_fabricKept _ _ _ _))
  exact .ite (hcopies.trans (sendAck_fabricKept _ _ _ _ _ _ s1)) hcopies

theorem stompPkt_fabricKept (q : Nat) (p : Packet) (code : Nat) (s : State) : FabricKept s (stompPkt q p code s) := by
  unfold stompPkt
  extract_lets mine s1
  have hcount : FabricKept s s1 := stompCount_fabricKept q p code s
  clear_value s1
  split
  · exact .modQuad q fun _ => rfl
  · refine hcount.trans ?_
    split
    · exact (ingressDrop_fabricKept _ s1).trans (stompDrop_fabricKept _ _ _ _)
    · split
      · exact (stompQueued_fabricKept _ _ s1).trans (stompColl_fabricKept _ _ _ _)
      · exact stompCopiesOf_fabricKept _ _ _ s1

theorem cellIn_fabricKept (q k : Nat) (b : List Byte) (last : Bool) (s : State) : FabricKept s (cellIn q k b last s) := by
  unfold cellIn
  extract_lets s1 grow
  have hjoin : FabricKept s s1 := cellJoins_fabricKept k b last s
  clear_value s1
  refine hjoin.trans (FabricKept.trans ?_ (.modQuad q fun _ => rfl))
  exact .of_face rfl

theorem badArrival_fabricKept (q : Nat) (s : State) : FabricKept s (badArrival q s) := by
  unfold badArrival
  refine FabricKept.trans ?_ (raise_fabricKept _ _)
  exact .modQuad q fun _ => rfl

theorem lookup_fabricKept (src : Nat) (p : Packet) (s : State) : FabricKept s (lookup src p s).1 := by
  unfold lookup
  split
  · exact onNoRoute_fabricKept src p s
  · split
    · exact onPortDown_fabricKept src p s
    · exact .refl s

theorem enter_fabricKept (q : Nat) (p : Packet) (s : State) : FabricKept s (enter q p s).1 := by
  have hcheck := collCheck_fabricKept q p s
  unfold enter
  split
  · rename_i heq
    exact hcheck.of_pair heq
  · rename_i t heq
    refine (hcheck.of_pair heq).trans ?_
    have hpolice : FabricKept t (if (quad t q).use = 7 then police (quad t q).port p t else (t, p)).1 := by
      split
      · exact police_fabricKept _ p t
      · exact .refl t
    generalize (if (quad t q).use = 7 then police (quad t q).port p t else (t, p)) = r at hpolice ⊢
    obtain ⟨t1, m⟩ := r
    refine hpolice.trans ?_
    have hlook := lookup_fabricKept q m t1
    dsimp only
    split
    · exact .refl t1
    · split
      · rename_i u heq'
        have hcopies := mirrored_fabricKept [portNum u q] [] m u
        generalize mirrored [portNum u q] [] m u = r at hcopies ⊢
        exact (hlook.of_pair heq').trans hcopies
      · rename_i u out vc heq'
        refine (hlook.of_pair heq').trans ?_
        split
        · exact copyAdmit_fabricKept _ _ _ u
        · have hcopies := mirrored_fabricKept [portNum u q] (portList out) m u
          generalize mirrored [portNum u q] (portList out) m u = r at hcopies ⊢
          obtain ⟨w, m'⟩ := r
          exact hcopies.trans (.of_face rfl)

theorem numbered_fabricKept (p : Packet) (s : State) : FabricKept s (numbered p s).1 := by
  unfold numbered
  split
  · exact .refl s
  · exact .of_face rfl

theorem arrive_fabricKept (q : Nat) (p0 : Packet) (s : State) : FabricKept s (arrive q p0 s) := by
  unfold arrive
  extract_lets p1
  have herase : FabricKept s (modQuad q (fun v => { v with arrivedPkts := v.arrivedPkts.erase p1 }) s) := .modQuad q fun _ => rfl
  have hnum := herase.trans (numbered_fabricKept { p1 with stomp := if 5 ≤ p1.stomp then 2 else p1.stomp } _)
  split
  rename_i s0 p heq
  refine (hnum.of_pair heq).trans ?_
  extract_lets free s1
  have hfree (t : State) : FabricKept t (free t) := returnCredit_fabricKept _ _ _ t
  have hcount : FabricKept s0 s1 := .of_face rfl
  have henter := enter_fabricKept q p s1
  clear_value free s1
  refine .ite ((badArrival_fabricKept q s0).trans (hfree _)) (.ite (hfree s0) (.ite ((badArrival_fabricKept q s0).trans (hfree _)) ?_))
  refine hcount.trans (.ite ((stompCount_fabricKept _ _ _ s1).trans ((stompDrop_fabricKept _ _ _ _).trans (hfree _))) ?_)
  split
  · rename_i heq'
    exact henter.of_pair heq'
  · rename_i heq'
    exact (henter.of_pair heq').trans (hfree _)

end Sys2Proof.Machine
end

section
/-! PROOF. A quad that goes down (R260, R293, R310, R317, R320): what its end sets off leaves every other quad's state, the
lost chips and the bridge as they are. -/

namespace Sys2Proof.Machine

/-! The scheduled plane (R260, R261). -/

theorem rxFlush_fabricKept (n r : Nat) (good : Bool) (s : State) : FabricKept s (rxFlush n r good s) := by
  unfold rxFlush
  extract_lets v mine s1
  have hnewt : FabricKept s s1 := .of_face rfl
  exact .ite (hnewt.trans (.foldl (fun t x => landAny_fabricKept n x t) _ s1)) hnewt

theorem rxFlushAll_fabricKept (recs : List (Nat × List Byte)) (good : Bool) (s : State) : FabricKept s (rxFlushAll recs good s) := by
  unfold rxFlushAll
  exact .foldl (fun t e => rxFlush_fabricKept _ _ good t) _ s

theorem schedStomp_fabricKept (q route wait : Nat) (recs : List (Nat × List Byte)) (p : Packet) (len pos code : Nat)
    (b : List Byte) (s : State) : FabricKept s (schedStomp q route wait recs p len pos code b s) := by
  unfold schedStomp
  extract_lets inPipe waits
  split
  rename_i s1 idx heq
  have hnext : FabricKept s s1 := FabricKept.of_pair (r := routeNext route s) (.of_face rfl) heq
  extract_lets s2 cell s3
  have hstomp : FabricKept s s2 := hnext.trans ((stompCount_fabricKept q p code s1).trans
    ((schedCopies_fabricKept p code b _).trans (stompColl_fabricKept _ _ _ _)))
  clear_value s2
  refine hstomp.trans (.ite (FabricKept.trans ?_ (rxFlushAll_fabricKept recs false _)) (.of_face rfl))
  exact .of_face rfl

theorem schedCut_fabricKept (q : Nat) (s : State) : FabricKept s (schedCut q s) := by
  unfold schedCut
  have hstomps (l : List (Nat × Packet × Nat × Nat)) (u : State) : FabricKept u (l.foldl (fun t e => if e.2.2.1 = 0 then t
      else schedStomp q e.1 (quadDimg t q) (quadRecs t q e.1) e.2.1 e.2.2.1 e.2.2.2 1 (zeros 256) t) u) :=
    .foldl (fun t e => .ite (.refl t) (schedStomp_fabricKept _ _ _ _ _ _ _ _ _ t)) l u
  refine FabricKept.trans ?_ (hstomps _ _)
  exact .modQuad q fun _ => rfl

theorem cutOpen_fabricKept (q code : Nat) (o : OpenPkt) (s : State) : FabricKept s (cutOpen q code o s) := by
  unfold cutOpen
  exact .ite ((stompCount_fabricKept _ _ _ s).trans (stompDrop_fabricKept _ _ _ _))
    ((cellIn_fabricKept _ _ _ _ s).trans (stompPkt_fabricKept _ _ _ _))

theorem lastArrivals_fabricKept (q : Nat) (f : Packet → Bool) (s : State) : FabricKept s (lastArrivals q f s) := by
  unfold lastArrivals
  extract_lets s1
  have hopens : FabricKept s s1 := .foldl (fun t o => .ite (.refl t) (cutOpen_fabricKept q 1 o t)) _ s
  clear_value s1
  exact hopens.trans ((FabricKept.foldl (fun t p => arrive_fabricKept q p t) _ s1).trans (schedCut_fabricKept q _))

/-! Packets of a dead link (R310, R320, R512). -/

theorem sendBack_fabricKept (port vc : Nat) (p : Packet) (s : State) : FabricKept s (sendBack port vc p s) := by
  have hadmit := admitTo_fabricKept port vc p s
  unfold sendBack
  split
  · exact copyAdmit_fabricKept port p false s
  · split
    · rename_i heq
      exact hadmit.of_pair heq
    · rename_i heq
      exact (hadmit.of_pair heq).trans (.of_face rfl)

theorem recoverPacket_fabricKept (q : Nat) (p : Packet) (s : State) : FabricKept s (recoverPacket q p s) := by
  unfold recoverPacket
  exact .ite (sendBack_fabricKept _ _ p s) (.ite (sendAck_fabricKept _ _ _ _ _ _ s) (.refl s))

theorem recoverHeld_fabricKept (q : Nat) (p : Packet) (s : State) : FabricKept s (recoverHeld q p s) := by
  unfold recoverHeld
  exact (FabricKept.ite (.refl s) (discard_fabricKept 7 s)).trans (recoverPacket_fabricKept q p _)

theorem signalsLost_fabricKept (d : Nat) (s : State) : FabricKept s (signalsLost d s) := by
  unfold signalsLost signalLost
  exact (FabricKept.foldl (fun t (e : Nat × SigSlot) => raise_fabricKept _ t) _ _).after rfl

theorem routeAgain_fabricKept (d : Nat) (p : Packet) (s : State) : FabricKept s (routeAgain d p s) := by
  unfold routeAgain
  split
  · exact onNoRoute_fabricKept _ _ s
  · exact sendBack_fabricKept _ _ _ s

theorem waitAgain_fabricKept (w : Waiting) (s : State) : FabricKept s (waitAgain w s) := by
  unfold waitAgain
  split
  · exact (ingressDrop_fabricKept w s).trans (onNoRoute_fabricKept _ _ _)
  · exact .of_face rfl

theorem dirLost_fabricKept (d : Nat) (s : State) : FabricKept s (dirLost d s) := by
  unfold dirLost
  extract_lets mine s1 s2 s3
  have hsignals : FabricKept s s1 := signalsLost_fabricKept d s
  have htrim : FabricKept s1 (ovfTrim (homeDie s2 (128 + d)) s2) := (ovfTrim_fabricKept _ s2).after rfl
  have hqueues : FabricKept s1 s3 := htrim.trans (.foldl (fun t p => routeAgain_fabricKept d p t) _ _)
  clear_value s3
  exact (hsignals.trans hqueues).trans (.foldl (fun t w => waitAgain_fabricKept w t) _ s3)

theorem dirCheck_fabricKept (q : Nat) (s : State) : FabricKept s (dirCheck q s) := by
  unfold dirCheck
  exact .ite (dirLost_fabricKept _ s) (.refl s)

/-! Links and ports that are declared down (R293, R296, R310). -/

/-- From `s` to `t` no quad has changed its state, no chip was lost, and the bridge is as it was. -/
structure LinksKept (s t : State) : Prop where
  quads_sorted : tsorted s.quads → tsorted t.quads
  quad : tsorted s.quads → ∀ q, (quad t q).state = (quad s q).state
  lost : t.rte.lost = s.rte.lost
  bridge : t.rte.bridgeLost = s.rte.bridgeLost

theorem FabricKept.links {s t : State} (h : FabricKept s t) : LinksKept s t := ⟨h.quads_sorted, h.quad, h.lost, h.bridge⟩

theorem LinksKept.trans {s t u : State} (h : LinksKept s t) (g : LinksKept t u) : LinksKept s u where
  quads_sorted hs := g.quads_sorted (h.quads_sorted hs)
  quad hs q := (g.quad (h.quads_sorted hs) q).trans (h.quad hs q)
  lost := g.lost.trans h.lost
  bridge := g.bridge.trans h.bridge

theorem freeFlows_linksKept (f : Nat × Nat × Nat × Nat × Nat × Nat → Bool) (s : State) : LinksKept s (freeFlows f s) :=
  ⟨id, fun _ _ => rfl, rfl, rfl⟩

theorem linkDownErr_fabricKept (port : Nat) (s : State) : FabricKept s (linkDownErr port s) := by
  unfold linkDownErr
  exact .foldl (fun t k => raise_fabricKept _ t) _ s

theorem modSwc_fabricKept (f : Swc → Swc) (s : State) : FabricKept s (modSwc f s) := .of_face rfl

theorem dropQueue_fabricKept (port : Nat) (s : State) : FabricKept s (dropQueue port s) := by
  unfold dropQueue
  extract_lets hs
  have hdisc : FabricKept s (hs.foldl (fun t _ => discard 7 t) s) := .foldl (fun t _ => discard_fabricKept 7 t) hs s
  exact hdisc.trans ((ovfTrim_fabricKept _ _).after rfl)

theorem endpointDown_linksKept (port : Nat) (s : State) : LinksKept s (endpointDown port s) := by
  unfold endpointDown
  extract_lets e s1 s2 s3 s4 s5 addr s6
  have hopen : FabricKept s s1 := .of_face rfl
  have hevents : FabricKept s1 s3 := (pushEvent_fabricKept _ _ s1).trans (logAdd_fabricKept _ _ _ s2)
  have haborts : FabricKept s3 s4 := abortMany_fabricKept _ _ _ s3
  clear_value s3 s4
  have hdrop : FabricKept s4 (dropQueue port s4) := dropQueue_fabricKept port s4
  have hreserved : FabricKept (dropQueue port s4) s5 := modSwc_fabricKept _ _
  have hqueues : FabricKept s s5 := hopen.trans (hevents.trans (haborts.trans (hdrop.trans hreserved)))
  clear_value s5
  have hflows : LinksKept s5 s6 := (freeFlows_linksKept _ s5).trans (freeFlows_linksKept _ _)
  clear_value s6
  exact (hqueues.links.trans hflows).trans (FabricKept.foldl (fun t c => mgmt_fabricKept _ c _ t) _ s6).links

theorem torusDown_fabricKept (q d : Nat) (s : State) : FabricKept s (torusDown q d s) := by
  unfold torusDown
  extract_lets s1
  have hdecl : FabricKept s s1 := .of_face rfl
  exact .ite hdecl (hdecl.trans (abortMany_fabricKept _ _ _ s1))

theorem declareDown_linksKept (q : Nat) (s : State) : LinksKept s (declareDown q s) := by
  unfold declareDown
  extract_lets v
  split
  · exact (FabricKept.refl s).links
  · extract_lets s1 cause place s2
    have hstop : FabricKept s s2 :=
      (linkDownErr_fabricKept _ s).trans (.ite (jobStop_fabricKept _ _ s1).1 (.refl s1))
    clear_value s2
    split
    · exact (FabricKept.refl s).links
    · split
      · exact hstop.links.trans (endpointDown_linksKept _ s2)
      · exact (hstop.trans (torusDown_fabricKept _ _ s2)).links

theorem portUnseen_linksKept (q : Nat) (s : State) : LinksKept s (portUnseen q s) := by
  unfold portUnseen
  extract_lets v e
  split
  · exact ⟨id, fun _ _ => rfl, rfl, rfl⟩
  · exact (FabricKept.refl s).links

/-! Quads that go down (R317). -/

/-- From `s` to `t` quad `q` has gone DOWN, and no other quad has changed its state. -/
structure QuadFell (q : Nat) (s t : State) : Prop where
  quads_sorted : tsorted s.quads → tsorted t.quads
  down : tsorted s.quads → (quad t q).state = .down
  other : tsorted s.quads → ∀ k, k ≠ q → (quad t k).state = (quad s k).state
  lost : t.rte.lost = s.rte.lost
  bridge : t.rte.bridgeLost = s.rte.bridgeLost

theorem QuadFell.setQuad {q : Nat} {s : State} {v : Quad} (h : v.state = .down) : QuadFell q s (setQuad q v s) where
  quads_sorted hs := tsorted_tset _ hs _ _
  down hs := by rw [quad_setQuad _ _ _ hs, h]
  other hs k hk := by rw [quad_setQuad_other _ _ _ _ hs hk]
  lost := rfl
  bridge := rfl

theorem QuadFell.trans {q : Nat} {s t u : State} (h : QuadFell q s t) (g : LinksKept t u) : QuadFell q s u where
  quads_sorted hs := g.quads_sorted (h.quads_sorted hs)
  down hs := (g.quad (h.quads_sorted hs) q).trans (h.down hs)
  other hs k hk := (g.quad (h.quads_sorted hs) k).trans (h.other hs k hk)
  lost := g.lost.trans h.lost
  bridge := g.bridge.trans h.bridge

theorem LinksKept.fell {q : Nat} {s t u : State} (h : LinksKept s t) (g : QuadFell q t u) : QuadFell q s u where
  quads_sorted hs := g.quads_sorted (h.quads_sorted hs)
  down hs := g.down (h.quads_sorted hs)
  other hs k hk := (g.other (h.quads_sorted hs) k hk).trans (h.quad hs k)
  lost := g.lost.trans h.lost
  bridge := g.bridge.trans h.bridge

theorem quadDown_quadFell (q : Nat) (s : State) : QuadFell q s (quadDown q s) := by
  unfold quadDown
  extract_lets s0 v out s1 s2 s3 s4 s5
  have harrivals : LinksKept s s0 := (lastArrivals_fabricKept q _ s).links
  have hfell : QuadFell q s0 s1 := .setQuad rfl
  have hsent : FabricKept s1 s3 := (FabricKept.foldl (fun t p => recoverPacket_fabricKept q p t) _ s2).after rfl
  have hheld : FabricKept s3 s4 := .foldl (fun t p => recoverHeld_fabricKept q p t) _ s3
  have hdir : FabricKept s4 s5 := dirCheck_fabricKept q s4
  have hdown : QuadFell q s s5 := (harrivals.fell hfell).trans ((hsent.trans hheld).trans hdir).links
  clear_value s5
  split
  · exact hdown.trans (declareDown_linksKept q s5)
  · exact hdown.trans (portUnseen_linksKept q s5)

/-- The quads below `n` that are not down go down one after another. -/
theorem foldl_quadDown (n : Nat) {s : State} (hs : tsorted s.quads) :
    let t := (List.range n).foldl (fun t q => if (quad t q).state = .down then t else quadDown q t) s
    tsorted t.quads ∧ (∀ q < n, (quad t q).state = .down) ∧ t.rte.lost = s.rte.lost ∧ t.rte.bridgeLost = s.rte.bridgeLost := by
  induction n with
  | zero => exact ⟨hs, fun q h => absurd h (Nat.not_lt_zero q), rfl, rfl⟩
  | succ n ih =>
    rw [List.range_succ, List.foldl_append, List.foldl_cons, List.foldl_nil]
    generalize (List.range n).foldl (fun t q => if (quad t q).state = .down then t else quadDown q t) s = t at ih ⊢
    obtain ⟨hsort, hdown, hlost, hbridge⟩ := ih
    dsimp only
    split
    · rename_i hn
      refine ⟨hsort, fun q hq => ?_, hlost, hbridge⟩
      rcases Nat.lt_succ_iff_lt_or_eq.mp hq with hlt | rfl
      · exact hdown q hlt
      · exact hn
    · have hfell := quadDown_quadFell n t
      refine ⟨hfell.quads_sorted hsort, fun q hq => ?_, hfell.lost.trans hlost, hfell.bridge.trans hbridge⟩
      rcases Nat.lt_succ_iff_lt_or_eq.mp hq with hlt | rfl
      · exact (hfell.other hsort q hlt.ne).trans (hdown q hlt)
      · exact hfell.down hsort

end Sys2Proof.Machine
end

section
/-! PROOF. Lost chips (R309, R317, R318): what the loss of a chip leaves behind, and the loss of this chip's own bridge. -/

namespace Sys2Proof.Machine

/-! A drain's end leaves the collectives alone. -/

theorem mgmt_colls (msg : String) (dst : Nat) (vals : List Nat) (s : State) : (mgmt msg dst vals s).colls = s.colls := by
  rw [mgmt_frame]

theorem liftDrain_colls (s : State) : (liftDrain s).colls = s.colls := by
  unfold liftDrain
  exact foldl_field State.colls (fun t (m : String × Nat × List Nat) => emit (.mgmt m.1 m.2.1 m.2.2) t) (fun _ _ => rfl) _ _

theorem releaseCheck_colls (s : State) : (releaseCheck s).colls = s.colls := by
  unfold releaseCheck
  split
  · rw [liftDrain_colls]
    exact foldl_field State.colls _ (fun t c => mgmt_colls _ c _ t) _ s
  · rfl

theorem releaseTake_colls (chip : Nat) (s : State) : (releaseTake chip s).colls = s.colls := by
  unfold releaseTake
  split
  · rfl
  · exact releaseCheck_colls _

theorem drainRelease_colls (s : State) : (drainRelease s).colls = s.colls := by
  unfold drainRelease
  dsimp only
  split
  · exact liftDrain_colls s
  · split
    · exact releaseTake_colls _ _
    · exact mgmt_colls _ _ _ _

theorem setDrained_colls (s : State) : (setDrained s).colls = s.colls := by
  unfold setDrained
  extract_lets s0 s1 s2
  have hwaiters : s1.colls = s.colls := foldl_field State.colls _ (fun t i => reply_colls i 0 _ t) _ s0
  split
  · rw [drainRelease_colls, pushEvent_colls, logOpen_colls]
    exact hwaiters
  · exact hwaiters

theorem roundCheck_colls (s : State) : (roundCheck s).colls = s.colls := by
  unfold roundCheck
  extract_lets d g s1
  split
  · split
    · rw [setDrained_colls]
      exact foldl_field State.colls _ (fun t c => mgmt_colls _ c _ t) _ s1
    · rfl
  · rfl

/-! The loss of another chip (R309, R318). -/

/-- The entry of a key that a table has. -/
theorem mem_tget_of_mem_key {α : Type} (d : α) {t : Table α} {k : Nat} (h : ∃ e ∈ t, e.1 = k) : (k, tget d t k) ∈ t := by
  induction t with
  | nil => simp at h
  | cons e r ih =>
    obtain ⟨i, v⟩ := e
    rw [tget_cons]
    rcases eq_or_ne i k with rfl | hik
    · simp
    · simp only [if_neg hik, List.mem_cons]
      exact .inr (ih (by simpa [hik] using h))

theorem mem_pendingColls {s : State} {f : Coll → Bool} {k : Nat} (hun : unreported s k = true)
    (hp : (coll s k).state = .pending) (hf : f (coll s k) = true) : k ∈ pendingColls s f := by
  unfold unreported at hun
  simp only [Bool.and_eq_true, List.any_eq_true, decide_eq_true_eq, Bool.not_eq_true'] at hun
  have hmem : (k, coll s k) ∈ s.colls := by
    have := mem_tget_of_mem_key {} hun.1
    rwa [coll]
  refine List.mem_map.mpr ⟨(k, coll s k), List.mem_filter.mpr ⟨hmem, ?_⟩, rfl⟩
  simp [hun.2, hp, hf]

/-- The collectives without a chip. -/
def withoutChip (chip : Nat) (v : Coll) : Coll := { v with chips := v.chips.filter (· ≠ chip) }

/-- What the loss of a chip leaves behind. -/
structure ChipGone (chip : Nat) (s t : State) : Prop where
  lost : t.rte.lost = insertNat s.rte.lost chip
  flows : t.rte.flows = s.rte.flows.filter (fun g => !(chipOf g.key.1 == chip))
  colls : ∀ k, unreported s k = true → (coll s k).state = .pending → (coll s k).commitChip = chip → isLost t k
  chips : ∀ k, chip ∉ (coll t k).chips
  job : inSpan s chip = true → schActive s = true → t.sch.state = .stopped
  out : s.out <+: t.out
  records : RecordsStand s t

theorem schActive_of_state {s t : State} (h : t.sch.state = s.sch.state) (ha : schActive s = true) : schActive t = true := by
  unfold schActive
  rw [h]
  exact ha

/-- A chip leaves every collective. -/
def collsWithout (chip : Nat) (s : State) : State := { s with colls := s.colls.map (fun e => (e.1, withoutChip chip e.2)) }

theorem coll_collsWithout (chip : Nat) (s : State) (k : Nat) : coll (collsWithout chip s) k = withoutChip chip (coll s k) := by
  unfold coll collsWithout
  exact tget_map_value {} (withoutChip chip) rfl s.colls k

/-- A chip leaves the drain's rounds. -/
def roundsWithout (chip : Nat) (s : State) : State :=
  modDrain (fun d => { d with round := d.round.filter (fun r => r.chip != chip),
                              prevRound := d.prevRound.filter (fun r => r.chip != chip) }) s

/-- The drain goes on without a chip that has left it. -/
def drainGoesOn (s : State) : State :=
  if s.rte.drain.classes = 0 ∨ s.rte.drain.scope = 0 ∨ coordinator s ≠ s.rte.coord then s
  else roundCheck (if s.rte.drain.releases.isEmpty then s else releaseCheck s)

/-- A chip joins the lost ones, and its flows are freed. -/
def chipLeft (chip : Nat) (s : State) : State :=
  freeFlows (fun k => chipOf k.1 == chip) (modRte (fun r => { r with lost := insertNat r.lost chip }) s)

/-- The collectives that wait for a chip's outcome are lost. -/
def outcomesLost (chip : Nat) (s : State) : State :=
  (pendingColls s (fun c => c.commitChip == chip)).foldl (fun t c => collLost c chip t) s

/-- The jobs and collectives that a lost chip takes part in stop. -/
def chipStops (chip : Nat) (detector : Bool) (s : State) : State :=
  let place : FaultPlace := { fchip := fchipOf chip, funit := 0, fkind := 6 }
  let s1 := if inSpan s chip then jobStop (if detector then 0x0607 else 0x0A09) place s else s
  abortMany (pendingColls s1 (fun c => c.chips.contains chip || chipUsed s1 c chip)) 0x0A03 place s1

theorem chipLoss_eq {chip : Nat} (detector : Bool) {s : State} (hcoord : chip ≠ s.rte.coord) (hnew : chip ∉ s.rte.lost) :
    chipLoss chip detector s =
      drainGoesOn (roundsWithout chip (collsWithout chip (chipStops chip detector (outcomesLost chip (chipLeft chip s))))) :=
  if_neg (by simp [hcoord, hnew])

theorem drainGoesOn_fabricKept (s : State) : FabricKept s (drainGoesOn s) := by
  unfold drainGoesOn
  exact .ite (.refl s) ((FabricKept.ite (.refl s) (releaseCheck_fabricKept s)).trans (roundCheck_fabricKept _))

theorem drainGoesOn_colls (s : State) : (drainGoesOn s).colls = s.colls := by
  unfold drainGoesOn
  split
  · rfl
  · rw [roundCheck_colls]
    split
    · rfl
    · exact releaseCheck_colls s

theorem chipStops_fabricKept (chip : Nat) (detector : Bool) (s : State) : FabricKept s (chipStops chip detector s) := by
  unfold chipStops
  extract_lets place s1
  have hjob : FabricKept s s1 := .ite (jobStop_fabricKept _ _ s).1 (.refl s)
  exact hjob.trans (abortMany_fabricKept _ _ _ s1)

/-- An active job with the chip in its span stops. -/
theorem chipStops_job {chip : Nat} (detector : Bool) {s : State} (hin : inSpan s chip = true)
    (ha : s.sch.state = .stopped ∨ schActive s = true) : (chipStops chip detector s).sch.state = .stopped := by
  rcases ha with hst | ha
  · exact (chipStops_fabricKept chip detector s).job.elim (fun e => e.trans hst) id
  · unfold chipStops
    extract_lets place s1
    have hstop : s1.sch.state = .stopped := by
      unfold s1
      rw [if_pos hin]
      exact (jobStop_fabricKept _ _ s).2 ha
    exact (abortMany_fabricKept _ _ _ s1).job.elim (fun e => e.trans hstop) id

/-- Every collective that waits for the chip's outcome is LOST. -/
theorem outcomesLost_isLost {chip k : Nat} {s : State} (hs : tsorted s.colls) (hun : unreported s k = true)
    (hp : (coll s k).state = .pending) (hc : (coll s k).commitChip = chip) : isLost (outcomesLost chip s) k :=
  (foldl_collLost _ chip hs).2 k (mem_pendingColls hun hp (by rw [hc]; exact beq_self_eq_true chip))

theorem chipLoss_chipGone {chip : Nat} (detector : Bool) {s : State} (hs : tsorted s.colls) (hcoord : chip ≠ s.rte.coord)
    (hnew : chip ∉ s.rte.lost) : ChipGone chip s (chipLoss chip detector s) := by
  rw [chipLoss_eq detector hcoord hnew]
  have hlost : FabricKept (chipLeft chip s) (outcomesLost chip (chipLeft chip s)) :=
    (foldl_collLost _ chip (s := chipLeft chip s) hs).1
  have hstops := chipStops_fabricKept chip detector (outcomesLost chip (chipLeft chip s))
  have hmid := hlost.trans hstops
  have hall : ∀ k, unreported s k = true → (coll s k).state = .pending → (coll s k).commitChip = chip →
      isLost (outcomesLost chip (chipLeft chip s)) k := fun k => outcomesLost_isLost (s := chipLeft chip s) hs
  have hjob : inSpan s chip = true → schActive s = true →
      (chipStops chip detector (outcomesLost chip (chipLeft chip s))).sch.state = .stopped := fun hin ha =>
    chipStops_job detector (by unfold inSpan; rw [hlost.span]; exact hin)
      (hlost.job.elim (fun e => .inr (schActive_of_state (s := s) e ha)) .inl)
  have hsort := hlost.colls_sorted hs
  generalize outcomesLost chip (chipLeft chip s) = u at hlost hstops hmid hall hjob hsort
  generalize chipStops chip detector u = v at hstops hmid hjob
  have hleft : RecordsStand s (chipLeft chip s) := .of_recs rfl
  have hwithout : RecordsStand v (roundsWithout chip (collsWithout chip v)) := .of_recs rfl
  have hend := drainGoesOn_fabricKept (roundsWithout chip (collsWithout chip v))
  have hcoll (k : Nat) : coll (drainGoesOn (roundsWithout chip (collsWithout chip v))) k = withoutChip chip (coll v k) := by
    rw [coll, drainGoesOn_colls]
    exact coll_collsWithout chip v k
  generalize drainGoesOn (roundsWithout chip (collsWithout chip v)) = t at hend hcoll
  exact {
    lost := hend.lost.trans hmid.lost
    flows := hend.flows.trans hmid.flows
    colls := fun k hun hp hc => by
      unfold isLost
      rw [hcoll]
      exact hstops.coll hsort k (hall k hun hp hc)
    chips := fun k => by simp [hcoll, withoutChip]
    job := fun hin ha => hend.job.elim (fun e => e.trans (hjob hin ha)) id
    out := hmid.out.trans hend.out
    records := hleft.trans (hmid.records.trans (hwithout.trans hend.records)) }

end Sys2Proof.Machine
end

section
/-! PROOF. Lost chips (continued): the notice and the neighbour that detects the loss, and this chip's own bridge (log 134). -/

namespace Sys2Proof.Machine

/-! Messages of a chip that drains no MGMT (R312). -/

theorem mgmt_of_open {s : State} (msg : String) (dst : Nat) (vals : List Nat) (h : drains s 4 = false) :
    mgmt msg dst vals s = emit (.mgmt msg dst vals) s := by
  simp [mgmt, h]

/-- Messages to several chips leave in turn. -/
theorem foldl_mgmt_open (msg : String) (vals : DrainSt → List Nat) (l : List Nat) {s : State} (h : drains s 4 = false) :
    l.foldl (fun t c => mgmt msg c (vals t.rte.drain) t) s =
      { s with out := s.out ++ l.map (fun c => .mgmt msg c (vals s.rte.drain)) } := by
  induction l generalizing s with
  | nil => simp
  | cons c r ih =>
    rw [List.foldl_cons, mgmt_of_open _ _ _ h, ih (s := emit _ s) h]
    simp [emit]

/-! The chip that detects a loss, and those that are told (R317). -/

/-- The notices of a loss to every other chip but the lost one. -/
def lossTold (chip : Nat) (s : State) : State :=
  (otherChips s).foldl (fun t c => if c = chip then t else mgmt "CHIP_LOST" c [chip] t) s

theorem lossTold_eq (chip : Nat) (s : State) : lossTold chip s =
    ((otherChips s).filter (fun c => decide (c ≠ chip))).foldl (fun t c => mgmt "CHIP_LOST" c [chip] t) s := by
  unfold lossTold
  rw [List.foldl_filter]
  congr 1
  funext t c
  by_cases hc : c = chip <;> simp [hc]

theorem lossTold_fabricKept (chip : Nat) (s : State) : FabricKept s (lossTold chip s) := by
  rw [lossTold_eq]
  exact .foldl (fun t c => mgmt_fabricKept _ c _ t) _ s

theorem lossTold_frame (chip : Nat) (s : State) :
    (lossTold chip s).colls = s.colls ∧ (lossTold chip s).sch = s.sch ∧ (lossTold chip s).rte.coord = s.rte.coord := by
  rw [lossTold_eq]
  refine ⟨foldl_field State.colls _ (fun t c => by rw [mgmt_frame]) _ s, foldl_field State.sch _ (fun t c => by rw [mgmt_frame]) _ s,
    foldl_field (fun t => t.rte.coord) _ (fun t c => ?_) _ s⟩
  unfold mgmt
  split <;> rfl

theorem mem_lossTold_out {chip h : Nat} {s : State} (hin : h ∈ otherChips s) (hne : h ≠ chip) (ho : drains s 4 = false) :
    Out.mgmt "CHIP_LOST" h [chip] ∈ (lossTold chip s).out := by
  rw [lossTold_eq, foldl_mgmt_open "CHIP_LOST" (fun _ => [chip]) _ ho]
  exact List.mem_append_right _ (List.mem_map.mpr ⟨h, List.mem_filter.mpr ⟨hin, by simpa using hne⟩, rfl⟩)

/-- A chip that is lost is gone for a state that differs by a record and messages only. -/
theorem ChipGone.before {chip : Nat} {s t u : State} (h : FabricKept s t) (hc : t.colls = s.colls) (hs : t.sch.state = s.sch.state)
    (g : ChipGone chip t u) : ChipGone chip s u where
  lost := by rw [g.lost, h.lost]
  flows := by rw [g.flows, h.flows]
  colls k hun hp hk := by
    have hcoll : coll t k = coll s k := by rw [coll, hc]; rfl
    exact g.colls k (by unfold unreported; rw [hc, hcoll]; exact hun) (by rw [hcoll, hp]) (by rw [hcoll, hk])
  chips := g.chips
  job hin ha := g.job (by unfold inSpan; rw [h.span]; exact hin) (schActive_of_state hs ha)
  out := h.out.trans g.out
  records := h.records.trans g.records

theorem otherChips_raise (o : Occ) (s : State) : otherChips (raise o s) = otherChips s := by
  unfold otherChips chipAt torusChips
  rw [raise_rte]

theorem drains_raise (o : Occ) (s : State) (cls : Nat) : drains (raise o s) cls = drains s cls := by
  unfold drains
  rw [raise_rte]

/-- The record of a lost chip (Table 15-2). -/
def lossOcc (chip : Nat) : Occ := { code := 0x0607, kind := 15, unit := chip }

/-- The lowest-numbered neighbour of a chip in service, whose links to it are down, is the one that detects its loss. -/
theorem chipLostDetect_eq {chip : Nat} {s : State} (hcoord : chip ≠ s.rte.coord) (hnew : chip ∉ s.rte.lost)
    (hn : s.rte.coord ∈ (neighboursOf s chip).filter (fun h => !s.rte.lost.contains h))
    (hmin : ∀ h ∈ (neighboursOf s chip).filter (fun h => !s.rte.lost.contains h), s.rte.coord ≤ h)
    (hseen : (List.range 6).all (fun d => neighbour s s.rte.coord d != chip || !dirUp s d) = true) :
    chipLostDetect chip s = chipLoss chip true (lossTold chip (raise (lossOcc chip) s)) := by
  unfold chipLostDetect
  rw [if_neg hcoord]
  extract_lets ns seen s1 s2
  have hlow : ns.foldl min s.rte.coord = s.rte.coord := by
    have hle (l : List Nat) (hl : ∀ h ∈ l, s.rte.coord ≤ h) : l.foldl min s.rte.coord = s.rte.coord := by
      induction l with
      | nil => rfl
      | cons a r ih =>
        rw [List.foldl_cons, min_eq_left (hl a List.mem_cons_self)]
        exact ih fun h hr => hl h (List.mem_cons_of_mem a hr)
    exact hle ns hmin
  have hmem : s.rte.coord ∈ ns := hn
  have hs : seen = true := hseen
  rw [if_neg (by simp [hlow, hs, hnew, hmem])]
  rfl

/-- What the statement of a lost chip asks of the state after it. -/
theorem ChipGone.statement {chip : Nat} {s t : State} (h : ChipGone chip s t) :
    chip ∈ t.rte.lost ∧ (∀ h ∈ s.rte.lost, h ∈ t.rte.lost) ∧ (∀ f ∈ t.rte.flows, chipOf f.key.1 ≠ chip) := by
  rw [h.lost, h.flows]
  exact ⟨mem_insertNat.mpr (.inl rfl), fun c hc => mem_insertNat.mpr (.inr hc), fun f hf => by simpa using (List.mem_filter.mp hf).2⟩

/-- The loss of another chip (R309, R317, R318). -/
theorem exec_chipLost {c : Instr} {chip : Nat} {s : State} (hwf : s.Wf) (hup : up s = true) (hcoord : chip ≠ s.rte.coord)
    (hnew : chip ∉ s.rte.lost)
    (hc : c = .chipLostNotice chip ∨ (c = .chipLost chip ∧
      s.rte.coord ∈ (neighboursOf s chip).filter (fun h => !s.rte.lost.contains h) ∧
      (∀ h ∈ (neighboursOf s chip).filter (fun h => !s.rte.lost.contains h), s.rte.coord ≤ h) ∧
      (List.range 6).all (fun d => neighbour s s.rte.coord d != chip || !dirUp s d) = true)) :
    ∃ t, exec c s = .next t ∧ ChipGone chip s t ∧ (c = .chipLost chip → (rasRec t 0x0607).set = true ∧
      ∀ h ∈ otherChips s, h ≠ chip → drains s 4 = false → Out.mgmt "CHIP_LOST" h [chip] ∈ t.out) := by
  obtain ⟨-, ⟨-, -, hcolls, -, hrecs, -⟩, -⟩ := hwf
  rcases hc with rfl | ⟨rfl, hn, hmin, hseen⟩
  · exact ⟨_, whenUp_of_up _ hup, chipLoss_chipGone false hcolls hcoord hnew, fun h => by cases h⟩
  · have hexec : exec (.chipLost chip) s = .next (chipLoss chip true (lossTold chip (raise (lossOcc chip) s))) := by
      rw [← chipLostDetect_eq hcoord hnew hn hmin hseen]
      exact whenUp_of_up _ hup
    refine ⟨_, hexec, ?_⟩
    have hraise := raise_fabricKept (lossOcc chip) s
    have htold := lossTold_fabricKept chip (raise (lossOcc chip) s)
    obtain ⟨htc, hts, htk⟩ := lossTold_frame chip (raise (lossOcc chip) s)
    have hset : (rasRec (raise (lossOcc chip) s) 0x0607).set = true := rasRec_raise_set hup (show definedCode 0x0607 = true by decide)
    have hmem : ∀ h ∈ otherChips s, h ≠ chip → drains s 4 = false →
        Out.mgmt "CHIP_LOST" h [chip] ∈ (lossTold chip (raise (lossOcc chip) s)).out := fun h hin hne ho =>
      mem_lossTold_out (by rwa [otherChips_raise]) hne (by rwa [drains_raise])
    have hgone : ChipGone chip (lossTold chip (raise (lossOcc chip) s)) (chipLoss chip true (lossTold chip (raise (lossOcc chip) s))) :=
      chipLoss_chipGone true (by rwa [htc, raise_colls]) (by rwa [htk, raise_rte]) (by rwa [htold.lost, hraise.lost])
    refine ⟨.before (hraise.trans htold) (by rw [htc, raise_colls]) (by rw [hts, raise_schState]) hgone, fun _ => ⟨?_, ?_⟩⟩
    · have hsort := hraise.records.sorted hrecs
      exact hgone.records.set (htold.records.sorted hsort) _ (htold.records.set hsort _ hset)
    · exact fun h hin hne ho => hgone.out.subset (hmem h hin hne ho)

/-- All links go down. -/
theorem allLinksDown_down {s : State} (hs : tsorted s.quads) : (∀ q < 128, (quad (allLinksDown s) q).state = .down) ∧
    (allLinksDown s).rte.lost = s.rte.lost ∧ (allLinksDown s).rte.bridgeLost = s.rte.bridgeLost := by
  obtain ⟨-, hdown, hlost, hbridge⟩ := foldl_quadDown 128 hs
  unfold allLinksDown
  exact ⟨hdown, hlost, hbridge⟩

/-- This chip's own bridge is lost (log 134). -/
theorem exec_bridgeLost {s : State} (hwf : s.Wf) (hup : up s = true) : ∃ t, exec (.chipLost s.rte.coord) s = .next t ∧
    t.rte.bridgeLost = true ∧ linksHeld t = true ∧ (∀ q < 128, (quad t q).state = .down) ∧ t.rte.lost = s.rte.lost := by
  obtain ⟨-, ⟨-, -, -, hquads, -⟩, -⟩ := hwf
  obtain ⟨hdown, hlost, hbridge⟩ := allLinksDown_down (s := modRte (fun r => { r with bridgeLost := true }) s) hquads
  have hexec : exec (.chipLost s.rte.coord) s = .next (allLinksDown (modRte (fun r => { r with bridgeLost := true }) s)) := by
    rw [← show chipLostDetect s.rte.coord s = _ from if_pos rfl]
    exact whenUp_of_up _ hup
  generalize allLinksDown (modRte (fun r => { r with bridgeLost := true }) s) = t at *
  exact ⟨t, hexec, hbridge, by simp [linksHeld, show t.rte.bridgeLost = true from hbridge], hdown, hlost⟩

/-- A chip that is lost already (R317). -/
theorem exec_chipLost_again {chip : Nat} {s : State} (hlost : chip ∈ s.rte.lost) (hcoord : chip ≠ s.rte.coord) :
    exec (.chipLost chip) s = .next s ∧ exec (.chipLostNotice chip) s = .next s := by
  constructor
  · refine whenUp_of_fixed (f := chipLostDetect chip) ?_
    unfold chipLostDetect
    rw [if_neg hcoord]
    exact if_pos (by simp [hlost])
  · exact whenUp_of_fixed (f := chipLoss chip false) (if_pos (by simp [hlost]))

end Sys2Proof.Machine
end

section
/-! PROOF. Flows at their source (R305, R309): acknowledgements, NAKs and packets that are sent again. -/

namespace Sys2Proof.Machine

/-- The flow that an acknowledgement is for (Table 11-15). -/
def ackKey (a : FlowAck) : Nat × Nat × Nat × Nat × Nat × Nat := (a.fsrc, a.fdst, a.cls, a.chan, a.fsunit, a.fdunit)

/-- The source flow of a key. -/
def srcFlow (s : State) (k : Nat × Nat × Nat × Nat × Nat × Nat) : Option SrcFlow :=
  s.rte.srcFlows.find? (fun f => decide (f.key = k))

theorem srcFlow_none {s : State} {k : Nat × Nat × Nat × Nat × Nat × Nat} (h : ∀ f ∈ s.rte.srcFlows, f.key ≠ k) :
    srcFlow s k = none := by simpa [srcFlow] using h

theorem flowAck_of_none {a : FlowAck} {s : State} (h : srcFlow s (ackKey a) = none) : flowAck a s = s := by
  unfold srcFlow ackKey at h
  unfold flowAck
  dsimp only
  rw [h]

/-- An acknowledgement opens the window, and packets that wait go out. -/
theorem flowAck_of_open {a : FlowAck} {f : SrcFlow} {s : State} (h : srcFlow s (ackKey a) = some f) (hn : a.nak = false)
    (hc : a.closed = false) :
    let r := flowPump (f.waitq.length + 1) { f with win := a.win, unacked := f.unacked.filter (fun p => !acked a.next p.seq) } s
    flowAck a s = setFlow r.2 r.1 := by
  unfold srcFlow ackKey at h
  unfold flowAck
  dsimp only
  rw [h]
  simp [hn, hc]

theorem flowAck_of_closed {a : FlowAck} {f : SrcFlow} {s : State} (h : srcFlow s (ackKey a) = some f) (hn : a.nak = false)
    (hc : a.closed = true) : flowAck a s = f.waitq.foldl (fun t w => unitSend w t) (dropFlow (ackKey a) s) := by
  unfold srcFlow ackKey at h
  unfold flowAck
  dsimp only
  rw [h]
  simp [hn, hc, ackKey]

/-- A NAK concerns one packet of the flow. -/
theorem flowAck_of_nak {a : FlowAck} {f : SrcFlow} {p : Packet} {s : State} (h : srcFlow s (ackKey a) = some f) (hn : a.nak = true)
    (hp : f.unacked.find? (fun p => p.seq == a.nseq) = some p) : flowAck a s =
      if a.reason = 4 then f.waitq.foldl (fun t w => unitSend w t) (dropFlow (ackKey a) (abandonColl p s))
      else if a.reason = 2 then
        if s.rte.busyWait.any (fun e => e.2 == p) then s
        else modRte (fun r => { r with busyWait := r.busyWait ++ [(croak s + busyTicks, p)] }) s
      else unitOut p s := by
  unfold srcFlow ackKey at h
  unfold flowAck
  dsimp only
  rw [h]
  simp [hn, hp, ackKey]

theorem flowPump_of_empty {fuel : Nat} {f : SrcFlow} {s : State} (h : f.waitq = []) : flowPump fuel f s = (s, f) := by
  cases fuel <;> simp [flowPump, h]

theorem abandonColl_of_native {s : State} (p : Packet) (h : s.rte.compat = false) : abandonColl p s = s := by
  unfold abandonColl
  split
  · rfl
  · simp [h]

/-- A flow whose window has room sends the one packet that waits, as its next. -/
theorem flowPump_one {f : SrcFlow} {p : Packet} {s : State} (hw : f.waitq = [p]) (hroom : f.unacked.length < f.win) :
    let q := { p with seqv := true, seq := f.nextSeq, first := !f.opened }
    flowPump 2 f s = (unitOut q (proxyCount q s),
      { f with waitq := [], opened := true, nextSeq := (f.nextSeq + 1) % 65536, unacked := f.unacked ++ [q] }) := by
  unfold flowPump
  simp only [hw, if_pos hroom]
  exact flowPump_of_empty rfl

/-- The clause on acknowledgements. -/
theorem exec_flowAck (a : FlowAck) {s : State} (hup : up s = true) :
    ((∀ f ∈ s.rte.srcFlows, f.key ≠ ackKey a) → exec (.flowAck a) s = .next s) ∧
    (∀ f, srcFlow s (ackKey a) = some f →
      let left := f.unacked.filter (fun p => !acked a.next p.seq)
      (a.nak = false → a.closed = false → f.waitq = [] →
        exec (.flowAck a) s = .next (setFlow { f with win := a.win, unacked := left } s)) ∧
      (∀ p, a.nak = false → a.closed = false → f.waitq = [p] → left.length < a.win →
        let q := { p with seqv := true, seq := f.nextSeq, first := !f.opened }
        exec (.flowAck a) s = .next (setFlow { f with win := a.win, waitq := [], opened := true, unacked := left ++ [q]
                                                      nextSeq := (f.nextSeq + 1) % 65536 } (unitOut q (proxyCount q s)))) ∧
      (a.nak = false → a.closed = true → f.waitq = [] → exec (.flowAck a) s = .next (dropFlow (ackKey a) s)) ∧
      (∀ p, a.nak = true → f.unacked.find? (fun p => p.seq == a.nseq) = some p → a.reason ≠ 4 → a.reason ≠ 2 →
        exec (.flowAck a) s = .next (unitOut p s)) ∧
      (∀ p, a.nak = true → f.unacked.find? (fun p => p.seq == a.nseq) = some p → a.reason = 2 → (∀ e ∈ s.rte.busyWait, e.2 ≠ p) →
        exec (.flowAck a) s = .next { s with rte := { s.rte with
          busyWait := s.rte.busyWait ++ [(croak s + busyTicks, p)] } }) ∧
      (∀ p, a.nak = true → f.unacked.find? (fun p => p.seq == a.nseq) = some p → a.reason = 4 → s.rte.compat = false →
        f.waitq = [] → exec (.flowAck a) s = .next (dropFlow (ackKey a) s))) := by
  have hexec : exec (.flowAck a) s = .next (flowAck a s) := whenUp_of_up _ hup
  rw [hexec]
  refine ⟨fun hno => by rw [flowAck_of_none (srcFlow_none hno)], fun f hf => ⟨?_, ?_, ?_, ?_, ?_, ?_⟩⟩
  · intro hn hc hw
    rw [flowAck_of_open hf hn hc,
      flowPump_of_empty (f := { f with win := a.win, unacked := f.unacked.filter (fun p => !acked a.next p.seq) }) hw]
  · intro p hn hc hw hroom
    have hpump := flowPump_one (f := { f with win := a.win, unacked := f.unacked.filter (fun p => !acked a.next p.seq) }) (s := s) hw hroom
    rw [flowAck_of_open hf hn hc, show f.waitq.length + 1 = 2 by rw [hw]; rfl, hpump]
  · intro hn hc hw
    rw [flowAck_of_closed hf hn hc, hw]
    rfl
  · intro p hn hp h4 h2
    rw [flowAck_of_nak hf hn hp, if_neg h4, if_neg h2]
  · intro p hn hp h2 hno
    rw [flowAck_of_nak hf hn hp, if_neg (by omega), if_pos h2, if_neg (by simpa using fun x hx => hno (x, p) hx rfl)]
    rfl
  · intro p hn hp h4 hcompat hw
    rw [flowAck_of_nak hf hn hp, if_pos h4, abandonColl_of_native p hcompat, hw]
    rfl

/-- Packets that are sent again (R305): each of them that neither waits to go out nor is held back by BUSY. -/
theorem foldl_resend (l : List Packet) (s : State) : ∃ ps,
    l.foldl (fun t p => if t.swc.unitOut.contains p || t.rte.busyWait.any (fun e => e.2 == p) then t else unitOut p t) s =
      { s with swc := { s.swc with unitOut := s.swc.unitOut ++ ps } } ∧
    (∀ p ∈ ps, p ∈ l) ∧ (∀ p ∈ l, p ∈ s.swc.unitOut ++ ps ∨ ∃ e ∈ s.rte.busyWait, e.2 = p) := by
  induction l generalizing s with
  | nil => exact ⟨[], by simp, by simp, by simp⟩
  | cons a r ih =>
    rw [List.foldl_cons]
    cases ha : (s.swc.unitOut.contains a || s.rte.busyWait.any (fun e => e.2 == a)) with
    | true =>
      obtain ⟨ps, heq, hfrom, hall⟩ := ih s
      have hold : a ∈ s.swc.unitOut ∨ ∃ e ∈ s.rte.busyWait, e.2 = a := by simpa using ha
      refine ⟨ps, by rw [if_pos rfl, heq], fun p hp => List.mem_cons_of_mem a (hfrom p hp), fun p hp => ?_⟩
      rcases List.mem_cons.mp hp with rfl | hr
      · exact hold.imp_left (List.mem_append_left _)
      · exact hall p hr
    | false =>
      obtain ⟨ps, heq, hfrom, hall⟩ := ih (unitOut a s)
      refine ⟨a :: ps, ?_, ?_, fun p hp => ?_⟩
      · rw [if_neg Bool.false_ne_true, heq]
        simp [unitOut]
      · intro p hp
        rcases List.mem_cons.mp hp with rfl | hr
        · exact List.mem_cons_self
        · exact List.mem_cons_of_mem a (hfrom p hr)
      · rcases List.mem_cons.mp hp with rfl | hr
        · exact .inl (by simp)
        · simpa [unitOut] using hall p hr

/-- The clause on resend timeouts. -/
theorem exec_resendTimeout (src dst cls chan su du : Nat) {s : State} (hup : up s = true) :
    ((∀ f ∈ s.rte.srcFlows, f.key ≠ (src, dst, cls, chan, su, du)) → exec (.resendTimeout src dst cls chan su du) s = .next s) ∧
    (∀ f, srcFlow s (src, dst, cls, chan, su, du) = some f →
      ∃ ps, exec (.resendTimeout src dst cls chan su du) s = .next { s with swc := { s.swc with unitOut := s.swc.unitOut ++ ps } } ∧
        (∀ p ∈ ps, p ∈ f.unacked) ∧ (∀ p ∈ f.unacked, p ∈ s.swc.unitOut ++ ps ∨ ∃ e ∈ s.rte.busyWait, e.2 = p)) := by
  have hexec : exec (.resendTimeout src dst cls chan su du) s = .next (resend (src, dst, cls, chan, su, du) s) := whenUp_of_up _ hup
  rw [hexec]
  unfold resend
  refine ⟨fun hno => ?_, fun f hf => ?_⟩
  · have hnone := srcFlow_none hno
    unfold srcFlow at hnone
    rw [hnone]
  · unfold srcFlow at hf
    obtain ⟨ps, heq, hps⟩ := foldl_resend f.unacked s
    refine ⟨ps, ?_, hps⟩
    rw [hf]
    exact congrArg Host.Outcome.next heq

end Sys2Proof.Machine
end

section
/-! PROOF. The standby ROUTE bank (R298, R299, R319): writes of RTE_BANKWIN, and the bank that a fault reroute writes. -/

namespace Sys2Proof.Machine

/-! What an entry of the bank depends on. -/

/-- From `s` to `t` the torus, its lost chips, this chip's quads and the choice of the active bank are as they were. -/
structure ChartKept (s t : State) : Prop where
  quads : t.quads = s.quads
  coord : t.rte.coord = s.rte.coord
  extX : t.rte.extX = s.rte.extX
  extY : t.rte.extY = s.rte.extY
  extZ : t.rte.extZ = s.rte.extZ
  lost : t.rte.lost = s.rte.lost
  bank : t.lay.routeBank = s.lay.routeBank

theorem ChartKept.refl (s : State) : ChartKept s s := ⟨rfl, rfl, rfl, rfl, rfl, rfl, rfl⟩

theorem ChartKept.trans {s t u : State} (h : ChartKept s t) (g : ChartKept t u) : ChartKept s u :=
  ⟨g.quads.trans h.quads, g.coord.trans h.coord, g.extX.trans h.extX, g.extY.trans h.extY, g.extZ.trans h.extZ,
    g.lost.trans h.lost, g.bank.trans h.bank⟩

section
variable {s t : State} (h : ChartKept s t)
include h

theorem ChartKept.extOf_eq (a : Nat) : extOf t a = extOf s a := by simp [extOf, h.extX, h.extY, h.extZ]

theorem ChartKept.torusChips_eq : torusChips t = torusChips s := by simp [torusChips, h.extX, h.extY, h.extZ]

theorem ChartKept.chipAt_eq (i : Nat) : chipAt t i = chipAt s i := by simp [chipAt, h.extX, h.extY]

theorem ChartKept.dirQuads_eq (d : Nat) : dirQuads t d = dirQuads s d := by
  unfold dirQuads portQuads quad
  rw [h.quads]

theorem ChartKept.neighbour_eq (c d : Nat) : neighbour t c d = neighbour s c d := by simp [neighbour, h.extOf_eq]

theorem ChartKept.wayOk_eq (fuel : Nat) (links : List (Nat × Nat)) (c i d : Nat) :
    wayOk fuel t links c i d = wayOk fuel s links c i d := by
  induction fuel generalizing c with
  | zero => rfl
  | succ fuel ih => simp only [wayOk, h.neighbour_eq, h.lost, ih]

theorem ChartKept.faultEntry_eq (links : List (Nat × Nat)) (c : Nat) : faultEntry t links c = faultEntry s links c := by
  have hshort (c i a : Nat) : shortWay t c i a = shortWay s c i a := by simp only [shortWay, h.extOf_eq]
  unfold faultEntry
  rw [h.coord]
  dsimp only
  cases diffAxis s.rte.coord c with
  | none => rfl
  | some a => simp only [h.extOf_eq, hshort, h.wayOk_eq, h.dirQuads_eq, h.lost]

theorem ChartKept.entryOk_eq (i e : Nat) : entryOk t i e = entryOk s i e := by
  have hidx (c : Nat) : routeIdx t c = routeIdx s c := by simp only [routeIdx, h.extX, h.extY]
  unfold entryOk
  rw [h.torusChips_eq, h.coord, hidx, h.chipAt_eq]
  simp only [h.dirQuads_eq]

end

theorem raise_chartKept (o : Occ) (s : State) : ChartKept s (raise o s) where
  quads := raise_quads o s
  coord := by rw [raise_rte]
  extX := by rw [raise_rte]
  extY := by rw [raise_rte]
  extZ := by rw [raise_rte]
  lost := by rw [raise_rte]
  bank := raise_routeBank o s

theorem setStandby_chartKept (i e : Nat) (s : State) : ChartKept s (setStandby i e s) := by
  unfold setStandby
  split <;> exact ⟨rfl, rfl, rfl, rfl, rfl, rfl, rfl⟩

/-! The two banks. -/

theorem activeBank_raise (o : Occ) (s : State) : activeBank (raise o s) = activeBank s := by
  unfold activeBank
  rw [raise_routeBank, raise_rte]

theorem standbyBank_raise (o : Occ) (s : State) : standbyBank (raise o s) = standbyBank s := by
  unfold standbyBank
  rw [raise_routeBank, raise_rte]

theorem setStandby_frame (i e : Nat) (s : State) : setStandby i e s = { s with rte := (setStandby i e s).rte } := by
  unfold setStandby
  split <;> rfl

theorem activeBank_setStandby (i e : Nat) (s : State) : activeBank (setStandby i e s) = activeBank s := by
  unfold setStandby
  split <;> rename_i h
  · simp [activeBank, modRte, h]
  · simp [activeBank, modRte, h]

theorem standbyBank_setStandby (i e : Nat) (s : State) : standbyBank (setStandby i e s) = tset 0 (standbyBank s) i e := by
  unfold setStandby
  split <;> rename_i h
  · simp [standbyBank, modRte, h]
  · simp [standbyBank, modRte, h]

/-- An entry of the standby bank after a write of another or the same. -/
theorem tget_standbyBank_setStandby {s : State} (hs : tsorted (standbyBank s)) (i e j : Nat) :
    tget 0 (standbyBank (setStandby i e s)) j = if j = i then e else tget 0 (standbyBank s) j := by
  rw [standbyBank_setStandby]
  rcases eq_or_ne j i with rfl | hj
  · rw [tget_tset_self 0 hs, if_pos rfl]
  · rw [tget_tset_other 0 hs _ _ _ hj, if_neg hj]

/-! Writes of RTE_BANKWIN (R299). -/

/-- What the first `n` bytes of a write at word `w` have done: `e` gives the entries that they hold. -/
structure BankWritten (w : Nat) (e : Nat → Nat) (n : Nat) (s t : State) : Prop where
  chart : ChartKept s t
  active : activeBank t = activeBank s
  sorted : tsorted (standbyBank t)
  up : up t = true
  records : RecordsStand s t
  entry : ∀ j, tget 0 (standbyBank t) j =
    if 8 * w ≤ j ∧ j < 8 * w + n ∧ entryOk s j (e (j - 8 * w)) = true then e (j - 8 * w) else tget 0 (standbyBank s) j
  refused : ∀ i, i < n → entryOk s (8 * w + i) (e i) = false → (rasRec t 0x0602).set = true

/-- One byte of a write of RTE_BANKWIN. -/
def bankByte (w : Nat) (e : Nat → Nat) (t : State) (i : Nat) : State :=
  if entryOk t (8 * w + i) (e i) then setStandby (8 * w + i) (e i) t
  else raise { code := 0x0602, kind := 15, unit := if 8 * w + i < torusChips t then chipAt t (8 * w + i) else t.rte.coord } t

theorem bankByte_written {w n : Nat} {e : Nat → Nat} {s t : State} (hr : tsorted s.ras.recs) (h : BankWritten w e n s t) :
    BankWritten w e (n + 1) s (bankByte w e t n) := by
  unfold bankByte
  rw [h.chart.entryOk_eq]
  split
  · rename_i hok
    have hrecs : RecordsStand t (setStandby (8 * w + n) (e n) t) := .of_recs (by rw [setStandby_frame])
    refine ⟨h.chart.trans (setStandby_chartKept _ _ t), by rw [activeBank_setStandby, h.active], ?_, ?_, h.records.trans hrecs,
      fun j => ?_, fun i hi hbad => ?_⟩
    · rw [standbyBank_setStandby]
      exact tsorted_tset _ h.sorted _ _
    · rw [setStandby_frame]
      exact h.up
    · rw [tget_standbyBank_setStandby h.sorted, h.entry]
      rcases eq_or_ne j (8 * w + n) with rfl | hj
      · rw [if_pos rfl, if_pos ⟨by omega, by omega, by rwa [Nat.add_sub_cancel_left]⟩, Nat.add_sub_cancel_left]
      · rw [if_neg hj]
        exact if_congr (by constructor <;> rintro ⟨h1, h2, h3⟩ <;> exact ⟨h1, by omega, h3⟩) rfl rfl
    · rcases Nat.lt_succ_iff_lt_or_eq.mp hi with hlt | rfl
      · exact hrecs.set (h.records.sorted hr) _ (h.refused i hlt hbad)
      · rw [hok] at hbad
        exact absurd hbad (by decide)
  · rename_i hbad
    have hbyte (o : Occ) (ho : o.code = 0x0602) : BankWritten w e (n + 1) s (raise o t) := by
      refine ⟨h.chart.trans (raise_chartKept _ t), by rw [activeBank_raise, h.active], by rw [standbyBank_raise]; exact h.sorted, ?_,
        h.records.trans (raise_recordsStand _ t), fun j => ?_, fun i hi _ => ?_⟩
      · rw [up, raise_pins]
        exact h.up
      · rw [standbyBank_raise, h.entry]
        refine if_congr ⟨fun ⟨h1, h2, h3⟩ => ⟨h1, by omega, h3⟩, fun ⟨h1, h2, h3⟩ => ⟨h1, ?_, h3⟩⟩ rfl rfl
        rcases Nat.lt_succ_iff_lt_or_eq.mp (show j < 8 * w + n + 1 from h2) with hlt | rfl
        · exact hlt
        · rw [Nat.add_sub_cancel_left] at h3
          exact absurd h3 hbad
      · rw [← ho]
        exact rasRec_raise_set h.up (by rw [ho]; decide)
    exact hbyte _ rfl

theorem foldl_bankByte (w : Nat) (e : Nat → Nat) (n : Nat) {s : State} (hr : tsorted s.ras.recs) (hup : up s = true)
    (hs : tsorted (standbyBank s)) : BankWritten w e n s ((List.range n).foldl (bankByte w e) s) := by
  induction n with
  | zero =>
    exact ⟨.refl s, rfl, hs, hup, .of_recs rfl, fun j => (if_neg (by omega)).symm, fun i hi => absurd hi (Nat.not_lt_zero i)⟩
  | succ n ih =>
    rw [List.range_succ, List.foldl_append]
    exact bankByte_written hr ih

/-- The clause on RTE_BANKWIN. -/
theorem exec_bankwinWrite (w : Fin 4096) (v : Word) {s : State} (hwf : s.Wf) (hup : up s = true) (hs : tsorted (standbyBank s)) :
    let e (i : Nat) : Nat := bits v.toNat (8 * i + 7) (8 * i)
    ∃ t, exec (.bankwinWrite w v) s = .next t ∧ activeBank t = activeBank s ∧
      (∀ i, i < 8 → entryOk s (8 * w.val + i) (e i) = true → tget 0 (standbyBank t) (8 * w.val + i) = e i) ∧
      (∀ i, i < 8 → entryOk s (8 * w.val + i) (e i) = false → (rasRec t 0x0602).set = true ∧
        tget 0 (standbyBank t) (8 * w.val + i) = tget 0 (standbyBank s) (8 * w.val + i)) ∧
      (∀ j, j / 8 ≠ w.val → tget 0 (standbyBank t) j = tget 0 (standbyBank s) j) := by
  intro e
  obtain ⟨-, ⟨-, -, -, -, hrecs, -⟩, -⟩ := hwf
  have h := foldl_bankByte w.val e 8 hrecs hup hs
  refine ⟨_, whenUp_of_up (bankWrite w.val v.toNat) hup, ?_⟩
  rw [show bankWrite w.val v.toNat s = (List.range 8).foldl (bankByte w.val e) s from rfl]
  generalize (List.range 8).foldl (bankByte w.val e) s = t at h
  refine ⟨h.active, fun i hi hok => ?_, fun i hi hbad => ⟨h.refused i hi hbad, ?_⟩, fun j hj => ?_⟩
  · rw [h.entry, Nat.add_sub_cancel_left, if_pos ⟨by omega, by omega, hok⟩]
  · rw [h.entry, Nat.add_sub_cancel_left, if_neg (by simp [hbad])]
  · rw [h.entry, if_neg (by omega)]

/-! Fault rerouting (R319). -/

/-- The bank that a row of writes leaves, each entry with its chip. -/
theorem foldl_setStandby (links : List (Nat × Nat)) (n : Nat) {s : State} (hs : tsorted (standbyBank s)) :
    let t := (List.range n).foldl (fun t i => setStandby i (faultEntry t links (chipAt t i)) t) s
    ChartKept s t ∧ activeBank t = activeBank s ∧ tsorted (standbyBank t) ∧ t = { s with rte := t.rte } ∧
      ∀ i, i < n → tget 0 (standbyBank t) i = faultEntry s links (chipAt s i) := by
  induction n with
  | zero => exact ⟨.refl s, rfl, hs, rfl, fun i hi => absurd hi (Nat.not_lt_zero i)⟩
  | succ n ih =>
    rw [List.range_succ, List.foldl_append, List.foldl_cons, List.foldl_nil]
    generalize (List.range n).foldl (fun t i => setStandby i (faultEntry t links (chipAt t i)) t) s = t at ih ⊢
    obtain ⟨hchart, hactive, hsort, hframe, hentry⟩ := ih
    rw [hchart.chipAt_eq, hchart.faultEntry_eq]
    refine ⟨hchart.trans (setStandby_chartKept _ _ t), by rw [activeBank_setStandby, hactive], ?_, ?_, fun i hi => ?_⟩
    · rw [standbyBank_setStandby]
      exact tsorted_tset _ hsort _ _
    · rw [setStandby_frame, hframe]
    · rw [tget_standbyBank_setStandby hsort]
      rcases Nat.lt_succ_iff_lt_or_eq.mp hi with hlt | rfl
      · rw [if_neg hlt.ne, hentry i hlt]
      · rw [if_pos rfl]

theorem mem_foldl_insertNat {l m : List Nat} {h : Nat} : h ∈ l.foldl insertNat m ↔ h ∈ m ∨ h ∈ l := by
  induction l generalizing m with
  | nil => simp
  | cons a r ih =>
    rw [List.foldl_cons, ih, mem_insertNat, List.mem_cons]
    tauto

/-- The clause on fault rerouting. -/
theorem exec_faultReroute (links : List (Nat × Nat)) (chips : List Nat) {s : State} (hs : tsorted (standbyBank s)) :
    (fwRuns s = true → s.rte.valid = true → s.rte.drain.classes = 0 → ∃ t, exec (.faultReroute links chips) s = .next t ∧
      t.rte.drain = { classes := 0x17, scope := 1, id := 0, fw := true } ∧ activeBank t = activeBank s ∧
      (∀ h, h ∈ t.rte.lost ↔ h ∈ s.rte.lost ∨ h ∈ chips) ∧
      (∀ i, i < torusChips s → tget 0 (standbyBank t) i =
        faultEntry { s with rte := { s.rte with lost := chips.foldl insertNat s.rte.lost } } links (chipAt s i)) ∧
      t = { s with rte := t.rte }) ∧
    (fwRuns s = false ∨ s.rte.valid = false ∨ s.rte.drain.classes ≠ 0 → exec (.faultReroute links chips) s = .next s) := by
  constructor
  · intro hfw hvalid hdrain
    have hup : up s = true := by
      simp only [fwRuns, Bool.and_eq_true] at hfw
      exact hfw.1.1
    obtain ⟨hchart, hactive, -, hframe, hentry⟩ := foldl_setStandby links (torusChips s)
      (s := modRte (fun r => { r with lost := chips.foldl insertNat r.lost }) s) hs
    refine ⟨_, (whenUp_of_up (reroute links chips) hup).trans (congrArg Host.Outcome.next (if_neg (by simp [hfw, hvalid, hdrain]))), ?_⟩
    refine ⟨rfl, hactive, fun h => ?_, hentry, ?_⟩
    · rw [← mem_foldl_insertNat]
      exact Eq.to_iff (congrArg (h ∈ ·) hchart.lost)
    · exact congrArg (modDrain fun _ => { classes := 0x17, scope := 1, id := 0, fw := true }) hframe
  · intro h
    refine whenUp_of_fixed (f := reroute links chips) (if_pos ?_)
    simpa using h

end Sys2Proof.Machine
end

section
/-! PROOF. Drains of the fabric (R312 to R316): reports, the drained indication, releases and the timeout. -/

namespace Sys2Proof.Machine

/-! A drain that is lifted (R315). -/

theorem foldl_emit {α : Type} (g : α → Out) (l : List α) (s : State) :
    l.foldl (fun t m => emit (g m) t) s = { s with out := s.out ++ l.map g } := by
  induction l generalizing s with
  | nil => simp
  | cons a r ih =>
    rw [List.foldl_cons, ih]
    simp [emit]

theorem liftDrain_eq (s : State) : liftDrain s =
    { s with rte := { s.rte with drain := {}, mgmtHeld := [] }, quads := (releaseOwed s).quads
             out := s.out ++ s.rte.mgmtHeld.map (fun m => .mgmt m.1 m.2.1 m.2.2) } := by
  unfold liftDrain
  rw [foldl_emit (fun m : String × Nat × List Nat => Out.mgmt m.1 m.2.1 m.2.2)]
  rfl

/-- The drained indication of a drain that is not the firmware's, where no DRAIN waits for it (R313). -/
theorem setDrained_of_quiet {s : State} (hw : drainWaiters s = []) (hfw : s.rte.drain.fw = false) :
    setDrained s = modDrain (fun d => { d with drained := true }) s := by
  unfold setDrained
  extract_lets s0 s1 s2
  have hwait : drainWaiters s0 = [] := hw
  have hs1 : s1 = s0 := by
    unfold s1
    rw [hwait]
    rfl
  have hno : (s1.rte.drain.fw && !s1.rte.drain.releasePend) = false := by
    rw [hs1, show s0.rte.drain.fw = false from hfw]
    rfl
  rw [if_neg (by rw [hno]; exact Bool.false_ne_true), hs1]

/-- The drained indication of a drain that is not the firmware's. -/
theorem setDrained_drained {s : State} (hfw : s.rte.drain.fw = false) : (setDrained s).rte.drain.drained = true := by
  unfold setDrained
  extract_lets s0 s1 s2
  have hrte : s1.rte = s0.rte := foldl_field State.rte _ (fun t i => reply_rte i 0 _ t) _ s0
  have hno : (s1.rte.drain.fw && !s1.rte.drain.releasePend) = false := by
    rw [hrte, show s0.rte.drain.fw = false from hfw]
    rfl
  rw [if_neg (by rw [hno]; exact Bool.false_ne_true), hrte]
  rfl

/-- The clause on the events of a drain. -/
theorem exec_drainEvents {s : State} (hup : up s = true) :
    let d := s.rte.drain
    (d.classes = 0 ∨ d.scope = 0 → exec .drainReport s = .next s) ∧
    (d.classes ≠ 0 → d.scope ≠ 0 → coordinator s ≠ s.rte.coord → drains s 4 = false → exec .drainReport s = .next (emit (.mgmt "DRAIN_REPORT"
      (coordinator s) ((ownReport s).empty.map bnat ++ (ownReport s).sent ++ (ownReport s).recvd)) s)) ∧
    (d.classes ≠ 0 → d.scope ≠ 0 → coordinator s = s.rte.coord →
      exec .drainReport s = exec (.drainReportReceive (ownReport s)) s) ∧
    (d.classes = 0 ∨ d.drained = true ∨ (d.scope = 0 ∧ (drainClasses s).any (heldClass s) = true) →
      exec .drained s = .next s) ∧
    (d.classes ≠ 0 → d.drained = false → d.scope ≠ 0 ∨ (drainClasses s).any (heldClass s) = false → d.fw = false →
      drainWaiters s = [] → exec .drained s = .next { s with rte := { s.rte with drain := { d with drained := true } } }) ∧
    (d.classes ≠ 0 → d.scope = 1 → d.releasePend = true → ∃ t, exec .released s = .next t ∧
      t = { s with rte := { s.rte with drain := {}, mgmtHeld := [] }, quads := t.quads
                   out := s.out ++ s.rte.mgmtHeld.map (fun m => .mgmt m.1 m.2.1 m.2.2) } ∧
      ∀ q, (quad t q).creds = (quad s q).creds.map (fun c => { c with adv := (c.adv + c.owed) % 65536, owed := 0 })) ∧
    (d.classes = 0 ∨ d.scope ≠ 1 ∨ d.releasePend = false → exec .released s = .next s) ∧
    (d.classes ≠ 0 → d.scope = 1 → d.drained = false → coordinator s = s.rte.coord → ∃ t, exec .rteDrainTimeout s = .next t ∧
      (rasRec t 0x0609).set = true ∧ t.rte.drain = d) ∧
    (d.classes = 0 ∨ d.scope ≠ 1 ∨ d.drained = true ∨ coordinator s ≠ s.rte.coord → exec .rteDrainTimeout s = .next s) := by
  intro d
  have hreport : exec .drainReport s = .next (if d.classes = 0 ∨ d.scope = 0 then s
      else if coordinator s = s.rte.coord then reportTake (ownReport s) s
      else mgmt "DRAIN_REPORT" (coordinator s) ((ownReport s).empty.map bnat ++ (ownReport s).sent ++ (ownReport s).recvd) s) := by
    rw [show exec .drainReport s = execDrainReport s from rfl, execDrainReport, whenUp_of_up _ hup]
  have hdrained : exec .drained s = .next (if d.classes = 0 ∨ d.drained then s
      else if d.scope = 0 ∧ (drainClasses s).any (heldClass s) then s else setDrained s) := by
    rw [show exec .drained s = execDrained s from rfl, execDrained, whenUp_of_up _ hup]
  have hreleased : exec .released s = .next (if d.classes ≠ 0 ∧ d.scope = 1 ∧ d.releasePend then liftDrain s else s) :=
    whenUp_of_up _ hup
  have htimeout : exec .rteDrainTimeout s = .next (if d.classes ≠ 0 ∧ d.scope = 1 ∧ !d.drained ∧ coordinator s = s.rte.coord then
      raise { code := 0x0609, kind := 15, unit := s.rte.coord, d := [0, 0, 0, d.id] } s else s) := whenUp_of_up _ hup
  rw [hreport, hdrained, hreleased, htimeout]
  refine ⟨?_, ?_, ?_, ?_, ?_, ?_, ?_, ?_, ?_⟩
  · intro h
    rw [if_pos h]
  · intro hc hs hco ho
    rw [if_neg (by tauto), if_neg hco, mgmt_of_open _ _ _ ho]
  · intro hc hs hco
    rw [if_neg (by tauto), if_pos hco]
    exact (whenUp_of_up (reportTake (ownReport s)) hup).symm
  · intro h
    split
    · rfl
    · rw [if_pos (by tauto)]
  · intro hc hd hs hfw hw
    have hheld : ¬ (d.scope = 0 ∧ (drainClasses s).any (heldClass s) = true) := by
      rintro ⟨h0, h1⟩
      rcases hs with h | h
      · exact h h0
      · rw [h1] at h
        exact absurd h (by decide)
    rw [if_neg (by simp [hc, hd]), if_neg hheld, setDrained_of_quiet hw hfw]
    rfl
  · intro hc hs hp
    rw [if_pos ⟨hc, hs, hp⟩]
    refine ⟨_, rfl, ?_, fun q => ?_⟩
    · rw [liftDrain_eq]
    · rw [liftDrain_eq]
      exact congrArg Quad.creds (quad_releaseOwed s q)
  · intro h
    rw [if_neg (by rintro ⟨h1, h2, h3⟩; simp [h1, h2, h3] at h)]
  · intro hc hs hd hco
    rw [if_pos ⟨hc, hs, by simp [hd], hco⟩]
    exact ⟨_, rfl, rasRec_raise_set hup (show definedCode 0x0609 = true by decide), by rw [raise_rte]⟩
  · intro h
    rw [if_neg (by rintro ⟨h1, h2, h3, h4⟩; simp_all)]

/-- Of messages to several chips every one is outside in the end. -/
theorem mem_foldl_mgmt_out (msg : String) (vals : List Nat) {l : List Nat} {h : Nat} {s : State} (ho : drains s 4 = false)
    (hin : h ∈ l) : Out.mgmt msg h vals ∈ (l.foldl (fun t c => mgmt msg c vals t) s).out := by
  rw [foldl_mgmt_open msg (fun _ => vals) _ ho]
  exact List.mem_append_right _ (List.mem_map.mpr ⟨h, hin, rfl⟩)

/-! The coordinator's rounds (R314). -/

/-- A round with one more report. -/
def roundWith (r : DrainRep) (s : State) : List DrainRep := s.rte.drain.round.filter (fun x => x.chip ≠ r.chip) ++ [r]

/-- Every chip in service has reported in a round. -/
def roundFull (s : State) (round : List DrainRep) : Bool :=
  (s.rte.coord :: otherChips s).all (fun h => round.any (fun x => x.chip == h))

theorem reportTake_of_ignored {r : DrainRep} {s : State} (h : s.rte.drain.classes = 0 ∨ s.rte.drain.scope = 0 ∨
    coordinator s ≠ s.rte.coord ∨ r.chip ∉ s.rte.coord :: otherChips s) : reportTake r s = s :=
  if_pos (by simpa using h)

/-- The coordinator takes a report into its round. -/
theorem reportTake_eq {r : DrainRep} {s : State} (hc : s.rte.drain.classes ≠ 0) (hs : s.rte.drain.scope ≠ 0)
    (hco : coordinator s = s.rte.coord) (hr : r.chip ∈ s.rte.coord :: otherChips s) :
    reportTake r s = roundCheck (modDrain (fun d => { d with round := roundWith r s }) s) :=
  if_neg (by
    rintro (h | h | h | h)
    · exact hc h
    · exact hs h
    · exact h hco
    · rw [List.contains_iff_mem.mpr hr] at h
      exact absurd h (by decide))

theorem roundCheck_of_open {s : State} (h : roundFull s s.rte.drain.round = false) : roundCheck s = s :=
  if_neg (fun hf => absurd (show roundFull s s.rte.drain.round = true from hf) (by rw [h]; exact Bool.false_ne_true))

/-- A full round is judged. -/
theorem roundCheck_of_full {s : State} (h : roundFull s s.rte.drain.round = true) :
    let d := s.rte.drain
    let g := roundGood s d.prevRound d.round
    let s1 := modDrain (fun d => { d with prevRound := d.round, round := [], good := g }) s
    roundCheck s = if g && d.good && !d.drained then
      setDrained ((otherChips s1).foldl (fun t c => mgmt "DRAINED" c [d.id] t) s1) else s1 := if_pos h

/-- The clause on reports that the coordinator receives. -/
theorem exec_drainReportReceive (r : DrainRep) {s : State} (hup : up s = true) :
    let d := s.rte.drain
    let all := s.rte.coord :: otherChips s
    let round := roundWith r s
    let full := roundFull s round
    let good := roundGood s d.prevRound round
    (d.classes = 0 ∨ d.scope = 0 ∨ coordinator s ≠ s.rte.coord ∨ r.chip ∉ all → exec (.drainReportReceive r) s = .next s) ∧
    (d.classes ≠ 0 → d.scope ≠ 0 → coordinator s = s.rte.coord → r.chip ∈ all →
      (full = false → exec (.drainReportReceive r) s = .next { s with rte := { s.rte with drain := { d with round := round } } }) ∧
      (full = true → good = false ∨ d.good = false ∨ d.drained = true → exec (.drainReportReceive r) s = .next { s with
        rte := { s.rte with drain := { d with prevRound := round, round := [], good := good } } }) ∧
      (full = true → good = true → d.good = true → d.drained = false → d.fw = false → ∃ t,
        exec (.drainReportReceive r) s = .next t ∧ t.rte.drain.drained = true ∧
        (drains s 4 = false → ∀ h ∈ otherChips s, Out.mgmt "DRAINED" h [d.id] ∈ t.out))) := by
  intro d all round full good
  have hexec : exec (.drainReportReceive r) s = .next (reportTake r s) := whenUp_of_up _ hup
  rw [hexec]
  refine ⟨fun h => by rw [reportTake_of_ignored h], fun hc hs hco hr => ?_⟩
  rw [reportTake_eq hc hs hco hr]
  refine ⟨fun hf => ?_, fun hf hbad => ?_, fun hf hg hdg hdd hfw => ?_⟩
  · rw [roundCheck_of_open (s := modDrain (fun d => { d with round := roundWith r s }) s) hf]
    rfl
  · rw [roundCheck_of_full (s := modDrain (fun d => { d with round := roundWith r s }) s) hf]
    have hno : (good && d.good && !d.drained) = false := by
      rcases hbad with h | h | h <;> simp [h]
    exact congrArg Host.Outcome.next (if_neg (fun h => absurd (show (good && d.good && !d.drained) = true from h)
      (by rw [hno]; exact Bool.false_ne_true)))
  · rw [roundCheck_of_full (s := modDrain (fun d => { d with round := roundWith r s }) s) hf]
    have hyes : (good && d.good && !d.drained) = true := by simp [hg, hdg, hdd]
    have hfw' (l : List Nat) (u : State) : (l.foldl (fun t c => mgmt "DRAINED" c [d.id] t) u).rte.drain.fw = u.rte.drain.fw :=
      foldl_field (fun t => t.rte.drain.fw) _ (fun t c => by unfold mgmt; split <;> rfl) l u
    refine ⟨_, congrArg Host.Outcome.next (if_pos hyes), setDrained_drained ((hfw' _ _).trans hfw), fun ho h hin => ?_⟩
    refine (setDrained_fabricKept _).out.subset ?_
    exact mem_foldl_mgmt_out "DRAINED" [d.id] (s := modDrain _ (modDrain _ s)) ho hin

/-! Releases (R315). -/

/-- The clause on releases that the coordinator receives. -/
theorem exec_drainReleaseReceive (chip : Nat) {s : State} (hup : up s = true) :
    let d := s.rte.drain
    let rel := insertNat d.releases chip
    let all := s.rte.coord :: otherChips s
    (d.classes = 0 ∨ d.scope = 0 ∨ coordinator s ≠ s.rte.coord → exec (.drainReleaseReceive chip) s = .next s) ∧
    (d.classes ≠ 0 → d.scope ≠ 0 → coordinator s = s.rte.coord →
      ((∃ h ∈ all, h ∉ rel) → exec (.drainReleaseReceive chip) s =
        .next { s with rte := { s.rte with drain := { d with releases := rel } } }) ∧
      ((∀ h ∈ all, h ∈ rel) → drains s 4 = false → ∃ t, exec (.drainReleaseReceive chip) s = .next t ∧ t.rte.drain = {} ∧
        t.out = s.out ++ (otherChips s).map (fun h => .mgmt "RELEASED" h [d.id]) ++
          s.rte.mgmtHeld.map (fun m => .mgmt m.1 m.2.1 m.2.2) ∧
        t = { s with rte := { s.rte with drain := {}, mgmtHeld := [] }, quads := t.quads, out := t.out })) := by
  intro d rel all
  have hexec : exec (.drainReleaseReceive chip) s = .next (releaseTake chip s) := whenUp_of_up _ hup
  rw [hexec]
  refine ⟨fun h => ?_, fun hc hs hco => ?_⟩
  · rw [show releaseTake chip s = s from if_pos h]
  · have htake : releaseTake chip s = releaseCheck (modDrain (fun d => { d with releases := rel }) s) := if_neg (by tauto)
    rw [htake]
    refine ⟨fun hmiss => ?_, fun hall ho => ?_⟩
    · have hno : all.all (fun c => rel.contains c) = false := by simpa using hmiss
      exact congrArg Host.Outcome.next (if_neg fun h => absurd (show all.all (fun c => rel.contains c) = true from h)
        (by rw [hno]; exact Bool.false_ne_true))
    · have hyes : all.all (fun c => rel.contains c) = true := by simpa using hall
      refine ⟨_, congrArg Host.Outcome.next (if_pos hyes), ?_⟩
      rw [foldl_mgmt_open "RELEASED" (fun d => [d.id]) _ (s := modDrain (fun d => { d with releases := rel }) s) ho, liftDrain_eq]
      exact ⟨rfl, rfl, rfl⟩

end Sys2Proof.Machine
end

section
/-! PROOF. Events of the fabric, together. -/

namespace Sys2Proof.Machine

/-- Settles O58: the loss of a chip by the frames of the abort machinery, the loss of the bridge by those of a quad that goes down, and
the flows, banks and drains by their equations. -/
theorem fabricEvents : Obligations.FabricEvents := by
  unfold Obligations.FabricEvents
  refine ⟨?_, fun s hwf hup => exec_bridgeLost hwf hup, fun chip s _ hlost hcoord => exec_chipLost_again hlost hcoord,
    fun addr s hup => whenUp_of_up (departed addr) hup, fun a s hup => exec_flowAck a hup,
    fun src dst cls chan su du s hup => exec_resendTimeout src dst cls chan su du hup,
    fun w v s hwf hup hs => exec_bankwinWrite w v hwf hup hs, fun links chips s _ hs => exec_faultReroute links chips hs,
    fun s _ hup => exec_drainEvents hup, fun r s _ hup => exec_drainReportReceive r hup,
    fun chip s _ hup => exec_drainReleaseReceive chip hup⟩
  intro c chip s hwf hup hcoord hnew ns seen hc
  obtain ⟨t, hexec, hgone, hdetect⟩ := exec_chipLost hwf hup hcoord hnew hc
  obtain ⟨hin, hkept, hflows⟩ := hgone.statement
  exact ⟨t, hexec, hin, hkept, hflows, hgone.colls, hgone.chips, hgone.job, hdetect⟩

end Sys2Proof.Machine
end

section
/-! PROOF. One croak tick (R187, R170): what the port counters, the newts' STALLED counts and the lines without a leaf take from it,
and the obligation IdleTick. -/

namespace Sys2Proof.Machine

/-! The counters of cycles (Tables 3-17, 8-8). -/

theorem stallCycle_frame (s : State) : ∃ c, stallCycle s = { s with swc := { s.swc with ctr := c } } := by
  have hfold (l : List Nat) (f : PortCtr → PortCtr) (t : State) :
      ∃ c, l.foldl (fun t k => modCtr (k / 8) (k % 8) f t) t = { t with swc := { t.swc with ctr := c } } := by
    induction l generalizing t with
    | nil => exact ⟨_, rfl⟩
    | cons k r ih =>
      obtain ⟨c, hc⟩ := ih (modCtr (k / 8) (k % 8) f t)
      exact ⟨c, hc⟩
  exact hfold _ _ s

/-- The tick without the lines that no leaf is enabled on: the croak count, the newts' counts and the port counters. -/
def tickCounts (s : State) : State :=
  let s1 := { s with
    sch := { s.sch with croak := (s.sch.croak + 1) % 2 ^ 64 }
    newts := s.newts.map (fun e => (e.1, stallTick e.2)) }
  if switchCycle (croak s) then stallCycle s1 else s1

theorem tick_of_up {s : State} (hup : up s = true) : tick s = emptyLines (tickCounts s) := if_pos hup

theorem tickCounts_frame (s : State) : ∃ c, tickCounts s = { s with
    sch := { s.sch with croak := (s.sch.croak + 1) % 2 ^ 64 }
    newts := s.newts.map (fun e => (e.1, stallTick e.2))
    swc := { s.swc with ctr := c } } := by
  unfold tickCounts
  split
  · exact stallCycle_frame _
  · exact ⟨_, rfl⟩

theorem tickCounts_sch (s : State) : (tickCounts s).sch = { s.sch with croak := (s.sch.croak + 1) % 2 ^ 64 } := by
  obtain ⟨c, hc⟩ := tickCounts_frame s
  rw [hc]

theorem tickCounts_sync (s : State) : (tickCounts s).sync = s.sync := by
  obtain ⟨c, hc⟩ := tickCounts_frame s
  rw [hc]

theorem newt_tickCounts (s : State) (n : Nat) : newt (tickCounts s) n = stallTick (newt s n) := by
  obtain ⟨c, hc⟩ := tickCounts_frame s
  rw [hc]
  exact tget_map_value {} stallTick rfl s.newts n

/-! Lines without an enabled leaf (R170). -/

/-- The BARRIER objects on lines that no leaf is enabled on. -/
def unmasked (s : State) : Table SyncObj := s.sync.objs.filter (fun e => e.2.kind == 2 && (bline s e.2.bl).mask.isEmpty)

theorem unmasked_of_sync {s t : State} (h : t.sync = s.sync) : unmasked t = unmasked s := by
  simp only [unmasked, bline_of_sync h, h]

theorem emptyLines_eq (s : State) : emptyLines s = (unmasked s).foldl (fun t e => lineCheck e.1 t) s := rfl

/-- In a sorted table an entry's key reads as its value. -/
theorem tget_of_mem {α : Type} (d : α) {t : Table α} (ht : tsorted t) {k : Nat} {v : α} (h : (k, v) ∈ t) : tget d t k = v := by
  induction t with
  | nil => simp at h
  | cons e r ih =>
    obtain ⟨hhead, htail⟩ := List.pairwise_cons.mp ht
    rcases List.mem_cons.mp h with rfl | hr
    · exact if_pos rfl
    · have hlt : e.1 < k := hhead _ hr
      exact (if_neg (Nat.ne_of_lt hlt)).trans (ih htail hr)

theorem releaseAgent_frame (agent : Nat) (s : State) :
    ∃ n d h, releaseAgent agent s = { s with newts := n, dma := d, hif := h } := by
  unfold releaseAgent
  split
  · exact ⟨_, _, _, rfl⟩
  · split <;> exact ⟨_, _, _, rfl⟩

theorem foldl_releaseAgent_frame (l : List Waiter) (s : State) :
    ∃ n d h, l.foldl (fun t w => releaseAgent w.agent t) s = { s with newts := n, dma := d, hif := h } := by
  induction l generalizing s with
  | nil => exact ⟨_, _, _, rfl⟩
  | cons w r ih =>
    obtain ⟨n, d, h, hw⟩ := releaseAgent_frame w.agent s
    rw [List.foldl_cons, hw]
    exact ih _

/-- The line of object `o` is free, its count advanced, and no agent waits on it any more. -/
def lineFreed (o : Nat) (s : State) : State :=
  setObj o { obj s o with prod := ((obj s o).prod + 1) % 2 ^ 64, waiters := [] }
    (setBline (obj s o).bl { bline s (obj s o).bl with out := !(bline s (obj s o).bl).out, arrived := [] } s)

theorem lineRelease_frame (o : Nat) (s : State) :
    ∃ n d h, lineRelease o s = { s with sync := (lineFreed o s).sync, newts := n, dma := d, hif := h } :=
  foldl_releaseAgent_frame (obj s o).waiters (lineFreed o s)

/-- A line of an on-chip object that no leaf is enabled on is complete. -/
theorem lineCheck_unmasked {o : Nat} {s : State} (hfabric : (obj s o).fabric = false)
    (hmask : (bline s (obj s o).bl).mask = []) : lineCheck o s = lineRelease o s := by
  simp [lineCheck, hfabric, lineFull, hmask]

/-- Settles O2: the counters of the tick come first, then the lines without an enabled leaf are looked at one by one. -/
theorem idleTick : Obligations.IdleTick := by
  unfold Obligations.IdleTick
  intro s hempty
  have hstep : step s = .next (tick s) := by rw [step, hempty]
  refine ⟨fun hup hnone => ?_, fun o v hup hwf hone hfabric => ?_, fun hdown => ?_⟩
  · have hlines : tick s = tickCounts s := by
      rw [tick_of_up hup, emptyLines_eq, unmasked_of_sync (tickCounts_sync s), show unmasked s = [] from hnone]
      rfl
    refine ⟨_, hstep, ?_⟩
    rw [hlines]
    refine ⟨tickCounts_sch s, newt_tickCounts s, ?_⟩
    obtain ⟨c, hc⟩ := tickCounts_frame s
    rw [hc]
  · have hin : (o, v) ∈ unmasked s := by rw [show unmasked s = [(o, v)] from hone]; exact List.mem_singleton_self _
    have hobj : obj s o = v := tget_of_mem ({} : SyncObj) hwf.objs_sorted (List.mem_of_mem_filter hin)
    have hmask : (bline s v.bl).mask = [] := by
      have := List.of_mem_filter hin
      simp only [Bool.and_eq_true, List.isEmpty_iff] at this
      exact this.2
    have hsync := tickCounts_sync s
    have hline : tick s = lineRelease o (tickCounts s) := by
      rw [tick_of_up hup, emptyLines_eq, unmasked_of_sync hsync, show unmasked s = [(o, v)] from hone, List.foldl_cons, List.foldl_nil]
      exact lineCheck_unmasked (by rw [obj_of_sync hsync, hobj, hfabric])
        (by rw [obj_of_sync hsync, hobj, bline_of_sync hsync, hmask])
    obtain ⟨n, d, h, hframe⟩ := lineRelease_frame o (tickCounts s)
    have hread : lineFreed o (tickCounts s) = setObj o { v with prod := (v.prod + 1) % 2 ^ 64, waiters := [] }
        (setBline v.bl { bline s v.bl with out := !(bline s v.bl).out, arrived := [] } (tickCounts s)) := by
      rw [lineFreed, obj_of_sync hsync, hobj, bline_of_sync hsync]
    have hobjs : tsorted (tickCounts s).sync.objs := by rw [hsync]; exact hwf.objs_sorted
    have hlines : tsorted (tickCounts s).sync.lines := by rw [hsync]; exact hwf.lines_sorted
    refine ⟨_, hstep, ?_⟩
    rw [hline, hframe, hread]
    refine ⟨tickCounts_sch s, ?_, obj_setObj _ _ _ hobjs, fun k hk => ?_, fun l hl => ?_, ?_⟩
    · exact congrArg BLine.out (bline_setBline _ _ _ hlines)
    · exact (obj_setObj_other _ _ _ _ hobjs hk).trans (obj_of_sync hsync k)
    · exact (tget_tset_other _ hlines _ _ _ hl).trans (bline_of_sync hsync l)
    · obtain ⟨c, hc⟩ := tickCounts_frame s
      rw [hc]
  · rw [hstep]
    simp [tick, hdown]

end Sys2Proof.Machine
end

section
/-! PROOF. What packets, messages and records that move leave alone: jobs, newts, collectives and the schedule unit. -/

namespace Sys2Proof.Machine

/-- From `s` to `t` no job, newt or collective has changed, nor the schedule unit. -/
def Still (s t : State) : Prop := (t.jobs, t.newts, t.colls, t.sch) = (s.jobs, s.newts, s.colls, s.sch)

theorem Still.refl (s : State) : Still s s := rfl

theorem Still.trans {s t u : State} (h : Still s t) (g : Still t u) : Still s u := Eq.trans g h

/-- What comes before `t` has changed other parts only. -/
theorem Still.after {s t u : State} (h : Still t u) (g : Still s t) : Still s u := g.trans h

theorem Still.parts {s t : State} (h : Still s t) :
    t.jobs = s.jobs ∧ t.newts = s.newts ∧ t.colls = s.colls ∧ t.sch = s.sch := by
  simpa only [Still, Prod.mk.injEq] using h

theorem Still.foldl {α : Type} {f : State → α → State} (h : ∀ s a, Still s (f s a)) (l : List α) (s : State) :
    Still s (l.foldl f s) := by
  induction l generalizing s with
  | nil => exact .refl s
  | cons a r ih => exact (h s a).trans (ih _)

theorem Still.ite {s t u : State} {c : Prop} [Decidable c] (h : Still s t) (g : Still s u) : Still s (if c then t else u) := by
  split
  · exact h
  · exact g

/-! Errors (R475 to R482): only the codes of block 11 have their sticky bits in the schedule unit. -/

theorem stickyBit_sch {code : Nat} (h : code / 256 ≠ 11) (s : State) : (stickyBit code s).sch = s.sch := by
  unfold stickyBit
  extract_lets n
  split
  case h_7 h11 => exact absurd h11 h
  all_goals (repeat' split) <;> rfl

theorem raise_sch {o : Occ} (h : o.code / 256 ≠ 11) (s : State) : (raise o s).sch = s.sch := by
  unfold raise
  split
  · rw [rasRecord_sch, freshMark_sch, stickyBit_sch h]
  · rfl

theorem raise_still {o : Occ} (h : o.code / 256 ≠ 11) (s : State) : Still s (raise o s) := by
  rw [Still, raise_jobs, raise_newts, raise_colls, raise_sch h]

/-- The same, with the code of the occurrence named. -/
theorem raise_still_of_code {o : Occ} (code : Nat) (hcode : o.code = code) (h : code / 256 ≠ 11) (s : State) : Still s (raise o s) :=
  raise_still (by rwa [hcode]) s

/-! Buffers and packets (R148, R259, R260, R387, R400). -/

theorem stkUe_still (a : Nat) (s : State) : Still s (stkUe a s) := (raise_still_of_code 0x0D01 rfl (by decide) _).after rfl

theorem lovStore_still (a : Nat) (bs : List Byte) (s : State) : Still s (lovStore a bs s) :=
  (Still.foldl (fun t b => stkUe_still (64 * b) t) _ _).after rfl

theorem bufFree_still (b : Buf) (s : State) : Still s (bufFree b s) := by
  unfold bufFree
  extract_lets _ s1 next s2
  have hstore : Still s s2 := (lovStore_still b.addr _ s1).after rfl
  exact .ite (hstore.trans rfl) rfl

theorem freeOwned_still (r : Nat) (s : State) : Still s (freeOwned r s) := .foldl (fun t b => bufFree_still b t) _ s

theorem stompCopiesOf_still (k n code : Nat) (s : State) : Still s (stompCopiesOf k n code s) := by
  unfold stompCopiesOf
  refine .foldl (fun t h => ?_) _ s
  exact .ite rfl rfl

theorem stompErr_still (h : Held) (code seg : Nat) (s : State) : Still s (stompErr h code seg s) :=
  (Still.ite (.refl s) (.ite (raise_still_of_code 0x0503 rfl (by decide) s) (raise_still_of_code 0x0502 rfl (by decide) s))).trans
    (raise_still_of_code 0x0501 rfl (by decide) _)

theorem ovfTrim_still (die : Nat) (s : State) : Still s (ovfTrim die s) :=
  (Still.foldl (fun t b => bufFree_still b t) _ s).trans (.ite rfl (.refl _))

theorem stompQueued_still (h : Held) (code : Nat) (s : State) : Still s (stompQueued h code s) := by
  have hqueue : Still s (if h.started then
      (if h.pkt.stomp ≠ 0 then s
       else stompPassed h.outPort h.pkt.cls (modHeld h (fun h => { h with pkt := { h.pkt with stomp := code } }) s))
      else ovfTrim (homeDie s h.outPort) (discard 0 (modSwc (fun w => { w with queues := w.queues.erase h }) s))) :=
    .ite (.ite (.refl s) rfl) ((ovfTrim_still _ _).after rfl)
  unfold stompQueued
  split
  · exact hqueue
  · exact hqueue.trans (stompCopiesOf_still _ _ _ _)

theorem stompOne_still (h : Held) (code seg : Nat) (s : State) : Still s (stompOne h code seg s) :=
  (stompErr_still h code seg s).trans (stompQueued_still h code _)

theorem ingressDrop_still (w : Waiting) (s : State) : Still s (ingressDrop w s) := .ite rfl (.ite rfl rfl)

theorem growHeld_still (b : List Byte) (last : Bool) (h : Held) (s : State) : Still s (growHeld b last h s) := by
  have hstore : Still s (if h.acct = 3 then lovStore (h.loc + h.pkt.payload.length) (b.take h.pkt.left)
      (modHeld h (fun x => { x with pkt := growPkt b last h.pkt }) s)
      else modHeld h (fun x => { x with pkt := growPkt b last h.pkt }) s) :=
    .ite ((lovStore_still _ _ _).after rfl) rfl
  unfold growHeld
  exact .ite (hstore.trans rfl) hstore

theorem cellJoins_still (k : Nat) (b : List Byte) (last : Bool) (s : State) : Still s (cellJoins k b last s) :=
  .foldl (fun t h => growHeld_still b last h t) _ s

theorem schedCopies_still (p : Packet) (code : Nat) (b : List Byte) (s : State) : Still s (schedCopies p code b s) :=
  .ite (.refl s) ((cellJoins_still _ b true s).trans (stompCopiesOf_still _ _ _ _))

theorem abortErr_still (port : Nat) (p : Packet) (s : State) : Still s (abortErr port p s) :=
  raise_still_of_code 0x0501 rfl (by decide) s

/-- A packet that is discarded with its record, and its copies. -/
theorem abortPacket_still (port r code : Nat) (p : Packet) (b : List Byte) (s : State) :
    Still s (schedCopies p code b (discard r (abortErr port p s))) :=
  (abortErr_still port p s).trans ((schedCopies_still p code b _).after rfl)

/-! Messages and records (R145, R151, R312). -/

theorem mgmt_still (msg : String) (dst : Nat) (vals : List Nat) (s : State) : Still s (mgmt msg dst vals s) := .ite rfl rfl

theorem notices_still (c status cause : Nat) (p : FaultPlace) (s : State) : Still s (notices c status cause p s) :=
  .foldl (fun t ch => mgmt_still _ ch _ t) _ s

theorem collRaise_still (c cause : Nat) (p : FaultPlace) (s : State) : Still s (collRaise c cause p s) := by
  unfold collRaise
  split
  · rename_i h
    exact raise_still (by simp [h]) s
  · exact .refl s

/-! Copies of the mirror sessions (R271 to R276). -/

theorem copyAdmit_still (port : Nat) (p : Packet) (own : Bool) (s : State) : Still s (copyAdmit port p own s) := by
  unfold copyAdmit
  extract_lets d n prio ses
  split
  · exact .ite rfl rfl
  · extract_lets gone s1
    have hevict : Still s s1 := by
      refine .foldl (fun t e => ?_) _ s
      exact .ite rfl rfl
    exact hevict.trans rfl

/-- No one hears of a copy that has no way on: a copy is no request and takes no acknowledgement. -/
theorem tellSource_copyPacket (pl : CopyPlan) (p : Packet) (s : State) : tellSource (copyPacket pl p) s = s := rfl

theorem noRoute_still {code : Nat} (h : code / 256 ≠ 11) (src : Nat) (p : Packet) (s : State) : Still s (noRoute code src p s) := by
  refine raise_still_of_code code ?_ h s
  unfold rteSource
  (repeat' split) <;> rfl

theorem makeCopies_still (pls : List CopyPlan) (p : Packet) (s : State) : Still s (makeCopies pls p s) := by
  unfold makeCopies
  refine .foldl (fun t pl => .ite (.refl t) ?_) _ s
  extract_lets c t1
  have hcount : Still t t1 := rfl
  split
  · unfold onNoRoute
    dsimp only
    rw [tellSource_copyPacket]
    exact hcount.trans (.ite rfl ((noRoute_still (by decide) _ _ _).after rfl))
  · refine hcount.trans (.ite (copyAdmit_still _ _ _ t1) ?_)
    unfold onPortDown
    rw [tellSource_copyPacket]
    exact (noRoute_still (by decide) _ _ _).after rfl

theorem mirrorPlan_still (ins outs : List Nat) (p : Packet) (s : State) : Still s (mirrorPlan ins outs p s).1 := by
  unfold mirrorPlan
  suffices h : ∀ (l : List Nat) (a : State × List CopyPlan × List CopyPlan), Still a.1 (l.foldl _ a).1 from h _ (s, [], [])
  intro l
  induction l with
  | nil => exact fun a => .refl a.1
  | cons i r ih =>
    intro a
    refine Still.trans ?_ (ih _)
    dsimp only
    split
    · exact .refl a.1
    · (repeat' split) <;> rfl

theorem mirrored_still (ins outs : List Nat) (p : Packet) (s : State) : Still s (mirrored ins outs p s).1 := by
  have hplan := mirrorPlan_still ins outs p s
  unfold mirrored
  generalize mirrorPlan ins outs p s = r at hplan ⊢
  obtain ⟨t, onIn, onOut⟩ := r
  exact hplan.trans (makeCopies_still onIn p t)

end Sys2Proof.Machine
end

section
/-! PROOF. What the abort of collectives leaves alone: jobs, the schedule unit but its pipeline, and what a post has fixed of a
collective. -/

namespace Sys2Proof.Machine

/-- What a post fixes of a collective. -/
def posting (v : Coll) : Nat × Bool × List Byte × List Byte × Nat := (v.job, v.posted, v.desc, v.group, v.commitChip)

/-- From `s` to `t` no job has changed, nor the schedule unit but for the cells in its pipeline, nor what a post has fixed of a
collective. -/
structure JobsKept (s t : State) : Prop where
  jobs : t.jobs = s.jobs
  sch : { t.sch with flights := [] } = { s.sch with flights := [] }
  colls_sorted : tsorted s.colls → tsorted t.colls
  coll : tsorted s.colls → ∀ c, posting (coll t c) = posting (coll s c)

theorem JobsKept.of_eq {s t : State} (h : (t.jobs, { t.sch with flights := [] }, t.colls) = (s.jobs, { s.sch with flights := [] }, s.colls)) :
    JobsKept s t := by
  simp only [Prod.mk.injEq] at h
  obtain ⟨hjobs, hsch, hcolls⟩ := h
  exact ⟨hjobs, hsch, fun hs => by rwa [hcolls], fun _ c => by rw [Machine.coll, hcolls]; rfl⟩

theorem JobsKept.refl (s : State) : JobsKept s s := .of_eq rfl

theorem JobsKept.trans {s t u : State} (h : JobsKept s t) (g : JobsKept t u) : JobsKept s u where
  jobs := g.jobs.trans h.jobs
  sch := g.sch.trans h.sch
  colls_sorted hs := g.colls_sorted (h.colls_sorted hs)
  coll hs c := (g.coll (h.colls_sorted hs) c).trans (h.coll hs c)

theorem Still.jobsKept {s t : State} (h : Still s t) : JobsKept s t := by
  obtain ⟨hjobs, -, hcolls, hsch⟩ := h.parts
  exact .of_eq (by rw [hjobs, hcolls, hsch])

theorem JobsKept.foldl {α : Type} {f : State → α → State} (h : ∀ s a, JobsKept s (f s a)) (l : List α) (s : State) :
    JobsKept s (l.foldl f s) := by
  induction l generalizing s with
  | nil => exact .refl s
  | cons a r ih => exact (h s a).trans (ih _)

theorem JobsKept.ite {s t u : State} {c : Prop} [Decidable c] (h : JobsKept s t) (g : JobsKept s u) :
    JobsKept s (if c then t else u) := by
  split
  · exact h
  · exact g

theorem JobsKept.setColl {s : State} {c : Nat} {v : Coll} (h : posting v = posting (Machine.coll s c)) :
    JobsKept s (setColl c v s) where
  jobs := rfl
  sch := rfl
  colls_sorted hs := tsorted_tset _ hs _ _
  coll hs k := by
    rcases eq_or_ne k c with rfl | hk
    · rw [coll_setColl _ _ _ hs, h]
    · rw [coll_setColl_other _ _ _ _ hs hk]

/-- A part of the schedule unit that does not look at the pipeline. -/
theorem JobsKept.sch_eq {s t : State} (h : JobsKept s t) {α : Type} {f : Sch → α} (hf : ∀ u, f { u with flights := [] } = f u) :
    f t.sch = f s.sch := by rw [← hf t.sch, h.sch, hf s.sch]

theorem JobsKept.job {s t : State} (h : JobsKept s t) (j : Nat) : job t j = job s j := by rw [Machine.job, h.jobs]; rfl

theorem JobsKept.croak {s t : State} (h : JobsKept s t) : croak t = croak s := h.sch_eq (f := Sch.croak) fun _ => rfl

theorem WaitsOnly.jobsKept {s t : State} (h : WaitsOnly s t) : JobsKept s t := .of_eq (by rw [h.frame])

/-! Packets of an aborted collective (R148, R259, R260). -/

theorem abortPipe_jobsKept (c : Nat) (s : State) : JobsKept s (abortPipe c s) := by
  unfold abortPipe
  extract_lets hit fs _ s1
  have hpipe : JobsKept s s1 := .of_eq rfl
  refine hpipe.trans (Still.foldl (fun t f => ?_) _ _).jobsKept
  exact .ite (abortPacket_still _ _ _ _ _ t) (.ite (abortPacket_still _ _ _ _ _ t) (.refl t))

theorem abortOpen_jobsKept (q : Nat) (e : Nat × Packet × Nat × Nat) (s : State) : JobsKept s (abortOpen q e s) := by
  obtain ⟨route, p, len, got⟩ := e
  unfold abortOpen
  dsimp -zeta only
  extract_lets outs cell s1
  have hquad : JobsKept s s1 := .of_eq rfl
  refine .ite hquad (JobsKept.trans ?_ (abortPacket_still _ _ _ _ _ _).jobsKept)
  exact .of_eq rfl

theorem abortAtNewt_jobsKept (c n : Nat) (s : State) : JobsKept s (abortAtNewt c n s) := by
  have hpackets (r : Nat) (l : List (Nat × Nat × SCell)) (t : State) :
      JobsKept t (l.foldl (fun t e => discard r (abortErr 134 e.2.2.hdr t)) t) := by
    refine (Still.foldl (fun t e => ?_) l t).jobsKept
    exact (abortErr_still _ _ t).trans rfl
  unfold abortAtNewt
  extract_lets l mine left s1 s2
  have hall : JobsKept s s2 := (hpackets 0 _ s).trans (hpackets 1 _ s1)
  clear_value s2
  exact .ite (hall.trans (.of_eq rfl)) hall

theorem abortSched_jobsKept (c : Nat) (s : State) : JobsKept s (abortSched c s) := by
  unfold abortSched
  extract_lets s1
  have hquads : JobsKept s s1 :=
    .foldl (fun t (e : Nat × Quad) => .foldl (fun u x => abortOpen_jobsKept e.1 x u) _ t) _ s
  exact (hquads.trans (abortPipe_jobsKept c s1)).trans (.foldl (fun t (e : Nat × Newt) => abortAtNewt_jobsKept c e.1 t) _ _)

theorem abortStomps_jobsKept (c : Nat) (s : State) : JobsKept s (abortStomps c s) := by
  unfold abortStomps
  extract_lets s1
  have hqueues : Still s s1 := .foldl (fun t h => stompOne_still h 4 0 t) _ s
  refine (hqueues.trans (.foldl (fun t w => ?_) _ s1)).jobsKept.trans (abortSched_jobsKept c _)
  exact (ingressDrop_still w t).trans ((abortErr_still _ _ _).trans ((stompCopiesOf_still _ _ _ _).after rfl))

/-! Commits and aborts (R94, R141 to R145, R511). -/

theorem commitBy_jobsKept (n c : Nat) (s : State) : JobsKept s (commitBy n c s) := by
  unfold commitBy
  extract_lets s1 k s2
  have hnewt : JobsKept s s1 := .of_eq rfl
  have hcommit : JobsKept s1 s2 := .setColl rfl
  have hasb : JobsKept s2 (modColl c (fun v => { v with asb := commitAsb c s2 }) s2) := .setColl rfl
  exact .ite (((hnewt.trans hcommit).trans hasb).trans (notices_still _ _ _ _ _).jobsKept) hnewt

theorem cmtFirst_jobsKept (ns : List Nat) (s : State) : JobsKept s (cmtFirst ns s) :=
  .foldl (fun t n => .ite (commitBy_jobsKept n _ t) (.refl t)) ns s

theorem abortMark_jobsKept (c cause : Nat) (p : FaultPlace) (s : State) : JobsKept s (abortMark c cause p s) := by
  unfold abortMark
  extract_lets t v
  have hmark : JobsKept t (setColl c { v with state := .aborting, cause := cause, place := p, ctxs := [], asb := commitAsb c t } t) :=
    .setColl rfl
  refine (cmtFirst_jobsKept (workers s c) s).trans (.ite (.refl t) (.ite (mgmt_still _ _ _ t).jobsKept ?_))
  exact (hmark.trans (abortStomps_jobsKept c _)).trans (notices_still _ _ _ _ _).jobsKept

theorem programEnds_jobsKept (n : Nat) (s : State) : JobsKept s (programEnds n s) :=
  (freeOwned_still _ s).jobsKept.trans (.of_eq rfl)

theorem abortNewt_jobsKept (n : Nat) (s : State) : JobsKept s (abortNewt n s) := by
  have hnewt (v : Newt) (t : State) : JobsKept t (setNewt n v t) := .of_eq rfl
  have hfinish (t : State) : JobsKept t (abortFinish n t) :=
    .ite ((hnewt _ t).trans (programEnds_jobsKept n _)) (.refl t)
  have htold : JobsKept s (unwaitAll n (setNewt n { newt s n with abortPend := true, registered := false, waitPassed := false } s)) :=
    (hnewt _ s).trans (unwaitAll_waitsOnly n _).jobsKept
  unfold abortNewt
  exact .ite (hnewt _ s) (.ite (htold.trans (hfinish _)) (.ite (hnewt _ s) (.refl s)))

theorem abortAt_jobsKept (n : Nat) (s : State) : JobsKept s (abortAt n s) := by
  have hcmt : JobsKept s (modNewt n (fun v => { v with issued := (v.issued + 1) % 2 ^ 32, issuedAt := some (croak s) })
      (cmtFirst [n] s)) := (cmtFirst_jobsKept [n] s).trans (.of_eq rfl)
  unfold abortAt
  exact (JobsKept.ite hcmt (.refl s)).trans (abortNewt_jobsKept n _)

/-- The cause of an abort is recorded, and the abort asked for. -/
theorem abortRaised_jobsKept (c cause : Nat) (p : FaultPlace) (s : State) :
    JobsKept s (abortMark c cause p (collRaise c cause p s)) :=
  (collRaise_still c cause p s).jobsKept.trans (abortMark_jobsKept c cause p _)

theorem abortStop_jobsKept (fuel : Nat) (cs seen : List Nat) (s : State) : JobsKept s (abortStop fuel cs seen s) := by
  induction fuel generalizing cs seen s with
  | zero => exact .refl s
  | succ fuel ih =>
    cases cs with
    | nil => exact .refl s
    | cons c r =>
      unfold abortStop
      extract_lets ns s1 more
      have hparts : JobsKept s s1 := .foldl (fun t n => abortAt_jobsKept n t) _ s
      clear_value s1 more
      refine .ite (ih _ _ s) ((hparts.trans (.foldl (fun t e => ?_) more s1)).trans (ih _ _ _))
      exact abortRaised_jobsKept _ _ _ t

theorem abortEach_jobsKept (cause : Nat) (es : List (Nat × FaultPlace)) (s : State) : JobsKept s (abortEach cause es s) := by
  unfold abortEach
  extract_lets ds
  exact (JobsKept.foldl (fun t (e : Nat × FaultPlace) => abortRaised_jobsKept e.1 cause e.2 t) ds s).trans
    (abortStop_jobsKept _ _ _ _)

theorem abortReq_jobsKept (c cause : Nat) (p : FaultPlace) (s : State) : JobsKept s (abortReq c cause p s) :=
  .ite (.refl s) ((abortMark_jobsKept c cause p s).trans (abortStop_jobsKept _ _ _ _))

theorem memberCheck_jobsKept (cs : List Nat) (s : State) : JobsKept s (memberCheck cs s) := abortEach_jobsKept _ _ s

/-- The schedule unit once its job has stopped (R209). -/
def schStopped (u : Sch) : Sch :=
  { u with state := .stopped, stopSent := true, quantum := 0, pausePend := false, callPend := none }

/-- The stop of the scheduled job leaves the rest of the schedule unit to itself. -/
theorem jobStop_sch (cause : Nat) (p : FaultPlace) (s : State) : { (jobStop cause p s).sch with flights := [] } =
    { (if schActive s then schStopped s.sch else s.sch) with flights := [] } := by
  unfold jobStop
  cases schActive s with
  | false => rfl
  | true =>
    simp only [Bool.not_true, Bool.false_eq_true, if_false, if_true]
    split
    · rfl
    · exact ((abortEach_jobsKept _ _ _).trans (.foldl (fun t n => abortAt_jobsKept n t) _ _)).sch

end Sys2Proof.Machine
end

section
/-! PROOF. The croak master (R190 to R192, R461): its loss, the correction of the count, the election, and the obligation CroakMaster. -/

namespace Sys2Proof.Machine

theorem up_of_fwRuns {s : State} (h : fwRuns s = true) : up s = true := by
  simp only [fwRuns, Bool.and_eq_true] at h
  exact h.1.1

/-! The loss of the master (R192). -/

theorem schActive_raise (o : Occ) (s : State) : schActive (raise o s) = schActive s := by
  simp only [schActive, raise_schState]

theorem jobStop_of_idle (cause : Nat) (p : FaultPlace) {s : State} (h : schActive s = false) : jobStop cause p s = s :=
  if_pos (by simp [h])

/-- Code 0x0B02 sets its bit of SCH_STAT (R478). -/
theorem schErr_masterLostBit {s : State} (hup : up s = true) : (schErr 0x0B02 0 0 0 0 0 s).sch.masterLostBit = true := by
  unfold schErr raise
  rw [if_pos hup, rasRecord_sch, freshMark_sch]
  simp [stickyBit]

/-- A part of the schedule unit that neither its state nor its pipeline shows is as it was after a stop. -/
theorem jobStop_keeps (cause : Nat) (p : FaultPlace) (s : State) {α : Type} {f : Sch → α}
    (hf : ∀ u, f { u with flights := [] } = f u) (hstop : ∀ u, f (schStopped u) = f u) : f (jobStop cause p s).sch = f s.sch := by
  rw [← hf, jobStop_sch, hf]
  split
  · exact hstop _
  · rfl

theorem exec_schMasterLost {s : State} (hwf : s.Wf) (hup : up s = true) :
    let heard := s.sch.electing && s.sch.term != 0
    (s.sch.master = true ∨ (s.sch.align = .unaligned ∧ heard = false) → exec .schMasterLost s = .next s) ∧
    (s.sch.master = false → s.sch.align ≠ .unaligned ∨ heard = true → ∃ t, exec .schMasterLost s = .next t ∧ t.sch.align = .unaligned ∧
      (rasRec t 0x0B02).set = true ∧ t.sch.masterLostBit = true ∧ (schActive s = true → t.sch.state = .stopped) ∧
      (schActive s = false → t.sch.state = s.sch.state ∧ t.newts = s.newts ∧ t.colls = s.colls)) := by
  intro heard
  have hexec : exec .schMasterLost s = .next (masterLost s) := whenUp_of_up _ hup
  rw [hexec]
  refine ⟨fun h => ?_, fun hmaster h => ?_⟩
  · have hcond : s.sch.master = true ∨ (s.sch.align = .unaligned ∧ (!heard) = true) := by simpa using h
    rw [show masterLost s = s from if_pos hcond]
  · have hcond : ¬ (s.sch.master = true ∨ (s.sch.align = .unaligned ∧ (!heard) = true)) := by
      rintro (hm | ⟨ha, hh⟩)
      · exact absurd hm (by simp [hmaster])
      · rcases h with h | h
        · exact h ha
        · simp [h] at hh
    set raised := schErr 0x0B02 0 0 0 0 0 s with hraised
    set p : FaultPlace := { fchip := fchipOf s.rte.coord, funit := 0, fkind := 6 } with hp
    have hactive : schActive raised = schActive s := schActive_raise _ s
    obtain ⟨hkept, hstops⟩ := jobStop_fabricKept 0x0B02 p raised
    refine ⟨_, congrArg Host.Outcome.next (if_neg hcond), rfl, ?_, ?_, fun ha => ?_, fun ha => ?_⟩
    · exact hkept.records.set ((raise_recordsStand _ s).sorted hwf.recs_sorted) _ (rasRec_raise_set hup (show definedCode 0x0B02 = true by decide))
    · exact (jobStop_keeps 0x0B02 p raised (f := Sch.masterLostBit) (fun _ => rfl) (fun _ => rfl)).trans (schErr_masterLostBit hup)
    · exact hstops (hactive.trans ha)
    · have hidle : jobStop 0x0B02 p raised = raised := jobStop_of_idle _ _ (hactive.trans ha)
      exact ⟨by rw [← hraised, ← hp, hidle]; exact raise_schState _ s, by rw [← hraised, ← hp, hidle]; exact raise_newts _ s,
        by rw [← hraised, ← hp, hidle]; exact raise_colls _ s⟩

/-! The correction of the count (R190, log 171). -/

/-- The offset of a measured quad after a correction by `delta`. -/
def quadCorrected (delta : Int) (v : Quad) : Quad := if v.measured then { v with offset := v.offset - 16 * delta } else v

theorem tget_quadCorrected (delta : Int) (t : Table Quad) (q : Nat) :
    tget {} (t.map (fun e => (e.1, quadCorrected delta e.2))) q = quadCorrected delta (tget {} t q) :=
  tget_map_value ({} : Quad) (quadCorrected delta) (if_neg (by decide)) t q

theorem alignCorrect_of_path {ls : List ChipLink} {s : State} {h : Nat} {sum : Int}
    (hgo : ¬ (s.sch.state ≠ .idle ∨ s.sch.master = true ∨ s.sch.term = 0)) (hpath : masterPath s ls = some (h, sum)) :
    alignCorrect ls s = { s with
      quads := s.quads.map (fun e => (e.1, quadCorrected (alignDelta s sum) e.2))
      hif := { s.hif with lastBeat := s.hif.lastBeat + (alignDelta s sum).toNat, orphanAt := s.hif.orphanAt + (alignDelta s sum).toNat }
      sch := { s.sch with
        croak := (s.sch.croak + (alignDelta s sum).toNat) % 2 ^ 64, hops := h % 64, bound := alignBound h % 256
        align := if h ≤ 25 then .aligned else .outOfBound } } := by
  rw [alignCorrect, if_neg hgo, hpath]
  rfl

theorem exec_alignmentCorrection (xs ys zs : List ChipLink) {s : State} (hup : up s = true) :
    (∀ (h : Nat) (sum : Int), s.sch.state = .idle → s.sch.master = false → s.sch.term ≠ 0 → masterPath s (xs ++ ys ++ zs) = some (h, sum) →
      let delta : Int := if s.sch.hops = 0 ∧ sum.natAbs ≤ 32 then 0 else roundDiv sum 16
      ∃ t, exec (.alignmentCorrection xs ys zs) s = .next t ∧
      t.sch = { s.sch with croak := (s.sch.croak + delta.toNat) % 2 ^ 64, hops := h % 64, bound := (800 + 96 * h + 99) / 100 % 256
                           align := if h ≤ 25 then .aligned else .outOfBound } ∧
      (∀ q, quad t q = if (quad s q).measured then { quad s q with offset := (quad s q).offset - 16 * delta } else quad s q) ∧
      t = { s with sch := t.sch, quads := t.quads
                   hif := { s.hif with lastBeat := s.hif.lastBeat + delta.toNat, orphanAt := s.hif.orphanAt + delta.toNat } }) ∧
    (s.sch.state ≠ .idle ∨ s.sch.master = true ∨ s.sch.term = 0 ∨ masterPath s (xs ++ ys ++ zs) = none →
      exec (.alignmentCorrection xs ys zs) s = .next s) := by
  have hexec : exec (.alignmentCorrection xs ys zs) s = .next (alignCorrect (xs ++ ys ++ zs) s) := whenUp_of_up _ hup
  rw [hexec]
  refine ⟨fun h sum hidle hmaster hterm hpath => ?_, fun h => ?_⟩
  · intro delta
    have hgo : ¬ (s.sch.state ≠ .idle ∨ s.sch.master = true ∨ s.sch.term = 0) := by simp [hidle, hmaster, hterm]
    refine ⟨_, rfl, ?_⟩
    rw [alignCorrect_of_path hgo hpath]
    exact ⟨rfl, tget_quadCorrected delta s.quads, rfl⟩
  · rw [alignCorrect]
    split
    · rfl
    · rename_i hgo
      have hpath : masterPath s (xs ++ ys ++ zs) = none := by tauto
      rw [hpath]

/-! The election (R461). -/

theorem electEnter_open (term : Nat) {s : State} (ho : drains s 4 = false) : electEnter term s = { s with
    sch := { s.sch with electing := true, electTerm := term, bids := [ownBid term s], align := .unaligned, master := false }
    out := s.out ++ (otherChips s).map (fun h => .mgmt "BID" h [term, mprio s, s.rte.coord]) } :=
  foldl_mgmt_open "BID" (fun _ => [term, mprio s, s.rte.coord]) (otherChips s) (s := modSch _ s) ho

/-- The term that an election which opens or is tried again enters. -/
theorem exec_election {c : Instr} {term : Nat} {s : State} (hfw : fwRuns s = true) (ho : drains s 4 = false)
    (hstart : s.lay.startupDone = true) (helect : s.sch.electing = false)
    (hc : (∃ e, c = .electionOpen e ∧ term = ((match e with | .termDiffers k => max (knownTerm s) k | _ => knownTerm s) + 1) % 2 ^ 32) ∨
      (c = .electionRetry ∧ s.sch.term < s.sch.electTerm ∧ term = (knownTerm s + 1) % 2 ^ 32)) :
    exec c s = .next { s with
      sch := { s.sch with electing := true, electTerm := term, bids := [ownBid term s], align := .unaligned, master := false }
      out := s.out ++ (otherChips s).map (fun h => .mgmt "BID" h [term, mprio s, s.rte.coord]) } := by
  have hup := up_of_fwRuns hfw
  rw [← electEnter_open term ho]
  rcases hc with ⟨e, rfl, rfl⟩ | ⟨rfl, hlater, rfl⟩
  · have hexec : exec (.electionOpen e) s = .next (electOpen e s) := whenUp_of_up _ hup
    have hgo : ¬ ((!s.lay.startupDone) = true ∨ s.sch.electing = true ∨ (!fwRuns s) = true) := by simp [hstart, helect, hfw]
    rw [hexec]
    cases e <;> exact congrArg Host.Outcome.next (if_neg hgo)
  · have hexec : exec .electionRetry s = .next (electRetry s) := whenUp_of_up _ hup
    have hgo : ¬ ((!s.lay.startupDone) = true ∨ s.sch.electing = true ∨ s.sch.electTerm ≤ s.sch.term ∨ (!fwRuns s) = true) := by
      simp [hstart, helect, hfw, hlater]
    rw [hexec]
    exact congrArg Host.Outcome.next (if_neg hgo)

/-- A bid of the term of the election is collected once for each chip. -/
def bidTake (b : Bid) (s : State) : State :=
  if s.sch.electing && b.term == s.sch.electTerm && !s.sch.bids.any (fun e => e.coord == b.coord) then
    modSch (fun u => { u with bids := u.bids ++ [b] }) s
  else s

section Bids

variable {b : Bid} {s : State} (hfw : fwRuns s = true) (hstart : s.lay.startupDone = true)

include hfw hstart

theorem exec_bidReceive : exec (.bidReceive b) s = .next (bidTake b (if knownTerm s < b.term then electEnter b.term s else s)) := by
  have hgo : ¬ ((!s.lay.startupDone) = true ∨ (!fwRuns s) = true) := by simp [hstart, hfw]
  exact (whenUp_of_up _ (up_of_fwRuns hfw)).trans (congrArg Host.Outcome.next (if_neg hgo))

theorem exec_bidReceive_known (hterm : b.term ≤ knownTerm s) : exec (.bidReceive b) s = .next (bidTake b s) := by
  rw [exec_bidReceive hfw hstart, if_neg (Nat.not_lt.mpr hterm)]

/-- A bid of a higher term enters that term, after the chip's own bid. -/
theorem exec_bidReceive_higher (hterm : knownTerm s < b.term) (hcoord : b.coord ≠ s.rte.coord) (ho : drains s 4 = false) :
    exec (.bidReceive b) s = .next { s with
      sch := { s.sch with electing := true, electTerm := b.term, bids := [ownBid b.term s, b], align := .unaligned, master := false }
      out := s.out ++ (otherChips s).map (fun h => .mgmt "BID" h [b.term, mprio s, s.rte.coord]) } := by
  have hown : (ownBid b.term s).coord ≠ b.coord := Ne.symm hcoord
  rw [exec_bidReceive hfw hstart, if_pos hterm, electEnter_open _ ho]
  simp [bidTake, hown, modSch]

theorem bidReceive_clauses :
    (b.term ≤ knownTerm s → s.sch.electing = false ∨ b.term ≠ s.sch.electTerm → exec (.bidReceive b) s = .next s) ∧
    (b.term = knownTerm s → s.sch.electing = true → b.term = s.sch.electTerm → (∀ e ∈ s.sch.bids, e.coord ≠ b.coord) →
      exec (.bidReceive b) s = .next { s with sch := { s.sch with bids := s.sch.bids ++ [b] } }) ∧
    (s.sch.electing = true → (∃ e ∈ s.sch.bids, e.coord = b.coord) → b.term ≤ knownTerm s → exec (.bidReceive b) s = .next s) ∧
    (knownTerm s < b.term → b.coord ≠ s.rte.coord → drains s 4 = false → exec (.bidReceive b) s = .next { s with
      sch := { s.sch with electing := true, electTerm := b.term, bids := [ownBid b.term s, b], align := .unaligned, master := false }
      out := s.out ++ (otherChips s).map (fun h => .mgmt "BID" h [b.term, mprio s, s.rte.coord]) }) := by
  refine ⟨fun hterm h => ?_, fun hterm helect hsame hnew => ?_, fun _ hold hterm => ?_, exec_bidReceive_higher hfw hstart⟩
  · rw [exec_bidReceive_known hfw hstart hterm]
    rcases h with h | h <;> simp [bidTake, h]
  · have hfirst : s.sch.bids.any (fun e => e.coord == b.coord) = false := by simpa using hnew
    rw [exec_bidReceive_known hfw hstart hterm.le, bidTake, if_pos (by simp [helect, hsame, hfirst])]
    rfl
  · have hseen : s.sch.bids.any (fun e => e.coord == b.coord) = true := by simpa using hold
    rw [exec_bidReceive_known hfw hstart hterm, bidTake, if_neg (by simp [hseen])]

end Bids

/-! The decision. -/

/-- One more bid against the winner of those before it. -/
def bidTaken (w : Option Bid) (b : Bid) : Option Bid :=
  match w with
  | none => some b
  | some a => if bidBeats b a then some b else some a

theorem bidWinner_eq (bs : List Bid) : bidWinner bs = (bs.filter (fun b => decide (b.mprio ≠ 0))).foldl bidTaken none := rfl

/-- From a first winner on, the winner of a list is one of its bids or that first one, and none of them beats it. -/
theorem foldl_bidTaken (l : List Bid) (a : Bid) : ∃ w, l.foldl bidTaken (some a) = some w ∧ (w = a ∨ w ∈ l) ∧
    bidBeats a w = false ∧ ∀ e ∈ l, bidBeats e w = false := by
  induction l generalizing a with
  | nil => exact ⟨a, rfl, .inl rfl, by simp [bidBeats], by simp⟩
  | cons b r ih =>
    cases hb : bidBeats b a with
    | true =>
      obtain ⟨w, hw, hin, hbw, hall⟩ := ih b
      refine ⟨w, by simpa [bidTaken, hb] using hw, .inr (by simpa using hin), ?_, by simpa [hbw] using hall⟩
      simp only [bidBeats, decide_eq_true_eq, decide_eq_false_iff_not] at hb hbw ⊢
      omega
    | false =>
      obtain ⟨w, hw, hin, haw, hall⟩ := ih a
      refine ⟨w, by simpa [bidTaken, hb] using hw, hin.imp id (by simp +contextual), haw, ?_⟩
      have hbw : bidBeats b w = false := by
        simp only [bidBeats, decide_eq_false_iff_not] at hb haw ⊢
        omega
      simpa [hbw] using hall

theorem bidWinner_none {bs : List Bid} (h : ∀ e ∈ bs, e.mprio = 0) : bidWinner bs = none := by
  rw [bidWinner_eq, List.filter_eq_nil_iff.mpr (by simpa using h)]
  rfl

/-- With an eligible bid, the winner is one that no other beats. -/
theorem bidWinner_some {bs : List Bid} (h : ∃ e ∈ bs, e.mprio ≠ 0) : ∃ w, bidWinner bs = some w ∧ w ∈ bs ∧ w.mprio ≠ 0 ∧
    ∀ e ∈ bs, e.mprio ≠ 0 → bidBeats e w = false := by
  rw [bidWinner_eq]
  obtain ⟨e, he, hp⟩ := h
  have hmem (x : Bid) : x ∈ bs.filter (fun b => decide (b.mprio ≠ 0)) ↔ x ∈ bs ∧ x.mprio ≠ 0 := by simp
  generalize bs.filter (fun b => decide (b.mprio ≠ 0)) = l at hmem
  cases l with
  | nil => exact absurd ((hmem e).mpr ⟨he, hp⟩) (by simp)
  | cons a r =>
    obtain ⟨w, hw, hin, haw, hall⟩ := foldl_bidTaken r a
    obtain ⟨hwin, hwp⟩ := (hmem w).mp (by simpa using hin)
    refine ⟨w, hw, hwin, hwp, fun x hx hxp => ?_⟩
    rcases List.mem_cons.mp ((hmem x).mpr ⟨hx, hxp⟩) with rfl | hr
    · exact haw
    · exact hall x hr

theorem logOpen_frame (typ id : Nat) (s : State) : logOpen typ id s =
    { s with log := (logOpen typ id s).log, lov := (logOpen typ id s).lov, free := (logOpen typ id s).free } := by
  have h : ∀ t : State, t.pins = s.pins → t.ras = s.ras → t.unit = s.unit → t.lay = s.lay → t.fw = s.fw → t.fuse = s.fuse →
      t.att = s.att → t.mon = s.mon → t.cal = s.cal → t.hif = s.hif → t.nonce = s.nonce → t.nextJob = s.nextJob → t.jobs = s.jobs →
      t.colls = s.colls → t.newts = s.newts → t.sync = s.sync → t.sch = s.sch → t.swc = s.swc → t.rte = s.rte → t.shp = s.shp →
      t.quads = s.quads → t.pool = s.pool → t.dma = s.dma → t.therm = s.therm → t.hostMem = s.hostMem → t.out = s.out →
      t.pending = s.pending → t = { s with log := t.log, lov := t.lov, free := t.free } := by
    rintro ⟨⟩
    simp +contextual
  apply h <;> simp

/-- The schedule unit once an election has decided for the bid `w`. -/
def schDecided (w : Bid) (own : Bool) (u : Sch) : Sch := { u with
  electing := false, bids := [], term := u.electTerm, master := own, masterXyz := w.coord, hbSeq := 0
  hops := 0, bound := 0, align := if own then .aligned else .measuring }

theorem electDecide_of_winner {s : State} {w : Bid} (hfw : fwRuns s = true) (helect : s.sch.electing = true)
    (hw : bidWinner s.sch.bids = some w) :
    electDecide s = logOpen 1 7 (modSch (schDecided w (decide (w.coord = s.rte.coord))) s) := by
  have hgo : ¬ ((!s.sch.electing) = true ∨ (!fwRuns s) = true) := by simp [helect, hfw]
  rw [electDecide, if_neg hgo, hw]
  rfl

theorem electDecide_of_none {s : State} (hfw : fwRuns s = true) (helect : s.sch.electing = true)
    (hw : bidWinner s.sch.bids = none) :
    electDecide s = raise { code := 0x0C16, d := [s.sch.electTerm] } (modSch (fun u => { u with electing := false, bids := [] }) s) := by
  have hgo : ¬ ((!s.sch.electing) = true ∨ (!fwRuns s) = true) := by simp [helect, hfw]
  rw [electDecide, if_neg hgo, hw]

theorem exec_electionDecide {s : State} (hfw : fwRuns s = true) :
    (s.sch.electing = false → exec .electionDecide s = .next s) ∧
    (s.sch.electing = true → (∀ e ∈ s.sch.bids, e.mprio = 0) → ∃ t, exec .electionDecide s = .next t ∧
      (rasRec t 0x0C16).set = true ∧ t.sch = { s.sch with electing := false, bids := [] }) ∧
    (s.sch.electing = true → (∃ e ∈ s.sch.bids, e.mprio ≠ 0) → ∃ t w, exec .electionDecide s = .next t ∧
      w ∈ s.sch.bids ∧ w.mprio ≠ 0 ∧ (∀ e ∈ s.sch.bids, e.mprio ≠ 0 → bidBeats e w = false) ∧
      t.sch = { s.sch with electing := false, bids := [], term := s.sch.electTerm, master := decide (w.coord = s.rte.coord)
                           masterXyz := w.coord, hbSeq := 0, hops := 0, bound := 0
                           align := if w.coord = s.rte.coord then .aligned else .measuring } ∧
      t = { s with sch := t.sch, log := t.log, lov := t.lov, free := t.free }) := by
  have hup := up_of_fwRuns hfw
  have hexec : exec .electionDecide s = .next (electDecide s) := whenUp_of_up _ hup
  rw [hexec]
  refine ⟨fun helect => ?_, fun helect hnone => ?_, fun helect hsome => ?_⟩
  · simp [electDecide, helect]
  · refine ⟨_, rfl, ?_⟩
    rw [electDecide_of_none hfw helect (bidWinner_none hnone)]
    exact ⟨rasRec_raise_set hup (show definedCode 0x0C16 = true by decide), raise_sch (show 0x0C16 / 256 ≠ 11 by decide) _⟩
  · obtain ⟨w, hw, hin, hp, hbest⟩ := bidWinner_some hsome
    refine ⟨_, w, rfl, hin, hp, hbest, ?_⟩
    rw [electDecide_of_winner hfw helect hw]
    refine ⟨?_, ?_⟩
    · rw [logOpen_sch]
      simp [modSch, schDecided]
    · exact (logOpen_frame 1 7 (modSch _ s)).trans (by rw [logOpen_sch]; rfl)

/-- Settles O55: the heartbeat, the loss of the master, the correction and the election, one command at a time. -/
theorem croakMaster : Obligations.CroakMaster := by
  unfold Obligations.CroakMaster
  refine ⟨fun s hup => ?_, fun s hwf hup => exec_schMasterLost hwf hup, fun xs ys zs s hup => exec_alignmentCorrection xs ys zs hup,
    fun c term s hfw ho hstart helect hc => exec_election hfw ho hstart helect hc,
    fun b s hfw hstart => bidReceive_clauses hfw hstart, fun s _ hfw => exec_electionDecide hfw⟩
  have hexec : exec .masterHeartbeat s = .next (masterHeartbeat s) := whenUp_of_up _ hup
  rw [hexec]
  exact ⟨fun h => congrArg Host.Outcome.next (if_pos h), fun h => congrArg Host.Outcome.next (if_neg (by simp [h]))⟩

end Sys2Proof.Machine
end

section
/-! PROOF. The commands of mailbox slots: the command that runs, free job slots, replies, and the end of a job. -/

namespace Sys2Proof.Machine

/-- The command of a slot that may run is run. -/
theorem exec_onSlot {c i : Nat} {s : State} (f : Slot → State → State) (h : runnable c i s = true) :
    whenUp (onSlot c i f) s = .next (f (mslot s i) s) := by
  have hfw : fwRuns s = true := by
    simp only [runnable, Bool.and_eq_true] at h
    exact h.1.1.1.1
  rw [whenUp_of_up _ (up_of_fwRuns hfw), onSlot, if_pos h]

theorem aligned64_of_mod {a : Nat} (i : Nat) (f : State → State) (s : State) (h : a % 64 = 0) : aligned64 i a f s = f s :=
  if_neg (by simpa using h)

theorem freeJob_some {j : Nat} {s : State} (hj : freeJob s = some j) : j < 64 ∧ (job s j).state = .free := by
  have hp := List.find?_some hj
  exact ⟨List.mem_range.mp (List.mem_of_find?_eq_some hj), by simpa using hp⟩

theorem rp_of_length {n : Nat} {bs : List Byte} (h : bs.length ≤ n) : rp n bs = bs ++ List.replicate (n - bs.length) 0 := by
  simp [rp, slice, List.take_of_length_le h]

/-! One job among others. -/

theorem State.Wf.jobs_sorted {s : State} (h : s.Wf) : tsorted s.jobs := by
  obtain ⟨-, ⟨-, hjobs, -⟩, -⟩ := h
  exact hjobs

theorem State.Wf.colls_sorted {s : State} (h : s.Wf) : tsorted s.colls := by
  obtain ⟨-, ⟨-, -, hcolls, -⟩, -⟩ := h
  exact hcolls

theorem jobState_jobs (j : Nat) (x : JobState) (s : State) :
    (jobState j x s).jobs = if (job s j).state = x then s.jobs else (modJob j (fun v => { v with state := x }) s).jobs := by
  unfold jobState
  split
  · rfl
  · simp [pushEvent]
    split <;> rfl

theorem job_jobState {j : Nat} {x : JobState} {s : State} (h : tsorted s.jobs) : job (jobState j x s) j = { job s j with state := x } := by
  rw [job, jobState_jobs]
  split
  · rename_i hx
    exact hx ▸ rfl
  · exact job_setJob j _ s h

theorem job_jobState_other {j k : Nat} {x : JobState} {s : State} (h : tsorted s.jobs) (hk : k ≠ j) : job (jobState j x s) k = job s k := by
  rw [job, jobState_jobs]
  split
  · rfl
  · exact job_setJob_other j k _ s h hk

theorem setJob_jobs_sorted {s : State} (j : Nat) (v : Job) (h : tsorted s.jobs) : tsorted (setJob j v s).jobs := tsorted_tset _ h _ _

theorem jobState_jobs_sorted {s : State} (j : Nat) (x : JobState) (h : tsorted s.jobs) : tsorted (jobState j x s).jobs := by
  rw [jobState_jobs]
  split
  · exact h
  · exact setJob_jobs_sorted j _ h

/-! The end of a job (R216). -/

theorem syncErr_still (o agent d n src : Nat) (s : State) : Still s (syncErr o 0x0406 agent d n src s) := by
  rw [syncErr]
  exact (raise_still_of_code 0x0406 rfl (by decide) _).after rfl

theorem taskEnd_still (j : Nat) (s : State) : Still s (taskEnd j s) := .foldl (fun t o => syncErr_still o _ _ _ _ t) _ s

/-- What a job is once it has ended: its run record is written and held. -/
def EndOf (v w : Job) : Prop :=
  ∃ s u e t, w = { v with state := .ended, record := runRecord s u, endc := e, endTerm := t }

/-- The end of a job: of the jobs it alone changes, and the newts, the collectives and the schedule unit stay. -/
theorem jobEnd_job (j : Nat) {s : State} (h : tsorted s.jobs) :
    EndOf (job s j) (job (jobEnd j s) j) ∧ (∀ k, k ≠ j → job (jobEnd j s) k = job s k) ∧
    (jobEnd j s).newts = s.newts ∧ (jobEnd j s).colls = s.colls ∧ (jobEnd j s).sch = s.sch := by
  have hstill : Still s (if (job s j).launched then taskEnd j s else s) := .ite (taskEnd_still j s) (.refl s)
  rw [jobEnd]
  generalize (if (job s j).launched then taskEnd j s else s) = s1 at hstill ⊢
  obtain ⟨hjobs, hnewts, hcolls, hsch⟩ := hstill.parts
  have hjob (k : Nat) : job s1 k = job s k := by rw [job, hjobs]; rfl
  have h1 : tsorted s1.jobs := hjobs ▸ h
  generalize hs2 : modJob j _ s1 = s2
  have h2 : tsorted s2.jobs := by rw [← hs2]; exact setJob_jobs_sorted j _ h1
  have hin2 : ∃ e t, job s2 j = { job s j with endc := e, endTerm := t } := by
    rw [← hs2, modJob, job_setJob _ _ _ h1, hjob]
    split
    · exact ⟨_, _, rfl⟩
    · exact ⟨_, _, rfl⟩
  have hrest2 (k : Nat) (hk : k ≠ j) : job s2 k = job s k := by
    rw [← hs2, modJob, job_setJob_other _ _ _ _ h1 hk, hjob]
  obtain ⟨e, t, hin2⟩ := hin2
  have h3 : tsorted (modJob j (fun v => { v with record := runRecord s2 v }) s2).jobs := setJob_jobs_sorted j _ h2
  refine ⟨⟨s2, job s2 j, e, t, ?_⟩, fun k hk => ?_, ?_, ?_, ?_⟩
  · rw [job_jobState h3, modJob, job_setJob _ _ _ h2, hin2]
  · rw [job_jobState_other h3 hk, modJob, job_setJob_other _ _ _ _ h2 hk, hrest2 k hk]
  · subst hs2
    exact (jobState_newts _ _ _).trans hnewts
  · subst hs2
    exact (jobState_colls _ _ _).trans hcolls
  · subst hs2
    exact (jobState_sch _ _ _).trans hsch

end Sys2Proof.Machine
end

section
/-! PROOF. Jobs from the host (R431, R432, R438, R439), and the obligation JobCommands. -/

namespace Sys2Proof.Machine

/-! JOB_OPEN. -/

theorem openReply_handle (j : Nat) (s : State) : fieldAt (openReply j s) 0 8 = (job s j).handle.toNat := by
  rw [openReply, rp_of_length (by simp [wordBytes]), wordBytes, List.append_assoc]
  exact (fieldAt_leBytes (p := []) rfl rfl).trans (Nat.mod_eq_of_lt (job s j).handle.isLt)

theorem openReply_slot (j : Nat) (s : State) : fieldAt (openReply j s) 8 1 = j % 256 := by
  rw [openReply, rp_of_length (by simp [wordBytes]), fieldAt_leBytes (by rw [List.append_assoc]) (by simp [wordBytes])]
  rfl

/-- A new job of JOB_OPEN. -/
def jobNew (m : Slot) (s : State) : Job := withRing m
  { handle := BitVec.ofNat 64 (2 ^ 32 * s.nonce + s.nextJob % 2 ^ 32), seed := BitVec.ofNat 64 (req m 0 8), fjob := BitVec.ofNat 64 (req m 8 8) }

/-- JOB_OPEN without REATTACH. -/
theorem exec_jobOpen_new {i : Fin 256} {s : State} (hwf : s.Wf) (hrun : runnable 0x20 i.val s = true) :
    let m := mslot s i.val
    (bitOf (req m 26 1) 0 = false → freeJob s = none → exec (.jobOpen i) s = .next (cmdFail i.val 0x010A s)) ∧
    (∀ j, bitOf (req m 26 1) 0 = false → freeJob s = some j → req m 16 8 % 64 = 0 →
      ∃ t, exec (.jobOpen i) s = .next (cmdDone i.val (openReply j t) t) ∧ job t j = { jobNew m s with state := .opened } ∧
        t.nextJob = s.nextJob + 1 ∧ ∀ k, k ≠ j → job t k = job s k) := by
  intro m
  have hexec : exec (.jobOpen i) s = .next (jobOpen i.val m s) := exec_onSlot _ hrun
  rw [hexec]
  refine ⟨fun hnew hfree => ?_, fun j hnew hfree hal => ?_⟩
  · rw [jobOpen, if_neg (by simp [hnew]), hfree]
  · rw [jobOpen, if_neg (by simp [hnew]), hfree]
    have hs : tsorted (setJob j (jobNew m s) s).jobs := setJob_jobs_sorted j _ hwf.jobs_sorted
    refine ⟨_, congrArg Host.Outcome.next (aligned64_of_mod _ _ _ hal), ?_, ?_, fun k hk => ?_⟩
    · rw [job_jobState (by exact hs)]
      exact congrArg (fun v : Job => { v with state := .opened }) (job_setJob j (jobNew m s) s hwf.jobs_sorted)
    · rw [jobState_nextJob]
    · rw [job_jobState_other (by exact hs) hk]
      exact job_setJob_other _ _ (jobNew m s) _ hwf.jobs_sorted hk

/-- JOB_OPEN with REATTACH, of a job that holds no record. -/
theorem exec_jobOpen_reattach {i : Fin 256} {s : State} {j : Nat} (hwf : s.Wf) (hrun : runnable 0x20 i.val s = true)
    (hre : bitOf (req (mslot s i.val) 26 1) 0 = true) (hj : jobOf (req (mslot s i.val) 32 8) s = some j)
    (hal : req (mslot s i.val) 16 8 % 64 = 0) (hheld : (job s j).held = []) :
    ∃ t, exec (.jobOpen i) s = .next (cmdDone i.val (openReply j t) t) ∧ job t j = withRing (mslot s i.val) (job s j) ∧
      ∀ k, k ≠ j → job t k = job s k := by
  have hexec : exec (.jobOpen i) s = .next (jobOpen i.val (mslot s i.val) s) := exec_onSlot _ hrun
  have hin : job (modJob j (withRing (mslot s i.val)) s) j = withRing (mslot s i.val) (job s j) := job_setJob _ _ _ hwf.jobs_sorted
  have hpump : recordPump (job (modJob j (withRing (mslot s i.val)) s) j).held.length j (modJob j (withRing (mslot s i.val)) s) =
      modJob j (withRing (mslot s i.val)) s := by
    rw [hin, withRing, hheld]
    rfl
  refine ⟨modJob j (withRing (mslot s i.val)) s, ?_, hin, fun k hk => job_setJob_other _ _ _ _ hwf.jobs_sorted hk⟩
  rw [hexec, jobOpen, if_pos hre, hj]
  refine congrArg Host.Outcome.next ((aligned64_of_mod _ _ _ hal).trans ?_)
  dsimp only
  rw [hpump]

/-! JOB_LAUNCH. -/

/-- The job that a launch arms. -/
def jobLaunched (l : Nat) (sched : Bool) (s : State) (v : Job) : Job :=
  { v with sched := sched, launched := true, launchL := l, firstL := l, lastL := l, snaps := snapAll s, touched := [] }

theorem launch_plain (j l : Nat) (s : State) :
    launch j l false s = { jobState j .armed (modJob j (jobLaunched l false s) s) with
      newts := (jobState j .armed (modJob j (jobLaunched l false s) s)).newts.map (fun e => (e.1, newtFresh e.2)) } := rfl

/-- The state of a scheduled launch before the check of the member ports. -/
def schedLaunched (j l : Nat) (s : State) : State :=
  let s2 := jobState j .armed (modJob j (jobLaunched l true s) s)
  let s3 : State := { s2 with sch := schArm j l s2.sch, newts := s2.newts.map (fun e => (e.1, newtLaunch e.2)) }
  (logicColls s3 j).foldl (fun t e => setColl e.1 e.2 t) s3

theorem launch_sched (j l : Nat) (s : State) : ∃ cs, launch j l true s = memberCheck cs (schedLaunched j l s) := by
  rw [launch, if_neg (by decide)]
  exact ⟨_, rfl⟩

theorem foldl_setColl_frame (es : List (Nat × Coll)) (s : State) :
    ∃ c, es.foldl (fun t e => setColl e.1 e.2 t) s = { s with colls := c } := by
  induction es generalizing s with
  | nil => exact ⟨_, rfl⟩
  | cons e r ih =>
    obtain ⟨c, hc⟩ := ih (setColl e.1 e.2 s)
    exact ⟨c, hc⟩

theorem schedLaunched_frame (j l : Nat) (s : State) : ∃ c n, schedLaunched j l s =
    { jobState j .armed (modJob j (jobLaunched l true s) s) with sch := schArm j l s.sch, colls := c, newts := n } := by
  rw [schedLaunched, show s.sch = (modJob j (jobLaunched l true s) s).sch from rfl]
  rw [← jobState_sch j .armed (modJob j (jobLaunched l true s) s)]
  obtain ⟨c, hc⟩ := foldl_setColl_frame _ _
  exact ⟨c, _, hc⟩

theorem job_launched {j l : Nat} {sched : Bool} {s : State} (hwf : s.Wf) :
    job (jobState j .armed (modJob j (jobLaunched l sched s) s)) j = { jobLaunched l sched s (job s j) with state := .armed } := by
  rw [modJob, job_jobState (setJob_jobs_sorted j _ hwf.jobs_sorted), job_setJob _ _ _ hwf.jobs_sorted]

/-- The launch of a job: its slot is ARMED at `l`, and with SCHED the schedule unit with it. -/
theorem launch_armed {j l : Nat} {sched : Bool} {s : State} (hwf : s.Wf) :
    job (launch j l sched s) j = { jobLaunched l sched s (job s j) with state := .armed } ∧
    (sched = true → (launch j l sched s).sch.state = .armed ∧ (launch j l sched s).sch.job = some j ∧
      (launch j l sched s).sch.launchL = l) := by
  cases sched with
  | false => exact ⟨job_launched hwf, by simp⟩
  | true =>
    obtain ⟨cs, hcs⟩ := launch_sched j l s
    obtain ⟨c, n, hfr⟩ := schedLaunched_frame j l s
    have hkept := memberCheck_jobsKept cs (schedLaunched j l s)
    have hsch {α : Type} {f : Sch → α} (hf : ∀ u, f { u with flights := [] } = f u) : f (launch j l true s).sch = f (schArm j l s.sch) := by
      rw [hcs, hkept.sch_eq hf, hfr]
    refine ⟨?_, fun _ => ⟨hsch fun _ => rfl, hsch fun _ => rfl, hsch fun _ => rfl⟩⟩
    rw [hcs, hkept.job, hfr]
    exact job_launched hwf

/-- A launch without SCHED. -/
theorem launch_plain_keeps {j l : Nat} {s : State} (hwf : s.Wf) :
    (launch j l false s).sch = s.sch ∧ (∀ n, newt (launch j l false s) n = newtFresh (newt s n)) ∧
    (launch j l false s).colls = s.colls ∧ (∀ k, k ≠ j → job (launch j l false s) k = job s k) := by
  rw [launch_plain]
  refine ⟨by simp [modJob], fun n => ?_, by simp [modJob], fun k hk => ?_⟩
  · rw [newt, newt]
    simp only [jobState_newts]
    exact tget_map_value ({} : Newt) newtFresh rfl s.newts n
  · exact (job_jobState_other (setJob_jobs_sorted j _ hwf.jobs_sorted) hk).trans (job_setJob_other _ _ _ _ hwf.jobs_sorted hk)

/-- JOB_LAUNCH. -/
theorem exec_jobLaunch {i : Fin 256} {s : State} (hrun : runnable 0x21 i.val s = true) :
    let m := mslot s i.val
    let sched := bitOf (req m 16 1) 0
    (∀ c, launchFails s (req m 0 8) (req m 8 8) sched = some c →
      exec (.jobLaunch i) s = .next (cmdFailWith i.val (launchOcc i.val c (req m 8 8) s) s)) ∧
    (∀ j, launchFails s (req m 0 8) (req m 8 8) sched = none → jobOf (req m 0 8) s = some j →
      exec (.jobLaunch i) s =
        .next (cmdDone i.val (leBytes 8 (croak s) ++ leBytes 8 (req m 8 8)) (launch j (req m 8 8) sched s))) := by
  intro m sched
  have hexec : exec (.jobLaunch i) s = .next (jobLaunch i.val m s) := exec_onSlot _ hrun
  rw [hexec]
  refine ⟨fun c hc => ?_, fun j hok hj => ?_⟩
  · rw [jobLaunch, hc]
  · rw [jobLaunch, hok, hj]
    rfl

/-! JOB_ABORT. -/

theorem exec_jobAbort {i : Fin 256} {s : State} (hrun : runnable 0x22 i.val s = true) :
    let m := mslot s i.val
    (jobOf (req m 0 8) s = none → exec (.jobAbort i) s = .next (cmdFail i.val 0x0109 s)) ∧
    (∀ j, jobOf (req m 0 8) s = some j → (job s j).state = .ended → exec (.jobAbort i) s = .next (cmdFail i.val 0x0108 s)) ∧
    (∀ j, jobOf (req m 0 8) s = some j → (job s j).state = .opened → heldCkpts i.val (req m 0 8) s = [] →
      bitOf (req m 11 1) 0 = false → req m 8 3 = 0 →
      exec (.jobAbort i) s = .next (cmdDone i.val (rp 16 []) (jobEnd j (modJob j (fun v => { v with stopped := true }) s)))) := by
  intro m
  have hexec : exec (.jobAbort i) s = .next (jobAbort i.val m s) := exec_onSlot _ hrun
  rw [hexec]
  refine ⟨fun hj => ?_, fun j hj hended => ?_, fun j hj hopen hck hmode hall => ?_⟩
  · rw [jobAbort, hj]
  · simp [jobAbort, hj, hended]
  · simp [jobAbort, hj, hopen, hck, hmode, hall, abortJob]

/-! ADOPT. -/

/-- The owner of the chip, its epoch and its heartbeat, the event ring and the host's memory. -/
def hostFace (s : State) : HifState × Nat × Nat × Bool × Mem := (s.hif.state, s.hif.epoch, s.hif.lastBeat, s.hif.evGiven, s.hostMem)

theorem vector_hostFace (v : Nat) (s : State) : hostFace (vector v s) = hostFace s := by
  unfold vector
  split
  · rfl
  · split <;> rfl

theorem pushEvent_hostFace (typ : Nat) (data : List Byte) (s : State) : hostFace (pushEvent typ data s) = hostFace s := by
  unfold pushEvent
  dsimp only
  split <;> rfl

theorem rasFirst_hostFace (c : Nat) (s : State) : hostFace (rasFirst c s) = hostFace s := by
  have hev : hostFace (rasEvent c s) = hostFace s := by
    unfold rasEvent
    split
    · exact pushEvent_hostFace 3 _ s
    · rfl
  have hirq (t : State) : hostFace (rasIrq c t) = hostFace t := by
    unfold rasIrq
    split
    · exact vector_hostFace 449 t
    · rfl
  unfold rasFirst
  dsimp only
  split <;> split <;> simp [hev, hirq]

theorem rasRecord_hostFace (o : Occ) (s : State) : hostFace (rasRecord o s) = hostFace s := by
  have hlog (t : State) : hostFace (rasLog o t) = hostFace t := by simp [hostFace]
  have hlogs (t : State) : hostFace (if rasWrites o.code t then rasLog o t else t) = hostFace t := by
    split
    · exact hlog t
    · rfl
  have hamend (t u : State) : hostFace (if rasWrites o.code t then eventAmend o.code u else u) = hostFace u := by
    unfold eventAmend
    dsimp only
    split
    · split <;> rfl
    · rfl
  unfold rasRecord
  dsimp only
  split
  · split
    · rw [hamend, hlogs]
      rfl
    · rw [rasFirst_hostFace, hlogs]
      rfl
  · rfl

theorem raise_hostFace (o : Occ) (s : State) : hostFace (raise o s) = hostFace s := by
  have hbit : hostFace (stickyBit o.code s) = hostFace s := by
    unfold stickyBit
    dsimp only
    repeat' split
    all_goals rfl
  have hmark (t : State) : hostFace (freshMark (stickyKey o) t) = hostFace t := by
    unfold freshMark
    split <;> rfl
  unfold raise
  split
  · rw [rasRecord_hostFace, hmark, hbit]
  · rfl

theorem foldl_hostFace {α : Type} {f : State → α → State} (h : ∀ s a, hostFace (f s a) = hostFace s) (l : List α) (s : State) :
    hostFace (l.foldl f s) = hostFace s := by
  induction l generalizing s with
  | nil => rfl
  | cons a r ih => exact (ih _).trans (h s a)

theorem lovStore_hostFace (a : Nat) (bs : List Byte) (s : State) : hostFace (lovStore a bs s) = hostFace s :=
  foldl_hostFace (fun t b => by rw [stkUe]; exact raise_hostFace _ (modStack _ _ t)) _ _

theorem bufFree_hostFace (b : Buf) (s : State) : hostFace (bufFree b s) = hostFace s := by
  unfold bufFree
  dsimp only
  split
  · exact lovStore_hostFace b.addr _ _
  · rfl

theorem freeOwned_hostFace (r : Nat) (s : State) : hostFace (freeOwned r s) = hostFace s :=
  foldl_hostFace (fun t b => bufFree_hostFace b t) _ s

/-- The interface and the jobs as an ADOPT takes them over, before any buffer is freed. -/
def adopted (s : State) : State := { s with
  jobs := s.jobs.map (fun e => (e.1, { e.2 with ringGiven := e.2.ringGiven && e.2.held.isEmpty }))
  hif := { s.hif with state := .owned, epoch := (s.hif.epoch + 1) % 2 ^ 32, lastBeat := croak s,
                      evGiven := s.hif.evGiven && s.hif.held.isEmpty } }

theorem adoptTake_hostFace (keep : Bool) (s : State) : hostFace (adoptTake keep s) = hostFace (adopted s) := by
  have hlog (t : State) : hostFace (logOpen 1 5 t) = hostFace t := by simp [hostFace]
  rw [adoptTake]
  refine (hlog _).trans ?_
  split
  · rfl
  · exact foldl_hostFace (fun t c => freeOwned_hostFace c t) _ (adopted s)

theorem adoptTake_still (keep : Bool) (s : State) : Still (adopted s) (adoptTake keep s) := by
  have hlog (t : State) : Still t (logOpen 1 5 t) := by simp [Still]
  rw [adoptTake]
  exact .trans (.ite rfl (.foldl (fun t c => freeOwned_still c t) _ (adopted s))) (hlog _)

theorem adoptTake_keep_pool (s : State) : (adoptTake true s).pool = s.pool := logOpen_pool 1 5 (adopted s)

theorem adoptOver_of_ruled {s : State} (h : ∀ e ∈ s.hif.slots, e.2.unruled = false) : adoptOver s = s := by
  have hnone : s.hif.slots.filter (fun e => e.2.unruled) = [] := List.filter_eq_nil_iff.mpr (fun e he => by simp [h e he])
  rw [adoptOver, hnone]
  rfl

/-- The reply of an ADOPT that has succeeded to `t`. -/
def adoptReply (s t : State) : List Byte :=
  rp 16 (leBytes 4 t.hif.epoch ++ leBytes 2 (openJobs s).length ++ zeros 2 ++
    leBytes 4 (((openJobs s).map (fun j => (job s j).held.length)).sum) ++ leBytes 4 (orphanMs s))

theorem adoptReply_epoch {s t : State} (h : t.hif.epoch < 2 ^ 32) : fieldAt (adoptReply s t) 0 4 = t.hif.epoch := by
  rw [adoptReply, rp_of_length (by simp [zeros])]
  simp only [List.append_assoc]
  exact (fieldAt_leBytes (p := []) rfl rfl).trans (Nat.mod_eq_of_lt h)

theorem exec_adopt {i : Fin 256} {ok : Bool} {s : State} (hrun : runnable 0x90 i.val s = true) :
    let m := mslot s i.val
    let mine := req m 0 4 = s.hif.epoch ∨ (s.hif.state = .unowned ∧ req m 0 4 = 0)
    (¬ mine → exec (.adopt i ok) s = .next (adoptOver (cmdFail i.val 0x0104 s))) ∧
    (mine → req m 8 8 % 64 = 0 → (adoptReport s).length ≤ req m 16 8 → ok = false →
      exec (.adopt i ok) s = .next (adoptOver (cmdFail i.val 0x0110 s))) ∧
    (mine → req m 8 8 % 64 = 0 → (adoptReport s).length ≤ req m 16 8 → ok = true →
      let t := hostWrite (req m 8 8) (adoptReport s) (adoptTake (bitOf (req m 4 1) 0) s)
      exec (.adopt i ok) s = .next (adoptOver (cmdDone i.val (adoptReply s t) t))) := by
  intro m mine
  have hexec : exec (.adopt i ok) s = .next (adoptOver (adopt i.val ok m s)) := exec_onSlot (fun m t => adoptOver (adopt i.val ok m t)) hrun
  rw [hexec]
  have hrefuse : (!(req m 0 4 == s.hif.epoch) && !(s.hif.state == .unowned && req m 0 4 == 0)) = true ↔ ¬ mine := by
    simp only [mine, Bool.and_eq_true, Bool.not_eq_true', Bool.and_eq_false_iff, beq_eq_false_iff_ne]
    tauto
  refine ⟨fun hno => ?_, fun hmine hal hfit hok => ?_, fun hmine hal hfit hok => ?_⟩
  · rw [adopt, if_pos (hrefuse.mpr hno)]
  all_goals
    rw [adopt, if_neg (fun h => hrefuse.mp h hmine)]
    refine congrArg (fun t => Host.Outcome.next (adoptOver t)) ((aligned64_of_mod _ _ _ hal).trans ?_)
    rw [if_neg (Nat.not_lt.mpr hfit), hok]
    rfl

/-- Settles O31: each command by the equation of its cases, and the frames of a launch, of a job's end and of the take-over. -/
theorem jobCommands : Obligations.JobCommands := by
  unfold Obligations.JobCommands
  refine ⟨fun i s hwf hrun => ?_, fun i s hrun => ?_, fun i s hrun => ?_, fun i ok s hrun => ?_⟩
  · obtain ⟨hfull, hnew⟩ := exec_jobOpen_new hwf hrun
    refine ⟨hfull, fun j hre hfree hal => ?_, fun j hre hj hal hheld => ?_⟩
    · obtain ⟨t, hexec, hjob, hnext, hrest⟩ := hnew j hre hfree hal
      obtain ⟨hlt, hstate⟩ := freeJob_some hfree
      refine ⟨t, _, hexec, by rw [hjob], hstate, by rw [hjob]; rfl, by rw [hjob]; rfl, by rw [hjob]; rfl, by rw [hjob]; rfl,
        by rw [hjob]; rfl, by rw [hjob]; rfl, by rw [hjob]; rfl, by rw [hjob]; rfl, hnext, openReply_handle j t, ?_, hrest⟩
      rw [openReply_slot, Nat.mod_eq_of_lt (by omega)]
    · obtain ⟨t, hexec, hjob, hrest⟩ := exec_jobOpen_reattach hwf hrun hre hj hal hheld
      exact ⟨t, _, hexec, hjob, hrest, openReply_slot j t⟩
  · obtain ⟨hfails, hgoes⟩ := exec_jobLaunch hrun
    refine ⟨hfails, fun j hok hj => ⟨hgoes j hok hj, ?_, fun hwf => ?_⟩⟩
    · rintro hwf -
      exact launch_plain_keeps hwf
    · obtain ⟨hjob, hsch⟩ := launch_armed (j := j) (l := req (mslot s i.val) 8 8) (sched := bitOf (req (mslot s i.val) 16 1) 0) hwf
      exact ⟨by rw [hjob], by rw [hjob]; rfl, by rw [hjob]; rfl, hsch⟩
  · obtain ⟨hnone, hended, hopen⟩ := exec_jobAbort hrun
    refine ⟨hnone, hended, fun j hwf hj hstate hck hmode hall => ⟨_, hopen j hj hstate hck hmode hall, ?_⟩⟩
    obtain ⟨⟨_, _, _, _, hend⟩, hrest, -⟩ := jobEnd_job j (setJob_jobs_sorted j { job s j with stopped := true } hwf.jobs_sorted)
    rw [job_setJob _ _ _ hwf.jobs_sorted] at hend
    exact ⟨by rw [modJob, hend], by rw [modJob, hend], fun k hk => (hrest k hk).trans (job_setJob_other _ _ _ _ hwf.jobs_sorted hk)⟩
  · obtain ⟨hother, hbus, htake⟩ := exec_adopt (ok := ok) hrun
    refine ⟨hother, hbus, adoptOver_of_ruled, fun hmine hal hfit hok => ⟨_, _, htake hmine hal hfit hok, ?_⟩⟩
    obtain ⟨hjobs, hnewts, -, -⟩ := (adoptTake_still (bitOf (req (mslot s i.val) 4 1) 0) s).parts
    have hface := adoptTake_hostFace (bitOf (req (mslot s i.val) 4 1) 0) s
    simp only [hostFace, Prod.mk.injEq] at hface
    obtain ⟨hstate, hepoch, hbeat, hgiven, hmem⟩ := hface
    have hlt : (s.hif.epoch + 1) % 2 ^ 32 < 2 ^ 32 := Nat.mod_lt _ (by decide)
    refine ⟨hstate, hepoch, hbeat, adoptReply_epoch (by rw [hostWrite_hif, hepoch]; exact hlt), ?_, hnewts, hjobs, hgiven, fun hkeep => ?_⟩
    · exact congrArg (fun x => memWrite x _ _) hmem
    · rw [hkeep]
      exact adoptTake_keep_pool s

end Sys2Proof.Machine
end

section
/-! PROOF. Checkpoints and posts (R137 to R140, R213, R215, R433, R434), and the obligation CheckpointAndPost. -/

namespace Sys2Proof.Machine

/-! JOB_CHECKPOINT (R213). -/

theorem exec_jobCheckpoint {i : Fin 256} {s : State} (hrun : runnable 0x23 i.val s = true) :
    let m := mslot s i.val
    (jobOf (req m 0 8) s = none → exec (.jobCheckpoint i) s = .next (cmdFail i.val 0x0109 s)) ∧
    (∀ j, jobOf (req m 0 8) s = some j →
      (job s j).sched = false ∨ (job s j).stopped = true ∨ ((job s j).state ≠ .armed ∧ (job s j).state ≠ .running) →
      exec (.jobCheckpoint i) s = .next (cmdFail i.val 0x0109 s)) ∧
    (∀ j, jobOf (req m 0 8) s = some j → (job s j).sched = true → (job s j).stopped = false →
      (job s j).state = .armed ∨ (job s j).state = .running →
      (hostRange s (req m 8 8) (req m 16 8) = false → exec (.jobCheckpoint i) s = .next (cmdFail i.val 0x010F s)) ∧
      (hostRange s (req m 8 8) (req m 16 8) = true → exec (.jobCheckpoint i) s =
        .next (setMslot i.val { m with work := .waiting } (setJob j { job s j with
          ckptPending := some i.val, ckptAddr := req m 8 8, ckptLimit := req m 16 8 } s)))) := by
  intro m
  have hexec : exec (.jobCheckpoint i) s = .next (ckptBegin i.val m s) := exec_onSlot _ hrun
  rw [hexec]
  refine ⟨fun hj => ?_, fun j hj hbad => ?_, fun j hj hsched hstop hstate => ⟨fun hr => ?_, fun hr => ?_⟩⟩
  · rw [ckptBegin, hj]
  · have hno : (!(job s j).sched) = true ∨ (job s j).stopped = true ∨
        (!((job s j).state == .armed || (job s j).state == .running)) = true := by simpa using hbad
    rw [ckptBegin, hj]
    exact congrArg Host.Outcome.next (if_pos hno)
  all_goals
    have hyes : ¬ ((!(job s j).sched) = true ∨ (job s j).stopped = true ∨
        (!((job s j).state == .armed || (job s j).state == .running)) = true) := by
      simpa [hsched, hstop, or_iff_not_imp_left] using hstate
    rw [ckptBegin, hj]
    refine congrArg Host.Outcome.next ((if_neg hyes).trans ?_)
    rw [hr]
    rfl

/-! PAUSE_REQUEST. -/

/-- What asks the span to pause. -/
def pauseAsked (s : State) : State := sampleAgain (modSch (fun u => { u with pausePend := true }) s)

theorem pauseAsked_eq (s : State) : pauseAsked s = { s with sch := { s.sch with
    pausePend := true
    fbl62 := if s.sch.state = .run ∧ s.sch.sampled = some s.sch.jp
      then epochBytes s.sch.fbl62 (s.therm.want + 4 + 8 * ((s.sch.epoch + 1) % 32)) else s.sch.fbl62 } } := by
  rw [pauseAsked, sampleAgain]
  by_cases h : s.sch.state = .run ∧ s.sch.sampled = some s.sch.jp
  · rw [if_pos h, if_pos (by exact h)]
    rfl
  · rw [if_neg h, if_neg (by exact h)]
    rfl

/-- Every posted collective of the job has reported. -/
theorem exec_pauseRequest {j : Nat} {s : State} (hup : up s = true) (hj : s.sch.job = some j)
    (hck : (job s j).ckptPending.isSome = true) (hstate : s.sch.state = .run ∨ s.sch.state = .frozen ∨ s.sch.state = .armed) :
    ((∀ e ∈ jobColls s j, e.2.posted = true → e.2.reported = true) → exec .pauseRequest s = .next (pauseAsked s)) ∧
    ((∃ e ∈ jobColls s j, e.2.posted = true ∧ e.2.reported = false) → exec .pauseRequest s = .next s) := by
  have hexec : exec .pauseRequest s = .next (pauseRequest s) := whenUp_of_up _ hup
  rw [hexec, pauseRequest, hj]
  refine ⟨fun hall => ?_, fun ⟨e, he, hposted, hrep⟩ => ?_⟩
  · have hyes : (jobColls s j).all (fun e => !e.2.posted || e.2.reported) = true :=
      List.all_eq_true.mpr (fun e he => by simpa [or_iff_not_imp_left] using hall e he)
    exact congrArg Host.Outcome.next (if_pos ⟨hck, hstate, hyes⟩)
  · have hno : ¬ (jobColls s j).all (fun e => !e.2.posted || e.2.reported) = true := fun hall => by
      have := List.all_eq_true.mp hall e he
      simp [hposted, hrep] at this
    exact congrArg Host.Outcome.next (if_neg fun h => hno h.2.2)

/-! CHECKPOINT_WRITE. -/

theorem exec_checkpointWrite {i : Fin 256} {j : Nat} {s : State} (hup : up s = true) (hj : s.sch.job = some j)
    (hck : (job s j).ckptPending = some i.val) (hstate : s.sch.state = .paused)
    (hrest : ∀ n ∈ scheduledNewts s, (newt s n).pausePend = false ∧ (newt s n).inflight = []) :
    let c := checkpoint s j
    let t := setJob j { job s j with ckptPending := none } s
    ((job s j).ckptLimit < c.length → exec (.checkpointWrite i) s = .next (cmdFail i.val 0x0114 t)) ∧
    (c.length ≤ (job s j).ckptLimit → exec (.checkpointWrite i) s =
      .next (cmdDone i.val (rp 16 (leBytes 8 c.length ++ leBytes 8 s.sch.epoch)) (lovStore (job s j).ckptAddr c t))) := by
  intro c t
  have hexec : exec (.checkpointWrite i) s = .next (checkpointWrite i.val s) := whenUp_of_up _ hup
  have hquiet : (scheduledNewts s).any (fun n => (newt s n).pausePend || !(newt s n).inflight.isEmpty) = false := by
    rw [List.any_eq_false]
    intro n hn
    simp [hrest n hn]
  have hgo : ¬ ((job s j).ckptPending ≠ some i.val ∨ s.sch.state ≠ .paused ∨
      (scheduledNewts s).any (fun n => (newt s n).pausePend || !(newt s n).inflight.isEmpty) = true) := by
    simp [hck, hstate, hquiet]
  rw [hexec, checkpointWrite, hj]
  refine ⟨fun hlong => congrArg Host.Outcome.next ?_, fun hfit => congrArg Host.Outcome.next ?_⟩
  · exact (if_neg hgo).trans (if_pos hlong)
  · exact (if_neg hgo).trans (if_neg (Nat.not_lt.mpr hfit))

/-! JOB_RESUME (R215, R433). -/

/-- What a checkpoint's sections do not restore of the job in slot `j`. -/
def jobCore (v : Job) : Word × Word × Bool × Nat := (v.handle, v.seed, v.sched, v.launchL)

/-- A part of a checkpoint has been restored: the schedule unit stays, and the core of the job in slot `j`. -/
structure Restored (j : Nat) (s t : State) : Prop where
  sorted : tsorted s.jobs → tsorted t.jobs
  core : tsorted s.jobs → jobCore (job t j) = jobCore (job s j)
  sch : t.sch = s.sch

theorem Restored.of_eq {j : Nat} {s t : State} (h : (t.jobs, t.sch) = (s.jobs, s.sch)) : Restored j s t := by
  obtain ⟨hjobs, hsch⟩ := Prod.mk.inj h
  exact ⟨fun hs => hjobs ▸ hs, fun _ => by rw [job, hjobs]; rfl, hsch⟩

theorem Restored.trans {j : Nat} {s t u : State} (h : Restored j s t) (g : Restored j t u) : Restored j s u where
  sorted hs := g.sorted (h.sorted hs)
  core hs := (g.core (h.sorted hs)).trans (h.core hs)
  sch := g.sch.trans h.sch

theorem Restored.foldl {α : Type} {f : State → α → State} {j : Nat} (h : ∀ s a, Restored j s (f s a)) (l : List α) (s : State) :
    Restored j s (l.foldl f s) := by
  induction l generalizing s with
  | nil => exact .of_eq rfl
  | cons a r ih => exact (h s a).trans (ih _)

theorem Restored.modJob {j : Nat} {f : Job → Job} (hf : ∀ v, jobCore (f v) = jobCore v) (s : State) : Restored j s (modJob j f s) where
  sorted hs := setJob_jobs_sorted j _ hs
  core hs := by rw [Machine.modJob, job_setJob _ _ _ hs, hf]
  sch := rfl

theorem ckObj_restored (j o : Nat) (b : List Byte) (s : State) : Restored j s (ckObj o b s) := by
  unfold ckObj
  extract_lets _ v s1 l out leaf s2
  have h1 : Restored j s s1 := .of_eq rfl
  have h2 : Restored j s s2 := .of_eq rfl
  split
  · exact h1
  · split
    · exact h2.trans (.of_eq rfl)
    · exact h2

theorem ckDigest_restored (j c : Nat) (tiles : Table (List Byte)) (s : State) : Restored j s (ckDigest j c tiles s) := by
  unfold ckDigest
  split
  · exact .of_eq rfl
  · refine .modJob (fun _ => ?_) s
    rfl

theorem ckRestore_restored (j epoch : Nat) (s : State) (x : CkSec) : Restored j s (ckRestore j epoch s x) := by
  unfold ckRestore
  split
  · exact .of_eq rfl
  · exact ckObj_restored j _ _ s
  · refine .modJob (fun _ => ?_) s
    rfl
  · exact ckDigest_restored j _ _ s

theorem ckColls_restored (j k : Nat) (s : State) : Restored k s (ckColls j s) :=
  .foldl (f := fun (t : State) (e : Nat × Coll) => setColl e.1 (if ckReported s e.1 e.2 then { e.2 with reported := true, state := .completed } else e.2) t)
    (fun _ _ => .of_eq rfl) _ s

/-- The job that a resume arms, before its checkpoint's sections. -/
def jobResumed (l : Nat) (c : List Byte) (s : State) (v : Job) : Job :=
  { v with
    sched := true, launched := true, launchL := l, lastL := l, firstL := if v.state == .opened then l else v.firstL
    snaps := if v.state == .opened then snapAll s else v.snaps, touched := if v.state == .opened then [] else v.touched
    seed := BitVec.ofNat 64 (fieldAt c 112 8), resumed := true, resumes := (fieldAt c 108 4 + 1) % 2 ^ 32 }

/-- The state of a resume before its checkpoint's sections are restored. -/
def resumeStart (j l : Nat) (c : List Byte) (s : State) : State :=
  let s1 := setJob j (jobResumed l c s (job s j)) s
  { s1 with
    newts := s1.newts.map (fun e => (e.1, newtLaunch e.2))
    sch := { schArm j l s1.sch with
      epoch := ckEpoch c, jp := epochPad s1 (ckEpoch c), epochStart := epochPad s1 (ckEpoch c), level := min 2 (ckLevel c), lastLevel := min 2 (ckLevel c)
      slipPads := fieldAt c 96 8, slipEvents := fieldAt c 104 4 } }

/-- A resume restores its sections, arms the job and looks at the member ports of its collectives. -/
theorem resumeJob_eq (j l : Nat) (c : List Byte) (s : State) : ∃ t, Restored j (resumeStart j l c s) t ∧
    JobsKept (jobState j .armed t) (resumeJob j l c s) := by
  let fresh := (job s j).state == .opened
  let s3 := ((ckSections c).filter (fun x => x.typ != 4)).foldl (ckRestore j (ckEpoch c)) (resumeStart j l c s)
  let s4 := if fresh then ckColls j s3 else s3
  let t := ((ckSections c).filter (fun x => x.typ == 4)).foldl (ckRestore j (ckEpoch c)) s4
  have heq : resumeJob j l c s = if fresh then memberCheck ((logicColls (jobState j .armed t) j).map (·.1)) (jobState j .armed t)
      else jobState j .armed t := rfl
  have h3 : Restored j (resumeStart j l c s) s3 := .foldl (ckRestore_restored j _) _ _
  have h4 : Restored j s3 s4 := by
    show Restored j s3 (if fresh then ckColls j s3 else s3)
    split
    · exact ckColls_restored j j s3
    · exact .of_eq rfl
  refine ⟨t, (h3.trans h4).trans (.foldl (ckRestore_restored j _) _ _), ?_⟩
  rw [heq]
  exact .ite (memberCheck_jobsKept _ _) (.refl _)

theorem resumeJob_armed {j l : Nat} {c : List Byte} {s : State} (hs : tsorted s.jobs) :
    (job (resumeJob j l c s) j).state = .armed ∧
    jobCore (job (resumeJob j l c s) j) = ((job s j).handle, BitVec.ofNat 64 (fieldAt c 112 8), true, l) ∧
    (resumeJob j l c s).sch.state = .armed ∧ (resumeJob j l c s).sch.job = some j ∧ (resumeJob j l c s).sch.launchL = l ∧
    (resumeJob j l c s).sch.epoch = ckEpoch c := by
  obtain ⟨t, ht, hkept⟩ := resumeJob_eq j l c s
  have h0 : tsorted (resumeStart j l c s).jobs := setJob_jobs_sorted j _ hs
  have hsch : (jobState j .armed t).sch = (resumeStart j l c s).sch := (jobState_sch _ _ _).trans ht.sch
  have hjob : job (resumeStart j l c s) j = jobResumed l c s (job s j) := job_setJob j _ s hs
  refine ⟨?_, ?_, ?_, ?_, ?_, ?_⟩
  · rw [hkept.job, job_jobState (ht.sorted h0)]
  · have hcore := ht.core h0
    rw [hkept.job, job_jobState (ht.sorted h0)]
    exact hcore.trans (by rw [hjob]; rfl)
  · rw [hkept.sch_eq (f := Sch.state) fun _ => rfl, hsch]
    rfl
  · rw [hkept.sch_eq (f := Sch.job) fun _ => rfl, hsch]
    rfl
  · rw [hkept.sch_eq (f := Sch.launchL) fun _ => rfl, hsch]
    rfl
  · rw [hkept.sch_eq (f := Sch.epoch) fun _ => rfl, hsch]
    rfl

theorem unlessPoison_of_some {i a n p : Nat} {s : State} (f : State → State) (h : poisonAt s a n = some p) :
    unlessPoison i a n f s = reply i 0x0D01 [] (stkUe p s) := by rw [unlessPoison, h]

theorem unlessPoison_of_none {i a n : Nat} {s : State} (f : State → State) (h : poisonAt s a n = none) :
    unlessPoison i a n f s = f s := by rw [unlessPoison, h]

section Resume

variable {i : Fin 256} {s : State} (hrun : runnable 0x24 i.val s = true)
include hrun

theorem exec_jobResume : exec (.jobResume i) s = .next (jobResume i.val (mslot s i.val) s) := exec_onSlot _ hrun

/-- A resume fails before its checkpoint is read. -/
theorem exec_jobResume_early :
    let m := mslot s i.val
    let a := req m 8 8
    (∀ p, resumeFails s (req m 0 8) a = some 0x010F → ckHeadPoison s a = some p →
      exec (.jobResume i) s = .next (reply i.val 0x0D01 [] (stkUe p s))) ∧
    (∀ c, resumeFails s (req m 0 8) a = some c → c ≠ 0x010F ∨ ckHeadPoison s a = none →
      exec (.jobResume i) s = .next (cmdFailWith i.val (launchOcc i.val c (req m 16 8) s) s)) := by
  intro m a
  rw [exec_jobResume hrun]
  refine ⟨fun p hfail hp => ?_, fun c hfail hc => ?_⟩
  · rw [jobResume, hfail]
    dsimp only
    rw [if_pos rfl, hp]
  · rw [jobResume, hfail]
    have hnone : (if c = 0x010F then ckHeadPoison s a else none) = none := by
      rcases hc with hc | hp
      · exact if_neg hc
      · rw [hp, ite_self]
    dsimp only
    rw [hnone]

/-- A resume whose first checks pass. -/
theorem exec_jobResume_read {n : Nat} (hok : resumeFails s (req (mslot s i.val) 0 8) (req (mslot s i.val) 8 8) = none)
    (hn : ckLength s (req (mslot s i.val) 8 8) = some n) :
    let m := mslot s i.val
    let a := req m 8 8
    (∀ p, poisonAt s a n = some p → exec (.jobResume i) s = .next (reply i.val 0x0D01 [] (stkUe p s))) ∧
    (poisonAt s a n = none →
      (∀ c, resumeRefused s (lovRead s a n) (req m 16 8) = some c →
        exec (.jobResume i) s = .next (cmdFailWith i.val (launchOcc i.val c (req m 16 8) s) s)) ∧
      (∀ j, resumeRefused s (lovRead s a n) (req m 16 8) = none → jobOf (req m 0 8) s = some j →
        exec (.jobResume i) s = .next (cmdDone i.val (leBytes 8 (croak s) ++ leBytes 8 (ckEpoch (lovRead s a n)))
          (resumeJob j (req m 16 8) (lovRead s a n) s)))) := by
  intro m a
  rw [exec_jobResume hrun, jobResume, hok]
  dsimp only
  rw [hn, Option.getD_some]
  refine ⟨fun p hp => congrArg Host.Outcome.next (unlessPoison_of_some _ hp), fun hclean => ?_⟩
  rw [unlessPoison_of_none _ hclean]
  refine ⟨fun c hc => ?_, fun j hgo hj => ?_⟩
  · rw [hc]
  · rw [hgo, hj]
    rfl

end Resume

/-! COLL_POST (R137 to R140, R434). -/

theorem postMessages_still (c : Nat) (d : List Byte) (o : PostObjs) (s : State) : Still s (postMessages c d o s) := by
  unfold postMessages
  dsimp only
  split
  · exact mgmt_still _ _ _ s
  · split
    · exact .refl s
    · exact .ite (.foldl (fun t ch => mgmt_still _ ch _ t) _ s) (.refl s)

theorem postCompare_jobsKept (h : HeardPost) (s : State) : JobsKept s (postCompare h s) := .ite (.refl s) (abortReq_jobsKept _ _ _ s)

theorem postsHeard_jobsKept (s : State) : JobsKept s (postsHeard s) := by
  let t : State := { s with fw := { s.fw with posts := s.fw.posts.filter (fun h => !postMatches s h) } }
  have hfold : JobsKept t (postsHeard s) := .foldl (f := fun t h => postCompare h t) (fun t h => postCompare_jobsKept h t) _ t
  exact (JobsKept.of_eq (s := s) (t := t) rfl).trans hfold

/-- The chip's state after an accepted post. -/
def postTaken (c j : Nat) (d : List Byte) (o : PostObjs) (s : State) : State :=
  memberCheck [c] (postsHeard (postMessages c d o (setColl c (postColl s j d o) s)))

/-- The collective of a post is known under its job (R140). -/
theorem postTaken_coll {c j : Nat} {d : List Byte} {o : PostObjs} {s : State} (hs : tsorted s.colls) :
    posting (coll (postTaken c j d o s) c) = (j, true, d, o.group, commitChipOf d o.group) := by
  have hkept : JobsKept (setColl c (postColl s j d o) s) (postTaken c j d o s) :=
    ((postMessages_still c d o _).jobsKept.trans (postsHeard_jobsKept _)).trans (memberCheck_jobsKept [c] _)
  rw [hkept.coll (tsorted_tset _ hs _ _), coll_setColl _ _ _ hs]
  rfl

/-- The reply of a post. -/
def postReply (c chip : Nat) (s : State) : List Byte :=
  rp 16 (leBytes 3 c ++ zeros 1 ++ leBytes 2 chip ++ zeros 2 ++ leBytes 8 (croak s))

theorem postReply_fields (c chip : Nat) (s : State) :
    fieldAt (postReply c chip s) 0 3 = c % 2 ^ 24 ∧ fieldAt (postReply c chip s) 4 2 = chip % 65536 ∧
    fieldAt (postReply c chip s) 8 8 = croak s % 2 ^ 64 := by
  rw [postReply, rp_of_length (by simp [zeros])]
  generalize List.replicate _ (0 : Byte) = z
  simp only [List.append_assoc]
  refine ⟨fieldAt_leBytes (p := []) rfl rfl, ?_, ?_⟩
  · exact fieldAt_leBytes (p := leBytes 3 c ++ zeros 1) (by rw [List.append_assoc]) (by simp [zeros])
  · exact fieldAt_leBytes (p := leBytes 3 c ++ (zeros 1 ++ (leBytes 2 chip ++ zeros 2))) (r := z) (by simp only [List.append_assoc]) (by simp [zeros])

theorem leNat_lt (bs : List Byte) : leNat bs < 256 ^ bs.length := by
  induction bs with
  | nil => exact Nat.one_pos
  | cons b r ih =>
    have hb : b.toNat < 256 := b.isLt
    rw [leNat, List.length_cons, Nat.pow_succ]
    omega

theorem fieldAt_lt (bs : List Byte) (off n : Nat) : fieldAt bs off n < 256 ^ n := by
  have h := leNat_lt (slice bs off n)
  rwa [show (slice bs off n).length = n by simp only [slice, List.length_append, List.length_replicate, List.length_take]; omega] at h

section Post

variable {i : Fin 256} {s : State} (hrun : runnable 0x30 i.val s = true)
include hrun

theorem exec_collPost : exec (.collPost i) s = .next (collPost i.val (mslot s i.val) s) := exec_onSlot _ hrun

/-- A post that its first checks refuse. -/
theorem exec_collPost_refused {c : Nat} (hfail : postFails s (req (mslot s i.val) 0 8) (fieldAt (postDesc (mslot s i.val)) 0 3) = some c) :
    exec (.collPost i) s = .next (if c = 0x0408 then cmdFailWith i.val (launchOcc i.val c 0 s) s else cmdFail i.val c s) := by
  rw [exec_collPost hrun, collPost, hfail]

variable (hok : postFails s (req (mslot s i.val) 0 8) (fieldAt (postDesc (mslot s i.val)) 0 3) = none)
include hok

theorem exec_collPost_ranges (hr : postRanges s (postDesc (mslot s i.val)) = none) : exec (.collPost i) s = .next (cmdFail i.val 0x010F s) := by
  rw [exec_collPost hrun, collPost, hok, hr]

theorem exec_collPost_poison {rs : List (Nat × Nat)} {r : Nat × Nat} {p : Nat} (hr : postRanges s (postDesc (mslot s i.val)) = some rs)
    (hfind : rs.find? (fun r => poisoned s r.1 r.2) = some r) (hp : poisonAt s r.1 r.2 = some p) :
    exec (.collPost i) s = .next (reply i.val 0x0D01 [] (stkUe p s)) := by
  rw [exec_collPost hrun, collPost, hok, hr]
  dsimp only
  rw [hfind]
  exact congrArg Host.Outcome.next (unlessPoison_of_some _ hp)

/-- A post whose objects are clean. -/
theorem exec_collPost_read {rs : List (Nat × Nat)} {j : Nat} (hr : postRanges s (postDesc (mslot s i.val)) = some rs)
    (hclean : ∀ r ∈ rs, poisoned s r.1 r.2 = false) (hj : jobOf (req (mslot s i.val) 0 8) s = some j) :
    let d := postDesc (mslot s i.val)
    let o := postObjs s d rs
    (∀ c, postCheck s j d o = some c → exec (.collPost i) s = .next (cmdFail i.val c s)) ∧
    (postCheck s j d o = none → exec (.collPost i) s =
      .next (cmdDone i.val (postReply (fieldAt d 0 3) (commitChipOf d o.group) s) (postTaken (fieldAt d 0 3) j d o s))) := by
  intro d o
  have hfind : rs.find? (fun r => poisoned s r.1 r.2) = none := List.find?_eq_none.mpr (fun r hr => by simp [hclean r hr])
  rw [exec_collPost hrun, collPost, hok, hr]
  dsimp only
  rw [hfind, hj]
  refine ⟨fun c hc => ?_, fun hgo => ?_⟩
  · have hc' : postCheck s ((some j).getD 0) (postDesc (mslot s i.val)) (postObjs s (postDesc (mslot s i.val)) rs) = some c := hc
    simp only [hc']
  · have hgo' : postCheck s ((some j).getD 0) (postDesc (mslot s i.val)) (postObjs s (postDesc (mslot s i.val)) rs) = none := hgo
    simp only [hgo']
    rfl

end Post

/-- A post to a job that waits to write its checkpoint. -/
theorem postFails_of_checkpoint {h c j : Nat} {s : State} (hrec : s.fw.recovery = false) (hj : jobOf h s = some j)
    (hck : (job s j).ckptPending.isSome = true) (hstate : (job s j).state = .armed ∨ (job s j).state = .running)
    (hfin : (job s j).finishing = false) (hstop : (job s j).stopped = false) : postFails s h c = some 0x010D := by
  have hopen : ¬ ((!((job s j).state == .armed || (job s j).state == .running)) = true ∨ (job s j).finishing = true ∨ (job s j).stopped = true) := by
    simpa [hfin, hstop, or_iff_not_imp_left] using hstate
  rw [postFails, hrec, hj]
  simp only [Bool.false_eq_true, if_false]
  rw [if_neg hopen, if_pos hck]

/-- Settles O32: each command by the equation of its cases; the resumed job and the posted collective by what the restored sections,
the messages and the abort machinery leave of them. -/
theorem checkpointAndPost : Obligations.CheckpointAndPost := by
  unfold Obligations.CheckpointAndPost
  refine ⟨fun i s hrun => exec_jobCheckpoint hrun, fun i j s hrun hrec hj hck hstate hfin hstop => ?_, fun j s hup hj hck hstate => ?_,
    fun i j s hup hj hck hstate hrest => exec_checkpointWrite hup hj hck hstate hrest, fun i s hrun => ?_, fun i s hrun => ?_⟩
  · rw [exec_collPost_refused hrun (postFails_of_checkpoint hrec hj hck hstate hfin hstop), if_neg (by decide)]
  · rw [← pauseAsked_eq]
    exact exec_pauseRequest hup hj hck hstate
  · obtain ⟨hpoison, hfail⟩ := exec_jobResume_early hrun
    refine ⟨hpoison, hfail, fun n p hok hn hp => ?_, fun n hok hn hclean => ?_⟩
    · obtain ⟨hbad, -⟩ := exec_jobResume_read hrun hok hn
      exact hbad p hp
    · obtain ⟨-, hread⟩ := exec_jobResume_read hrun hok hn
      obtain ⟨hrefused, hgoes⟩ := hread hclean
      refine ⟨hrefused, fun j hgo hj => ⟨_, rfl, hgoes j hgo hj, fun hwf => ?_⟩⟩
      obtain ⟨hstate, hcore, hsch⟩ := resumeJob_armed (j := j) (l := req (mslot s i.val) 16 8)
        (c := lovRead s (req (mslot s i.val) 8 8) n) hwf.jobs_sorted
      simp only [jobCore, Prod.mk.injEq] at hcore
      obtain ⟨hhandle, hseed, hsched, hl⟩ := hcore
      exact ⟨hstate, hsched, hl, hhandle, hseed, hsch⟩
  · refine ⟨fun c hc hne => ?_, fun hc => ?_, fun hok hr => exec_collPost_ranges hrun hok hr,
      fun rs r p hok hr hfind hp => exec_collPost_poison hrun hok hr hfind hp, fun rs j hok hr hclean hj => ?_⟩
    · rw [exec_collPost_refused hrun hc, if_neg hne]
    · rw [exec_collPost_refused hrun hc, if_pos rfl]
    · obtain ⟨hfails, hgoes⟩ := exec_collPost_read hrun hok hr hclean hj
      obtain ⟨hid, hchip, hcroak⟩ := postReply_fields (fieldAt (postDesc (mslot s i.val)) 0 3)
        (commitChipOf (postDesc (mslot s i.val)) (postObjs s (postDesc (mslot s i.val)) rs).group) s
      refine ⟨hfails, fun hgo => ⟨_, _, hgoes hgo, hid.trans (Nat.mod_eq_of_lt (fieldAt_lt _ 0 3)), hchip, hcroak, rfl, fun hwf => ?_⟩⟩
      have hcoll := postTaken_coll (c := fieldAt (postDesc (mslot s i.val)) 0 3) (j := j) (d := postDesc (mslot s i.val))
        (o := postObjs s (postDesc (mslot s i.val)) rs) hwf.colls_sorted
      simp only [posting, Prod.mk.injEq] at hcoll
      obtain ⟨hjob, hposted, hdesc, hgroup, hcommit⟩ := hcoll
      exact ⟨hjob, hdesc, hgroup, hposted, hcommit⟩

end Sys2Proof.Machine
end

section
/-! PROOF. The cells of a pad (R27, R199, R274): what the cells that leave their newts change. -/

namespace Sys2Proof.Machine

/-- No mirror session is enabled, and no queued packet waits for cells. -/
def Quiet (s : State) : Prop := (∀ i, (tget {} s.swc.mirrors i).en = false) ∧ ∀ h ∈ s.swc.queues, h.pkt.left = 0

/-- From `s` to `t` no job has changed, of the schedule unit only its pipeline and its counts of cells, and of a newt only the cells that
wait to leave it; in a quiet chip nothing else but the quads and the count of packet numbers. -/
structure CellsLeft (s t : State) : Prop where
  jobs : t.jobs = s.jobs
  sch : { t.sch with flights := [], routeCnt := [] } = { s.sch with flights := [], routeCnt := [] }
  sorted : tsorted s.newts → tsorted t.newts
  newt : tsorted s.newts → ∀ n, newt t n = { newt s n with sent := (newt t n).sent }
  frame : Quiet s → t = { s with sch := t.sch, newts := t.newts, quads := t.quads, swc := { s.swc with nextId := t.swc.nextId } }

theorem CellsLeft.refl (s : State) : CellsLeft s s := ⟨rfl, rfl, id, fun _ _ => rfl, fun _ => rfl⟩

theorem Quiet.of_frame {s t : State} (hq : Quiet s) (h : t.swc = { s.swc with nextId := t.swc.nextId }) : Quiet t := by
  obtain ⟨hm, hl⟩ := hq
  have hmir : t.swc.mirrors = s.swc.mirrors := by rw [h]
  have hque : t.swc.queues = s.swc.queues := by rw [h]
  exact ⟨fun i => by rw [hmir]; exact hm i, fun e he => hl e (hque ▸ he)⟩

theorem CellsLeft.quiet {s t : State} (h : CellsLeft s t) (hq : Quiet s) : Quiet t :=
  hq.of_frame (congrArg State.swc (h.frame hq))

theorem CellsLeft.trans {s t u : State} (h : CellsLeft s t) (g : CellsLeft t u) : CellsLeft s u where
  jobs := g.jobs.trans h.jobs
  sch := g.sch.trans h.sch
  sorted hs := g.sorted (h.sorted hs)
  newt hs n := (g.newt (h.sorted hs) n).trans (by rw [h.newt hs n])
  frame hq := (g.frame (h.quiet hq)).trans (by rw [h.frame hq])

theorem CellsLeft.foldl {α : Type} {f : State → α → State} (h : ∀ s a, CellsLeft s (f s a)) (l : List α) (s : State) :
    CellsLeft s (l.foldl f s) := by
  induction l generalizing s with
  | nil => exact .refl s
  | cons a r ih => exact (h s a).trans (ih _)

/-- Jobs, newts and the schedule unit stay, and in a quiet chip all but the count of packet numbers. -/
theorem CellsLeft.of_still {s t : State} (h : Still s t) (hq : Quiet s → t = { s with swc := { s.swc with nextId := t.swc.nextId } }) :
    CellsLeft s t := by
  obtain ⟨hjobs, hnewts, -, hsch⟩ := h.parts
  exact {
    jobs := hjobs
    sch := by rw [hsch]
    sorted := fun hs => by rwa [hnewts]
    newt := fun _ n => by rw [Machine.newt, hnewts]; rfl
    frame := fun q => by rw [hq q] }

/-- The pipeline, the counts of cells and the quads alone have changed. -/
theorem CellsLeft.of_pipe (s : State) (fl : List Flight) (rc : Table Nat) (qs : Table Quad) :
    CellsLeft s { s with sch := { s.sch with flights := fl, routeCnt := rc }, quads := qs } :=
  ⟨rfl, rfl, id, fun _ _ => rfl, fun _ => rfl⟩

/-- The cells that wait to leave a newt change. -/
theorem CellsLeft.setSent (n : Nat) (l : List (Nat × Nat × SCell)) (s : State) :
    CellsLeft s (setNewt n { Machine.newt s n with sent := l } s) where
  jobs := rfl
  sch := rfl
  sorted hs := tsorted_tset _ hs _ _
  newt hs k := by
    rcases eq_or_ne k n with rfl | hk
    · rw [newt_setNewt _ _ _ hs]
    · rw [newt_setNewt_other _ _ _ _ hs hk]
  frame _ := rfl

theorem CellsLeft.sch_eq {s t : State} (h : CellsLeft s t) {α : Type} {f : Sch → α} (hf : ∀ u, f { u with flights := [], routeCnt := [] } = f u) :
    f t.sch = f s.sch := by rw [← hf t.sch, h.sch, hf s.sch]

theorem CellsLeft.job {s t : State} (h : CellsLeft s t) (j : Nat) : job t j = job s j := by rw [Machine.job, h.jobs]; rfl

/-! Mirror sessions. -/

theorem flowMatch_of_disabled {m : Mirror} (h : m.en = false) (p : Packet) : flowMatch m p = false := by simp [flowMatch, h]

theorem mirrorPlan_quiet {ins outs : List Nat} {p : Packet} {s : State} (h : ∀ i, (tget {} s.swc.mirrors i).en = false) :
    mirrorPlan ins outs p s = (s, [], []) := by
  unfold mirrorPlan
  suffices hall : ∀ l : List Nat, l.foldl _ (s, [], []) = (s, [], []) from hall _
  intro l
  induction l with
  | nil => rfl
  | cons i r ih =>
    rw [List.foldl_cons]
    have hno : flowMatch (tget {} s.swc.mirrors i) p = false := flowMatch_of_disabled (h i) p
    simp only [hno, Bool.false_eq_true, if_false]
    exact ih

/-- The chip with the numbers of one more scheduled packet given. -/
def idsGiven (s : State) : State := modSwc (fun w => { w with nextId := w.nextId + schedIds }) s

theorem schedEnter_state (ins outs : List Nat) (p : Packet) (len : Nat) (b : List Byte) (s : State) :
    (schedEnter ins outs p len b s).1 = (mirrored ins outs { schedStart p len b with sid := s.swc.nextId } (idsGiven s)).1 := by
  rw [schedEnter, idsGiven]

theorem mirrored_quiet {ins outs : List Nat} {p : Packet} {s : State} (h : ∀ i, (tget {} s.swc.mirrors i).en = false) :
    (mirrored ins outs p s).1 = s := by
  rw [mirrored, mirrorPlan_quiet h]
  rfl

theorem schedEnter_cellsLeft (ins outs : List Nat) (p : Packet) (len : Nat) (b : List Byte) (s : State) :
    CellsLeft s (schedEnter ins outs p len b s).1 := by
  rw [schedEnter_state]
  have hnum : Still s (idsGiven s) := rfl
  refine .of_still (hnum.trans (mirrored_still ins outs _ (idsGiven s))) fun hq => ?_
  rw [mirrored_quiet (s := idsGiven s) hq.1]
  rfl

theorem cellJoins_cellsLeft (k : Nat) (b : List Byte) (last : Bool) (s : State) : CellsLeft s (cellJoins k b last s) := by
  refine .of_still (cellJoins_still k b last s) fun hq => ?_
  have hnone : s.swc.queues.filter (fun h => awaits k h.pkt) = [] :=
    List.filter_eq_nil_iff.mpr (fun h hh => by simp [awaits, hq.2 h hh])
  have heq : cellJoins k b last s = s := by
    rw [cellJoins, hnone]
    rfl
  rw [heq]

/-! A pad's cells. -/

theorem sentFirst_cellsLeft (route : Nat) (recs : List (Nat × List Byte)) (c : SCell) (n : Nat) (s : State) :
    CellsLeft s (sentFirst route recs c n s).1 := by
  unfold sentFirst
  split
  · split
    · exact .refl s
    · exact cellJoins_cellsLeft _ _ _ s
  · have h := schedEnter_cellsLeft [] (recPorts s (recs.map (·.2))) c.hdr c.len c.data s
    generalize schedEnter [] (recPorts s (recs.map (·.2))) c.hdr c.len c.data s = r at h ⊢
    exact h.trans (.setSent n _ r.1)

theorem routeNext_cellsLeft (route : Nat) (s : State) : CellsLeft s (routeNext route s).1 := .of_pipe s s.sch.flights _ s.quads

theorem flights_cellsLeft (fl : List Flight) (s : State) : CellsLeft s (modSch (fun u => { u with flights := u.flights ++ fl }) s) :=
  .of_pipe s _ s.sch.routeCnt s.quads

theorem takePosition_cellsLeft (key : Nat) (s : State) : CellsLeft s (takePosition key s) := by
  unfold takePosition
  dsimp only
  split
  · exact .refl s
  · split
    · exact .refl s
    · exact (((CellsLeft.setSent _ _ s).trans (routeNext_cellsLeft _ _)).trans (sentFirst_cellsLeft _ _ _ _ _)).trans (flights_cellsLeft _ _)

theorem padCells_cellsLeft (s : State) : CellsLeft s (padCells s) := by
  unfold padCells
  split
  · exact .refl s
  · exact .trans (.foldl (fun t k => takePosition_cellsLeft k t) _ s) (.foldl (fun t q => .of_pipe t _ _ _) _ _)

end Sys2Proof.Machine
end

section
/-! PROOF. Launch, pads, slip, epochs and the end of a job (R195 to R198, R202 to R209, R216, R217), and the obligation SchedulePads. -/

namespace Sys2Proof.Machine

/-! What a command of the schedule unit leaves of a quiet chip. -/

/-- The schedule unit has changed, and then the pad's cells may have left. -/
theorem CellsLeft.pad_frame {s u t : State} (h : CellsLeft u t) (hu : u = { s with sch := u.sch })
    (hm : ∀ i, (tget {} s.swc.mirrors i).en = false) (hl : ∀ h ∈ s.swc.queues, h.pkt.left = 0) :
    t = { s with sch := t.sch, newts := t.newts, quads := t.quads, swc := { s.swc with nextId := t.swc.nextId } } := by
  have hq : Quiet u := by rw [hu]; exact ⟨hm, hl⟩
  exact (h.frame hq).trans (by rw [hu])

theorem modSch_id {f : Sch → Sch} {s : State} (h : f s.sch = s.sch) : modSch f s = s := by rw [modSch, h]

/-- A boundary with no cell in the pipeline moves none. -/
theorem flightsStep_of_empty {s : State} (h : s.sch.flights = []) : flightsStep s = s := by
  rw [flightsStep, h]
  exact modSch_id (by rw [← h])

/-! The launch count (R195). -/

theorem newtGo_idem (v : Newt) : newtGo (newtGo v) = newtGo v := by
  unfold newtGo
  split
  · simp
  · rfl

theorem foldl_newtGo (l : List Nat) {s : State} (hs : tsorted s.newts) :
    (∃ c, l.foldl (fun t n => modNewt n newtGo t) s = { s with newts := c } ∧ tsorted c) ∧
    ∀ n, newt (l.foldl (fun t n => modNewt n newtGo t) s) n = if n ∈ l then newtGo (newt s n) else newt s n := by
  induction l generalizing s with
  | nil => exact ⟨⟨s.newts, rfl, hs⟩, fun n => by simp⟩
  | cons a r ih =>
    have hs1 : tsorted (modNewt a newtGo s).newts := tsorted_tset _ hs _ _
    obtain ⟨⟨c, hc, hsort⟩, hnewt⟩ := ih hs1
    refine ⟨⟨c, hc, hsort⟩, fun n => ?_⟩
    rw [List.foldl_cons, hnewt]
    rcases eq_or_ne n a with rfl | hn
    · rw [modNewt, newt_setNewt _ _ _ hs, newtGo_idem, ite_self, if_pos (List.mem_cons_self ..)]
    · rw [modNewt, newt_setNewt_other _ _ _ _ hs hn]
      simp [hn]

theorem mem_scheduledNewts {s : State} {n : Nat} (h : (newt s n).role = .scheduled) : n ∈ scheduledNewts s := by
  have hkey : ∃ e ∈ s.newts, e.1 = n := by
    by_contra hno
    have hfree : newt s n = {} := tget_absent _ _ _ (fun e he hk => hno ⟨e, he, hk⟩)
    rw [hfree] at h
    exact absurd h (by decide)
  exact List.mem_map.mpr ⟨_, List.mem_filter.mpr ⟨mem_tget_of_mem_key {} hkey, by simpa [newt] using h⟩, rfl⟩

/-! An epoch begins (R207). -/

/-- SCH_STAT.THINNED at the begin of an epoch. -/
def schThinned (s : State) : State := if 0 < s.sch.level then modSch (fun u => { u with thinned := true, thinnedAt := some (croak s) }) s else s

theorem schThinned_frame (s : State) : ∃ a b, schThinned s = { s with sch := { s.sch with thinned := a, thinnedAt := b } } := by
  rw [schThinned]
  split
  · exact ⟨_, _, rfl⟩
  · exact ⟨s.sch.thinned, s.sch.thinnedAt, rfl⟩

theorem epochBegin_eq (s : State) : epochBegin s = match s.sch.job with
    | none => schThinned s
    | some j => modJob j (fun v => { v with epochs := lmod v.epochs s.sch.level (· + 1) }) (schThinned s) := rfl

theorem epochBegin_frame (s : State) : ∃ a b, epochBegin s =
    { s with sch := { s.sch with thinned := a, thinnedAt := b }, jobs := (epochBegin s).jobs } := by
  obtain ⟨a, b, h⟩ := schThinned_frame s
  refine ⟨a, b, ?_⟩
  rw [epochBegin_eq, h]
  split <;> rfl

theorem job_epochBegin {j : Nat} {s : State} (hs : tsorted s.jobs) (hj : s.sch.job = some j) :
    job (epochBegin s) j = { job s j with epochs := lmod (job s j).epochs s.sch.level (· + 1) } ∧
    ∀ k, k ≠ j → job (epochBegin s) k = job s k := by
  obtain ⟨a, b, h⟩ := schThinned_frame s
  rw [epochBegin_eq, h, hj]
  exact ⟨job_setJob j _ _ hs, fun k hk => job_setJob_other j k _ _ hs hk⟩

/-! The launch count (R195). -/

theorem jobState_frame (j : Nat) (x : JobState) (s : State) :
    jobState j x s = { s with jobs := (jobState j x s).jobs, hif := (jobState j x s).hif } := by
  unfold jobState
  split
  · rfl
  · simp only [pushEvent]
    split <;> rfl

/-- A job that reaches its launch count, before its epoch begins. -/
def jobRunning (j : Nat) (s : State) : State :=
  jobState j .running (setJob j { job s j with orphaned := (job s j).orphaned || s.hif.state == .orphan } s)

/-- The schedule unit goes into RUN with it. -/
def schRunning (j : Nat) (s : State) : State := modSch (fun u => { u with state := .run, hist := [] }) (jobRunning j s)

/-- The epoch that a launch begins, when one is left. -/
def launchEpoch (s : State) : State := if s.sch.epoch < pgEpochs s then epochBegin s else s

/-- The scheduled newts of a launch go. -/
def newtsGo (s : State) : State := (scheduledNewts s).foldl (fun t n => modNewt n newtGo t) s

section Launch

variable {j : Nat} {s : State}

theorem launchReached_of_not (h : (job s j).state ≠ .armed ∨ croak s < (job s j).launchL) : launchReached j s = s := if_pos h

theorem launchReached_plain (ha : (job s j).state = .armed) (hl : (job s j).launchL ≤ croak s)
    (h : (job s j).sched = false ∨ s.sch.job ≠ some j ∨ s.sch.state ≠ .armed) : launchReached j s = jobRunning j s := by
  have hgo : ¬ ((job s j).state ≠ .armed ∨ croak s < (job s j).launchL) := by simp [ha, hl]
  have hplain : (!(job s j).sched) = true ∨ s.sch.job ≠ some j ∨ s.sch.state ≠ .armed := by simpa using h
  exact (if_neg hgo).trans (if_pos hplain)

theorem launchReached_sched (ha : (job s j).state = .armed) (hl : (job s j).launchL ≤ croak s) (hsched : (job s j).sched = true)
    (hj : s.sch.job = some j) (hs : s.sch.state = .armed) :
    launchReached j s = padCells (padHist (newtsGo (launchEpoch (schRunning j s))).sch.jp (newtsGo (launchEpoch (schRunning j s)))) := by
  have hgo : ¬ ((job s j).state ≠ .armed ∨ croak s < (job s j).launchL) := by simp [ha, hl]
  have hyes : ¬ ((!(job s j).sched) = true ∨ s.sch.job ≠ some j ∨ s.sch.state ≠ .armed) := by simp [hsched, hj, hs]
  exact (if_neg hgo).trans (if_neg hyes)

theorem schRunning_frame (j : Nat) (s : State) : schRunning j s =
    { s with jobs := (jobRunning j s).jobs, hif := (jobRunning j s).hif, sch := { s.sch with state := .run, hist := [] } } := by
  have h : jobRunning j s = { s with jobs := (jobRunning j s).jobs, hif := (jobRunning j s).hif } := jobState_frame j .running (setJob j _ s)
  rw [schRunning, h]
  rfl

theorem launchEpoch_frame (s : State) : ∃ a b, launchEpoch s =
    { s with sch := { s.sch with thinned := a, thinnedAt := b }, jobs := (launchEpoch s).jobs } := by
  rw [launchEpoch]
  split
  · exact epochBegin_frame s
  · exact ⟨s.sch.thinned, s.sch.thinnedAt, rfl⟩

theorem job_launchEpoch (hs : tsorted s.jobs) (hj : s.sch.job = some j) :
    job (launchEpoch s) j = { job s j with
      epochs := if s.sch.epoch < pgEpochs s then lmod (job s j).epochs s.sch.level (· + 1) else (job s j).epochs } ∧
    ∀ k, k ≠ j → job (launchEpoch s) k = job s k := by
  rw [launchEpoch]
  split
  · exact job_epochBegin hs hj
  · exact ⟨rfl, fun _ _ => rfl⟩

theorem job_of_jobs {t : State} (h : t.jobs = s.jobs) (k : Nat) : job t k = job s k := by rw [job, h]; rfl

theorem newt_of_newts {t : State} (h : t.newts = s.newts) (n : Nat) : newt t n = newt s n := by rw [newt, h]; rfl

/-- The schedule unit and the job of a launch that goes into RUN. -/
theorem schRunning_job (hs : tsorted s.jobs) :
    tsorted (schRunning j s).jobs ∧
    job (schRunning j s) j = { job s j with orphaned := (job s j).orphaned || s.hif.state == .orphan, state := .running } ∧
    ∀ k, k ≠ j → job (schRunning j s) k = job s k := by
  have h1 : tsorted (setJob j { job s j with orphaned := (job s j).orphaned || s.hif.state == .orphan } s).jobs := setJob_jobs_sorted j _ hs
  refine ⟨jobState_jobs_sorted j .running h1, (job_jobState h1).trans ?_, fun k hk => (job_jobState_other h1 hk).trans ?_⟩
  · rw [job_setJob _ _ _ hs]
  · rw [job_setJob_other _ _ _ _ hs hk]

/-- The epoch of a launch and its newts. -/
theorem newtsGo_launchEpoch {r : State} (hs : tsorted r.newts) :
    let u := newtsGo (launchEpoch r)
    (∃ a b, u = { r with sch := { r.sch with thinned := a, thinnedAt := b }, newts := u.newts, jobs := (launchEpoch r).jobs }) ∧
    tsorted u.newts ∧ ∀ n, newt u n = if n ∈ scheduledNewts r then newtGo (newt r n) else newt r n := by
  intro u
  obtain ⟨a, b, hfr⟩ := launchEpoch_frame r
  have hnewts : (launchEpoch r).newts = r.newts := by rw [hfr]
  obtain ⟨⟨c, hc, hcs⟩, hgo⟩ := foldl_newtGo (scheduledNewts (launchEpoch r)) (s := launchEpoch r) (hnewts ▸ hs)
  have hu : u = { launchEpoch r with newts := c } := hc
  have hsched : scheduledNewts (launchEpoch r) = scheduledNewts r := by rw [scheduledNewts, hnewts]; rfl
  refine ⟨⟨a, b, ?_⟩, by rw [hu]; exact hcs, fun n => ?_⟩
  · rw [hu]
    conv_lhs => rw [hfr]
  · rw [show newt u n = _ from hgo n, newt_of_newts hnewts, hsched]

/-- The state of a scheduled launch before its pad's cells leave. -/
theorem schedGone (hwf : s.Wf) (hj : s.sch.job = some j) :
    let u := newtsGo (launchEpoch (schRunning j s))
    (∃ a b, u = { s with sch := { s.sch with state := .run, hist := [], thinned := a, thinnedAt := b }, newts := u.newts, jobs := u.jobs
                         hif := u.hif }) ∧
    tsorted u.newts ∧ (∀ n, newt u n = if n ∈ scheduledNewts s then newtGo (newt s n) else newt s n) ∧
    job u j = { job s j with
      orphaned := (job s j).orphaned || s.hif.state == .orphan, state := .running
      epochs := if s.sch.epoch < pgEpochs s then lmod (job s j).epochs s.sch.level (· + 1) else (job s j).epochs } ∧
    ∀ k, k ≠ j → job u k = job s k := by
  have hrun := schRunning_frame j s
  obtain ⟨hsorted, hjob, hrest⟩ := schRunning_job (j := j) hwf.jobs_sorted
  generalize schRunning j s = r at hrun hsorted hjob hrest ⊢
  have hsch : r.sch = { s.sch with state := .run, hist := [] } := by rw [hrun]
  have hnewts : r.newts = s.newts := by rw [hrun]
  have hpg : pgEpochs r = pgEpochs s := by rw [hrun]; rfl
  have hsched : scheduledNewts r = scheduledNewts s := by rw [scheduledNewts, hnewts]; rfl
  obtain ⟨⟨a, b, hfr⟩, hcs, hgo⟩ := newtsGo_launchEpoch (r := r) (hnewts ▸ hwf.newts_sorted)
  obtain ⟨hepoch, hepochs⟩ := job_launchEpoch hsorted (j := j) (by rw [hsch]; exact hj)
  generalize newtsGo (launchEpoch r) = u at hfr hcs hgo
  have hjobs : u.jobs = (launchEpoch r).jobs := by rw [hfr]
  refine ⟨⟨a, b, ?_⟩, hcs, fun n => ?_, ?_, fun k hk => ?_⟩
  · have husch : u.sch = { s.sch with state := .run, hist := [], thinned := a, thinnedAt := b } := by rw [hfr, hsch]
    have hhif : u.hif = r.hif := by rw [hfr]
    rw [← husch, hhif, hjobs]
    refine hfr.trans ?_
    rw [husch]
    subst hrun
    rfl
  · rw [hgo, hsched, newt_of_newts hnewts]
  · rw [job_of_jobs hjobs, hepoch, hjob, hpg, hsch]
  · rw [job_of_jobs hjobs, hepochs k hk, hrest k hk]

/-- The cells of a launch leave with its first pad. -/
theorem launch_frame {w t : State} (h : CellsLeft w t) (hw : w = { s with sch := w.sch, newts := w.newts, jobs := w.jobs, hif := w.hif })
    (hm : ∀ i, (tget {} s.swc.mirrors i).en = false) (hl : ∀ h ∈ s.swc.queues, h.pkt.left = 0) :
    t = { s with sch := t.sch, newts := t.newts, quads := t.quads, jobs := t.jobs, hif := t.hif, swc := { s.swc with nextId := t.swc.nextId } } := by
  have hswc : w.swc = s.swc := by rw [hw]
  have hframe := h.frame ⟨fun i => by rw [hswc]; exact hm i, fun h hh => hl h (hswc ▸ hh)⟩
  have hhif : t.hif = w.hif := by rw [hframe]
  rw [h.jobs, hhif]
  refine hframe.trans ?_
  rw [hswc]
  conv_lhs => rw [hw]

theorem schedGone_cellsLeft (hwf : s.Wf) (hj : s.sch.job = some j) :
    let t := padCells (padHist (newtsGo (launchEpoch (schRunning j s))).sch.jp (newtsGo (launchEpoch (schRunning j s))))
    t.sch.state = .run ∧ t.sch.jp = s.sch.jp ∧
    job t j = { job s j with
      orphaned := (job s j).orphaned || s.hif.state == .orphan, state := .running
      epochs := if s.sch.epoch < pgEpochs s then lmod (job s j).epochs s.sch.level (· + 1) else (job s j).epochs } ∧
    (∀ k, k ≠ j → job t k = job s k) ∧
    (∀ n, newt t n = { (if n ∈ scheduledNewts s then newtGo (newt s n) else newt s n) with sent := (newt t n).sent }) ∧
    ((∀ i, (tget {} s.swc.mirrors i).en = false) → (∀ h ∈ s.swc.queues, h.pkt.left = 0) → t = { s with
      sch := t.sch, newts := t.newts, quads := t.quads, jobs := t.jobs, hif := t.hif, swc := { s.swc with nextId := t.swc.nextId } }) := by
  obtain ⟨⟨a, b, hfr⟩, hcs, hgo, hjob, hrest⟩ := schedGone hwf hj
  generalize newtsGo (launchEpoch (schRunning j s)) = u at hfr hcs hgo hjob hrest ⊢
  have hleft := padCells_cellsLeft (padHist u.sch.jp u)
  have husch : u.sch = { s.sch with state := .run, hist := [], thinned := a, thinnedAt := b } := by rw [hfr]
  have hstate : (padHist u.sch.jp u).sch.state = .run := by rw [show (padHist u.sch.jp u).sch.state = u.sch.state from rfl, husch]
  have hjp : (padHist u.sch.jp u).sch.jp = s.sch.jp := by rw [show (padHist u.sch.jp u).sch.jp = u.sch.jp from rfl, husch]
  have hw : padHist u.sch.jp u = { s with
      sch := (padHist u.sch.jp u).sch, newts := (padHist u.sch.jp u).newts, jobs := (padHist u.sch.jp u).jobs, hif := (padHist u.sch.jp u).hif } := by
    have hu : u = { s with sch := u.sch, newts := u.newts, jobs := u.jobs, hif := u.hif } := by
      rw [husch]
      exact hfr
    exact congrArg (fun x : State => { x with sch := (padHist u.sch.jp u).sch }) hu
  have hujob (k : Nat) : job (padHist u.sch.jp u) k = job u k := rfl
  have hunewt (n : Nat) : newt (padHist u.sch.jp u) n = newt u n := rfl
  have husort : tsorted (padHist u.sch.jp u).newts := hcs
  generalize padHist u.sch.jp u = w at hleft hstate hjp hw hujob hunewt husort ⊢
  intro t
  refine ⟨?_, ?_, ?_, fun k hk => ?_, fun n => ?_, launch_frame hleft hw⟩
  · rw [hleft.sch_eq (f := Sch.state) fun _ => rfl, hstate]
  · rw [hleft.sch_eq (f := Sch.jp) fun _ => rfl, hjp]
  · rw [hleft.job, hujob, hjob]
  · rw [hleft.job, hujob, hrest k hk]
  · rw [← hgo, ← hunewt]
    exact hleft.newt husort n

end Launch

theorem newtGo_run {v : Newt} (hr : v.role = .scheduled) (hs : v.state = .idle ∨ v.state = .paused) : (newtGo v).state = .run := by
  rw [newtGo, if_pos ⟨hr, hs⟩]

theorem newtGo_of_role {v : Newt} (hr : v.role ≠ .scheduled) : newtGo v = v := if_neg (fun h => hr h.1)

/-! Pads (R196, R202 to R204). -/

theorem padBoundary_keeps {s : State} (hfl : s.sch.flights = [])
    (h : croak s % 128 ≠ 0 ∨ (s.sch.state ≠ .run ∧ s.sch.state ≠ .frozen) ∨ boundaryTaken s = true) : padBoundary s = s := by
  have hstep := flightsStep_of_empty hfl
  rw [padBoundary]
  rcases h with h | ⟨hr, hf⟩ | h
  · exact if_pos h
  · split
    · rfl
    · split
      · contradiction
      · contradiction
      · exact hstep
  · split
    · rfl
    · split
      · exact if_pos (.inl h)
      · exact if_pos (.inl h)
      · exact hstep

/-- A pad group is late at a call point of the job pad. -/
def lateCall (s : State) : Bool := (epochGroups s).any (fun g => (callAt s g s.sch.jp).any (fun k => groupShort s g (k + 1)))

/-- The schedule unit at the next job pad. -/
def schNextPad (s : State) : Sch :=
  let u := if lateCall s then { s.sch with
    called := true, calledAt := some (croak s), callPend := some (min (s.sch.jp + 1) (s.sch.callPend.getD (s.sch.jp + 1))) } else s.sch
  { u with jp := s.sch.jp + 1, hist := (((croak s / 128) % 65536, s.sch.jp + 1) :: u.hist).take 16 }

theorem padBoundary_run {s : State} (hfl : s.sch.flights = []) (h128 : croak s % 128 = 0) (hs : s.sch.state = .run)
    (ht : boundaryTaken s = false) (hf : freezeDue s = false) (he : epochDue s = false) :
    CellsLeft { s with sch := schNextPad s } (padBoundary s) := by
  have hgo : ¬ (boundaryTaken s = true ∨ freezeDue s = true ∨ epochDue s = true) := by simp [ht, hf, he]
  have hnext : padHist (s.sch.jp + 1) (modSch (fun u => { u with jp := s.sch.jp + 1 }) (slipCall s.sch.jp s)) = { s with sch := schNextPad s } := by
    rw [slipCall, schNextPad, show (epochGroups s).any (fun g => (callAt s g s.sch.jp).any (fun k => groupShort s g (k + 1))) = lateCall s from rfl]
    cases lateCall s <;> rfl
  rw [padBoundary, if_neg (by simp [h128]), hs]
  dsimp only
  rw [if_neg hgo, flightsStep_of_empty hfl, hnext]
  split
  · exact .refl _
  · exact padCells_cellsLeft _

/-- The schedule unit at the next frozen pad. -/
def schNextFrozen (s : State) : Sch :=
  if s.sch.frozenPads + 1 < pgSlipq s then { s.sch with
    frozenPads := s.sch.frozenPads + 1, slipPads := (s.sch.slipPads + 1) % 2 ^ 48
    hist := (((croak s / 128) % 65536, s.sch.jp - 1) :: s.sch.hist).take 16 }
  else if s.sch.quantum ≤ s.sch.extQuantum then { s.sch with
    frozenPads := 0, quantum := s.sch.quantum + 1, slipPads := (s.sch.slipPads + 1) % 2 ^ 48
    hist := (((croak s / 128) % 65536, s.sch.jp - 1) :: s.sch.hist).take 16 }
  else { s.sch with
    frozenPads := s.sch.frozenPads + 1, hist := (((croak s / 128) % 65536, s.sch.jp) :: s.sch.hist).take 16 }

theorem padBoundary_frozen {s : State} (hfl : s.sch.flights = []) (h128 : croak s % 128 = 0) (hs : s.sch.state = .frozen)
    (ht : boundaryTaken s = false) (ho : freezeOver s = false) : CellsLeft { s with sch := schNextFrozen s } (padBoundary s) := by
  have hgo : ¬ (boundaryTaken s = true ∨ freezeOver s = true) := by simp [ht, ho]
  rw [padBoundary, if_neg (by simp [h128]), hs]
  dsimp only
  rw [if_neg hgo, flightsStep_of_empty hfl, schNextFrozen]
  split
  · exact padCells_cellsLeft _
  · split
    · exact padCells_cellsLeft _
    · exact .refl _

/-- The boundary that a pad has been remembered for has been taken. -/
theorem CellsLeft.taken {u t : State} (h : CellsLeft u t) {p : Nat} {l : List (Nat × Nat)} (hh : u.sch.hist = ((croak u / 128 % 65536, p) :: l).take 16) :
    boundaryTaken t = true := by
  rw [boundaryTaken, croak, h.sch_eq (f := Sch.hist) fun _ => rfl, h.sch_eq (f := Sch.croak) fun _ => rfl, hh]
  simp [croak]

/-! Freezes (R203, R204). -/

/-- The schedule unit as a freeze begins. -/
def schFrozen (s : State) : Sch := { s.sch with
  state := .frozen, quantum := 1, frozenPads := 0, extQuantum := 0, lastJ := s.sch.callPend, callPend := none
  slipPads := (s.sch.slipPads + 1) % 2 ^ 48, slipEvents := satAdd 0xFFFFFFFF s.sch.slipEvents 1
  hist := (((croak s / 128) % 65536, s.sch.jp - 1) :: s.sch.hist.drop 1).take 16 }

theorem freezeBegin_due {s : State} (h : freezeDue s = true) : CellsLeft { s with sch := schFrozen s } (freezeBegin s) := by
  rw [freezeBegin, if_neg (by simp [h])]
  exact padCells_cellsLeft _

/-- The schedule unit as a freeze ends. -/
def schThawed (s : State) : Sch := { s.sch with state := .run, quantum := 0, extQuantum := 0, frozenPads := 0 }

theorem freezeEnd_over {s : State} (h : freezeOver s = true) : CellsLeft { s with sch := schThawed s } (freezeEnd s) := by
  rw [freezeEnd, if_neg (by simp [h])]
  dsimp only
  split
  · exact .refl _
  · exact padCells_cellsLeft _

/-! Epochs (R197, R206 to R208). -/

/-- A step of the want changes the thermal unit, the host interface and what leaves the chip alone. -/
theorem wantFall_frame (s : State) : ∃ t h o, wantFall s = { s with therm := t, hif := h, out := o } := by
  rw [wantFall, setWant]
  dsimp only
  split
  · exact ⟨_, s.hif, s.out, rfl⟩
  · unfold vector
    split
    · exact ⟨_, s.hif, s.out, rfl⟩
    · split
      · exact ⟨_, _, s.out, rfl⟩
      · exact ⟨_, s.hif, _, rfl⟩

/-- A byte for the next epoch has come. -/
def byteGiven (s : State) : Bool := decide (s.sch.fbl62 / 8 = (s.sch.epoch + 1) % 32)

/-- The schedule unit in the next epoch. -/
def schNextEpoch (s : State) : Sch := { s.sch with
  epoch := s.sch.epoch + 1, epochStart := s.sch.jp, lastLevel := s.sch.level, routeCnt := []
  level := if byteGiven s then min 2 (s.sch.fbl62 % 4) else s.sch.level }

/-- The chip in the next epoch, with its want and the density that it notes. -/
def epochNext (s : State) : State :=
  let s1 := wantFall { s with sch := schNextEpoch s }
  if s1.sch.level = s1.sch.lastLevel then s1
  else { s1 with therm := { s1.therm with density := s1.therm.density ++ [(s1.sch.level, s1.sch.epoch)] } }

theorem epochNext_frame (s : State) : ∃ t h o, epochNext s = { s with sch := schNextEpoch s, therm := t, hif := h, out := o } := by
  obtain ⟨t, h, o, hw⟩ := wantFall_frame { s with sch := schNextEpoch s }
  rw [epochNext, hw]
  dsimp only
  split
  · exact ⟨t, h, o, rfl⟩
  · exact ⟨_, h, o, rfl⟩

/-- An epoch begins where one is left, and its first pad's cells leave. -/
def epochGoesOn (n : State) : State := if n.sch.epoch < pgEpochs n then padCells (epochBegin n) else n

theorem epochBoundary_clear {s : State} (hdue : epochDue s = true) (hclear : epochClear s = true) :
    epochBoundary s = if byteGiven s && bitOf s.sch.fbl62 2 then epochPause (epochNext s)
      else epochGoesOn (epochNext s) := by
  rw [epochBoundary, if_neg (by simp [hdue]), if_neg (by simp [hclear])]
  rfl

/-- The schedule unit of a paused span. -/
def schPaused (u : Sch) : Sch := { u with state := .paused, pausePend := false, hist := [] }

theorem pauseNewts_frame (l : List Nat) (s : State) : ∃ c, l.foldl (fun t n => pauseNewt n (modNewt n (fun v =>
    if v.state = .run ∨ v.state = .stall then { v with pausePend := true } else v) t)) s = { s with newts := c } := by
  induction l generalizing s with
  | nil => exact ⟨s.newts, rfl⟩
  | cons n r ih =>
    have hstep : ∃ c, pauseNewt n (modNewt n (fun v =>
        if v.state = .run ∨ v.state = .stall then { v with pausePend := true } else v) s) = { s with newts := c } := by
      rw [pauseNewt]
      split
      · exact ⟨_, rfl⟩
      · exact ⟨_, rfl⟩
    obtain ⟨c, hc⟩ := hstep
    obtain ⟨c', hc'⟩ := ih { s with newts := c }
    rw [List.foldl_cons, hc]
    exact ⟨c', hc'⟩

/-- A pause changes the schedule unit, the newts and the state of the scheduled job alone. -/
theorem epochPause_frame (s : State) : ∃ c jb h, epochPause s = { s with newts := c, jobs := jb, hif := h, sch := schPaused s.sch } ∧
    ∀ j, s.sch.job = some j → tsorted s.jobs → tget {} jb j = { job s j with state := .paused } := by
  rw [epochPause]
  obtain ⟨c, hc⟩ := pauseNewts_frame (scheduledNewts s) (modSch schPaused s)
  have hfold : (scheduledNewts s).foldl (fun t n => pauseNewt n (modNewt n (fun v =>
      if v.state = .run ∨ v.state = .stall then { v with pausePend := true } else v) t))
      (modSch (fun u => { u with state := .paused, pausePend := false, hist := [] }) s) = { modSch schPaused s with newts := c } := hc
  dsimp only
  rw [hfold]
  cases hj : s.sch.job with
  | none => exact ⟨c, s.jobs, s.hif, rfl, by simp⟩
  | some j =>
    have hframe := jobState_frame j .paused { modSch schPaused s with newts := c }
    refine ⟨c, _, _, hframe, fun k hk hs => ?_⟩
    rw [← Option.some.inj hk]
    exact job_jobState (s := { modSch schPaused s with newts := c }) hs

theorem schErr_epoch (kind unit pg want found : Nat) (s : State) : (schErr 0x0B09 kind unit pg want found s).sch.epoch = s.sch.epoch := by
  unfold schErr raise
  split
  · rw [rasRecord_sch, freshMark_sch]
    simp [stickyBit]
  · rfl

theorem epochDue_run {s : State} (h : epochDue s = true) : s.sch.state = .run := by
  simp only [epochDue, Bool.and_eq_true, beq_iff_eq] at h
  obtain ⟨⟨⟨hrun, -⟩, -⟩, -⟩ := h
  exact hrun

/-- A boundary that is not clear stops the job (R197, R209). -/
theorem epochBoundary_blocked {s : State} (hwf : s.Wf) (hup : up s = true) (hdue : epochDue s = true) (hclear : epochClear s = false) :
    (epochBoundary s).sch.state = .stopped ∧ (rasRec (epochBoundary s) 0x0B09).set = true ∧ (epochBoundary s).sch.epoch = s.sch.epoch := by
  have hactive : schActive s = true := by simp [schActive, epochDue_run hdue]
  rw [epochBoundary, if_neg (by simp [hdue]), if_pos (by simp [hclear])]
  have hraised : schActive (schErr 0x0B09 0 0 0 0 0 s) = true := (schActive_raise _ s).trans hactive
  obtain ⟨hkept, hstops⟩ := jobStop_fabricKept 0x0B09 { fchip := fchipOf s.rte.coord, funit := 0, fkind := 6 } (schErr 0x0B09 0 0 0 0 0 s)
  refine ⟨hstops hraised, ?_, ?_⟩
  · exact hkept.records.set ((raise_recordsStand _ s).sorted hwf.recs_sorted) _ (rasRec_raise_set hup (show definedCode 0x0B09 = true by decide))
  · exact (jobStop_keeps 0x0B09 _ _ (f := Sch.epoch) (fun _ => rfl) (fun _ => rfl)).trans (schErr_epoch 0 0 0 0 0 s)

theorem epochGoesOn_cellsLeft (n : State) : ∃ x a b, CellsLeft x (epochGoesOn n) ∧
    x = { n with sch := { n.sch with thinned := a, thinnedAt := b }, jobs := x.jobs } := by
  rw [epochGoesOn]
  split
  · obtain ⟨a, b, h⟩ := epochBegin_frame n
    exact ⟨epochBegin n, a, b, padCells_cellsLeft _, h⟩
  · exact ⟨n, n.sch.thinned, n.sch.thinnedAt, .refl n, rfl⟩

/-- The next epoch begins, or the span pauses. -/
theorem epochBoundary_begins {s : State} (hwf : s.Wf) (hdue : epochDue s = true) (hclear : epochClear s = true) :
    let t := epochBoundary s
    t.sch.epoch = s.sch.epoch + 1 ∧ t.sch.epochStart = s.sch.jp ∧ t.sch.jp = s.sch.jp ∧ t.sch.lastLevel = s.sch.level ∧
    t.sch.level = (if byteGiven s then min 2 (s.sch.fbl62 % 4) else s.sch.level) ∧
    t.sch.state = (if byteGiven s && bitOf s.sch.fbl62 2 then .paused else .run) ∧
    (∀ j, s.sch.job = some j → byteGiven s = true → bitOf s.sch.fbl62 2 = true → (job t j).state = .paused) ∧
    ((∀ i, (tget {} s.swc.mirrors i).en = false) → (∀ h ∈ s.swc.queues, h.pkt.left = 0) →
      t.sync = s.sync ∧ t.colls = s.colls ∧ t.dma = s.dma) := by
  have hrun : s.sch.state = .run := epochDue_run hdue
  obtain ⟨th, h, o, hnext⟩ := epochNext_frame s
  rw [epochBoundary_clear hdue hclear, hnext]
  cases hp : byteGiven s && bitOf s.sch.fbl62 2 with
  | true =>
    obtain ⟨c, jb, h', hpause, hjob⟩ := epochPause_frame { s with sch := schNextEpoch s, therm := th, hif := h, out := o }
    rw [if_pos rfl, hpause]
    exact ⟨rfl, rfl, rfl, rfl, rfl, rfl, fun j hj _ _ => congrArg Job.state (hjob j hj hwf.jobs_sorted), fun _ _ => ⟨rfl, rfl, rfl⟩⟩
  | false =>
    obtain ⟨x, a, b, hleft, hx⟩ := epochGoesOn_cellsLeft { s with sch := schNextEpoch s, therm := th, hif := h, out := o }
    rw [if_neg Bool.false_ne_true]
    generalize epochGoesOn _ = t at hleft ⊢
    have hsch : x.sch = { schNextEpoch s with thinned := a, thinnedAt := b } := by rw [hx]
    refine ⟨?_, ?_, ?_, ?_, ?_, ?_, fun j _ hg hb => ?_, fun hm hl => ?_⟩
    · rw [hleft.sch_eq (f := Sch.epoch) fun _ => rfl, hsch]
      rfl
    · rw [hleft.sch_eq (f := Sch.epochStart) fun _ => rfl, hsch]
      rfl
    · rw [hleft.sch_eq (f := Sch.jp) fun _ => rfl, hsch]
      rfl
    · rw [hleft.sch_eq (f := Sch.lastLevel) fun _ => rfl, hsch]
      rfl
    · rw [hleft.sch_eq (f := Sch.level) fun _ => rfl, hsch]
      rfl
    · rw [hleft.sch_eq (f := Sch.state) fun _ => rfl, hsch]
      exact hrun
    · simp [hg, hb] at hp
    · have hswc : x.swc = s.swc := by rw [hx]
      have hq : Quiet x := ⟨fun i => by rw [hswc]; exact hm i, fun e he => hl e (hswc ▸ he)⟩
      rw [hleft.frame hq, hx]
      exact ⟨rfl, rfl, rfl⟩

/-! The end of a job (R216, R217). -/

theorem jobEnd_quads (j : Nat) (s : State) : (jobEnd j s).quads = s.quads := by
  have htask : (if (job s j).launched then taskEnd j s else s).quads = s.quads := by
    split
    · exact foldl_field State.quads (fun t o => syncErr o 0x0406 (agentFw 0) 0 0 0 t) (fun t o => by rw [syncErr, raise_quads]; rfl) _ s
    · rfl
  rw [jobEnd, jobState_quads]
  exact htask

theorem runRecord_head (s : State) (v : Job) : ∃ r, runRecord s v = leBytes 4 0x31525243 ++ r := by
  unfold runRecord
  simp only [List.append_assoc]
  generalize leBytes 4 0x31525243 = magic
  exact ⟨_, rfl⟩

theorem runRecord_magic (s : State) (v : Job) : (runRecord s v).take 4 = leBytes 4 0x31525243 := by
  obtain ⟨r, hr⟩ := runRecord_head s v
  rw [hr]
  exact List.take_left' (leBytes_length 4 _)

/-- The schedule unit once its job has ended. -/
def schEnded (u : Sch) : Sch := { u with
  state := .idle, job := none, pausePend := false, quantum := 0, callPend := none, stopSent := false, fbl62 := 0
  flights := [], hist := [] }

theorem jobDone_of_over {j : Nat} {s : State} (h : jobOver s j = true) :
    jobDone j s = jobEnd j { s with sch := if (job s j).sched then schEnded s.sch else s.sch } := by
  rw [jobDone, if_neg (by simp [h])]
  split <;> rfl

theorem exec_jobDone {j : Fin 64} {s : State} (hwf : s.Wf) (hup : up s = true) :
    (jobOver s j.val = false → exec (.jobDone j) s = .next s) ∧
    (jobOver s j.val = true → ∃ t, exec (.jobDone j) s = .next t ∧ (job t j.val).state = .ended ∧
      (job t j.val).record.take 4 = leBytes 4 0x31525243 ∧ (∀ k, k ≠ j.val → job t k = job s k) ∧
      ((job s j.val).sched = true → t.sch.state = .idle ∧ t.sch.job = none) ∧
      ((job s j.val).sched = false → t.sch = s.sch) ∧ t.newts = s.newts ∧ t.colls = s.colls ∧ t.quads = s.quads) := by
  have hexec : exec (.jobDone j) s = .next (jobDone j.val s) := whenUp_of_up _ hup
  rw [hexec]
  refine ⟨fun h => congrArg Host.Outcome.next (if_pos (by simp [h])), fun h => ⟨_, rfl, ?_⟩⟩
  rw [jobDone_of_over h]
  obtain ⟨⟨_, _, _, _, hend⟩, hrest, hnewts, hcolls, hsch⟩ :=
    jobEnd_job j.val (s := { s with sch := if (job s j.val).sched then schEnded s.sch else s.sch }) hwf.jobs_sorted
  refine ⟨by rw [hend], by rw [hend]; exact runRecord_magic _ _, hrest, fun hs => ?_, fun hs => ?_, hnewts, hcolls, jobEnd_quads _ _⟩
  · rw [hsch, if_pos hs]
    exact ⟨rfl, rfl⟩
  · rw [hsch, if_neg (by simp [hs])]

/-- The pads of a running and of a frozen job. -/
theorem exec_padBoundary {s : State} (hup : up s = true) (hfl : s.sch.flights = []) :
    (croak s % 128 ≠ 0 ∨ (s.sch.state ≠ .run ∧ s.sch.state ≠ .frozen) ∨ boundaryTaken s = true →
      exec .padBoundary s = .next s) ∧
    (croak s % 128 = 0 → s.sch.state = .run → boundaryTaken s = false → freezeDue s = false → epochDue s = false →
      ∃ t, exec .padBoundary s = .next t ∧ t.sch.jp = s.sch.jp + 1 ∧ t.sch.state = .run ∧ boundaryTaken t = true ∧
        (lateCall s = true → t.sch.called = true ∧ t.sch.calledAt = some (croak s) ∧
          t.sch.callPend = some (min (s.sch.jp + 1) (s.sch.callPend.getD (s.sch.jp + 1)))) ∧
        (lateCall s = false → t.sch.called = s.sch.called ∧ t.sch.callPend = s.sch.callPend) ∧ t.sch.slipPads = s.sch.slipPads ∧
        ((∀ i, (tget {} s.swc.mirrors i).en = false) → (∀ h ∈ s.swc.queues, h.pkt.left = 0) → t = { s with
          sch := t.sch, newts := t.newts, quads := t.quads, swc := { s.swc with nextId := t.swc.nextId } })) ∧
    (croak s % 128 = 0 → s.sch.state = .frozen → boundaryTaken s = false → freezeOver s = false →
      ∃ t, exec .padBoundary s = .next t ∧ t.sch.jp = s.sch.jp ∧ t.sch.state = .frozen ∧ boundaryTaken t = true ∧
        (t.sch.frozenPads, t.sch.quantum) = (if s.sch.frozenPads + 1 < pgSlipq s then (s.sch.frozenPads + 1, s.sch.quantum)
          else if s.sch.quantum ≤ s.sch.extQuantum then (0, s.sch.quantum + 1) else (s.sch.frozenPads + 1, s.sch.quantum)) ∧
        t.sch.slipPads = (if s.sch.frozenPads + 1 < pgSlipq s ∨ s.sch.quantum ≤ s.sch.extQuantum then (s.sch.slipPads + 1) % 2 ^ 48
          else s.sch.slipPads) ∧
        ((∀ i, (tget {} s.swc.mirrors i).en = false) → (∀ h ∈ s.swc.queues, h.pkt.left = 0) → t = { s with
          sch := t.sch, newts := t.newts, quads := t.quads, swc := { s.swc with nextId := t.swc.nextId } })) := by
  have hexec : exec .padBoundary s = .next (padBoundary s) := whenUp_of_up _ hup
  rw [hexec]
  refine ⟨fun h => congrArg Host.Outcome.next (padBoundary_keeps hfl h), fun h128 hs ht hf he => ⟨_, rfl, ?_⟩, fun h128 hs ht ho => ⟨_, rfl, ?_⟩⟩
  · have hleft := padBoundary_run hfl h128 hs ht hf he
    have hhist : ∃ p l, (schNextPad s).hist = ((croak s / 128 % 65536, p) :: l).take 16 := ⟨_, _, rfl⟩
    obtain ⟨p, l, hhist⟩ := hhist
    generalize padBoundary s = t at hleft ⊢
    refine ⟨?_, ?_, ?_, fun hl => ?_, fun hl => ?_, ?_, hleft.pad_frame rfl⟩
    · rw [hleft.sch_eq (f := Sch.jp) fun _ => rfl]
      rfl
    · rw [hleft.sch_eq (f := Sch.state) fun _ => rfl, schNextPad]
      cases lateCall s <;> exact hs
    · refine hleft.taken (p := p) (l := l) (hhist.trans ?_)
      rw [schNextPad, croak, croak]
      cases lateCall s <;> rfl
    · rw [hleft.sch_eq (f := Sch.called) fun _ => rfl, hleft.sch_eq (f := Sch.calledAt) fun _ => rfl,
        hleft.sch_eq (f := Sch.callPend) fun _ => rfl, schNextPad, if_pos hl]
      exact ⟨rfl, rfl, rfl⟩
    · rw [hleft.sch_eq (f := Sch.called) fun _ => rfl, hleft.sch_eq (f := Sch.callPend) fun _ => rfl, schNextPad, if_neg (by simp [hl])]
      exact ⟨rfl, rfl⟩
    · rw [hleft.sch_eq (f := Sch.slipPads) fun _ => rfl, schNextPad]
      cases lateCall s <;> rfl
  · have hleft := padBoundary_frozen hfl h128 hs ht ho
    generalize padBoundary s = t at hleft ⊢
    refine ⟨?_, ?_, ?_, ?_, ?_, hleft.pad_frame rfl⟩
    · rw [hleft.sch_eq (f := Sch.jp) fun _ => rfl, schNextFrozen]
      split
      · rfl
      · split <;> rfl
    · rw [hleft.sch_eq (f := Sch.state) fun _ => rfl, schNextFrozen]
      split
      · exact hs
      · split <;> exact hs
    · have hhist : ∃ p l, (schNextFrozen s).hist = ((croak { s with sch := schNextFrozen s } / 128 % 65536, p) :: l).take 16 := by
        rw [schNextFrozen]
        split
        · exact ⟨_, _, rfl⟩
        · split <;> exact ⟨_, _, rfl⟩
      obtain ⟨p, l, hhist⟩ := hhist
      exact hleft.taken hhist
    · rw [hleft.sch_eq (f := Sch.frozenPads) fun _ => rfl, hleft.sch_eq (f := Sch.quantum) fun _ => rfl, schNextFrozen]
      split
      · rfl
      · split <;> rfl
    · rw [hleft.sch_eq (f := Sch.slipPads) fun _ => rfl, schNextFrozen]
      by_cases hmore : s.sch.frozenPads + 1 < pgSlipq s
      · rw [if_pos hmore, if_pos (.inl hmore)]
      · by_cases hext : s.sch.quantum ≤ s.sch.extQuantum
        · rw [if_neg hmore, if_pos hext, if_pos (.inr hext)]
        · rw [if_neg hmore, if_neg hext, if_neg (by tauto)]

/-- A pad group is short, or a cell is behind, before a quantum ends. -/
def extensionDue (s : State) : Bool :=
  (epochGroups s).any (fun g => groupShort s g (callsPassed s g s.sch.jp)) ||
    (scheduledNewts s).any (fun n => (newt s n).sent.any (fun e => routeBehind s e.1) || unsentBehind s n) || endpointBehind s

theorem extensionCall_eq (s : State) : extensionCall s =
    if s.sch.state = .frozen ∧ s.sch.frozenPads = pgSlipq s - pgH s ∧ extensionDue s = true then { s with
      sch := { s.sch with extended := true, extendedAt := some (croak s), extQuantum := max s.sch.extQuantum s.sch.quantum } }
    else s := by
  unfold extensionCall extensionDue
  simp only [Bool.or_eq_true, or_assoc]
  rfl

/-- Freezes and their extension. -/
theorem exec_freezes {s : State} (hup : up s = true) :
    (freezeDue s = false → exec .freezeBegin s = .next s) ∧
    (freezeDue s = true → ∃ t, exec .freezeBegin s = .next t ∧ t.sch.state = .frozen ∧ t.sch.quantum = 1 ∧
      t.sch.frozenPads = 0 ∧ t.sch.jp = s.sch.jp ∧ t.sch.callPend = none ∧ t.sch.lastJ = s.sch.callPend ∧
      t.sch.slipPads = (s.sch.slipPads + 1) % 2 ^ 48 ∧ t.sch.slipEvents = min 0xFFFFFFFF (s.sch.slipEvents + 1) ∧
      ((∀ i, (tget {} s.swc.mirrors i).en = false) → (∀ h ∈ s.swc.queues, h.pkt.left = 0) → t = { s with
        sch := t.sch, newts := t.newts, quads := t.quads, swc := { s.swc with nextId := t.swc.nextId } })) ∧
    (freezeOver s = false → exec .freezeEnd s = .next s) ∧
    (freezeOver s = true → ∃ t, exec .freezeEnd s = .next t ∧ t.sch.state = .run ∧ t.sch.quantum = 0 ∧ t.sch.frozenPads = 0 ∧
      t.sch.jp = s.sch.jp ∧ t.sch.slipPads = s.sch.slipPads ∧
      ((∀ i, (tget {} s.swc.mirrors i).en = false) → (∀ h ∈ s.swc.queues, h.pkt.left = 0) → t = { s with
        sch := t.sch, newts := t.newts, quads := t.quads, swc := { s.swc with nextId := t.swc.nextId } })) ∧
    ((extensionDue s = false → exec .extensionCall s = .next s) ∧
     (s.sch.state = .frozen → s.sch.frozenPads = pgSlipq s - pgH s → extensionDue s = true → exec .extensionCall s = .next { s with
       sch := { s.sch with extended := true, extendedAt := some (croak s), extQuantum := max s.sch.extQuantum s.sch.quantum } })) ∧
    (s.sch.state ≠ .frozen ∨ s.sch.frozenPads ≠ pgSlipq s - pgH s → exec .extensionCall s = .next s) := by
  have hbegin : exec .freezeBegin s = .next (freezeBegin s) := whenUp_of_up _ hup
  have hend : exec .freezeEnd s = .next (freezeEnd s) := whenUp_of_up _ hup
  have hcall : exec .extensionCall s = .next (extensionCall s) := whenUp_of_up _ hup
  rw [hbegin, hend, hcall, extensionCall_eq]
  refine ⟨fun h => congrArg Host.Outcome.next (if_pos (by simp [h])), fun h => ⟨_, rfl, ?_⟩,
    fun h => congrArg Host.Outcome.next (if_pos (by simp [h])), fun h => ⟨_, rfl, ?_⟩, ⟨fun h => ?_, fun hs hp h => ?_⟩, fun h => ?_⟩
  · have hleft := freezeBegin_due h
    generalize freezeBegin s = t at hleft ⊢
    exact ⟨hleft.sch_eq (f := Sch.state) fun _ => rfl, hleft.sch_eq (f := Sch.quantum) fun _ => rfl,
      hleft.sch_eq (f := Sch.frozenPads) fun _ => rfl, hleft.sch_eq (f := Sch.jp) fun _ => rfl, hleft.sch_eq (f := Sch.callPend) fun _ => rfl,
      hleft.sch_eq (f := Sch.lastJ) fun _ => rfl, hleft.sch_eq (f := Sch.slipPads) fun _ => rfl,
      hleft.sch_eq (f := Sch.slipEvents) fun _ => rfl, hleft.pad_frame rfl⟩
  · have hleft := freezeEnd_over h
    generalize freezeEnd s = t at hleft ⊢
    exact ⟨hleft.sch_eq (f := Sch.state) fun _ => rfl, hleft.sch_eq (f := Sch.quantum) fun _ => rfl,
      hleft.sch_eq (f := Sch.frozenPads) fun _ => rfl, hleft.sch_eq (f := Sch.jp) fun _ => rfl,
      hleft.sch_eq (f := Sch.slipPads) fun _ => rfl, hleft.pad_frame rfl⟩
  · rw [if_neg (by simp [h])]
  · rw [if_pos ⟨hs, hp, h⟩]
  · rw [if_neg (by tauto)]

/-- A launch count that is reached. -/
theorem exec_launchCountReached {j : Fin 64} {s : State} (hwf : s.Wf) (hup : up s = true) :
    let v := job s j.val
    (v.state ≠ .armed ∨ croak s < v.launchL → exec (.launchCountReached j) s = .next s) ∧
    let begun := if s.sch.epoch < pgEpochs s then lmod v.epochs s.sch.level (· + 1) else v.epochs
    let v' := { v with orphaned := v.orphaned || s.hif.state == .orphan }
    (v.state = .armed → v.launchL ≤ croak s → v.sched = false ∨ s.sch.job ≠ some j.val ∨ s.sch.state ≠ .armed →
      exec (.launchCountReached j) s = .next (jobState j.val .running (setJob j.val v' s))) ∧
    (v.state = .armed → v.launchL ≤ croak s → v.sched = true → s.sch.job = some j.val → s.sch.state = .armed →
      ∃ t, exec (.launchCountReached j) s = .next t ∧ (job t j.val).state = .running ∧ t.sch.state = .run ∧
        t.sch.jp = s.sch.jp ∧ job t j.val = { v' with state := .running, epochs := begun } ∧ (∀ k, k ≠ j.val → job t k = job s k) ∧
        (∀ n, (newt s n).role = .scheduled → (newt s n).state = .idle ∨ (newt s n).state = .paused → (newt t n).state = .run) ∧
        (∀ n, (newt s n).role ≠ .scheduled → newt t n = { newt s n with sent := (newt t n).sent }) ∧
        ((∀ i, (tget {} s.swc.mirrors i).en = false) → (∀ h ∈ s.swc.queues, h.pkt.left = 0) → t = { s with
          sch := t.sch, newts := t.newts, quads := t.quads, jobs := t.jobs, hif := t.hif, swc := { s.swc with nextId := t.swc.nextId } })) := by
  intro v
  have hexec : exec (.launchCountReached j) s = .next (launchReached j.val s) := whenUp_of_up _ hup
  rw [hexec]
  refine ⟨fun h => congrArg Host.Outcome.next (launchReached_of_not h), fun ha hl h => congrArg Host.Outcome.next (launchReached_plain ha hl h),
    fun ha hl hsched hj hs => ⟨_, rfl, ?_⟩⟩
  rw [launchReached_sched ha hl hsched hj hs]
  obtain ⟨hstate, hjp, hjob, hrest, hnewt, hframe⟩ := schedGone_cellsLeft hwf hj
  generalize padCells _ = t at hstate hjp hjob hrest hnewt hframe ⊢
  refine ⟨by rw [hjob], hstate, hjp, hjob, hrest, fun n hr hst => ?_, fun n hr => ?_, hframe⟩
  · rw [hnewt, if_pos (mem_scheduledNewts hr)]
    exact newtGo_run hr hst
  · refine (hnewt n).trans ?_
    rw [newtGo_of_role hr, ite_self]

/-- Settles O54: each pad command by what it makes of the schedule unit, after which the pad's cells leave. -/
theorem schedulePads : Obligations.SchedulePads := by
  unfold Obligations.SchedulePads
  refine ⟨fun j s hwf hup => exec_launchCountReached hwf hup, fun s _ hup hfl => exec_padBoundary hup hfl, fun s _ hup => exec_freezes hup,
    fun s hup => ?_, fun s hwf hup => ?_, fun j s hwf hup => exec_jobDone hwf hup⟩
  · have hexec : exec .densitySample s = .next (densitySample s) := whenUp_of_up _ hup
    rw [hexec]
    refine ⟨fun hs hp => congrArg Host.Outcome.next (if_pos ⟨hs, hp⟩), fun h => congrArg Host.Outcome.next (if_neg ?_)⟩
    tauto
  · have hexec : exec .epochBoundary s = .next (epochBoundary s) := whenUp_of_up _ hup
    rw [hexec]
    exact ⟨fun h => congrArg Host.Outcome.next (if_pos (by simp [h])),
      fun hdue hclear => ⟨_, rfl, epochBoundary_blocked hwf hup hdue hclear⟩, fun hdue hclear => ⟨_, rfl, epochBoundary_begins hwf hdue hclear⟩⟩

end Sys2Proof.Machine
end

section
/-! The statement about the layout commands fails at one concrete state: the table of measurements is none that `State.Wf` keeps sorted,
and a measurement that is set to zero in a table that is not sorted may keep its entry. -/

namespace Sys2Proof.Machine

/-- A staged layout image: a header of zeros, whose fingerprint ACTIVATE_LAYOUT names, and no parts. -/
def blankImage : List Byte := zeros 256

/-- Mailbox slot 0 is about to run ACTIVATE_LAYOUT on the staged `blankImage`, and measurement 7 stands before measurement 6. -/
def measurementsUnsorted : State :=
  { runningChip with
    lay := { runningChip.lay with staged := some blankImage }
    fw := { runningChip.fw with meas := [(7, [1]), (6, [1])] }
    hif := { runningChip.hif with slots :=
      [(0, { bytes := slice (zeros 2 ++ leBytes 2 0x11 ++ zeros 28 ++ imFp blankImage) 0 256, work := .ready })] } }

/-- Stack 1 is lost during the activation (0x0D04). -/
def stackLost : UnitErr := { code := 0x0D04, kind := 5, unit := 1 }

theorem measurementsUnsorted_wf : measurementsUnsorted.Wf := by decide +kernel

/-- Every check of the activation passes. -/
theorem measurementsUnsorted_activates : runnable 0x11 0 measurementsUnsorted = true ∧ measurementsUnsorted.fw.recovery = false ∧
    measurementsUnsorted.lov.poison = [] ∧ activateFails measurementsUnsorted (slice (mslot measurementsUnsorted 0).bytes 32 32) = none ∧
    definedCode stackLost.code = true := by decide +kernel

theorem activateCmd_keeps_measurement :
    tget [] (activateCmd 0 (some stackLost) (mslot measurementsUnsorted 0) measurementsUnsorted).fw.meas 6 = [1] := by decide +kernel

theorem poisonAt_of_clean {s : State} (h : s.lov.poison = []) (a n : Nat) : poisonAt s a n = none := by simp [poisonAt, h]

/-- Refutes O30: an activation that a unit's failure ends does not always leave measurement 6 zero. In `measurementsUnsorted`, which
is well formed, it stays as it was. -/
theorem not_layoutCommands : ¬ Obligations.LayoutCommands := by
  unfold Obligations.LayoutCommands
  intro ⟨_, _, hactivate, _⟩
  obtain ⟨hrun, hrecovery, hclean, hchecks, hcode⟩ := measurementsUnsorted_activates
  obtain ⟨_, hfault, _⟩ := hactivate 0 (some stackLost) measurementsUnsorted hrun hrecovery fun _ _ => poisonAt_of_clean hclean _ _
  obtain ⟨t, hexec, _, _, _, _, _, _, _, hzero⟩ := hfault blankImage stackLost hchecks rfl rfl hcode
  have hnext : activateCmd 0 (some stackLost) (mslot measurementsUnsorted 0) measurementsUnsorted = reply 0 stackLost.code [] t :=
    Host.Outcome.next.inj ((exec_onSlot (activateCmd 0 (some stackLost)) hrun).symm.trans hexec)
  have hkept := activateCmd_keeps_measurement
  rw [hnext, reply_fw, hzero] at hkept
  exact absurd hkept (by decide)

end Sys2Proof.Machine
end

section
/-! PROOF. The switch core and the shaping unit through an error: what a raise, a store in Lovor memory and the trim of an
overflow region leave of them. -/

namespace Sys2Proof.Machine

theorem State.Wf.quads_sorted {s : State} (h : s.Wf) : tsorted s.quads := by
  obtain ⟨-, ⟨-, -, -, hquads, -⟩, -⟩ := h
  exact hquads

theorem State.Wf.ctr_sorted {s : State} (h : s.Wf) : tsorted s.swc.ctr := by
  obtain ⟨-, ⟨-, -, -, -, -, -, -, -, -, -, -, -, -, -, -, -, hctr, -⟩, -⟩ := h
  exact hctr

/-! Frames. -/

/-- From `s` to `t` the switch core alone has changed. -/
def SwcOnly (s t : State) : Prop := t = { s with swc := t.swc }

theorem SwcOnly.of_modSwc (f : Swc → Swc) (s : State) : SwcOnly s (modSwc f s) := rfl

theorem SwcOnly.trans {s t u : State} (h : SwcOnly s t) (g : SwcOnly t u) : SwcOnly s u := by
  unfold SwcOnly at *
  rw [g, h]

theorem SwcOnly.after_quads {s t : State} {qs : Table Quad} (h : SwcOnly { s with quads := qs } t) :
    t = { s with swc := t.swc, quads := t.quads } := by
  unfold SwcOnly at h
  rw [h]

theorem SwcOnly.quads_eq {s t : State} (h : SwcOnly s t) : t.quads = s.quads := by rw [h]

theorem SwcOnly.shp_eq {s t : State} (h : SwcOnly s t) : t.shp = s.shp := by rw [h]

theorem SwcOnly.quad_eq {s t : State} (h : SwcOnly s t) (k : Nat) : Machine.quad t k = Machine.quad s k := by rw [Machine.quad, h]; rfl

/-- From `s` to `t` the switch core, the pool and Lovor memory alone have changed. -/
def TrimOnly (s t : State) : Prop := t = { s with swc := t.swc, pool := t.pool, lov := t.lov }

theorem TrimOnly.of_swcOnly {s t : State} (h : SwcOnly s t) : TrimOnly s t := by
  unfold SwcOnly at h
  unfold TrimOnly
  rw [h]

theorem TrimOnly.trans {s t u : State} (h : TrimOnly s t) (g : TrimOnly t u) : TrimOnly s u := by
  unfold TrimOnly at *
  rw [g, h]

/-! Sticky bits (R478). -/

theorem stickyBit_swc (c : Nat) (s : State) : (stickyBit c s).swc = { s.swc with stat := (stickyBit c s).swc.stat } := by
  unfold stickyBit
  dsimp only
  (repeat' split) <;> rfl

theorem stickyBit_shpNodes (c : Nat) (s : State) : (stickyBit c s).shp.nodes = s.shp.nodes := by
  unfold stickyBit
  dsimp only
  (repeat' split) <;> rfl

theorem stickyBit_shpPols (c : Nat) (s : State) : (stickyBit c s).shp.pols = s.shp.pols := by
  unfold stickyBit
  dsimp only
  (repeat' split) <;> rfl

theorem raise_swc (o : Occ) (s : State) : (raise o s).swc = { s.swc with stat := (raise o s).swc.stat } := by
  unfold raise
  split
  · rw [rasRecord_swc, freshMark_swc]
    exact stickyBit_swc _ s
  · rfl

theorem raise_shpNodes (o : Occ) (s : State) : (raise o s).shp.nodes = s.shp.nodes := by
  unfold raise
  split
  · rw [rasRecord_shp, freshMark_shp, stickyBit_shpNodes]
  · rfl

theorem raise_shpPols (o : Occ) (s : State) : (raise o s).shp.pols = s.shp.pols := by
  unfold raise
  split
  · rw [rasRecord_shp, freshMark_shp, stickyBit_shpPols]
  · rfl

/-- The switch core without its sticky bits and its marks of full overflow regions. -/
def swcFace (s : State) : Swc := { s.swc with stat := 0, ovfFullSeen := [] }

theorem raise_swcFace (o : Occ) (s : State) : swcFace (raise o s) = swcFace s := by rw [swcFace, raise_swc]; rfl

section
variable {s t : State} (h : swcFace t = swcFace s)
include h

theorem queues_of_swcFace : t.swc.queues = s.swc.queues := by
  have hq := congrArg Swc.queues h
  exact hq

theorem ingress_of_swcFace : t.swc.ingress = s.swc.ingress := by
  have hi := congrArg Swc.ingress h
  exact hi

theorem disc_of_swcFace : t.swc.disc = s.swc.disc := by
  have hd := congrArg Swc.disc h
  exact hd

end

theorem raise_queues (o : Occ) (s : State) : (raise o s).swc.queues = s.swc.queues := queues_of_swcFace (raise_swcFace o s)

theorem raise_ingress (o : Occ) (s : State) : (raise o s).swc.ingress = s.swc.ingress := ingress_of_swcFace (raise_swcFace o s)

theorem raise_disc (o : Occ) (s : State) : (raise o s).swc.disc = s.swc.disc := disc_of_swcFace (raise_swcFace o s)

/-! Stores in Lovor memory (R383, R387). -/

theorem lovStore_swcFace (a : Nat) (bs : List Byte) (s : State) : swcFace (lovStore a bs s) = swcFace s :=
  foldl_field swcFace _ (fun t _ => raise_swcFace _ (modStack _ _ t)) _ _

/-- A store that meets no poisoned block writes its bytes and nothing else. -/
theorem lovStore_of_clear {a : Nat} {bs : List Byte} {s : State}
    (h : ∀ b ∈ s.lov.poison, 64 * b + 64 ≤ a ∨ a + bs.length ≤ 64 * b) : lovStore a bs s = lovWrite a bs s := by
  have hnone : s.lov.poison.filter (fun b => decide (64 * b < a + bs.length ∧ a < 64 * b + 64 ∧
      (64 * b < a ∨ a + bs.length < 64 * b + 64))) = [] := by
    refine List.filter_eq_nil_iff.mpr fun b hb => ?_
    have := h b hb
    simp only [decide_eq_true_eq]
    omega
  rw [lovStore, hnone]
  rfl

/-! The trim of an overflow region (R270, R400). -/

theorem bufFree_swcFace (b : Buf) (s : State) : swcFace (bufFree b s) = swcFace s := by
  unfold bufFree
  extract_lets _ s1 next s2
  split
  · exact lovStore_swcFace b.addr _ s1
  · rfl

theorem ovfTrim_swcFace (die : Nat) (s : State) : swcFace (ovfTrim die s) = swcFace s := by
  unfold ovfTrim
  extract_lets empty s1
  have hfree : swcFace s1 = swcFace s := foldl_field swcFace _ (fun t b => bufFree_swcFace b t) _ s
  split
  · exact hfree
  · exact hfree

/-- The link of a buffer that is freed meets no poisoned block. -/
def linkClear (b : Buf) (s : State) : Prop := ∀ p ∈ s.lov.poison, b.addr + 8 ≤ 64 * p ∨ 64 * p + 64 ≤ b.addr

/-- A buffer whose link meets no poisoned block is freed in the pool and in Lovor memory alone, and no block is poisoned by it. -/
theorem bufFree_of_clear {b : Buf} {s : State} (h : linkClear b s) :
    ∃ (pool : Pool) (lov : Lovor), bufFree b s = { s with pool := pool, lov := lov } ∧ ∀ p ∈ lov.poison, p ∈ s.lov.poison := by
  unfold bufFree
  extract_lets _ s1 next s2
  split
  · have hstore : s2 = lovWrite b.addr (leBytes 8 next) s1 := lovStore_of_clear fun p hp => by
      have := h p hp
      rw [leBytes_length]
      omega
    rw [hstore]
    exact ⟨_, _, rfl, fun p hp => List.mem_of_mem_filter hp⟩
  · exact ⟨_, s.lov, rfl, fun _ hp => hp⟩

theorem foldl_bufFree_of_clear (l : List Buf) {s : State} (h : ∀ b ∈ l, linkClear b s) :
    ∃ (pool : Pool) (lov : Lovor), l.foldl (fun t b => bufFree b t) s = { s with pool := pool, lov := lov } := by
  induction l generalizing s with
  | nil => exact ⟨s.pool, s.lov, rfl⟩
  | cons b r ih =>
    obtain ⟨pool, lov, hb, hp⟩ := bufFree_of_clear (h b (by simp))
    have hr : ∀ c ∈ r, linkClear c (bufFree b s) := fun c hc p hin => h c (by simp [hc]) p (hp p (by rw [hb] at hin; exact hin))
    obtain ⟨pool', lov', hfold⟩ := ih hr
    exact ⟨pool', lov', by rw [List.foldl_cons, hfold, hb]⟩

theorem ovfTrim_of_clear {die : Nat} {s : State} (h : ∀ b ∈ s.pool.bufs, linkClear b s) : TrimOnly s (ovfTrim die s) := by
  unfold ovfTrim
  extract_lets empty s1
  obtain ⟨pool, lov, hfold⟩ : ∃ (pool : Pool) (lov : Lovor), s1 = { s with pool := pool, lov := lov } :=
    foldl_bufFree_of_clear empty fun b hb => h b (List.mem_of_mem_filter (List.mem_of_mem_filter hb))
  have hfree : TrimOnly s s1 := by rw [hfold]; rfl
  split
  · exact hfree.trans (.of_swcOnly (.of_modSwc _ s1))
  · exact hfree

end Sys2Proof.Machine
end

section
/-! PROOF. Registers of the switch core and of the shaping unit: clears, mirror sessions, reply reservations (R265, R276, R279), refills
and the writes of nodes, policers and keys (R329, R330, R336, R342, R343). -/

namespace Sys2Proof.Machine

/-- A raised occurrence of a defined code leaves its record set. -/
theorem rasRec_raise_code {o : Occ} {s : State} (code : Nat) (hcode : o.code = code) (hup : up s = true) (hd : definedCode code = true) :
    (rasRec (raise o s) code).set = true := by
  subst hcode
  exact rasRec_raise_set hup hd

/-! Clears (R279). -/

/-- Entries that hold the default can be left out of a table. -/
theorem tget_filter_default {α : Type} [DecidableEq α] (d : α) {t : Table α} (ht : tsorted t) (k : Nat) :
    tget d (t.filter (fun e => decide (e.2 ≠ d))) k = tget d t k := by
  induction t with
  | nil => rfl
  | cons e r ih =>
    obtain ⟨i, v⟩ := e
    obtain ⟨hlt, hr⟩ := List.pairwise_cons.mp ht
    by_cases hv : v = d
    · rw [List.filter_cons_of_neg (by simpa using hv), ih hr, tget_cons]
      split
      · rename_i hi
        rw [tget_absent, hv]
        intro e he
        have : i < e.1 := hlt e he
        omega
      · rfl
    · rw [List.filter_cons_of_pos (by simpa using hv), tget_cons, tget_cons, ih hr]

/-- Every counter changed, and those that come to hold nothing left out. -/
theorem tget_ctr_map (f : PortCtr → PortCtr) (hf : f {} = {}) {t : Table PortCtr} (ht : tsorted t) (k : Nat) :
    tget {} ((t.map (fun e => (e.1, f e.2))).filter (fun e => decide (e.2 ≠ {}))) k = f (tget {} t k) := by
  rw [tget_filter_default {} (tsorted_map (f := fun e => (e.1, f e.2)) (fun _ => rfl) ht), tget_map_value {} f hf]

theorem exec_clears {s : State} (hwf : s.Wf) (hup : up s = true) :
    ∃ t u, exec .clearHigh s = .next t ∧ exec .clearCounters s = .next u ∧
    t.swc.sharedHigh = [0, 0] ∧ t.swc.ovfHigh = [0, 0] ∧ t.swc.copyHigh = [0, 0] ∧ t.swc.disc = s.swc.disc ∧
    (∀ k, tget {} t.swc.ctr k = { tget {} s.swc.ctr k with highOn := 0, highOvf := 0 }) ∧ t = { s with swc := t.swc } ∧
    u.swc.disc = List.replicate 8 0 ∧ u.swc.sharedHigh = s.swc.sharedHigh ∧
    (∀ k, tget {} u.swc.ctr k = { highOn := (tget {} s.swc.ctr k).highOn, highOvf := (tget {} s.swc.ctr k).highOvf }) ∧
    (∀ i, tget {} u.swc.mirrors i = { tget {} s.swc.mirrors i with cnt := 0, dropped := 0, evicted := 0 }) ∧
    u = { s with swc := u.swc } :=
  ⟨clearHigh s, clearCounters s, whenUp_of_up _ hup, whenUp_of_up _ hup, rfl, rfl, rfl, rfl,
    tget_ctr_map (fun c => { c with highOn := 0, highOvf := 0 }) rfl hwf.ctr_sorted, rfl, rfl, rfl,
    tget_ctr_map (fun c => { highOn := c.highOn, highOvf := c.highOvf }) rfl hwf.ctr_sorted,
    tget_map_value {} (fun m => { m with cnt := 0, dropped := 0, evicted := 0 }) rfl s.swc.mirrors, rfl⟩

/-! Mirror sessions (R276). -/

theorem exec_mirrorEnable (i : Fin 16) (w : Word) {s : State} (hup : up s = true) :
    let m := tget {} s.swc.mirrors i.val
    let new := mirWith m w.toNat
    let ok := (new.port = 255 ∨ portExists s new.port = true) ∧ fabricEndpoint s new.dest = true ∧ m.n ≠ 0
    (bitOf w.toNat 0 = false → exec (.mirrorEnable i w) s = .next s) ∧
    (bitOf w.toNat 0 = true → ok → exec (.mirrorEnable i w) s = .next { s with swc := { s.swc with
      mirrors := tset {} s.swc.mirrors i.val { new with pos := if m.en then m.pos else 0 } } }) ∧
    (bitOf w.toNat 0 = true → ¬ ok → ∃ t, exec (.mirrorEnable i w) s = .next t ∧ (rasRec t 0x0506).set = true ∧
      t.swc.mirrors = s.swc.mirrors) := by
  intro m new ok
  have hexec : exec (.mirrorEnable i w) s = .next (if bitOf w.toNat 0 then mirCfgWrite i.val w.toNat s else s) := whenUp_of_up _ hup
  have hbad : ((new.port ≠ 255 ∧ (!portExists s new.port) = true) ∨ (!fabricEndpoint s new.dest) = true ∨ m.n = 0) ↔ ¬ ok := by
    unfold ok
    rw [not_and_or, not_or, not_and_or, not_not]
    simp
  rw [hexec]
  refine ⟨fun hen => by rw [hen]; rfl, fun hen hok => ?_, fun hen hno => ⟨_, rfl, ?_⟩⟩
  all_goals
    have hnew : (!new.en) = false := by rw [show new.en = true from hen]; rfl
    rw [hen, if_pos rfl, mirCfgWrite, if_neg (by rw [hnew]; exact Bool.false_ne_true)]
  · rw [if_neg (fun h => hbad.mp h hok)]
    rfl
  · rw [if_pos (hbad.mpr hno)]
    exact ⟨rasRec_raise_code 0x0506 rfl hup (by decide), by rw [raise_swc]⟩

/-! Reply reservations (R265). -/

theorem exec_rspReservationTimeout (port : Fin 128) {s : State} (hup : up s = true) :
    ((∀ r ∈ s.swc.res, r.port ≠ port.val) → exec (.rspReservationTimeout port) s = .next s) ∧
    ((∃ r ∈ s.swc.res, r.port = port.val) → ∃ t, exec (.rspReservationTimeout port) s = .next t ∧
      (rasRec t 0x0507).set = true ∧ t.swc.res = s.swc.res.eraseP (fun r => r.port == port.val) ∧ t.swc.queues = s.swc.queues) := by
  have hexec : exec (.rspReservationTimeout port) s = .next (rspTimeout port.val s) := whenUp_of_up _ hup
  rw [hexec, rspTimeout]
  refine ⟨fun hno => ?_, fun ⟨r, hr, hport⟩ => ⟨_, rfl, ?_⟩⟩
  · rw [if_neg (by simpa using hno)]
  · rw [if_pos (List.any_eq_true.mpr ⟨r, hr, by simpa using hport⟩)]
    exact ⟨rasRec_raise_code 0x0507 rfl hup (by decide), by rw [raise_swc]; rfl, by rw [raise_swc]; rfl⟩

/-! Refills (R329). -/

theorem exec_tokenRefill {s : State} (hup : up s = true) : ∃ t, exec .tokenRefill s = .next t ∧ t = { s with shp := t.shp } ∧
    (∀ n, snode t n = if (snode s n).en then { snode s n with
      tokens := min (8000 * (snode s n).burst) ((snode s n).tokens + 4 * (snode s n).rate) } else snode s n) ∧
    (∀ k, policer t k = if (policer s k).en then { policer s k with
      tokC := min (8000 * (policer s k).cbs) ((policer s k).tokC + 4 * (policer s k).cir)
      tokE := min (8000 * (policer s k).ebs) ((policer s k).tokE + 4 * (policer s k).erate) } else policer s k) :=
  ⟨refillAll s, whenUp_of_up _ hup, rfl,
    tget_map_value ({} : ShpNode) (fun v : ShpNode => if v.en then { v with tokens := refill v.rate v.burst v.tokens } else v) rfl s.shp.nodes,
    tget_map_value ({} : Policer) (fun v : Policer => if v.en then { v with
      tokC := refill v.cir v.cbs v.tokC, tokE := refill v.erate v.ebs v.tokE } else v) rfl s.shp.pols⟩

/-! Writes of nodes, policers and keys. -/

theorem exec_nodeConfigWrite (n : Nat) (w : Word) {s : State} (hup : up s = true) :
    let v := snode s n
    let en := bitOf w.toNat 0
    let rate := bits w.toNat 22 2
    let burst := bits w.toNat 47 23
    let ovh := signed 9 (bits w.toNat 56 48)
    let legal := nodeExists s n = true ∧ burstOk burst ovh = true ∧
      (en = true → 0x4000 ≤ n → keyTaken s n = false ∧ portExists s v.port = true)
    (legal → 1 ≤ rate → rate ≤ 1800000 → v.lo ≤ rate → rate ≤ v.hi → exec (.nodeConfigWrite n w) s = .next (setSnode n { v with
      en := en, rate := rate, burst := burst, ovh := ovh, tokens := if bitOf w.toNat 1 then 8000 * burst else 0 } s)) ∧
    (legal → rate < v.lo ∨ v.hi < rate → ∃ t, exec (.nodeConfigWrite n w) s = .next t ∧
      (en = true → (rasRec t 0x0702).set = true) ∧ (en = false → (rasRec t 0x0701).set = true) ∧ t.shp.nodes = s.shp.nodes) ∧
    (legal → v.lo ≤ rate → rate ≤ v.hi → rate = 0 ∨ 1800000 < rate →
      ∃ t, exec (.nodeConfigWrite n w) s = .next t ∧ (rasRec t 0x0701).set = true ∧ t.shp.nodes = s.shp.nodes) ∧
    (¬ legal → ∃ t, exec (.nodeConfigWrite n w) s = .next t ∧ (rasRec t 0x0701).set = true ∧ t.shp.nodes = s.shp.nodes) := by
  intro v en rate burst ovh legal
  have hexec : exec (.nodeConfigWrite n w) s = .next (nodeWrite n w.toNat s) := whenUp_of_up _ hup
  have hbad : (!nodeExists s n || !burstOk burst ovh || (en && decide (0x4000 ≤ n) && (keyTaken s n || !portExists s v.port))) = true ↔
      ¬ legal := by
    unfold legal
    cases nodeExists s n <;> cases burstOk burst ovh <;> cases en <;> simp [imp_iff_not_or]
  rw [hexec, nodeWrite]
  refine ⟨fun hl h1 hmax hlo hhi => ?_, fun hl hlim => ⟨_, rfl, ?_⟩, fun hl hlo hhi hrate => ⟨_, rfl, ?_⟩, fun hno => ⟨_, rfl, ?_⟩⟩
  · have hin : ¬ (rate < v.lo ∨ v.hi < rate) := by omega
    have hrate : ¬ (rate == 0 || decide (1800000 < rate)) = true := by
      simp only [Bool.or_eq_true, beq_iff_eq, decide_eq_true_eq]
      omega
    rw [if_neg (fun h => hbad.mp h hl), if_neg (fun h => hin (of_decide_eq_true h)), if_neg hrate]
  · rw [if_neg (fun h => hbad.mp h hl), if_pos (by simpa using hlim)]
    refine ⟨fun hen => ?_, fun hen => ?_, raise_shpNodes _ s⟩
    · exact rasRec_raise_code 0x0702 (if_pos hen) hup (by decide)
    · exact rasRec_raise_code 0x0701 (if_neg (Bool.eq_false_iff.mp hen)) hup (by decide)
  · have hin : ¬ (rate < v.lo ∨ v.hi < rate) := by omega
    rw [if_neg (fun h => hbad.mp h hl), if_neg (fun h => hin (of_decide_eq_true h)), if_pos (by simpa using hrate)]
    exact ⟨rasRec_raise_code 0x0701 rfl hup (by decide), raise_shpNodes _ s⟩
  · rw [if_pos (hbad.mpr hno)]
    exact ⟨rasRec_raise_code 0x0701 rfl hup (by decide), raise_shpNodes _ s⟩

theorem exec_policerConfigWrite (k : Fin 512) (w : Word) {s : State} (hup : up s = true) :
    let v := policer s k.val
    let b := w.toNat
    let new := { v with en := bitOf b 0, mode := bitOf b 2, caware := bitOf b 3, ovh := signed 9 (bits b 12 4), port := bits b 19 13
                        chmask := bits b 35 20, cir := v.wCir, cbs := v.wCbs, erate := v.wErate, ebs := v.wEbs
                        tokC := if bitOf b 1 then 8000 * v.wCbs else 0, tokE := if bitOf b 1 then 8000 * v.wEbs else 0 }
    (policerOk s new = true → exec (.policerConfigWrite k w) s = .next (setPolicer k.val new s)) ∧
    (policerOk s new = false → ∃ t, exec (.policerConfigWrite k w) s = .next t ∧ (rasRec t 0x0701).set = true ∧
      t.shp.pols = s.shp.pols) := by
  intro v b new
  have hexec : exec (.policerConfigWrite k w) s = .next (if policerOk s new then setPolicer k.val new s
      else raise { code := 0x0701, kind := 13, unit := k.val, unit2 := 0x01200000 + 64 * k.val, d := [b] } s) := whenUp_of_up _ hup
  rw [hexec]
  refine ⟨fun hok => by rw [if_pos hok], fun hno => ⟨_, rfl, ?_⟩⟩
  rw [hno]
  exact ⟨rasRec_raise_code 0x0701 rfl hup (by decide), raise_shpPols _ s⟩

theorem exec_subscriberKeyWrite (n : Fin 16384) (w : Word) {s : State} (hup : up s = true) :
    let v := snode s (0x4000 + n.val)
    let legal := v.en = false ∧ bits w.toNat 31 30 ≠ 3 ∧ portExists s (bits w.toNat 29 22) = true
    (legal → exec (.subscriberKeyWrite n w) s = .next (setSnode (0x4000 + n.val) { v with
      src := bits w.toNat 21 0, port := bits w.toNat 29 22, cls := bits w.toNat 31 30 + 1 } s)) ∧
    (¬ legal → ∃ t, exec (.subscriberKeyWrite n w) s = .next t ∧ (rasRec t 0x0701).set = true ∧ t.shp.nodes = s.shp.nodes) := by
  intro v legal
  have hexec : exec (.subscriberKeyWrite n w) s = .next (skeyWrite n.val w.toNat s) := whenUp_of_up _ hup
  have hbad : (v.en || bits w.toNat 31 30 == 3 || !portExists s (bits w.toNat 29 22)) = true ↔ ¬ legal := by
    unfold legal
    rw [not_and_or, not_and_or, not_not]
    simp [or_assoc]
  rw [hexec, skeyWrite]
  refine ⟨fun hl => ?_, fun hno => ⟨_, rfl, ?_⟩⟩
  · rw [if_neg (fun h => hbad.mp h hl)]
  · rw [if_pos (hbad.mpr hno)]
    exact ⟨rasRec_raise_code 0x0701 rfl hup (by decide), raise_shpNodes _ s⟩

end Sys2Proof.Machine
end

section
/-! PROOF. Packets that arrive, wait and are admitted (R256, R260, R263, R264, R300). -/

namespace Sys2Proof.Machine

/-! Changes of the switch core alone. -/

theorem modCtr_swcOnly (port cls : Nat) (f : PortCtr → PortCtr) (s : State) : SwcOnly s (modCtr port cls f s) := .of_modSwc _ s

theorem noteHigh_swcOnly (port cls : Nat) (s : State) : SwcOnly s (noteHigh port cls s) := by
  unfold noteHigh
  exact .of_modSwc _ s

theorem enqueue_swcOnly (port vc acct loc : Nat) (p : Packet) (s : State) : SwcOnly s (enqueue port vc acct loc p s) :=
  (SwcOnly.of_modSwc (fun w => { w with queues := w.queues ++
    [{ pkt := { p with vc := vc }, outPort := port, vc := vc, cells := pktCells p, acct := acct, loc := loc }] }) s).trans
    (noteHigh_swcOnly port p.cls _)

/-! Credits and the ingress FIFOs. -/

theorem returnCredit_frame (src st n : Nat) (s : State) : ∃ qs, returnCredit src st n s = { s with quads := qs } := by
  unfold returnCredit
  split
  · exact ⟨s.quads, rfl⟩
  · split <;> exact ⟨_, rfl⟩

/-- A return after a change of the switch core alone. -/
theorem returnCredit_of_swc {s t : State} (src st n : Nat) (h : SwcOnly s t) : returnCredit src st n t =
    { s with swc := (returnCredit src st n t).swc, quads := (returnCredit src st n t).quads } := by
  obtain ⟨qs, hq⟩ := returnCredit_frame src st n t
  rw [hq, h]

section
variable (src st n : Nat) (s : State)

theorem returnCredit_swc : (returnCredit src st n s).swc = s.swc := by
  obtain ⟨qs, h⟩ := returnCredit_frame src st n s
  rw [h]

theorem returnCredit_rasRec (c : Nat) : rasRec (returnCredit src st n s) c = rasRec s c := by
  obtain ⟨qs, h⟩ := returnCredit_frame src st n s
  rw [h]
  rfl

theorem returnCredit_rte : (returnCredit src st n s).rte = s.rte := by
  obtain ⟨qs, h⟩ := returnCredit_frame src st n s
  rw [h]

theorem returnCredit_lov : (returnCredit src st n s).lov = s.lov := by
  obtain ⟨qs, h⟩ := returnCredit_frame src st n s
  rw [h]

end

/-- What no drain withholds returns to the sender. -/
theorem quad_returnCredit {src st : Nat} {s : State} (n : Nat) (hs : tsorted s.quads) (hsrc : src < 128)
    (h : withholds s src (streamCls st) = false) :
    quad (returnCredit src st n s) src = modCred st (fun c => { c with adv := (c.adv + n) % 65536 }) (quad s src) := by
  rw [returnCredit, if_neg (by omega), h]
  exact quad_setQuad _ _ s hs

/-- A head that leaves its ingress FIFO. -/
theorem ingressPop_of_head {src st : Nat} {w : Waiting} {s : State} (h : ingressHead s src st = some w) :
    ingressPop src st s = returnCredit src st (gotCells w.pkt)
      (modSwc (fun v => { v with ingress := v.ingress.eraseP (fun x => x.src == src && x.inStream == st) }) s) := by
  rw [ingressPop, h]

theorem ingressHead_of_ingress {s t : State} (h : t.swc.ingress = s.swc.ingress) (src st : Nat) :
    ingressHead t src st = ingressHead s src st := by rw [ingressHead, h]; rfl

/-! Ways (R300 to R303) depend on what quads are used for, not on what they hold. -/

/-- From `s` to `t` the routes, the queues and what each quad is used for are as they were. -/
structure WaysKept (s t : State) : Prop where
  rte : t.rte = s.rte
  bank : t.lay.routeBank = s.lay.routeBank
  queues : t.swc.queues = s.swc.queues
  quad : ∀ k, ((quad t k).use, (quad t k).port, (quad t k).state) = ((quad s k).use, (quad s k).port, (quad s k).state)

section
variable {s t : State} (h : WaysKept s t)
include h

theorem WaysKept.use_eq (k : Nat) : (Machine.quad t k).use = (Machine.quad s k).use := congrArg Prod.fst (h.quad k)

theorem WaysKept.port_eq (k : Nat) : (Machine.quad t k).port = (Machine.quad s k).port := congrArg (·.2.1) (h.quad k)

theorem WaysKept.state_eq (k : Nat) : (Machine.quad t k).state = (Machine.quad s k).state := congrArg (·.2.2) (h.quad k)

theorem WaysKept.dirUp_eq (d : Nat) : dirUp t d = dirUp s d := by
  simp only [dirUp, upQuads, h.use_eq, h.port_eq, h.state_eq]

theorem WaysKept.quadPort_eq (k : Nat) : quadPort (Machine.quad t k) = quadPort (Machine.quad s k) := by
  simp only [quadPort, h.use_eq, h.port_eq]

theorem WaysKept.portUp_eq (p : Nat) : portUp t p = portUp s p := by
  simp only [portUp, portUpQuads, portQuads, h.quadPort_eq, h.state_eq]

theorem WaysKept.portNum_eq (q : Nat) : portNum t q = portNum s q := by rw [portNum, h.quadPort_eq, portNum]

theorem WaysKept.prevDir_eq (src : Nat) : prevDir t src = prevDir s src := by simp only [prevDir, h.use_eq]

theorem WaysKept.extOf_eq (a : Nat) : extOf t a = extOf s a := by simp only [extOf, h.rte]

theorem WaysKept.occ_eq (d c : Nat) : occ t d c = occ s d c := by simp only [occ, h.queues]

theorem WaysKept.activeBank_eq : activeBank t = activeBank s := by simp only [activeBank, h.rte, h.bank]

theorem WaysKept.dimOrder_eq (c : Nat) : dimOrder t c = dimOrder s c := by
  have hshort : shortWay t s.rte.coord c = shortWay s s.rte.coord c := by
    funext a
    simp only [shortWay, h.extOf_eq]
  rw [dimOrder, dimOrder, h.rte, hshort]

theorem WaysKept.routeDir_eq (prev : Option Nat) (p : Packet) : routeDir t prev p = routeDir s prev p := by
  have hidx : routeIdx t (chipOf p.dst) = routeIdx s (chipOf p.dst) := by simp only [routeIdx, h.rte]
  simp only [routeDir, h.activeBank_eq, hidx, h.dirUp_eq, h.occ_eq]

theorem WaysKept.mgmtDir_eq (prev : Option Nat) (p : Packet) : mgmtDir t prev p = mgmtDir s prev p := by
  simp only [mgmtDir, h.dimOrder_eq, h.dirUp_eq]

theorem WaysKept.hopVc_eq (prev : Option Nat) (p : Packet) (d : Nat) : hopVc t prev p d = hopVc s prev p d := by
  simp only [hopVc, h.rte, h.extOf_eq]

theorem WaysKept.dstHere_eq (p : Packet) : dstHere t p = dstHere s p := by rw [dstHere, dstHere, h.rte]

theorem WaysKept.nextHop_eq (prev : Option Nat) (p : Packet) : nextHop t prev p = nextHop s prev p := by
  simp only [nextHop, h.dstHere_eq, h.mgmtDir_eq, h.routeDir_eq, h.hopVc_eq]

end

/-! Arrival. -/

/-- The packet that arrives, with its number and the stomp code that counts. -/
def arrivedPkt (p : Packet) (s : State) : Packet :=
  { p with stomp := if 5 ≤ p.stomp then 2 else p.stomp, sid := if p.sid = 0 then s.swc.nextId else p.sid }

/-- The packet without its stomp code, as its record and its discard see it. -/
def unstomped (p : Packet) : Packet := { p with stomp := 0 }

/-- The chip once the packet has its number and is no longer its quad's. -/
def offQuad (q : Nat) (p : Packet) (s : State) : State :=
  modSwc (fun w => { w with nextId := if p.sid = 0 then w.nextId + 1 else w.nextId })
    (modQuad q (fun v => { v with arrivedPkts := v.arrivedPkts.erase p }) s)

theorem numbered_arrived (q : Nat) (p : Packet) (s : State) :
    numbered { p with stomp := if 5 ≤ p.stomp then 2 else p.stomp }
      (modQuad q (fun v => { v with arrivedPkts := v.arrivedPkts.erase p }) s) = (offQuad q p s, arrivedPkt p s) := by
  unfold numbered offQuad arrivedPkt
  by_cases h : p.sid = 0
  · rw [if_neg (not_not.mpr h)]
    simp only [if_pos h]
    rfl
  · rw [if_pos h]
    simp only [if_neg h]
    rfl

/-- The chip once the packet is counted at its port. -/
def countedAt (q : Nat) (p : Packet) (s : State) : State :=
  modCtr (portNum (offQuad q p s) q) p.cls (fun c => { c with
    rxPkt := (c.rxPkt + 1) % 2 ^ 64, rxByte := (c.rxByte + pktLen p) % 2 ^ 64 }) (offQuad q p s)

theorem offQuad_swcOnly (q : Nat) (p : Packet) (s : State) :
    SwcOnly (modQuad q (fun v => { v with arrivedPkts := v.arrivedPkts.erase p }) s) (offQuad q p s) := .of_modSwc _ _

theorem countedAt_ingress (q : Nat) (p : Packet) (s : State) : (countedAt q p s).swc.ingress = s.swc.ingress := rfl

theorem countedAt_swcOnly (q : Nat) (p : Packet) (s : State) :
    SwcOnly (modQuad q (fun v => { v with arrivedPkts := v.arrivedPkts.erase p }) s) (countedAt q p s) :=
  (offQuad_swcOnly q p s).trans (modCtr_swcOnly _ _ _ _)

section
variable {q : Nat} {p : Packet} {s : State} (hs : tsorted s.quads)
include hs

theorem quad_offQuad : quad (offQuad q p s) q = { quad s q with arrivedPkts := (quad s q).arrivedPkts.erase p } :=
  ((offQuad_swcOnly q p s).quad_eq q).trans (quad_setQuad _ _ s hs)

theorem quad_offQuad_other {k : Nat} (hk : k ≠ q) : quad (offQuad q p s) k = quad s k :=
  ((offQuad_swcOnly q p s).quad_eq k).trans (quad_setQuad_other _ _ _ s hs hk)

theorem offQuad_waysKept : WaysKept s (offQuad q p s) where
  rte := rfl
  bank := rfl
  queues := rfl
  quad k := by
    rcases eq_or_ne k q with rfl | hk
    · rw [quad_offQuad hs]
    · rw [quad_offQuad_other hs hk]

theorem countedAt_waysKept : WaysKept s (countedAt q p s) :=
  { offQuad_waysKept hs with }

theorem countedAt_ctr (hc : tsorted s.swc.ctr) : tget {} (countedAt q p s).swc.ctr (8 * portNum s q + p.cls) =
    { tget {} s.swc.ctr (8 * portNum s q + p.cls) with
      rxPkt := ((tget {} s.swc.ctr (8 * portNum s q + p.cls)).rxPkt + 1) % 2 ^ 64
      rxByte := ((tget {} s.swc.ctr (8 * portNum s q + p.cls)).rxByte + pktLen p) % 2 ^ 64 } := by
  rw [countedAt, (offQuad_waysKept hs).portNum_eq]
  exact tget_tset_self _ hc _ _

end

section
variable {q : Nat} {p : Packet} {s : State}
  (hfind : ((quad s q).arrivedPkts.find? (fun x => decide (hdrOf x = hdrOf p))).getD p = p) (hs : tsorted s.quads)
include hfind hs

theorem arrive_of_not_carried (hcarries : carries (quad s q).state p = false) :
    arrive q p s = returnCredit q (streamOf p.cls p.vc) (gotCells p) (badArrival q (offQuad q p s)) := by
  have hno : (!carries (quad (offQuad q p s) q).state (arrivedPkt p s)) = true := by
    rw [quad_offQuad hs, Bool.not_eq_true']
    exact hcarries
  rw [arrive, hfind, numbered_arrived]
  exact if_pos hno

/-- A packet of another class than MGMT that its quad carries is counted, then discarded if it is stomped, else checked and looked
up. -/
theorem arrive_of_carried (hcarries : carries (quad s q).state p = true) (hcls : p.cls ≠ 4) :
    arrive q p s =
      if (arrivedPkt p s).stomp ≠ 0 then returnCredit q (streamOf p.cls p.vc) (gotCells p)
        (stompArrive q (unstomped (arrivedPkt p s)) (arrivedPkt p s).stomp (countedAt q p s))
      else if (enter q (arrivedPkt p s) (countedAt q p s)).2 then (enter q (arrivedPkt p s) (countedAt q p s)).1
      else returnCredit q (streamOf p.cls p.vc) (gotCells p) (enter q (arrivedPkt p s) (countedAt q p s)).1 := by
  have hyes : ¬ (!carries (quad (offQuad q p s) q).state (arrivedPkt p s)) = true := by
    rw [quad_offQuad hs, Bool.not_eq_true', Bool.not_eq_false]
    exact hcarries
  have hmgmt : ¬ ((arrivedPkt p s).cls = 4 ∧ ((arrivedPkt p s).tag = .plain 1 ∨ (arrivedPkt p s).tag = .plain 2)) :=
    fun h => hcls h.1
  have hmtype : ¬ (decide ((arrivedPkt p s).cls = 4) && mtypeReserved (arrivedPkt p s).tag) = true := fun h =>
    hcls (of_decide_eq_true (Bool.and_eq_true_iff.mp h).1)
  rw [arrive, hfind, numbered_arrived]
  refine (if_neg hyes).trans ((if_neg hmgmt).trans ((if_neg hmtype).trans ?_))
  split
  · rfl
  · show (match enter q (arrivedPkt p s) (countedAt q p s) with | (t, true) => t | (t, false) => returnCredit _ _ _ t) = _
    obtain ⟨t, waits⟩ := enter q (arrivedPkt p s) (countedAt q p s)
    cases waits <;> rfl

end

end Sys2Proof.Machine
end

section
/-! PROOF. Arrivals and admissions (R256, R260, R263, R264, R274, R300), by the command. -/

namespace Sys2Proof.Machine

/-! Stomps of packets without a collective tag or copies (R260, R261). -/

theorem stompColl_of_untagged {p : Packet} (h : collTag p = none) (code : Nat) (place : FaultPlace) (s : State) :
    stompColl p code place s = s := by rw [stompColl, h]

theorem stompCopies_of_none {s : State} (h : ∀ x ∈ s.swc.queues, x.own = false) (p : Packet) (code : Nat) :
    stompCopies p code s = s := by
  have hnone : s.swc.queues.filter (fun x => x.own && decide (p.sid ≤ x.pkt.sid ∧ x.pkt.sid < p.sid + 1) && x.pkt.stomp == 0) = [] :=
    List.filter_eq_nil_iff.mpr fun x hx => by simp [h x hx]
  rw [stompCopies, stompCopiesOf, hnone]
  rfl

theorem discard_queues (r : Nat) (s : State) : (discard r s).swc.queues = s.swc.queues := rfl

theorem discard_ingress (r : Nat) (s : State) : (discard r s).swc.ingress = s.swc.ingress := rfl

theorem discard_disc {s t : State} (r : Nat) (h : t.swc.disc = s.swc.disc) : (discard r t).swc.disc = (discard r s).swc.disc := by
  simp only [discard, h]

section
variable (q : Nat) (p : Packet) (code : Nat) (s : State)

theorem stompCount_record (hup : up s = true) : (rasRec (stompCount q p code s) 0x0501).set = true :=
  rasRec_raise_code 0x0501 rfl hup (by decide)

theorem stompCount_ingress : (stompCount q p code s).swc.ingress = s.swc.ingress := raise_ingress _ _

theorem stompCount_queues : (stompCount q p code s).swc.queues = s.swc.queues := raise_queues _ _

theorem stompCount_disc : (stompCount q p code s).swc.disc = s.swc.disc := raise_disc _ _

end

/-- A packet that arrived stomped is counted, recorded and discarded. -/
theorem stompArrive_of_plain {q : Nat} {p : Packet} {s : State} (code : Nat) (htag : collTag p = none) (hegress : atEgress s p = false)
    (hown : ∀ x ∈ s.swc.queues, x.own = false) : stompArrive q p code s = discard 0 (stompCount q p code s) := by
  have hqueues : (discard 0 (stompCount q p code s)).swc.queues = s.swc.queues := stompCount_queues _ _ _ _
  have hcoord : (discard 0 (stompCount q p code s)).rte.coord = s.rte.coord := by
    show (raise _ _).rte.coord = _
    rw [raise_rte]
    rfl
  have hthrough : atEgress (discard 0 (stompCount q p code s)) p = false := by
    rw [atEgress, dstHere, hcoord]
    exact hegress
  rw [stompArrive, stompDrop, stompCopies_of_none (by rwa [hqueues]), stompColl_of_untagged htag, hthrough]
  rfl

/-! Ways and mirror sessions of a packet that goes on. -/

theorem lookup_of_hop {src out vc : Nat} {p : Packet} {s : State} (hhop : nextHop s (prevDir s src) p = some (out, vc))
    (hport : 128 ≤ out ∨ portUp s out = true) : lookup src p s = (s, some (out, vc)) := by
  have hup : ¬ (decide (out < 128) && !portUp s out) = true := by
    rcases hport with h | h
    · simp [h]
    · simp [h]
  rw [lookup, hhop]
  exact if_neg hup

theorem mirrored_of_none {s : State} (h : s.swc.mirrors = []) (ins outs : List Nat) (p : Packet) :
    mirrored ins outs p s = (s, { p with mirs := [] }) := by
  rw [mirrored, mirrorPlan_quiet (fun i => by rw [h]; rfl)]
  rfl

/-- A packet that waits last at the ingress. -/
def waits (w : Waiting) (s : State) : State := modSwc (fun v => { v with ingress := v.ingress ++ [w] }) s

theorem waits_swcOnly (w : Waiting) (s : State) : SwcOnly s (waits w s) := .of_modSwc _ s

theorem waits_ctr (w : Waiting) (s : State) : (waits w s).swc.ctr = s.swc.ctr := rfl

theorem waits_ingress (w : Waiting) (s : State) : (waits w s).swc.ingress = s.swc.ingress ++ [w] := rfl

/-- A packet of REQ, RSP, FWD or MGMT that a torus quad takes waits at its ingress. -/
theorem enter_of_torus {q out vc : Nat} {p : Packet} {s : State} (htag : collTag p = none) (huse : (quad s q).use ≠ 7)
    (h0 : p.cls ≠ 0) (h5 : p.cls ≠ 5) (hmir : s.swc.mirrors = []) (hlook : lookup q p s = (s, some (out, vc))) :
    enter q p s = (waits { src := q, inStream := streamOf p.cls p.vc, out := out, pkt := { p with vc := vc, mirs := [] } } s, true) := by
  have hcheck : collCheck q p s = (s, true) := by rw [collCheck, htag]
  rw [enter, hcheck]
  dsimp only
  rw [if_neg huse]
  dsimp only
  rw [if_neg h0, hlook]
  dsimp only
  rw [if_neg h5, mirrored_of_none hmir]
  rfl

/-! PACKET_ARRIVAL. -/

theorem exec_packetArrival (q : Fin 128) (p : Packet) {s : State} (hwf : s.Wf) (hup : up s = true) :
    let v := quad s q.val
    let key := 8 * portNum s q.val + p.cls
    (v.arrivedPkts.find? (fun x => decide (hdrOf x = hdrOf p))).getD p = p →
    (carries v.state p = false → ∃ t, exec (.packetArrival q p) s = .next t ∧ (rasRec t 0x0805).set = true ∧
      t.swc.ingress = s.swc.ingress ∧ t.swc.queues = s.swc.queues) ∧
    (carries v.state p = true → p.cls ≠ 4 → p.stomp ≠ 0 → collTag p = none → atEgress s p = false →
      (∀ h ∈ s.swc.queues, h.own = false) → ∃ t, exec (.packetArrival q p) s = .next t ∧
      (rasRec t 0x0501).set = true ∧ t.swc.ingress = s.swc.ingress ∧ t.swc.queues = s.swc.queues ∧
      t.swc.disc = (discard 0 s).swc.disc) ∧
    (∀ out vc, v.state = .up → 1 ≤ v.use → v.use ≤ 6 → 1 ≤ p.cls → p.cls ≤ 3 → p.stomp = 0 → collTag p = none →
      s.swc.mirrors = [] → nextHop s (prevDir s q.val) p = some (out, vc) → 128 ≤ out ∨ portUp s out = true →
      ∃ t, exec (.packetArrival q p) s = .next t ∧
        t.swc.ingress = s.swc.ingress ++ [{ src := q.val, inStream := streamOf p.cls p.vc, out := out, pkt := { p with
          vc := vc, sid := if p.sid = 0 then s.swc.nextId else p.sid, mirs := [] } }] ∧
        tget {} t.swc.ctr key = { tget {} s.swc.ctr key with
          rxPkt := ((tget {} s.swc.ctr key).rxPkt + 1) % 2 ^ 64
          rxByte := ((tget {} s.swc.ctr key).rxByte + pktLen p) % 2 ^ 64 } ∧
        t.swc.queues = s.swc.queues ∧ quad t q.val = { v with arrivedPkts := v.arrivedPkts.erase p } ∧
        (∀ k, k ≠ q.val → quad t k = quad s k) ∧ t = { s with swc := t.swc, quads := t.quads }) := by
  intro v key hfind
  have hexec : exec (.packetArrival q p) s = .next (arrive q.val p s) := whenUp_of_up _ hup
  have hs := hwf.quads_sorted
  rw [hexec]
  refine ⟨fun hno => ⟨_, rfl, ?_⟩, fun hyes hcls hstomp htag hegress hown => ⟨_, rfl, ?_⟩,
    fun out vc hst hlo hhi h1 h3 hstomp htag hmir hhop hport => ⟨_, rfl, ?_⟩⟩
  · rw [arrive_of_not_carried hfind hs hno, returnCredit_swc, returnCredit_rasRec]
    exact ⟨rasRec_raise_code 0x0805 rfl hup (by decide), raise_ingress _ _, raise_queues _ _⟩
  · have hcode : (arrivedPkt p s).stomp ≠ 0 := by
      unfold arrivedPkt
      dsimp only
      split
      · decide
      · exact hstomp
    rw [arrive_of_carried hfind hs hyes hcls, if_pos hcode,
      stompArrive_of_plain (p := unstomped (arrivedPkt p s)) (s := countedAt q.val p s) _ htag hegress hown,
      returnCredit_swc, returnCredit_rasRec, discard_ingress, discard_queues, stompCount_ingress, stompCount_queues]
    exact ⟨stompCount_record _ _ _ _ hup, rfl, rfl, discard_disc 0 (stompCount_disc _ _ _ _)⟩
  · have hways := countedAt_waysKept (q := q.val) (p := p) hs
    have huse : (quad (countedAt q.val p s) q.val).use ≠ 7 := by
      rw [hways.use_eq]
      exact Nat.ne_of_lt (Nat.lt_succ_of_le hhi)
    have hlook : lookup q.val (arrivedPkt p s) (countedAt q.val p s) = (countedAt q.val p s, some (out, vc)) :=
      lookup_of_hop (by rw [hways.prevDir_eq, hways.nextHop_eq]; exact hhop) (by rwa [hways.portUp_eq])
    have hclean : (arrivedPkt p s).stomp = 0 := by rw [arrivedPkt, hstomp]; rfl
    have hpkt : { arrivedPkt p s with vc := vc, mirs := [] } =
        { p with vc := vc, sid := if p.sid = 0 then s.swc.nextId else p.sid, mirs := [] } := by rw [arrivedPkt, hstomp]; rfl
    have hcarries : carries v.state p = true := by rw [hst]; rfl
    have hcls : (arrivedPkt p s).cls = p.cls := rfl
    rw [arrive_of_carried hfind hs hcarries (by omega), if_neg (not_not.mpr hclean),
      enter_of_torus (p := arrivedPkt p s) htag huse (by omega) (by omega) hmir hlook, if_pos rfl, hpkt]
    generalize hw : Waiting.mk _ _ _ _ _ = w
    have hframe := (countedAt_swcOnly q.val p s).trans (waits_swcOnly w _)
    exact ⟨by rw [waits_ingress, countedAt_ingress, ← hw]; rfl, by rw [waits_ctr]; exact countedAt_ctr hs hwf.ctr_sorted, rfl,
      (hframe.quad_eq q.val).trans (quad_setQuad _ _ s hs), fun k hk => (hframe.quad_eq k).trans (quad_setQuad_other _ _ _ s hs hk),
      hframe.after_quads⟩

end Sys2Proof.Machine
end

section
/-! PROOF. Admission (R263, R264, R268), from an ingress FIFO and from a unit of this chip. -/

namespace Sys2Proof.Machine

section
variable {src out vc : Nat} {p : Packet} {s : State}

/-- A packet without a collective tag that needs no reply reservation is admitted as its queue's accounts allow. -/
theorem admitFrom_of_plain (hneed : rspNeed s src p = none) (htag : collTag p = none) :
    admitFrom src out vc p s = admitTo out vc p s := by
  have hctx (t : State) : openCtx p t = t := by rw [openCtx, htag]
  have hroom : ctxRoom s p = true := by rw [ctxRoom, htag]
  have hready : collReady s p = true := by rw [collReady, htag]
  rw [admitFrom, hneed, hroom, hready]
  obtain ⟨t, taken⟩ := admitTo out vc p s
  cases taken
  · rfl
  · exact congrArg (·, true) (hctx t)

variable (hout : out < 134) (hovf : acctCells s out p.cls vc 3 = 0) (hcls : p.cls ≠ 2)
include hout hovf hcls

theorem admitTo_of_room {a : Nat} (hacct : onDieAcct s out p.cls vc (pktCells p) = some a) :
    admitTo out vc p s = (enqueue out vc a 0 p s, true) := by
  rw [admitTo, if_neg (by omega), if_neg (not_not.mpr hovf), if_neg (by simp [hcls]), hacct]

/-- A class that may not overflow waits for room. -/
theorem admitTo_of_full (hacct : onDieAcct s out p.cls vc (pktCells p) = none) (hno : bitOf (fieldAt s.swc.bufpart 1 1) p.cls = false) :
    admitTo out vc p s = (s, false) := by
  rw [admitTo, if_neg (by omega), if_neg (not_not.mpr hovf), if_neg (by simp [hcls]), hacct]
  dsimp only
  rw [ovfAdmit, hno]
  rfl

end

/-! PACKET_ADMIT. -/

theorem exec_packetAdmit_eq (src : Fin 129) (st : Nat) {s : State} (hup : up s = true) : exec (.packetAdmit src st) s =
    .next (if src.val = 128 ∧ ingressHead s 128 st = none then admitUnit st (busyDue s) else admitQuad src.val st s) :=
  whenUp_of_up (fun s => if src.val = 128 ∧ ingressHead s 128 st = none then admitUnit st (busyDue s) else admitQuad src.val st s) hup

theorem exec_packetAdmit_quad (src : Fin 129) (st a : Nat) (w : Waiting) {s : State} (hwf : s.Wf) (hup : up s = true)
    (hsrc : src.val < 128) (hhead : ingressHead s src.val st = some w) (hegress : atEgress s w.pkt = false)
    (hneed : rspNeed s src.val w.pkt = none) (htag : collTag w.pkt = none) (hout : w.out < 134)
    (hovf : acctCells s w.out w.pkt.cls w.pkt.vc 3 = 0) (hcls : w.pkt.cls ≠ 2) :
    (onDieAcct s w.out w.pkt.cls w.pkt.vc (pktCells w.pkt) = some a → ∃ t, exec (.packetAdmit src st) s = .next t ∧
      t.swc.queues = s.swc.queues ++
        [{ pkt := w.pkt, outPort := w.out, vc := w.pkt.vc, cells := pktCells w.pkt, acct := a }] ∧
      t.swc.ingress = s.swc.ingress.eraseP (fun x => x.src == src.val && x.inStream == st) ∧
      (withholds s src.val (streamCls st) = false → quad t src.val =
        modCred st (fun c => { c with adv := (c.adv + gotCells w.pkt) % 65536 }) (quad s src.val)) ∧
      t = { s with swc := t.swc, quads := t.quads }) ∧
    (onDieAcct s w.out w.pkt.cls w.pkt.vc (pktCells w.pkt) = none → bitOf (fieldAt s.swc.bufpart 1 1) w.pkt.cls = false →
      exec (.packetAdmit src st) s = .next s) := by
  have hexec : exec (.packetAdmit src st) s = .next (admitQuad src.val st s) :=
    (exec_packetAdmit_eq src st hup).trans (congrArg Host.Outcome.next (if_neg (by omega)))
  have hthrough : ¬ atEgress s w.pkt = true := by rw [hegress]; exact Bool.false_ne_true
  rw [hexec, admitQuad, hhead]
  dsimp only
  rw [if_neg hthrough, admitFrom_of_plain hneed htag]
  refine ⟨fun hacct => ?_, fun hacct hno => ?_⟩
  · rw [admitTo_of_room hout hovf hcls hacct]
    dsimp only
    rw [ingressPop_of_head (s := enqueue w.out w.pkt.vc a 0 w.pkt s) hhead]
    refine ⟨_, rfl, by rw [returnCredit_swc]; rfl, by rw [returnCredit_swc]; rfl, fun hfree => ?_, ?_⟩
    · exact quad_returnCredit (s := modSwc _ (enqueue w.out w.pkt.vc a 0 w.pkt s)) _ hwf.quads_sorted hsrc hfree
    · exact returnCredit_of_swc _ _ _ ((enqueue_swcOnly _ _ _ _ _ s).trans (.of_modSwc _ _))
  · rw [admitTo_of_full hout hovf hcls hacct hno]

theorem busyDue_of_none {s : State} (h : ∀ e ∈ s.rte.busyWait, croak s < e.1) : busyDue s = s := by
  have hdue : s.rte.busyWait.filter (fun e => decide (e.1 ≤ croak s)) = [] :=
    List.filter_eq_nil_iff.mpr fun e he => by simpa using h e he
  have hwait : s.rte.busyWait.filter (fun e => decide (croak s < e.1)) = s.rte.busyWait :=
    List.filter_eq_self.mpr fun e he => by simpa using h e he
  rw [busyDue, hdue, hwait]
  rfl

/-- The chip once a packet of one of its units has its number. -/
def unitNumbered (p : Packet) (s : State) : State :=
  modSwc (fun w => { w with nextId := if p.sid = 0 then w.nextId + 1 else w.nextId }) s

theorem unitNumbered_swcOnly (p : Packet) (s : State) : SwcOnly s (unitNumbered p s) := .of_modSwc _ s

theorem unitPop_swcOnly (p : Packet) (s : State) : SwcOnly s (unitPop p s) := .of_modSwc _ s

/-- The packet with its number, and without copies to make. -/
def unitPkt (p : Packet) (s : State) : Packet := { p with sid := if p.sid = 0 then s.swc.nextId else p.sid, mirs := [] }

theorem unitEnter_of_none {s : State} (h : s.swc.mirrors = []) (out : Nat) (p : Packet) :
    unitEnter out p s = (unitNumbered p s, unitPkt p s) := by
  unfold unitEnter numbered unitNumbered unitPkt
  by_cases hsid : p.sid = 0
  · rw [if_neg (not_not.mpr hsid)]
    simp only [if_pos hsid]
    exact mirrored_of_none (s := modSwc (fun w => { w with nextId := w.nextId + 1 }) s) h _ _ _
  · rw [if_pos hsid]
    simp only [if_neg hsid]
    exact mirrored_of_none (s := s) h _ _ _

theorem exec_packetAdmit_unit (st a out vc : Nat) (p : Packet) {s : State} (hup : up s = true) (hhead : ingressHead s 128 st = none)
    (hbusy : ∀ e ∈ s.rte.busyWait, croak s < e.1) (hmir : s.swc.mirrors = [])
    (hunit : s.swc.unitOut.find? (fun p => streamOf p.cls p.vc == st) = some p) (hdrain : drains s p.cls = false)
    (hegress : atEgress s p = false) (htag : collTag p = none) (hhop : nextHop s none p = some (out, vc)) (hout : out < 134)
    (hport : 128 ≤ out ∨ portUp s out = true) (hcls : p.cls ≠ 2) (hovf : acctCells s out p.cls vc 3 = 0)
    (hacct : onDieAcct s out p.cls vc (pktCells p) = some a) :
    ∃ t, exec (.packetAdmit 128 st) s = .next t ∧ t.swc.queues = s.swc.queues ++
        [{ pkt := { p with vc := vc, sid := if p.sid = 0 then s.swc.nextId else p.sid, mirs := [] }, outPort := out, vc := vc
           cells := pktCells p, acct := a }] ∧
      t.swc.unitOut = s.swc.unitOut.erase p ∧ t = { s with swc := t.swc } := by
  have hexec : exec (.packetAdmit 128 st) s = .next (admitUnit st s) :=
    (exec_packetAdmit_eq 128 st hup).trans (congrArg Host.Outcome.next ((if_pos ⟨rfl, hhead⟩).trans (by rw [busyDue_of_none hbusy])))
  have hgo : ¬ (drains s p.cls || atEgress s p) = true := by simp [hdrain, hegress]
  have hprev : prevDir s 128 = none := by simp [prevDir]
  have hlook : lookup 128 p s = (s, some (out, vc)) := lookup_of_hop (by rwa [hprev]) hport
  have hneed (u : State) (m : Packet) : rspNeed u 128 m = none := by
    unfold rspNeed
    split
    · exact if_neg (by omega)
    · rfl
  rw [hexec, admitUnit, hunit]
  dsimp only
  rw [if_neg hgo, hlook]
  dsimp only
  rw [unitEnter_of_none hmir]
  dsimp only
  rw [admitFrom_of_plain (p := unitPkt p s) (hneed _ _) htag,
    admitTo_of_room (p := unitPkt p s) (s := unitNumbered p s) hout hovf hcls hacct]
  have hframe : SwcOnly s (unitPop p (enqueue out vc a 0 (unitPkt p s) (unitNumbered p s))) :=
    (unitNumbered_swcOnly p s).trans ((enqueue_swcOnly out vc a 0 (unitPkt p s) _).trans (unitPop_swcOnly p _))
  exact ⟨_, rfl, rfl, rfl, hframe⟩

end Sys2Proof.Machine
end

section
/-! PROOF. Resequencing at the egress chip (R307), and packets that begin to leave (R256, R332). -/

namespace Sys2Proof.Machine

/-! A packet that leaves its ingress FIFO. -/

section
variable (src st : Nat) (s : State)

theorem ingressPop_rte : (ingressPop src st s).rte = s.rte := by
  unfold ingressPop
  split
  · rfl
  · exact returnCredit_rte _ _ _ _

theorem ingressPop_lov : (ingressPop src st s).lov = s.lov := by
  unfold ingressPop
  split
  · rfl
  · exact returnCredit_lov _ _ _ _

theorem ingressPop_rasRec (c : Nat) : rasRec (ingressPop src st s) c = rasRec s c := by
  unfold ingressPop
  split
  · rfl
  · exact returnCredit_rasRec _ _ _ _ c

theorem ingressPop_queues : (ingressPop src st s).swc.queues = s.swc.queues := by
  unfold ingressPop
  split
  · rfl
  · rw [returnCredit_swc]
    rfl

end

/-- What has left the ingress FIFOs as they were loses their head. -/
theorem ingressPop_ingress {src st : Nat} {w : Waiting} {s t : State} (hhead : ingressHead s src st = some w)
    (h : t.swc.ingress = s.swc.ingress) :
    (ingressPop src st t).swc.ingress = s.swc.ingress.eraseP (fun x => x.src == src && x.inStream == st) := by
  rw [ingressPop_of_head ((ingressHead_of_ingress h src st).trans hhead), returnCredit_swc, ← h]
  rfl

/-! What resequencing does with a packet of an open flow, by its distance from NEXT. -/

theorem flowOf_key {s : State} {p : Packet} {f : Flow} (h : flowOf s p = some f) : f.key = flowKey p := by
  simpa using List.find?_some h

theorem flowOf_of_rte {s t : State} (h : t.rte = s.rte) (p : Packet) : flowOf t p = flowOf s p := by rw [flowOf, h]; rfl

/-- A flow with one more packet held. -/
def ctxHeld (f : Flow) (p : Packet) : Flow :=
  { f with slots := f.slots.filter (fun e => decide (e.1 ≠ p.seq % 64)) ++ [(p.seq % 64, p)] }

theorem flowOf_putFlow {f : Flow} {p : Packet} (h : f.key = flowKey p) (s : State) : flowOf (putFlow f s) p = some f := by
  have hnone : (s.rte.flows.filter (fun g => decide (g.key ≠ f.key))).find? (fun g => decide (g.key = flowKey p)) = none := by
    refine List.find?_eq_none.mpr fun g hg => ?_
    have := List.of_mem_filter hg
    simpa [h] using this
  show (s.rte.flows.filter (fun g => decide (g.key ≠ f.key)) ++ [f]).find? (fun g => decide (g.key = flowKey p)) = some f
  rw [List.find?_append, hnone]
  simp [h]

section
variable {src out : Nat} {f : Flow} {p : Packet} {s : State}

theorem seqFlow_of_duplicate (h : 32768 ≤ (p.seq + 65536 - f.next) % 65536) : seqFlow src out f p s =
    (sendAck p false false (winOf f) 0 f.next { s with rte := { s.rte with dup := (s.rte.dup + 1) % 2 ^ 32 } }, true) := by
  rw [seqFlow, if_neg (by omega), if_pos h]
  rfl

theorem seqFlow_of_early {c : Nat} (h1 : 1 ≤ (p.seq + 65536 - f.next) % 65536) (h63 : (p.seq + 65536 - f.next) % 65536 ≤ 63)
    (hc : f.ctx = some c) : seqFlow src out f p s = (ctxHold f c p s, true) := by
  rw [seqFlow, if_neg (by omega), if_neg (by omega), hc]
  dsimp only
  rw [if_pos h63]

theorem seqFlow_of_beyond (h1 : 1 ≤ (p.seq + 65536 - f.next) % 65536) (hlt : (p.seq + 65536 - f.next) % 65536 < 32768)
    (hout : 63 < (p.seq + 65536 - f.next) % 65536 ∨ f.ctx = none) : seqFlow src out f p s = (beyondWindow src f p s, true) := by
  rw [seqFlow, if_neg (by omega), if_neg (by omega)]
  split
  · rename_i c hc
    rw [if_neg (by simp only [hc, reduceCtorEq, or_false] at hout; omega)]
  · rfl

theorem drainCtx_of_none (hlast : p.last = false) (hslots : f.slots = []) :
    drainCtx 64 out f p s = sendAck p false false (winOf f) 0 f.next (putFlow f s) := by
  rw [drainCtx, hlast, hslots]
  show seqAck f p s = _
  rw [seqAck, if_neg (by simp [hlast])]

/-- The next packet of a flow that holds no other and stays open. -/
theorem seqFlow_of_next {u : State} (h0 : (p.seq + 65536 - f.next) % 65536 = 0) (hlast : p.last = false) (hslots : f.slots = [])
    (hadmit : seqAdmit src out p s = (u, true)) : seqFlow src out f p s =
      (sendAck p false false (winOf f) 0 ((f.next + 1) % 65536) (putFlow { f with next := (f.next + 1) % 65536 } u), true) := by
  rw [seqFlow, if_pos h0, hadmit]
  exact congrArg (·, true) (drainCtx_of_none (f := { f with next := (f.next + 1) % 65536 }) hlast hslots)

end

/-- RESEQUENCE of a whole packet at the head of its ingress FIFO, whose flow takes it. -/
theorem reseq_of_taken {p : Packet} {w : Waiting} {f : Flow} {s t : State}
    (hfind : s.swc.ingress.find? (fun w => decide (hdrOf w.pkt = hdrOf p)) = some w)
    (hhead : ingressHead s w.src w.inStream = some w) (hleft : w.pkt.left = 0) (hegress : atEgress s w.pkt = true)
    (hport : 128 ≤ w.out ∨ portUp s w.out = true) (hstomp : w.pkt.stomp = 0) (hflow : flowOf s w.pkt = some f)
    (htaken : seqFlow w.src w.out f w.pkt s = (t, true)) : reseq p s = ingressPop w.src w.inStream t := by
  have hgo : (atEgress s w.pkt && w.pkt.left == 0 && decide (ingressHead s w.src w.inStream = some w)) = true := by
    simp [hegress, hleft, hhead]
  have hup : ¬ (decide (w.out < 128) && !portUp s w.out) = true := by
    rcases hport with h | h
    · simp [h]
    · simp [h]
  rw [reseq, hfind]
  dsimp only
  rw [if_pos hgo, if_neg hup, seqPacket, if_neg (not_not.mpr hstomp), hflow]
  dsimp only
  rw [htaken]

theorem beyondWindow_record {src : Nat} {f : Flow} {p : Packet} {s : State} (hup : up s = true) :
    (rasRec (beyondWindow src f p s) 0x0608).set = true := by
  refine rasRec_raise_code 0x0608 ?_ hup (by decide)
  unfold rteSource
  split <;> rfl

theorem exec_resequence (p : Packet) (w : Waiting) (f : Flow) {s : State} (hup : up s = true)
    (hfind : s.swc.ingress.find? (fun w => decide (hdrOf w.pkt = hdrOf p)) = some w)
    (hhead : ingressHead s w.src w.inStream = some w) (hleft : w.pkt.left = 0) (hegress : atEgress s w.pkt = true)
    (hport : 128 ≤ w.out ∨ portUp s w.out = true) (hstomp : w.pkt.stomp = 0) (hflow : flowOf s w.pkt = some f) :
    let k := w.pkt
    let d := (k.seq + 65536 - f.next) % 65536
    let rest := s.swc.ingress.eraseP (fun x => x.src == w.src && x.inStream == w.inStream)
    (32768 ≤ d → exec (.resequence p) s = .next (ingressPop w.src w.inStream (sendAck k false false (winOf f) 0 f.next
      { s with rte := { s.rte with dup := (s.rte.dup + 1) % 2 ^ 32 } }))) ∧
    (∀ c, 1 ≤ d → d ≤ 63 → f.ctx = some c → ∃ t, exec (.resequence p) s = .next t ∧ t.swc.ingress = rest ∧
      flowOf t k = some { f with slots := f.slots.filter (fun e => decide (e.1 ≠ k.seq % 64)) ++ [(k.seq % 64, k)] } ∧
      (let a := ctxAddr c (k.seq % 64)
       let bs := headerBytes k k.payload.length ++ k.payload
       (∀ b ∈ s.lov.poison, 64 * b + 64 ≤ a ∨ a + bs.length ≤ 64 * b) → t.lov = (lovWrite a bs s).lov) ∧
      t.swc.queues = s.swc.queues) ∧
    (1 ≤ d → d < 32768 → 63 < d ∨ f.ctx = none → ∃ t, exec (.resequence p) s = .next t ∧ (rasRec t 0x0608).set = true ∧
      t.swc.ingress = rest ∧ t.rte.flows = s.rte.flows ∧ t.swc.queues = s.swc.queues) ∧
    (∀ u, d = 0 → k.last = false → f.slots = [] → seqAdmit w.src w.out k s = (u, true) → exec (.resequence p) s =
      .next (ingressPop w.src w.inStream (sendAck k false false (winOf f) 0 ((f.next + 1) % 65536)
        (putFlow { f with next := (f.next + 1) % 65536 } u)))) := by
  intro k d rest
  have hexec : exec (.resequence p) s = .next (reseq p s) := whenUp_of_up _ hup
  have htaken {t : State} : seqFlow w.src w.out f w.pkt s = (t, true) → reseq p s = ingressPop w.src w.inStream t :=
    reseq_of_taken hfind hhead hleft hegress hport hstomp hflow
  rw [hexec]
  refine ⟨fun hd => by rw [htaken (seqFlow_of_duplicate hd)], fun c h1 h63 hc => ⟨_, rfl, ?_⟩, fun h1 hlt hout => ⟨_, rfl, ?_⟩,
    fun u h0 hlast hslots hadmit => by rw [htaken (seqFlow_of_next h0 hlast hslots hadmit)]⟩
  · rw [htaken (seqFlow_of_early h1 h63 hc)]
    have hface : swcFace (ctxHold f c k s) = swcFace s := lovStore_swcFace _ _ s
    refine ⟨ingressPop_ingress hhead (ingress_of_swcFace hface), ?_, fun hclear => ?_, ?_⟩
    · rw [flowOf_of_rte (ingressPop_rte _ _ _)]
      exact flowOf_putFlow (f := ctxHeld f k) (show f.key = flowKey k from flowOf_key hflow) _
    · rw [ingressPop_lov, ← lovStore_of_clear hclear]
      rfl
    · rw [ingressPop_queues, queues_of_swcFace hface]
  · rw [htaken (seqFlow_of_beyond h1 hlt hout), ingressPop_rasRec, ingressPop_rte, ingressPop_queues]
    exact ⟨beyondWindow_record hup, ingressPop_ingress hhead (raise_ingress _ s), (raise_fabricKept _ s).flows, raise_queues _ s⟩

end Sys2Proof.Machine
end

section
/-! PROOF. Packets that begin to leave a port (R256, R257, R332). -/

namespace Sys2Proof.Machine

/-! Shapers change the shaping unit alone. -/

/-- From `s` to `t` the shaping unit alone has changed. -/
def ShpOnly (s t : State) : Prop := t = { s with shp := t.shp }

theorem ShpOnly.foldl {α : Type} {f : State → α → State} (h : ∀ s a, ShpOnly s (f s a)) (l : List α) (s : State) :
    ShpOnly s (l.foldl f s) := by
  induction l generalizing s with
  | nil => rfl
  | cons a r ih =>
    have htail := ih (f s a)
    unfold ShpOnly at *
    rw [List.foldl_cons, htail, h s a]

theorem ShpOnly.swc_eq {s t : State} (h : ShpOnly s t) : t.swc = s.swc := by rw [h]

theorem ShpOnly.quads_eq {s t : State} (h : ShpOnly s t) : t.quads = s.quads := by rw [h]

/-- A change of the switch core after one of the shaping unit. -/
theorem ShpOnly.then_swc {s t u : State} (h : ShpOnly s t) (g : SwcOnly t u) : u = { s with swc := u.swc, shp := u.shp } := by
  unfold ShpOnly at h
  unfold SwcOnly at g
  rw [g, h]

theorem setSnode_shpOnly (n : Nat) (v : ShpNode) (s : State) : ShpOnly s (setSnode n v s) := rfl

theorem shapeCharge_shpOnly (port : Nat) (p : Packet) (s : State) : ShpOnly s (shapeCharge port p s) := by
  unfold shapeCharge
  exact .foldl (fun t n => setSnode_shpOnly n _ t) _ s

theorem shapeHeld_shpOnly (ns : List Nat) (s : State) : ShpOnly s (shapeHeld ns s) := by
  unfold shapeHeld
  exact .foldl (fun t n => setSnode_shpOnly n _ t) ns s

/-! The packet that leaves. -/

/-- The chip once the shapers of a packet's class are charged. -/
def charged (port : Nat) (p : Packet) (s : State) : State := if 1 ≤ p.cls ∧ p.cls ≤ 3 then shapeCharge port p s else s

theorem charged_shpOnly (port : Nat) (p : Packet) (s : State) : ShpOnly s (charged port p s) := by
  unfold charged
  split
  · exact shapeCharge_shpOnly port p s
  · rfl

theorem forwardHeads_cls {s : State} {port cls vc : Nat} {h : Held} (hh : h ∈ forwardHeads s port cls vc) : h.pkt.cls = cls := by
  have hqueue {c : Nat} {x : Held} {f : Held → Bool} (hx : (queueOf s port c vc).find? f = some x) : x.pkt.cls = c := by
    have := List.of_mem_filter (List.mem_of_find?_eq_some hx)
    simp only [Bool.and_eq_true, beq_iff_eq] at this
    exact this.1.2
  unfold forwardHeads at hh
  split at hh
  · rename_i hcls
    obtain ⟨l, -, hl⟩ := List.mem_filterMap.mp hh
    exact (hqueue hl).trans hcls.symm
  · exact hqueue (Option.mem_toList.mp hh)

section
variable {q st port : Nat} {h : Held} {s : State}

theorem leave_of_uncopied (hmirs : h.pkt.mirs = []) : leave q port st h s =
    modQuad q (fun v => { v with txQueue := v.txQueue ++ (packetSlots st h.pkt).map (fun b => (st, b)) })
      (modCtr port h.pkt.cls (fun c => { c with
        txPkt := (c.txPkt + 1) % 2 ^ 64, txByte := (c.txByte + pktLen h.pkt) % 2 ^ 64 })
        (modHeld h (fun h => { h with started := true, quad := q, stalled := false }) (charged port h.pkt s))) := by
  have hpkt : { h.pkt with mirs := [] } = h.pkt := by rw [← hmirs]
  unfold leave
  dsimp only
  rw [hmirs, hpkt]
  rfl

/-- The one head that its shapers hold is noted at each node that it newly finds short. -/
theorem heldBack_one : heldBack port [h] s =
    modHeld h (fun x => { x with shortBy := x.shortBy ++ (shapeShort s port h.pkt).filter (fun n => !h.shortBy.contains n) })
      (shapeHeld ((shapeShort s port h.pkt).filter (fun n => !h.shortBy.contains n)) s) := rfl

end

theorem modQuad_after {s t : State} (h : t = { s with swc := t.swc, shp := t.shp }) (q : Nat) (f : Quad → Quad) :
    modQuad q f t = { s with swc := (modQuad q f t).swc, quads := (modQuad q f t).quads, shp := (modQuad q f t).shp } := by
  rw [h]
  rfl

theorem modHeld_queues (h : Held) (f : Held → Held) (s : State) :
    (modHeld h f s).swc.queues = s.swc.queues.set (s.swc.queues.idxOf h) (f h) := rfl

theorem modHeld_swcOnly (h : Held) (f : Held → Held) (s : State) : SwcOnly s (modHeld h f s) := .of_modSwc _ s

theorem exec_packetForwardStart (q : Fin 128) (st port : Nat) {s : State} (hwf : s.Wf) (hup : up s = true)
    (hstate : (quad s q).state = .up) (hst : st ≠ 0) (hport : quadPort (quad s q) = some port)
    (hfree : ∀ h ∈ s.swc.queues, h.started = true → h.quad = q.val → streamOf h.pkt.cls h.vc ≠ st) :
    let v := quad s q
    let cls := streamCls st
    let heads := (forwardHeads s port cls (streamVc st)).filter (mayLeave s q.val port st)
    (heads = [] → exec (.packetForwardStart q st) s = .next s) ∧
    (∀ h r, heads = h :: r → shapeShort s port h.pkt = [] → h.pkt.mirs = [] →
      ∃ t, exec (.packetForwardStart q st) s = .next t ∧
        t.swc.queues = s.swc.queues.set (s.swc.queues.idxOf h) { h with started := true, quad := q.val, stalled := false } ∧
        quad t q.val = { v with txQueue := v.txQueue ++ (packetSlots st h.pkt).map (fun b => (st, b)) } ∧
        (1 ≤ cls → cls ≤ 3 → t.shp = (shapeCharge port h.pkt s).shp) ∧ (cls = 0 ∨ 3 < cls → t.shp = s.shp) ∧
        (∀ k, k ≠ q.val → quad t k = quad s k) ∧ t = { s with swc := t.swc, quads := t.quads, shp := t.shp }) ∧
    (∀ h, heads = [h] → shapeShort s port h.pkt ≠ [] → ∃ t, exec (.packetForwardStart q st) s = .next t ∧
      let new := (shapeShort s port h.pkt).filter (fun n => !h.shortBy.contains n)
      t.swc.queues = s.swc.queues.set (s.swc.queues.idxOf h) { h with shortBy := h.shortBy ++ new } ∧
      t.shp = (shapeHeld new s).shp ∧ t = { s with swc := t.swc, shp := t.shp }) := by
  intro v cls heads
  have hexec : exec (.packetForwardStart q st) s = .next (forward q.val st s) := whenUp_of_up _ hup
  have hgo : ¬ ((quad s q).state ≠ .up ∨ st = 0 ∨
      s.swc.queues.any (fun h => h.started && h.quad == q.val && streamOf h.pkt.cls h.vc == st) = true) := by
    simp only [hstate, hst, ne_eq, not_true_eq_false, false_or, Bool.not_eq_true, List.any_eq_false, Bool.and_eq_true, beq_iff_eq,
      not_and, and_imp]
    exact hfree
  rw [hexec, forward]
  dsimp only
  rw [hport]
  dsimp only
  rw [if_neg hgo, show (forwardHeads s port (streamCls st) (streamVc st)).filter (mayLeave s q.val port st) = heads from rfl]
  refine ⟨fun hnone => by rw [hnone]; rfl, fun h r hheads hshort hmirs => ⟨_, rfl, ?_⟩, fun h hheads hshort => ⟨_, rfl, ?_⟩⟩
  · have hcls : h.pkt.cls = cls := forwardHeads_cls (List.mem_of_mem_filter (hheads ▸ List.mem_cons_self : h ∈ heads))
    have hchg := charged_shpOnly port h.pkt s
    rw [hheads, List.takeWhile_cons_of_neg (by simp [hshort]), List.find?_cons_of_pos (by simp [hshort])]
    dsimp only
    rw [show heldBack port [] s = s from rfl, leave_of_uncopied hmirs]
    generalize hu : modCtr port h.pkt.cls _ _ = u
    have hswc : SwcOnly (charged port h.pkt s) u := hu ▸ (modHeld_swcOnly _ _ _).trans (modCtr_swcOnly _ _ _ _)
    have hquads : u.quads = s.quads := hswc.quads_eq.trans hchg.quads_eq
    have hquad (k : Nat) : quad u k = quad s k := by rw [quad, hquads]; rfl
    have hs : tsorted u.quads := by rw [hquads]; exact hwf.quads_sorted
    refine ⟨?_, ?_, fun h1 h3 => ?_, fun hno => ?_, fun k hk => ?_, ?_⟩
    · rw [← hchg.swc_eq, ← hu]
      rfl
    · rw [modQuad, quad_setQuad _ _ _ hs, hquad]
    · rw [show (modQuad q.val _ u).shp = u.shp from rfl, hswc.shp_eq, charged, if_pos (by omega)]
    · rw [show (modQuad q.val _ u).shp = u.shp from rfl, hswc.shp_eq, charged, if_neg (by omega)]
    · rw [modQuad, quad_setQuad_other _ _ _ _ hs hk, hquad]
    · exact modQuad_after (hchg.then_swc hswc) q.val _
  · have hlong : (shapeShort s port h.pkt).isEmpty = false := by simpa using hshort
    rw [hheads, List.takeWhile_cons_of_pos (by simp [hlong]), List.find?_cons_of_neg (by simp [hlong])]
    dsimp only [List.takeWhile_nil, List.find?_nil]
    rw [heldBack_one]
    have hshp := shapeHeld_shpOnly ((shapeShort s port h.pkt).filter (fun n => !h.shortBy.contains n)) s
    exact ⟨by rw [modHeld_queues, hshp.swc_eq], rfl, hshp.then_swc (modHeld_swcOnly _ _ _)⟩

end Sys2Proof.Machine
end

section
/-! PROOF. Stomps, moves back from overflow and stalls (R254, R259, R260, R267, R269), and the obligation SwitchPackets. -/

namespace Sys2Proof.Machine

/-! STOMP (R254, R260). -/

theorem stompTarget_mem {s : State} {port cls vc : Nat} {h : Held} (ht : stompTarget s port cls vc = some h) : h ∈ s.swc.queues := by
  have hmem : h ∈ queueOf s port cls vc := by
    rcases Option.or_eq_some_iff.mp ht with hfind | ⟨-, hhead⟩
    · exact List.mem_of_find?_eq_some hfind
    · exact List.mem_of_mem_head? hhead
  exact List.mem_of_mem_filter hmem

section
variable {h : Held} {code seg : Nat} {s : State}

theorem stompErr_swcFace : swcFace (stompErr h code seg s) = swcFace s := by
  unfold stompErr
  dsimp only
  rw [raise_swcFace]
  split
  · rfl
  · split <;> exact raise_swcFace _ s

/-- The records that a stomp on this chip sets (Table 8-10). -/
theorem stompErr_records (hup : up s = true) (hs : tsorted s.ras.recs) :
    (rasRec (stompErr h code seg s) 0x0501).set = true ∧
    (code = 3 → h.acct ≠ 3 → (rasRec (stompErr h code seg s) 0x0502).set = true) ∧
    (code = 3 → h.acct = 3 → (rasRec (stompErr h code seg s) 0x0503).set = true) := by
  unfold stompErr
  dsimp only
  refine ⟨?_, fun hcode hacct => ?_, fun hcode hacct => ?_⟩
  · refine rasRec_raise_code 0x0501 rfl ?_ (by decide)
    split
    · exact hup
    · split <;> simpa [up] using hup
  · rw [if_neg (not_not.mpr hcode), if_neg hacct]
    exact (raise_recordsStand _ _).set ((raise_recordsStand _ s).sorted hs) _ (rasRec_raise_code 0x0502 rfl hup (by decide))
  · rw [if_neg (not_not.mpr hcode), if_pos hacct]
    exact (raise_recordsStand _ _).set ((raise_recordsStand _ s).sorted hs) _ (rasRec_raise_code 0x0503 rfl hup (by decide))

/-- The chip without a packet that had not started, its discard counted. -/
def dropped (h : Held) (s : State) : State := discard 0 (modSwc (fun w => { w with queues := w.queues.erase h }) s)

variable (hmem : h ∈ s.swc.queues) (hown : ∀ x ∈ s.swc.queues, x.own = false)
include hmem hown

theorem stompQueued_of_waiting (hst : h.started = false) :
    stompQueued h code s = ovfTrim (homeDie s h.outPort) (dropped h s) := by
  have hqueues : (ovfTrim (homeDie s h.outPort) (dropped h s)).swc.queues = s.swc.queues.erase h :=
    queues_of_swcFace (ovfTrim_swcFace _ _)
  rw [stompQueued, hown h hmem, hst]
  exact stompCopies_of_none (s := ovfTrim (homeDie s h.outPort) (dropped h s))
    (fun x hx => hown x (List.mem_of_mem_erase (hqueues ▸ hx))) h.pkt code

theorem stompQueued_of_leaving (hst : h.started = true) (hclean : h.pkt.stomp = 0) : stompQueued h code s =
    stompPassed h.outPort h.pkt.cls (modHeld h (fun h => { h with pkt := { h.pkt with stomp := code } }) s) := by
  rw [stompQueued, hown h hmem, if_pos hst, if_neg (not_not.mpr hclean)]
  exact stompCopies_of_none
    (s := stompPassed h.outPort h.pkt.cls (modHeld h (fun h => { h with pkt := { h.pkt with stomp := code } }) s))
    (fun x hx => (List.mem_or_eq_of_mem_set hx).elim (hown x) (fun he => he ▸ hown h hmem)) h.pkt code

end

theorem exec_stomp (port cls vc code seg : Nat) {s : State} (hwf : s.Wf) (hup : up s = true) :
    let k := if 5 ≤ code then 2 else code
    let segs := bufferSegs s (homeDie s port)
    (code = 0 → seg ∈ segs → exec (.stomp port cls vc ⟨code, seg⟩) s =
      .next { s with swc := { s.swc with stat := s.swc.stat ||| 128, ceAt := some (croak s) } }) ∧
    (code = 0 → seg ∉ segs → exec (.stomp port cls vc ⟨code, seg⟩) s = .next s) ∧
    (stompTarget s port cls vc = none → code ≠ 0 → exec (.stomp port cls vc ⟨code, seg⟩) s = .next s) ∧
    (∀ h, stompTarget s port cls vc = some h → code = 3 → h.acct ≠ 3 → seg ∉ segs →
      exec (.stomp port cls vc ⟨code, seg⟩) s = .next s) ∧
    (∀ h, stompTarget s port cls vc = some h → code ≠ 0 → (code = 3 → h.acct = 3 ∨ seg ∈ segs) → collTag h.pkt = none →
      (∀ x ∈ s.swc.queues, x.own = false) →
      ∃ t, exec (.stomp port cls vc ⟨code, seg⟩) s = .next t ∧ (rasRec t 0x0501).set = true ∧
        (code = 3 → h.acct ≠ 3 → (rasRec t 0x0502).set = true) ∧ (code = 3 → h.acct = 3 → (rasRec t 0x0503).set = true) ∧
        (h.started = false → t.swc.queues = s.swc.queues.erase h ∧ t.swc.disc = (discard 0 s).swc.disc) ∧
        (h.started = true → h.pkt.stomp = 0 → t.swc.disc = (discard 1 s).swc.disc ∧
          t.swc.queues = s.swc.queues.set (s.swc.queues.idxOf h) { h with pkt := { h.pkt with stomp := k } })) := by
  intro k segs
  have hexec : exec (.stomp port cls vc ⟨code, seg⟩) s = .next (stompCmd port cls vc code seg s) := whenUp_of_up _ hup
  rw [hexec, stompCmd]
  refine ⟨fun h0 hseg => ?_, fun h0 hseg => ?_, fun ht h0 => ?_, fun h ht h3 hacct hseg => ?_, fun h ht h0 h3 htag hown => ⟨_, rfl, ?_⟩⟩
  · rw [if_pos h0, if_pos (List.contains_iff_mem.mpr hseg)]
    rfl
  · rw [if_pos h0, if_neg (fun hc => hseg (List.contains_iff_mem.mp hc))]
  · rw [if_neg h0, ht]
  · rw [if_neg (by omega), ht]
    exact congrArg Host.Outcome.next (if_pos (by simpa [h3, hacct] using hseg))
  · have hgo : ¬ (decide (code = 3) && h.acct != 3 && !(bufferSegs s (homeDie s port)).contains seg) = true := by
      simp only [Bool.and_eq_true, decide_eq_true_eq, bne_iff_ne, Bool.not_eq_true', List.contains_eq_mem, decide_eq_false_iff_not]
      exact fun ⟨⟨hc, ha⟩, hseg⟩ => (h3 hc).elim ha hseg
    have hk3 : k = 3 ↔ code = 3 := by
      unfold k
      split <;> omega
    rw [if_neg h0, ht]
    dsimp only
    rw [if_neg hgo, stompHeld, stompColl_of_untagged htag, stompOne]
    have hface : swcFace (stompErr h k seg s) = swcFace s := stompErr_swcFace
    have hrecs := stompErr_records (h := h) (code := k) (seg := seg) hup hwf.recs_sorted
    have hsorted : tsorted (stompErr h k seg s).ras.recs := (stompErr_fabricKept h k seg s).records.sorted hwf.recs_sorted
    change (rasRec (stompQueued h k (stompErr h k seg s)) 0x0501).set = true ∧ _
    generalize stompErr h k seg s = u at hface hrecs hsorted ⊢
    have hqueues := queues_of_swcFace hface
    have hstand := (stompQueued_fabricKept h k u).records.set hsorted
    obtain ⟨h501, h502, h503⟩ := hrecs
    have hmem : h ∈ u.swc.queues := by rw [hqueues]; exact stompTarget_mem ht
    have hown' : ∀ x ∈ u.swc.queues, x.own = false := by rwa [hqueues]
    refine ⟨hstand _ h501, fun hc ha => hstand _ (h502 (hk3.mpr hc) ha), fun hc ha => hstand _ (h503 (hk3.mpr hc) ha),
      fun hst => ?_, fun hst hclean => ?_⟩
    · have htrim := ovfTrim_swcFace (homeDie u h.outPort) (dropped h u)
      rw [stompQueued_of_waiting hmem hown' hst, queues_of_swcFace htrim, disc_of_swcFace htrim, ← hqueues]
      exact ⟨rfl, discard_disc (t := u) 0 (disc_of_swcFace hface)⟩
    · rw [stompQueued_of_leaving hmem hown' hst hclean, ← hqueues]
      exact ⟨discard_disc (t := u) 1 (disc_of_swcFace hface), rfl⟩

/-! OVERFLOW_MOVE_BACK (R269). -/

theorem exec_overflowMoveBack (port cls vc : Nat) {s : State} (hup : up s = true) :
    ((queueOf s port cls vc).find? (fun h => h.acct == 3) = none → exec (.overflowMoveBack port cls vc) s = .next s) ∧
    (∀ h, (queueOf s port cls vc).find? (fun h => h.acct == 3) = some h → 0 < h.pkt.left →
      exec (.overflowMoveBack port cls vc) s = .next s) ∧
    (∀ h, (queueOf s port cls vc).find? (fun h => h.acct == 3) = some h → h.pkt.left = 0 → poisoned s h.loc (256 * h.cells) = false →
      (onDieAcct s port cls vc h.cells = none → exec (.overflowMoveBack port cls vc) s = .next s) ∧
      (∀ a, onDieAcct s port cls vc h.cells = some a → ∃ t, exec (.overflowMoveBack port cls vc) s = .next t ∧
        t.swc.queues = s.swc.queues.set (s.swc.queues.idxOf h) { h with acct := a, loc := 0 } ∧
        ((∀ b ∈ s.pool.bufs, ∀ p ∈ s.lov.poison, b.addr + 8 ≤ 64 * p ∨ 64 * p + 64 ≤ b.addr) →
          t = { s with swc := t.swc, pool := t.pool, lov := t.lov }))) := by
  have hexec : exec (.overflowMoveBack port cls vc) s = .next (moveBack port cls vc s) := whenUp_of_up _ hup
  rw [hexec, moveBack]
  refine ⟨fun hnone => by rw [hnone], fun h hh hleft => ?_, fun h hh hleft hclean => ?_⟩
  · rw [hh]
    exact congrArg Host.Outcome.next (if_pos hleft)
  · rw [hh]
    dsimp only
    rw [if_neg (by omega), if_neg (by rw [hclean]; exact Bool.false_ne_true)]
    refine ⟨fun hnone => by rw [hnone], fun a ha => ?_⟩
    rw [ha]
    dsimp only
    refine ⟨_, rfl, ?_, fun hclear => ?_⟩
    · exact queues_of_swcFace (ovfTrim_swcFace (homeDie s port) (modHeld h (fun h => { h with acct := a, loc := 0 }) s))
    · exact ((TrimOnly.of_swcOnly (modHeld_swcOnly h _ s)).trans (ovfTrim_of_clear (fun b hb => hclear b hb))).trans
        (.of_swcOnly (noteHigh_swcOnly port cls _))

/-! SWC_STALL (R267). -/

theorem exec_swcStall (port cls vc : Nat) {s : State} (hup : up s = true) :
    (∀ w, s.swc.ingress.find? (fun w => portNum s w.src == port && w.inStream == streamOf cls vc && !w.stalled &&
        ingressHead s w.src (streamOf cls vc) == some w) = some w → ∃ t, exec (.swcStall port cls vc) s = .next t ∧
      (rasRec t 0x0505).set = true ∧ t.swc.ingress = s.swc.ingress.set (s.swc.ingress.idxOf w) { w with stalled := true } ∧
      t.swc.queues = s.swc.queues) ∧
    ((∀ w ∈ s.swc.ingress, portNum s w.src ≠ port ∨ w.inStream ≠ streamOf cls vc ∨ w.stalled = true) →
      (∀ h ∈ forwardHeads s port cls vc, h.stalled = true) → exec (.swcStall port cls vc) s = .next s) := by
  have hexec : exec (.swcStall port cls vc) s = .next (stallCmd port cls vc s) := whenUp_of_up _ hup
  rw [hexec, stallCmd]
  refine ⟨fun w hw => ⟨_, rfl, ?_⟩, fun hno hheads => ?_⟩
  · rw [hw]
    exact ⟨rasRec_raise_code 0x0505 rfl hup (by decide), raise_ingress _ _, raise_queues _ _⟩
  · have hnone : s.swc.ingress.find? (fun w => portNum s w.src == port && w.inStream == streamOf cls vc && !w.stalled &&
        ingressHead s w.src (streamOf cls vc) == some w) = none := List.find?_eq_none.mpr fun w hw => by
      rcases hno w hw with h | h | h <;> simp [h]
    dsimp only
    rw [hnone]
    dsimp only
    rw [List.find?_eq_none.mpr fun h hh => by simp [hheads h hh]]

/-- Settles O59: each command by the equation of its cases. What a raise, a store or a trim leaves of the switch core, and that ways
depend on no waiting packet, carry the frames. -/
theorem switchPackets : Obligations.SwitchPackets := by
  unfold Obligations.SwitchPackets
  exact ⟨fun q p _ => exec_packetArrival q p, fun src st a w _ => exec_packetAdmit_quad src st a w,
    fun st a out vc p _ _ => exec_packetAdmit_unit st a out vc p, fun p w f _ _ => exec_resequence p w f,
    fun q st port _ => exec_packetForwardStart q st port, fun port cls vc code seg _ => exec_stomp port cls vc code seg,
    fun port cls vc _ _ hup => by
      obtain ⟨hnone, hleft, hwhole⟩ := exec_overflowMoveBack port cls vc hup
      exact ⟨hnone, hleft, hwhole, exec_swcStall port cls vc hup⟩,
    fun port _ _ => exec_rspReservationTimeout port, fun i w _ _ => exec_mirrorEnable i w, fun _ => exec_clears,
    fun _ _ => exec_tokenRefill, fun n w _ _ => exec_nodeConfigWrite n w, fun k w _ _ => exec_policerConfigWrite k w,
    fun n w _ _ => exec_subscriberKeyWrite n w⟩

end Sys2Proof.Machine
end

section
/-! The statement about the bring-up of a quad fails at one concrete state: a failed link that carries scheduled pads stops the job (R209,
R318), and the abort of the job's collectives ends the packets of theirs that other quads are receiving (R148, R260). -/

namespace Sys2Proof.Machine

/-- A scheduled packet of collective 7. -/
def contribution : Packet :=
  { cls := 0, tag := .coll { coll := 7, kind := 0, tile := 0, rank := 0, offset := 0, stage := 0, last := false } }

/-- A scheduled job runs, with collective 7 not yet committed. Quad 4 carries its pads in direction X+; quad 5, in direction X−, has taken
one of the two cells of a packet of route 3 that belongs to collective 7. -/
def receivingOnAnotherQuad : State :=
  { runningChip with
    jobs := [(0, { state := .running, sched := true })]
    sch := { runningChip.sch with state := .run, job := some 0 }
    colls := [(7, {})]
    quads := [(4, { use := 1, state := .up, reserved := true })
             , (5, { use := 2, state := .up, reserved := true, schedOpen := [(3, contribution, 512, 1)] })] }

theorem receivingOnAnotherQuad_wf : receivingOnAnotherQuad.Wf := by decide +kernel

theorem receivingOnAnotherQuad_up : up receivingOnAnotherQuad = true ∧ (quad receivingOnAnotherQuad (4 : Fin 128)).state ≠ .down := by
  decide +kernel

theorem receivingOnAnotherQuad_open : (quad receivingOnAnotherQuad 5).schedOpen = [(3, contribution, 512, 1)] := by decide +kernel

theorem quadDown_receivingOnAnotherQuad_open :
    (quad (quadDown (4 : Fin 128) receivingOnAnotherQuad) 5).schedOpen = [(3, contribution, 0, 0)] := by decide +kernel

theorem exec_quadLinkFailure {q : Fin 128} {s : State} (hup : up s = true) (h : (quad s q.val).state ≠ .down) :
    exec (.quadLinkFailure q) s = .next (quadDown q.val s) := by
  rw [exec, execQuadLinkFailure, whenUp_of_up _ hup, if_neg h]

theorem schedOpen_of_quadKept {v w : Quad} (h : quadKept v w) : w.schedOpen = v.schedOpen := by
  rw [quadKept] at h
  rw [h]

/-- Refutes O56: a quad whose link fails does not leave every other quad all but its credits and the slots that wait to be sent. In
`receivingOnAnotherQuad` the link of quad 4 fails, so the job stops and collective 7 aborts, and quad 5 no longer takes the cells still to
come of its packet. -/
theorem not_linkBringUp : ¬ Obligations.LinkBringUp := by
  unfold Obligations.LinkBringUp
  intro ⟨_, _, _, _, hfailure, _⟩
  obtain ⟨hup, hstate⟩ := receivingOnAnotherQuad_up
  obtain ⟨t, hexec, _, _, _, _, _, hothers, _⟩ := (hfailure 4 receivingOnAnotherQuad receivingOnAnotherQuad_wf hup).2 hstate
  have hnext : quadDown (4 : Fin 128) receivingOnAnotherQuad = t :=
    Host.Outcome.next.inj ((exec_quadLinkFailure hup hstate).symm.trans hexec)
  have hopen := schedOpen_of_quadKept (hothers 5 (by decide))
  rw [← hnext, quadDown_receivingOnAnotherQuad_open, receivingOnAnotherQuad_open] at hopen
  exact absurd hopen (by decide)

end Sys2Proof.Machine
end

section

/-! ## Every step keeps the memories and tables in canonical form (O5)

`State.Wf` is taken apart into `State.Sound`, one field for each memory and table. Every function of the model that returns a state
keeps `Sound`, one lemma for each function in the order of their calls: a function that writes no table of `Sound` carries every
field over, one that writes a table does so by `tset`, `filter` or `map`, which keep the order, and the rest compose. The step lemma
is then the case split on the command. -/

namespace Sys2Proof.Machine

-- The lemmas cite one another in long chains; elaborated one after another they need one thread instead of a hundred.
set_option Elab.async false

/-- `State.Wf` memory by memory and table by table, so that an operation's proof names the one that it writes. -/
structure State.Sound (s : State) : Prop where
  mem : memWf s.lov.mem = true
  hostMem : memWf s.hostMem = true
  ponds : ∀ e ∈ s.newts, memWf e.2.pond = true
  newts : tsorted s.newts
  jobs : tsorted s.jobs
  colls : tsorted s.colls
  quads : tsorted s.quads
  recs : tsorted s.ras.recs
  slots : tsorted s.hif.slots
  slotBytes : ∀ e ∈ s.hif.slots, e.2.bytes.length = 256
  msix : tsorted s.hif.msix
  pba : tsorted s.hif.pba
  objs : tsorted s.sync.objs
  lines : tsorted s.sync.lines
  fbl : tsorted s.sync.fbl
  chans : tsorted s.dma.chans
  stk : tsorted s.lov.stk
  temps : tsorted s.therm.temps
  conds : tsorted s.therm.conds
  powerHeld : s.therm.powerHeld.length = 4
  mirrors : tsorted s.swc.mirrors
  ctr : tsorted s.swc.ctr
  nodes : tsorted s.shp.nodes
  pols : tsorted s.shp.pols
  ep : tsorted s.rte.ep

theorem State.Wf.sound {s : State} (h : s.Wf) : s.Sound := by
  obtain ⟨hmem, ⟨hnewts, hjobs, hcolls, hquads, hrecs, hslots, hmsix, hpba, hobjs, hlines, hfbl, hchans, hstk, htemps, hconds,
    hmirrors, hctr, hnodes, hpols, hep⟩, hbytes, hpower⟩ := h
  simp only [State.memOk, Bool.and_eq_true, List.all_eq_true] at hmem
  obtain ⟨⟨hlov, hhost⟩, hponds⟩ := hmem
  exact ⟨hlov, hhost, hponds, hnewts, hjobs, hcolls, hquads, hrecs, hslots, hbytes, hmsix, hpba, hobjs, hlines, hfbl, hchans, hstk,
    htemps, hconds, hpower, hmirrors, hctr, hnodes, hpols, hep⟩

theorem State.Sound.wf {s : State} (h : s.Sound) : s.Wf := by
  refine ⟨?_, ⟨h.newts, h.jobs, h.colls, h.quads, h.recs, h.slots, h.msix, h.pba, h.objs, h.lines, h.fbl, h.chans, h.stk, h.temps,
    h.conds, h.mirrors, h.ctr, h.nodes, h.pols, h.ep⟩, h.slotBytes, h.powerHeld⟩
  simp only [State.memOk, Bool.and_eq_true, List.all_eq_true]
  exact ⟨⟨h.mem, h.hostMem⟩, h.ponds⟩

variable {s : State}

/-- What a table holds after a write is what it held, or what was written. -/
theorem mem_tset {α : Type} [DecidableEq α] {d : α} {t : Table α} {k : Nat} {v : α} {e : Nat × α} (h : e ∈ tset d t k v) :
    e ∈ t ∨ e = (k, v) := by
  rw [tset, List.mem_append, List.mem_append] at h
  rcases h with (h | h) | h
  · exact .inl ((List.takeWhile_sublist _).subset h)
  · split at h
    · cases h
    · exact .inr (List.mem_singleton.mp h)
  · exact .inl ((List.dropWhile_sublist _).subset h)

/-- What a table reads as is the default or one of its entries. -/
theorem tget_eq_or_mem {α : Type} (d : α) (t : Table α) (k : Nat) : tget d t k = d ∨ (k, tget d t k) ∈ t := by
  induction t with
  | nil => exact .inl rfl
  | cons e r ih =>
    obtain ⟨i, v⟩ := e
    rw [tget_cons]
    split
    next hik => exact .inr (by rw [hik]; exact List.mem_cons_self)
    next => exact ih.imp_right (List.mem_cons_of_mem _)

theorem sound_ite {c : Prop} [Decidable c] {a b : State} (ha : a.Sound) (hb : b.Sound) : (if c then a else b).Sound := by
  split
  · exact ha
  · exact hb

theorem sound_ite_fst {β : Type} {c : Prop} [Decidable c] {p q : State × β} (hp : p.1.Sound) (hq : q.1.Sound) :
    (if c then p else q).1.Sound := by
  split
  · exact hp
  · exact hq

theorem sound_fst {β : Type} {t : State} {b : β} (h : t.Sound) : (t, b).1.Sound := h

theorem sound_of_eq {β : Type} {p : State × β} {t : State} {b : β} (h : p = (t, b)) (hp : p.1.Sound) : t.Sound := by
  rw [h] at hp
  exact hp

theorem sound_foldl {α : Type} {f : State → α → State} {l : List α} (hf : ∀ t a, t.Sound → (f t a).Sound) (h : s.Sound) :
    (l.foldl f s).Sound := by
  induction l generalizing s with
  | nil => exact h
  | cons a r ih => exact ih (hf s a h)

theorem sound_foldl_fst {α β : Type} {f : State × β → α → State × β} {l : List α} {p : State × β}
    (hf : ∀ t a, t.1.Sound → (f t a).1.Sound) (h : p.1.Sound) : (l.foldl f p).1.Sound := by
  induction l generalizing p with
  | nil => exact h
  | cons a r ih => exact ih (hf p a h)

theorem pond_newt (n : Nat) (h : s.Sound) : memWf (newt s n).pond = true := by
  rcases tget_eq_or_mem {} s.newts n with hn | hn
  · rw [newt, hn]
    rfl
  · exact h.ponds _ hn

theorem bytes_mslot (i : Nat) (h : s.Sound) : (mslot s i).bytes.length = 256 := by
  rcases tget_eq_or_mem {} s.hif.slots i with hi | hi
  · rw [mslot, hi]
    exact List.length_replicate
  · exact h.slotBytes _ hi

theorem setNewt_sound {n : Nat} {v : Newt} (h : s.Sound) (hv : memWf v.pond = true) : (setNewt n v s).Sound :=
  { h with
    newts := tsorted_tset _ h.newts _ _
    ponds := fun e he => (mem_tset he).elim (h.ponds e) fun heq => heq ▸ hv }

theorem modNewt_sound {n : Nat} {f : Newt → Newt} (h : s.Sound)
    (hf : ∀ v, memWf v.pond = true → memWf (f v).pond = true := by exact fun _ h => h) : (modNewt n f s).Sound :=
  setNewt_sound h (hf _ (pond_newt n h))

theorem setJob_sound {j : Nat} {v : Job} (h : s.Sound) : (setJob j v s).Sound := { h with jobs := tsorted_tset _ h.jobs _ _ }

theorem setColl_sound {c : Nat} {v : Coll} (h : s.Sound) : (setColl c v s).Sound :=
    { h with colls := tsorted_tset _ h.colls _ _ }

theorem setObj_sound {o : Nat} {v : SyncObj} (h : s.Sound) : (setObj o v s).Sound :=
    { h with objs := tsorted_tset _ h.objs _ _ }

theorem setBline_sound {l : Nat} {v : BLine} (h : s.Sound) : (setBline l v s).Sound :=
    { h with lines := tsorted_tset _ h.lines _ _ }

theorem setFline_sound {l : Nat} {v : FLine} (h : s.Sound) : (setFline l v s).Sound :=
    { h with fbl := tsorted_tset _ h.fbl _ _ }

theorem setQuad_sound {q : Nat} {v : Quad} (h : s.Sound) : (setQuad q v s).Sound :=
    { h with quads := tsorted_tset _ h.quads _ _ }

theorem setMslot_sound {i : Nat} {v : Slot} (h : s.Sound) (hv : v.bytes.length = 256) : (setMslot i v s).Sound :=
  { h with
    slots := tsorted_tset _ h.slots _ _
    slotBytes := fun e he => (mem_tset he).elim (h.slotBytes e) fun heq => heq ▸ hv }

theorem modMslot_sound {i : Nat} {f : Slot → Slot} (h : s.Sound)
    (hf : ∀ m, m.bytes.length = 256 → (f m).bytes.length = 256 := by exact fun _ h => h) : (modMslot i f s).Sound :=
  setMslot_sound h (hf _ (bytes_mslot i h))

theorem setChan_sound {c : Nat} {v : DmaCh} (h : s.Sound) : (setChan c v s).Sound :=
    { h with chans := tsorted_tset _ h.chans _ _ }

theorem setStack_sound {n : Nat} {v : Stack} (h : s.Sound) : (setStack n v s).Sound :=
    { h with stk := tsorted_tset _ h.stk _ _ }

theorem setRas_sound {c : Nat} {r : RasRec} (h : s.Sound) : (setRas c r s).Sound := { h with recs := tsorted_tset _ h.recs _ _ }

theorem lovWrite_sound {a : Nat} {bs : List Byte} (h : s.Sound) : (lovWrite a bs s).Sound :=
    { h with mem := memWf_memWrite h.mem a bs }

theorem hostWrite_sound {a : Nat} {bs : List Byte} (h : s.Sound) : (hostWrite a bs s).Sound :=
  { h with hostMem := memWf_memWrite h.hostMem a bs }

theorem vector_sound {v : Nat} (h : s.Sound) : (vector v s).Sound := by
  refine sound_ite h (sound_ite ?_ ?_)
  · exact { h with pba := tsorted_tset _ h.pba _ _ }
  · exact { h with }

theorem modSwc_sound {f : Swc → Swc} (h : s.Sound)
    (hm : ∀ w, tsorted w.mirrors → tsorted (f w).mirrors := by exact fun _ h => h)
    (hc : ∀ w, tsorted w.ctr → tsorted (f w).ctr := by exact fun _ h => h) : (modSwc f s).Sound :=
  { h with mirrors := hm _ h.mirrors, ctr := hc _ h.ctr }

theorem sound_pool {p : Pool} (h : s.Sound) : State.Sound { s with pool := p } := { h with }

theorem sound_sch {c : Sch} (h : s.Sound) : State.Sound { s with sch := c } := { h with }

theorem sound_lay {l : Layout} (h : s.Sound) : State.Sound { s with lay := l } := { h with }

theorem sound_quads_map {f : Nat × Quad → Nat × Quad} (h : s.Sound) (hf : ∀ e, (f e).1 = e.1 := by exact fun _ => rfl) :
    State.Sound { s with quads := s.quads.map f } := { h with quads := tsorted_map hf h.quads }

theorem sound_colls_map {f : Nat × Coll → Nat × Coll} (h : s.Sound) (hf : ∀ e, (f e).1 = e.1 := by exact fun _ => rfl) :
    State.Sound { s with colls := s.colls.map f } := { h with colls := tsorted_map hf h.colls }

theorem sound_jobs_map {f : Nat × Job → Nat × Job} (h : s.Sound) (hf : ∀ e, (f e).1 = e.1 := by exact fun _ => rfl) :
    State.Sound { s with jobs := s.jobs.map f } := { h with jobs := tsorted_map hf h.jobs }

theorem sound_nodes_map {f : Nat × ShpNode → Nat × ShpNode} (h : s.Sound) (hf : ∀ e, (f e).1 = e.1 := by exact fun _ => rfl) :
    State.Sound { s with shp := { s.shp with nodes := s.shp.nodes.map f } } := { h with nodes := tsorted_map hf h.nodes }

/-- A table keeps its order under a change of the entries. -/
theorem tsorted_map_snd {α β : Type} {g : Nat × α → β} {t : Table α} (ht : tsorted t) : tsorted (t.map fun e => (e.1, g e)) :=
  tsorted_map (f := fun e => (e.1, g e)) (fun _ => rfl) ht

theorem sound_newts_map {g : Newt → Newt} (h : s.Sound) (hg : ∀ v, (g v).pond = v.pond) :
    State.Sound { s with newts := s.newts.map fun e => (e.1, g e.2) } :=
  { h with
    newts := tsorted_map_snd h.newts
    ponds := fun e he => by
      obtain ⟨x, hx, rfl⟩ := List.mem_map.mp he
      exact (hg x.2).symm ▸ h.ponds x hx }

theorem sound_free {n : Nat} (h : s.Sound) : State.Sound { s with free := n } := { h with }

theorem length_slice (bs : List Byte) (off n : Nat) : (slice bs off n).length = n := by
  simp [slice]

theorem reset_sound : State.Sound {} where
  mem := rfl
  hostMem := rfl
  ponds := fun _ he => absurd he List.not_mem_nil
  newts := .nil
  jobs := .nil
  colls := .nil
  quads := .nil
  recs := .nil
  slots := .nil
  slotBytes := fun _ he => absurd he List.not_mem_nil
  msix := .nil
  pba := .nil
  objs := .nil
  lines := .nil
  fbl := .nil
  chans := .nil
  stk := .nil
  temps := .nil
  conds := .nil
  powerHeld := rfl
  mirrors := .nil
  ctr := .nil
  nodes := .nil
  pols := .nil
  ep := .nil

theorem modJob_sound {j : Nat} {f : Job → Job} {s : State} (h : s.Sound) : (modJob j f s).Sound := setJob_sound h

theorem modColl_sound {c : Nat} {f : Coll → Coll} {s : State} (h : s.Sound) : (modColl c f s).Sound := setColl_sound h

theorem modObj_sound {o : Nat} {f : SyncObj → SyncObj} {s : State} (h : s.Sound) : (modObj o f s).Sound := setObj_sound h

theorem modQuad_sound {q : Nat} {f : Quad → Quad} {s : State} (h : s.Sound) : (modQuad q f s).Sound := setQuad_sound h

theorem modChan_sound {c : Nat} {f : DmaCh → DmaCh} {s : State} (h : s.Sound) : (modChan c f s).Sound := setChan_sound h

theorem modStack_sound {n : Nat} {f : Stack → Stack} {s : State} (h : s.Sound) : (modStack n f s).Sound := setStack_sound h

theorem emit_sound {o : Out} {s : State} (h : s.Sound) : (emit o s).Sound := { h with }

theorem drawn_sound {s : State} (h : s.Sound) : (drawn s).Sound := { h with }

theorem pushEvent_sound {typ : Nat} {data : List Byte} {s : State} (h : s.Sound) : (pushEvent typ data s).Sound :=
  sound_ite { h with } { h with }

theorem logRing_sound {e : LogItem} {s : State} (h : s.Sound) : (logRing e s).Sound := { lovWrite_sound h with }

theorem logUnstage_sound {s : State} (h : s.Sound) : (logUnstage s).Sound :=
  sound_foldl (fun _ _ ht => logRing_sound ht) { h with }

theorem logNow_sound {e : LogItem} {s : State} (h : s.Sound) : (logNow e s).Sound :=
  sound_ite (logRing_sound h) (sound_ite { h with } (sound_ite { h with }
    (logRing_sound (logUnstage_sound { drawn_sound h with }))))

theorem logAdd_sound {typ id : Nat} {data : List Byte} {s : State} (h : s.Sound) : (logAdd typ id data s).Sound :=
  sound_ite h (sound_ite (logNow_sound h) { h with })

theorem logOpen_sound {typ id : Nat} {s : State} (h : s.Sound) : (logOpen typ id s).Sound := logAdd_sound (drawn_sound h)

theorem logFlush_sound {s : State} (h : s.Sound) : (logFlush s).Sound := sound_foldl (fun _ _ ht => logNow_sound ht) { h with }

theorem rasLog_sound {o : Occ} {s : State} (h : s.Sound) : (rasLog o s).Sound := sound_ite (logAdd_sound (setRas_sound h)) h

theorem rasEvent_sound {code : Nat} {s : State} (h : s.Sound) : (rasEvent code s).Sound :=
  sound_ite (setRas_sound (pushEvent_sound h)) h

theorem eventAmend_sound {code : Nat} {s : State} (h : s.Sound) : (eventAmend code s).Sound := sound_ite h { h with }

theorem rasIrq_sound {code : Nat} {s : State} (h : s.Sound) : (rasIrq code s).Sound := sound_ite
    (setRas_sound (vector_sound h)) h

theorem rasFirst_sound {code : Nat} {s : State} (h : s.Sound) : (rasFirst code s).Sound :=
  sound_ite (rasIrq_sound (sound_ite (rasEvent_sound h) h)) (sound_ite (rasEvent_sound h) h)

theorem rasRecord_sound {o : Occ} {s : State} (h : s.Sound) : (rasRecord o s).Sound := by
  refine sound_ite ?_ h
  extract_lets s1 s2
  have h1 : s1.Sound := setRas_sound h
  have h2 : s2.Sound := sound_ite (rasLog_sound h1) h1
  exact sound_ite (sound_ite (eventAmend_sound h2) h2) (rasFirst_sound h2)

theorem stickyBit_sound {code : Nat} {s : State} (h : s.Sound) : (stickyBit code s).Sound := by
  unfold stickyBit
  dsimp only
  split
  · exact { h with }
  · exact sound_ite { h with } h
  · exact sound_ite h { h with }
  · exact { h with }
  · exact { h with }
  · exact { h with }
  · exact sound_ite { h with } (sound_ite { h with } (sound_ite { h with } (sound_ite { h with } h)))
  · exact sound_ite { h with } { h with }
  · exact h

theorem freshMark_sound {k : Option Nat} {s : State} (h : s.Sound) : (freshMark k s).Sound := by
  unfold freshMark
  split
  · exact h
  · exact { h with }

theorem raise_sound {o : Occ} {s : State} (h : s.Sound) : (raise o s).Sound :=
  sound_ite (rasRecord_sound (freshMark_sound (stickyBit_sound h))) h

theorem rasClear_sound {code : Nat} {s : State} (h : s.Sound) : (rasClear code s).Sound := by
  unfold rasClear
  dsimp only
  split
  · exact setRas_sound h
  · exact sound_ite (setRas_sound h) (sound_ite h (rasFirst_sound (setRas_sound h)))

theorem jobState_sound {j : Nat} {t : JobState} {s : State} (h : s.Sound) : (jobState j t s).Sound :=
  sound_ite h (pushEvent_sound (modJob_sound h))

theorem layStatus_sound {cmd status : Nat} {s : State} (h : s.Sound) : (layStatus cmd status s).Sound := sound_ite { h with } h

theorem reply_sound {i status : Nat} {payload : List Byte} {s : State} (h : s.Sound) : (reply i status payload s).Sound := by
  rw [reply.eq_def]
  extract_lets m b s1 hif1 s2
  have hbytes : (b.set 0 3).length = 256 := by
    simp only [b, m, List.length_set, List.length_append, List.length_take, bytes_mslot i h, leBytes_length, length_slice]
    rfl
  have h1 : s1.Sound := setMslot_sound h hbytes
  have h2 : s2.Sound := layStatus_sound { h1 with }
  exact sound_ite (vector_sound h2) h2

theorem cmdFailWith_sound {i : Nat} {o : Occ} {s : State} (h : s.Sound) : (cmdFailWith i o s).Sound := reply_sound
    (raise_sound h)

theorem cmdFail_sound {i code : Nat} {s : State} (h : s.Sound) : (cmdFail i code s).Sound := cmdFailWith_sound h

theorem cmdFailAt_sound {i code chk : Nat} {s : State} (h : s.Sound) : (cmdFailAt i code chk s).Sound := cmdFailWith_sound h

theorem cmdDone_sound {i : Nat} {payload : List Byte} {s : State} (h : s.Sound) : (cmdDone i payload s).Sound := reply_sound h

theorem syncErr_sound {o code agent d ncell src : Nat} {s : State} (h : s.Sound) : (syncErr o code agent d ncell src s).Sound :=
  raise_sound (setObj_sound h)

theorem touch_sound {j : Option Nat} {o : Nat} {s : State} (h : s.Sound) : (touch j o s).Sound := by
  unfold touch
  split
  · exact h
  · exact modJob_sound h

theorem releaseAgent_sound {agent : Nat} {s : State} (h : s.Sound) : (releaseAgent agent s).Sound :=
  sound_ite (modNewt_sound h) (sound_ite (modChan_sound h) (modMslot_sound h (hf := fun _ h => by split <;> exact h)))

theorem serveN_sound {fuel o : Nat} {s : State} (h : s.Sound) : (serveN fuel o s).Sound := by
  induction fuel generalizing s with
  | zero => exact h
  | succ fuel ih =>
    rw [serveN]
    dsimp only
    split
    · exact h
    · exact sound_ite (ih (releaseAgent_sound (setObj_sound h))) h

theorem serve_sound {o : Nat} {s : State} (h : s.Sound) : (serve o s).Sound := serveN_sound h

theorem syncWait_sound {o agent d : Nat} {s : State} (h : s.Sound) : (syncWait o agent d s).1.Sound :=
  sound_ite_fst (serve_sound (modObj_sound h)) (syncErr_sound h)

theorem unwait_sound {o agent : Nat} {s : State} (h : s.Sound) : (unwait o agent s).Sound := serve_sound (modObj_sound h)

theorem unwaitAll_sound {agent : Nat} {s : State} (h : s.Sound) : (unwaitAll agent s).Sound :=
  sound_foldl (fun _ _ ht => unwait_sound ht) h

theorem lineRelease_sound {o : Nat} {s : State} (h : s.Sound) : (lineRelease o s).Sound :=
  sound_foldl (fun _ _ ht => releaseAgent_sound ht) (setObj_sound (setBline_sound h))

theorem fblFaults_sound {o : Nat} {ds : List Nat} {s : State} (h : s.Sound) : (fblFaults o ds s).Sound :=
  sound_foldl (fun _ _ ht => syncErr_sound ht) h

theorem fblAdvance_sound {fuel o : Nat} {s : State} (h : s.Sound) : (fblAdvance fuel o s).Sound := by
  induction fuel generalizing s with
  | zero => exact h
  | succ fuel ih =>
    rw [fblAdvance]
    refine sound_ite (sound_ite (ih (setFline_sound h)) h) (sound_ite (sound_ite ?_ (ih (setFline_sound h))) h)
    exact ih (fblFaults_sound (lineRelease_sound (setFline_sound h)))

theorem lineCheck_sound {o : Nat} {s : State} (h : s.Sound) : (lineCheck o s).Sound :=
  sound_ite (fblAdvance_sound h) (sound_ite (lineRelease_sound h) h)

theorem emptyLines_sound {s : State} (h : s.Sound) : (emptyLines s).Sound := sound_foldl (fun _ _ ht => lineCheck_sound ht) h

theorem barrArrive_sound {o agent : Nat} {s : State} (h : s.Sound) : (barrArrive o agent s).1.Sound :=
  sound_ite_fst (sound_ite_fst (sound_foldl (fun _ _ ht => releaseAgent_sound ht) (modObj_sound (setBline_sound h)))
    (lineCheck_sound (modObj_sound (setBline_sound h)))) (syncErr_sound h)

theorem fblReceive_sound {f d byte : Nat} {s : State} (h : s.Sound) : (fblReceive f d byte s).Sound := by
  unfold fblReceive
  dsimp only
  split
  · exact setFline_sound h
  · exact fblAdvance_sound (fblFaults_sound (setFline_sound h))

theorem signalApply_sound {o d agent src : Nat} {s : State} (h : s.Sound) : (signalApply o d agent src s).1.Sound :=
  sound_ite_fst (sound_ite_fst (syncErr_sound h) (serve_sound (setObj_sound h)))
    (sound_ite_fst (serve_sound (setObj_sound h)) (sound_ite_fst (setObj_sound h) (syncErr_sound h)))

theorem heldApply_sound {o : Nat} {s : State} (h : s.Sound) : (heldApply o s).1.Sound := by
  unfold heldApply
  dsimp only
  split
  · exact h
  · exact signalApply_sound (setObj_sound h)

theorem holdPush_sound {o d ncell agent pc : Nat} {s : State} (h : s.Sound) : (holdPush o d ncell agent pc s).1.Sound :=
  sound_ite_fst (heldApply_sound (setObj_sound h)) (setObj_sound h)

theorem signalLost_sound {d : Nat} {g : SigSlot} {s : State} (h : s.Sound) : (signalLost d g s).Sound := raise_sound h

theorem slotSend_sound {g : SigSlot} {s : State} (h : s.Sound) : (slotSend g s).1.Sound := by
  unfold slotSend
  split
  · exact h
  · exact sound_ite_fst { h with } (signalLost_sound h)

theorem signalsLost_sound {d : Nat} {s : State} (h : s.Sound) : (signalsLost d s).Sound :=
  sound_foldl (fun _ _ ht => signalLost_sound ht) { h with }

theorem signalRemote_sound {g : SigSlot} {agent : Nat} {s : State} (h : s.Sound) : (signalRemote g agent s).Sound :=
  sound_ite (syncErr_sound h) (sound_ite (sound_ite (holdPush_sound h) (syncErr_sound h))
    (sound_ite (syncErr_sound h) (sound_ite (syncErr_sound h) (signalApply_sound h))))

theorem signalProxy_sound {o d : Nat} {s : State} (h : s.Sound) : (signalProxy o d s).Sound :=
  sound_ite (signalRemote_sound (slotSend_sound (setObj_sound (sound_ite h (drawn_sound h)))))
    (slotSend_sound (setObj_sound (sound_ite h (drawn_sound h))))

theorem signalLocal_sound {o d agent pc : Nat} {s : State} (h : s.Sound) : (signalLocal o d agent pc s).1.Sound :=
  sound_ite_fst (syncErr_sound h) (sound_ite_fst (signalProxy_sound h)
    (sound_ite_fst (sound_ite_fst (holdPush_sound h) (syncErr_sound h)) (signalApply_sound h)))

theorem syncCfgWrite_sound {o w : Nat} {s : State} (h : s.Sound) : (syncCfgWrite o w s).Sound := by
  refine sound_ite (sound_ite (setObj_sound h) (sound_ite ?_ (syncErr_sound h))) (sound_ite ?_ (syncErr_sound h))
  · extract_lets v0 v1 s1 bl2 s2
    have h1 : s1.Sound := setObj_sound h
    have h2 : s2.Sound := setBline_sound h1
    exact sound_ite (sound_ite (fblAdvance_sound (fblFaults_sound (setFline_sound h2))) h2) h1
  · exact setObj_sound (sound_lay (sound_ite (setBline_sound h) h))

theorem syncCountWrite_sound {o reg w : Nat} {s : State} (h : s.Sound) : (syncCountWrite o reg w s).Sound :=
  sound_ite (modObj_sound h) h

theorem syncStatWrite_sound {o w : Nat} {s : State} (h : s.Sound) : (syncStatWrite o w s).Sound := by
  unfold syncStatWrite
  exact modObj_sound h

theorem blMaskWrite_sound {l w v : Nat} {s : State} (h : s.Sound) : (blMaskWrite l w v s).Sound := sound_ite h
    (setBline_sound h)

theorem syncTimeout_sound {o agent : Nat} {s : State} (h : s.Sound) : (syncTimeout o agent s).Sound :=
  unwait_sound (syncErr_sound h)

theorem stkUe_sound {a : Nat} {s : State} (h : s.Sound) : (stkUe a s).Sound := raise_sound (modStack_sound h)

theorem stkCe_sound {a : Nat} {s : State} (h : s.Sound) : (stkCe a s).Sound :=
  sound_ite (raise_sound (setStack_sound h)) (setStack_sound h)

theorem readDrawn_sound {a : Nat} {s : State} (h : s.Sound) : (readDrawn a s).Sound :=
  sound_ite (stkCe_sound (drawn_sound h)) (drawn_sound h)

theorem lovStore_sound {a : Nat} {bs : List Byte} {s : State} (h : s.Sound) : (lovStore a bs s).Sound :=
  sound_foldl (fun _ _ ht => stkUe_sound ht) (lovWrite_sound h)

theorem holdBuf_sound {r k a : Nat} {s : State} (h : s.Sound) : (holdBuf r k a s).Sound := { h with }

theorem listPop_sound {k a : Nat} {s : State} (h : s.Sound) : (listPop k a s).Sound := sound_ite { h with } { { h with } with }

theorem bitmapTake_sound {r k : Nat} {s : State} (h : s.Sound) : (bitmapTake r k s).1.Sound := by
  unfold bitmapTake
  split
  · exact h
  · exact holdBuf_sound h

theorem halfTake_sound {r n k : Nat} {s : State} (h : s.Sound) : (halfTake r n k s).1.Sound := by
  unfold halfTake
  refine sound_ite_fst ?_ (bitmapTake_sound h)
  split
  · exact bitmapTake_sound h
  · exact sound_ite_fst (holdBuf_sound (listPop_sound h)) (bitmapTake_sound { raise_sound (sound_ite (stkUe_sound h) h) with })

theorem poolTake_sound {r n die : Nat} {s : State} (h : s.Sound) : (poolTake r n die s).1.Sound := by
  unfold poolTake
  refine sound_ite_fst h ?_
  split
  next heq => exact sound_of_eq heq (halfTake_sound h)
  next heq => exact sound_of_eq heq (halfTake_sound h)

theorem bufFree_sound {b : Buf} {s : State} (h : s.Sound) : (bufFree b s).Sound := by
  refine sound_ite ?_ { h with }
  exact sound_pool (lovStore_sound { h with })

theorem poolFree'_sound {a : Nat} {mayFree : Nat → Bool} {party : Nat} {s : State} (h : s.Sound) :
    (poolFree' a mayFree party s).1.Sound := by
  unfold poolFree'
  split
  · exact sound_ite_fst (bufFree_sound h) (raise_sound h)
  · exact raise_sound h

theorem freeOwned_sound {r : Nat} {s : State} (h : s.Sound) : (freeOwned r s).Sound :=
  sound_foldl (fun _ _ ht => bufFree_sound ht) h

theorem freshLinks_sound {d : Nat} {s : State} (h : s.Sound) : (freshLinks d s).Sound := { h with mem := twf_filter _ h.mem _ }

theorem threadFresh_sound {k : Nat} {s : State} (h : s.Sound) : (threadFresh k s).Sound :=
  sound_foldl (fun _ _ ht => stkUe_sound ht) { h with mem := twf_filter _ h.mem _ }

theorem listRebuild_sound {k : Nat} {s : State} (h : s.Sound) : (listRebuild k s).Sound :=
  sound_foldl (fun _ _ ht => lovStore_sound ht) (threadFresh_sound { h with })

theorem carveWrite_sound {k w : Nat} {s : State} (h : s.Sound) : (carveWrite k w s).Sound :=
  sound_ite (raise_sound h) (freshLinks_sound { h with })

theorem defaultCarve_sound {s : State} (h : s.Sound) : (defaultCarve s).Sound :=
  sound_foldl (fun _ _ ht => { ht with }) { h with }

theorem discard_sound {r : Nat} {s : State} (h : s.Sound) : (discard r s).Sound := { h with }

theorem mgmt_sound {msg : String} {dst : Nat} {vals : List Nat} {s : State} (h : s.Sound) : (mgmt msg dst vals s).Sound :=
  sound_ite { h with } (emit_sound h)

theorem noteHigh_sound {port cls : Nat} {s : State} (h : s.Sound) : (noteHigh port cls s).Sound := by
  unfold noteHigh
  exact modSwc_sound h (hc := fun _ h => tsorted_tset _ h _ _)

theorem ovfTake_sound {die n : Nat} {s : State} (h : s.Sound) : (ovfTake die n s).1.Sound := by
  unfold ovfTake
  split
  · exact h
  · split
    next heq2 => exact sound_of_eq heq2 (poolTake_sound h)
    next heq2 => exact sound_of_eq heq2 (poolTake_sound h)

theorem ovfTrim_sound {die : Nat} {s : State} (h : s.Sound) : (ovfTrim die s).Sound :=
  sound_ite (modSwc_sound (sound_foldl (fun _ _ ht => bufFree_sound ht) h)) (sound_foldl (fun _ _ ht => bufFree_sound ht) h)

theorem enqueue_sound {port vc acct loc : Nat} {p : Packet} {s : State} (h : s.Sound) : (enqueue port vc acct loc p s).Sound :=
  noteHigh_sound (modSwc_sound h)

theorem returnCredit_sound {src st n : Nat} {s : State} (h : s.Sound) : (returnCredit src st n s).Sound :=
  sound_ite h (sound_ite (modQuad_sound h) (modQuad_sound h))

theorem releaseOwed_sound {s : State} (h : s.Sound) : (releaseOwed s).Sound := sound_quads_map h

theorem modCtr_sound {port cls : Nat} {f : PortCtr → PortCtr} {s : State} (h : s.Sound) : (modCtr port cls f s).Sound :=
  modSwc_sound h (hc := fun _ h => tsorted_tset _ h _ _)

theorem modMirror_sound {i : Nat} {f : Mirror → Mirror} {s : State} (h : s.Sound) : (modMirror i f s).Sound :=
  modSwc_sound h (hm := fun _ h => tsorted_tset _ h _ _)

theorem ingressPop_sound {src st : Nat} {s : State} (h : s.Sound) : (ingressPop src st s).Sound := by
  unfold ingressPop
  split
  · exact h
  · exact returnCredit_sound (modSwc_sound h)

theorem modHeld_sound {k : Held} {f : Held → Held} {s : State} (h : s.Sound) : (modHeld k f s).Sound := modSwc_sound h

theorem growHeld_sound {b : List Byte} {last : Bool} {k : Held} {s : State} (h : s.Sound) : (growHeld b last k s).Sound := by
  rw [growHeld.eq_def]
  have hkept := fun f => modHeld_sound (k := k) (f := f) h
  exact sound_ite (modQuad_sound (sound_ite (lovStore_sound (hkept _)) (hkept _)))
    (sound_ite (lovStore_sound (hkept _)) (hkept _))

theorem cellJoins_sound {k : Nat} {b : List Byte} {last : Bool} {s : State} (h : s.Sound) : (cellJoins k b last s).Sound :=
  sound_foldl (fun _ _ ht => growHeld_sound ht) h

theorem cellIn_sound {q k : Nat} {b : List Byte} {last : Bool} {s : State} (h : s.Sound) : (cellIn q k b last s).Sound := by
  unfold cellIn
  exact modQuad_sound (modSwc_sound (cellJoins_sound h))

theorem numbered_sound {p : Packet} {s : State} (h : s.Sound) : (numbered p s).1.Sound :=
  sound_ite_fst (sound_fst h) (sound_fst (modSwc_sound h))

theorem stompPassed_sound {port cls : Nat} {s : State} (h : s.Sound) : (stompPassed port cls s).Sound :=
  discard_sound (modCtr_sound h)

theorem stompCopiesOf_sound {k n code : Nat} {s : State} (h : s.Sound) : (stompCopiesOf k n code s).Sound :=
  sound_foldl (fun _ _ ht => sound_ite (stompPassed_sound (modHeld_sound ht)) (discard_sound (modSwc_sound ht))) h

theorem stompCopies_sound {p : Packet} {code : Nat} {s : State} (h : s.Sound) : (stompCopies p code s).Sound :=
  stompCopiesOf_sound h

theorem stompErr_sound {k : Held} {code seg : Nat} {s : State} (h : s.Sound) : (stompErr k code seg s).Sound :=
  raise_sound (sound_ite h (sound_ite (raise_sound h) (raise_sound h)))

theorem stompQueued_sound {k : Held} {code : Nat} {s : State} (h : s.Sound) : (stompQueued k code s).Sound := by
  unfold stompQueued
  have hgone := ovfTrim_sound (die := homeDie s k.outPort)
    (discard_sound (r := 0) (modSwc_sound (f := fun w => { w with queues := w.queues.erase k }) h))
  split
  · exact sound_ite (sound_ite h (stompPassed_sound (modHeld_sound h))) hgone
  · exact stompCopies_sound (sound_ite (sound_ite h (stompPassed_sound (modHeld_sound h))) hgone)

theorem stompOne_sound {k : Held} {code seg : Nat} {s : State} (h : s.Sound) : (stompOne k code seg s).Sound :=
  stompQueued_sound (stompErr_sound h)

theorem ingressDrop_sound {w : Waiting} {s : State} (h : s.Sound) : (ingressDrop w s).Sound := returnCredit_sound
    (modSwc_sound h)

theorem programEnds_sound {n : Nat} {s : State} (h : s.Sound) : (programEnds n s).Sound := modNewt_sound (freeOwned_sound h)

theorem abortFinish_sound {n : Nat} {s : State} (h : s.Sound) : (abortFinish n s).Sound :=
  sound_ite (programEnds_sound (setNewt_sound h (pond_newt _ h))) h

theorem abortNewt_sound {n : Nat} {s : State} (h : s.Sound) : (abortNewt n s).Sound :=
  sound_ite (setNewt_sound h (pond_newt _ h)) (sound_ite (abortFinish_sound (unwaitAll_sound (setNewt_sound h (pond_newt _ h))))
    (sound_ite (setNewt_sound h (pond_newt _ h)) h))

theorem abortErr_sound {port : Nat} {p : Packet} {s : State} (h : s.Sound) : (abortErr port p s).Sound := raise_sound h

theorem schedCopies_sound {p : Packet} {code : Nat} {b : List Byte} {s : State} (h : s.Sound) :
    (schedCopies p code b s).Sound :=
  sound_ite h (stompCopiesOf_sound (cellJoins_sound h))

theorem abortPipe_sound {c : Nat} {s : State} (h : s.Sound) : (abortPipe c s).Sound :=
  sound_foldl (fun _ _ ht => sound_ite (schedCopies_sound (discard_sound (abortErr_sound ht)))
    (sound_ite (schedCopies_sound (discard_sound (abortErr_sound ht))) ht)) { h with }

theorem abortOpen_sound {q : Nat} {e : Nat × Packet × Nat × Nat} {s : State} (h : s.Sound) : (abortOpen q e s).Sound := by
  obtain ⟨route, p, len, x⟩ := e
  refine sound_ite (modQuad_sound h) ?_
  exact schedCopies_sound (discard_sound (abortErr_sound (sound_sch (modQuad_sound h))))

theorem abortAtNewt_sound {c n : Nat} {s : State} (h : s.Sound) : (abortAtNewt c n s).Sound := by
  rw [abortAtNewt.eq_def]
  extract_lets l mine left s1 s2
  have h1 : s1.Sound := sound_foldl (fun _ _ ht => discard_sound (abortErr_sound ht)) h
  have h2 : s2.Sound := sound_foldl (fun _ _ ht => discard_sound (abortErr_sound ht)) h1
  exact sound_ite (modNewt_sound h2) h2

theorem abortSched_sound {c : Nat} {s : State} (h : s.Sound) : (abortSched c s).Sound :=
  sound_foldl (fun _ _ ht => abortAtNewt_sound ht) (abortPipe_sound
    (sound_foldl (fun _ _ ht => sound_foldl (fun _ _ ht2 => abortOpen_sound ht2) ht) h))

theorem abortStomps_sound {c : Nat} {s : State} (h : s.Sound) : (abortStomps c s).Sound :=
  abortSched_sound (sound_foldl (fun _ _ ht => stompCopies_sound (discard_sound (abortErr_sound (ingressDrop_sound ht))))
    (sound_foldl (fun _ _ ht => stompOne_sound ht) h))

theorem collRaise_sound {c cause : Nat} {p : FaultPlace} {s : State} (h : s.Sound) : (collRaise c cause p s).Sound :=
  sound_ite (raise_sound h) h

theorem collMsg_sound {msg : String} {kind dst c tile rank : Nat} {body : List Nat} {s : State} (h : s.Sound) :
    (collMsg msg kind dst c tile rank body s).Sound :=
  mgmt_sound h

theorem notices_sound {c status cause : Nat} {p : FaultPlace} {s : State} (h : s.Sound) : (notices c status cause p s).Sound :=
  sound_foldl (fun _ _ ht => collMsg_sound ht) h

theorem commitBy_sound {n c : Nat} {s : State} (h : s.Sound) : (commitBy n c s).Sound :=
  sound_ite (notices_sound (modColl_sound (setColl_sound (modNewt_sound h)))) (modNewt_sound h)

theorem cmtFirst_sound {ns : List Nat} {s : State} (h : s.Sound) : (cmtFirst ns s).Sound :=
  sound_foldl (fun _ _ ht => sound_ite (commitBy_sound ht) ht) h

theorem abortAt_sound {n : Nat} {s : State} (h : s.Sound) : (abortAt n s).Sound :=
  abortNewt_sound (sound_ite (modNewt_sound (cmtFirst_sound h)) h)

theorem abortMark_sound {c cause : Nat} {p : FaultPlace} {s : State} (h : s.Sound) : (abortMark c cause p s).Sound :=
  sound_ite (cmtFirst_sound h) (sound_ite (collMsg_sound (cmtFirst_sound h))
    (notices_sound (abortStomps_sound (setColl_sound (cmtFirst_sound h)))))

theorem abortStop_sound {fuel : Nat} {cs seen : List Nat} {s : State} (h : s.Sound) : (abortStop fuel cs seen s).Sound := by
  induction fuel generalizing cs seen s with
  | zero => exact h
  | succ fuel ih =>
    cases cs with
    | nil => exact h
    | cons c r =>
      rw [abortStop]
      refine sound_ite (ih h) (ih ?_)
      exact sound_foldl (fun _ _ ht => abortMark_sound (collRaise_sound ht)) (sound_foldl (fun _ _ ht => abortAt_sound ht) h)

theorem abortReq_sound {c cause : Nat} {p : FaultPlace} {s : State} (h : s.Sound) : (abortReq c cause p s).Sound :=
  sound_ite h (abortStop_sound (abortMark_sound h))

theorem abortEach_sound {cause : Nat} {es : List (Nat × FaultPlace)} {s : State} (h : s.Sound) : (abortEach cause es s).Sound :=
  abortStop_sound (sound_foldl (fun _ _ ht => abortMark_sound (collRaise_sound ht)) h)

theorem abortMany_sound {cs : List Nat} {cause : Nat} {p : FaultPlace} {s : State} (h : s.Sound) :
    (abortMany cs cause p s).Sound :=
  abortEach_sound h

theorem detectAbort_sound {c cause : Nat} {p : FaultPlace} {s : State} (h : s.Sound) : (detectAbort c cause p s).Sound :=
  abortMany_sound h

theorem newtStopped_sound {n : Nat} {s : State} (h : s.Sound) : (newtStopped n s).Sound := abortMany_sound h

theorem stopFor_sound {c : Nat} {ns : List Nat} {s : State} (h : s.Sound) : (stopFor c ns s).Sound :=
  sound_foldl (fun _ _ ht => abortMany_sound ht) (sound_foldl (fun _ _ ht => abortAt_sound ht) h)

theorem abortSettle_sound {i : Nat} {v : Coll} {s : State} (h : s.Sound) : (abortSettle i v s).Sound :=
  sound_ite h (sound_ite (cmdFail_sound h) (sound_ite (cmdDone_sound h) (setMslot_sound h (bytes_mslot _ h))))

theorem collReport_sound {c status : Nat} {st : CollState} {s : State} (h : s.Sound) : (collReport c status st s).Sound :=
  sound_foldl (fun _ _ ht => abortSettle_sound ht) (modJob_sound (setColl_sound h))

theorem memberNotes_sound {r : List Byte} {s : State} (h : s.Sound) : (memberNotes r s).Sound :=
  sound_foldl (fun _ _ ht => sound_ite (collMsg_sound ht) (collMsg_sound ht)) h

theorem jobStop_sound {cause : Nat} {p : FaultPlace} {s : State} (h : s.Sound) : (jobStop cause p s).Sound := by
  unfold jobStop
  refine sound_ite h ?_
  dsimp only
  split
  · exact { h with }
  · exact sound_foldl (fun _ _ ht => abortAt_sound ht) (abortMany_sound (modJob_sound { h with }))

theorem memWf_errRecord {now code pc : Nat} {v : Newt} (hv : memWf v.pond = true) : memWf
    (errRecord now code pc v).pond = true := by
  rw [(errRecord_pond ..).1]
  exact hv

theorem newtHalt_sound {n code pc : Nat} {s : State} (h : s.Sound) : (newtHalt n code pc s).Sound := by
  rw [newtHalt.eq_def]
  extract_lets v rec2 s2 s3
  have h2 : s2.Sound := unwaitAll_sound (setNewt_sound h (memWf_errRecord (pond_newt n h)))
  have h3 : s3.Sound := newtStopped_sound (programEnds_sound h2)
  exact sound_ite (jobStop_sound h3) h3

theorem newtError_sound {n code pc lc : Nat} {ras : Bool} {s : State} (h : s.Sound) : (newtError n code pc lc ras s).Sound :=
  newtHalt_sound (sound_ite (raise_sound h) h)

theorem asbLand_sound {n a : Nat} {d : List Byte} {c : Nat} {src : Option (Nat × Nat)} {s : State} (h : s.Sound) :
    (asbLand n a d c src s).Sound := by
  rw [asbLand.eq_def]
  extract_lets v old new occ at0 s1 s2
  have h1 : s1.Sound := setNewt_sound h (memWf_memWrite (pond_newt n h) a new)
  have h2 : s2.Sound := sound_ite (raise_sound h1) h1
  exact sound_ite (raise_sound h2) h2

theorem landErr_sound {n lc : Nat} {s : State} (h : s.Sound) : (landErr n lc s).Sound := newtError_sound h

theorem landCell_sound {n : Nat} {c : LandCell} {s : State} (h : s.Sound) : (landCell n c s).Sound := by
  refine sound_ite (discard_sound h) (sound_ite (landErr_sound h) (sound_ite (sound_ite ?_ ?_) ?_))
  · exact detectAbort_sound (discard_sound h)
  · exact raise_sound (discard_sound h)
  · exact setNewt_sound h (memWf_memWrite (pond_newt n h) c.addr c.data)

theorem landAsb_sound {n : Nat} {c : LandCell} {s : State} (h : s.Sound) : (landAsb n c s).Sound :=
  sound_ite (discard_sound h) (sound_ite (landErr_sound h) (asbLand_sound (setNewt_sound h (pond_newt _ h))))

theorem landAny_sound {n : Nat} {c : LandCell} {s : State} (h : s.Sound) : (landAny n c s).Sound :=
  sound_ite (landAsb_sound h) (landCell_sound h)

theorem landPacket_sound {p : Packet} {s : State} (h : s.Sound) : (landPacket p s).Sound := by
  unfold landPacket
  split
  · exact sound_foldl (fun _ _ ht => landAny_sound ht) h
  · exact h

theorem setSnode_sound {n : Nat} {v : ShpNode} {s : State} (h : s.Sound) : (setSnode n v s).Sound :=
  { h with nodes := tsorted_tset _ h.nodes _ _ }

theorem setPolicer_sound {k : Nat} {v : Policer} {s : State} (h : s.Sound) : (setPolicer k v s).Sound :=
  { h with pols := tsorted_tset _ h.pols _ _ }

theorem refillAll_sound {s : State} (h : s.Sound) : (refillAll s).Sound :=
  { h with nodes := tsorted_map_snd h.nodes, pols := tsorted_map_snd h.pols }

theorem shapeCharge_sound {port : Nat} {p : Packet} {s : State} (h : s.Sound) : (shapeCharge port p s).Sound :=
  sound_foldl (fun _ _ ht => setSnode_sound ht) h

theorem shapeHeld_sound {ns : List Nat} {s : State} (h : s.Sound) : (shapeHeld ns s).Sound :=
  sound_foldl (fun _ _ ht => setSnode_sound ht) h

theorem police_sound {port : Nat} {p : Packet} {s : State} (h : s.Sound) : (police port p s).1.Sound := by
  unfold police
  split
  · exact h
  · dsimp only
    split <;> exact sound_ite_fst { setPolicer_sound (sound_ite (raise_sound h) h) with }
      (setPolicer_sound (sound_ite (raise_sound h) h))

theorem nodeWrite_sound {n w : Nat} {s : State} (h : s.Sound) : (nodeWrite n w s).Sound :=
  sound_ite (raise_sound h) (sound_ite (raise_sound h) (sound_ite (raise_sound h) (setSnode_sound h)))

theorem skeyWrite_sound {n w : Nat} {s : State} (h : s.Sound) : (skeyWrite n w s).Sound :=
  sound_ite (raise_sound h) (setSnode_sound h)

theorem pcfgWrite_sound {k w : Nat} {s : State} (h : s.Sound) : (pcfgWrite k w s).Sound :=
  sound_ite (setPolicer_sound h) (raise_sound h)

theorem pcWrite_sound {k w : Nat} {s : State} (h : s.Sound) : (pcWrite k w s).Sound := setPolicer_sound h

theorem peWrite_sound {k w : Nat} {s : State} (h : s.Sound) : (peWrite k w s).Sound := setPolicer_sound h

theorem applyShaper_sound {keep : Bool} {b : List Byte} {s : State} (h : s.Sound) : (applyShaper keep b s).Sound :=
  sound_foldl (fun _ _ ht => sound_ite (setPolicer_sound ht) (setSnode_sound ht))
    { h with nodes := List.Pairwise.nil, pols := List.Pairwise.nil }

theorem unitOut_sound {p : Packet} {s : State} (h : s.Sound) : (unitOut p s).Sound := { h with }

theorem proxyCount_sound {p : Packet} {s : State} (h : s.Sound) : (proxyCount p s).Sound := by
  unfold proxyCount
  split
  · split
    · exact h
    · exact modObj_sound h
  · exact h

theorem flowPump_sound {fuel : Nat} {f : SrcFlow} {s : State} (h : s.Sound) : (flowPump fuel f s).1.Sound := by
  induction fuel generalizing f s with
  | zero => exact h
  | succ fuel ih =>
    unfold flowPump
    split
    next hfuel _ =>
      obtain rfl := Nat.succ.inj hfuel
      exact sound_ite_fst (ih (unitOut_sound (proxyCount_sound h))) h
    next => exact h

theorem setFlow_sound {f : SrcFlow} {s : State} (h : s.Sound) : (setFlow f s).Sound := { h with }

theorem dropFlow_sound {k : Nat × Nat × Nat × Nat × Nat × Nat} {s : State} (h : s.Sound) : (dropFlow k s).Sound := { h with }

theorem unitSend_sound {p : Packet} {s : State} (h : s.Sound) : (unitSend p s).Sound :=
  sound_ite (setFlow_sound (flowPump_sound h)) (unitOut_sound (proxyCount_sound h))

theorem ackOut_sound {p : Packet} {s : State} (h : s.Sound) : (ackOut p s).Sound := by
  unfold ackOut
  split
  · exact { h with }
  · split
    · exact { h with }
    · exact unitOut_sound h

theorem sendAck_sound {p : Packet} {nak closed : Bool} {win reason next : Nat} {s : State} (h : s.Sound) :
    (sendAck p nak closed win reason next s).Sound :=
  ackOut_sound h

theorem tellSource_sound {p : Packet} {s : State} (h : s.Sound) : (tellSource p s).Sound :=
  sound_ite (unitSend_sound h) (sound_ite (sendAck_sound h) h)

theorem noRoute_sound {code src : Nat} {p : Packet} {s : State} (h : s.Sound) : (noRoute code src p s).Sound := raise_sound h

theorem onNoRoute_sound {src : Nat} {p : Packet} {s : State} (h : s.Sound) : (onNoRoute src p s).Sound :=
  sound_ite (discard_sound h) (tellSource_sound (noRoute_sound (discard_sound h)))

theorem onPortDown_sound {src : Nat} {p : Packet} {s : State} (h : s.Sound) : (onPortDown src p s).Sound :=
  tellSource_sound (noRoute_sound (discard_sound h))

theorem copyAdmit_sound {port : Nat} {p : Packet} {own : Bool} {s : State} (h : s.Sound) : (copyAdmit port p own s).Sound := by
  unfold copyAdmit
  dsimp only
  split
  · exact sound_ite (modMirror_sound (discard_sound h)) (discard_sound h)
  · exact noteHigh_sound (modSwc_sound (sound_foldl (fun _ _ ht => sound_ite (modMirror_sound (discard_sound ht))
      (discard_sound ht)) h))

theorem mirrorPlan_sound {ins outs : List Nat} {p : Packet} {s : State} (h : s.Sound) : (mirrorPlan ins outs p s).1.Sound := by
  unfold mirrorPlan
  refine sound_foldl_fst (fun _ _ ht => ?_) (sound_fst h)
  dsimp only
  split
  · exact ht
  · exact sound_ite_fst (sound_fst (modMirror_sound ht)) (sound_ite_fst (sound_fst (modMirror_sound ht))
      (sound_fst (modMirror_sound ht)))

theorem makeCopies_sound {pls : List CopyPlan} {p : Packet} {s : State} (h : s.Sound) : (makeCopies pls p s).Sound := by
  unfold makeCopies
  refine sound_foldl (fun _ _ ht => ?_) h
  refine sound_ite ht ?_
  dsimp only
  split
  · exact onNoRoute_sound (modMirror_sound ht)
  · exact sound_ite (copyAdmit_sound (modMirror_sound ht)) (onPortDown_sound (modMirror_sound ht))

theorem mirrored_sound {ins outs : List Nat} {p : Packet} {s : State} (h : s.Sound) : (mirrored ins outs p s).1.Sound := by
  rw [mirrored.eq_def]
  split
  next heq => exact makeCopies_sound (sound_of_eq heq (mirrorPlan_sound h))

theorem chanAdvance_sound {ch : Nat} {s : State} (h : s.Sound) : (chanAdvance ch s).Sound := setChan_sound h

theorem abandonOp_sound {ch : Nat} {status : Bool} {s : State} (h : s.Sound) : (abandonOp ch status s).Sound :=
  sound_ite (setChan_sound h) (chanAdvance_sound (sound_ite (hostWrite_sound (sound_ite (poolFree'_sound h) h))
    (sound_ite (poolFree'_sound h) h)))

theorem chanStop_sound {ch code : Nat} {s : State} (h : s.Sound) : (chanStop ch code s).Sound :=
  sound_ite (abandonOp_sound (setChan_sound (vector_sound (hostWrite_sound h))))
    (setChan_sound (vector_sound (hostWrite_sound h)))

theorem chanError_sound {ch code : Nat} {d : List Byte} {s : State} (h : s.Sound) : (chanError ch code d s).Sound :=
  chanStop_sound (raise_sound h)

theorem chanDone_sound {ch : Nat} {d : List Byte} {s : State} (h : s.Sound) : (chanDone ch d s).Sound :=
  sound_ite (vector_sound (chanAdvance_sound (modChan_sound (hostWrite_sound h))))
    (chanAdvance_sound (modChan_sound (hostWrite_sound h)))

theorem chanTake_sound {ch : Nat} {d : List Byte} {s : State} (h : s.Sound) : (chanTake ch d s).1.Sound := by
  unfold chanTake
  refine sound_ite_fst (sound_fst h) ?_
  refine sound_ite_fst (sound_fst h) ?_
  split
  next heq => exact sound_fst (modChan_sound (sound_of_eq heq (poolTake_sound h)))
  next heq => exact sound_fst (sound_of_eq heq (poolTake_sound h))

theorem chanRun_sound {ch : Nat} {d : List Byte} {f : State → State} {s : State} (hf : ∀ x0, x0.Sound → (f x0).Sound)
    (h : s.Sound) : (chanRun ch d f s).Sound := by
  unfold chanRun
  refine sound_ite ?_ h
  split
  · exact chanError_sound h
  · exact sound_ite h (hf _ (modChan_sound h))

theorem chanReadback_sound {ch : Nat} {s : State} (h : s.Sound) : (chanReadback ch s).Sound := modChan_sound h

theorem chanIssue_sound {ch a n k : Nat} {s : State} (h : s.Sound) : (chanIssue ch a n k s).Sound := modChan_sound h

theorem h2d_sound {ch : Nat} {d data : List Byte} {s : State} (h : s.Sound) : (h2d ch d data s).Sound := by
  unfold h2d
  split
  next heq => exact chanIssue_sound (lovStore_sound (sound_of_eq heq (chanTake_sound h)))
  next heq => exact chanError_sound (sound_of_eq heq (chanTake_sound h))

theorem d2h_sound {ch : Nat} {d : List Byte} {s : State} (h : s.Sound) : (d2h ch d s).Sound := by
  unfold d2h
  split
  · exact chanError_sound (stkUe_sound h)
  · exact chanIssue_sound (hostWrite_sound (readDrawn_sound h))

theorem dmaWaitOp_sound {ch : Nat} {d : List Byte} {s : State} (h : s.Sound) : (dmaWaitOp ch d s).Sound := by
  unfold dmaWaitOp
  split
  next heq => exact chanStop_sound (sound_of_eq heq (syncWait_sound h))
  next heq => exact sound_ite (sound_of_eq heq (syncWait_sound h)) (modChan_sound (sound_of_eq heq (syncWait_sound h)))

theorem dmaSigOp_sound {ch : Nat} {d : List Byte} {s : State} (h : s.Sound) : (dmaSigOp ch d s).Sound := by
  unfold dmaSigOp
  split
  next heq => exact chanStop_sound (sound_of_eq heq (signalLocal_sound h))
  next heq => exact chanDone_sound (sound_of_eq heq (signalLocal_sound h))

theorem dmaBarrOp_sound {ch : Nat} {d : List Byte} {s : State} (h : s.Sound) : (dmaBarrOp ch d s).Sound := by
  unfold dmaBarrOp
  refine sound_ite (sound_ite (sound_ite (modObj_sound h) (modChan_sound (modObj_sound h))) (chanReadback_sound h)) ?_
  split
  next heq => exact chanStop_sound (modChan_sound (sound_of_eq heq (barrArrive_sound (modChan_sound h))))
  next heq =>
    exact sound_ite (sound_of_eq heq (barrArrive_sound (modChan_sound h)))
      (modChan_sound (sound_of_eq heq (barrArrive_sound (modChan_sound h))))

theorem chanComplete_sound {ch : Nat} {s : State} (h : s.Sound) : (chanComplete ch s).Sound := by
  unfold chanComplete
  dsimp only
  split
  · exact h
  · refine sound_ite h ?_
    refine sound_ite (chanError_sound (stkUe_sound h)) ?_
    refine sound_ite (chanStop_sound (sound_ite_fst (poolFree'_sound h) h)) ?_
    refine sound_ite ?_ (chanDone_sound (sound_ite_fst (poolFree'_sound h) h))
    split
    next heq2 => exact chanStop_sound (sound_of_eq heq2 (signalLocal_sound (sound_ite_fst (poolFree'_sound h) h)))
    next heq2 => exact chanDone_sound (sound_of_eq heq2 (signalLocal_sound (sound_ite_fst (poolFree'_sound h) h)))

theorem smudge_sound {c : DmaCh} {s : State} (h : s.Sound) : (smudge c s).Sound := by
  unfold smudge
  split
  · exact h
  · exact sound_ite (lovStore_sound (drawn_sound h)) (sound_ite (hostWrite_sound (drawn_sound h)) h)

theorem busStop_sound {ch : Nat} {s : State} (h : s.Sound) : (busStop ch s).Sound :=
  setChan_sound (unwaitAll_sound (smudge_sound h))

theorem dmaOrphan_sound {s : State} (h : s.Sound) : (dmaOrphan s).Sound :=
  sound_foldl (fun _ _ ht => sound_ite (modChan_sound (abandonOp_sound ht)) ht) h

theorem dmaFlr_sound {s : State} (h : s.Sound) : (dmaFlr s).Sound :=
  sound_foldl (fun _ _ ht => sound_ite ht (modChan_sound (abandonOp_sound (sound_ite (busStop_sound ht) ht)))) h

theorem dmaRing_sound {ch w : Nat} {s : State} (h : s.Sound) : (dmaRing ch w s).Sound := sound_ite (modChan_sound h) h

theorem dmaBell_sound {ch w : Nat} {s : State} (h : s.Sound) : (dmaBell ch w s).Sound :=
  sound_ite h (sound_ite (raise_sound h) (setChan_sound h))

theorem dmaResume_sound {ch : Nat} {s : State} (h : s.Sound) : (dmaResume ch s).Sound := sound_ite h (setChan_sound h)

theorem dmaAbandon_sound {ch : Nat} {s : State} (h : s.Sound) : (dmaAbandon ch s).Sound := sound_ite h (abandonOp_sound h)

theorem dmaCctl_sound {ch w : Nat} {s : State} (h : s.Sound) : (dmaCctl ch w s).Sound :=
  sound_ite (dmaAbandon_sound (sound_ite (dmaResume_sound (modChan_sound h)) (modChan_sound h)))
    (sound_ite (dmaResume_sound (modChan_sound h)) (modChan_sound h))

theorem poolFreeWrite_sound {w : Nat} {s : State} (h : s.Sound) : (poolFreeWrite w s).Sound := poolFree'_sound h

theorem ovfAdmit_sound {port vc : Nat} {p : Packet} {s : State} (h : s.Sound) : (ovfAdmit port vc p s).1.Sound := by
  unfold ovfAdmit
  refine sound_ite_fst h ?_
  refine sound_ite_fst (sound_ite h (raise_sound (modSwc_sound h))) ?_
  refine sound_ite_fst h ?_
  split
  next heq => exact enqueue_sound (lovStore_sound (sound_of_eq heq (ovfTake_sound h)))
  next heq =>
    exact sound_ite (sound_of_eq heq (ovfTake_sound h)) (raise_sound (modSwc_sound (sound_of_eq heq (ovfTake_sound h))))

theorem admitTo_sound {port vc : Nat} {p : Packet} {s : State} (h : s.Sound) : (admitTo port vc p s).1.Sound := by
  unfold admitTo
  refine sound_ite_fst (landPacket_sound h) ?_
  refine sound_ite_fst (ovfAdmit_sound h) ?_
  refine sound_ite_fst (enqueue_sound h) ?_
  split
  · exact enqueue_sound h
  · exact ovfAdmit_sound h

theorem openCtx_sound {p : Packet} {s : State} (h : s.Sound) : (openCtx p s).Sound := by
  unfold openCtx
  split
  · exact h
  · exact sound_ite (modColl_sound h) h

theorem admitFrom_sound {src out vc : Nat} {p : Packet} {s : State} (h : s.Sound) : (admitFrom src out vc p s).1.Sound := by
  unfold admitFrom
  refine sound_ite_fst h ?_
  split
  next heq => exact sound_of_eq heq (admitTo_sound h)
  next heq =>
    refine openCtx_sound ?_
    split
    · exact sound_of_eq heq (admitTo_sound h)
    · exact modSwc_sound (sound_of_eq heq (admitTo_sound h))

theorem lookup_sound {src : Nat} {p : Packet} {s : State} (h : s.Sound) : (lookup src p s).1.Sound := by
  unfold lookup
  split
  · exact onNoRoute_sound h
  · exact sound_ite_fst (onPortDown_sound h) h

theorem admitQuad_sound {q st : Nat} {s : State} (h : s.Sound) : (admitQuad q st s).Sound := by
  unfold admitQuad
  split
  · exact h
  · refine sound_ite h ?_
    split
    next heq2 => exact ingressPop_sound (sound_of_eq heq2 (admitFrom_sound h))
    next heq2 => exact sound_of_eq heq2 (admitFrom_sound h)

theorem unitPop_sound {p : Packet} {s : State} (h : s.Sound) : (unitPop p s).Sound := modSwc_sound h

theorem unitEnter_sound {out : Nat} {p : Packet} {s : State} (h : s.Sound) : (unitEnter out p s).1.Sound := by
  unfold unitEnter
  split
  next heq => exact mirrored_sound (sound_of_eq heq (numbered_sound h))

theorem busyDue_sound {s : State} (h : s.Sound) : (busyDue s).Sound := sound_foldl (fun _ _ ht => unitOut_sound ht) { h with }

theorem admitUnit_sound {st : Nat} {s : State} (h : s.Sound) : (admitUnit st s).Sound := by
  unfold admitUnit
  split
  · exact h
  · refine sound_ite h ?_
    split
    next heq2 => exact unitPop_sound (sound_of_eq heq2 (lookup_sound h))
    next heq2 =>
      split
      next heq3 =>
        split
        next heq4 =>
          exact unitPop_sound (sound_of_eq heq4 (admitFrom_sound
            (sound_of_eq heq3 (unitEnter_sound (sound_of_eq heq2 (lookup_sound h))))))
        · exact sound_of_eq heq2 (lookup_sound h)

theorem modRte_sound {f : Rte → Rte} {s : State} (h : s.Sound)
    (he : ∀ u, tsorted u.ep → tsorted (f u).ep := by exact fun _ h => h) : (modRte f s).Sound := { h with ep := he _ h.ep }

theorem putFlow_sound {f : Flow} {s : State} (h : s.Sound) : (putFlow f s).Sound := modRte_sound h

theorem freeFlow_sound {k : Nat × Nat × Nat × Nat × Nat × Nat} {s : State} (h : s.Sound) : (freeFlow k s).Sound :=
    modRte_sound h

theorem seqAdmit_sound {src out : Nat} {p : Packet} {s : State} (h : s.Sound) : (seqAdmit src out p s).1.Sound :=
  admitFrom_sound h

theorem seqAck_sound {f : Flow} {p : Packet} {s : State} (h : s.Sound) : (seqAck f p s).Sound :=
  sound_ite (sendAck_sound (freeFlow_sound h)) (sendAck_sound (putFlow_sound h))

theorem stompColl_sound {p : Packet} {code : Nat} {place : FaultPlace} {s : State} (h : s.Sound) :
    (stompColl p code place s).Sound := by
  unfold stompColl
  split
  · exact h
  · exact sound_ite (sound_ite h (detectAbort_sound h)) (sound_ite (detectAbort_sound h) h)

theorem ctxStomp_sound {a out : Nat} {k : Packet} {s : State} (h : s.Sound) : (ctxStomp a out k s).Sound :=
  stompColl_sound (discard_sound (raise_sound (stkUe_sound h)))

theorem drainCtx_sound {fuel out : Nat} {f : Flow} {p : Packet} {s : State} (h : s.Sound) : (drainCtx fuel out f p s).Sound :=
    by
  induction fuel generalizing f p s with
  | zero => exact seqAck_sound h
  | succ fuel ih =>
    rw [drainCtx]
    split
    · exact seqAck_sound h
    · refine sound_ite (sendAck_sound (seqAck_sound (ctxStomp_sound h))) ?_
      split
      next heq => exact ih (sound_of_eq heq (seqAdmit_sound h))
      next heq => exact seqAck_sound (sound_of_eq heq (seqAdmit_sound h))

theorem ctxHold_sound {f : Flow} {c : Nat} {p : Packet} {s : State} (h : s.Sound) : (ctxHold f c p s).Sound :=
  putFlow_sound (lovStore_sound h)

theorem beyondWindow_sound {src : Nat} {f : Flow} {p : Packet} {s : State} (h : s.Sound) : (beyondWindow src f p s).Sound :=
  raise_sound h

theorem seqFlow_sound {src out : Nat} {f : Flow} {p : Packet} {s : State} (h : s.Sound) : (seqFlow src out f p s).1.Sound := by
  unfold seqFlow
  refine sound_ite_fst ?_ ?_
  · split
    next heq => exact drainCtx_sound (sound_of_eq heq (seqAdmit_sound h))
    next heq => exact sound_of_eq heq (seqAdmit_sound h)
  · refine sound_ite_fst (sendAck_sound (modRte_sound h)) ?_
    split
    · exact sound_ite_fst (ctxHold_sound h) (beyondWindow_sound h)
    · exact beyondWindow_sound h

theorem takenOr_sound {s : State} {r : State × Bool} (hx : r.1.Sound) (h : s.Sound) : (takenOr s r).1.Sound :=
    sound_ite_fst hx h

theorem openFlow_sound {p : Packet} {s : State} (h : s.Sound) : (openFlow p s).Sound := modRte_sound (putFlow_sound h)

theorem stompNak_sound {p : Packet} {s : State} (h : s.Sound) : (stompNak p s).Sound := sendAck_sound h

theorem seqPacket_sound {src out : Nat} {p : Packet} {s : State} (h : s.Sound) : (seqPacket src out p s).1.Sound := by
  unfold seqPacket
  refine sound_ite_fst (stompNak_sound h) ?_
  split
  · exact seqFlow_sound h
  · exact sound_ite_fst (sound_ite_fst (takenOr_sound (seqFlow_sound (openFlow_sound h)) h) (sendAck_sound (modRte_sound h)))
      (sound_ite (sendAck_sound (modRte_sound h)) (modRte_sound h))

theorem reseq_sound {p : Packet} {s : State} (h : s.Sound) : (reseq p s).Sound := by
  unfold reseq
  split
  · refine sound_ite ?_ h
    refine sound_ite (ingressPop_sound (onPortDown_sound h)) ?_
    split
    next heq2 => exact ingressPop_sound (sound_of_eq heq2 (seqPacket_sound h))
    next heq2 => exact sound_of_eq heq2 (seqPacket_sound h)
  · refine sound_ite ?_ ?_
    · split
      next heq2 => exact unitPop_sound (sound_of_eq heq2 (lookup_sound (busyDue_sound h)))
      next heq2 =>
        split
        next heq3 =>
          split
          next heq4 =>
            exact unitPop_sound (sound_of_eq heq4 (seqPacket_sound
              (sound_of_eq heq3 (unitEnter_sound (sound_of_eq heq2 (lookup_sound (busyDue_sound h)))))))
          · exact sound_of_eq heq2 (lookup_sound (busyDue_sound h))
    · split
      · split
        · exact drainCtx_sound (busyDue_sound h)
        · exact busyDue_sound h
      · exact busyDue_sound h

theorem barrierRelease_sound {c : Nat} {s : State} (h : s.Sound) : (barrierRelease c s).Sound :=
  sound_ite (sound_foldl (fun _ _ ht => unitSend_sound ht) (modColl_sound h)) h

theorem contribTaken_sound {port : Nat} {t : CollTag} {s : State} (h : s.Sound) : (contribTaken port t s).Sound :=
  sound_ite (barrierRelease_sound (modColl_sound h)) h

theorem contribBad_sound {place : FaultPlace} {t : CollTag} {s : State} (h : s.Sound) : (contribBad place t s).Sound :=
  sound_ite (detectAbort_sound (discard_sound h)) (raise_sound (discard_sound h))

theorem collCheck_sound {q : Nat} {p : Packet} {s : State} (h : s.Sound) : (collCheck q p s).1.Sound := by
  unfold collCheck
  split
  · exact h
  · exact sound_ite_fst (discard_sound h) (sound_ite_fst (sound_ite_fst (contribTaken_sound h) (contribBad_sound h)) h)

theorem stompCount_sound {q : Nat} {p : Packet} {code : Nat} {s : State} (h : s.Sound) : (stompCount q p code s).Sound :=
  raise_sound (modCtr_sound h)

theorem stompDrop_sound {q : Nat} {p : Packet} {code : Nat} {s : State} (h : s.Sound) : (stompDrop q p code s).Sound :=
  sound_ite (stompNak_sound (stompColl_sound (stompCopies_sound (discard_sound h))))
    (stompColl_sound (stompCopies_sound (discard_sound h)))

theorem stompArrive_sound {q : Nat} {p : Packet} {code : Nat} {s : State} (h : s.Sound) : (stompArrive q p code s).Sound :=
  stompDrop_sound (stompCount_sound h)

theorem stompPkt_sound {q : Nat} {p : Packet} {code : Nat} {s : State} (h : s.Sound) : (stompPkt q p code s).Sound := by
  unfold stompPkt
  refine sound_ite (modQuad_sound h) ?_
  dsimp only
  split
  · exact stompDrop_sound (ingressDrop_sound (stompCount_sound h))
  · split
    · exact stompColl_sound (stompQueued_sound (stompCount_sound h))
    · exact stompCopies_sound (stompCount_sound h)

theorem badArrival_sound {q : Nat} {s : State} (h : s.Sound) : (badArrival q s).Sound := raise_sound (modQuad_sound h)

theorem enter_sound {q : Nat} {p : Packet} {s : State} (h : s.Sound) : (enter q p s).1.Sound := by
  unfold enter
  split
  next heq => exact sound_fst (sound_of_eq heq (collCheck_sound h))
  next t heq =>
    have ht : t.Sound := sound_of_eq heq (collCheck_sound h)
    split
    next t1 m hpol =>
      have h1 : t1.Sound := sound_of_eq hpol (sound_ite_fst (police_sound ht) (sound_fst ht))
      refine sound_ite_fst (sound_fst h1) ?_
      split
      next hroute => exact sound_fst (mirrored_sound (sound_of_eq hroute (lookup_sound h1)))
      next u _ _ hroute =>
        have hu : u.Sound := sound_of_eq hroute (lookup_sound h1)
        refine sound_ite_fst (sound_fst (copyAdmit_sound hu)) ?_
        split
        next hmir => exact sound_fst (modSwc_sound (sound_of_eq hmir (mirrored_sound hu)))

theorem arrive_sound {q : Nat} {p0 : Packet} {s : State} (h : s.Sound) : (arrive q p0 s).Sound := by
  rw [arrive.eq_def]
  extract_lets p1
  split
  next t p heq =>
    have ht : t.Sound := sound_of_eq heq (numbered_sound (modQuad_sound h))
    refine sound_ite (returnCredit_sound (badArrival_sound ht)) (sound_ite (returnCredit_sound ht) ?_)
    refine sound_ite (returnCredit_sound (badArrival_sound ht))
      (sound_ite (returnCredit_sound (stompArrive_sound (modCtr_sound ht))) ?_)
    split
    next heq => exact sound_of_eq heq (enter_sound (modCtr_sound ht))
    next heq => exact returnCredit_sound (sound_of_eq heq (enter_sound (modCtr_sound ht)))

theorem leave_sound {q port st : Nat} {k : Held} {s : State} (h : s.Sound) : (leave q port st k s).Sound :=
  makeCopies_sound (modQuad_sound (modCtr_sound (modHeld_sound (sound_ite (shapeCharge_sound h) h))))

theorem heldBack_sound {port : Nat} {hs : List Held} {s : State} (h : s.Sound) : (heldBack port hs s).Sound :=
  sound_foldl (fun _ _ ht => modHeld_sound (shapeHeld_sound ht)) h

theorem forward_sound {q st : Nat} {s : State} (h : s.Sound) : (forward q st s).Sound := by
  unfold forward
  dsimp only
  split
  · exact h
  · refine sound_ite h ?_
    split
    · exact leave_sound (heldBack_sound h)
    · exact heldBack_sound h

theorem cellLeft_sound {q st : Nat} {eop : Bool} {s : State} (h : s.Sound) : (cellLeft q st eop s).Sound := by
  unfold cellLeft
  split
  · exact h
  · refine sound_ite (modSwc_sound (modHeld_sound h)) ?_
    dsimp only
    split
    · exact sound_ite (modColl_sound (modSwc_sound h)) (modSwc_sound h)
    · exact modSwc_sound h

theorem stompHeld_sound {k : Held} {code seg : Nat} {s : State} (h : s.Sound) : (stompHeld k code seg s).Sound :=
  stompColl_sound (stompOne_sound h)

theorem stompCmd_sound {port cls vc code seg : Nat} {s : State} (h : s.Sound) : (stompCmd port cls vc code seg s).Sound := by
  unfold stompCmd
  refine sound_ite (sound_ite (modSwc_sound h) h) ?_
  split
  · exact h
  · exact sound_ite h (stompHeld_sound h)

theorem moveBack_sound {port cls vc : Nat} {s : State} (h : s.Sound) : (moveBack port cls vc s).Sound := by
  unfold moveBack
  split
  · exact h
  · refine sound_ite h ?_
    refine sound_ite (stompHeld_sound (stkUe_sound h)) ?_
    split
    · exact h
    · exact noteHigh_sound (ovfTrim_sound (modHeld_sound h))

theorem stallCmd_sound {port cls vc : Nat} {s : State} (h : s.Sound) : (stallCmd port cls vc s).Sound := by
  unfold stallCmd
  dsimp only
  split
  · exact raise_sound (modSwc_sound h)
  · split
    · exact raise_sound (modHeld_sound h)
    · exact h

theorem rspTimeout_sound {port : Nat} {s : State} (h : s.Sound) : (rspTimeout port s).Sound :=
  sound_ite (raise_sound (modSwc_sound h)) h

theorem mirCfgWrite_sound {i w : Nat} {s : State} (h : s.Sound) : (mirCfgWrite i w s).Sound :=
  sound_ite (modMirror_sound h) (sound_ite (raise_sound h) (modMirror_sound h))

theorem clearHigh_sound {s : State} (h : s.Sound) : (clearHigh s).Sound :=
  modSwc_sound h (hc := fun _ hw => tsorted_filter (tsorted_map_snd hw))

theorem clearCounters_sound {s : State} (h : s.Sound) : (clearCounters s).Sound :=
  modSwc_sound h (hm := fun _ hw => tsorted_map_snd hw) (hc := fun _ hw => tsorted_filter (tsorted_map_snd hw))

theorem stallHead_sound {n code : Nat} {s : State} (h : s.Sound) : (stallHead n code s).Sound := modNewt_sound h

theorem issued_sound {n : Nat} {s : State} (h : s.Sound) : (issued n s).Sound := by
  refine sound_ite (setNewt_sound h ?_) (newtError_sound (setNewt_sound h ?_)) <;> exact pond_newt n h

theorem headErr_sound {n code : Nat} {s : State} (h : s.Sound) : (headErr n code s).Sound := newtError_sound h

theorem onHead_sound {opc n : Nat} {f : Nat → State → State} {s : State} (hf : ∀ x0 x1, x1.Sound → (f x0 x1).Sound)
    (h : s.Sound) : (onHead opc n f s).Sound :=
  sound_ite (hf _ _ h) h

theorem countWait_sound {v : Newt} {pg : Nat} {s : State} (h : s.Sound) : (countWait v pg s).Sound := sound_ite { h with } h

theorem sigPump_sound {fuel n : Nat} {s : State} (h : s.Sound) : (sigPump fuel n s).Sound := by
  induction fuel generalizing s with
  | zero => exact h
  | succ fuel ih =>
    rw [sigPump]
    dsimp only
    split
    · exact h
    · split
      · exact h
      · have hsig := fun o d pc r => signalLocal_sound (o := o) (d := d) (agent := n) (pc := pc)
          (touch_sound (j := newtJob s (newt s n)) (o := o)
            (setNewt_sound (n := n) (v := { newt s n with inflight := r }) h (pond_newt n h)))
        split
        · exact ih (hsig _ _ _ _)
        · exact ih (newtError_sound (hsig _ _ _ _))

theorem nopHead_sound {n : Nat} {s : State} (h : s.Sound) : (nopHead n s).Sound :=
  sound_ite h (sound_ite (issued_sound h) (sound_ite (headErr_sound h) h))

theorem endHead_sound {n w : Nat} {s : State} (h : s.Sound) : (endHead n w s).Sound :=
  sound_ite (headErr_sound h) (sound_ite (stallHead_sound h) (programEnds_sound (setNewt_sound h (pond_newt _ h))))

theorem loopHead_sound {n w : Nat} {s : State} (h : s.Sound) : (loopHead n w s).Sound :=
  sound_ite (headErr_sound h) (setNewt_sound h (pond_newt _ h))

theorem cmtHead_sound {n w : Nat} {s : State} (h : s.Sound) : (cmtHead n w s).Sound :=
  sound_ite (headErr_sound h) (sound_ite (stallHead_sound h) (issued_sound (commitBy_sound h)))

theorem tbndHead_sound {n w : Nat} {s : State} (h : s.Sound) : (tbndHead n w s).Sound :=
  sound_ite (headErr_sound h) (sound_ite (stallHead_sound h) (sound_ite (stallHead_sound h)
    (sound_ite (sound_ite (jobStop_sound (raise_sound (stallHead_sound h)))
    (sound_ite (issued_sound (setNewt_sound h (pond_newt _ h))) (stallHead_sound h))) (issued_sound h))))

theorem wlandHead_sound {n w : Nat} {s : State} (h : s.Sound) : (wlandHead n w s).Sound :=
  sound_ite (headErr_sound h) (sound_ite (stallHead_sound h) (countWait_sound (issued_sound (setNewt_sound h (pond_newt _ h)))))

theorem objWait_sound {n w : Nat} {reg : State → State × Option Nat} {s : State} (hreg : ∀ x0, x0.Sound → (reg x0).1.Sound)
    (h : s.Sound) : (objWait n w reg s).Sound := by
  unfold objWait
  refine sound_ite (countWait_sound (issued_sound h)) ?_
  refine sound_ite (stallHead_sound h) ?_
  split
  next heq =>
    split
    · exact newtError_sound (sound_of_eq heq (hreg _ (touch_sound (modNewt_sound h))))
    · exact sound_ite (countWait_sound (issued_sound (sound_of_eq heq (hreg _ (touch_sound (modNewt_sound h))))))
        (stallHead_sound (sound_of_eq heq (hreg _ (touch_sound (modNewt_sound h)))))

theorem wsoHead_sound {n w : Nat} {s : State} (h : s.Sound) : (wsoHead n w s).Sound :=
  sound_ite (headErr_sound h) (objWait_sound (fun _ ht => syncWait_sound ht) h)

theorem barrIssued_sound {n : Nat} {s : State} (h : s.Sound) : (barrIssued n s).Sound :=
  sound_foldl (fun _ _ ht => sound_ite (barrierRelease_sound (modColl_sound ht)) ht) h

theorem barrHead_sound {n w : Nat} {s : State} (h : s.Sound) : (barrHead n w s).Sound :=
  sound_ite (headErr_sound h) (sound_ite (objWait_sound (fun _ ht => barrArrive_sound ht) h)
    (barrIssued_sound (objWait_sound (fun _ ht => barrArrive_sound ht) h)))

theorem sigHead_sound {n w : Nat} {s : State} (h : s.Sound) : (sigHead n w s).Sound :=
  sound_ite (headErr_sound h) (sigPump_sound (issued_sound (setNewt_sound h (pond_newt _ h))))

theorem issueWork_sound {n w ob : Nat} {k : Work} {packets : List Packet} {s : State} (h : s.Sound) :
    (issueWork n w ob k packets s).Sound := by
  refine issued_sound (sound_free (setNewt_sound h ?_))
  exact pond_newt n h

theorem workHead_sound {n w : Nat} {f : State → Newt → Nat → Nat → Except Nat Work}
    {pk : State → Newt → Nat → State × List Packet} {s : State} (hpk : ∀ x0 x1 x2, x0.Sound → (pk x0 x1 x2).1.Sound)
    (h : s.Sound) : (workHead n w f pk s).Sound := by
  unfold workHead
  refine sound_ite (headErr_sound h) ?_
  refine sound_ite (stallHead_sound h) ?_
  split
  · exact sound_ite (stallHead_sound h) (headErr_sound h)
  · refine sound_ite (stallHead_sound h) ?_
    refine sound_ite (stallHead_sound h) ?_
    refine sound_ite (stallHead_sound h) ?_
    split
    next heq2 => exact issueWork_sound (sound_of_eq heq2 (hpk _ _ _ h))

theorem sendPackets_sound {n : Nat} {s : State} {v : Newt} {ob : Nat} (h : s.Sound) : (sendPackets n s v ob).1.Sound := h

theorem sendLeave_sound {n : Nat} {i : Inflight} {s : State} (h : s.Sound) : (sendLeave n i s).Sound :=
  sound_foldl (fun _ _ ht => sound_ite (modNewt_sound ht) (sound_ite (emit_sound ht) (unitSend_sound ht))) h

theorem wclrHead_sound {n w : Nat} {s : State} (h : s.Sound) : (wclrHead n w s).Sound :=
  sound_ite (headErr_sound h) (sound_ite (stallHead_sound h) (issued_sound (setNewt_sound h (pond_newt _ h))))

theorem saveHead_sound {n w : Nat} {k : Newt → Work} {s : State} (h : s.Sound) : (saveHead n w k s).Sound :=
  sound_ite (headErr_sound h) (sound_ite (headErr_sound h) (sound_ite (stallHead_sound h)
    (sound_ite (stallHead_sound h) (sound_ite (headErr_sound h) (issueWork_sound h)))))

theorem escForget_sound {n hdr : Nat} {s : State} (h : s.Sound) : (escForget n hdr s).Sound := modNewt_sound h

theorem escCopy_sound {n src len dst : Nat} {s : State} (h : s.Sound) : (escCopy n src len dst s).Sound := modNewt_sound h

theorem escErr_sound {n pc ob : Nat} {e : EscapeRec} {s : State} (h : s.Sound) : (escErr n pc ob e s).Sound :=
  newtHalt_sound (raise_sound h)

theorem escStore_sound {n pc ob : Nat} {e : EscapeRec} {hdrs : List Nat} {s : State} (h : s.Sound) :
    (escStore n pc ob e hdrs s).Sound := by
  unfold escStore
  refine sound_ite (setNewt_sound h (pond_newt _ h)) ?_
  split
  next heq => exact modNewt_sound (drawn_sound (lovStore_sound (sound_of_eq heq (poolTake_sound h))))
  next heq => exact escErr_sound (sound_of_eq heq (poolTake_sound h))

theorem escLand_sound {n : Nat} {e : EscapeRec} {s : State} (h : s.Sound) : (escLand n e s).Sound :=
  sound_ite (discard_sound h) (escStore_sound h)

theorem escDrop_sound {n : Nat} {ds : List (Nat × Nat × Nat × Nat)} {s : State} (h : s.Sound) : (escDrop n ds s).Sound := by
  unfold escDrop
  refine sound_foldl (fun _ _ ht => ?_) h
  dsimp only
  split
  · exact ht
  · split
    · exact setNewt_sound ht (pond_newt _ ht)
    · split
      · exact bufFree_sound (setNewt_sound ht (pond_newt _ ht))
      · exact setNewt_sound ht (pond_newt _ ht)

theorem pond_foldl {α : Type} {g : Newt → α → Newt} {l : List α} {v : Newt}
    (hg : ∀ t a, memWf t.pond = true → memWf (g t a).pond = true) (hv : memWf v.pond = true) : memWf
      (l.foldl g v).pond = true := by
  induction l generalizing v with
  | nil => exact hv
  | cons a r ih => exact ih (hg v a hv)

theorem complete_sound {n pc : Nat} {s : State} (h : s.Sound) : (complete n pc s).Sound := by
  rw [complete.eq_def]
  extract_lets v
  split
  · exact h
  next i _ =>
    extract_lets w v0 v1 s1 s2 s2c s3
    have h1 : s1.Sound := setNewt_sound h (pond_foldl (fun _ _ ht => memWf_memWrite ht _ _) (pond_newt n h))
    have h2 : s2.Sound := by
      unfold s2
      split
      · exact h1
      · exact asbLand_sound h1
    have h2c : s2c.Sound := sound_ite (escCopy_sound h2) h2
    have h3 : s3.Sound := sound_foldl (fun _ _ ht => escStore_sound (escForget_sound ht)) (sendLeave_sound (escDrop_sound h2c))
    exact abortFinish_sound (sigPump_sound h3)

theorem pauseNewt_sound {n : Nat} {s : State} (h : s.Sound) : (pauseNewt n s).Sound :=
  sound_ite (setNewt_sound h (pond_newt _ h)) h

theorem landTimeout_sound {n : Nat} {s : State} (h : s.Sound) : (landTimeout n s).Sound := sound_ite (newtError_sound h) h

theorem routeNext_sound {route : Nat} {s : State} (h : s.Sound) : (routeNext route s).1.Sound := { h with }

theorem schedEnter_sound {ins outs : List Nat} {p : Packet} {len : Nat} {b : List Byte} {s : State} (h : s.Sound) :
    (schedEnter ins outs p len b s).1.Sound := by
  rw [schedEnter.eq_def]
  extract_lets k
  split
  next heq => exact sound_of_eq heq (mirrored_sound (modSwc_sound h))

theorem schedLeaves_sound {q : Nat} {c : SCell} {s : State} (h : s.Sound) : (schedLeaves q c s).Sound :=
  sound_ite (makeCopies_sound (modCtr_sound h)) (sound_ite h (cellJoins_sound h))

theorem rxTake_sound {n r : Nat} {last : Bool} {code : Nat} {c : LandCell} {s : State} (h : s.Sound) :
    (rxTake n r last code c s).Sound :=
  sound_ite (setNewt_sound h (pond_newt _ h)) (sound_ite (sound_foldl (fun _ _ ht => landAny_sound ht)
    (setNewt_sound h (pond_newt _ h))) (setNewt_sound h (pond_newt _ h)))

theorem rxFlush_sound {n r : Nat} {good : Bool} {s : State} (h : s.Sound) : (rxFlush n r good s).Sound :=
  sound_ite (sound_foldl (fun _ _ ht => landAny_sound ht) (setNewt_sound h (pond_newt _ h))) (setNewt_sound h (pond_newt _ h))

theorem rxFlushAll_sound {recs : List (Nat × List Byte)} {good : Bool} {s : State} (h : s.Sound) :
    (rxFlushAll recs good s).Sound :=
  sound_foldl (fun _ _ ht => rxFlush_sound ht) h

theorem schedStomp_sound {q route wait : Nat} {recs : List (Nat × List Byte)} {p : Packet} {len pos code : Nat} {b : List Byte}
    {s : State} (h : s.Sound) : (schedStomp q route wait recs p len pos code b s).Sound := by
  unfold schedStomp
  split
  next heq =>
    have h2 := fun place => stompColl_sound (p := p) (code := code) (place := place)
      (schedCopies_sound (p := p) (code := code) (b := b) (stompCount_sound (q := q) (p := p) (code := code)
        (sound_of_eq heq (routeNext_sound h))))
    exact sound_ite (rxFlushAll_sound (discard_sound (sound_sch (h2 _)))) (sound_sch (discard_sound (h2 _)))

theorem schedCut_sound {q : Nat} {s : State} (h : s.Sound) : (schedCut q s).Sound :=
  sound_foldl (fun _ _ ht => sound_ite ht (schedStomp_sound ht)) (modQuad_sound h)

theorem linkLocal_sound {q mtype : Nat} {payload : List Byte} {s : State} (h : s.Sound) : (linkLocal q mtype payload s).Sound :=
    by
  unfold linkLocal
  exact modQuad_sound h

theorem sendIdent_sound {q : Nat} {s : State} (h : s.Sound) : (sendIdent q s).Sound := linkLocal_sound h

theorem endpointUp_sound {port : Nat} {s : State} (h : s.Sound) : (endpointUp port s).Sound :=
  sound_ite h (pushEvent_sound (logAdd_sound (logAdd_sound (modRte_sound h fun _ hu => tsorted_tset _ hu _ _))))

theorem freeFlows_sound {f : Nat × Nat × Nat × Nat × Nat × Nat → Bool} {s : State} (h : s.Sound) : (freeFlows f s).Sound :=
  modRte_sound h

theorem departed_sound {addr : Nat} {s : State} (h : s.Sound) : (departed addr s).Sound := freeFlows_sound h

theorem dropQueue_sound {port : Nat} {s : State} (h : s.Sound) : (dropQueue port s).Sound :=
  ovfTrim_sound (modSwc_sound (sound_foldl (fun _ _ ht => discard_sound ht) h))

theorem endpointDown_sound {port : Nat} {s : State} (h : s.Sound) : (endpointDown port s).Sound := by
  rw [endpointDown.eq_def]
  extract_lets e s1 s2 s3 s4 s5 addr s6
  have h1 : s1.Sound := modRte_sound h fun _ hu => tsorted_tset _ hu _ _
  have h4 : s4.Sound := abortMany_sound (logAdd_sound (pushEvent_sound h1))
  have h6 : s6.Sound := departed_sound (freeFlows_sound (modSwc_sound (dropQueue_sound h4)))
  exact sound_foldl (fun _ _ ht => mgmt_sound ht) h6

theorem torusDown_sound {q d : Nat} {s : State} (h : s.Sound) : (torusDown q d s).Sound :=
  sound_ite (modRte_sound h) (abortMany_sound (modRte_sound h))

theorem linkDownErr_sound {port : Nat} {s : State} (h : s.Sound) : (linkDownErr port s).Sound :=
  sound_foldl (fun _ _ ht => raise_sound ht) h

theorem declareDown_sound {q : Nat} {s : State} (h : s.Sound) : (declareDown q s).Sound := by
  rw [declareDown.eq_def]
  extract_lets v used
  split
  · exact h
  · extract_lets s1 cause place s2
    have h1 : s1.Sound := linkDownErr_sound h
    have h2 : s2.Sound := sound_ite (jobStop_sound h1) h1
    exact sound_ite h (sound_ite (endpointDown_sound h2) (torusDown_sound h2))

theorem sendBack_sound {port vc : Nat} {p : Packet} {s : State} (h : s.Sound) : (sendBack port vc p s).Sound := by
  unfold sendBack
  refine sound_ite (copyAdmit_sound h) ?_
  split
  next heq => exact sound_of_eq heq (admitTo_sound h)
  next heq => exact modSwc_sound (sound_of_eq heq (admitTo_sound h))

theorem recoverPacket_sound {q : Nat} {p : Packet} {s : State} (h : s.Sound) : (recoverPacket q p s).Sound :=
  sound_ite (sendBack_sound h) (sound_ite (sendAck_sound h) h)

theorem recoverHeld_sound {q : Nat} {p : Packet} {s : State} (h : s.Sound) : (recoverHeld q p s).Sound :=
  recoverPacket_sound (sound_ite h (discard_sound h))

theorem cutOpen_sound {q code : Nat} {o : OpenPkt} {s : State} (h : s.Sound) : (cutOpen q code o s).Sound :=
  sound_ite (stompArrive_sound h) (stompPkt_sound (cellIn_sound h))

theorem lastArrivals_sound {q : Nat} {f : Packet → Bool} {s : State} (h : s.Sound) : (lastArrivals q f s).Sound :=
  schedCut_sound (sound_foldl (fun _ _ ht => arrive_sound ht) (sound_foldl (fun _ _ ht => sound_ite ht (cutOpen_sound ht)) h))

theorem portUnseen_sound {q : Nat} {s : State} (h : s.Sound) : (portUnseen q s).Sound :=
  sound_ite (modRte_sound h fun _ hu => tsorted_tset _ hu _ _) h

theorem routeAgain_sound {d : Nat} {p : Packet} {s : State} (h : s.Sound) : (routeAgain d p s).Sound := by
  unfold routeAgain
  split
  · exact onNoRoute_sound h
  · exact sendBack_sound h

theorem waitAgain_sound {w : Waiting} {s : State} (h : s.Sound) : (waitAgain w s).Sound := by
  unfold waitAgain
  split
  · exact onNoRoute_sound (ingressDrop_sound h)
  · exact modSwc_sound h

theorem dirLost_sound {d : Nat} {s : State} (h : s.Sound) : (dirLost d s).Sound :=
  sound_foldl (fun _ _ ht => waitAgain_sound ht) (sound_foldl (fun _ _ ht => routeAgain_sound ht)
    (ovfTrim_sound (modSwc_sound (signalsLost_sound h))))

theorem dirCheck_sound {q : Nat} {s : State} (h : s.Sound) : (dirCheck q s).Sound := sound_ite (dirLost_sound h) h

theorem quadDown_sound {q : Nat} {s : State} (h : s.Sound) : (quadDown q s).Sound := by
  rw [quadDown.eq_def]
  extract_lets s0 v out s1 s2 s3 s4 s5
  have h2 : s2.Sound := modSwc_sound (setQuad_sound (lastArrivals_sound h))
  have h4 : s4.Sound := sound_foldl (fun _ _ ht => recoverHeld_sound ht) (sound_foldl (fun _ _ ht => recoverPacket_sound ht) h2)
  have h5 : s5.Sound := dirCheck_sound h4
  exact sound_ite (declareDown_sound h5) (portUnseen_sound h5)

theorem leaveUp_sound {q : Nat} {st : QState} {s : State} (h : s.Sound) : (leaveUp q st s).Sound := by
  unfold leaveUp
  exact declareDown_sound (dirCheck_sound (sound_foldl (fun _ _ ht => recoverHeld_sound ht)
    (sound_foldl (fun _ _ ht => recoverPacket_sound ht) (modSwc_sound (modQuad_sound (lastArrivals_sound h))))))

theorem epRecord_sound {q : Nat} {r : IdentRec} {st : QState} {s : State} (h : s.Sound) : (epRecord q r st s).Sound :=
  modRte_sound h fun _ hu => tsorted_tset _ hu _ _

theorem identAgain_sound {q : Nat} {r : IdentRec} {s : State} (h : s.Sound) : (identAgain q r s).Sound := by
  unfold identAgain
  split <;> exact sound_ite (modQuad_sound (raise_sound (leaveUp_sound h))) (sound_ite (linkLocal_sound (epRecord_sound h)) h)

theorem identity_sound {q : Nat} {r : IdentRec} {s : State} (h : s.Sound) : (identity q r s).Sound := by
  refine sound_ite (identAgain_sound h) (sound_ite h ?_)
  split
  extract_lets s1 s2 s3
  have h1 : s1.Sound := sound_ite (raise_sound h) h
  have h2 : s2.Sound := setQuad_sound h1
  have h3 : s3.Sound := epRecord_sound h2
  exact sound_ite h2 (sound_ite (linkLocal_sound h3) h3)

theorem allLinksDown_sound {s : State} (h : s.Sound) : (allLinksDown s).Sound :=
  sound_foldl (fun _ _ ht => sound_ite ht (quadDown_sound ht)) h

theorem collLost_sound {c chip : Nat} {s : State} (h : s.Sound) : (collLost c chip s).Sound :=
  collReport_sound (collRaise_sound (abortStomps_sound (stopFor_sound (setColl_sound h))))

theorem modDrain_sound {f : DrainSt → DrainSt} {s : State} (h : s.Sound) : (modDrain f s).Sound := modRte_sound h

theorem swapRoute_sound {s : State} (h : s.Sound) : (swapRoute s).Sound := { h with }

theorem liftDrain_sound {s : State} (h : s.Sound) : (liftDrain s).Sound :=
  sound_foldl (fun _ _ ht => emit_sound ht) (modRte_sound (releaseOwed_sound (modDrain_sound h)))

theorem releaseCheck_sound {s : State} (h : s.Sound) : (releaseCheck s).Sound :=
  sound_ite (liftDrain_sound (sound_foldl (fun _ _ ht => mgmt_sound ht) h)) h

theorem releaseTake_sound {chip : Nat} {s : State} (h : s.Sound) : (releaseTake chip s).Sound :=
  sound_ite h (releaseCheck_sound (modDrain_sound h))

theorem drainRelease_sound {s : State} (h : s.Sound) : (drainRelease s).Sound :=
  sound_ite (liftDrain_sound h) (sound_ite (releaseTake_sound (modDrain_sound h)) (mgmt_sound (modDrain_sound h)))

theorem setDrained_sound {s : State} (h : s.Sound) : (setDrained s).Sound := by
  rw [setDrained.eq_def]
  extract_lets s0 s1 s2
  have h1 : s1.Sound := sound_foldl (fun _ _ ht => cmdDone_sound ht) (modDrain_sound h)
  have h2 : s2.Sound := logOpen_sound (swapRoute_sound h1)
  exact sound_ite (drainRelease_sound (pushEvent_sound h2)) h1

theorem roundCheck_sound {s : State} (h : s.Sound) : (roundCheck s).Sound :=
  sound_ite (sound_ite (setDrained_sound (sound_foldl (fun _ _ ht => mgmt_sound ht) (modDrain_sound h))) (modDrain_sound h)) h

theorem reportTake_sound {r : DrainRep} {s : State} (h : s.Sound) : (reportTake r s).Sound :=
  sound_ite h (roundCheck_sound (modDrain_sound h))

theorem drainStart_sound {classes scope id : Nat} {fw : Bool} {s : State} (h : s.Sound) :
    (drainStart classes scope id fw s).Sound :=
  modDrain_sound h

theorem chipLoss_sound {chip : Nat} {detector : Bool} {s : State} (h : s.Sound) : (chipLoss chip detector s).Sound := by
  refine sound_ite h ?_
  extract_lets place s1 s2 s3 s4 s5 s6 s7
  have h3 : s3.Sound := sound_foldl (fun _ _ ht => collLost_sound ht) (freeFlows_sound (modRte_sound h))
  have h4 : s4.Sound := sound_ite (jobStop_sound h3) h3
  have h7 : s7.Sound := modDrain_sound (sound_colls_map (abortMany_sound h4))
  exact sound_ite h7 (roundCheck_sound (sound_ite h7 (releaseCheck_sound h7)))

theorem chipLostDetect_sound {chip : Nat} {s : State} (h : s.Sound) : (chipLostDetect chip s).Sound :=
  sound_ite (allLinksDown_sound (modRte_sound h)) (sound_ite h
    (chipLoss_sound (sound_foldl (fun _ _ ht => sound_ite ht (mgmt_sound ht)) (raise_sound h))))

theorem abandonColl_sound {p : Packet} {s : State} (h : s.Sound) : (abandonColl p s).Sound := by
  unfold abandonColl
  split
  · exact h
  · exact sound_ite (detectAbort_sound h) h

theorem flowAck_sound {a : FlowAck} {s : State} (h : s.Sound) : (flowAck a s).Sound := by
  unfold flowAck
  dsimp only
  split
  · exact h
  · refine sound_ite ?_ (sound_ite ?_ (setFlow_sound (flowPump_sound h)))
    · split
      · exact h
      · refine sound_ite ?_ (sound_ite (sound_ite h (modRte_sound h)) (unitOut_sound h))
        exact sound_foldl (fun _ _ ht => unitSend_sound ht) (dropFlow_sound (abandonColl_sound h))
    · exact sound_foldl (fun _ _ ht => unitSend_sound ht) (dropFlow_sound h)

theorem resend_sound {k : Nat × Nat × Nat × Nat × Nat × Nat} {s : State} (h : s.Sound) : (resend k s).Sound := by
  unfold resend
  split
  · exact h
  · exact sound_foldl (fun _ _ ht => sound_ite ht (unitOut_sound ht)) h

theorem setStandby_sound {i e : Nat} {s : State} (h : s.Sound) : (setStandby i e s).Sound :=
  sound_ite (modRte_sound h) (modRte_sound h)

theorem bankWrite_sound {w v : Nat} {s : State} (h : s.Sound) : (bankWrite w v s).Sound :=
  sound_foldl (fun _ _ ht => sound_ite (setStandby_sound ht) (raise_sound ht)) h

theorem reroute_sound {links : List (Nat × Nat)} {chips : List Nat} {s : State} (h : s.Sound) : (reroute links chips s).Sound :=
  sound_ite h (drainStart_sound (sound_foldl (fun _ _ ht => setStandby_sound ht) (modRte_sound h)))

theorem taskEnd_sound {j : Nat} {s : State} (h : s.Sound) : (taskEnd j s).Sound := sound_foldl
    (fun _ _ ht => syncErr_sound ht) h

theorem jobEnd_sound {j : Nat} {s : State} (h : s.Sound) : (jobEnd j s).Sound :=
  jobState_sound (modJob_sound (modJob_sound (sound_ite (taskEnd_sound h) h)))

theorem linkErr_sound {code q lane padnum slot : Nat} {s : State} (h : s.Sound) : (linkErr code q lane padnum slot s).Sound :=
  raise_sound (modQuad_sound h)

theorem trainStart_sound {q : Nat} {s : State} (h : s.Sound) : (trainStart q s).Sound := modQuad_sound h

theorem linkFail_sound {code q lane : Nat} {s : State} (h : s.Sound) : (linkFail code q lane s).Sound :=
  trainStart_sound (quadDown_sound (sound_ite (modQuad_sound (linkErr_sound h)) (linkErr_sound h)))

theorem tapPacket_sound {port : Nat} {p : Packet} {s : State} (h : s.Sound) : (tapPacket port p s).Sound := by
  unfold tapPacket
  split
  · exact h
  · exact sound_ite h (sound_ite h (sound_ite (setColl_sound h) (setColl_sound h)))

theorem noteSent_sound {q own : Nat} {p : Packet} {bytes : Nat} {s : State} (h : s.Sound) : (noteSent q own p bytes s).Sound :=
    by
  unfold noteSent
  split
  · exact h
  · exact sound_ite (modQuad_sound h) h

theorem cellSent_sound {q st own : Nat} {eop : Bool} {s : State} (h : s.Sound) : (cellSent q st own eop s).Sound := by
  rw [cellSent.eq_def]
  extract_lets r cls v i s1 s2
  have h1 : s1.Sound := modQuad_sound h
  have h2 : s2.Sound := sound_ite (modRte_sound h1) h1
  refine sound_ite h1 ?_
  split
  · exact h2
  · exact cellLeft_sound (sound_ite (modQuad_sound (sound_ite (noteSent_sound (tapPacket_sound h2)) h2)) h2)

theorem txKeep_sound {q own : Nat} {b : List Byte} {o : Bool} {f : TxFrame} (h : f.s.Sound) : (txKeep q own b o f).s.Sound :=
  modQuad_sound h

theorem schedSent_sound {s : State} {q own : Nat} {c : SCell} (h : s.Sound) : (schedSent s q own c).Sound :=
  sound_ite (noteSent_sound (tapPacket_sound (schedLeaves_sound h))) (schedLeaves_sound h)

theorem txSlotFill_sound {q : Nat} {ctrl res : List Nat} {f : TxFrame} {i : Nat} (h : f.s.Sound) :
    (txSlotFill q ctrl res f i).s.Sound := by
  rw [txSlotFill.eq_def]
  dsimp only
  split
  · exact txKeep_sound { h with }
  · split
    · split
      · exact h
      · exact txKeep_sound (schedSent_sound h)
    · split
      · exact txKeep_sound h
      · split
        · exact setQuad_sound h
        · split
          · exact h
          · split
            · exact setQuad_sound h
            · split
              · exact txKeep_sound (cellSent_sound (setQuad_sound h))
              · exact txKeep_sound (setQuad_sound h)

theorem txSlots_sound {q : Nat} {a r l : List Nat} {x : TxFrame} (h : x.s.Sound) : (l.foldl (txSlotFill q a r) x).s.Sound := by
  induction l generalizing x with
  | nil => exact h
  | cons i l ih => exact ih (txSlotFill_sound h)

theorem sendPad_sound {q : Nat} {s : State} (h : s.Sound) : (sendPad q s).Sound := by
  rw [sendPad.eq_def]
  extract_lets v0 pad v up res hdrs f ph cws lanes t
  have hf : f.s.Sound := txSlots_sound (setQuad_sound h)
  have ht : t.Sound := emit_sound (modQuad_sound hf)
  exact sound_ite (linkFail_sound ht) ht

theorem sendTraining_sound {q : Nat} {s : State} (h : s.Sound) : (sendTraining q s).Sound := emit_sound h

theorem padFrameSend_sound {q : Nat} {s : State} (h : s.Sound) : (padFrameSend q s).Sound :=
  sound_ite h (sound_ite (sendTraining_sound h) (sendPad_sound h))

theorem sampleAgain_sound {s : State} (h : s.Sound) : (sampleAgain s).Sound := sound_ite { h with } h

theorem setWant_sound {w : Nat} {s : State} (h : s.Sound) : (setWant w s).Sound := sound_ite h (vector_sound { h with })

theorem setEmerg_sound {b : Bool} {s : State} (h : s.Sound) : (setEmerg b s).Sound := sound_ite h (vector_sound { h with })

theorem wantRise_sound {s : State} (h : s.Sound) : (wantRise s).Sound :=
  sound_ite (sampleAgain_sound (setWant_sound { h with })) { h with }

theorem wantFall_sound {s : State} (h : s.Sound) : (wantFall s).Sound := setWant_sound { h with }

theorem schErr_sound {code kind unit pg want found : Nat} {s : State} (h : s.Sound) :
    (schErr code kind unit pg want found s).Sound :=
  raise_sound h

theorem measuredUp_sound {q : Nat} {s : State} (h : s.Sound) : (measuredUp q s).Sound := by
  rw [measuredUp.eq_def]
  extract_lets v s1 s2
  have h1 : s1.Sound := setQuad_sound h
  have h2 : s2.Sound := sound_ite (modRte_sound h1) h1
  exact sound_ite (modQuad_sound (quadDown_sound (schErr_sound (setQuad_sound h)))) (sound_ite (endpointUp_sound h2) h2)

theorem measure_sound {q t1 t2 t3 t4 : Nat} {s : State} (h : s.Sound) : (measure q t1 t2 t3 t4 s).Sound :=
  sound_ite (setQuad_sound h) (measuredUp_sound (setQuad_sound h))

theorem driftCheck_sound {q tx rx : Nat} {s : State} (h : s.Sound) : (driftCheck q tx rx s).Sound :=
  sound_ite { jobStop_sound (schErr_sound h) with } h

theorem heartbeat_sound {seq : Nat} {s : State} (h : s.Sound) : (heartbeat seq s).Sound := sound_ite { h with } h

theorem lineFault_sound {q : Nat} {s : State} (h : s.Sound) : (lineFault q s).Sound := jobStop_sound (schErr_sound h)

theorem takeCall_sound {q b : Nat} {s : State} (h : s.Sound) : (takeCall q b s).Sound :=
  sound_ite h (sound_ite (lineFault_sound h) (sound_ite h (sound_ite (lineFault_sound h) { h with })))

theorem takeExt_sound {q b : Nat} {s : State} (h : s.Sound) : (takeExt q b s).Sound :=
  sound_ite h (sound_ite (lineFault_sound h) { h with })

theorem takeEpoch_sound {q b : Nat} {s : State} (h : s.Sound) : (takeEpoch q b s).Sound :=
  sound_ite h (sound_ite { h with } (sound_ite h (lineFault_sound h)))

theorem takeStop_sound {q b : Nat} {s : State} (h : s.Sound) : (takeStop q b s).Sound := sound_ite (jobStop_sound h) h

theorem takeBarrier_sound {q : Nat} {b : List Byte} {s : State} (h : s.Sound) : (takeBarrier q b s).Sound := by
  rw [takeBarrier.eq_def]
  extract_lets v s1
  refine sound_ite ?_ h
  have h1 : s1.Sound := sound_foldl (fun _ _ ht => sound_ite ht (fblReceive_sound ht)) h
  exact sound_ite (takeStop_sound (takeEpoch_sound (takeExt_sound (takeCall_sound h1)))) h1

theorem takeCtrl_sound {q rx : Nat} {b : List Byte} {s : State} (h : s.Sound) : (takeCtrl q rx b s).Sound := by
  rw [takeCtrl.eq_def]
  extract_lets tx t1 t2 s1 s2 v t s3
  have h1 : s1.Sound := modQuad_sound h
  have h2 : s2.Sound := sound_ite (measure_sound h1) h1
  have ht : t.Sound := driftCheck_sound h2
  have h3 : s3.Sound := sound_ite (sound_ite (heartbeat_sound ht) ht) h2
  exact sound_ite h2 (takeBarrier_sound h3)

theorem takeSignals_sound {q : Nat} {b : List Byte} {s : State} (h : s.Sound) : (takeSignals q b s).Sound := by
  refine sound_foldl (fun t g ht => sound_ite ht (sound_ite (linkErr_sound ht) ?_)) h
  have hsend := fun g => slotSend_sound (g := g) ht
  exact sound_ite (signalRemote_sound (hsend _)) (hsend _)

theorem breakOpen_sound {q : Nat} {o : OpenPkt} {s : State} (h : s.Sound) : (breakOpen q o s).Sound :=
  sound_ite h (cutOpen_sound h)

theorem openPacket_sound {q slot : Nat} {s : State} {k : Nat × Packet × Nat} (h : s.Sound) : (openPacket q slot s k).Sound := by
  unfold openPacket
  refine sound_ite (linkErr_sound h) ?_
  split
  · exact modQuad_sound (breakOpen_sound (linkErr_sound h))
  · exact modQuad_sound h

theorem takeHeaders_sound {q slot : Nat} {b : List Byte} {s : State} (h : s.Sound) : (takeHeaders q slot b s).Sound := by
  unfold takeHeaders
  split
  · exact linkErr_sound h
  · refine sound_foldl (fun _ _ ht => ?_) h
    split
    · exact linkErr_sound ht
    · exact openPacket_sound ht

theorem joinCell_sound {q st code : Nat} {last : Bool} {o : OpenPkt} {b : List Byte} {s : State} (h : s.Sound) :
    (joinCell q st code last o b s).1.Sound := by
  unfold joinCell
  refine sound_ite_fst ?_ (sound_fst (sound_ite (sound_ite (cellIn_sound h) (returnCredit_sound (cellIn_sound h)))
    (stompPkt_sound (sound_ite (cellIn_sound h) (returnCredit_sound (cellIn_sound h))))))
  split
  next heq => exact sound_fst (modQuad_sound (sound_of_eq heq (numbered_sound h)))

theorem takeCell_sound {q slot st code : Nat} {eop : Bool} {b : List Byte} {s : State} (h : s.Sound) :
    (takeCell q slot st code eop b s).Sound := by
  rw [takeCell.eq_def]
  extract_lets v c cls s1
  have h1 : s1.Sound := modQuad_sound (sound_ite (modRte_sound h) h)
  split
  · exact returnCredit_sound (linkErr_sound h1)
  next o _ =>
    refine sound_ite (modQuad_sound (breakOpen_sound (linkErr_sound h1))) (sound_ite (modQuad_sound (returnCredit_sound h1)) ?_)
    have h2 := fun code => joinCell_sound (q := q) (st := st) (code := code) (last := eop || o.got + 1 == cellsOf o.len)
      (o := o) (b := b) h1
    exact sound_ite (modQuad_sound (h2 _)) (modQuad_sound (h2 _))

theorem schedCheck_sound {q : Nat} {recs : List (Nat × List Byte)} {p : Packet} {s : State} (h : s.Sound) :
    (schedCheck q recs p s).1.Sound := by
  unfold schedCheck
  split
  · exact h
  · exact sound_ite_fst (contribBad_sound h) (collCheck_sound h)

theorem schedJoin_sound {q : Nat} {recs : List (Nat × List Byte)} {p : Packet} {len pos : Nat} {b : List Byte} {s : State}
    (h : s.Sound) : (schedJoin q recs p len pos b s).1.Sound :=
  sound_ite_fst (schedEnter_sound (modCtr_sound h)) (sound_ite h (cellIn_sound h))

theorem schedTake_sound {q padnum route code : Nat} {recs : List (Nat × List Byte)} {second eop : Bool} {b : List Byte}
    {p : Packet} {len pos : Nat} {s : State} (h : s.Sound) :
    (schedTake q padnum route code recs second eop b p len pos s).Sound := by
  unfold schedTake
  refine sound_ite (routeNext_sound (modQuad_sound (sound_ite (discard_sound h) h))) ?_
  refine sound_ite (schedStomp_sound (modQuad_sound h)) ?_
  split
  next heq =>
    have h1 := sound_of_eq heq (routeNext_sound h)
    split
    next hcheck =>
      have h2 := sound_of_eq hcheck (schedCheck_sound h1)
      split
      next hjoin =>
        have h3 := sound_of_eq hjoin (sound_ite_fst (schedJoin_sound h2) h2)
        exact sound_ite (sound_sch (modQuad_sound h3)) (modQuad_sound h3)

theorem schedCell_sound {q padnum i : Nat} {recs : List (Nat × List Byte)} {hdrs : List (Nat × Packet × Nat)} {code : Nat}
    {eop : Bool} {b : List Byte} {s : State} (h : s.Sound) : (schedCell q padnum i recs hdrs code eop b s).Sound := by
  unfold schedCell
  dsimp only
  split
  · exact routeNext_sound (setQuad_sound h)
  · exact schedTake_sound (sound_ite (linkErr_sound (setQuad_sound h)) (setQuad_sound h))

theorem schedMiss_sound {q own i jp : Nat} {recs : List (Nat × List Byte)} {hdrs : List (Nat × Packet × Nat)} {s : State}
    (h : s.Sound) : (schedMiss q own i jp recs hdrs s).Sound := by
  unfold schedMiss
  dsimp only
  split <;> exact modQuad_sound (routeNext_sound h)

theorem lateSend_sound {q code : Nat} {eop : Bool} {c : LateCell} {k : Packet} {len : Nat} {b0 : List Byte} {s : State}
    (h : s.Sound) : (lateSend q code eop c k len b0 s).Sound := by
  rw [lateSend.eq_def]
  extract_lets b recs out away s1
  have hout : ∀ rs t, t.Sound → (out rs t).Sound := fun rs t ht => sound_foldl (fun _ _ hu => unitSend_sound hu) ht
  refine sound_ite (hout _ _ ?_) ?_
  · exact discard_sound (rxFlushAll_sound (stompColl_sound (schedCopies_sound (stompCount_sound h))))
  · have h2 := schedCheck_sound (q := q) (recs := recs) (p := cellPacket k c.pos b)
      (show s1.Sound from sound_ite (rxFlushAll_sound h) h)
    exact sound_ite (hout _ _ (sound_ite h2 (cellJoins_sound h2))) h2

theorem lateCell_sound {q orig code : Nat} {eop : Bool} {b : List Byte} {s : State} (h : s.Sound) :
    (lateCell q orig code eop b s).Sound := by
  unfold lateCell
  split
  · exact linkErr_sound h
  · dsimp only
    split
    · exact linkErr_sound (modQuad_sound h)
    · exact lateSend_sound (linkErr_sound (modQuad_sound h))

theorem lateHeaders_sound {q slot : Nat} {b : List Byte} {s : State} (h : s.Sound) : (lateHeaders q slot b s).Sound := by
  unfold lateHeaders
  split
  · exact linkErr_sound h
  · exact sound_foldl (fun _ _ ht => collCheck_sound ht) (sound_ite (linkErr_sound h) h)

theorem rxReport_sound {q own padnum i : Nat} {o : Option Nat} {a : RxAcc} (h : a.s.Sound) :
    (rxReport q own padnum i o a).s.Sound := by
  cases o with
  | none => exact h
  | some o =>
    exact show (modQuad q (fun v => { v with badList := listAdd own padnum o v.badList }) a.s).Sound from modQuad_sound h

theorem rxAccepted_sound {q own o : Nat} {s : State} (h : s.Sound) : (rxAccepted q own o s).Sound := modQuad_sound h

theorem rxOrdered_sound {q i code : Nat} {b : List Byte} {s : State} (h : s.Sound) : (rxOrdered q i code b s).Sound := by
  unfold rxOrdered
  dsimp only
  split
  · exact takeSignals_sound h
  · exact takeCell_sound h
  · exact takeHeaders_sound h
  · exact h

theorem rxGood_sound {q own padnum i o code : Nat} {b : List Byte} {a : RxAcc} (h : a.s.Sound) :
    (rxGood q own padnum i o code b a).s.Sound := by
  rw [rxGood.eq_def]
  dsimp only
  split
  · exact h
  · split
    · exact rxOrdered_sound (rxAccepted_sound h)
    · exact rxReport_sound h

theorem rxSched_sound {q i : Nat} {f : State → State} {s : State} (hf : ∀ x0, x0.Sound → (f x0).Sound) (h : s.Sound) :
    (rxSched q i f s).Sound :=
  sound_ite (hf _ h) (linkErr_sound h)

theorem rxReplay_sound {c : RxCtx} {i o : Nat} {code : Option Nat} {b : List Byte} {a : RxAcc} (h : a.s.Sound) :
    (rxReplay c i o code b a).s.Sound := by
  rw [rxReplay.eq_def]
  dsimp only
  have hreport := fun o => rxReport_sound (q := c.q) (own := 32 * c.padnum + i) (padnum := c.padnum) (i := i) (o := o) h
  split
  · exact hreport none
  · split
    · split
      · exact rxAccepted_sound h
      · split
        · exact rxReport_sound h
        · exact h
    · split
      · exact h
      · exact rxSched_sound (fun _ ht => lateCell_sound ht) (rxAccepted_sound h)
    · split
      · exact h
      · exact rxSched_sound (fun _ ht => lateHeaders_sound ht) (rxAccepted_sound h)
    · exact linkErr_sound (rxAccepted_sound h)
    · exact rxGood_sound h

theorem rxSlot_sound {c : RxCtx} {a : RxAcc} {i : Nat} (h : a.s.Sound) : (rxSlot c a i).s.Sound := by
  rw [rxSlot.eq_def]
  dsimp only
  split
  · exact rxReplay_sound h
  · generalize (if (ctrlSlots c.padnum).contains i = true then [] else rxRecs c a.s i) = recs
    have hreport := fun o => rxReport_sound (q := c.q) (own := 32 * c.padnum + i) (padnum := c.padnum) (i := i) (o := o) h
    split
    · split
      · exact hreport (some (32 * c.padnum + i))
      · exact schedMiss_sound (hreport _)
    · split
      · split
        · exact linkErr_sound h
        · exact h
      · split
        · exact linkErr_sound h
        · exact schedCell_sound (rxAccepted_sound h)
      · split
        · exact linkErr_sound h
        · split
          · exact linkErr_sound h
          · have hkept := rxSched_sound (q := c.q) (i := i) (f := fun s => s) (fun _ ht => ht)
              (rxAccepted_sound (q := c.q) (own := 32 * c.padnum + i) (o := 32 * c.padnum + i) h)
            split
            · exact linkErr_sound hkept
            · exact hkept
      · split
        · exact linkErr_sound h
        · exact rxGood_sound (takeCtrl_sound h)
      · exact linkErr_sound h
      · split
        · exact linkErr_sound h
        · exact rxGood_sound h

theorem rxSlots_sound {c : RxCtx} {l : List Nat} {x : RxAcc} (h : x.s.Sound) : (l.foldl (rxSlot c) x).s.Sound := by
  induction l generalizing x with
  | nil => exact h
  | cons i l ih => exact ih (rxSlot_sound h)

theorem ackSent_sound {q : Nat} {s : State} (h : s.Sound) : (ackSent q s).Sound :=
  sound_foldl (fun _ _ ht => sound_ite (modColl_sound ht) ht) (setQuad_sound h)

theorem rxFrame_sound {q : Nat} {f : RxFrame} {usable : Bool} {s : State} (h : s.Sound) : (rxFrame q f usable s).Sound := by
  rw [rxFrame.eq_def]
  extract_lets v ph padnum reps c0 free c a s1 w
  have ha : a.s.Sound := rxSlots_sound h
  have h1 : s1.Sound := modQuad_sound ha
  refine sound_ite h1 ?_
  split
  · exact sound_ite (linkFail_sound h1) h1
  · exact h1

theorem rxPad_sound {q : Nat} {f : RxFrame} {s : State} (h : s.Sound) : (rxPad q f s).Sound := by
  unfold rxPad
  dsimp only
  split
  · exact linkFail_sound (modQuad_sound h)
  · refine sound_ite (linkFail_sound (modQuad_sound h)) ?_
    split <;> exact sound_ite (linkFail_sound (setQuad_sound (modQuad_sound h)))
      (rxFrame_sound (ackSent_sound (setQuad_sound (modQuad_sound h))))

theorem padFrameReceive_sound {q : Nat} {f : RxFrame} {s : State} (h : s.Sound) : (padFrameReceive q f s).Sound :=
  sound_ite h (sound_ite (setQuad_sound h) (rxPad_sound (setQuad_sound h)))

theorem trainFail_sound {code q lane : Nat} {s : State} (h : s.Sound) : (trainFail code q lane s).Sound := by
  unfold trainFail
  exact modQuad_sound (linkErr_sound h)

theorem stepEnd_sound {q : Nat} {s : State} (h : s.Sound) : (stepEnd q s).Sound := by
  unfold stepEnd
  refine sound_ite h ?_
  split
  · exact sound_ite (setQuad_sound h) h
  · exact sound_ite (setQuad_sound h) h
  · exact sound_ite (setQuad_sound h) (trainFail_sound h)
  · exact sound_ite (setQuad_sound h) h
  · exact sound_ite (setQuad_sound h) h
  · exact sound_ite (sendIdent_sound (setQuad_sound h)) h
  · exact h

theorem trainBegin_sound {q : Nat} {s : State} (h : s.Sound) : (trainBegin q s).Sound := sound_ite (trainStart_sound h) h

theorem qctlWrite_sound {q w : Nat} {s : State} (h : s.Sound) : (qctlWrite q w s).Sound := by
  rw [qctlWrite.eq_def]
  extract_lets v m r s1
  refine sound_ite (linkErr_sound h) ?_
  split
  · exact modMslot_sound h
  · have h1 : s1.Sound := sound_ite (modQuad_sound (quadDown_sound h)) (sound_ite (trainBegin_sound (modQuad_sound h)) h)
    exact sound_ite (trainBegin_sound (sound_ite h1 (quadDown_sound h1))) h1

theorem slipWrite_sound {q w : Nat} {s : State} (h : s.Sound) : (slipWrite q w s).Sound := sound_ite (modQuad_sound h) h

theorem rqWrite_sound {q lane w : Nat} {s : State} (h : s.Sound) : (rqWrite q lane w s).Sound := modQuad_sound h

theorem keepBits_sound {q : Nat} {g : LaneFrame} {s : State} (h : s.Sound) : (keepBits q g s).Sound :=
  sound_ite h (modQuad_sound h)

theorem alignCorrect_sound {ls : List ChipLink} {s : State} (h : s.Sound) : (alignCorrect ls s).Sound := by
  refine sound_ite h ?_
  split
  · exact h
  · exact { h with quads := tsorted_map_snd h.quads }

theorem modSch_sound {f : Sch → Sch} {s : State} (h : s.Sound) : (modSch f s).Sound := { h with }

theorem sentFirst_sound {route : Nat} {recs : List (Nat × List Byte)} {c : SCell} {n : Nat} {s : State} (h : s.Sound) :
    (sentFirst route recs c n s).1.Sound := by
  unfold sentFirst
  refine sound_ite_fst (sound_fst (sound_ite h (cellJoins_sound h))) ?_
  split
  next heq => exact sound_fst (modNewt_sound (sound_of_eq heq (schedEnter_sound h)))

theorem takePosition_sound {key : Nat} {s : State} (h : s.Sound) : (takePosition key s).Sound := by
  unfold takePosition
  dsimp only
  split
  · exact h
  · exact sound_ite h (modSch_sound (sentFirst_sound (routeNext_sound (setNewt_sound h (pond_newt _ h)))))

theorem padCells_sound {s : State} (h : s.Sound) : (padCells s).Sound :=
  sound_ite h (sound_foldl (fun _ _ ht => modQuad_sound ht) (sound_foldl (fun _ _ ht => takePosition_sound ht) h))

theorem deliverCell_sound {f : Flight} {s : State} (h : s.Sound) : (deliverCell f s).Sound := by
  unfold deliverCell
  refine sound_ite ?_ (modQuad_sound h)
  split
  · exact rxTake_sound h
  · exact h

theorem flightsStep_sound {s : State} (h : s.Sound) : (flightsStep s).Sound :=
  sound_foldl (fun _ _ ht => sound_ite (deliverCell_sound ht) (modSch_sound ht)) (modSch_sound h)

theorem slipCall_sound {j : Nat} {s : State} (h : s.Sound) : (slipCall j s).Sound := sound_ite (modSch_sound h) h

theorem padHist_sound {j : Nat} {s : State} (h : s.Sound) : (padHist j s).Sound := modSch_sound h

theorem padBoundary_sound {s : State} (h : s.Sound) : (padBoundary s).Sound := by
  refine sound_ite h ?_
  have hflights : (flightsStep s).Sound := flightsStep_sound h
  split
  · extract_lets j s1 s2
    have h2 : s2.Sound := padHist_sound (modSch_sound (slipCall_sound hflights))
    exact sound_ite h (sound_ite h2 (padCells_sound h2))
  · have hcells := fun j f => padCells_sound (padHist_sound (j := j) (modSch_sound (f := f) hflights))
    exact sound_ite h (sound_ite (hcells _ _) (sound_ite (hcells _ _) (padHist_sound (modSch_sound hflights))))
  · exact hflights

theorem freezeBegin_sound {s : State} (h : s.Sound) : (freezeBegin s).Sound :=
  sound_ite h (padCells_sound (padHist_sound (modSch_sound h)))

theorem extensionCall_sound {s : State} (h : s.Sound) : (extensionCall s).Sound := sound_ite (modSch_sound h) h

theorem freezeEnd_sound {s : State} (h : s.Sound) : (freezeEnd s).Sound :=
  sound_ite h (sound_ite (modSch_sound h) (padCells_sound (modSch_sound h)))

theorem densitySample_sound {s : State} (h : s.Sound) : (densitySample s).Sound := sound_ite (modSch_sound h) h

theorem epochBegin_sound {s : State} (h : s.Sound) : (epochBegin s).Sound := by
  unfold epochBegin
  dsimp only
  split
  · exact sound_ite (modSch_sound h) h
  · exact modJob_sound (sound_ite (modSch_sound h) h)

theorem epochPause_sound {s : State} (h : s.Sound) : (epochPause s).Sound := by
  unfold epochPause
  dsimp only
  split
  · exact sound_foldl (fun _ _ ht => pauseNewt_sound (modNewt_sound ht (hf := fun _ h => by split <;> exact h)))
      (modSch_sound h)
  · exact jobState_sound (sound_foldl (fun _ _ ht => pauseNewt_sound (modNewt_sound ht (hf := fun _ h => by split <;> exact h)))
      (modSch_sound h))

theorem epochBoundary_sound {s : State} (h : s.Sound) : (epochBoundary s).Sound := by
  refine sound_ite h (sound_ite (jobStop_sound (schErr_sound h)) ?_)
  extract_lets d given s1 therm2 s2
  have h1 : s1.Sound := wantFall_sound (modSch_sound h)
  have h2 : s2.Sound := sound_ite h1 { h1 with }
  exact sound_ite (epochPause_sound h2) (sound_ite (padCells_sound (epochBegin_sound h2)) h2)

theorem newtGo_pond (v : Newt) : (newtGo v).pond = v.pond := by
  unfold newtGo
  split <;> rfl

theorem launchReached_sound {j : Nat} {s : State} (h : s.Sound) : (launchReached j s).Sound := by
  rw [launchReached.eq_def]
  extract_lets v s1 s1' s2 s3
  have h1 : s1.Sound := jobState_sound (modJob_sound h)
  have h1' : s1'.Sound := modSch_sound h1
  have h2 : s2.Sound := sound_ite (epochBegin_sound h1') h1'
  have h3 : s3.Sound := sound_foldl (fun _ _ ht => modNewt_sound ht fun v hv => (newtGo_pond v).symm ▸ hv) h2
  exact sound_ite h (sound_ite h1 (padCells_sound (padHist_sound h3)))

theorem pauseRequest_sound {s : State} (h : s.Sound) : (pauseRequest s).Sound := by
  unfold pauseRequest
  split
  · exact h
  · exact sound_ite (sampleAgain_sound (modSch_sound h)) h

theorem checkpointWrite_sound {i : Nat} {s : State} (h : s.Sound) : (checkpointWrite i s).Sound := by
  unfold checkpointWrite
  split
  · exact h
  · exact sound_ite h (sound_ite (cmdFail_sound (modJob_sound h)) (cmdDone_sound (lovStore_sound (modJob_sound h))))

theorem jobDone_sound {j : Nat} {s : State} (h : s.Sound) : (jobDone j s).Sound :=
  sound_ite h (sound_ite (jobEnd_sound (modSch_sound h)) (jobEnd_sound h))

theorem masterHeartbeat_sound {s : State} (h : s.Sound) : (masterHeartbeat s).Sound := sound_ite (modSch_sound h) h

theorem masterLost_sound {s : State} (h : s.Sound) : (masterLost s).Sound :=
  sound_ite h (modSch_sound (jobStop_sound (schErr_sound h)))

theorem electEnter_sound {term : Nat} {s : State} (h : s.Sound) : (electEnter term s).Sound :=
  sound_foldl (fun _ _ ht => mgmt_sound ht) (modSch_sound h)

theorem electOpen_sound {c : ElectionCause} {s : State} (h : s.Sound) : (electOpen c s).Sound := sound_ite h
    (electEnter_sound h)

theorem bidReceive_sound {b : Bid} {s : State} (h : s.Sound) : (bidReceive b s).Sound :=
  sound_ite h (sound_ite (modSch_sound (sound_ite (electEnter_sound h) h)) (sound_ite (electEnter_sound h) h))

theorem electDecide_sound {s : State} (h : s.Sound) : (electDecide s).Sound := by
  unfold electDecide
  refine sound_ite h ?_
  split
  · exact raise_sound (modSch_sound h)
  · exact logOpen_sound (modSch_sound h)

theorem electRetry_sound {s : State} (h : s.Sound) : (electRetry s).Sound := sound_ite h (electEnter_sound h)

theorem syncDrop_sound {s : State} (h : s.Sound) : (syncDrop s).Sound :=
  { sound_foldl (fun _ _ ht => setObj_sound (sound_ite (setBline_sound ht) ht)) h with }

theorem syncRecord_sound {slots : Table Nat} {r : List Byte} {s t : State} (h : s.Sound) (ht : syncRecord slots r s = some t) :
    t.Sound := by
  unfold syncRecord at ht
  dsimp only at ht
  split at ht
  · split at ht
    · cases ht
    · cases ht
      exact setBline_sound h
  · split at ht
    · cases ht
    · split at ht
      · cases ht
      · cases ht
        exact sound_lay (syncCfgWrite_sound (syncCountWrite_sound (syncCountWrite_sound (syncCountWrite_sound h))))

theorem syncRecords_sound {slots : Table Nat} {l : List (List Byte)} {o : Option State} {t : State}
    (ho : ∀ u, o = some u → u.Sound)
    (ht : l.foldl (fun t r => t.bind (syncRecord slots r)) o = some t) : t.Sound := by
  induction l generalizing o with
  | nil => exact ho t ht
  | cons r l ih =>
    refine ih (fun u hu => ?_) ht
    obtain ⟨v, hv, hr⟩ := Option.bind_eq_some_iff.mp hu
    exact syncRecord_sound (ho v hv) hr

theorem syncApply_sound {slots : Table Nat} {b : List Byte} {s t : State} (h : s.Sound) (ht : syncApply slots b s = some t) :
    t.Sound :=
  syncRecords_sound (fun _ hu => Option.some.inj hu ▸ syncDrop_sound h) ht

theorem pond_fillNewt {logic epitab r : List Byte} {v : Newt} (hv : memWf v.pond = true) : memWf
    (fillNewt logic epitab r v).pond = true := by
  rw [fillNewt.eq_def]
  extract_lets v1 v2
  have h1 : memWf v1.pond = true := memWf_memWrite hv 0 _
  have h2 : memWf v2.pond = true := pond_foldl (fun _ _ ht => memWf_memWrite ht _ _) h1
  exact h2

theorem mem_bindDie {s : State} {d : Nat} {e : Nat × Nat} (he : e ∈ bindDie s d) : e.1 / 1024 = d := by
  obtain ⟨x, hx, rfl⟩ := List.mem_map.mp he
  have hmem := List.mem_of_mem_take (List.fst_mem_of_mem_zipIdx hx)
  obtain ⟨i, hi, hxi⟩ := List.mem_map.mp (List.mem_of_mem_filter hmem)
  have := List.mem_range.mp hi
  show x.1 / 1024 = d
  omega

theorem tsorted_bindDie (s : State) (d : Nat) : tsorted (bindDie s d) := by
  have hrange : ((List.range 1024).map (1024 * d + ·)).Pairwise (· < ·) :=
    List.pairwise_map.mpr (List.pairwise_lt_range.imp fun h => Nat.add_lt_add_left h _)
  have hnums := (hrange.filter (newtEnabled s)).sublist (List.take_sublist 1000 _)
  rw [tsorted, bindDie, List.pairwise_map]
  rw [← List.zipIdx_map_fst 0 (List.take 1000 _), List.pairwise_map] at hnums
  exact hnums

/-- The newts of die `d` after the slots are bound: the bound ones, filled, then those above them that still hold something. -/
def boundNewts (recs : List (List Byte)) (logic epitab : List Byte) (s : State) (d : Nat) : Table Newt :=
  (bindDie s d).map (fun e =>
    let v := freshNewt (newt s e.1) .free e.2
    (e.1, match recs.find? (fun r => npSlot r == e.2) with
      | some r => fillNewt logic epitab r v
      | none => v)) ++
  (s.newts.filter (fun e => decide (e.1 / 1024 = d ∧ ∀ b ∈ bindDie s d, b.1 < e.1))).filterMap (fun e =>
    let v := freshNewt e.2 .unbound 0x7FF
    if v = {} then none else some (e.1, v))

theorem bindNewts_eq (logic epitab prog : List Byte) (s : State) :
    bindNewts logic epitab prog s = { s with
      newts := boundNewts (npSlots prog) logic epitab s 0 ++ boundNewts (npSlots prog) logic epitab s 1
      lay := { s.lay with slotOf := bindSlots s } } := rfl

theorem mem_boundNewts {recs : List (List Byte)} {logic epitab : List Byte} {s : State} {d : Nat} {e : Nat × Newt}
    (he : e ∈ boundNewts recs logic epitab s d) : e.1 / 1024 = d ∧ memWf e.2.pond = true := by
  rcases List.mem_append.mp he with he | he
  · obtain ⟨b, hb, rfl⟩ := List.mem_map.mp he
    refine ⟨mem_bindDie hb, ?_⟩
    dsimp only
    split
    · exact pond_fillNewt rfl
    · rfl
  · obtain ⟨x, hx, hxe⟩ := List.mem_filterMap.mp he
    have hdie := of_decide_eq_true (List.mem_filter.mp hx).2
    dsimp only at hxe
    split at hxe
    · cases hxe
    · cases hxe
      exact ⟨hdie.1, rfl⟩

theorem tsorted_boundNewts {recs : List (List Byte)} {logic epitab : List Byte} {s : State} {d : Nat} (h : s.Sound) :
    tsorted (boundNewts recs logic epitab s d) := by
  refine List.pairwise_append.mpr ⟨tsorted_map_snd (tsorted_bindDie s d), ?_, ?_⟩
  · refine List.Pairwise.filterMap _ (fun a b hab a' ha' b' hb' => ?_) (h.newts.filter _)
    dsimp only at ha' hb'
    split at ha'
    · cases ha'
    · split at hb'
      · cases hb'
      · cases ha'
        cases hb'
        exact hab
  · intro a ha b hb
    obtain ⟨x, hx, rfl⟩ := List.mem_map.mp ha
    obtain ⟨y, hy, hyb⟩ := List.mem_filterMap.mp hb
    have hdie := of_decide_eq_true (List.mem_filter.mp hy).2
    dsimp only at hyb
    split at hyb
    · cases hyb
    · cases hyb
      exact hdie.2 x hx

theorem bindNewts_sound {logic epitab prog : List Byte} {s : State} (h : s.Sound) : (bindNewts logic epitab prog s).Sound := by
  have hnewts : tsorted (boundNewts (npSlots prog) logic epitab s 0 ++ boundNewts (npSlots prog) logic epitab s 1) := by
    refine List.pairwise_append.mpr ⟨tsorted_boundNewts h, tsorted_boundNewts h, fun a ha b hb => ?_⟩
    have h0 := (mem_boundNewts ha).1
    have h1 := (mem_boundNewts hb).1
    omega
  have hponds : ∀ e ∈ boundNewts (npSlots prog) logic epitab s 0 ++ boundNewts (npSlots prog) logic epitab s 1,
      memWf e.2.pond = true :=
    fun e he => (List.mem_append.mp he).elim (fun he => (mem_boundNewts he).2) fun he => (mem_boundNewts he).2
  rw [bindNewts_eq]
  generalize boundNewts (npSlots prog) logic epitab s 0 ++ boundNewts (npSlots prog) logic epitab s 1 = newts at hnewts hponds ⊢
  generalize bindSlots s = slots
  exact { h with newts := hnewts, ponds := hponds }

theorem endFree_sound {s : State} (h : s.Sound) : (endFree s).Sound :=
  sound_foldl (fun _ _ ht => programEnds_sound (unwaitAll_sound ht)) h

theorem tsorted_foldl_tset {α β : Type} [DecidableEq β] {d : β} {key : α → Nat} {val : α → β} {l : List α} {t : Table β}
    (ht : tsorted t) : tsorted (l.foldl (fun t a => tset d t (key a) (val a)) t) := by
  induction l generalizing t with
  | nil => exact ht
  | cons a l ih => exact ih (tsorted_tset d ht _ _)

theorem tsorted_ldTable {b : List Byte} {qs : Table Quad} (h : tsorted qs) : tsorted (ldTable b qs) := tsorted_foldl_tset h

theorem applyStartup_sound {f p : List Byte} {coord : Nat} {s : State} (h : s.Sound) : (applyStartup f p coord s).Sound := by
  have hquads : tsorted (ldTable (sectionOf p 1 0) s.quads) := tsorted_ldTable h.quads
  unfold applyStartup
  generalize ldTable (sectionOf p 1 0) s.quads = quads at hquads ⊢
  exact { h with quads := hquads }

theorem reserveQuads_sound {qs : List Nat} {s : State} (h : s.Sound) : (reserveQuads qs s).Sound :=
  { h with quads := tsorted_filter (List.pairwise_map.mpr List.pairwise_lt_range) }

theorem loadTables_sound {f p : List Byte} {s : State} (h : s.Sound) : (loadTables f p s).Sound := by
  refine sound_lay (applyShaper_sound ?_)
  exact { h with }

theorem activateSteps_sound {f : List Byte} {coord : Nat} {s : State} (h : s.Sound) : (activateSteps f coord s).Sound := by
  rw [activateSteps.eq_def]
  extract_lets p logic epitab s1 s2 s3
  have h1 : s1.Sound := bindNewts_sound (endFree_sound h)
  have h2 : s2.Sound := sound_ite h1 (applyStartup_sound h1)
  have h3 : s3.Sound := reserveQuads_sound (loadTables_sound h2)
  cases ht : syncApply s3.lay.slotOf (sectionOf p 8 0) s3 with
  | none => exact h3
  | some t => exact syncApply_sound h3 ht

theorem logDigests_sound {fp program : List Byte} {s : State} (h : s.Sound) : (logDigests fp program s).Sound :=
  logAdd_sound (logAdd_sound h)

theorem unitSticky_sound {x : UnitErr} {s : State} (h : s.Sound) : (unitSticky x s).Sound := by
  unfold unitSticky
  split
  · exact sound_ite (modObj_sound h) h
  · exact sound_ite (modQuad_sound h) h
  · exact sound_ite (modNewt_sound h fun _ hv => memWf_errRecord hv) h
  · exact sound_ite h (modStack_sound h)
  · exact h

theorem startupUndone_sound {s t : State} (hs : s.Sound) (ht : t.Sound) : (startupUndone s t).Sound :=
  sound_ite ht { ht with quads := hs.quads }

theorem activateFault_sound {f : List Byte} {coord : Nat} {x : UnitErr} {s : State} (h : s.Sound) :
    (activateFault f coord x s).Sound := by
  have hundone := startupUndone_sound h (activateSteps_sound (f := f) (coord := coord) h)
  refine logOpen_sound (raise_sound (unitSticky_sound ?_))
  exact { hundone with }

theorem activate_sound {f : List Byte} {coord : Nat} {signed : Bool} {s : State} (h : s.Sound) :
    (activate f coord signed s).Sound :=
  logDigests_sound { activateSteps_sound h with }

theorem routeInto_sound {b : Option (List Byte)} {s : State} (h : s.Sound) : (routeInto b s).Sound := by
  unfold routeInto
  split
  · exact h
  · exact sound_ite { h with } { h with }

theorem logSection_sound {typ : Nat} {body : List Byte} {s : State} (h : s.Sound) : (logSection typ body s).Sound :=
  logAdd_sound h

theorem logSections_sound {sect : Nat} {p : List Byte} {bank : Nat} {s : State} (h : s.Sound) :
    (logSections sect p bank s).Sound := by
  unfold logSections
  refine sound_ite ?_ ?_
  · refine logSection_sound ?_
    refine sound_ite ?_ ?_
    · refine logSection_sound ?_
      split
      · exact sound_ite (logSection_sound h) h
      · exact sound_ite (logOpen_sound h) h
    · split
      · exact sound_ite (logSection_sound h) h
      · exact sound_ite (logOpen_sound h) h
  · refine sound_ite ?_ ?_
    · refine logSection_sound ?_
      split
      · exact sound_ite (logSection_sound h) h
      · exact sound_ite (logOpen_sound h) h
    · split
      · exact sound_ite (logSection_sound h) h
      · exact sound_ite (logOpen_sound h) h

theorem tableSwap_sound {sect : Nat} {s : State} (h : s.Sound) : (tableSwap sect s).Sound := by
  rw [tableSwap.eq_def]
  extract_lets p s1 t lay2 s2 lay3 s3
  have h1 : s1.Sound := sound_ite (swapRoute_sound (routeInto_sound h)) h
  have h2 : s2.Sound := sound_ite (sound_lay (applyShaper_sound h1)) h1
  have h3 : s3.Sound := sound_ite (sound_lay h2) h2
  exact logSections_sound (sound_lay h3)

theorem modHif_sound {f : Hif → Hif} {s : State} (h : s.Sound)
    (hslots : ∀ u, tsorted u.slots → tsorted (f u).slots := by exact fun _ h => h)
    (hbytes : ∀ u, (∀ e ∈ u.slots, e.2.bytes.length = 256) → ∀ e ∈ (f u).slots, e.2.bytes.length = 256 := by exact fun _ h => h)
    (hmsix : ∀ u, tsorted u.msix → tsorted (f u).msix := by exact fun _ h => h)
    (hpba : ∀ u, tsorted u.pba → tsorted (f u).pba := by exact fun _ h => h) : (modHif f s).Sound :=
  { h with slots := hslots _ h.slots, slotBytes := hbytes _ h.slotBytes, msix := hmsix _ h.msix, pba := hpba _ h.pba }

theorem badAccess_sound {s : State} (h : s.Sound) : (badAccess s).Sound := raise_sound h

theorem eventWrite_sound {s : State} (h : s.Sound) : (eventWrite s).Sound := by
  unfold eventWrite
  refine sound_ite h ?_
  split
  · exact h
  · exact vector_sound (modHif_sound (hostWrite_sound h))

theorem eventPump_sound {fuel : Nat} {s : State} (h : s.Sound) : (eventPump fuel s).Sound := by
  induction fuel generalizing s with
  | zero => exact h
  | succ fuel ih => exact sound_ite (ih (eventWrite_sound h)) h

theorem recordWrite_sound {j : Nat} {s : State} (h : s.Sound) : (recordWrite j s).Sound := by
  unfold recordWrite
  refine sound_ite h ?_
  dsimp only
  split
  · exact h
  · exact memberNotes_sound (sound_ite (vector_sound (setJob_sound (hostWrite_sound h))) (setJob_sound (hostWrite_sound h)))

theorem recordPump_sound {fuel j : Nat} {s : State} (h : s.Sound) : (recordPump fuel j s).Sound := by
  induction fuel generalizing s with
  | zero => exact h
  | succ fuel ih => exact sound_ite (ih (recordWrite_sound h)) h

theorem evRingWrite_sound {w : Nat} {s : State} (h : s.Sound) : (evRingWrite w s).Sound :=
  sound_ite (badAccess_sound h) (eventPump_sound (modHif_sound h))

theorem evRdWrite_sound {rd : Nat} {s : State} (h : s.Sound) : (evRdWrite rd s).Sound := eventPump_sound (modHif_sound h)

theorem jobRdWrite_sound {j rd : Nat} {s : State} (h : s.Sound) : (jobRdWrite j rd s).Sound := recordPump_sound (modJob_sound h)

theorem unreserve_sound {m : Slot} {s : State} (h : s.Sound) : (unreserve m s).Sound := by
  unfold unreserve
  refine sound_foldl (fun _ _ ht => ?_) h
  dsimp only
  split
  · exact modNewt_sound ht
  · exact ht

theorem snapEnd_sound {i : Nat} {s : State} (h : s.Sound) : (snapEnd i s).Sound := sound_ite (logUnstage_sound { h with }) h

theorem testCancel_sound {i : Nat} {s : State} (h : s.Sound) : (testCancel i s).Sound :=
  sound_foldl (fun _ _ ht => qctlWrite_sound ht) (modMslot_sound (unreserve_sound h))

theorem cmdCancel_sound {i : Nat} {s : State} (h : s.Sound) : (cmdCancel i s).Sound := by
  unfold cmdCancel
  dsimp only
  split
  · exact { h with }
  · exact sound_colls_map h
  · exact sound_sch (sound_jobs_map h)
  · exact sound_ite (drainRelease_sound h) h
  · exact sound_ite { h with } h
  · exact testCancel_sound h
  · exact snapEnd_sound h
  · exact h

theorem slotFree_sound {i : Nat} {s : State} (h : s.Sound) : (slotFree i s).Sound := by
  refine setMslot_sound (sound_ite h (sound_ite (unwaitAll_sound h) (sound_ite h (cmdCancel_sound h)))) ?_
  exact (List.length_set ..).trans (bytes_mslot i h)

theorem enterOrphan_sound {code : Nat} {s : State} (h : s.Sound) : (enterOrphan code s).Sound := by
  refine sound_ite h (sound_ite { h with } (raise_sound (logOpen_sound (dmaOrphan_sound (sound_jobs_map ?_)))))
  exact modHif_sound h (hpba := fun _ _ => List.Pairwise.nil)

theorem linkDown_sound {s : State} (h : s.Sound) : (linkDown s).Sound := enterOrphan_sound (modHif_sound h)

theorem flr_sound {s : State} (h : s.Sound) : (flr s).Sound := by
  refine enterOrphan_sound (dmaFlr_sound (sound_jobs_map (modHif_sound
    (sound_foldl (fun _ _ ht => slotFree_sound ht) h) ?_ ?_ ?_ ?_)))
  · exact fun _ hu => hu
  · exact fun _ hu => hu
  · exact fun _ _ => List.Pairwise.nil
  · exact fun _ _ => List.Pairwise.nil

theorem hdmRead_sound {off : Nat} {s : State} (h : s.Sound) : (hdmRead off s).Sound :=
  sound_ite h (emit_sound (sound_ite (stkUe_sound h) (readDrawn_sound h)))

theorem hdmWrite_sound {off : Nat} {data : List Byte} {poison : Bool} {s : State} (h : s.Sound) :
    (hdmWrite off data poison s).Sound :=
  sound_ite h (sound_ite { lovWrite_sound h with } (lovWrite_sound h))

theorem heartbeatWrite_sound {w : Nat} {s : State} (h : s.Sound) : (heartbeatWrite w s).Sound := sound_ite (modHif_sound h) h

theorem hdmNextWrite_sound {w : Nat} {s : State} (h : s.Sound) : (hdmNextWrite w s).Sound :=
  sound_ite (badAccess_sound h) (modHif_sound h)

theorem collTimeout_sound {c : Nat} {s : State} (h : s.Sound) : (collTimeout c s).Sound := sound_ite (detectAbort_sound h) h

theorem abortArrives_sound {c cause : Nat} {p : FaultPlace} {s : State} (h : s.Sound) : (abortArrives c cause p s).Sound :=
  abortReq_sound h

theorem noticeReceive_sound {c status cause : Nat} {p : FaultPlace} {asb : List Byte} {s : State} (h : s.Sound) :
    (noticeReceive c status cause p asb s).Sound :=
  sound_ite h (sound_ite (mgmt_sound (collReport_sound (setColl_sound h)))
    (mgmt_sound (collReport_sound (stopFor_sound (abortStomps_sound (setColl_sound h))))))

theorem outcomeDecided_sound {c : Nat} {s : State} (h : s.Sound) : (outcomeDecided c s).Sound := by
  unfold outcomeDecided
  refine sound_ite h ?_
  split
  · exact collReport_sound h
  · exact collReport_sound (setColl_sound h)
  · exact h

theorem deliveredSend_sound {c port : Nat} {s : State} (h : s.Sound) : (deliveredSend c port s).Sound :=
  sound_ite h (collMsg_sound (setColl_sound h))

theorem placeNewt_sound {c : Nat} {p : Placement} {s : State} (h : s.Sound) : (placeNewt c p s).Sound := by
  refine setNewt_sound h (pond_foldl (fun _ e ht => memWf_memWrite ht e.1 e.2) ?_)
  exact pond_foldl (fun _ e ht => memWf_memWrite ht (8 * e.2) (wordBytes e.1)) rfl

theorem collStart_sound {c : Nat} {table : List Byte} {work : List Placement} {s : State} (h : s.Sound) :
    (collStart c table work s).Sound := by
  unfold collStart
  refine sound_ite h ?_
  split
  · exact detectAbort_sound (syncErr_sound h)
  · exact setColl_sound (sound_foldl (fun _ _ ht => touch_sound ht) (sound_foldl (fun _ _ ht => placeNewt_sound ht) h))

theorem waitTimeout_sound {o agent : Nat} {s : State} (h : s.Sound) : (waitTimeout o agent s).Sound :=
  sound_ite h (sound_ite (newtError_sound (syncTimeout_sound h))
    (sound_ite (chanStop_sound (syncTimeout_sound h)) (sound_ite (cmdFail_sound (syncTimeout_sound h)) (syncTimeout_sound h))))

theorem slotOverwrite_sound {i : Nat} {s : State} (h : s.Sound) : (slotOverwrite i s).Sound := raise_sound (modHif_sound h)

theorem length_putBytes {bs new : List Byte} {off : Nat} (hoff : off ≤ bs.length) : (putBytes bs off new).length = bs.length :=
    by
  simp only [putBytes, List.length_append, List.length_take, List.length_drop]
  omega

theorem slotWrite_sound {off value width : Nat} {s : State} (h : s.Sound) : (slotWrite off value width s).Sound := by
  rw [slotWrite.eq_def]
  extract_lets i p m lone new kept
  refine sound_ite (raise_sound h) ?_
  split
  · exact h
  next hp =>
    refine sound_ite (raise_sound h) (sound_ite (slotOverwrite_sound h) (setMslot_sound h ?_))
    have hm : m.bytes.length = 256 := bytes_mslot i h
    rw [length_putBytes (by omega), hm]

theorem slotRead_sound {off width : Nat} {s : State} (h : s.Sound) : (slotRead off width s).1.Sound :=
  sound_ite_fst (raise_sound h) h

theorem slotPost_sound {i value : Nat} {s : State} (h : s.Sound) : (slotPost i value s).Sound := slotWrite_sound h

theorem slotWork_sound {i : Nat} {w : SlotWork} {s : State} (h : s.Sound) : (slotWork i w s).Sound := modMslot_sound h

theorem preopBegin_sound {i : Nat} {s : State} (h : s.Sound) : (preopBegin i s).Sound := by
  rw [preopBegin.eq_def]
  extract_lets m o a s1
  have h1 : s1.Sound := touch_sound (slotWork_sound h)
  split
  next s2 err heq =>
    have h2 : s2.Sound := sound_of_eq heq
      (sound_ite_fst (syncWait_sound h1) (sound_ite_fst (sound_fst (syncErr_sound h1)) (barrArrive_sound h1)))
    split
    · exact h2
    · exact reply_sound h2

theorem slotRule_sound {i : Nat} {s : State} (h : s.Sound) : (slotRule i s).Sound := by
  unfold slotRule
  dsimp only
  split
  · exact cmdFail_sound h
  · exact sound_ite h (preopBegin_sound h)

theorem adoptOver_sound {s : State} (h : s.Sound) : (adoptOver s).Sound :=
  sound_foldl (fun _ _ ht => sound_ite ht (slotRule_sound (modMslot_sound ht))) h

theorem slotTake_sound {i : Nat} {s : State} (h : s.Sound) : (slotTake i s).Sound := by
  rw [slotTake.eq_def]
  extract_lets m s1
  have h1 : s1.Sound := logOpen_sound (setMslot_sound h ((List.length_set ..).trans (bytes_mslot i h)))
  exact sound_ite (cmdFail_sound h1) (sound_ite (modMslot_sound h1) (slotRule_sound h1))

theorem scan_sound {s : State} (h : s.Sound) : (scan s).Sound := sound_ite (sound_foldl (fun _ _ ht => slotTake_sound ht) h) h

theorem onSlot_sound {c i : Nat} {f : Slot → State → State} {s : State} (hf : ∀ x0 x1, x1.Sound → (f x0 x1).Sound)
    (h : s.Sound) : (onSlot c i f s).Sound :=
  sound_ite (hf _ _ h) h

theorem aligned64_sound {i a : Nat} {f : State → State} {s : State} (hf : ∀ x0, x0.Sound → (f x0).Sound) (h : s.Sound) :
    (aligned64 i a f s).Sound :=
  sound_ite (cmdFail_sound h) (hf _ h)

theorem copyOut_sound {i : Nat} {bytes : List Byte} {scratch : List Nat} {s : State} (h : s.Sound) :
    (copyOut i bytes scratch s).Sound :=
  modMslot_sound h

theorem copyIn_sound {i : Nat} {s : State} (h : s.Sound) : (copyIn i s).Sound := slotWork_sound h

theorem cmdTimeout_sound {i : Nat} {s : State} (h : s.Sound) : (cmdTimeout i s).Sound :=
  sound_ite (waitTimeout_sound h) (sound_ite (cmdFail_sound (cmdCancel_sound h))
    (sound_ite (adoptOver_sound (cmdFail_sound h)) h))

theorem identify_sound {i : Nat} {s : State} (h : s.Sound) : (identify i s).Sound := cmdDone_sound h

theorem snapBegin_sound {i : Nat} {m : Slot} {s : State} (h : s.Sound) : (snapBegin i m s).Sound :=
  aligned64_sound (fun _ ht => sound_ite (cmdFail_sound ht) { copyOut_sound ht with }) h

theorem snapDone_sound {i : Nat} {ok : Bool} {m : Slot} {s : State} (h : s.Sound) : (snapDone i ok m s).Sound :=
  sound_ite (cmdDone_sound (hostWrite_sound (sound_ite (snapEnd_sound h) { snapEnd_sound h with })))
    (cmdFail_sound (sound_ite (snapEnd_sound h) { snapEnd_sound h with }))

theorem modLay_sound {f : Layout → Layout} {s : State} (h : s.Sound) : (modLay f s).Sound := { h with }

theorem layFail_sound {i code chk : Nat} {s : State} (h : s.Sound) : (layFail i code chk s).Sound :=
  cmdFailAt_sound (modLay_sound h)

theorem loadBegin_sound {i : Nat} {m : Slot} {s : State} (h : s.Sound) : (loadBegin i m s).Sound :=
  sound_ite (layFail_sound h) (sound_ite (layFail_sound h) (sound_ite (layFail_sound h) (copyIn_sound (modLay_sound h))))

theorem loadStage_sound {i : Nat} {f : List Byte} {m : Slot} {s : State} (h : s.Sound) : (loadStage i f m s).Sound :=
  cmdDone_sound (modLay_sound (lovStore_sound h))

theorem storePut_sound {v : LaySlot} {s : State} (h : s.Sound) : (storePut v s).Sound :=
  sound_ite (modLay_sound h) (modLay_sound h)

theorem loadRead_sound {i : Nat} {ok : Bool} {f : List Byte} {m : Slot} {s : State} (h : s.Sound) :
    (loadRead i ok f m s).Sound := by
  unfold loadRead
  refine sound_ite (layFail_sound (modLay_sound h)) ?_
  split
  · exact layFail_sound (modLay_sound h)
  · exact sound_ite (modMslot_sound (storePut_sound h)) (loadStage_sound h)

theorem loadKept_sound {i : Nat} {ok : Bool} {m : Slot} {s : State} (h : s.Sound) : (loadKept i ok m s).Sound :=
  sound_ite (loadStage_sound (storePut_sound h)) (layFail_sound (drawn_sound (modLay_sound h)))

theorem unlessStagedPoison_sound {i : Nat} {f : State → State} {s : State} (hf : ∀ x0, x0.Sound → (f x0).Sound) (h : s.Sound) :
    (unlessStagedPoison i f s).Sound := by
  unfold unlessStagedPoison
  split
  · exact reply_sound (modLay_sound (stkUe_sound h))
  · exact hf _ h

theorem activateCmd_sound {i : Nat} {fault : Option UnitErr} {m : Slot} {s : State} (h : s.Sound) :
    (activateCmd i fault m s).Sound := by
  unfold activateCmd
  refine unlessStagedPoison_sound (fun _ ht => ?_) h
  refine sound_ite (layFail_sound ht) ?_
  split
  · exact logOpen_sound (layFail_sound ht)
  · split
    · exact reply_sound (modLay_sound (activateFault_sound ht))
    · exact cmdDone_sound (activate_sound ht)

theorem drainCmd_sound {i : Nat} {m : Slot} {s : State} (h : s.Sound) : (drainCmd i m s).Sound :=
  sound_ite (cmdFailWith_sound h) (sound_ite (cmdDone_sound (sound_ite h (drainRelease_sound h)))
    (sound_ite (cmdDone_sound h) (sound_ite (slotWork_sound (drainStart_sound h)) (cmdDone_sound (drainStart_sound h)))))

theorem swapCmd_sound {i : Nat} {m : Slot} {s : State} (h : s.Sound) : (swapCmd i m s).Sound := by
  unfold swapCmd
  refine unlessStagedPoison_sound (fun _ ht => ?_) h
  split
  · exact layFail_sound ht
  · exact cmdDone_sound (tableSwap_sound ht)

theorem jobOpen_sound {i : Nat} {m : Slot} {s : State} (h : s.Sound) : (jobOpen i m s).Sound := by
  unfold jobOpen
  refine sound_ite ?_ ?_
  · split
    · exact cmdFail_sound h
    · exact aligned64_sound (fun _ ht => cmdDone_sound (recordPump_sound (modJob_sound ht))) h
  · split
    · exact cmdFail_sound h
    · exact aligned64_sound (fun _ ht => cmdDone_sound (jobState_sound { setJob_sound ht with })) h

theorem memberCheck_sound {cs : List Nat} {s : State} (h : s.Sound) : (memberCheck cs s).Sound := abortEach_sound h

theorem newtFresh_pond (v : Newt) : (newtFresh v).pond = v.pond := by
  unfold newtFresh
  split <;> rfl

theorem newtLaunch_pond (v : Newt) : (newtLaunch v).pond = v.pond := by
  unfold newtLaunch
  split
  · exact newtFresh_pond v
  · rfl

theorem launch_sound {j l : Nat} {sched : Bool} {s : State} (h : s.Sound) : (launch j l sched s).Sound := by
  rw [launch.eq_def]
  extract_lets s1 s2 s3 cs s4
  have h2 : s2.Sound := jobState_sound (modJob_sound h)
  have h3 : s3.Sound := sound_sch (sound_newts_map h2 newtLaunch_pond)
  have h4 : s4.Sound := sound_foldl (fun _ _ ht => setColl_sound ht) h3
  exact sound_ite (sound_newts_map h2 newtFresh_pond) (memberCheck_sound h4)

theorem jobLaunch_sound {i : Nat} {m : Slot} {s : State} (h : s.Sound) : (jobLaunch i m s).Sound := by
  unfold jobLaunch
  dsimp only
  split
  · exact cmdFailWith_sound h
  · exact cmdDone_sound (launch_sound h)

theorem endHeld_sound {i : Nat} {s : State} (h : s.Sound) : (endHeld i s).Sound :=
  cmdFail_sound (sound_ite (unwaitAll_sound h) (cmdCancel_sound h))

theorem abortAll_sound {i : Nat} {cs : List Nat} {s : State} (h : s.Sound) : (abortAll i cs s).1.Sound :=
  sound_foldl (fun _ _ ht => modColl_sound ht) (abortMany_sound h)

theorem abortReply_sound {i nabort ndone left : Nat} {single : Bool} {s : State} (h : s.Sound) :
    (abortReply i nabort ndone left single s).Sound :=
  sound_ite (cmdDone_sound h) (modMslot_sound h)

theorem abortJob_sound {i j : Nat} {s : State} (h : s.Sound) : (abortJob i j s).Sound := by
  unfold abortJob
  refine sound_ite (cmdDone_sound (jobEnd_sound (modJob_sound h))) ?_
  split
  next heq =>
    exact abortReply_sound (sound_ite (jobStop_sound (sound_of_eq heq (abortAll_sound h)))
      (modJob_sound (sound_of_eq heq (abortAll_sound h))))

theorem finishJob_sound {i j : Nat} {s : State} (h : s.Sound) : (finishJob i j s).Sound :=
  sound_ite (cmdDone_sound (jobEnd_sound h)) (sound_ite (cmdFail_sound h)
    (cmdDone_sound (sound_ite (jobEnd_sound (modJob_sound h)) (modJob_sound h))))

theorem abortOne_sound {i j c : Nat} {s : State} (h : s.Sound) : (abortOne i j c s).Sound := by
  unfold abortOne
  refine sound_ite (cmdFail_sound h) ?_
  refine sound_ite (cmdFail_sound h) ?_
  refine sound_ite (cmdFail_sound h) ?_
  refine sound_ite (abortReply_sound h) ?_
  split
  next heq =>
    exact sound_ite (cmdFail_sound (sound_of_eq heq (abortAll_sound h))) (abortReply_sound (sound_of_eq heq (abortAll_sound h)))

theorem jobAbort_sound {i : Nat} {m : Slot} {s : State} (h : s.Sound) : (jobAbort i m s).Sound := by
  unfold jobAbort
  split
  · exact cmdFail_sound h
  · refine sound_ite (cmdFail_sound h) ?_
    extract_lets s1
    have h1 : s1.Sound := sound_foldl (fun _ _ ht => endHeld_sound ht) h
    exact sound_ite (finishJob_sound h1) (sound_ite (abortJob_sound h1) (abortOne_sound h1))

theorem recordBegin_sound {i : Nat} {m : Slot} {s : State} (h : s.Sound) : (recordBegin i m s).Sound := by
  unfold recordBegin
  split
  · exact cmdFail_sound h
  · exact sound_ite (cmdFail_sound h) (aligned64_sound (fun _ ht => sound_ite (cmdFail_sound ht) (copyOut_sound ht)) h)

theorem jobClose_sound {j : Nat} {s : State} (h : s.Sound) : (jobClose j s).Sound := by
  have h1 := setJob_sound (j := j) (v := {}) (jobState_sound (j := j) (t := .free) h)
  exact { h1 with colls := tsorted_filter h1.colls }

theorem recordDone_sound {i : Nat} {ok : Bool} {m : Slot} {s : State} (h : s.Sound) : (recordDone i ok m s).Sound :=
  sound_ite (cmdFail_sound h) (cmdDone_sound (sound_ite (jobClose_sound (hostWrite_sound h)) (hostWrite_sound h)))

theorem adoptTake_sound {keep : Bool} {s : State} (h : s.Sound) : (adoptTake keep s).Sound := by
  rw [adoptTake.eq_def]
  extract_lets s0 s1
  have h1 : s1.Sound := modHif_sound (sound_jobs_map h)
  exact logOpen_sound (sound_ite h1 (sound_foldl (fun _ _ ht => freeOwned_sound ht) h1))

theorem adopt_sound {i : Nat} {hostOk : Bool} {m : Slot} {s : State} (h : s.Sound) : (adopt i hostOk m s).Sound :=
  sound_ite (cmdFail_sound h) (aligned64_sound (fun _ ht => sound_ite (cmdFail_sound ht)
    (sound_ite (cmdFail_sound ht) (cmdDone_sound (hostWrite_sound (adoptTake_sound ht))))) h)

theorem ckptBegin_sound {i : Nat} {m : Slot} {s : State} (h : s.Sound) : (ckptBegin i m s).Sound := by
  unfold ckptBegin
  split
  · exact cmdFail_sound h
  · exact sound_ite (cmdFail_sound h) (sound_ite (cmdFail_sound h) (slotWork_sound (modJob_sound h)))

theorem ckObj_sound {o : Nat} {b : List Byte} {s : State} (h : s.Sound) : (ckObj o b s).Sound :=
  sound_ite (setObj_sound h) (sound_ite (setFline_sound (setBline_sound (setObj_sound h))) (setBline_sound (setObj_sound h)))

theorem ckDigest_sound {j c : Nat} {tiles : Table (List Byte)} {s : State} (h : s.Sound) : (ckDigest j c tiles s).Sound :=
  sound_ite (modColl_sound h) (modJob_sound h)

theorem pond_ckNewt {epoch : Nat} {b : List Byte} {v : Newt} (hv : memWf v.pond = true) : memWf
    (ckNewt epoch b v).pond = true :=
  memWf_memWrite ((newtLaunch_pond v).symm ▸ hv) _ _

theorem ckRestore_sound {j epoch : Nat} {s : State} {x : CkSec} (h : s.Sound) : (ckRestore j epoch s x).Sound := by
  unfold ckRestore
  split
  · exact modNewt_sound h fun _ hv => pond_ckNewt hv
  · exact ckObj_sound h
  · exact modJob_sound h
  · exact ckDigest_sound h

theorem ckColls_sound {j : Nat} {s : State} (h : s.Sound) : (ckColls j s).Sound := sound_foldl
    (fun _ _ ht => setColl_sound ht) h

theorem resumeJob_sound {j l : Nat} {c : List Byte} {s : State} (h : s.Sound) : (resumeJob j l c s).Sound := by
  rw [resumeJob.eq_def]
  extract_lets fresh e secs s1 sch1 s2 s3 s4 s5
  have h1 : s1.Sound := modJob_sound h
  have h2 : s2.Sound := sound_sch (sound_newts_map h1 newtLaunch_pond)
  have h3 : s3.Sound := sound_foldl (fun _ _ ht => ckRestore_sound ht) h2
  have h4 : s4.Sound := sound_ite (ckColls_sound h3) h3
  have h5 : s5.Sound := jobState_sound (sound_foldl (fun _ _ ht => ckRestore_sound ht) h4)
  exact sound_ite (memberCheck_sound h5) h5

theorem unlessPoison_sound {i a n : Nat} {f : State → State} {s : State} (hf : ∀ x0, x0.Sound → (f x0).Sound) (h : s.Sound) :
    (unlessPoison i a n f s).Sound := by
  unfold unlessPoison
  split
  · exact reply_sound (stkUe_sound h)
  · exact hf _ h

theorem jobResume_sound {i : Nat} {m : Slot} {s : State} (h : s.Sound) : (jobResume i m s).Sound := by
  unfold jobResume
  dsimp only
  split
  · split
    · exact reply_sound (stkUe_sound h)
    · exact cmdFailWith_sound h
  · refine unlessPoison_sound (fun _ ht => ?_) h
    split
    · exact cmdFailWith_sound ht
    · exact cmdDone_sound (resumeJob_sound ht)

theorem postMessages_sound {c : Nat} {d : List Byte} {o : PostObjs} {s : State} (h : s.Sound) : (postMessages c d o s).Sound :=
    by
  unfold postMessages
  refine sound_ite (mgmt_sound h) ?_
  split
  · exact h
  · exact sound_ite (sound_foldl (fun _ _ ht => mgmt_sound ht) h) h

theorem postCompare_sound {k : HeardPost} {s : State} (h : s.Sound) : (postCompare k s).Sound := sound_ite h (abortReq_sound h)

theorem postHear_sound {k : HeardPost} {s : State} (h : s.Sound) : (postHear k s).Sound :=
  sound_ite (postCompare_sound h) { h with }

theorem postsHeard_sound {s : State} (h : s.Sound) : (postsHeard s).Sound :=
  sound_foldl (fun _ _ ht => postCompare_sound ht) { h with }

theorem inboxTake_sound {p : Packet} {s : State} (h : s.Sound) : (inboxTake p s).Sound := by
  unfold inboxTake
  split
  · exact postHear_sound h
  · exact h

theorem collPost_sound {i : Nat} {m : Slot} {s : State} (h : s.Sound) : (collPost i m s).Sound := by
  unfold collPost
  dsimp only
  split
  · exact sound_ite (cmdFailWith_sound h) (cmdFail_sound h)
  · split
    · exact cmdFail_sound h
    · split
      · exact unlessPoison_sound (fun _ ht => ht) h
      · split
        · exact cmdFail_sound h
        · exact cmdDone_sound (memberCheck_sound (postsHeard_sound (postMessages_sound (setColl_sound h))))

theorem modFw_sound {f : Firmware → Firmware} {s : State} (h : s.Sound) : (modFw f s).Sound := { h with }

theorem modCal_sound {f : Calib → Calib} {s : State} (h : s.Sound) : (modCal f s).Sound := { h with }

theorem setMeas_sound {i : Nat} {d : List Byte} {s : State} (h : s.Sound) : (setMeas i d s).Sound := modFw_sound h

theorem modFwSlot_sound {k : Nat} {f : FwSlot → FwSlot} {s : State} (h : s.Sound) : (modFwSlot k f s).Sound :=
  sound_ite (modFw_sound h) (modFw_sound h)

theorem stageBegin_sound {i : Nat} {m : Slot} {s : State} (h : s.Sound) : (stageBegin i m s).Sound :=
  aligned64_sound (fun _ ht => sound_ite (cmdFail_sound ht) (sound_ite (cmdFailAt_sound ht) (copyIn_sound ht))) h

theorem stageRead_sound {i : Nat} {ok : Bool} {f : List Byte} {s : State} (h : s.Sound) : (stageRead i ok f s).Sound :=
  sound_ite (cmdFail_sound h) (modMslot_sound (modFwSlot_sound (modFw_sound h)))

theorem stageDone_sound {i : Nat} {ok : Bool} {m : Slot} {s : State} (h : s.Sound) : (stageDone i ok m s).Sound := by
  unfold stageDone
  refine sound_ite (cmdFail_sound (drawn_sound h)) ?_
  dsimp only
  split
  · exact cmdFailAt_sound (modFwSlot_sound h)
  · exact cmdDone_sound (modFw_sound (modFwSlot_sound h))

theorem moltCommit_sound {s : State} (h : s.Sound) : (moltCommit s).Sound := by
  unfold moltCommit
  split
  · exact h
  · extract_lets f g old changed s1 s1' s2 s3 s4
    have h1 : s1.Sound := modFwSlot_sound h
    have h2 : s2.Sound := setMeas_sound (sound_ite (setMeas_sound h1) h1)
    have h4 : s4.Sound := logAdd_sound (modFw_sound h2)
    exact sound_ite (sound_foldl (fun _ _ ht => sound_ite (sendIdent_sound ht) ht) h4) h4

theorem moltBegin_sound {i : Nat} {m : Slot} {s : State} (h : s.Sound) : (moltBegin i m s).Sound := by
  unfold moltBegin
  split
  · exact cmdFailAt_sound h
  · exact sound_ite (cmdDone_sound (moltCommit_sound h)) (sound_ite (cmdFailAt_sound h) (slotWork_sound (modFw_sound h)))

theorem handover_sound {s : State} (h : s.Sound) : (handover s).Sound :=
  sound_ite h (sound_ite (cmdFailAt_sound (modFw_sound h)) (sound_ite (cmdFailAt_sound (modFw_sound h))
    (sound_ite (cmdFailAt_sound (modFw_sound h)) (modFw_sound (drawn_sound h)))))

theorem pauseOver_sound {s : State} (h : s.Sound) : (pauseOver s).Sound :=
  sound_ite (logFlush_sound (modFw_sound h)) (enterOrphan_sound (logFlush_sound (modFw_sound h)))

theorem takeInbox_sound {s : State} (h : s.Sound) : (takeInbox s).Sound :=
  sound_foldl (fun _ _ ht => inboxTake_sound ht) (modFw_sound h)

theorem moltTimeout_sound {s : State} (h : s.Sound) : (moltTimeout s).Sound :=
  sound_ite h (logOpen_sound (cmdFail_sound (takeInbox_sound (pauseOver_sound (modFw_sound h)))))

theorem moltEnd_sound {pauseNs : Nat} {s : State} (h : s.Sound) : (moltEnd pauseNs s).Sound :=
  sound_ite h (sound_ite (moltTimeout_sound h) (scan_sound (cmdDone_sound
    (moltCommit_sound (takeInbox_sound (pauseOver_sound (modFw_sound h)))))))

theorem watchdog_sound {core : Nat} {s : State} (h : s.Sound) : (watchdog core s).Sound :=
  sound_ite h (allLinksDown_sound { raise_sound (modFw_sound h) with })

theorem inboxArrive_sound {p : Packet} {s : State} (h : s.Sound) : (inboxArrive p s).Sound :=
  sound_ite h (sound_ite (inboxTake_sound h) (sound_ite (modFw_sound h) (modFw_sound h)))

theorem attGo_sound {s : State} (h : s.Sound) : (attGo s).Sound := sound_ite h { h with }

theorem attDone_sound {ok : Bool} {s : State} (h : s.Sound) : (attDone ok s).Sound :=
  sound_ite h (sound_ite (hostWrite_sound { h with }) (raise_sound { h with }))

theorem testBegin_sound {i : Nat} {m : Slot} {s : State} (h : s.Sound) : (testBegin i m s).Sound :=
  sound_ite (cmdFail_sound h) (sound_ite (cmdFail_sound h) (sound_ite (cmdFail_sound h)
    (modMslot_sound (sound_ite (sound_foldl (fun _ _ ht => modNewt_sound ht) h) h))))

theorem testDone_sound {i : Nat} {failed : List (Nat × Nat)} {s : State} (h : s.Sound) : (testDone i failed s).Sound :=
  sound_ite h (sound_foldl (fun _ _ ht => qctlWrite_sound ht)
    (cmdDone_sound (logOpen_sound (unreserve_sound (sound_foldl (fun _ _ ht => raise_sound ht) h)))))

theorem calRead_sound {i : Nat} {m : Slot} {s : State} (h : s.Sound) : (calRead i m s).Sound :=
  aligned64_sound (fun _ ht => sound_ite (cmdFail_sound ht) (sound_ite (cmdFail_sound ht) (copyOut_sound ht))) h

theorem calReadDone_sound {i : Nat} {ok : Bool} {m : Slot} {s : State} (h : s.Sound) : (calReadDone i ok m s).Sound :=
  sound_ite (cmdFail_sound h) (cmdDone_sound (hostWrite_sound h))

theorem calWrite_sound {i : Nat} {m : Slot} {s : State} (h : s.Sound) : (calWrite i m s).Sound :=
  aligned64_sound (fun _ ht => copyIn_sound ht) h

theorem calWriteRead_sound {i : Nat} {ok : Bool} {b : List Byte} {m : Slot} {s : State} (h : s.Sound) :
    (calWriteRead i ok b m s).Sound := by
  unfold calWriteRead
  refine sound_ite (cmdFail_sound h) ?_
  split
  · exact cmdFail_sound h
  · exact modMslot_sound h

theorem calWriteDone_sound {i : Nat} {ok : Bool} {m : Slot} {s : State} (h : s.Sound) : (calWriteDone i ok m s).Sound :=
  sound_ite (cmdFail_sound (drawn_sound h)) (cmdDone_sound (logOpen_sound
    (modCal_sound (sound_ite (modCal_sound h) (modCal_sound h)))))

theorem logCore_sound {e : LogItem} {s : State} (h : s.Sound) : (logCore e s).Sound := sound_ite (logNow_sound h) { h with }

theorem logEntryWrite_sound {entry : Option LogInput} {s : State} (h : s.Sound) : (logEntryWrite entry s).Sound := by
  unfold logEntryWrite
  refine sound_ite h ?_
  split
  · exact sound_ite (logFlush_sound h) h
  · exact sound_ite h (logCore_sound h)

theorem traceEntry_sound {id : Nat} {data : List Byte} {s : State} (h : s.Sound) : (traceEntry id data s).Sound :=
  sound_ite (logCore_sound h) h

theorem powerTrace_sound {s : State} (h : s.Sound) : (powerTrace s).Sound :=
  sound_ite h (traceEntry_sound (traceEntry_sound (traceEntry_sound (traceEntry_sound (traceEntry_sound h)))))

theorem densityPoll_sound {s : State} (h : s.Sound) : (densityPoll s).Sound :=
  sound_ite h (sound_foldl (fun _ _ ht => pushEvent_sound ht) { h with })

theorem adaptShape_sound {s : State} (h : s.Sound) : (adaptShape s).Sound := by
  refine sound_ite h (sound_nodes_map ?_)
  exact sound_foldl (fun _ _ ht => sound_ite ht (setSnode_sound ht)) h

theorem transferDone_sound {i : Nat} {ok : Bool} {data : List Byte} {s : State} (h : s.Sound) :
    (transferDone i ok data s).Sound := by
  unfold transferDone
  refine sound_ite h ?_
  split
  · exact sound_ite (loadRead_sound h) h
  · exact sound_ite (stageRead_sound h) h
  · exact sound_ite (calWriteRead_sound h) h
  · exact calReadDone_sound h
  · exact recordDone_sound h
  · exact snapDone_sound h
  · exact h

theorem flashDone_sound {i : Nat} {ok : Bool} {s : State} (h : s.Sound) : (flashDone i ok s).Sound := by
  unfold flashDone
  refine sound_ite h ?_
  split
  · exact loadKept_sound h
  · exact stageDone_sound h
  · exact calWriteDone_sound h
  · exact h

theorem modLov_sound {f : Lovor → Lovor} {s : State} (h : s.Sound)
    (hm : ∀ u, memWf u.mem = true → memWf (f u).mem = true := by exact fun _ h => h)
    (hs : ∀ u, tsorted u.stk → tsorted (f u).stk := by exact fun _ h => h) : (modLov f s).Sound :=
  { h with mem := hm _ h.mem, stk := hs _ h.stk }

theorem refresh_sound {st p : Nat} {s : State} (h : s.Sound) : (refresh st p s).Sound := sound_ite (modLov_sound h) h

theorem planChange_sound {s : State} (h : s.Sound) : (planChange s).Sound := by
  unfold planChange
  split
  · exact h
  · exact sound_ite (modLov_sound h) h

theorem scrub_sound {b : Nat} {res : ReadResult} {s : State} (h : s.Sound) : (scrub b res s).Sound :=
  sound_ite h (sound_ite (stkUe_sound (modLov_sound h)) (sound_ite (stkCe_sound h) h))

theorem ceRate_sound {n : Nat} {s : State} (h : s.Sound) : (ceRate n s).Sound := raise_sound (setStack_sound h)

theorem stkFault_sound {n : Nat} {s : State} (h : s.Sound) : (stkFault n s).Sound :=
  allLinksDown_sound (raise_sound (modStack_sound h))

theorem coolReturn_sound {n : Nat} {s : State} (h : s.Sound) : (coolReturn n s).Sound := sound_ite (modStack_sound h) h

theorem modPins_sound {f : Pins → Pins} {s : State} (h : s.Sound) : (modPins f s).Sound := { h with }

theorem modTherm_sound {f : Therm → Therm} {s : State} (h : s.Sound)
    (ht : ∀ u, tsorted u.temps → tsorted (f u).temps := by exact fun _ h => h)
    (hc : ∀ u, tsorted u.conds → tsorted (f u).conds := by exact fun _ h => h)
    (hp : ∀ u, u.powerHeld.length = 4 → (f u).powerHeld.length = 4 := by exact fun _ h => h) : (modTherm f s).Sound :=
  { h with temps := ht _ h.temps, conds := hc _ h.conds, powerHeld := hp _ h.powerHeld }

theorem aonRaise_sound {o : Occ} {s : State} (h : s.Sound) : (aonRaise o s).Sound := sound_ite (rasRecord_sound h) h

theorem powerGood_sound {recov test : Bool} {s : State} (h : s.Sound) : (powerGood recov test s).Sound :=
  sound_ite h (sound_ite (modPins_sound h) (modFw_sound (modPins_sound h)))

theorem considerSlot_sound {k : Nat} {s : State} (h : s.Sound) : (considerSlot k s).Sound := by
  unfold considerSlot
  refine sound_ite h ?_
  split
  · exact raise_sound h
  · exact sound_ite (raise_sound h) h

theorem bootRecovery_sound {s : State} (h : s.Sound) : (bootRecovery s).Sound := setMeas_sound (modFw_sound h)

theorem bootRun_sound {k : Nat} {s : State} (h : s.Sound) : (bootRun k s).Sound := setMeas_sound
    (modFw_sound (modFwSlot_sound h))

theorem boot2_sound {s : State} (h : s.Sound) : (boot2 s).Sound := by
  unfold boot2
  refine sound_ite (bootRecovery_sound (setMeas_sound (setMeas_sound (setMeas_sound (emit_sound h))))) ?_
  dsimp only
  split
  · exact bootRun_sound (considerSlot_sound (considerSlot_sound (setMeas_sound (setMeas_sound (setMeas_sound (emit_sound h))))))
  · exact bootRecovery_sound (considerSlot_sound (considerSlot_sound
      (setMeas_sound (setMeas_sound (setMeas_sound (emit_sound h))))))

theorem calApply_sound {b : List Byte} {valid : Bool} {which : Nat} {s : State} (h : s.Sound) :
    (calApply b valid which s).Sound :=
  setMeas_sound (modCal_sound h)

theorem boot3_sound {s : State} (h : s.Sound) : (boot3 s).Sound := by
  unfold boot3
  split
  · exact calApply_sound h
  · split
    · exact calApply_sound h
    · exact raise_sound (calApply_sound h)

theorem reportSurvivor_sound {code : Nat} {s : State} (h : s.Sound) : (reportSurvivor code s).Sound :=
  sound_ite h (rasEvent_sound (logAdd_sound h))

theorem boot4_sound {s : State} (h : s.Sound) : (boot4 s).Sound := by
  rw [boot4.eq_def]
  extract_lets k s0 s1 s2a s2 log2 s3
  have h1 : s1.Sound := defaultCarve_sound (modHif_sound (modLov_sound (modCal_sound h) (hm := fun _ _ => rfl)))
  have h2 : s2.Sound := { drawn_sound h1 with }
  have h3 : s3.Sound := { h2 with }
  exact logFlush_sound (sound_foldl (fun _ _ ht => reportSurvivor_sound ht) h3)

theorem boot5_sound {excl : List (Nat × Word)} {s : State} (h : s.Sound) : (boot5 excl s).Sound :=
  setMeas_sound (sound_foldl (fun _ _ ht => { ht with }) h)

theorem bootLayFail_sound {code chk : Nat} {s : State} (h : s.Sound) : (bootLayFail code chk s).Sound :=
  logOpen_sound (raise_sound (modLay_sound h))

theorem boot6_sound {s : State} (h : s.Sound) : (boot6 s).Sound := by
  unfold boot6
  refine sound_ite h ?_
  split
  · exact h
  · split
    · exact bootLayFail_sound h
    · dsimp only
      split
      · exact bootLayFail_sound (lovStore_sound h)
      · exact activate_sound (lovStore_sound h)

theorem reportIrq_sound {s : State} (h : s.Sound) : (reportIrq s).Sound :=
  sound_ite { sound_foldl (fun _ _ ht => setRas_sound ht) h with }
    (vector_sound { sound_foldl (fun _ _ ht => setRas_sound ht) h with })

theorem boot7_sound {s : State} (h : s.Sound) : (boot7 s).Sound :=
  reportIrq_sound (modHif_sound (modPins_sound (logAdd_sound (modFw_sound (sound_ite h (modFwSlot_sound h))))))

theorem boot_sound {excl : List (Nat × Word)} {s : State} (h : s.Sound) : (boot excl s).Sound :=
  sound_ite (boot7_sound (boot6_sound (boot5_sound (boot4_sound (boot3_sound (boot2_sound h)))))) h

theorem stopIslands_sound {s : State} (h : s.Sound) : (stopIslands s).Sound := { h with quads := tsorted_map_snd h.quads }

theorem railFault_sound {r mv : Nat} {s : State} (h : s.Sound) : (railFault r mv s).Sound :=
  sound_ite h (stopIslands_sound (modPins_sound (aonRaise_sound h)))

theorem refFault_sound {khz : Nat} {s : State} (h : s.Sound) : (refFault khz s).Sound :=
  sound_ite h (sound_ite (modPins_sound h) (sound_ite (aonRaise_sound (modPins_sound h))
    (stopIslands_sound (aonRaise_sound (modPins_sound h)))))

theorem sensorRead_sound {i : Nat} {raw : Option Int} {s : State} (h : s.Sound) : (sensorRead i raw s).Sound := by
  rw [sensorRead.eq_def]
  refine sound_ite h ?_
  have hignore : State.Sound (modTherm (fun t => { t with ignored := t.ignored ++ [i], conds := tset 0 t.conds i 0 }) s) :=
    modTherm_sound h (hc := fun _ hu => tsorted_tset _ hu _ _)
  extract_lets v old
  clear_value v
  cases v with
  | none => exact aonRaise_sound hignore
  | some v =>
    refine sound_ite (aonRaise_sound hignore) ?_
    extract_lets new s1 w s2
    have h1 : s1.Sound := modTherm_sound h (ht := fun _ hu => tsorted_tset _ hu _ _) (hc := fun _ hu => tsorted_tset _ hu _ _)
    have h2 : s2.Sound := sound_ite (aonRaise_sound h1) h1
    exact sound_ite (aonRaise_sound h2) h2

theorem stackHeat_sound {s : State} {n : Nat} (h : s.Sound) : (stackHeat s n).Sound :=
  sound_ite h (aonRaise_sound (modStack_sound h))

theorem respond_sound {s : State} (h : s.Sound) : (respond s).Sound := wantRise_sound (sound_ite (setEmerg_sound h) h)

theorem trip_sound {s : State} (h : s.Sound) : (trip s).Sound :=
  sound_ite (modTherm_sound (sound_foldl (fun _ _ ht => aonRaise_sound ht) h))
    (stopIslands_sound (modPins_sound (modTherm_sound (sound_foldl (fun _ _ ht => aonRaise_sound ht) h))))

theorem sensors_sound {raw : List (Option Int)} {s : State} (h : s.Sound) : (sensors raw s).Sound :=
  sound_ite h (trip_sound (respond_sound (sound_foldl (fun _ _ ht => stackHeat_sound ht)
    (sound_foldl (fun _ _ ht => sensorRead_sound ht) h))))

theorem powerRead_sound {k mw : Nat} {s : State} (h : s.Sound) : (powerRead k mw s).Sound := by
  rw [powerRead.eq_def]
  extract_lets old new s1
  have h1 : s1.Sound := modTherm_sound h (hp := fun _ hu => (List.length_set ..).trans hu)
  exact sound_ite (aonRaise_sound h1) h1

theorem power_sound {rails avg10ms avg1ms avg100us : List Nat} {s : State} (h : s.Sound) :
    (power rails avg10ms avg1ms avg100us s).Sound :=
  sound_ite h (respond_sound (powerRead_sound (powerRead_sound (powerRead_sound (powerRead_sound (modTherm_sound h))))))

theorem emergClear_sound {s : State} (h : s.Sound) : (emergClear s).Sound := sound_ite (setEmerg_sound h) h

theorem wantIdle_sound {s : State} (h : s.Sound) : (wantIdle s).Sound := sound_ite h (wantFall_sound h)

theorem jtagTake_sound {i : JtagInstr} {s : State} (h : s.Sound) : (jtagTake i s).Sound := by
  unfold jtagTake
  dsimp only
  split
  · exact sound_ite (emit_sound (modPins_sound h)) (modPins_sound h)
  · exact sound_ite (emit_sound (modPins_sound h)) (modPins_sound h)
  · exact modPins_sound (modPins_sound h)
  · exact emit_sound (modPins_sound h)
  · exact emit_sound (modPins_sound h)
  · exact emit_sound (modPins_sound h)

theorem modMon_sound {f : Monitor → Monitor} {s : State} (h : s.Sound) : (modMon f s).Sound := { h with }

theorem monKeyWrite_sound {i : Nat} {w : Word} {s : State} (h : s.Sound) : (monKeyWrite i w s).Sound := modMon_sound h

theorem monCtlWrite_sound {w : Nat} {s : State} (h : s.Sound) : (monCtlWrite w s).Sound := sound_ite (modMon_sound h) h

theorem attCtlWrite_sound {w : Nat} {s : State} (h : s.Sound) : (attCtlWrite w s).Sound :=
  sound_ite (attGo_sound (sound_ite { h with } h)) (sound_ite { h with } h)

theorem shapeSet_sound {on : Bool} {s : State} (h : s.Sound) : (shapeSet on s).Sound :=
  sound_ite (sound_nodes_map (modFw_sound h)) (modFw_sound h)

theorem msixWrite_sound {v half : Nat} {w : Word} {s : State} (h : s.Sound) : (msixWrite v half w s).Sound := by
  rw [msixWrite.eq_def]
  extract_lets e s1
  have h1 : s1.Sound := modHif_sound h (hmsix := fun _ hu => tsorted_tset _ hu _ _)
  exact sound_ite (vector_sound (modHif_sound h1 (hpba := fun _ hu => tsorted_tset _ hu _ _))) h1

theorem writeHif_sound {o : Nat} {w : Word} {s : State} (h : s.Sound) : (writeHif o w s).Sound :=
  sound_ite (heartbeatWrite_sound h) (sound_ite (hdmNextWrite_sound h)
    (sound_ite (evRingWrite_sound h) (sound_ite (evRdWrite_sound h)
    (sound_ite (modHif_sound h) (sound_ite (sound_ite (jobRdWrite_sound h) h) (sound_ite (msixWrite_sound h) h))))))

theorem writeDma_sound {o v : Nat} {s : State} (h : s.Sound) : (writeDma o v s).Sound := by
  unfold writeDma
  refine sound_ite ?_ (sound_ite { h with } h)
  split
  · exact dmaRing_sound h
  · exact dmaBell_sound h
  · exact dmaCctl_sound h
  · exact h

theorem quotaWrite_sound {r v : Nat} {s : State} (h : s.Sound) : (quotaWrite r v s).Sound := sound_ite { h with } h

theorem writePool_sound {o v : Nat} {s : State} (h : s.Sound) : (writePool o v s).Sound :=
  sound_ite (carveWrite_sound h) (sound_ite (poolFreeWrite_sound h) (sound_ite { h with } (sound_ite (quotaWrite_sound h) h)))

theorem writeSync_sound {o v : Nat} {s : State} (h : s.Sound) : (writeSync o v s).Sound := by
  unfold writeSync
  refine sound_ite ?_ (sound_ite (blMaskWrite_sound h) h)
  split
  · exact syncCfgWrite_sound h
  · exact syncCountWrite_sound h
  · exact syncCountWrite_sound h
  · exact syncCountWrite_sound h
  · exact signalLocal_sound h
  · exact syncStatWrite_sound h
  · exact h

theorem mirWrite_sound {i r : Nat} {w : Word} {s : State} (h : s.Sound) : (mirWrite i r w s).Sound := by
  unfold mirWrite
  dsimp only
  split
  · exact mirCfgWrite_sound h
  · exact modMirror_sound h
  · exact modMirror_sound h
  · exact modMirror_sound h
  · exact modMirror_sound h
  · exact modMirror_sound h
  · exact h

theorem writeSwc_sound {o : Nat} {w : Word} {s : State} (h : s.Sound) : (writeSwc o w s).Sound := by
  refine sound_ite (modSwc_sound h) (sound_ite ?_ (sound_ite (modSwc_sound h) (sound_ite (mirWrite_sound h) h)))
  extract_lets s1
  have h1 : s1.Sound := sound_ite (clearHigh_sound h) h
  exact sound_ite (clearCounters_sound h1) h1

theorem writeRte_sound {o v : Nat} {s : State} (h : s.Sound) : (writeRte o v s).Sound :=
  sound_ite (modRte_sound h) (sound_ite (bankWrite_sound h) h)

theorem policerWrite_sound {k r v : Nat} {s : State} (h : s.Sound) : (policerWrite k r v s).Sound := by
  unfold policerWrite
  split
  · exact pcfgWrite_sound h
  · exact pcWrite_sound h
  · exact peWrite_sound h
  · exact h

theorem writeShp_sound {o v : Nat} {s : State} (h : s.Sound) : (writeShp o v s).Sound := by
  unfold writeShp
  refine sound_ite { h with } ?_
  split
  · exact sound_ite (nodeWrite_sound h) (sound_ite (skeyWrite_sound h) h)
  · exact sound_ite (policerWrite_sound h) h

theorem lnkWrite_sound {q o v : Nat} {s : State} (h : s.Sound) : (lnkWrite q o v s).Sound :=
  sound_ite (qctlWrite_sound h) (sound_ite (slipWrite_sound h) (sound_ite (modQuad_sound h) (sound_ite (rqWrite_sound h) h)))

theorem errClear_pond (now : Nat) (v : Newt) : (errClear now v).pond = v.pond := by
  unfold errClear
  split
  · split <;> rfl
  · rfl

theorem writeNwt_sound {o v : Nat} {s : State} (h : s.Sound) : (writeNwt o v s).Sound :=
  sound_ite (modNewt_sound h fun _ hv => (errClear_pond _ _).symm ▸ hv) h

theorem writeSch_sound {o v : Nat} {s : State} (h : s.Sound) : (writeSch o v s).Sound := sound_ite { h with } h

theorem writeLog_sound {o : Nat} {w : Word} {s : State} (h : s.Sound) : (writeLog o w s).Sound := sound_ite { h with } h

theorem rasInject_sound {v : Nat} {s : State} (h : s.Sound) : (rasInject v s).Sound :=
  sound_ite h (sound_ite (badAccess_sound h) (rasRecord_sound h))

theorem rasSetWrite_sound {w v : Nat} {s : State} (h : s.Sound) : (rasSetWrite w v s).Sound :=
  sound_foldl (fun _ _ ht => rasClear_sound ht) h

theorem evenWrite_sound {w v : Nat} {s : State} (h : s.Sound) : (evenWrite w v s).Sound :=
  sound_foldl (fun _ _ ht => { ht with }) h

theorem irqenWrite_sound {w v : Nat} {s : State} (h : s.Sound) : (irqenWrite w v s).Sound :=
  sound_foldl (fun _ _ ht => { ht with }) h

theorem writeRas_sound {o v : Nat} {s : State} (h : s.Sound) : (writeRas o v s).Sound :=
  sound_ite (rasInject_sound h) (sound_ite (rasSetWrite_sound h)
    (sound_ite (evenWrite_sound h) (sound_ite (irqenWrite_sound h) (sound_ite (sound_ite (rasClear_sound h) h) h))))

theorem taggedWrite_sound {q o src addr : Nat} {data : List Byte} {s : State} (h : s.Sound) :
    (taggedWrite q o src addr data s).Sound :=
  sound_ite (setObj_sound (lovStore_sound h)) (syncErr_sound (lovStore_sound h))

theorem heldRejected_sound {k : HeldSig} {code : Nat} {s : State} (h : s.Sound) : (heldRejected k code s).Sound :=
  sound_ite (newtError_sound h) (sound_ite (chanStop_sound h) h)

theorem heldNext_sound {o : Nat} {s : State} (h : s.Sound) : (heldNext o s).Sound := by
  unfold heldNext
  split
  · exact h
  · refine sound_ite ?_ h
    split
    next heq2 => exact sound_of_eq heq2 (heldApply_sound h)
    next heq2 => exact heldRejected_sound (sound_of_eq heq2 (heldApply_sound h))

theorem monLine_sound {text : String} {s : State} (h : s.Sound) : (monLine text s).Sound := emit_sound h

theorem monLast_sound {text : String} {s : State} (h : s.Sound) : (monLast text s).Sound := emit_sound (monLine_sound h)

theorem monOk_sound {s : State} (h : s.Sound) : (monOk s).Sound := monLast_sound h

theorem monVals_sound {vs : List Nat} {s : State} (h : s.Sound) : (monVals vs s).Sound :=
  monOk_sound (sound_foldl (fun _ _ ht => emit_sound ht) h)

theorem monErrLine_sound {code : Nat} {s : State} (h : s.Sound) : (monErrLine code s).Sound := monLast_sound h

theorem monErr_sound {code : Nat} {s : State} (h : s.Sound) : (monErr code s).Sound := monErrLine_sound (raise_sound h)

theorem monSyntax_sound {s : State} (h : s.Sound) : (monSyntax s).Sound := monErr_sound h

theorem needUnlock_sound {f : State → State} {s : State} (hf : ∀ x0, x0.Sound → (f x0).Sound) (h : s.Sound) :
    (needUnlock f s).Sound :=
  sound_ite (hf _ h) (monErr_sound h)

theorem monHelp_sound {s : State} (h : s.Sound) : (monHelp s).Sound :=
  monOk_sound (sound_foldl (fun _ _ ht => monLine_sound ht) h)

theorem monVer_sound {s : State} (h : s.Sound) : (monVer s).Sound := monVals_sound h

theorem monStat_sound {s : State} (h : s.Sound) : (monStat s).Sound := monVals_sound h

theorem monMap_sound {w : Nat} {s : State} (h : s.Sound) : (monMap w s).Sound := sound_ite (monVals_sound h) (monSyntax_sound h)

theorem monPeek_sound {o n : Nat} {s : State} (h : s.Sound) : (monPeek o n s).Sound :=
  sound_ite (monVals_sound h) (monSyntax_sound h)

theorem monLog_sound {n : Nat} {s : State} (h : s.Sound) : (monLog n s).Sound := sound_ite (monVals_sound h) (monSyntax_sound h)

theorem monEye_sound {q lane : Nat} {s : State} (h : s.Sound) : (monEye q lane s).Sound :=
  sound_ite (monSyntax_sound h) (sound_ite (monErr_sound h) (monVals_sound { h with }))

theorem monBaud_sound {r : Nat} {s : State} (h : s.Sound) : (monBaud r s).Sound :=
  sound_ite (modMon_sound (monOk_sound h)) (monSyntax_sound h)

theorem monChal_sound {s : State} (h : s.Sound) : (monChal s).Sound := monVals_sound (modMon_sound (drawn_sound h))

theorem tokenWrong_sound {s : State} (h : s.Sound) : (tokenWrong s).Sound := monErr_sound (modMon_sound h)

theorem monUnlock_sound {t : List Nat} {s : State} (h : s.Sound) : (monUnlock t s).Sound :=
  sound_ite (monSyntax_sound h) (sound_ite (monErr_sound h) (sound_ite (monOk_sound (modMon_sound h)) (tokenWrong_sound h)))

theorem monLock_sound {s : State} (h : s.Sound) : (monLock s).Sound := monOk_sound (modMon_sound h)

theorem stallCycle_sound {s : State} (h : s.Sound) : (stallCycle s).Sound := sound_foldl (fun _ _ ht => modCtr_sound ht) h

theorem stallTick_pond (v : Newt) : (stallTick v).pond = v.pond := by
  unfold stallTick
  split <;> rfl

theorem tick_sound {s : State} (h : s.Sound) : (tick s).Sound := by
  refine sound_ite (emptyLines_sound (sound_ite (stallCycle_sound ?_) ?_)) h <;> exact sound_sch
    (sound_newts_map h stallTick_pond)

theorem fuseStart_sound {a c : Nat} {s : State} (h : s.Sound) : (fuseStart a c s).Sound :=
  sound_ite (raise_sound (sound_ite h { h with })) { h with }

theorem fuseDone_sound {s : State} (h : s.Sound) : (fuseDone s).Sound := by
  unfold fuseDone
  split
  · exact h
  · exact logOpen_sound (setMeas_sound { h with })

theorem fuseCtlWrite_sound {w : Nat} {s : State} (h : s.Sound) : (fuseCtlWrite w s).Sound :=
  sound_ite (sound_ite { h with } h) (fuseStart_sound (sound_ite { h with } h))

theorem writeGlb_sound {o : Nat} {w : Word} {s : State} (h : s.Sound) : (writeGlb o w s).Sound :=
  sound_ite { h with } (sound_ite (modFw_sound h) (sound_ite (shapeSet_sound h)
    (sound_ite { h with } (sound_ite (fuseCtlWrite_sound h) (sound_ite { h with }
    (sound_ite { h with } (sound_ite (attCtlWrite_sound h) (sound_ite (monKeyWrite_sound h)
    (sound_ite (monCtlWrite_sound h) h)))))))))

theorem regStore_sound {o : Nat} {w : Word} {s : State} (h : s.Sound) : (regStore o w s).Sound :=
  sound_ite (writeGlb_sound h) (sound_ite (writeHif_sound h) (sound_ite (writeDma_sound h)
    (sound_ite (writePool_sound h) (sound_ite (writeSync_sound h)
    (sound_ite (writeSwc_sound h) (sound_ite (writeRte_sound h)
    (sound_ite (writeShp_sound h) (sound_ite (sound_ite (lnkWrite_sound h) h)
    (sound_ite (writeNwt_sound h) (sound_ite (writeSch_sound h)
    (sound_ite (writeLog_sound h) (sound_ite (writeRas_sound h) (sound_ite (sound_ite h (modHif_sound h)) h)))))))))))))

theorem regWrite_sound {o : Nat} {w : Word} {width : Nat} {s : State} (h : s.Sound) : (regWrite o w width s).Sound :=
  sound_ite h (sound_ite (regStore_sound h) (sound_ite (regStore_sound h) (badAccess_sound h)))

theorem monPoke_sound {o : Nat} {v : Word} {s : State} (h : s.Sound) : (monPoke o v s).Sound := by
  unfold monPoke
  refine needUnlock_sound (fun _ ht => ?_) h
  dsimp only
  split
  · exact monOk_sound (logOpen_sound (regWrite_sound ht))
  · exact monErrLine_sound (logOpen_sound (regWrite_sound ht))

theorem tsorted_rasReset {r : Ras} (h : tsorted r.recs) : tsorted (rasReset r).recs := tsorted_map_snd (tsorted_filter h)

theorem keptOver_sound {p : Pins} {s : State} (h : s.Sound) : (keptOver p s).Sound :=
  { reset_sound with hostMem := h.hostMem, recs := tsorted_rasReset h.recs }

theorem modFuse_sound {f : Fuses → Fuses} {s : State} (h : s.Sound) : (modFuse f s).Sound := { h with }

/-- A command's outcome keeps the invariant: the state it leads to, if any, meets it. -/
def ResSound (r : Res) : Prop := ∀ t, r = .next t → t.Sound

theorem resSound_next {t : State} (ht : t.Sound) : ResSound (.next t) := fun _ h => Host.Outcome.next.inj h ▸ ht

theorem whenUp_sound {f : State → State} {s : State} (h : s.Sound) (hf : (f s).Sound) : ResSound (whenUp f s) :=
  resSound_next (sound_ite hf h)

theorem mon_sound {f : State → State} {s : State} (h : s.Sound) (hf : ∀ t, t.Sound → (f t).Sound) : ResSound (mon f s) :=
  whenUp_sound h (sound_ite (hf _ h) h)

theorem execDmaBusError_sound {haddr : Word} {s : State} (h : s.Sound) : ResSound (execDmaBusError haddr s) := by
  refine whenUp_sound h ?_
  extract_lets busy s1 s2 dma2 s3
  have h2 : s2.Sound := sound_foldl (fun _ _ ht => vector_sound ht) (sound_foldl (fun _ _ ht => busStop_sound ht) h)
  have h3 : s3.Sound := raise_sound { h2 with }
  exact sound_ite (dmaOrphan_sound h3) h3

theorem execDmaFill_sound {ch : Fin 64} {desc : List Byte} {s : State} (h : s.Sound) : ResSound (execDmaFill ch desc s) :=
  resSound_next (sound_ite (chanRun_sound (fun _ ht => chanIssue_sound (lovStore_sound ht)) h) h)

theorem execPacketAdmit_sound {src : Fin 129} {stream : Nat} {s : State} (h : s.Sound) : ResSound
    (execPacketAdmit src stream s) := by
  refine whenUp_sound h ?_
  exact sound_ite (admitUnit_sound (busyDue_sound h)) (admitQuad_sound h)

theorem execMirrorEnable_sound {session : Fin 16} {value : Word} {s : State} (h : s.Sound) : ResSound
    (execMirrorEnable session value s) := by
  refine whenUp_sound h ?_
  exact sound_ite (mirCfgWrite_sound h) h

theorem execSend_sound {n : Fin 2048} {s : State} (h : s.Sound) : ResSound (execSend n s) := by
  refine whenUp_sound h ?_
  exact onHead_sound (fun _ _ ht => workHead_sound (fun _ _ _ hu => sendPackets_sound hu) ht) h

theorem execQuadLinkFailure_sound {q : Fin 128} {s : State} (h : s.Sound) : ResSound (execQuadLinkFailure q s) := by
  refine whenUp_sound h ?_
  exact sound_ite h (quadDown_sound h)

theorem execIdentityRepeat_sound {q : Fin 128} {s : State} (h : s.Sound) : ResSound (execIdentityRepeat q s) := by
  refine whenUp_sound h ?_
  exact sound_ite (sendIdent_sound h) h

theorem execDrainReport_sound {s : State} (h : s.Sound) : ResSound (execDrainReport s) := by
  refine whenUp_sound h ?_
  exact sound_ite h (sound_ite (reportTake_sound h) (mgmt_sound h))

theorem execDrained_sound {s : State} (h : s.Sound) : ResSound (execDrained s) := by
  refine whenUp_sound h ?_
  exact sound_ite h (sound_ite h (setDrained_sound h))

theorem execReleased_sound {s : State} (h : s.Sound) : ResSound (execReleased s) := by
  refine whenUp_sound h ?_
  exact sound_ite (liftDrain_sound h) h

theorem execRteDrainTimeout_sound {s : State} (h : s.Sound) : ResSound (execRteDrainTimeout s) := by
  refine whenUp_sound h ?_
  exact sound_ite (raise_sound h) h

theorem execPadFrameReceive_sound {q : Fin 128} {frame : LaneFrame} {s : State} (h : s.Sound) : ResSound
    (execPadFrameReceive q frame s) := by
  refine whenUp_sound h ?_
  exact sound_ite h (keepBits_sound (padFrameReceive_sound h))

theorem execLinkRetryFail_sound {q : Fin 128} {s : State} (h : s.Sound) : ResSound (execLinkRetryFail q s) := by
  refine whenUp_sound h ?_
  exact sound_ite h (linkFail_sound h)

theorem execLnkTrainFail_sound {q : Fin 128} {s : State} (h : s.Sound) : ResSound (execLnkTrainFail q s) := by
  refine whenUp_sound h ?_
  exact sound_ite (trainFail_sound h) h

theorem execSyncCreate_sound {o : Fin 8192} {value : Word} {s : State} (h : s.Sound) : ResSound (execSyncCreate o value s) := by
  refine whenUp_sound h ?_
  exact sound_ite h (syncCfgWrite_sound h)

theorem execSyncDestroy_sound {o : Fin 8192} {value : Word} {s : State} (h : s.Sound) : ResSound (execSyncDestroy o value s) :=
    by
  refine whenUp_sound h ?_
  exact sound_ite (syncCfgWrite_sound h) h

theorem execSyncPost_sound {o : Fin 8192} {value : Word} {s : State} (h : s.Sound) : ResSound (execSyncPost o value s) := by
  refine whenUp_sound h ?_
  exact signalLocal_sound h

theorem execListRebuildDone_sound {die : Fin 2} {pool : Fin 7} {s : State} (h : s.Sound) : ResSound
    (execListRebuildDone die pool s) := by
  refine whenUp_sound h ?_
  exact sound_ite (listRebuild_sound h) h

theorem pwrFall_sound {s : State} (h : s.Sound) : (pwrFall s).Sound := keptOver_sound h

theorem convReset_sound {s : State} (h : s.Sound) : (convReset s).Sound := keptOver_sound h

theorem monMpeek_sound {a n : Nat} {s : State} (h : s.Sound) : (monMpeek a n s).Sound := by
  refine needUnlock_sound (fun s hs => sound_ite (monSyntax_sound hs) ?_) h
  have ht : (logOpen 4 13 s).Sound := logOpen_sound hs
  dsimp only
  split
  · exact monErrLine_sound (stkUe_sound ht)
  · exact monVals_sound (sound_free ht)

theorem exec_sound (i : Instr) {s : State} (h : s.Sound) : ResSound (exec i s) := by
  cases i with
  | powerGood _ _ => exact resSound_next (powerGood_sound h)
  | boot _ => exact resSound_next (boot_sound h)
  | pwrgoodFall => exact resSound_next (pwrFall_sound h)
  | conventionalReset => exact resSound_next (convReset_sound h)
  | functionLevelReset => exact whenUp_sound h (flr_sound h)
  | railFault _ _ => exact resSound_next (railFault_sound h)
  | referenceFault _ => exact resSound_next (refFault_sound h)
  | sensorReading _ => exact resSound_next (sensors_sound h)
  | powerReading _ _ _ _ => exact resSound_next (power_sound h)
  | emergencyClear => exact whenUp_sound h (emergClear_sound h)
  | wantFallIdle => exact whenUp_sound h (wantIdle_sound h)
  | stackCoolReturn _ => exact whenUp_sound h (coolReturn_sound h)
  | jtagInstruction _ => exact resSound_next (jtagTake_sound h)
  | cxlLinkDown => exact whenUp_sound h (linkDown_sound h)
  | cxlRefclkLoss => exact whenUp_sound h (linkDown_sound h)
  | hdmRead _ => exact resSound_next (hdmRead_sound h)
  | hdmWrite _ _ _ => exact resSound_next (hdmWrite_sound h)
  | registerWrite _ _ _ => exact whenUp_sound h (regWrite_sound h)
  | mailboxSlotWrite _ _ _ => exact whenUp_sound h (slotWrite_sound h)
  | mailboxPost _ _ => exact whenUp_sound h (slotPost_sound h)
  | mailboxScan => exact whenUp_sound h (scan_sound h)
  | commandTimeout _ => exact whenUp_sound h (cmdTimeout_sound h)
  | identify _ => exact whenUp_sound h (onSlot_sound (fun _ _ ht => identify_sound ht) h)
  | loadLayout _ => exact whenUp_sound h (onSlot_sound (fun _ _ ht => loadBegin_sound ht) h)
  | activateLayout _ => exact whenUp_sound h (onSlot_sound (fun _ _ ht => activateCmd_sound ht) h)
  | jobOpen _ => exact whenUp_sound h (onSlot_sound (fun _ _ ht => jobOpen_sound ht) h)
  | jobLaunch _ => exact whenUp_sound h (onSlot_sound (fun _ _ ht => jobLaunch_sound ht) h)
  | jobAbort _ => exact whenUp_sound h (onSlot_sound (fun _ _ ht => jobAbort_sound ht) h)
  | jobCheckpoint _ => exact whenUp_sound h (onSlot_sound (fun _ _ ht => ckptBegin_sound ht) h)
  | jobResume _ => exact whenUp_sound h (onSlot_sound (fun _ _ ht => jobResume_sound ht) h)
  | collPost _ => exact whenUp_sound h (onSlot_sound (fun _ _ ht => collPost_sound ht) h)
  | drain _ => exact whenUp_sound h (onSlot_sound (fun _ _ ht => drainCmd_sound ht) h)
  | tableSwap _ => exact whenUp_sound h (onSlot_sound (fun _ _ ht => swapCmd_sound ht) h)
  | fwStage _ => exact whenUp_sound h (onSlot_sound (fun _ _ ht => stageBegin_sound ht) h)
  | fwMolt _ => exact whenUp_sound h (onSlot_sound (fun _ _ ht => moltBegin_sound ht) h)
  | selftest _ => exact whenUp_sound h (onSlot_sound (fun _ _ ht => testBegin_sound ht) h)
  | selftestDone _ _ => exact whenUp_sound h (testDone_sound h)
  | calRead _ => exact whenUp_sound h (onSlot_sound (fun _ _ ht => calRead_sound ht) h)
  | calWrite _ => exact whenUp_sound h (onSlot_sound (fun _ _ ht => calWrite_sound ht) h)
  | runRecord _ => exact whenUp_sound h (onSlot_sound (fun _ _ ht => recordBegin_sound ht) h)
  | adopt _ _ => exact whenUp_sound h (onSlot_sound (fun _ _ ht => adoptOver_sound (adopt_sound ht)) h)
  | logSnapshot _ => exact whenUp_sound h (onSlot_sound (fun _ _ ht => snapBegin_sound ht) h)
  | heartbeatWrite _ => exact whenUp_sound h (heartbeatWrite_sound h)
  | heartbeatLoss => exact whenUp_sound h (enterOrphan_sound h)
  | hdmSizeWrite _ => exact whenUp_sound h (hdmNextWrite_sound h)
  | eventRingWrite _ => exact whenUp_sound h (evRingWrite_sound h)
  | eventWrite => exact whenUp_sound h (eventWrite_sound h)
  | completionRecordWrite _ => exact whenUp_sound h (recordWrite_sound h)
  | ringReadAdvance j _ =>
    cases j with
    | none => exact whenUp_sound h (evRdWrite_sound h)
    | some j => exact whenUp_sound h (jobRdWrite_sound h)
  | attestGo => exact whenUp_sound h (attGo_sound h)
  | attestDone _ => exact whenUp_sound h (attDone_sound h)
  | progCustkey _ => exact whenUp_sound h (fuseStart_sound h)
  | setSigreq _ => exact whenUp_sound h (fuseStart_sound h)
  | raiseSvn _ => exact whenUp_sound h (fuseStart_sound h)
  | monitorKeyWrite _ _ => exact whenUp_sound h (monKeyWrite_sound h)
  | monitorLockWrite _ => exact whenUp_sound h (monCtlWrite_sound h)
  | rasInject _ => exact whenUp_sound h (rasInject_sound h)
  | rasRecordClear _ => exact whenUp_sound h (rasClear_sound h)
  | logEntryWrite _ => exact whenUp_sound h (logEntryWrite_sound h)
  | poolFree _ => exact whenUp_sound h (poolFreeWrite_sound h)
  | poolCarve _ _ _ => exact whenUp_sound h (carveWrite_sound h)
  | dmaRingWrite _ _ => exact whenUp_sound h (dmaRing_sound h)
  | dmaDoorbell _ _ => exact whenUp_sound h (dmaBell_sound h)
  | resume _ => exact whenUp_sound h (dmaResume_sound h)
  | abandon _ => exact whenUp_sound h (dmaAbandon_sound h)
  | dmaNop _ _ => exact resSound_next (sound_ite (chanRun_sound (fun _ ht => chanDone_sound ht) h) h)
  | dmaH2d _ _ _ => exact resSound_next (sound_ite (chanRun_sound (fun _ ht => h2d_sound ht) h) h)
  | dmaD2h _ _ => exact resSound_next (sound_ite (chanRun_sound (fun _ ht => d2h_sound ht) h) h)
  | dmaFill _ _ => exact execDmaFill_sound h
  | dmaWait _ _ => exact resSound_next (sound_ite (chanRun_sound (fun _ ht => dmaWaitOp_sound ht) h) h)
  | dmaSig _ _ => exact resSound_next (sound_ite (chanRun_sound (fun _ ht => dmaSigOp_sound ht) h) h)
  | dmaBarr _ _ => exact resSound_next (sound_ite (chanRun_sound (fun _ ht => dmaBarrOp_sound ht) h) h)
  | dmaCompletion _ => exact resSound_next (chanComplete_sound h)
  | dmaBusError _ => exact execDmaBusError_sound h
  | syncCreate _ _ => exact execSyncCreate_sound h
  | syncDestroy _ _ => exact execSyncDestroy_sound h
  | syncPost _ _ => exact execSyncPost_sound h
  | syncWaitTimeout _ _ => exact whenUp_sound h (waitTimeout_sound h)
  | syncTaggedWrite _ _ _ _ _ => exact whenUp_sound h (taggedWrite_sound h)
  | heldSignalApply _ => exact whenUp_sound h (heldNext_sound h)
  | nop _ => exact whenUp_sound h (nopHead_sound h)
  | endProgram _ => exact whenUp_sound h (onHead_sound (fun _ _ ht => endHead_sound ht) h)
  | loop _ => exact whenUp_sound h (onHead_sound (fun _ _ ht => loopHead_sound ht) h)
  | wland _ => exact whenUp_sound h (onHead_sound (fun _ _ ht => wlandHead_sound ht) h)
  | wso _ => exact whenUp_sound h (onHead_sound (fun _ _ ht => wsoHead_sound ht) h)
  | sig _ => exact whenUp_sound h (onHead_sound (fun _ _ ht => sigHead_sound ht) h)
  | barr _ => exact whenUp_sound h (onHead_sound (fun _ _ ht => barrHead_sound ht) h)
  | cmt _ => exact whenUp_sound h (onHead_sound (fun _ _ ht => cmtHead_sound ht) h)
  | tbnd _ => exact whenUp_sound h (onHead_sound (fun _ _ ht => tbndHead_sound ht) h)
  | send _ => exact execSend_sound h
  | copy _ => exact whenUp_sound h (onHead_sound (fun _ _ ht => workHead_sound (fun _ _ _ hu => hu) ht) h)
  | red _ => exact whenUp_sound h (onHead_sound (fun _ _ ht => workHead_sound (fun _ _ _ hu => hu) ht) h)
  | ctr _ => exact whenUp_sound h (onHead_sound (fun _ _ ht => workHead_sound (fun _ _ _ hu => hu) ht) h)
  | epi _ => exact whenUp_sound h (onHead_sound (fun _ _ ht => workHead_sound (fun _ _ _ hu => hu) ht) h)
  | wclr _ => exact whenUp_sound h (onHead_sound (fun _ _ ht => wclrHead_sound ht) h)
  | wsv _ => exact whenUp_sound h (onHead_sound (fun _ _ ht => saveHead_sound ht) h)
  | wld _ => exact whenUp_sound h (onHead_sound (fun _ _ ht => saveHead_sound ht) h)
  | newtInstructionComplete _ _ => exact whenUp_sound h (complete_sound h)
  | cellLanding _ _ => exact whenUp_sound h (landCell_sound h)
  | escapeRecordLand _ _ => exact whenUp_sound h (escLand_sound h)
  | asbPacketMerge _ _ => exact whenUp_sound h (landAsb_sound h)
  | wlandTimeout _ => exact whenUp_sound h (landTimeout_sound h)
  | newtPause _ => exact whenUp_sound h (pauseNewt_sound h)
  | newtAbort _ _ => exact whenUp_sound h (stopFor_sound h)
  | abortRequest _ _ _ => exact whenUp_sound h (abortArrives_sound h)
  | collTimeout _ => exact whenUp_sound h (collTimeout_sound h)
  | noticeReceive _ _ _ _ _ => exact whenUp_sound h (noticeReceive_sound h)
  | outcomeDecided _ => exact whenUp_sound h (outcomeDecided_sound h)
  | deliveredSend _ _ => exact whenUp_sound h (deliveredSend_sound h)
  | postedCollectiveStart _ _ => exact whenUp_sound h (collStart_sound h)
  | padBoundary => exact whenUp_sound h (padBoundary_sound h)
  | launchCountReached _ => exact whenUp_sound h (launchReached_sound h)
  | freezeBegin => exact whenUp_sound h (freezeBegin_sound h)
  | extensionCall => exact whenUp_sound h (extensionCall_sound h)
  | freezeEnd => exact whenUp_sound h (freezeEnd_sound h)
  | densitySample => exact whenUp_sound h (densitySample_sound h)
  | epochBoundary => exact whenUp_sound h (epochBoundary_sound h)
  | pauseRequest => exact whenUp_sound h (pauseRequest_sound h)
  | checkpointWrite _ => exact whenUp_sound h (checkpointWrite_sound h)
  | jobDone _ => exact whenUp_sound h (jobDone_sound h)
  | masterHeartbeat => exact whenUp_sound h (masterHeartbeat_sound h)
  | schMasterLost => exact whenUp_sound h (masterLost_sound h)
  | alignmentCorrection _ _ _ => exact whenUp_sound h (alignCorrect_sound h)
  | electionOpen _ => exact whenUp_sound h (electOpen_sound h)
  | bidReceive _ => exact whenUp_sound h (bidReceive_sound h)
  | electionDecide => exact whenUp_sound h (electDecide_sound h)
  | electionRetry => exact whenUp_sound h (electRetry_sound h)
  | padFrameSend _ => exact whenUp_sound h (padFrameSend_sound h)
  | padFrameReceive _ _ => exact execPadFrameReceive_sound h
  | linkRetryFail _ => exact execLinkRetryFail_sound h
  | trainingStart _ => exact whenUp_sound h (trainBegin_sound h)
  | trainingStepEnd _ => exact whenUp_sound h (stepEnd_sound h)
  | lnkTrainFail _ => exact execLnkTrainFail_sound h
  | trainingRestart _ => exact whenUp_sound h (trainBegin_sound h)
  | lnkRqWrite _ _ _ => exact whenUp_sound h (rqWrite_sound h)
  | lnkSlip _ _ => exact whenUp_sound h (slipWrite_sound h)
  | maint _ _ => exact whenUp_sound h (qctlWrite_sound h)
  | retrain _ _ => exact whenUp_sound h (qctlWrite_sound h)
  | quadLinkFailure _ => exact execQuadLinkFailure_sound h
  | identity _ _ => exact whenUp_sound h (identity_sound h)
  | identityRepeat _ => exact execIdentityRepeat_sound h
  | chipLost _ => exact whenUp_sound h (chipLostDetect_sound h)
  | chipLostNotice _ => exact whenUp_sound h (chipLoss_sound h)
  | depart _ => exact whenUp_sound h (departed_sound h)
  | faultReroute _ _ => exact whenUp_sound h (reroute_sound h)
  | packetArrival _ _ => exact whenUp_sound h (arrive_sound h)
  | packetAdmit _ _ => exact execPacketAdmit_sound h
  | resequence _ => exact whenUp_sound h (reseq_sound h)
  | flowAck _ => exact whenUp_sound h (flowAck_sound h)
  | resendTimeout _ _ _ _ _ _ => exact whenUp_sound h (resend_sound h)
  | packetForwardStart _ _ => exact whenUp_sound h (forward_sound h)
  | stomp _ _ _ _ => exact whenUp_sound h (stompCmd_sound h)
  | overflowMoveBack _ _ _ => exact whenUp_sound h (moveBack_sound h)
  | rspReservationTimeout _ => exact whenUp_sound h (rspTimeout_sound h)
  | swcStall _ _ _ => exact whenUp_sound h (stallCmd_sound h)
  | mirrorEnable _ _ => exact execMirrorEnable_sound h
  | clearHigh => exact whenUp_sound h (clearHigh_sound h)
  | clearCounters => exact whenUp_sound h (clearCounters_sound h)
  | bankwinWrite _ _ => exact whenUp_sound h (bankWrite_sound h)
  | drainReport => exact execDrainReport_sound h
  | drainReportReceive _ => exact whenUp_sound h (reportTake_sound h)
  | drained => exact execDrained_sound h
  | released => exact execReleased_sound h
  | rteDrainTimeout => exact execRteDrainTimeout_sound h
  | tokenRefill => exact whenUp_sound h (refillAll_sound h)
  | nodeConfigWrite _ _ => exact whenUp_sound h (nodeWrite_sound h)
  | policerConfigWrite _ _ => exact whenUp_sound h (pcfgWrite_sound h)
  | subscriberKeyWrite _ _ => exact whenUp_sound h (skeyWrite_sound h)
  | adaptiveShaping => exact whenUp_sound h (adaptShape_sound h)
  | densityPoll => exact whenUp_sound h (densityPoll_sound h)
  | powerTrace => exact whenUp_sound h (powerTrace_sound h)
  | refreshInstant _ _ => exact whenUp_sound h (refresh_sound h)
  | stackPlanChange => exact whenUp_sound h (planChange_sound h)
  | patrolScrub _ _ => exact whenUp_sound h (scrub_sound h)
  | stkCeRate _ => exact whenUp_sound h (ceRate_sound h)
  | stkFault _ => exact whenUp_sound h (stkFault_sound h)
  | watchdogExpiry _ => exact whenUp_sound h (watchdog_sound h)
  | mgmtInboxArrival _ => exact whenUp_sound h (inboxArrive_sound h)
  | moltHandover => exact whenUp_sound h (handover_sound h)
  | moltPauseEnd _ => exact whenUp_sound h (moltEnd_sound h)
  | moltTimeout => exact whenUp_sound h (moltTimeout_sound h)
  | help => exact mon_sound h fun _ ht => monHelp_sound ht
  | ver => exact mon_sound h fun _ ht => monVer_sound ht
  | stat => exact mon_sound h fun _ ht => monStat_sound ht
  | map _ => exact mon_sound h fun _ ht => monMap_sound ht
  | peek _ _ => exact mon_sound h fun _ ht => monPeek_sound ht
  | log _ => exact mon_sound h fun _ ht => monLog_sound ht
  | eye _ _ => exact mon_sound h fun _ ht => monEye_sound ht
  | baud _ => exact mon_sound h fun _ ht => monBaud_sound ht
  | chal => exact mon_sound h fun _ ht => monChal_sound ht
  | unlock _ => exact mon_sound h fun _ ht => monUnlock_sound ht
  | lock => exact mon_sound h fun _ ht => monLock_sound ht
  | poke _ _ => exact mon_sound h fun _ ht => monPoke_sound ht
  | mpeek _ _ => exact mon_sound h fun _ ht => monMpeek_sound ht
  | fwMonSyntax => exact mon_sound h fun _ ht => monSyntax_sound ht
  | monitorIdleLock => exact mon_sound h fun _ ht => modMon_sound ht
  | unlockLockoutEnd => exact mon_sound h fun _ ht => modMon_sound ht
  | cxlLinkUp _ _ _ => exact whenUp_sound h (modHif_sound h)
  | listRebuildDone _ _ => exact execListRebuildDone_sound h
  | drainReleaseReceive _ => exact whenUp_sound h (releaseTake_sound h)
  | fuseActionDone => exact whenUp_sound h (fuseDone_sound h)
  | cxlIoTransferDone _ _ _ => exact whenUp_sound h (transferDone_sound h)
  | flashWriteDone _ _ => exact whenUp_sound h (flashDone_sound h)

theorem step_sound {s t : State} (h : s.Sound) (ht : step s = .next t) : t.Sound := by
  rw [step] at ht
  split at ht
  · exact Host.Outcome.next.inj ht ▸ tick_sound h
  next c rest _ => exact exec_sound c (s := { s with pending := rest }) { h with } t ht

/-- Settles O5: `State.Sound` is `State.Wf` table by table, every function of the model keeps it, and so does every command's arm. -/
theorem stepKeepsWf : Obligations.StepKeepsWf := by
  unfold Obligations.StepKeepsWf
  exact fun s t h ht => (step_sound h.sound ht).wf

end Sys2Proof.Machine

end

section

/-! ## What a raise changes beside the RAS state

A raise sets a sticky bit of the DMA engine or of the pools and writes its log entries to the log ring in Lovor memory. -/

namespace Sys2Proof.Machine

-- One thread for the section's proofs, as in the section on O5.
set_option Elab.async false

/-! What a raise leaves of the DMA engine, the pools and Lovor memory. -/

theorem stickyBit_dma (c : Nat) (s : State) : (stickyBit c s).dma =
    if c = 0x0201 then { s.dma with buserr := true } else s.dma := by
  by_cases h : c = 0x0201
  · subst h
    rfl
  · rw [if_neg h]
    unfold stickyBit
    dsimp only
    split
    case h_2 h2 => rw [if_neg (by omega)]
    all_goals (repeat' split) <;> rfl

theorem stickyBit_pool (c : Nat) (s : State) : (stickyBit c s).pool = { s.pool with stat := (stickyBit c s).pool.stat } := by
  unfold stickyBit
  dsimp only
  repeat' split
  all_goals rfl

theorem stickyBit_pool_of_code {c : Nat} (h : c / 256 ≠ 3) (s : State) : (stickyBit c s).pool = s.pool := by
  unfold stickyBit
  dsimp only
  split
  case h_3 h3 => exact absurd h3 h
  all_goals (repeat' split) <;> rfl

/-- Only a bus error changes the DMA engine. -/
theorem raise_dma {o : Occ} (h : o.code ≠ 0x0201) (s : State) : (raise o s).dma = s.dma := by
  unfold raise
  split
  · simp [stickyBit_dma, h]
  · rfl

theorem raise_dma_busError {o : Occ} (h : o.code = 0x0201) {s : State} (hup : up s = true) :
    (raise o s).dma = { s.dma with buserr := true } := by
  rw [raise, if_pos hup]
  simp [stickyBit_dma, h]

theorem raise_pool (o : Occ) (s : State) : (raise o s).pool = { s.pool with stat := (raise o s).pool.stat } := by
  unfold raise
  split
  · simp only [rasRecord_pool, freshMark_pool]
    exact stickyBit_pool _ _
  · rfl

theorem raise_pool_of_code {o : Occ} (h : o.code / 256 ≠ 3) (s : State) : (raise o s).pool = s.pool := by
  unfold raise
  split
  · simp [stickyBit_pool_of_code h]
  · rfl

/-- An address of Lovor memory outside the log ring. -/
def offRing (a : Nat) : Prop := a < logBase ∨ logBase + 64 * 65536 ≤ a

/-- From `s` to `t` Lovor memory has changed in the log ring only. -/
structure RingOnly (s t : State) : Prop where
  lov : t.lov = { s.lov with mem := t.lov.mem, poison := t.lov.poison }
  poison : ∀ b, offRing (64 * b) → (b ∈ t.lov.poison ↔ b ∈ s.lov.poison)
  sorted : memWf s.lov.mem = true → memWf t.lov.mem = true
  bytes : memWf s.lov.mem = true → ∀ a, offRing a → memByte t.lov.mem a = memByte s.lov.mem a

theorem RingOnly.of_lov {s t : State} (h : t.lov = s.lov) : RingOnly s t where
  lov := by rw [h]
  poison b _ := by rw [h]
  sorted hs := by rwa [h]
  bytes _ a _ := by rw [h]

theorem RingOnly.refl (s : State) : RingOnly s s := .of_lov rfl

theorem RingOnly.trans {s t u : State} (h : RingOnly s t) (g : RingOnly t u) : RingOnly s u where
  lov := by rw [g.lov, h.lov]
  poison b hb := (g.poison b hb).trans (h.poison b hb)
  sorted hs := g.sorted (h.sorted hs)
  bytes hs a ha := (g.bytes (h.sorted hs) a ha).trans (h.bytes hs a ha)

theorem RingOnly.foldl {α : Type} {f : State → α → State} (h : ∀ s a, RingOnly s (f s a)) (l : List α) (s : State) :
    RingOnly s (l.foldl f s) := by
  induction l generalizing s with
  | nil => exact .refl s
  | cons a r ih => exact (h s a).trans (ih _)

theorem RingOnly.ite {c : Prop} [Decidable c] {s a b : State} (ha : RingOnly s a) (hb : RingOnly s b) :
    RingOnly s (if c then a else b) := by
  split
  · exact ha
  · exact hb

theorem sorted_of_memWf {m : Mem} (h : memWf m = true) : tsorted m := ((twf_iff _ _).mp h).1

theorem logEntry_length (seq : Nat) (e : LogItem) : (logEntry seq e).length = 64 := by
  simp [logEntry, length_slice, zeros]

theorem logRing_ringOnly (e : LogItem) (s : State) : RingOnly s (logRing e s) where
  lov := rfl
  poison b hb := by
    have hlen := logEntry_length s.log.head e
    have hkept : 64 * b < logBase + 64 * (s.log.head % 65536) ∨
        logBase + 64 * (s.log.head % 65536) + (logEntry s.log.head e).length < 64 * b + 64 := by
      unfold offRing at hb
      omega
    simp [logRing, lovWrite, hkept]
  sorted h := memWf_memWrite h _ _
  bytes h a ha := memByte_memWrite_out (sorted_of_memWf h) _ _ a (by
    rw [logEntry_length]
    unfold offRing at ha
    omega)

theorem logUnstage_ringOnly (s : State) : RingOnly s (logUnstage s) := by
  have hstart : RingOnly s { s with log := { s.log with staging := [] } } := .of_lov rfl
  exact hstart.trans (.foldl (fun t e => logRing_ringOnly e t) _ _)

theorem logNow_ringOnly (e : LogItem) (s : State) : RingOnly s (logNow e s) := by
  refine .ite (logRing_ringOnly e s) (.ite (.of_lov rfl) (.ite (.of_lov rfl) ?_))
  extract_lets base1 log1 s1
  have h1 : RingOnly s s1 := .of_lov rfl
  exact h1.trans ((logUnstage_ringOnly s1).trans (logRing_ringOnly e _))

theorem logAdd_ringOnly (typ id : Nat) (data : List Byte) (s : State) : RingOnly s (logAdd typ id data s) :=
  .ite (.refl s) (.ite (logNow_ringOnly _ s) (.of_lov rfl))

theorem rasLog_ringOnly (o : Occ) (s : State) : RingOnly s (rasLog o s) := by
  have hrec (r : RasRec) : RingOnly s (setRas o.code r s) := .of_lov rfl
  exact .ite ((hrec _).trans (logAdd_ringOnly _ _ _ _)) (.refl s)

theorem rasRecord_ringOnly (o : Occ) (s : State) : RingOnly s (rasRecord o s) := by
  refine .ite ?_ (.refl s)
  extract_lets s1 s2
  have h1 : RingOnly s s1 := .of_lov rfl
  have h2 : RingOnly s s2 := h1.trans (.ite (rasLog_ringOnly o s1) (.refl s1))
  exact .ite (.ite (h2.trans (.of_lov (eventAmend_lov _ _))) h2) (h2.trans (.of_lov (rasFirst_lov _ _)))

/-- What a raise writes to Lovor memory is its log entries. -/
theorem raise_ringOnly (o : Occ) (s : State) : RingOnly s (raise o s) :=
  .ite ((RingOnly.of_lov (by simp)).trans (rasRecord_ringOnly o _)) (.refl s)

theorem raise_stack (o : Occ) (s : State) (n : Nat) : stack (raise o s) n = stack s n := by
  rw [stack, (raise_ringOnly o s).lov]
  rfl

end Sys2Proof.Machine

end

section

/-! ## What an access of Lovor memory changes

Loads, stores and frees of buffers write Lovor memory, the pools and the RAS state; every other part of the chip stands. -/

namespace Sys2Proof.Machine

-- One thread for the section's proofs, as in the section on O5.
set_option Elab.async false

/-- What an access of Lovor memory leaves alone, with the errors that it may raise. -/
structure BesideKept (s t : State) : Prop where
  pins : t.pins = s.pins
  dma : t.dma = s.dma
  newts : t.newts = s.newts
  quads : t.quads = s.quads
  sync : t.sync = s.sync
  hostMem : t.hostMem = s.hostMem
  hifState : t.hif.state = s.hif.state
  croak : croak t = croak s
  pending : t.pending = s.pending
  records : RecordsStand s t

theorem BesideKept.trans {s t u : State} (h : BesideKept s t) (g : BesideKept t u) : BesideKept s u where
  pins := g.pins.trans h.pins
  dma := g.dma.trans h.dma
  newts := g.newts.trans h.newts
  quads := g.quads.trans h.quads
  sync := g.sync.trans h.sync
  hostMem := g.hostMem.trans h.hostMem
  hifState := g.hifState.trans h.hifState
  croak := g.croak.trans h.croak
  pending := g.pending.trans h.pending
  records := h.records.trans g.records

theorem BesideKept.of_lov_pool {s t : State} (h : t = { s with lov := t.lov, pool := t.pool, free := t.free }) :
    BesideKept s t := by
  rw [h]
  exact ⟨rfl, rfl, rfl, rfl, rfl, rfl, rfl, rfl, rfl, .of_recs rfl⟩

theorem BesideKept.refl (s : State) : BesideKept s s := .of_lov_pool rfl

theorem BesideKept.ite {c : Prop} [Decidable c] {s a b : State} (ha : BesideKept s a) (hb : BesideKept s b) :
    BesideKept s (if c then a else b) := by
  split
  · exact ha
  · exact hb

theorem BesideKept.foldl {α : Type} {f : State → α → State} (h : ∀ s a, BesideKept s (f s a)) (l : List α) (s : State) :
    BesideKept s (l.foldl f s) := by
  induction l generalizing s with
  | nil => exact .refl s
  | cons a r ih => exact (h s a).trans (ih _)

theorem raise_besideKept {o : Occ} (h : o.code ≠ 0x0201) (s : State) : BesideKept s (raise o s) where
  pins := raise_pins o s
  dma := raise_dma h s
  newts := raise_newts o s
  quads := raise_quads o s
  sync := raise_sync o s
  hostMem := raise_hostMem o s
  hifState := congrArg Prod.fst (raise_hostFace o s)
  croak := raise_croak o s
  pending := raise_pending o s
  records := raise_recordsStand o s

theorem stkUe_besideKept (a : Nat) (s : State) : BesideKept s (stkUe a s) :=
  (BesideKept.of_lov_pool rfl).trans (raise_besideKept (show 0x0D01 ≠ 0x0201 by decide) (modStack (a / 2 ^ 36 % 4) _ s))

theorem stkUe_pool (a : Nat) (s : State) : (stkUe a s).pool = s.pool := raise_pool_of_code (show 0x0D01 / 256 ≠ 3 by decide) _

theorem stkCe_besideKept (a : Nat) (s : State) : BesideKept s (stkCe a s) := by
  rw [stkCe.eq_def]
  extract_lets n h v0 v
  have hset : BesideKept s (setStack n v s) := .of_lov_pool rfl
  exact .ite (hset.trans (raise_besideKept (show 0x0D02 ≠ 0x0201 by decide) _)) hset

theorem readDrawn_besideKept (a : Nat) (s : State) : BesideKept s (readDrawn a s) := by
  have hdrawn : BesideKept s (drawn s) := .of_lov_pool rfl
  exact .ite (hdrawn.trans (stkCe_besideKept a _)) hdrawn

theorem lovStore_besideKept (a : Nat) (bs : List Byte) (s : State) : BesideKept s (lovStore a bs s) := by
  have hwrite : BesideKept s (lovWrite a bs s) := .of_lov_pool rfl
  exact hwrite.trans (.foldl (fun t b => stkUe_besideKept (64 * b) t) _ _)

theorem lovStore_pool (a : Nat) (bs : List Byte) (s : State) : (lovStore a bs s).pool = s.pool :=
  foldl_field State.pool _ (fun t b => stkUe_pool (64 * b) t) _ _

theorem bufFree_besideKept (b : Buf) (s : State) : BesideKept s (bufFree b s) := by
  rw [bufFree.eq_def]
  extract_lets pool1 s1 next s2 pool2
  have h1 : BesideKept s s1 := .of_lov_pool rfl
  have h2 : BesideKept s s2 := h1.trans (lovStore_besideKept _ _ s1)
  have hpush (o : Table (List Nat)) : BesideKept s2 { s2 with pool := { s2.pool with order := o } } := .of_lov_pool rfl
  exact .ite (h2.trans (hpush _)) h1

/-- A free of a buffer that the requester may free. -/
theorem poolFree'_of_held {a : Nat} {may : Nat → Bool} {b : Buf} {s : State}
    (hb : s.pool.bufs.find? (fun b => decide (b.addr = a)) = some b)
    (hmay : may b.owner = true) (party : Nat) : poolFree' a may party s = (bufFree b s, true) := by
  rw [poolFree', hb]
  exact if_pos hmay

/-- Any other free is refused. -/
theorem poolFree'_of_refused {a : Nat} {may : Nat → Bool} {s : State}
    (hno : ∀ b, s.pool.bufs.find? (fun b => decide (b.addr = a)) = some b → may b.owner = false) (party : Nat) :
    poolFree' a may party s = (raise (freeOcc a party s) s, false) := by
  rw [poolFree']
  split
  next b hb => exact if_neg (by simp [hno b hb])
  next => rfl

theorem freeOcc_code (a party : Nat) (s : State) : (freeOcc a party s).code = 0x0303 := by
  unfold freeOcc
  split <;> rfl

theorem raise_freeOcc_besideKept (a party : Nat) (s : State) : BesideKept s (raise (freeOcc a party s) s) :=
  raise_besideKept (by rw [freeOcc_code]; decide) s

theorem poolFree'_besideKept (a : Nat) (may : Nat → Bool) (party : Nat) (s : State) :
    BesideKept s (poolFree' a may party s).1 := by
  unfold poolFree'
  split
  · split
    · exact bufFree_besideKept _ s
    · exact raise_freeOcc_besideKept a party s
  · exact raise_freeOcc_besideKept a party s

/-! Channels of the DMA engine. -/

theorem chan_of_dma {s t : State} (h : t.dma = s.dma) (k : Nat) : chan t k = chan s k := by rw [chan, h]; rfl

theorem vector_besideKept (v : Nat) (s : State) : BesideKept s (vector v s) where
  pins := vector_pins v s
  dma := vector_dma v s
  newts := vector_newts v s
  quads := vector_quads v s
  sync := vector_sync v s
  hostMem := vector_hostMem v s
  hifState := congrArg Prod.fst (vector_hostFace v s)
  croak := by simp [Machine.croak]
  pending := vector_pending v s
  records := .of_recs (by rw [vector_ras])

end Sys2Proof.Machine

end

section

/-! ## Reset values (O3) and the commands of the stacks (O19) -/

namespace Sys2Proof.Machine

-- One thread for the section's proofs, as in the section on O5.
set_option Elab.async false

/-- Settles O3: the tables and memories of the reset state are empty, so that every entry reads as its default. -/
theorem resetValues : Obligations.ResetValues :=
  ⟨rfl, rfl, rfl, fun _ => ⟨rfl, rfl⟩, fun _ => ⟨rfl, rfl⟩, rfl, rfl, rfl, fun _ => rfl, fun _ => ⟨rfl, rfl⟩,
   rfl, fun _ => rfl, rfl⟩

theorem refresh_of_named {st p : Nat} {s : State} (h : instantAt s st p (padNow s) = true) : refresh st p s =
    { s with lov := { s.lov with
      holding := s.lov.holding.filter (fun e => e.2.2 == padNow s && !(e.1 == st && e.2.1 == p)) ++ [(st, p, padNow s)] } } :=
  if_pos h

theorem refresh_holds (s : State) (st p : Nat) (h : instantAt s st p (padNow s) = true) :
    (st, p, padNow s) ∈ (refresh st p s).lov.holding ∧ ∀ e ∈ (refresh st p s).lov.holding, e.2.2 = padNow s := by
  rw [refresh_of_named h]
  refine ⟨List.mem_append_right _ (List.mem_singleton_self _), fun e he => ?_⟩
  rcases List.mem_append.mp he with he | he
  · have hpad := (List.mem_filter.mp he).2
    simp only [Bool.and_eq_true, beq_iff_eq] at hpad
    exact hpad.1
  · rw [List.mem_singleton.mp he]

theorem planChange_of_due {b : List Byte} {s : State} (hb : s.lov.nextPlan = some b) (h : croak s % 128 = 0 ∧
    padNow s % planPeriod s.lov.plan = 0 ∧ padNow s % planPeriod b = 0) :
    planChange s = { s with lov := { s.lov with plan := b, nextPlan := none } } := by
  rw [planChange, hb]
  exact if_pos h

theorem coolReturn_of_cool {n : Nat} {s : State} (hhot : (stack s n).hot = true) (htemp : stackTemp s n < 80 * 16) :
    coolReturn n s = modStack n (fun v => { v with hot := false, since := some (croak s) }) s := if_pos ⟨hhot, htemp⟩

/-- Settles O19, command by command. -/
theorem stackCommands : Obligations.StackCommands := by
  unfold Obligations.StackCommands
  refine ⟨fun st p s hup hinst => ?_, fun b s hup hb h1 h2 h3 => ?_, fun st s hup => ?_, fun st s hup hhot htemp => ?_⟩
  · obtain ⟨hin, hall⟩ := refresh_holds s st.val p.val hinst
    refine ⟨refresh st.val p.val s, whenUp_of_up _ hup, hin, hall, ?_⟩
    rw [refresh_of_named hinst]
  · exact (whenUp_of_up planChange hup).trans (congrArg _ (planChange_of_due hb ⟨h1, h2, h3⟩))
  · exact whenUp_of_up (ceRate st.val) hup
  · exact (whenUp_of_up (coolReturn st.val) hup).trans (congrArg _ (coolReturn_of_cool hhot htemp))

end Sys2Proof.Machine

end

section

/-! ## The registers of the DMA engine and a bus error (O41) -/

namespace Sys2Proof.Machine

-- One thread for the section's proofs, as in the section on O5.
set_option Elab.async false

/-! Waits that end, as the DMA engine sees them: a channel that waits goes on, and nothing else of a channel changes. -/

/-- A channel `c` has at most been released from its wait, and is `d` now. -/
def WentOn (c d : DmaCh) : Prop :=
  d = { c with state := d.state, readback := d.readback } ∧ (c.state ≠ .wait → d.state = c.state)

theorem WentOn.refl (c : DmaCh) : WentOn c c := ⟨rfl, fun _ => rfl⟩

theorem WentOn.trans {c d e : DmaCh} (h : WentOn c d) (g : WentOn d e) : WentOn c e := by
  obtain ⟨hd, hds⟩ := h
  obtain ⟨he, hes⟩ := g
  refine ⟨by rw [he, hd], fun hc => ?_⟩
  have hstate := hds hc
  rw [hes (by rwa [hstate]), hstate]

/-- From `s` to `t` channels have at most been released from their waits. -/
structure ChansGoOn (s t : State) : Prop where
  sorted : tsorted s.dma.chans → tsorted t.dma.chans
  wentOn : tsorted s.dma.chans → ∀ k, WentOn (chan s k) (chan t k)
  dma : t.dma = { s.dma with chans := t.dma.chans }

theorem ChansGoOn.of_dma {s t : State} (h : t.dma = s.dma) : ChansGoOn s t where
  sorted hs := by rwa [h]
  wentOn _ k := by
    rw [chan_of_dma h]
    exact .refl _
  dma := by rw [h]

theorem ChansGoOn.trans {s t u : State} (h : ChansGoOn s t) (g : ChansGoOn t u) : ChansGoOn s u where
  sorted hs := g.sorted (h.sorted hs)
  wentOn hs k := (h.wentOn hs k).trans (g.wentOn (h.sorted hs) k)
  dma := by rw [g.dma, h.dma]

theorem ChansGoOn.after {s t u : State} (h : ChansGoOn t u) (hd : t.dma = s.dma) : ChansGoOn s u :=
  (ChansGoOn.of_dma hd).trans h

theorem ChansGoOn.foldl {α : Type} {f : State → α → State} (h : ∀ s a, ChansGoOn s (f s a)) (l : List α) (s : State) :
    ChansGoOn s (l.foldl f s) := by
  induction l generalizing s with
  | nil => exact .of_dma rfl
  | cons a r ih => exact (h s a).trans (ih _)

theorem releaseAgent_chansGoOn (agent : Nat) (s : State) : ChansGoOn s (releaseAgent agent s) := by
  unfold releaseAgent
  split
  · exact .of_dma rfl
  · split
    · refine ⟨fun hs => tsorted_tset _ hs _ _, fun hs k => ?_, rfl⟩
      rcases eq_or_ne k (agent % 64) with rfl | hk
      · rw [modChan, chan_setChan _ _ _ hs]
        exact ⟨rfl, fun hc => if_neg hc⟩
      · rw [modChan, chan_setChan_other _ _ _ _ hs hk]
        exact .refl _
    · exact .of_dma rfl

theorem serveN_chansGoOn (fuel o : Nat) (s : State) : ChansGoOn s (serveN fuel o s) := by
  induction fuel generalizing s with
  | zero => exact .of_dma rfl
  | succ fuel ih =>
    unfold serveN
    dsimp only
    split
    · exact .of_dma rfl
    · split
      · exact ((releaseAgent_chansGoOn _ _).trans (ih _)).after rfl
      · exact .of_dma rfl

theorem unwait_chansGoOn (o agent : Nat) (s : State) : ChansGoOn s (unwait o agent s) := (serveN_chansGoOn _ o _).after rfl

theorem unwaitAll_chansGoOn (agent : Nat) (s : State) : ChansGoOn s (unwaitAll agent s) := by
  unfold unwaitAll
  exact .foldl (fun t (e : Nat × SyncObj) => unwait_chansGoOn e.1 agent t) _ s

/-! A bus error (R409). -/

/-- A channel that a bus error has stopped. -/
def BusStopped (c : DmaCh) : Prop := c.state = .busstop ∧ c.code = 0x0201 ∧ c.cur = none

/-- Where a channel is in its ring, and the buffer that its descriptor holds. -/
def ringPlace (c : DmaCh) : Nat × Nat × Nat := (c.next, c.count, c.alloc)

theorem WentOn.busStopped {c d : DmaCh} (h : WentOn c d) (hc : BusStopped c) : BusStopped d := by
  obtain ⟨hstate, hcode, hcur⟩ := hc
  obtain ⟨hd, hds⟩ := h
  refine ⟨?_, by rw [hd, hcode], by rw [hd, hcur]⟩
  rw [hds (by rw [hstate]; decide), hstate]

theorem WentOn.ringPlace {c d : DmaCh} (h : WentOn c d) : ringPlace d = ringPlace c := by
  rw [h.1]
  rfl

theorem smudge_dma (c : DmaCh) (s : State) : (smudge c s).dma = s.dma := by
  unfold smudge
  dsimp only
  split
  · rfl
  · split
    · exact (lovStore_besideKept _ _ (drawn s)).dma
    · split <;> rfl

theorem smudge_pins (c : DmaCh) (s : State) : (smudge c s).pins = s.pins := by
  unfold smudge
  dsimp only
  split
  · rfl
  · split
    · exact (lovStore_besideKept _ _ (drawn s)).pins
    · split <;> rfl

/-- The chip when channel `ch` has lost its copy and its waits. -/
theorem interrupted_chansGoOn (ch : Nat) (s : State) : ChansGoOn s (unwaitAll (agentDma ch) (smudge (chan s ch) s)) :=
  (ChansGoOn.of_dma (smudge_dma _ s)).trans (unwaitAll_chansGoOn _ _)

section BusStop

variable {s : State} (hs : tsorted s.dma.chans)

include hs

theorem busStop_chans_sorted (ch : Nat) : tsorted (busStop ch s).dma.chans :=
  tsorted_tset _ ((interrupted_chansGoOn ch s).sorted hs) _ _

theorem busStop_stops (ch : Nat) : BusStopped (chan (busStop ch s) ch) := by
  rw [busStop, chan_setChan _ _ _ ((interrupted_chansGoOn ch s).sorted hs)]
  exact ⟨rfl, rfl, rfl⟩

theorem ringPlace_busStop (ch k : Nat) : ringPlace (chan (busStop ch s) k) = ringPlace (chan s k) := by
  have hgo := interrupted_chansGoOn ch s
  rcases eq_or_ne k ch with rfl | hk
  · rw [busStop, chan_setChan _ _ _ (hgo.sorted hs)]
    exact (hgo.wentOn hs k).ringPlace
  · rw [busStop, chan_setChan_other _ _ _ _ (hgo.sorted hs) hk]
    exact (hgo.wentOn hs k).ringPlace

theorem busStop_keeps_stopped (ch : Nat) {k : Nat} (h : BusStopped (chan s k)) : BusStopped (chan (busStop ch s) k) := by
  rcases eq_or_ne k ch with rfl | hk
  · exact busStop_stops hs k
  · have hgo := interrupted_chansGoOn ch s
    rw [busStop, chan_setChan_other _ _ _ _ (hgo.sorted hs) hk]
    exact (hgo.wentOn hs k).busStopped h

end BusStop

theorem busStop_pins (ch : Nat) (s : State) : (busStop ch s).pins = s.pins := by
  have hwait := congrArg State.pins (unwaitAll_waitsOnly (agentDma ch) (smudge (chan s ch) s)).frame
  exact hwait.trans (smudge_pins _ s)

/-- The channels of a list stopped one after the other. -/
theorem foldl_busStop {s : State} (hs : tsorted s.dma.chans) (l : List Nat) :
    (∀ k, ringPlace (chan (l.foldl (fun t ch => busStop ch t) s) k) = ringPlace (chan s k)) ∧
      ∀ k, k ∈ l ∨ BusStopped (chan s k) → BusStopped (chan (l.foldl (fun t ch => busStop ch t) s) k) := by
  induction l generalizing s with
  | nil => exact ⟨fun _ => rfl, fun k hk => hk.resolve_left List.not_mem_nil⟩
  | cons a r ih =>
    obtain ⟨hplace, hstop⟩ := ih (busStop_chans_sorted hs a)
    refine ⟨fun k => (hplace k).trans (ringPlace_busStop hs a k), fun k hk => hstop k ?_⟩
    rcases hk with hk | hk
    · rcases List.mem_cons.mp hk with rfl | hk
      · exact .inr (busStop_stops hs k)
      · exact .inl hk
    · exact .inr (busStop_keeps_stopped hs a hk)

/-! Descriptors that are abandoned (R410, R437). -/

/-- The chip when the buffer of the descriptor that channel `ch` leaves is free, and STATUS is written. -/
def leftDescriptor (ch : Nat) (status : Bool) (s : State) : State :=
  let c := chan s ch
  let s1 := if c.alloc ≠ 0 then (poolFree' c.alloc (· == ch) ch s).1 else s
  if status then hostWrite (descAddr c + 48) (leBytes 2 c.code ++ zeros 6) s1 else s1

theorem abandonOp_of_none {ch : Nat} {s : State} (h : (chan s ch).count = 0) (status : Bool) :
    abandonOp ch status s = setChan ch { chan s ch with state := .idle, alloc := 0, arrived := false } s := if_pos h

theorem abandonOp_of_some {ch : Nat} {s : State} (h : (chan s ch).count ≠ 0) (status : Bool) :
    abandonOp ch status s = chanAdvance ch (leftDescriptor ch status s) := if_neg h

/-- The free of the buffer leaves all beside the pools and Lovor memory. -/
theorem leftDescriptor_besideKept (ch : Nat) (status : Bool) (s : State) :
    ∃ u, BesideKept s u ∧ leftDescriptor ch status s = { u with hostMem := (leftDescriptor ch status s).hostMem } := by
  refine ⟨if (chan s ch).alloc ≠ 0 then (poolFree' (chan s ch).alloc (· == ch) ch s).1 else s,
    .ite (poolFree'_besideKept _ _ _ s) (.refl s), ?_⟩
  cases status <;> rfl

theorem leftDescriptor_dma (ch : Nat) (status : Bool) (s : State) : (leftDescriptor ch status s).dma = s.dma := by
  obtain ⟨u, hu, heq⟩ := leftDescriptor_besideKept ch status s
  rw [heq, hu.dma]

theorem modChan_dma (ch : Nat) (f : DmaCh → DmaCh) (s : State) :
    (modChan ch f s).dma = { s.dma with chans := (modChan ch f s).dma.chans } := rfl

theorem chanAdvance_dma (ch : Nat) (s : State) :
    (chanAdvance ch s).dma = { s.dma with chans := (chanAdvance ch s).dma.chans } := rfl

theorem abandonOp_dma (ch : Nat) (status : Bool) (s : State) :
    (abandonOp ch status s).dma = { s.dma with chans := (abandonOp ch status s).dma.chans } := by
  by_cases h : (chan s ch).count = 0
  · rw [abandonOp_of_none h]
    rfl
  · rw [abandonOp_of_some h, chanAdvance_dma, leftDescriptor_dma]

theorem abandonOp_records (ch : Nat) (status : Bool) (s : State) : RecordsStand s (abandonOp ch status s) := by
  by_cases h : (chan s ch).count = 0
  · rw [abandonOp_of_none h]
    exact .of_recs rfl
  · obtain ⟨u, hu, heq⟩ := leftDescriptor_besideKept ch status s
    rw [abandonOp_of_some h, heq]
    exact hu.records.trans (.of_recs rfl)

section Abandon

variable {s : State} (hs : tsorted s.dma.chans)

include hs

theorem chan_chanAdvance_other {ch k : Nat} (hk : k ≠ ch) : chan (chanAdvance ch s) k = chan s k :=
  chan_setChan_other _ _ _ _ hs hk

theorem abandonOp_chans_sorted (ch : Nat) (status : Bool) : tsorted (abandonOp ch status s).dma.chans := by
  by_cases h : (chan s ch).count = 0
  · rw [abandonOp_of_none h]
    exact tsorted_tset _ hs _ _
  · rw [abandonOp_of_some h]
    exact tsorted_tset _ (by rwa [leftDescriptor_dma]) _ _

theorem chan_abandonOp_other {ch k : Nat} (hk : k ≠ ch) (status : Bool) : chan (abandonOp ch status s) k = chan s k := by
  by_cases h : (chan s ch).count = 0
  · rw [abandonOp_of_none h, chan_setChan_other _ _ _ _ hs hk]
  · rw [abandonOp_of_some h, chan_chanAdvance_other (by rwa [leftDescriptor_dma]) hk, chan_of_dma (leftDescriptor_dma ..)]

end Abandon

/-- A stopped channel goes IDLE when the interface enters ORPHAN (R437). -/
def orphanChan (t : State) (ch : Nat) : State :=
  let c := chan t ch
  if c.state = .error ∨ c.state = .busstop then
    modChan ch (fun c => { c with state := .idle, count := 0 }) (abandonOp ch false t)
  else t

theorem dmaOrphan_eq (s : State) : dmaOrphan s = (List.range 64).foldl orphanChan s := rfl

/-- A channel that has gone IDLE with COUNT zero. -/
def IdleEmpty (c : DmaCh) : Prop := c.state = .idle ∧ c.count = 0

theorem orphanChan_chans_sorted {s : State} (hs : tsorted s.dma.chans) (ch : Nat) : tsorted (orphanChan s ch).dma.chans := by
  unfold orphanChan
  dsimp only
  split
  · exact tsorted_tset _ (abandonOp_chans_sorted hs ch false) _ _
  · exact hs

theorem chan_orphanChan_other {s : State} (hs : tsorted s.dma.chans) {ch k : Nat} (hk : k ≠ ch) :
    chan (orphanChan s ch) k = chan s k := by
  unfold orphanChan
  dsimp only
  split
  · rw [modChan, chan_setChan_other _ _ _ _ (abandonOp_chans_sorted hs ch false) hk, chan_abandonOp_other hs hk]
  · rfl

theorem orphanChan_idle {s : State} (hs : tsorted s.dma.chans) {ch : Nat}
    (h : (chan s ch).state = .busstop ∨ IdleEmpty (chan s ch)) :
    IdleEmpty (chan (orphanChan s ch) ch) := by
  unfold orphanChan
  dsimp only
  split
  · rw [modChan, chan_setChan _ _ _ (abandonOp_chans_sorted hs ch false)]
    exact ⟨rfl, rfl⟩
  next hrun =>
    simp only [not_or] at hrun
    exact h.resolve_left hrun.2

theorem orphanChan_records (s : State) (ch : Nat) : RecordsStand s (orphanChan s ch) := by
  unfold orphanChan
  dsimp only
  split
  · exact (abandonOp_records ch false s).trans (.of_recs rfl)
  · exact .of_recs rfl

theorem orphanChan_dma (s : State) (ch : Nat) :
    (orphanChan s ch).dma = { s.dma with chans := (orphanChan s ch).dma.chans } := by
  unfold orphanChan
  dsimp only
  split
  · rw [modChan_dma, abandonOp_dma]
  · rfl

theorem foldl_orphanChan (l : List Nat) {s : State} (hs : tsorted s.dma.chans) :
    (l.foldl orphanChan s).dma = { s.dma with chans := (l.foldl orphanChan s).dma.chans } ∧
      RecordsStand s (l.foldl orphanChan s) ∧
      ∀ k, IdleEmpty (chan s k) ∨ k ∈ l ∧ (chan s k).state = .busstop → IdleEmpty (chan (l.foldl orphanChan s) k) := by
  induction l generalizing s with
  | nil => exact ⟨rfl, .of_recs rfl, fun k hk => hk.resolve_right fun h => List.not_mem_nil h.1⟩
  | cons a r ih =>
    obtain ⟨hdma, hrec, hidle⟩ := ih (orphanChan_chans_sorted hs a)
    refine ⟨by rw [List.foldl_cons, hdma, orphanChan_dma], (orphanChan_records s a).trans hrec, fun k hk => hidle k ?_⟩
    rcases eq_or_ne k a with rfl | hka
    · exact .inl (orphanChan_idle hs (hk.elim .inr fun h => .inl h.2))
    · rw [chan_orphanChan_other hs hka]
      exact hk.imp_right fun h => ⟨(List.mem_cons.mp h.1).resolve_left hka, h.2⟩

/-! The registers of a channel. -/

theorem dmaRing_of_idle {ch w : Nat} {s : State} (hidle : (chan s ch).state = .idle)
    (h1 : bits w 3 0 ≠ 1) (h2 : bits w 3 0 ≠ 2) :
    dmaRing ch w s =
      setChan ch { chan s ch with log2 := if bits w 3 0 = 0 then 16 else bits w 3 0, base := bits w 63 6 } s := by
  refine if_pos ⟨hidle, ?_⟩
  unfold ringLog2
  split <;> omega

theorem dmaRing_of_refused {ch w : Nat} {s : State} (h : (chan s ch).state ≠ .idle ∨ bits w 3 0 = 1 ∨ bits w 3 0 = 2) :
    dmaRing ch w s = s := by
  refine if_neg fun ⟨hidle, hlog⟩ => ?_
  unfold ringLog2 at hlog
  rcases h with h | h | h
  · exact h hidle
  · rw [h] at hlog
    exact absurd hlog (by decide)
  · rw [h] at hlog
    exact absurd hlog (by decide)

/-- The chip once a bus error at `h` has stopped every channel. -/
def busErrorStopped (h : Word) (s : State) : State :=
  let busy := (List.range 64).filter (fun ch => !((chan s ch).state == .idle))
  let s1 := (List.range 64).foldl (fun t ch => busStop ch t) s
  let s2 := busy.foldl (fun t ch => vector ch t) s1
  { s2 with dma := { s2.dma with busaddr := h } }

/-- The chip once the bus error is recorded too. -/
def busErrorRaised (h : Word) (s : State) : State := raise { code := 0x0201, kind := 6, d := [h.toNat] } (busErrorStopped h s)

theorem exec_dmaBusError {h : Word} {s : State} (hup : up s = true) : exec (.dmaBusError h) s =
    .next (if s.hif.state = .orphan then dmaOrphan (busErrorRaised h s) else busErrorRaised h s) :=
  whenUp_of_up (fun s => if s.hif.state = .orphan then dmaOrphan (busErrorRaised h s) else busErrorRaised h s) hup

theorem foldl_vector_besideKept (l : List Nat) (s : State) : BesideKept s (l.foldl (fun t ch => vector ch t) s) :=
  .foldl (fun t ch => vector_besideKept ch t) l s

theorem foldl_busStop_pins (l : List Nat) (s : State) : (l.foldl (fun t ch => busStop ch t) s).pins = s.pins :=
  foldl_field State.pins _ (fun t ch => busStop_pins ch t) l s

theorem up_of_pins {s t : State} (h : t.pins = s.pins) : up t = up s := by
  simp only [up, h]

theorem busErrorStopped_dma (h : Word) (s : State) : (busErrorStopped h s).dma =
    { ((List.range 64).foldl (fun t ch => busStop ch t) s).dma with busaddr := h } := by
  have hvec := (foldl_vector_besideKept ((List.range 64).filter (fun ch => !((chan s ch).state == .idle)))
    ((List.range 64).foldl (fun t ch => busStop ch t) s)).dma
  exact congrArg (fun d : Dma => { d with busaddr := h }) hvec

theorem busErrorStopped_up (h : Word) {s : State} (hup : up s = true) : up (busErrorStopped h s) = true := by
  have hpins : (busErrorStopped h s).pins = s.pins := (foldl_vector_besideKept _ _).pins.trans (foldl_busStop_pins _ s)
  rwa [up_of_pins hpins]

theorem busErrorRaised_dma (h : Word) {s : State} (hup : up s = true) : (busErrorRaised h s).dma =
    { ((List.range 64).foldl (fun t ch => busStop ch t) s).dma with buserr := true, busaddr := h } := by
  rw [busErrorRaised, raise_dma_busError rfl (busErrorStopped_up h hup), busErrorStopped_dma]

theorem busErrorRaised_records (h : Word) {s : State} (hup : up s = true) : (rasRec (busErrorRaised h s) 0x0201).set = true :=
  rasRec_raise_set (o := { code := 0x0201, kind := 6, d := [h.toNat] }) (busErrorStopped_up h hup)
    (show definedCode 0x0201 = true by decide)

theorem busErrorRaised_sound (h : Word) {s : State} (hs : s.Sound) : (busErrorRaised h s).Sound := by
  refine raise_sound ?_
  rw [busErrorStopped.eq_def]
  extract_lets busy s1 s2
  have h2 : s2.Sound := sound_foldl (fun _ _ ht => vector_sound ht) (sound_foldl (fun _ _ ht => busStop_sound ht) hs)
  exact { h2 with }

/-- Each channel as a bus error leaves it, before ORPHAN is looked at. -/
theorem chan_busErrorRaised (h : Word) {s : State} (hs : tsorted s.dma.chans) (hup : up s = true) (c : Nat) :
    ringPlace (chan (busErrorRaised h s) c) = ringPlace (chan s c) ∧ (c < 64 → BusStopped (chan (busErrorRaised h s) c)) := by
  obtain ⟨hplace, hstop⟩ := foldl_busStop hs (List.range 64)
  have hchan : chan (busErrorRaised h s) c = chan ((List.range 64).foldl (fun t ch => busStop ch t) s) c := by
    rw [chan, busErrorRaised_dma h hup]
    rfl
  rw [hchan]
  exact ⟨hplace c, fun hc => hstop c (.inl (List.mem_range.mpr hc))⟩

theorem exec_dmaDoorbell {ch : Fin 64} {w : Word} {s : State} (hup : up s = true) :
    exec (.dmaDoorbell ch w) s = .next (dmaBell ch.val w.toNat s) := whenUp_of_up (dmaBell ch.val w.toNat) hup

theorem exec_dmaRingWrite {ch : Fin 64} {w : Word} {s : State} (hup : up s = true) :
    exec (.dmaRingWrite ch w) s = .next (dmaRing ch.val w.toNat s) := whenUp_of_up (dmaRing ch.val w.toNat) hup

theorem dmaBell_of_over {ch w : Nat} {s : State} (ho : s.hif.state ≠ .orphan)
    (hn : 2 ^ (chan s ch).log2 < (chan s ch).count + bits w 16 0) :
    dmaBell ch w s = raise { code := 0x0206, kind := 6, unit := ch, d := [0, 0, (chan s ch).next] } s := by
  rw [dmaBell.eq_def]
  exact (if_neg ho).trans (if_pos hn)

theorem dmaBell_of_room {ch w : Nat} {s : State} (ho : s.hif.state ≠ .orphan)
    (hn : (chan s ch).count + bits w 16 0 ≤ 2 ^ (chan s ch).log2) :
    dmaBell ch w s = setChan ch { chan s ch with
      count := (chan s ch).count + bits w 16 0
      state := if (chan s ch).state = .idle ∧ 0 < (chan s ch).count + bits w 16 0 then .run else (chan s ch).state } s := by
  rw [dmaBell.eq_def]
  exact (if_neg ho).trans (if_neg (Nat.not_lt.mpr hn))

/-- Settles O41: the two register writes case by case; a bus error stops the channels one after the other, each at its place,
and in ORPHAN each stopped channel is then left IDLE. -/
theorem dmaRegisters : Obligations.DmaRegisters := by
  unfold Obligations.DmaRegisters
  refine ⟨fun ch w s hup => ⟨fun hidle h1 h2 => ?_, fun h => ?_⟩,
    fun ch w s hup => ⟨fun ho => ?_, fun ho hn => ?_, fun ho hn => ?_⟩,
    fun h s hwf hup => ?_⟩
  · rw [exec_dmaRingWrite hup, dmaRing_of_idle hidle h1 h2]
  · rw [exec_dmaRingWrite hup, dmaRing_of_refused h]
  · rw [exec_dmaDoorbell hup, dmaBell.eq_def]
    exact congrArg _ (if_pos ho)
  · refine ⟨_, exec_dmaDoorbell hup, ?_⟩
    rw [dmaBell_of_over ho hn]
    exact ⟨rasRec_raise_set (o := { code := 0x0206, kind := 6, unit := ch.val, d := [0, 0, (chan s ch.val).next] }) hup
      (show definedCode 0x0206 = true by decide), raise_dma (show 0x0206 ≠ 0x0201 by decide) s⟩
  · rw [exec_dmaDoorbell hup, dmaBell_of_room ho hn]
  · have hsound := hwf.sound
    have hraised := busErrorRaised_sound h hsound
    have hchan := chan_busErrorRaised h hsound.chans hup
    have hset := busErrorRaised_records h hup
    have hdma := busErrorRaised_dma h hup
    by_cases ho : s.hif.state = .orphan
    · obtain ⟨hleft, hrec, hidle⟩ := foldl_orphanChan (List.range 64) hraised.chans
      refine ⟨dmaOrphan (busErrorRaised h s), by rw [exec_dmaBusError hup, if_pos ho], ?_, ?_, ?_, fun hno => absurd ho hno,
        fun _ c hc => hidle c (.inr ⟨List.mem_range.mpr hc, ((hchan c).2 hc).1⟩)⟩
      · rw [dmaOrphan_eq, hleft, hdma]
      · rw [dmaOrphan_eq, hleft, hdma]
      · exact hrec.set hraised.recs _ hset
    · refine ⟨busErrorRaised h s, by rw [exec_dmaBusError hup, if_neg ho], by rw [hdma], by rw [hdma], hset, fun _ c hc => ?_,
        fun hyes => absurd hyes ho⟩
      obtain ⟨hplace, hstop⟩ := hchan c
      obtain ⟨hstate, hcode, hcur⟩ := hstop hc
      simp only [ringPlace, Prod.mk.injEq] at hplace
      obtain ⟨hnext, hcount, halloc⟩ := hplace
      exact ⟨hstate, hcode, hcur, hnext, hcount, halloc⟩

end Sys2Proof.Machine

end

section

/-! ## A stopped channel leaves by RESUME or ABANDON (O40) -/

namespace Sys2Proof.Machine

-- One thread for the section's proofs, as in the section on O5.
set_option Elab.async false

/-! A stopped channel goes on (R410). -/

/-- A channel that a channel error or a bus error has stopped. -/
def Stopped (c : DmaCh) : Prop := c.state = .error ∨ c.state = .busstop

theorem exec_resume {ch : Fin 64} {s : State} (hup : up s = true) : exec (.resume ch) s = .next (dmaResume ch.val s) :=
  whenUp_of_up (dmaResume ch.val) hup

theorem exec_abandon {ch : Fin 64} {s : State} (hup : up s = true) : exec (.abandon ch) s = .next (dmaAbandon ch.val s) :=
  whenUp_of_up (dmaAbandon ch.val) hup

theorem dmaResume_of_busError {ch : Nat} {s : State} (h : s.dma.buserr = true) : dmaResume ch s = s := by
  rw [dmaResume.eq_def]
  exact if_pos (by rw [h]; rfl)

theorem dmaAbandon_of_busError {ch : Nat} {s : State} (h : s.dma.buserr = true) : dmaAbandon ch s = s := by
  rw [dmaAbandon.eq_def]
  exact if_pos (by rw [h]; rfl)

/-- The test by which RESUME and ABANDON are ignored fails for a stopped channel without a bus error. -/
theorem not_ignored {ch : Nat} {s : State} (hb : s.dma.buserr = false) (hst : Stopped (chan s ch)) :
    ¬ (s.dma.buserr || !((chan s ch).state == .error || (chan s ch).state == .busstop)) = true := by
  rcases hst with h | h <;> simp [hb, h]

/-- The channel that RESUME has set going. -/
def resumed (c : DmaCh) : DmaCh := { c with state := if c.count = 0 then .idle else .run, cur := none, readback := false }

theorem dmaResume_of_stopped {ch : Nat} {s : State} (hb : s.dma.buserr = false) (hst : Stopped (chan s ch)) :
    dmaResume ch s = setChan ch (resumed (chan s ch)) s := if_neg (not_ignored hb hst)

theorem dmaAbandon_of_stopped {ch : Nat} {s : State} (hb : s.dma.buserr = false) (hst : Stopped (chan s ch)) :
    dmaAbandon ch s = abandonOp ch true s := if_neg (not_ignored hb hst)

theorem chanTakes_of_running {ch : Nat} {s : State} (hup : up s = true) (hb : s.dma.buserr = false)
    (hrun : (chan s ch).state = .run)
    (hcur : (chan s ch).cur = none) (hcount : 0 < (chan s ch).count) : chanTakes ch s = true := by
  simp [chanTakes, hup, hb, hrun, hcur, hcount]

/-- The buffer taken under ALLOC is reused. -/
theorem chanTake_of_taken {ch : Nat} {d : List Byte} {s : State} (hd : dAlloc d = true) (ha : (chan s ch).alloc ≠ 0) :
    chanTake ch d s = (s, .inl (chan s ch).alloc) := by
  rw [chanTake, hd]
  exact if_pos ha

theorem chanTake_of_address {ch : Nat} {d : List Byte} (s : State) (hd : dAlloc d = false) :
    chanTake ch d s = (s, .inl (dDaddr d)) := by
  rw [chanTake, hd]
  rfl

theorem dOp_of_free {d : List Byte} (hok : descOk d = true) (hfree : dFree d = true) : dOp d = 2 := by
  by_contra hop
  simp [descOk, hfree, hop] at hok

/-- A descriptor of an operation that moves no data has nothing to check but its fields. -/
theorem descCheck_of_ok {ch : Nat} {d : List Byte} {s : State} (hok : descOk d = true) (hop : 4 ≤ dOp d) :
    descCheck ch d s = none := by
  have hfree : dFree d = false := by
    by_contra hfree
    have := dOp_of_free hok (by simpa using hfree)
    omega
  have hmove : ¬ (1 ≤ dOp d ∧ dOp d ≤ 3 ∧ dAlloc d = false ∧ badDevRange (dDaddr d) (dLen d) = true) := by omega
  simp [descCheck, hok, hfree, hmove]

theorem chanWaits_of_op {ch : Nat} {d : List Byte} {s : State} (hop : dOp d = 0 ∨ 4 ≤ dOp d) : chanWaits ch d s = false := by
  have hmove : ¬ (1 ≤ dOp d ∧ dOp d ≤ 3) := by omega
  simp [chanWaits, hmove]

/-- The chip once channel `ch` holds descriptor `d`. -/
def holding (ch : Nat) (d : List Byte) (s : State) : State := setChan ch { chan s ch with cur := some d, readback := false } s

theorem chanRun_of_takes {ch : Nat} {d : List Byte} {f : State → State} {s : State} (htakes : chanTakes ch s = true)
    (hcheck : descCheck ch d s = none) (hwaits : chanWaits ch d s = false) : chanRun ch d f s = f (holding ch d s) := by
  rw [chanRun, if_pos htakes, hcheck]
  exact if_neg (by simp [hwaits])

/-- The channel of a BARR that has arrived before waits again (R410). -/
def waitsAgain (ch : Nat) (d : List Byte) (s : State) : State :=
  modChan ch (fun c => { c with state := .wait })
    (modObj (dObj d) (fun v => { v with waiters := v.waiters ++ [{ agent := agentDma ch, d := 0 }] }) s)

theorem dmaBarrOp_of_arrived {ch : Nat} {d : List Byte} {s : State} (harr : (chan s ch).arrived = true)
    (hleaf : 2048 + ch ∈ (bline s (obj s (dObj d)).bl).arrived) (hread : (chan s ch).readback = false) :
    dmaBarrOp ch d s = waitsAgain ch d s := by
  rw [dmaBarrOp.eq_def]
  extract_lets o wait
  have hkept (v : SyncObj) : (chan (setObj o v s) ch).readback = false := hread
  rw [if_pos harr, if_pos (by simpa using hleaf)]
  exact if_neg (by rw [modObj, hkept]; decide)

theorem exec_dmaBarr {ch : Fin 64} {d : List Byte} {s : State} (hop : dOp d = 6) :
    exec (.dmaBarr ch d) s = .next (chanRun ch.val d (dmaBarrOp ch.val d) s) := congrArg _ (if_pos hop)

section Resumed

variable {ch : Nat} {s : State} (hs : tsorted s.dma.chans)

include hs

theorem chan_holding (d : List Byte) : chan (holding ch d s) ch = { chan s ch with cur := some d, readback := false } :=
  chan_setChan _ _ _ hs

theorem chan_holding_other (d : List Byte) {k : Nat} (hk : k ≠ ch) : chan (holding ch d s) k = chan s k :=
  chan_setChan_other _ _ _ _ hs hk

theorem holding_chans_sorted (d : List Byte) : tsorted (holding ch d s).dma.chans := tsorted_tset _ hs _ _

/-- A BARR with ARRIVED set, taken again. -/
theorem barr_again (hobjs : tsorted s.sync.objs) {d : List Byte} (htakes : chanTakes ch s = true) (hop : dOp d = 6)
    (hok : descOk d = true) (harr : (chan s ch).arrived = true) (hleaf : 2048 + ch ∈ (bline s (obj s (dObj d)).bl).arrived) :
    ∃ u, chanRun ch d (dmaBarrOp ch d) s = u ∧ u.sync.lines = s.sync.lines ∧ (chan u ch).state = .wait ∧
      (chan u ch).arrived = true ∧
      (obj u (dObj d)).waiters = (obj s (dObj d)).waiters ++ [{ agent := agentDma ch, d := 0 }] := by
  have hheld := chan_holding (ch := ch) hs d
  have hwaits : chan (waitsAgain ch d (holding ch d s)) ch = { chan (holding ch d s) ch with state := .wait } :=
    chan_setChan _ _ _ (holding_chans_sorted hs d)
  refine ⟨waitsAgain ch d (holding ch d s), ?_, rfl, ?_, ?_, ?_⟩
  · rw [chanRun_of_takes htakes (descCheck_of_ok hok (by omega)) (chanWaits_of_op (.inr (by omega)))]
    exact dmaBarrOp_of_arrived (by rw [hheld]; exact harr) hleaf (by rw [hheld])
  · rw [hwaits]
  · rw [hwaits]
    exact (congrArg DmaCh.arrived hheld).trans harr
  · exact congrArg SyncObj.waiters (obj_setObj _ _ _ (by exact hobjs))

end Resumed

/-! A channel leaves its descriptor (R410). -/

theorem leftDescriptor_hostMem (ch : Nat) (s : State) : (leftDescriptor ch true s).hostMem =
    memWrite s.hostMem (descAddr (chan s ch) + 48) (leBytes 2 (chan s ch).code ++ zeros 6) := by
  have hfreed : BesideKept s (if (chan s ch).alloc ≠ 0 then (poolFree' (chan s ch).alloc (· == ch) ch s).1 else s) :=
    .ite (poolFree'_besideKept _ _ _ s) (.refl s)
  exact congrArg (memWrite · _ _) hfreed.hostMem

theorem leftDescriptor_pool_of_none {ch : Nat} {s : State} (h : (chan s ch).alloc = 0) (status : Bool) :
    (leftDescriptor ch status s).pool = s.pool := by
  cases status <;> simp [leftDescriptor, h, hostWrite]

theorem leftDescriptor_bufs_of_held {ch : Nat} {s : State} {b : Buf} (h : (chan s ch).alloc ≠ 0)
    (hb : s.pool.bufs.find? (fun b => decide (b.addr = (chan s ch).alloc)) = some b) (howner : b.owner = ch) (status : Bool) :
    (leftDescriptor ch status s).pool.bufs = s.pool.bufs.filter (fun b => decide (b.addr ≠ (chan s ch).alloc)) := by
  have haddr : b.addr = (chan s ch).alloc := by simpa using List.find?_some hb
  rw [leftDescriptor, if_pos h, poolFree'_of_held hb (by simpa using howner)]
  rw [← haddr]
  cases status <;> exact bufFree_bufs b s

/-- The channel once it has advanced to its next descriptor. -/
def advancedChan (c : DmaCh) : DmaCh :=
  { c with next := (c.next + 1) % 2 ^ c.log2, count := c.count - 1, cur := none, readback := false,
           arrived := false, alloc := 0,
           state := if c.count - 1 = 0 then .idle else .run }

theorem chanAdvance_of_owned {ch : Nat} {s : State} (ho : s.hif.state ≠ .orphan) :
    chanAdvance ch s = setChan ch (advancedChan (chan s ch)) s := by
  rw [chanAdvance.eq_def]
  extract_lets c n
  have hn : n = c.count - 1 := if_neg ho
  rw [hn]
  rfl

/-- A stopped channel with descriptors left, once its present one is abandoned. -/
structure Abandoned (ch : Nat) (s t : State) : Prop where
  own : chan t ch = advancedChan (chan s ch)
  other : ∀ k, k ≠ ch → chan t k = chan s k
  pool : t.pool = (leftDescriptor ch true s).pool
  hostMem : t.hostMem = memWrite s.hostMem (descAddr (chan s ch) + 48) (leBytes 2 (chan s ch).code ++ zeros 6)
  newts : t.newts = s.newts
  sync : t.sync = s.sync

theorem abandonOp_abandoned {ch : Nat} {s : State} (hs : tsorted s.dma.chans) (ho : s.hif.state ≠ .orphan)
    (hcount : 0 < (chan s ch).count) :
    Abandoned ch s (abandonOp ch true s) := by
  rw [abandonOp_of_some hcount.ne']
  have hdma := leftDescriptor_dma ch true s
  have hsort : tsorted (leftDescriptor ch true s).dma.chans := by rwa [hdma]
  have hchan := chan_of_dma hdma
  obtain ⟨u, hu, heq⟩ := leftDescriptor_besideKept ch true s
  have hhif : (leftDescriptor ch true s).hif.state ≠ .orphan := by rw [heq]; rwa [← hu.hifState] at ho
  rw [chanAdvance_of_owned hhif, hchan]
  refine ⟨chan_setChan _ _ _ hsort, fun k hk => ?_, rfl, leftDescriptor_hostMem ch s, ?_, ?_⟩
  · rw [chan_setChan_other _ _ _ _ hsort hk, hchan]
  · exact (congrArg State.newts heq).trans hu.newts
  · exact (congrArg State.sync heq).trans hu.sync

/-- Settles O40: RESUME and ABANDON of a stopped channel, by whether a bus error stands and whether descriptors are left. -/
theorem stoppedChannelLeaves : Obligations.StoppedChannelLeaves := by
  unfold Obligations.StoppedChannelLeaves
  intro ch s hwf hup hst c
  have hs := hwf.sound.chans
  refine ⟨fun hb => ⟨?_, ?_⟩, fun hb hzero => ?_, fun hb hcount => ?_, fun hb hcount ho => ?_⟩
  · rw [exec_resume hup, dmaResume_of_busError hb]
  · rw [exec_abandon hup, dmaAbandon_of_busError hb]
  · refine ⟨_, _, (exec_resume hup).trans (by rw [dmaResume_of_stopped hb hst]),
      (exec_abandon hup).trans (by rw [dmaAbandon_of_stopped hb hst, abandonOp_of_none hzero]), ?_, ?_, rfl, rfl⟩
    · rw [chan_setChan _ _ _ hs]
      exact if_pos hzero
    · rw [chan_setChan _ _ _ hs]
  · have hown : chan (setChan ch.val (resumed c) s) ch.val = { c with state := .run, cur := none, readback := false } := by
      rw [chan_setChan _ _ _ hs, resumed, if_neg hcount.ne']
    have hother (k : Nat) (hk : k ≠ ch.val) : chan (setChan ch.val (resumed c) s) k = chan s k :=
      chan_setChan_other _ _ _ _ hs hk
    have htakes : chanTakes ch.val (setChan ch.val (resumed c) s) = true :=
      chanTakes_of_running hup hb (by rw [hown]) (by rw [hown]) (by rwa [hown])
    refine ⟨_, (exec_resume hup).trans (by rw [dmaResume_of_stopped hb hst]), hown, hother, rfl, htakes, fun d hd ha => ?_,
      fun d hop hok harr hleaf => ?_⟩
    · have halloc : (chan (setChan ch.val (resumed c) s) ch.val).alloc = c.alloc := by rw [hown]
      rw [chanTake_of_taken hd (by rwa [halloc]), halloc]
    · obtain ⟨u, hu, hafter⟩ := barr_again (s := setChan ch.val (resumed c) s)
        (tsorted_tset _ hs _ _) hwf.objs_sorted htakes hop hok
        (by rw [hown]; exact harr) hleaf
      exact ⟨u, (exec_dmaBarr hop).trans (congrArg _ hu), hafter⟩
  · obtain ⟨hown, hother, hpool, hhost, hnewts, hsync⟩ := abandonOp_abandoned hs ho hcount
    refine ⟨abandonOp ch.val true s, (exec_abandon hup).trans (by rw [dmaAbandon_of_stopped hb hst]), by rw [hown]; rfl,
      by rw [hown]; rfl, by rw [hown]; rfl, ?_, hother, hhost, fun ha => ?_, fun b ha hb howner => ?_, hnewts, hsync⟩
    · have hone : c.count - 1 = 0 ↔ c.count = 1 := by omega
      rw [hown]
      show (if c.count - 1 = 0 then DmaState.idle else .run) = _
      simp only [hone]
    · rw [hpool, leftDescriptor_pool_of_none ha]
    · rw [hpool, leftDescriptor_bufs_of_held ha hb howner]

end Sys2Proof.Machine

end

section

/-! ## WAIT, SIG and BARR descriptors (O52) -/

namespace Sys2Proof.Machine

-- One thread for the section's proofs, as in the section on O5.
set_option Elab.async false

/-! Writes of one channel around the operations of the sync-object unit. -/

theorem setChan_setChan {s : State} (hs : tsorted s.dma.chans) (ch : Nat) (v w : DmaCh) :
    setChan ch w (setChan ch v s) = setChan ch w s := by
  simp only [setChan, tset_tset _ hs]

theorem modChan_setChan {s : State} (hs : tsorted s.dma.chans) (ch : Nat) (f : DmaCh → DmaCh) (v : DmaCh) :
    modChan ch f (setChan ch v s) = setChan ch (f v) s := by
  rw [modChan, chan_setChan _ _ _ hs, setChan_setChan hs]

/-- What the release of a wait makes of a channel. -/
def releasedChan (c : DmaCh) : DmaCh := { c with readback := true, state := if c.state = .wait then .run else c.state }

theorem releasedChan_of_running {c : DmaCh} (h : c.state = .run) : releasedChan c = { c with readback := true } := by
  simp [releasedChan, h]

theorem releaseAgent_dma {ch : Nat} (h : ch < 64) (s : State) : releaseAgent (agentDma ch) s = modChan ch releasedChan s := by
  have hmod : agentDma ch % 64 = ch := by
    unfold agentDma
    omega
  rw [releaseAgent, if_neg (by unfold agentDma; omega), if_pos (by unfold agentDma; omega), hmod]
  rfl

theorem leafOf_dma {ch : Nat} (h : ch < 64) : leafOf (agentDma ch) = 2048 + ch := by
  unfold leafOf agentDma
  rw [if_neg (by omega), if_pos (by omega)]
  omega

theorem run_of_chanTakes {ch : Nat} {s : State} (h : chanTakes ch s = true) : (chan s ch).state = .run := by
  simp only [chanTakes, Bool.and_eq_true, beq_iff_eq] at h
  obtain ⟨⟨⟨⟨-, hrun⟩, -⟩, -⟩, -⟩ := h
  exact hrun

/-! Arrivals of any agent at an on-chip barrier that no agent waits on (R170, R171). -/

section ArriveAs

variable {o agent : Nat} {s : State} (hobjs : tsorted s.sync.objs) (hlines : tsorted s.sync.lines) (hkind : (obj s o).kind = 2)
  (hfabric : (obj s o).fabric = false) (hnone : (obj s o).waiters = []) (hmask : leafOf agent ∈ (bline s (obj s o).bl).mask)

/-- The chip once the leaf of an agent has arrived and the agent waits. -/
def arrivedAs (o agent : Nat) (s : State) : State :=
  setObj o { obj s o with waiters := [{ agent := agent, d := 0 }] } (setBline (obj s o).bl
    { bline s (obj s o).bl with arrived := insertNat (bline s (obj s o).bl).arrived (leafOf agent) } s)

/-- The chip once the line of a barrier object has completed. -/
def lineTurned (o : Nat) (s : State) : State :=
  setObj o { obj s o with prod := ((obj s o).prod + 1) % 2 ^ 64 } (setBline (obj s o).bl
    { bline s (obj s o).bl with out := !(bline s (obj s o).bl).out, arrived := [] } s)

/-- The chip once a leaf that stood arrived has toggled back. -/
def leafBack (o leaf : Nat) (s : State) : State :=
  setObj o (obj s o) (setBline (obj s o).bl
    { bline s (obj s o).bl with arrived := (bline s (obj s o).bl).arrived.filter (fun i => decide (i ≠ leaf)) } s)

include hkind hnone hmask

theorem barrArrive_of_fresh (hfresh : leafOf agent ∉ (bline s (obj s o).bl).arrived) :
    barrArrive o agent s = (lineCheck o (arrivedAs o agent s), none) := by
  unfold barrArrive
  dsimp only
  rw [if_pos ⟨hkind, hmask⟩, if_neg hfresh]
  simp [modObj, hnone, arrivedAs]

theorem barrArrive_of_standing (hstands : leafOf agent ∈ (bline s (obj s o).bl).arrived) :
    barrArrive o agent s = (releaseAgent agent (leafBack o (leafOf agent) s), none) := by
  unfold barrArrive
  dsimp only
  rw [if_pos ⟨hkind, hmask⟩, if_pos hstands]
  simp only [modObj, obj_setBline, hnone, List.filter_nil, List.map_nil, List.nil_append, List.foldl_cons, List.foldl_nil]
  rw [← hnone]
  rfl

include hobjs hlines hfabric

omit hlines hkind hfabric hnone hmask in
theorem obj_arrivedAs : obj (arrivedAs o agent s) o = { obj s o with waiters := [{ agent := agent, d := 0 }] } :=
  obj_setObj _ _ _ hobjs

omit hobjs hkind hfabric hnone hmask in
theorem bline_arrivedAs : bline (arrivedAs o agent s) (obj s o).bl =
    { bline s (obj s o).bl with arrived := insertNat (bline s (obj s o).bl).arrived (leafOf agent) } :=
  bline_setBline _ _ _ hlines

theorem barrArrive_of_missing (hfresh : leafOf agent ∉ (bline s (obj s o).bl).arrived)
    (hmissing : ∃ i, i ∈ (bline s (obj s o).bl).mask ∧ i ≠ leafOf agent ∧ i ∉ (bline s (obj s o).bl).arrived) :
    barrArrive o agent s = (arrivedAs o agent s, none) := by
  have hnot : lineFull (bline (arrivedAs o agent s) (obj s o).bl) = false := by
    obtain ⟨i, him, hin, hia⟩ := hmissing
    rw [bline_arrivedAs hlines, lineFull, List.all_eq_false]
    exact ⟨i, him, by simp [mem_insertNat, hin, hia]⟩
  rw [barrArrive_of_fresh hkind hnone hmask hfresh, lineCheck, obj_arrivedAs hobjs]
  simp [hfabric, hnot]

theorem barrArrive_of_last (hfresh : leafOf agent ∉ (bline s (obj s o).bl).arrived)
    (hall : ∀ i, i ∈ (bline s (obj s o).bl).mask → i = leafOf agent ∨ i ∈ (bline s (obj s o).bl).arrived) :
    barrArrive o agent s = (releaseAgent agent (lineTurned o s), none) := by
  have hfull : lineFull (bline (arrivedAs o agent s) (obj s o).bl) = true := by
    rw [bline_arrivedAs hlines, lineFull, List.all_eq_true]
    intro i hi
    simpa [mem_insertNat] using hall i hi
  have hturned : lineTurned o s = setObj o { obj s o with prod := ((obj s o).prod + 1) % 2 ^ 64, waiters := [] }
      (setBline (obj s o).bl { bline (arrivedAs o agent s) (obj s o).bl with out := !(bline s (obj s o).bl).out, arrived := [] }
        (arrivedAs o agent s)) := by
    rw [bline_arrivedAs hlines]
    simp only [lineTurned, arrivedAs, setObj, setBline, tset_tset _ hobjs, tset_tset _ hlines, hnone]
  rw [barrArrive_of_fresh hkind hnone hmask hfresh, lineCheck, obj_arrivedAs hobjs, if_neg (by simp [hfabric]), if_pos hfull,
    hturned, lineRelease, obj_arrivedAs hobjs, bline_arrivedAs hlines]
  rfl

end ArriveAs

/-! The three operations, by what the unit answers. -/

theorem dmaWaitOp_of_passed {ch : Nat} {d : List Byte} {s t : State}
    (h : syncWait (dObj d) (agentDma ch) (dCount d) s = (t, none))
    (hr : (chan t ch).readback = true) : dmaWaitOp ch d s = t := by
  rw [dmaWaitOp, h]
  exact if_pos hr

theorem dmaWaitOp_of_waiting {ch : Nat} {d : List Byte} {s t : State}
    (h : syncWait (dObj d) (agentDma ch) (dCount d) s = (t, none))
    (hr : (chan t ch).readback = false) : dmaWaitOp ch d s = modChan ch (fun c => { c with state := .wait }) t := by
  rw [dmaWaitOp, h]
  exact if_neg (by simp [hr])

theorem dmaSigOp_of_applied {ch : Nat} {d : List Byte} {s t : State}
    (h : signalLocal (dObj d) (dCount d) (agentDma ch) 0 s = (t, none)) : dmaSigOp ch d s = chanDone ch d t := by
  rw [dmaSigOp, h]

/-- The channel of a BARR that arrives for the first time. -/
def arriving (ch : Nat) (s : State) : State := modChan ch (fun c => { c with arrived := true }) s

theorem dmaBarrOp_of_passed {ch : Nat} {d : List Byte} {s t : State} (harr : (chan s ch).arrived = false)
    (h : barrArrive (dObj d) (agentDma ch) (arriving ch s) = (t, none)) (hr : (chan t ch).readback = true) :
    dmaBarrOp ch d s = t := by
  rw [dmaBarrOp.eq_def]
  extract_lets o wait
  rw [if_neg (by simp [harr])]
  rw [arriving] at h
  rw [h]
  exact if_pos hr

theorem dmaBarrOp_of_waiting {ch : Nat} {d : List Byte} {s t : State} (harr : (chan s ch).arrived = false)
    (h : barrArrive (dObj d) (agentDma ch) (arriving ch s) = (t, none)) (hr : (chan t ch).readback = false) :
    dmaBarrOp ch d s = modChan ch (fun c => { c with state := .wait }) t := by
  rw [dmaBarrOp.eq_def]
  extract_lets o wait
  rw [if_neg (by simp [harr])]
  rw [arriving] at h
  rw [h]
  exact if_neg (by simp [hr])

theorem exec_dmaWait {ch : Fin 64} {d : List Byte} {s : State} (hop : dOp d = 4) :
    exec (.dmaWait ch d) s = .next (chanRun ch.val d (dmaWaitOp ch.val d) s) := congrArg _ (if_pos hop)

theorem exec_dmaSig {ch : Fin 64} {d : List Byte} {s : State} (hop : dOp d = 5) :
    exec (.dmaSig ch d) s = .next (chanRun ch.val d (dmaSigOp ch.val d) s) := congrArg _ (if_pos hop)

/-- The channel that holds descriptor `d`. -/
def heldChan (d : List Byte) (c : DmaCh) : DmaCh := { c with cur := some d, readback := false }

/-- The channel that holds the BARR descriptor `d` and has arrived. -/
def arrivedChan (d : List Byte) (c : DmaCh) : DmaCh := { c with cur := some d, readback := false, arrived := true }

section Taken

variable {ch : Nat} {d : List Byte} {s : State} (hch : ch < 64) (hs : tsorted s.dma.chans) (hobjs : tsorted s.sync.objs)

include hs hobjs

/-- A WAIT whose D is not available registers its channel, which waits. -/
theorem dmaWaitOp_registers (hkind : (obj s (dObj d)).kind = 1) (hproxy : (obj s (dObj d)).proxy = false)
    (hnone : (obj s (dObj d)).waiters = []) (hd : 1 ≤ dCount d ∧ dCount d ≤ 65535) (h : avail (obj s (dObj d)) < dCount d) :
    dmaWaitOp ch d (holding ch d s) = setChan ch { heldChan d (chan s ch) with state := .wait }
      (setObj (dObj d) { obj s (dObj d) with waiters := [{ agent := agentDma ch, d := dCount d }] } s) := by
  have hwait := syncWait_registers (s := holding ch d s) (agent := agentDma ch) hobjs hkind hproxy hnone hd h
  rw [dmaWaitOp_of_waiting hwait (congrArg DmaCh.readback (chan_holding hs d))]
  exact modChan_setChan
    (s := setObj (dObj d) { obj s (dObj d) with waiters := [{ agent := agentDma ch, d := dCount d }] } s)
    hs ch _ (heldChan d (chan s ch))

include hch

/-- A WAIT whose D is available takes it. -/
theorem dmaWaitOp_takes (hkind : (obj s (dObj d)).kind = 1) (hproxy : (obj s (dObj d)).proxy = false)
    (hnone : (obj s (dObj d)).waiters = []) (hd : 1 ≤ dCount d ∧ dCount d ≤ 65535) (h : dCount d ≤ avail (obj s (dObj d))) :
    dmaWaitOp ch d (holding ch d s) = setChan ch (releasedChan (heldChan d (chan s ch)))
      (setObj (dObj d) { obj s (dObj d) with cons := ((obj s (dObj d)).cons + dCount d) % 2 ^ 64 } s) := by
  have hwait := syncWait_takes (s := holding ch d s) (agent := agentDma ch) hobjs hkind hproxy hnone hd h
  rw [releaseAgent_dma hch] at hwait
  have hafter := modChan_setChan
    (s := setObj (dObj d) { obj s (dObj d) with cons := ((obj s (dObj d)).cons + dCount d) % 2 ^ 64 } s)
    hs ch releasedChan (heldChan d (chan s ch))
  refine (dmaWaitOp_of_passed hwait ?_).trans hafter
  exact (congrArg (fun t => (chan t ch).readback) hafter).trans (congrArg DmaCh.readback (chan_setChan _ _ _ (by exact hs)))

end Taken

section TakenBarr

variable {ch : Nat} {d : List Byte} {s : State} (hch : ch < 64) (hs : tsorted s.dma.chans) (hobjs : tsorted s.sync.objs)
  (hlines : tsorted s.sync.lines) (harr : (chan s ch).arrived = false)
  (hkind : (obj s (dObj d)).kind = 2) (hfabric : (obj s (dObj d)).fabric = false) (hnone : (obj s (dObj d)).waiters = [])
  (hmask : 2048 + ch ∈ (bline s (obj s (dObj d)).bl).mask)

include hs

theorem arriving_holding : arriving ch (holding ch d s) = setChan ch (arrivedChan d (chan s ch)) s :=
  modChan_setChan hs ch _ (heldChan d (chan s ch))

include hch harr

/-- A BARR whose arrival passes at once leaves its channel released in what the unit has made of the chip. -/
theorem dmaBarrOp_passes {x : State} (hx : tsorted x.dma.chans)
    (h : barrArrive (dObj d) (agentDma ch) (setChan ch (arrivedChan d (chan s ch)) s) =
      (releaseAgent (agentDma ch) (setChan ch (arrivedChan d (chan s ch)) x), none)) :
    dmaBarrOp ch d (holding ch d s) = setChan ch (releasedChan (arrivedChan d (chan s ch))) x := by
  rw [releaseAgent_dma hch, modChan_setChan hx, ← arriving_holding hs] at h
  exact dmaBarrOp_of_passed ((congrArg DmaCh.arrived (chan_holding hs d)).trans harr) h
    (congrArg DmaCh.readback (chan_setChan _ _ _ hx))

include hobjs hlines hkind hfabric hnone hmask

theorem dmaBarrOp_waits (hfresh : 2048 + ch ∉ (bline s (obj s (dObj d)).bl).arrived)
    (hmissing : ∃ i, i ∈ (bline s (obj s (dObj d)).bl).mask ∧ i ≠ 2048 + ch ∧ i ∉ (bline s (obj s (dObj d)).bl).arrived) :
    dmaBarrOp ch d (holding ch d s) =
      setChan ch { arrivedChan d (chan s ch) with state := .wait } (arrivedAs (dObj d) (agentDma ch) s) := by
  rw [← leafOf_dma hch] at hmask hfresh hmissing
  have h := barrArrive_of_missing (s := setChan ch (arrivedChan d (chan s ch)) s)
    hobjs hlines hkind hfabric hnone hmask hfresh hmissing
  rw [← arriving_holding hs] at h
  rw [dmaBarrOp_of_waiting ((congrArg DmaCh.arrived (chan_holding hs d)).trans harr) h]
  · rw [arriving_holding hs]
    exact modChan_setChan (s := arrivedAs (dObj d) (agentDma ch) s) hs ch _ (arrivedChan d (chan s ch))
  · rw [arriving_holding hs]
    exact congrArg DmaCh.readback (chan_setChan ch (arrivedChan d (chan s ch)) (arrivedAs (dObj d) (agentDma ch) s) hs)

theorem dmaBarrOp_completes (hfresh : 2048 + ch ∉ (bline s (obj s (dObj d)).bl).arrived)
    (hall : ∀ i, i ∈ (bline s (obj s (dObj d)).bl).mask → i = 2048 + ch ∨ i ∈ (bline s (obj s (dObj d)).bl).arrived) :
    dmaBarrOp ch d (holding ch d s) = setChan ch (releasedChan (arrivedChan d (chan s ch))) (lineTurned (dObj d) s) := by
  rw [← leafOf_dma hch] at hmask hfresh hall
  exact dmaBarrOp_passes hch hs harr (x := lineTurned (dObj d) s) hs
    (barrArrive_of_last (s := setChan ch (arrivedChan d (chan s ch)) s) hobjs hlines hkind hfabric hnone hmask hfresh hall)

omit hobjs hlines hfabric in
theorem dmaBarrOp_toggles (hstands : 2048 + ch ∈ (bline s (obj s (dObj d)).bl).arrived) :
    dmaBarrOp ch d (holding ch d s) =
      setChan ch (releasedChan (arrivedChan d (chan s ch))) (leafBack (dObj d) (2048 + ch) s) := by
  rw [← leafOf_dma hch] at hmask hstands ⊢
  exact dmaBarrOp_passes hch hs harr (x := leafBack (dObj d) (leafOf (agentDma ch)) s) hs
    (barrArrive_of_standing (s := setChan ch (arrivedChan d (chan s ch)) s) hkind hnone hmask hstands)

end TakenBarr

/-- Settles O52: each descriptor holds its channel, and the unit's answer is put down to the one channel and the one object. -/
theorem dmaSyncDescriptors : Obligations.DmaSyncDescriptors := by
  unfold Obligations.DmaSyncDescriptors
  intro ch d s hwf htakes hcheck c o l
  have hs := hwf.sound.chans
  have hobjs := hwf.objs_sorted
  have hlines := hwf.lines_sorted
  have hrun := run_of_chanTakes htakes
  have hreleased (e : DmaCh) (he : e.state = c.state) : releasedChan e = { e with readback := true } :=
    releasedChan_of_running (he.trans hrun)
  refine ⟨fun hop h1 h2 hkind hproxy hnone => ?_, fun hop h1 h2 hkind hproxy hcounted hnone hroom => ?_,
    fun hop harr hkind hfabric hnone hmask hfresh => ?_, fun hop harr hkind hfabric hnone hmask hstands => ?_⟩
  · have hexec : exec (.dmaWait ch d) s = .next (dmaWaitOp ch.val d (holding ch.val d s)) := by
      rw [exec_dmaWait hop, chanRun_of_takes htakes hcheck (chanWaits_of_op (.inr (by omega)))]
    rcases Nat.lt_or_ge (avail o) (dCount d) with hless | henough
    · rw [dmaWaitOp_registers hs hobjs hkind hproxy hnone ⟨h1, h2⟩ hless] at hexec
      exact ⟨_, hexec, fun k hk => chan_setChan_other _ _ _ _ (by exact hs) hk,
        fun k hk => obj_setObj_other _ _ _ _ hobjs hk, rfl,
        fun h => by omega, fun _ => ⟨obj_setObj _ _ _ hobjs, chan_setChan _ _ _ (by exact hs)⟩⟩
    · rw [dmaWaitOp_takes ch.isLt hs hobjs hkind hproxy hnone ⟨h1, h2⟩ henough, hreleased _ (by rfl)] at hexec
      exact ⟨_, hexec, fun k hk => chan_setChan_other _ _ _ _ (by exact hs) hk,
        fun k hk => obj_setObj_other _ _ _ _ hobjs hk, rfl,
        fun _ => ⟨obj_setObj _ _ _ hobjs, chan_setChan _ _ _ (by exact hs)⟩, fun h => by omega⟩
  · have hsig := signalLocal_adds (s := holding ch.val d s) (agent := agentDma ch.val) (pc := 0)
      hobjs hkind hproxy hcounted hnone
      ⟨h1, h2⟩ hroom
    rw [exec_dmaSig hop, chanRun_of_takes htakes hcheck (chanWaits_of_op (.inr (by omega))), dmaSigOp_of_applied hsig]
    rfl
  · have hexec : exec (.dmaBarr ch d) s = .next (dmaBarrOp ch.val d (holding ch.val d s)) := by
      rw [exec_dmaBarr hop, chanRun_of_takes htakes hcheck (chanWaits_of_op (.inr (by omega)))]
    by_cases hmissing : ∃ i, i ∈ l.mask ∧ i ≠ 2048 + ch.val ∧ i ∉ l.arrived
    · rw [dmaBarrOp_waits ch.isLt hs hobjs hlines harr hkind hfabric hnone hmask hfresh hmissing] at hexec
      have hline :
          bline (setChan ch.val { arrivedChan d c with state := .wait } (arrivedAs (dObj d) (agentDma ch.val) s)) o.bl =
          { l with arrived := insertNat l.arrived (leafOf (agentDma ch.val)) } := bline_arrivedAs hlines
      refine ⟨_, hexec, fun k hk => chan_setChan_other _ _ _ _ (by exact hs) hk,
        fun k hk => obj_setObj_other _ _ _ _ (by exact hobjs) hk,
        rfl, fun _ => ⟨chan_setChan _ _ _ (by exact hs), obj_arrivedAs hobjs, ?_, by rw [hline]⟩, fun hall => ?_⟩
      · rw [hline, leafOf_dma ch.isLt, mem_insertNat]
        exact .inl rfl
      · obtain ⟨i, him, hi, hia⟩ := hmissing
        exact absurd (hall i him) (by simp [hi, hia])
    · have hall : ∀ i, i ∈ l.mask → i = 2048 + ch.val ∨ i ∈ l.arrived := fun i hi => by
        by_contra hno
        exact hmissing ⟨i, hi, by tauto⟩
      rw [dmaBarrOp_completes ch.isLt hs hobjs hlines harr hkind hfabric hnone hmask hfresh hall, hreleased _ (by rfl)] at hexec
      have hline : bline (setChan ch.val { arrivedChan d c with readback := true } (lineTurned (dObj d) s)) o.bl =
          { l with out := !l.out, arrived := [] } := bline_setBline _ _ _ hlines
      exact ⟨_, hexec, fun k hk => chan_setChan_other _ _ _ _ (by exact hs) hk,
        fun k hk => obj_setObj_other _ _ _ _ (by exact hobjs) hk,
        rfl, fun h => absurd h hmissing,
        fun _ => ⟨chan_setChan _ _ _ (by exact hs), obj_setObj _ _ _ (by exact hobjs), by rw [hline], by rw [hline]⟩⟩
  · have hexec : exec (.dmaBarr ch d) s = .next (dmaBarrOp ch.val d (holding ch.val d s)) := by
      rw [exec_dmaBarr hop, chanRun_of_takes htakes hcheck (chanWaits_of_op (.inr (by omega)))]
    rw [dmaBarrOp_toggles ch.isLt hs harr hkind hnone hmask hstands, hreleased _ (by rfl)] at hexec
    refine ⟨_, hexec, fun k hk => chan_setChan_other _ _ _ _ (by exact hs) hk, fun k => ?_, chan_setChan _ _ _ (by exact hs),
      bline_setBline _ _ _ hlines, rfl⟩
    rcases eq_or_ne k (dObj d) with rfl | hk
    · exact obj_setObj _ _ _ (by exact hobjs)
    · exact obj_setObj_other _ _ _ _ (by exact hobjs) hk

end Sys2Proof.Machine

end

section

/-! ## POOL_FREE, POOL_CARVE and the end of a list rebuild (O39) -/

namespace Sys2Proof.Machine

-- One thread for the section's proofs, as in the section on O5.
set_option Elab.async false

/-! Stores into poisoned blocks, and bytes that a store leaves. -/

/-- A store over part of a poisoned block. -/
def coversPart (s : State) (a n : Nat) : Prop :=
  ∃ b ∈ s.lov.poison, 64 * b < a + n ∧ a < 64 * b + 64 ∧ (64 * b < a ∨ a + n < 64 * b + 64)

theorem lovStore_of_whole {a : Nat} {bs : List Byte} {s : State} (h : ¬ coversPart s a bs.length) :
    lovStore a bs s = lovWrite a bs s := by
  have hnone : s.lov.poison.filter (fun b => decide (64 * b < a + bs.length ∧ a < 64 * b + 64 ∧
      (64 * b < a ∨ a + bs.length < 64 * b + 64))) = [] :=
    List.filter_eq_nil_iff.mpr fun b hb hpart => h ⟨b, hb, by simpa using hpart⟩
  rw [lovStore, hnone]
  rfl

theorem stkUe_raises (a : Nat) {s : State} (hup : up s = true) : (rasRec (stkUe a s) 0x0D01).set = true :=
  rasRec_raise_code 0x0D01 rfl (by exact hup) (by decide)

theorem foldl_stkUe_raises {l : List Nat} (hl : l ≠ []) {s : State} (hup : up s = true) (hs : tsorted s.ras.recs) :
    (rasRec (l.foldl (fun t b => stkUe (64 * b) t) s) 0x0D01).set = true := by
  cases l with
  | nil => exact absurd rfl hl
  | cons b r =>
    have hrest : BesideKept (stkUe (64 * b) s) (r.foldl (fun t b => stkUe (64 * b) t) (stkUe (64 * b) s)) :=
      .foldl (fun t b => stkUe_besideKept (64 * b) t) _ _
    exact hrest.records.set ((stkUe_besideKept (64 * b) s).records.sorted hs) _ (stkUe_raises _ hup)

theorem lovStore_raises {a : Nat} {bs : List Byte} {s : State} (h : coversPart s a bs.length) (hup : up s = true)
    (hs : tsorted s.ras.recs) : (rasRec (lovStore a bs s) 0x0D01).set = true := by
  obtain ⟨b, hb, hpart⟩ := h
  exact foldl_stkUe_raises (List.ne_nil_of_mem (List.mem_filter.mpr ⟨hb, by simpa using hpart⟩)) (s := lovWrite a bs s) hup hs

/-- Fewer than 64 bytes cover no block whole. -/
theorem coversPart_of_poisoned {s : State} {a n : Nat} (h : poisoned s a n = true) (hn : n < 64) : coversPart s a n := by
  simp only [poisoned, List.any_eq_true, decide_eq_true_eq] at h
  obtain ⟨b, hb, h1, h2⟩ := h
  exact ⟨b, hb, h1, h2, by omega⟩

theorem not_coversPart_of_clear {s : State} {a n : Nat} (h : poisoned s a n = false) : ¬ coversPart s a n := by
  rintro ⟨b, hb, h1, h2, -⟩
  simp only [poisoned, List.any_eq_false, decide_eq_true_eq] at h
  exact h b hb ⟨h1, h2⟩

theorem memRead_memWrite {m : Mem} (hm : memWf m = true) (a : Nat) (bs : List Byte) :
    memRead (memWrite m a bs) a bs.length = bs := by
  rw [memRead_eq_map (sorted_of_memWf (memWf_memWrite hm a bs))]
  refine List.ext_getElem (by simp) fun i h1 h2 => ?_
  rw [List.getElem_map, List.getElem_range, memByte_memWrite_in (sorted_of_memWf hm) a bs (a + i) (by omega) (by omega),
    Nat.add_sub_cancel_left, List.getD_eq_getElem _ _ h2]

/-! A free (R400). -/

/-- Where a half's bitmap segment begins. -/
def listEnd (s : State) (h : Nat) : Nat := halfBase s h + halfList s h * poolBuf (h % 7)

/-- The chip once buffer `b` is not held. -/
def unheld (b : Buf) (s : State) : State :=
  { s with pool := { s.pool with bufs := s.pool.bufs.filter (fun c => decide (c.addr ≠ b.addr)) } }

theorem bufFree_of_bitmap {b : Buf} {s : State} (h : listEnd s b.half ≤ b.addr) : bufFree b s = unheld b s :=
  if_neg (Nat.not_lt.mpr h)

/-- The chip once the link of the list buffer `b` is written. -/
def linked (b : Buf) (s : State) : State := lovStore b.addr (leBytes 8 ((listHead s b.half).headD 0)) (unheld b s)

theorem bufFree_of_list {b : Buf} {s : State} (h : b.addr < listEnd s b.half) : bufFree b s =
    { linked b s with pool := { (linked b s).pool with
        order := tset [] (linked b s).pool.order b.half (b.addr :: tget [] (linked b s).pool.order b.half) } } := if_pos h

theorem bufFree_order {b : Buf} {s : State} (h : b.addr < listEnd s b.half) :
    tget [] (bufFree b s).pool.order b.half = b.addr :: tget [] s.pool.order b.half := by
  have hpool : (linked b s).pool = (unheld b s).pool := lovStore_pool _ _ _
  rw [bufFree_of_list h, hpool]
  exact tget_tset_ne_default _ _ _ _ (List.cons_ne_nil _ _)

theorem bufFree_raises {b : Buf} {s : State} (h : b.addr < listEnd s b.half) (hp : poisoned s b.addr 8 = true)
    (hup : up s = true)
    (hs : tsorted s.ras.recs) : (rasRec (bufFree b s) 0x0D01).set = true := by
  rw [bufFree_of_list h]
  refine lovStore_raises (s := unheld b s) ?_ hup hs
  rw [leBytes_length]
  exact coversPart_of_poisoned (s := unheld b s) hp (by decide)

theorem bufFree_mem {b : Buf} {s : State} (h : b.addr < listEnd s b.half) (hp : poisoned s b.addr 8 = false) :
    (bufFree b s).lov.mem = memWrite s.lov.mem b.addr (leBytes 8 ((listHead s b.half).headD 0)) := by
  rw [bufFree_of_list h]
  refine congrArg (fun t : State => t.lov.mem) (lovStore_of_whole (s := unheld b s) ?_)
  rw [leBytes_length]
  exact not_coversPart_of_clear (s := unheld b s) hp

theorem exec_poolFree {w : Word} {s : State} (hup : up s = true) : exec (.poolFree w) s =
    .next (poolFree' (bits w.toNat 37 0) (fun o => decide (o < 64)) 0 s).1 := whenUp_of_up (poolFreeWrite w.toNat) hup

/-! A carve (R397). -/

/-- The size that a carve write of `size` to half `h` gives the pools of its die. -/
def carvedTotal (h size : Nat) (s : State) : Nat :=
  ((List.range 7).map (fun i => if 7 * (h / 7) + i = h then size else halfSize s (7 * (h / 7) + i))).sum

/-- Whether a carve write of `w` to half `h` is refused. -/
def CarveRefused (h w : Nat) (s : State) : Prop :=
  s.pool.bufs.any (fun b => decide (b.half / 7 = h / 7)) = true ∨ poolArea s < carvedTotal h (bits w 17 0) s ∨ 8 < bits w 21 18

/-- A table of the halves without those of die `d`. -/
def clearDie {α : Type} (d : Nat) (t : Table α) : Table α := t.filter (fun e => decide (e.1 / 7 ≠ d))

/-- The chip with half `h` carved anew, before the links are cleared. -/
def carved (h w : Nat) (s : State) : State :=
  { s with pool := { s.pool with
      size := tset 0 s.pool.size h (bits w 17 0), list := tset 0 s.pool.list h (bits w 21 18)
      order := clearDie (h / 7) s.pool.order, front := clearDie (h / 7) s.pool.front,
      rebuild := clearDie (h / 7) s.pool.rebuild } }

theorem carveWrite_of_refused {h w : Nat} {s : State} (hr : CarveRefused h w s) :
    carveWrite h w s = raise (poolOcc 0x0305 0x910 (h % 7) 0 (2 ^ 20 * bits w 17 0) s) s := by
  refine if_pos ?_
  simp only [Bool.or_eq_true, decide_eq_true_eq, or_assoc]
  exact hr

theorem carveWrite_of_accepted {h w : Nat} {s : State} (hr : ¬ CarveRefused h w s) :
    carveWrite h w s = freshLinks (h / 7) (carved h w s) := by
  refine if_neg ?_
  simp only [Bool.or_eq_true, decide_eq_true_eq, or_assoc]
  exact hr

theorem memByte_freshLinks (d a : Nat) (s : State) :
    memByte (freshLinks d s).lov.mem a = if inListLink s d a then 0 else memByte s.lov.mem a := by
  refine (tget_filter 0 s.lov.mem (fun k => !inListLink s d k) a).trans ?_
  cases inListLink s d a <;> rfl

theorem exec_poolCarve {d : Fin 2} {p : Fin 7} {w : Word} {s : State} (hup : up s = true) :
    exec (.poolCarve d p w) s = .next (carveWrite (7 * d.val + p.val) w.toNat s) :=
  whenUp_of_up (carveWrite (7 * d.val + p.val) w.toNat) hup

/-! A rebuild (R402). -/

/-- The freed buffers of a half in rising address. -/
def freedInOrder (h : Nat) (s : State) : List Nat :=
  ((List.range (tget 0 s.pool.front h)).map (fun i => halfBase s h + i * poolBuf (h % 7))).filter (fun a => !bufHeld s a)

/-- The chip once the list of half `h` is in order, before its links are written. -/
def reordered (h : Nat) (s : State) : State :=
  { s with pool := { s.pool with
      order := tset [] s.pool.order h (freedInOrder h s), rebuild := tset false s.pool.rebuild h false } }

/-- The links that a rebuild writes: each freed buffer and the next. -/
def rebuiltLinks (h : Nat) (s : State) : List (Nat × Nat) :=
  (freedInOrder h s).zip ((freedInOrder h s).drop 1 ++ [if tget 0 s.pool.front h < halfList s h then
    halfBase s h + tget 0 s.pool.front h * poolBuf (h % 7) else 0])

theorem listRebuild_eq (h : Nat) (s : State) : listRebuild h s =
    (rebuiltLinks h s).foldl (fun t e => lovStore e.1 (leBytes 8 e.2) t) (threadFresh h (reordered h s)) := rfl

theorem threadFresh_pool (h : Nat) (s : State) : (threadFresh h s).pool = s.pool := by
  rw [threadFresh.eq_def]
  extract_lets b e link
  exact foldl_field State.pool _ (fun t k => stkUe_pool (64 * k) t) _ _

theorem listRebuild_pool (h : Nat) (s : State) : (listRebuild h s).pool = (reordered h s).pool := by
  have hstores := foldl_field State.pool _ (fun t (e : Nat × Nat) => lovStore_pool e.1 (leBytes 8 e.2) t) (rebuiltLinks h s)
    (threadFresh h (reordered h s))
  exact hstores.trans (threadFresh_pool h _)

/-- Without a poisoned block a row of stores changes bytes only. -/
theorem foldl_lovStore_clean (l : List (Nat × Nat)) {s : State} (hp : s.lov.poison = []) :
    l.foldl (fun t e => lovStore e.1 (leBytes 8 e.2) t) s =
      { s with lov := { s.lov with mem := (l.foldl (fun t e => lovStore e.1 (leBytes 8 e.2) t) s).lov.mem } } := by
  induction l generalizing s with
  | nil => rfl
  | cons e r ih =>
    have hstore : lovStore e.1 (leBytes 8 e.2) s = lovWrite e.1 (leBytes 8 e.2) s :=
      lovStore_of_whole (by simp [coversPart, hp])
    have hclean : (lovStore e.1 (leBytes 8 e.2) s).lov.poison = s.lov.poison := by simp [hstore, lovWrite, hp]
    rw [List.foldl_cons, ih (hclean.trans hp), hstore]
    simp [lovWrite, hp]

theorem threadFresh_clean (h : Nat) {s : State} (hp : s.lov.poison = []) :
    threadFresh h s = { s with lov := { s.lov with mem := (threadFresh h s).lov.mem } } := by
  rw [threadFresh.eq_def]
  extract_lets b e link
  rw [hp]
  rfl

theorem listRebuild_clean (h : Nat) {s : State} (hp : s.lov.poison = []) : listRebuild h s =
    { s with pool := (listRebuild h s).pool, lov := { s.lov with mem := (listRebuild h s).lov.mem, poison := [] } } := by
  have hthread := threadFresh_clean h (s := reordered h s) hp
  have hpoison : (threadFresh h (reordered h s)).lov.poison = [] := by rw [hthread]; exact hp
  have hstores := foldl_lovStore_clean (rebuiltLinks h s) hpoison
  rw [listRebuild_eq, hstores]
  generalize ((rebuiltLinks h s).foldl (fun t e => lovStore e.1 (leBytes 8 e.2) t) (threadFresh h (reordered h s))).lov.mem = m
  rw [hthread, ← hp]
  rfl

theorem exec_listRebuildDone {d : Fin 2} {p : Fin 7} {s : State} (hup : up s = true) : exec (.listRebuildDone d p) s =
    .next (if tget false s.pool.rebuild (7 * d.val + p.val) then listRebuild (7 * d.val + p.val) s else s) :=
  whenUp_of_up (fun s => if tget false s.pool.rebuild (7 * d.val + p.val) then listRebuild (7 * d.val + p.val) s else s) hup

/-- Settles O39: a free by the segment of its buffer, a carve by whether it is refused, and a rebuild by whether it is under
way. -/
theorem poolCommands : Obligations.PoolCommands := by
  unfold Obligations.PoolCommands
  refine ⟨fun w b s hwf hup hb howner => ?_, fun w s hup hno => ?_, fun d p w s hwf hup => ?_, fun d p s hup => ?_⟩
  · refine ⟨bufFree b s, (exec_poolFree hup).trans (by rw [poolFree'_of_held hb (by simpa using howner)]), bufFree_bufs b s,
      fun hseg => ?_, fun hlist => ⟨bufFree_order hlist, fun hp => bufFree_raises hlist hp hup hwf.sound.recs, fun hp => ?_⟩⟩
    · rw [bufFree_of_bitmap hseg]
      rfl
    · have hmem := bufFree_mem hlist hp
      refine ⟨?_, fun a ha => ?_⟩
      · have hread := memRead_memWrite hwf.sound.mem b.addr (leBytes 8 ((listHead s b.half).headD 0))
        rwa [leBytes_length, ← hmem] at hread
      · rw [hmem, memByte_memWrite_out (sorted_of_memWf hwf.sound.mem) _ _ _ (by rwa [leBytes_length])]
  · refine ⟨_, (exec_poolFree hup).trans (by rw [poolFree'_of_refused fun b hb => by simpa using hno b hb]), ?_, raise_pool _ _⟩
    exact rasRec_raise_code 0x0303 (freeOcc_code _ _ _) hup (by decide)
  · have hdie : (7 * d.val + p.val) / 7 = d.val := by omega
    refine ⟨fun hfree htotal hlist => ?_, fun hr => ?_⟩
    · have haccept : ¬ CarveRefused (7 * d.val + p.val) w.toNat s := by
        rw [CarveRefused, carvedTotal, hdie, hfree]
        simp only [Bool.false_eq_true, false_or, not_or, Nat.not_lt]
        exact ⟨htotal, hlist⟩
      refine ⟨freshLinks d.val (carved (7 * d.val + p.val) w.toNat s),
        (exec_poolCarve hup).trans (by rw [carveWrite_of_accepted haccept, hdie]), rfl, rfl, rfl, rfl, fun e he => ?_,
        fun a => memByte_freshLinks d.val a _, rfl⟩
      have hkept := (List.mem_filter.mp he).2
      rwa [hdie, decide_eq_true_eq] at hkept
    · have hrefused : CarveRefused (7 * d.val + p.val) w.toNat s := by
        rw [CarveRefused, carvedTotal, hdie]
        exact hr
      refine ⟨_, (exec_poolCarve hup).trans (by rw [carveWrite_of_refused hrefused]), ?_, raise_pool _ _⟩
      exact rasRec_raise_code 0x0305 rfl hup (by decide)
  · refine ⟨fun hoff => ?_, fun hon => ⟨listRebuild (7 * d.val + p.val) s, ?_, ?_, ?_, fun hp => listRebuild_clean _ hp⟩⟩
    · rw [exec_listRebuildDone hup, hoff]
      rfl
    · rw [exec_listRebuildDone hup, hon]
      rfl
    · rw [listRebuild_pool]
      rfl
    · rw [listRebuild_pool]
      rfl

end Sys2Proof.Machine

end

section

/-! ## Scrubbing and a stack fault (O20) -/

namespace Sys2Proof.Machine

-- One thread for the section's proofs, as in the section on O5.
set_option Elab.async false

/-! An uncorrectable read and a corrected one (R386, R387). -/

/-- A record that was clear holds the data of the occurrence that sets it. -/
theorem rasRec_raise_data {o : Occ} {s : State} (hup : up s = true) (hd : definedCode o.code = true)
    (hclear : (rasRec s o.code).set = false) : (rasRec (raise o s) o.code).rdata = occData o := by
  have hrec : rasRec (freshMark (stickyKey o) (stickyBit o.code s)) o.code = rasRec s o.code := by
    rw [rasRec, freshMark_recs, stickyBit_ras, rasRec]
  have hlatched := congrArg RasRec.rdata
    (rasRecord_latched (freshMark (stickyKey o) (stickyBit o.code s)) hd (recRaise_set _ _ _))
  rw [hrec] at hlatched
  rw [raise, if_pos hup]
  refine Eq.trans hlatched ?_
  simp [latched, recRaise, recOf, cycRaise, hclear]

/-- The chip with block `b` poisoned. -/
def poisonBlock (b : Nat) (s : State) : State := { s with lov := { s.lov with poison := insertNat s.lov.poison b } }

theorem scrub_open {b : Nat} {s : State} (hb : b < 2 ^ 32) (hkept : padKept 255 (64 * b) s = false) :
    ¬ (2 ^ 32 ≤ b ∨ padKept 255 (64 * b) s = true) := by
  rw [hkept, not_or, Nat.not_le]
  exact ⟨hb, Bool.false_ne_true⟩

theorem scrub_uncorrectable {b : Nat} {res : ReadResult} {s : State} (hopen : ¬ (2 ^ 32 ≤ b ∨ padKept 255 (64 * b) s = true))
    (hbad : res = .uncorrectable ∨ b ∈ s.lov.poison) : scrub b res s = stkUe (64 * b) (poisonBlock b s) := by
  rw [scrub, if_neg hopen, if_pos hbad]
  rfl

theorem scrub_corrected {b : Nat} {s : State} (hopen : ¬ (2 ^ 32 ≤ b ∨ padKept 255 (64 * b) s = true))
    (hgood : b ∉ s.lov.poison) : scrub b .corrected s = stkCe (64 * b) s := by
  rw [scrub, if_neg hopen, if_neg (by simp [hgood]), if_pos rfl]

theorem scrub_clean {b : Nat} {s : State} (hopen : ¬ (2 ^ 32 ≤ b ∨ padKept 255 (64 * b) s = true))
    (hgood : b ∉ s.lov.poison) : scrub b .clean s = s := by
  rw [scrub, if_neg hopen, if_neg (by simp [hgood]), if_neg (by decide)]

/-- What an uncorrectable read writes to Lovor memory, its log entry, lies in the log ring. -/
theorem stkUe_mem {a : Nat} {s : State} (hmem : memWf s.lov.mem = true) :
    (∀ b, offRing (64 * b) → (b ∈ (stkUe a s).lov.poison ↔ b ∈ s.lov.poison)) ∧
      ∀ k, offRing k → memByte (stkUe a s).lov.mem k = memByte s.lov.mem k := by
  obtain ⟨-, hpoison, -, hbytes⟩ := raise_ringOnly
    { code := 0x0D01, kind := 5, unit := a / 2 ^ 36 % 4, unit2 := bits a 12 8, d := [a] }
    (modStack (a / 2 ^ 36 % 4) (fun v => { v with ue := satAdd 0xFFFF v.ue 1 }) s)
  exact ⟨hpoison, hbytes hmem⟩

theorem stkUe_data {a : Nat} {s : State} (hup : up s = true) (hclear : (rasRec s 0x0D01).set = false) :
    (rasRec (stkUe a s) 0x0D01).rdata.headD 0 = BitVec.ofNat 64 a := by
  have hdata := rasRec_raise_data (o := { code := 0x0D01, kind := 5, unit := a / 2 ^ 36 % 4, unit2 := bits a 12 8, d := [a] })
    (s := modStack (a / 2 ^ 36 % 4) (fun v => { v with ue := satAdd 0xFFFF v.ue 1 }) s)
    hup (show definedCode 0x0D01 = true by decide) hclear
  exact congrArg (fun l => l.headD 0) hdata

theorem stkCe_counts (a : Nat) {s : State} (hs : tsorted s.lov.stk) :
    (stack (stkCe a s) (a / 2 ^ 36 % 4)).ce = ((stack s (a / 2 ^ 36 % 4)).ce + 1) % 2 ^ 32 := by
  rw [stkCe.eq_def]
  extract_lets n h v0 v
  have hset : stack (setStack n v s) n = v := tget_tset_self _ hs n v
  split
  · rw [raise_stack, hset]
  · rw [hset]

theorem mem_poison_stkCe (a : Nat) (s : State) (b : Nat) (hb : offRing (64 * b)) :
    b ∈ (stkCe a s).lov.poison ↔ b ∈ s.lov.poison := by
  rw [stkCe.eq_def]
  extract_lets n h v0 v
  split
  · exact (raise_ringOnly _ (setStack n v s)).poison b hb
  · exact Iff.rfl

theorem exec_patrolScrub {b : Nat} {res : ReadResult} {s : State} (hup : up s = true) :
    exec (.patrolScrub b res) s = .next (scrub b res s) := whenUp_of_up (scrub b res) hup

theorem exec_stkFault {st : Fin 4} {s : State} (hup : up s = true) : exec (.stkFault st) s = .next (stkFault st.val s) :=
  whenUp_of_up (stkFault st.val) hup

/-- Settles O20: a scrub by what it finds, one in a pad that is kept, and a stack fault. -/
theorem stackFaults : Obligations.StackFaults := by
  unfold Obligations.StackFaults
  refine ⟨fun b res s hwf hup hb hkept hoff => ⟨fun hbad => ?_, fun hgood => ⟨?_, ?_⟩⟩,
    fun b res s hup hout => ?_, fun st s hwf hup => ?_⟩
  · have hopen := scrub_open hb hkept
    obtain ⟨hpoison, hbytes⟩ := stkUe_mem (a := 64 * b) (s := poisonBlock b s) hwf.sound.mem
    have hbeside := stkUe_besideKept (64 * b) (poisonBlock b s)
    exact ⟨stkUe (64 * b) (poisonBlock b s), (exec_patrolScrub hup).trans (by rw [scrub_uncorrectable hopen hbad]),
      stkUe_raises _ hup,
      (hpoison b hoff).mpr (mem_insertNat.mpr (.inl rfl)), fun hclear => stkUe_data hup hclear,
      hbytes, hbeside.pending, hbeside.newts,
      hbeside.quads⟩
  · have hopen := scrub_open hb hkept
    rw [exec_patrolScrub hup, scrub_clean hopen hgood]
  · have hopen := scrub_open hb hkept
    have hbeside := stkCe_besideKept (64 * b) s
    refine ⟨_, (exec_patrolScrub hup).trans (by rw [scrub_corrected hopen hgood]),
      stkCe_counts _ hwf.sound.stk, ?_, hbeside.pending,
      hbeside.newts, hbeside.quads⟩
    simp [mem_poison_stkCe _ _ _ hoff, hgood]
  · rw [exec_patrolScrub hup, scrub, if_pos hout]
  · have hstk := hwf.sound.stk
    refine ⟨raise { code := 0x0D04, kind := 5, unit := st.val } (modStack st.val (fun v => { v with faulted := true }) s),
      exec_stkFault hup, rfl, ?_, rasRec_raise_code 0x0D04 rfl hup (by decide), fun k hk => ?_, raise_pending _ _⟩
    · rw [raise_stack]
      exact congrArg Stack.faulted (tget_tset_self _ hstk _ _)
    · rw [raise_stack]
      exact tget_tset_other _ hstk _ _ _ hk

end Sys2Proof.Machine

end

section

/-! ## Descriptors that move data, and completion (O42) -/

namespace Sys2Proof.Machine

-- One thread for the section's proofs, as in the section on O5.
set_option Elab.async false

/-! A descriptor's completion (R407). -/

theorem vector_frame (v : Nat) (s : State) :
    vector v s = { s with out := (vector v s).out, hif := { s.hif with pba := (vector v s).hif.pba } } := by
  unfold vector
  split
  · rfl
  · split <;> rfl

/-- The chip when channel `ch` has written back its descriptor `d` and advanced, before its vector. -/
def writtenBack (ch : Nat) (d : List Byte) (s : State) : State :=
  setChan ch (advancedChan { chan s ch with bytes := ((chan s ch).bytes + dLen d) % 2 ^ 64 })
    (hostWrite (descAddr (chan s ch) + 48) (zeros 8 ++ leBytes 8 (if dAlloc d then (chan s ch).alloc else 0)) s)

theorem chanDone_eq {ch : Nat} {d : List Byte} {s : State} (hs : tsorted s.dma.chans) (ho : s.hif.state ≠ .orphan) :
    chanDone ch d s = writtenBack ch d s ∨ chanDone ch d s = vector ch (writtenBack ch d s) := by
  rw [chanDone.eq_def]
  extract_lets c res s1 s2 s3
  have h2 : s2 = setChan ch { c with bytes := (c.bytes + dLen d) % 2 ^ 64 } s1 := rfl
  have h3 : s3 = writtenBack ch d s := by
    have hchan : chan s2 ch = { c with bytes := (c.bytes + dLen d) % 2 ^ 64 } := chan_setChan _ _ _ (by exact hs)
    have hadv : s3 = setChan ch (advancedChan (chan s2 ch)) s2 := chanAdvance_of_owned (by exact ho)
    rw [hadv, hchan, h2, setChan_setChan (by exact hs)]
    rfl
  rw [h3]
  split
  · exact .inr rfl
  · exact .inl rfl

/-- The vector aside, a completion is the write-back. -/
structure WroteBack (ch : Nat) (d : List Byte) (s t : State) : Prop where
  dma : t.dma = (writtenBack ch d s).dma
  hostMem : t.hostMem = (writtenBack ch d s).hostMem
  frame : t = { s with dma := t.dma, hostMem := t.hostMem, out := t.out, hif := { s.hif with pba := t.hif.pba } }

theorem chanDone_wroteBack {ch : Nat} {d : List Byte} {s : State} (hs : tsorted s.dma.chans) (ho : s.hif.state ≠ .orphan) :
    WroteBack ch d s (chanDone ch d s) := by
  rcases chanDone_eq (d := d) hs ho with h | h
  · rw [h]
    exact ⟨rfl, rfl, rfl⟩
  · rw [h]
    refine ⟨vector_dma _ _, vector_hostMem _ _, ?_⟩
    rw [vector_dma, vector_hostMem, vector_frame]
    rfl

/-! Descriptors that move data (R405). -/

theorem chanRun_of_waits {ch : Nat} {d : List Byte} {f : State → State} {s : State} (htakes : chanTakes ch s = true)
    (hcheck : descCheck ch d s = none) (hwaits : chanWaits ch d s = true) : chanRun ch d f s = s := by
  rw [chanRun, if_pos htakes, hcheck]
  exact if_pos hwaits

theorem chanRun_of_failed {ch code : Nat} {d : List Byte} {f : State → State} {s : State} (htakes : chanTakes ch s = true)
    (hcheck : descCheck ch d s = some code) : chanRun ch d f s = chanError ch code d s := by
  rw [chanRun, if_pos htakes, hcheck]

theorem exec_dmaNop {ch : Fin 64} {d : List Byte} {s : State} (hop : dOp d = 0 ∨ 7 ≤ dOp d) :
    exec (.dmaNop ch d) s = .next (chanRun ch.val d (chanDone ch.val d) s) := congrArg _ (if_pos hop)

theorem exec_dmaH2d {ch : Fin 64} {d data : List Byte} {s : State} (hop : dOp d = 1) :
    exec (.dmaH2d ch d data) s = .next (chanRun ch.val d (h2d ch.val d data) s) := congrArg _ (if_pos hop)

theorem exec_dmaD2h {ch : Fin 64} {d : List Byte} {s : State} (hop : dOp d = 2) :
    exec (.dmaD2h ch d) s = .next (chanRun ch.val d (d2h ch.val d) s) := congrArg _ (if_pos hop)

/-- FILL as it runs on a channel that holds it. -/
def fillOp (ch : Nat) (d : List Byte) (s : State) : State :=
  chanIssue ch (dDaddr d) (dLen d) 256 (lovStore (dDaddr d) (fillBytes d) s)

theorem exec_dmaFill {ch : Fin 64} {d : List Byte} {s : State} (hop : dOp d = 3) :
    exec (.dmaFill ch d) s = .next (chanRun ch.val d (fillOp ch.val d) s) := congrArg _ (if_pos hop)

/-- A descriptor that waits for its pad changes nothing. -/
theorem exec_move_of_waits {c : Instr} {ch : Fin 64} {d data : List Byte} {s : State}
    (hrun : ∀ f : State → State, chanRun ch.val d f s = s) (hc : c = .dmaH2d ch d data ∨ c = .dmaD2h ch d ∨ c = .dmaFill ch d) :
    exec c s = .next s := by
  rcases hc with rfl | rfl | rfl <;>
    exact congrArg _ ((ite_congr rfl (fun _ => hrun _) (fun _ => rfl)).trans (ite_self s))

/-- The channel of a copy that is issued; `x` is the chip with the copy's bytes moved. -/
theorem chan_chanIssue {ch a n ticks : Nat} {d : List Byte} {s x : State} (hs : tsorted s.dma.chans)
    (hdma : x.dma = (holding ch d s).dma) (hcroak : croak x = croak s) (hplan : x.lov.plan = s.lov.plan) :
    chan (chanIssue ch a n ticks x) ch =
        { chan s ch with cur := some d, readback := true, due := windowDue ch a n ticks s } ∧
      ∀ k, k ≠ ch → chan (chanIssue ch a n ticks x) k = chan s k := by
  have hsort : tsorted x.dma.chans := by
    rw [hdma]
    exact holding_chans_sorted hs d
  have hdue : windowDue ch a n ticks x = windowDue ch a n ticks s := by rw [windowDue, windowDue, hcroak, hplan]
  refine ⟨?_, fun k hk => ?_⟩
  · rw [chanIssue, modChan, chan_setChan _ _ _ hsort, chan_of_dma hdma, chan_holding hs, hdue]
  · rw [chanIssue, modChan, chan_setChan_other _ _ _ _ hsort hk, chan_of_dma hdma, chan_holding_other hs d hk]

theorem getD_slice_zero (bs : List Byte) {n i : Nat} (hi : i < n) : (slice bs 0 n).getD i 0 = bs.getD i 0 := by
  simp only [slice, List.drop_zero, List.getD_eq_getElem?_getD]
  rcases Nat.lt_or_ge i bs.length with h | h
  · rw [List.getElem?_append_left (by rw [List.length_take]; omega), List.getElem?_take_of_lt hi]
  · rw [List.getElem?_append_right (by rw [List.length_take]; omega), List.getElem?_eq_none h, List.getElem?_replicate]
    split <;> rfl

theorem length_fillBytes (d : List Byte) : (fillBytes d).length = dLen d := by simp [fillBytes]

theorem getD_fillBytes (d : List Byte) {i : Nat} (hi : i < dLen d) :
    (fillBytes d).getD i 0 = d.getD (32 + (dDaddr d + i) % 8) 0 := by
  simp [fillBytes, hi]

/-- A store of `bs` at `a` for channel `ch` that covers no part of a poisoned block, with its read-back pending. -/
structure StoreIssued (ch a n : Nat) (d bs : List Byte) (s t : State) : Prop where
  own : chan t ch = { chan s ch with cur := some d, readback := true, due := windowDue ch a n 256 s }
  other : ∀ k, k ≠ ch → chan t k = chan s k
  bytes : ∀ x, memByte t.lov.mem x = if a ≤ x ∧ x < a + bs.length then bs.getD (x - a) 0 else memByte s.lov.mem x
  frame : t = { s with dma := t.dma, lov := { s.lov with mem := t.lov.mem, poison := t.lov.poison } }

theorem chanIssue_storeIssued {ch a : Nat} {d bs : List Byte} {s : State} (n : Nat) (hs : tsorted s.dma.chans)
    (hmem : tsorted s.lov.mem) (hwhole : ¬ coversPart s a bs.length) :
    StoreIssued ch a n d bs s (chanIssue ch a n 256 (lovStore a bs (holding ch d s))) := by
  rw [lovStore_of_whole (s := holding ch d s) hwhole]
  obtain ⟨hown, hother⟩ := chan_chanIssue (a := a) (n := n) (ticks := 256) (x := lovWrite a bs (holding ch d s)) hs rfl rfl rfl
  exact ⟨hown, hother, memByte_memWrite hmem a bs, rfl⟩

theorem readDrawn_plan (a : Nat) (s : State) : (readDrawn a s).lov.plan = s.lov.plan := by
  have hce (s : State) : (stkCe a s).lov.plan = s.lov.plan := by
    rw [stkCe.eq_def]
    extract_lets n h v0 v
    split
    · rw [(raise_ringOnly _ (setStack n v s)).lov]
      rfl
    · rfl
  rw [readDrawn]
  split
  · exact hce (drawn s)
  · rfl

theorem d2h_of_clear {ch : Nat} {d : List Byte} {s : State} (h : poisonAt s (dDaddr d) (dLen d) = none) : d2h ch d s =
    chanIssue ch (dDaddr d) (dLen d) 160
      (hostWrite (dHaddr d) (lovRead s (dDaddr d) (dLen d)) (readDrawn (dDaddr d) s)) := by
  rw [d2h, h]

/-- The chip when a D2H has written the bytes at its device address to the host. -/
def copiedOut (ch : Nat) (d : List Byte) (s : State) : State :=
  hostWrite (dHaddr d) (lovRead s (dDaddr d) (dLen d)) (readDrawn (dDaddr d) (holding ch d s))

theorem copiedOut_hostMem (ch : Nat) (d : List Byte) {s : State} (hhost : tsorted s.hostMem)
    (hmem : tsorted s.lov.mem) (x : Nat) :
    memByte (copiedOut ch d s).hostMem x = if dHaddr d ≤ x ∧ x < dHaddr d + dLen d then
      memByte s.lov.mem (dDaddr d + (x - dHaddr d)) else memByte s.hostMem x := by
  have hbytes : (copiedOut ch d s).hostMem = memWrite s.hostMem (dHaddr d) (lovRead s (dDaddr d) (dLen d)) :=
    congrArg (memWrite · (dHaddr d) _) (readDrawn_besideKept _ _).hostMem
  have hread : lovRead s (dDaddr d) (dLen d) = (List.range (dLen d)).map (fun i => memByte s.lov.mem (dDaddr d + i)) :=
    memRead_eq_map hmem _ _
  rw [hbytes, hread, memByte_memWrite hhost]
  simp only [List.length_map, List.length_range]
  split
  · next hx =>
    have hlt : x - dHaddr d < dLen d := by omega
    simp [hlt]
  · rfl

/-- H2D with ALLOC takes a buffer and stores there. -/
theorem h2d_of_taken {ch a : Nat} {d data : List Byte} {s u : State} (halloc : dAlloc d = true) (hfree : (chan s ch).alloc = 0)
    (htake : poolTake ch (dLen d) (dDie d) s = (u, .inl a)) : h2d ch d data s =
      chanIssue ch a (dLen d) 256 (lovStore a (slice data 0 (dLen d)) (modChan ch (fun c => { c with alloc := a }) u)) := by
  have hchanTake : chanTake ch d s = (modChan ch (fun c => { c with alloc := a }) u, .inl a) := by
    simp [chanTake, halloc, hfree, htake]
  rw [h2d, hchanTake]

/-- The channel that takes a descriptor holds it, whatever the table of channels is. -/
theorem chan_holding_of_cur (ch : Nat) (d : List Byte) (s : State) : chan (holding ch d s) ch = heldChan d (chan s ch) :=
  tget_tset_ne_default _ _ _ _ fun h => Option.some_ne_none _ (congrArg DmaCh.cur h)

/-! A channel error (R408). -/

theorem descCheck_codes {ch code : Nat} {d : List Byte} {s : State} (h : descCheck ch d s = some code) :
    code = 0x0203 ∨ code = 0x0204 ∨ code = 0x0303 := by
  unfold descCheck at h
  split at h
  · exact .inl (Option.some.inj h).symm
  · split at h
    · exact .inr (.inl (Option.some.inj h).symm)
    · split at h
      · exact .inr (.inr (Option.some.inj h).symm)
      · exact absurd h (by simp)

theorem up_of_chanTakes {ch : Nat} {s : State} (h : chanTakes ch s = true) : up s = true := by
  simp only [chanTakes, Bool.and_eq_true] at h
  obtain ⟨⟨⟨⟨hup, -⟩, -⟩, -⟩, -⟩ := h
  exact hup

theorem chanOcc_code (ch code : Nat) (d : List Byte) (s : State) : (chanOcc ch code d s).code = code := by
  unfold chanOcc
  split <;> rfl

/-- The channel stopped by an error. -/
def errorChan (code : Nat) (c : DmaCh) : DmaCh := { c with state := .error, code := code, cur := none, readback := false }

theorem chanStop_of_owned {ch code : Nat} {s : State} (ho : s.hif.state ≠ .orphan) : chanStop ch code s =
    setChan ch (errorChan code (chan s ch))
      (vector ch (hostWrite (descAddr (chan s ch) + 48) (leBytes 2 code ++ zeros 6) s)) := if_neg ho

/-- A channel stopped in ERROR with `code` by an occurrence that is raised. -/
structure ErrorStopped (ch code : Nat) (s t : State) : Prop where
  own : chan t ch = errorChan code (chan s ch)
  other : ∀ k, k ≠ ch → chan t k = chan s k
  record : (rasRec t code).set = true
  hostMem : t.hostMem = memWrite s.hostMem (descAddr (chan s ch) + 48) (leBytes 2 code ++ zeros 6)
  bufs : t.pool.bufs = s.pool.bufs
  bytes : ∀ a, offRing a → memByte t.lov.mem a = memByte s.lov.mem a

theorem chanError_errorStopped {ch code : Nat} {d : List Byte} {s : State} (hs : tsorted s.dma.chans)
    (hmem : memWf s.lov.mem = true)
    (ho : s.hif.state ≠ .orphan) (hup : up s = true) (hcode : code ≠ 0x0201) (hd : definedCode code = true) :
    ErrorStopped ch code s (chanError ch code d s) := by
  have hocc := chanOcc_code ch code d s
  have hbeside := raise_besideKept (o := chanOcc ch code d s) (by rwa [hocc]) s
  have hsort : tsorted (raise (chanOcc ch code d s) s).dma.chans := by rwa [hbeside.dma]
  have hchan := chan_of_dma hbeside.dma
  rw [chanError, chanStop_of_owned (by rwa [hbeside.hifState]), hchan]
  refine ⟨?_, fun k hk => ?_, ?_, ?_, ?_, fun a ha => ?_⟩
  · rw [chan_setChan _ _ _ (by rw [vector_dma]; exact hsort)]
  · rw [chan_setChan_other _ _ _ _ (by rw [vector_dma]; exact hsort) hk, ← hchan k]
    exact chan_of_dma (vector_dma _ _) k
  · rw [rasRec_of_ras (s := raise (chanOcc ch code d s) s) (by exact vector_ras _ _)]
    exact rasRec_raise_code code hocc hup hd
  · exact (vector_hostMem _ _).trans (congrArg (memWrite · _ _) hbeside.hostMem)
  · exact (congrArg Pool.bufs (vector_pool _ _)).trans (raise_bufs _ s)
  · exact (congrArg (fun l : Lovor => memByte l.mem a) (vector_lov _ _)).trans ((raise_ringOnly _ s).bytes hmem a ha)

/-! The end of a descriptor (R407). -/

/-- What a channel does once its descriptor has freed its buffer, or has none to free. -/
def afterFree (ch : Nat) (d : List Byte) (r : State × Bool) : State :=
  if !r.2 then chanStop ch 0x0303 r.1
  else if dSig d then
    match signalLocal (dObj d) (dCount d) (agentDma ch) 0 r.1 with
    | (t, some e) => chanStop ch e t
    | (t, none) => chanDone ch d t
  else chanDone ch d r.1

/-- The read-back of a write, of the last block of its range, meets a poisoned block. -/
def endsPoisoned (ch : Nat) (d : List Byte) (s : State) : Bool :=
  (dOp d == 1 || dOp d == 3) && poisoned s (((if dAlloc d then (chan s ch).alloc else dDaddr d) + dLen d - 1) / 64 * 64) 64

theorem not_endsPoisoned {ch : Nat} {d : List Byte} {s : State} (h : dOp d = 2 ∨
    poisoned s (((if dAlloc d then (chan s ch).alloc else dDaddr d) + dLen d - 1) / 64 * 64) 64 = false) :
    endsPoisoned ch d s = false := by
  rcases h with h | h <;> simp [endsPoisoned, h]

section Answered

variable {ch : Fin 64} {d : List Byte} {s : State} (hup : up s = true) (hcur : (chan s ch.val).cur = some d)
  (hread : (chan s ch.val).readback = true) (hdue : (chan s ch.val).due ≤ croak s)

include hup hcur hread hdue

theorem exec_dmaCompletion (hclean : endsPoisoned ch.val d s = false) : exec (.dmaCompletion ch) s =
    .next (afterFree ch.val d (if dFree d then poolFree' (dDaddr d) (· == ch.val) ch.val s else (s, true))) := by
  refine congrArg Host.Outcome.next (show chanComplete ch.val s = _ from ?_)
  rw [chanComplete.eq_def]
  extract_lets c
  have hc : c.cur = some d := hcur
  have hanswered : ¬ (!c.readback || !up s || decide (croak s < c.due)) = true := by simp [c, hread, hup, hdue]
  rw [hc]
  dsimp only
  rw [if_neg hanswered]
  have hnot : ¬ endsPoisoned ch.val d s = true := by simp [hclean]
  exact if_neg hnot

theorem exec_dmaCompletion_unfreed (hfree : dFree d = false) (hclean : endsPoisoned ch.val d s = false) :
    exec (.dmaCompletion ch) s = .next (afterFree ch.val d (s, true)) := by
  rw [exec_dmaCompletion hup hcur hread hdue hclean, hfree]
  rfl

theorem exec_dmaCompletion_freed (hfree : dFree d = true) (hop : dOp d = 2) :
    exec (.dmaCompletion ch) s = .next (afterFree ch.val d (poolFree' (dDaddr d) (· == ch.val) ch.val s)) := by
  rw [exec_dmaCompletion hup hcur hread hdue (not_endsPoisoned (.inl hop)), hfree]
  rfl

end Answered

theorem afterFree_of_plain {ch : Nat} {d : List Byte} {s : State} (hsig : dSig d = false) :
    afterFree ch d (s, true) = chanDone ch d s := by
  simp [afterFree, hsig]

theorem afterFree_of_signalled {ch : Nat} {d : List Byte} {s t : State} (hsig : dSig d = true)
    (h : signalLocal (dObj d) (dCount d) (agentDma ch) 0 s = (t, none)) : afterFree ch d (s, true) = chanDone ch d t := by
  simp [afterFree, hsig, h]

theorem afterFree_of_rejected {ch e : Nat} {d : List Byte} {s t : State} (hsig : dSig d = true)
    (h : signalLocal (dObj d) (dCount d) (agentDma ch) 0 s = (t, some e)) : afterFree ch d (s, true) = chanStop ch e t := by
  simp [afterFree, hsig, h]

theorem exec_dmaCompletion_early {ch : Fin 64} {s : State}
    (h : (chan s ch.val).readback = false ∨ croak s < (chan s ch.val).due) :
    exec (.dmaCompletion ch) s = .next s := by
  refine congrArg Host.Outcome.next (show chanComplete ch.val s = _ from ?_)
  rw [chanComplete.eq_def]
  extract_lets c
  split
  · rfl
  · refine if_pos ?_
    rcases h with h | h
    · simp [c, h]
    · simp [c, h]

/-- Settles O42, clause by clause: the completion's write-back, the three moves, ALLOC, a failed check, and the end of a
descriptor. -/
theorem dmaDescriptors : Obligations.DmaDescriptors := by
  unfold Obligations.DmaDescriptors
  refine ⟨fun ch d s hwf ho => ?_, fun ch d s htakes hcheck hop => ?_,
    fun c ch d data s htakes hcheck hwaits hc => exec_move_of_waits (fun f => chanRun_of_waits htakes hcheck hwaits) hc,
    fun ch d data s hwf htakes hcheck halloc hwaits => ⟨fun hop => ?_, fun hop => ?_, fun hop hclear => ?_⟩,
    fun ch d data a s u htakes hcheck hop halloc hfree hwaits htake => ?_, fun c ch d data code s hwf htakes hcheck ho hc => ?_,
    fun ch d s hup hcur hread hdue hfree hsig hclean => ?_, fun ch d b s hup hcur hread hdue hop hfree hsig hb howner => ?_,
    fun ch d s hup hcur hread hdue hop hfree hno => ?_,
    fun ch d s hup hcur hread hdue hfree hsig hclean => ⟨fun t ht => ?_, fun t e ht => ?_⟩,
    fun ch s h => exec_dmaCompletion_early h⟩
  · have hs := hwf.sound.chans
    obtain ⟨hdma, hhost, hframe⟩ := chanDone_wroteBack (ch := ch.val) (d := d) hs ho
    have hown : chan (chanDone ch.val d s) ch.val =
        advancedChan { chan s ch.val with bytes := ((chan s ch.val).bytes + dLen d) % 2 ^ 64 } := by
      rw [chan_of_dma hdma, writtenBack, chan_setChan _ _ _ (by exact hs)]
    refine ⟨by rw [hown]; rfl, by rw [hown]; rfl, by rw [hown]; rfl, by rw [hown]; rfl, by rw [hown]; rfl,
      fun k hk => ?_, hhost, hframe⟩
    rw [chan_of_dma hdma, writtenBack, chan_setChan_other _ _ _ _ (by exact hs) hk]
    rfl
  · rw [exec_dmaNop (.inl hop), chanRun_of_takes htakes hcheck (chanWaits_of_op (.inl hop))]
    rfl
  · have hexec : exec (.dmaH2d ch d data) s = .next (chanIssue ch.val (dDaddr d) (dLen d) 256
        (lovStore (dDaddr d) (slice data 0 (dLen d)) (holding ch.val d s))) := by
      rw [exec_dmaH2d hop, chanRun_of_takes htakes hcheck hwaits, h2d, chanTake_of_address _ halloc]
    refine ⟨_, hexec, rfl, fun hwhole => ?_⟩
    have hlen := length_slice data 0 (dLen d)
    obtain ⟨hown, hother, hbytes, hframe⟩ := chanIssue_storeIssued (ch := ch.val)
      (a := dDaddr d) (d := d) (bs := slice data 0 (dLen d))
      (dLen d) hwf.sound.chans (sorted_of_memWf hwf.sound.mem) (by rwa [hlen])
    refine ⟨hown, hother, fun x => (hbytes x).trans ?_, hframe⟩
    rw [hlen]
    exact if_ctx_congr Iff.rfl (fun hx => getD_slice_zero data (by omega)) fun _ => rfl
  · have hexec : exec (.dmaFill ch d) s = .next (chanIssue ch.val (dDaddr d) (dLen d) 256
        (lovStore (dDaddr d) (fillBytes d) (holding ch.val d s))) := by
      rw [exec_dmaFill hop, chanRun_of_takes htakes hcheck hwaits, fillOp]
    refine ⟨_, hexec, rfl, fun hwhole => ?_⟩
    have hlen := length_fillBytes d
    obtain ⟨hown, hother, hbytes, hframe⟩ := chanIssue_storeIssued (ch := ch.val) (a := dDaddr d) (d := d) (bs := fillBytes d)
      (dLen d) hwf.sound.chans (sorted_of_memWf hwf.sound.mem) (by rwa [hlen])
    refine ⟨hown, hother, fun x => (hbytes x).trans ?_, hframe⟩
    rw [hlen]
    refine if_ctx_congr Iff.rfl (fun hx => ?_) fun _ => rfl
    rw [getD_fillBytes d (by omega), Nat.add_sub_cancel' hx.1]
  · have hexec : exec (.dmaD2h ch d) s = .next (chanIssue ch.val (dDaddr d) (dLen d) 160 (copiedOut ch.val d s)) := by
      rw [exec_dmaD2h hop, chanRun_of_takes htakes hcheck hwaits, d2h_of_clear (s := holding ch.val d s) hclear]
      rfl
    have hbeside := readDrawn_besideKept (dDaddr d) (holding ch.val d s)
    obtain ⟨hown, hother⟩ := chan_chanIssue (a := dDaddr d) (n := dLen d) (ticks := 160) (x := copiedOut ch.val d s)
      hwf.sound.chans
      hbeside.dma hbeside.croak (readDrawn_plan _ (holding ch.val d s))
    exact ⟨_, hexec, rfl, hown, hother,
      copiedOut_hostMem ch.val d (sorted_of_memWf hwf.sound.hostMem) (sorted_of_memWf hwf.sound.mem)⟩
  · have hempty : (chan (holding ch.val d s) ch.val).alloc = 0 := by rw [chan_holding_of_cur]; exact hfree
    rw [exec_dmaH2d hop, chanRun_of_takes htakes hcheck hwaits, h2d_of_taken (s := holding ch.val d s) halloc hempty htake]
    rfl
  · have hrun (f : State → State) := chanRun_of_failed (f := f) htakes hcheck
    have hexec : exec c s = .next (chanError ch.val code d s) := by
      rcases hc with ⟨rfl, hop⟩ | ⟨rfl, hop⟩ | ⟨rfl, hop⟩ | ⟨rfl, hop⟩ | ⟨rfl, hop⟩ | ⟨rfl, hop⟩ | ⟨rfl, hop⟩
      · rw [exec_dmaNop hop, hrun]
      · rw [exec_dmaH2d hop, hrun]
      · rw [exec_dmaD2h hop, hrun]
      · rw [exec_dmaFill hop, hrun]
      · rw [exec_dmaWait hop, hrun]
      · rw [exec_dmaSig hop, hrun]
      · rw [exec_dmaBarr hop, hrun]
    have hcode : code ≠ 0x0201 ∧ definedCode code = true := by
      rcases descCheck_codes hcheck with rfl | rfl | rfl <;> decide
    obtain ⟨hown, hother, hrec, hhost, hbufs, hbytes⟩ := chanError_errorStopped (ch := ch.val) (d := d)
      hwf.sound.chans hwf.sound.mem ho
      (up_of_chanTakes htakes) hcode.1 hcode.2
    exact ⟨_, hexec, by rw [hown]; rfl, by rw [hown]; rfl, hrec,
      by rw [hown]; rfl, by rw [hown]; rfl, hhost, hother, hbufs, hbytes⟩
  · rw [exec_dmaCompletion_unfreed hup hcur hread hdue hfree (not_endsPoisoned hclean), afterFree_of_plain hsig]
  · rw [exec_dmaCompletion_freed hup hcur hread hdue hfree hop, poolFree'_of_held hb (by simpa using howner),
      afterFree_of_plain hsig]
  · have hexec := exec_dmaCompletion_freed hup hcur hread hdue hfree hop
    rw [poolFree'_of_refused fun b hb => by simpa using hno b hb] at hexec
    have hbeside := raise_freeOcc_besideKept (dDaddr d) ch.val s
    exact ⟨raise (freeOcc (dDaddr d) ch.val s) s, hexec, rasRec_raise_code 0x0303 (freeOcc_code _ _ _) hup (by decide),
      raise_bufs _ s, hbeside.dma⟩
  · rw [exec_dmaCompletion_unfreed hup hcur hread hdue hfree (not_endsPoisoned hclean), afterFree_of_signalled hsig ht]
  · rw [exec_dmaCompletion_unfreed hup hcur hread hdue hfree (not_endsPoisoned hclean), afterFree_of_rejected hsig ht]

end Sys2Proof.Machine

end

section

/-! ## What errors leave of the host interface, and the reply of a mailbox command (O26) -/

namespace Sys2Proof.Machine

-- One thread for the section's proofs, as in the section on O5.
set_option Elab.async false

/-- The host interface without what an error leaves in it: held events with their lost count, pending bits and HIF_ERR. -/
def Hif.lasting (h : Hif) : Hif := { h with held := [], evLost := 0, pba := [], err := 0 }

theorem vector_lasting (v : Nat) (s : State) : (vector v s).hif.lasting = s.hif.lasting := by
  rw [vector_frame]
  rfl

theorem pushEvent_lasting (typ : Nat) (data : List Byte) (s : State) : (pushEvent typ data s).hif.lasting = s.hif.lasting := by
  unfold pushEvent
  dsimp only
  split <;> rfl

theorem eventAmend_lasting (c : Nat) (s : State) : (eventAmend c s).hif.lasting = s.hif.lasting := by
  unfold eventAmend
  dsimp only
  split <;> rfl

theorem rasFirst_lasting (c : Nat) (s : State) : (rasFirst c s).hif.lasting = s.hif.lasting := by
  have hev : (rasEvent c s).hif.lasting = s.hif.lasting := by
    unfold rasEvent
    split
    · exact pushEvent_lasting 3 _ s
    · rfl
  have hirq (t : State) : (rasIrq c t).hif.lasting = t.hif.lasting := by
    unfold rasIrq
    split
    · exact vector_lasting 449 t
    · rfl
  unfold rasFirst
  dsimp only
  split <;> split <;> simp only [hirq, hev]

theorem rasRecord_lasting (o : Occ) (s : State) : (rasRecord o s).hif.lasting = s.hif.lasting := by
  have hlogs (t : State) : (if rasWrites o.code t then rasLog o t else t).hif = t.hif := by
    split
    · exact rasLog_hif o t
    · rfl
  have hamend (t u : State) :
      (if rasWrites o.code t then eventAmend o.code u else u).hif.lasting = u.hif.lasting := by
    split
    · exact eventAmend_lasting o.code u
    · rfl
  unfold rasRecord
  dsimp only
  split
  · split
    · rw [hamend, hlogs]
      rfl
    · rw [rasFirst_lasting, hlogs]
      rfl
  · rfl

theorem raise_lasting (o : Occ) (s : State) : (raise o s).hif.lasting = s.hif.lasting := by
  have hbit : (stickyBit o.code s).hif.lasting = s.hif.lasting := by
    unfold stickyBit
    dsimp only
    repeat' split
    all_goals rfl
  unfold raise
  split
  · rw [rasRecord_lasting, freshMark_hif, hbit]
  · rfl

theorem slots_of_lasting {s t : State} (h : t.hif.lasting = s.hif.lasting) : t.hif.slots = s.hif.slots := by
  have hslots := congrArg Hif.slots h
  exact hslots

theorem mslot_of_lasting {s t : State} (h : t.hif.lasting = s.hif.lasting) (k : Nat) : mslot t k = mslot s k := by
  rw [mslot, slots_of_lasting h]
  rfl

/-! A reply (R426, Table 13-4). -/

/-- The bytes of a slot's reply before its STATE is written: the request's first 20 bytes, STATUS, RPLEN, DCROAK and the payload. -/
def replyBytes (m : Slot) (now status : Nat) (payload : List Byte) : List Byte :=
  m.bytes.take 20 ++ (leBytes 2 status ++ (leBytes 2 payload.length ++ (leBytes 8 now ++ slice payload 0 224)))

/-- The slot that a reply leaves. -/
def repliedSlot (m : Slot) (now status : Nat) (payload : List Byte) : Slot :=
  { bytes := (replyBytes m now status payload).set 0 3 }

/-- The chip after a reply, before its vector: the slot, the count of completed commands, and the status of a layout command
(R251). -/
def replied (i status : Nat) (payload : List Byte) (s : State) : State :=
  { s with
    hif := { s.hif with slots := tset {} s.hif.slots i (repliedSlot (mslot s i) (croak s) status payload)
                        mbDone := (s.hif.mbDone + 1) % 2 ^ 32 }
    lay := { s.lay with lastErr := if slotCmd (mslot s i) = 0x10 ∨ slotCmd (mslot s i) = 0x11 ∨ slotCmd (mslot s i) = 0x41
                                   then status else s.lay.lastErr } }

theorem layStatus_frame (op status : Nat) (s : State) : layStatus op status s =
    { s with lay := { s.lay with lastErr := if op = 0x10 ∨ op = 0x11 ∨ op = 0x41 then status else s.lay.lastErr } } := by
  unfold layStatus
  split <;> rfl

theorem reply_eq (i status : Nat) (payload : List Byte) (s : State) : reply i status payload s =
    if ((mslot s i).bytes.getD 1 0).getLsbD 0 then vector (64 + i) (replied i status payload s) else replied i status payload s := by
  simp only [reply, layStatus_frame, List.append_assoc]
  rfl

/-- What a reply leaves, its interrupt aside. -/
theorem reply_frame (i status : Nat) (payload : List Byte) (s : State) : ∃ o p, reply i status payload s =
    { replied i status payload s with out := o, hif := { (replied i status payload s).hif with pba := p } } := by
  rw [reply_eq]
  split
  · exact ⟨_, _, vector_frame _ _⟩
  · exact ⟨_, _, rfl⟩

theorem mslot_reply {s : State} (hs : tsorted s.hif.slots) (i status : Nat) (payload : List Byte) :
    mslot (reply i status payload s) i = repliedSlot (mslot s i) (croak s) status payload := by
  obtain ⟨o, p, h⟩ := reply_frame i status payload s
  rw [h]
  exact mslot_setMslot i _ s hs

theorem mslot_reply_other {s : State} (hs : tsorted s.hif.slots) {i k : Nat} (hk : k ≠ i) (status : Nat) (payload : List Byte) :
    mslot (reply i status payload s) k = mslot s k := by
  obtain ⟨o, p, h⟩ := reply_frame i status payload s
  rw [h]
  exact mslot_setMslot_other i k _ s hs hk

/-- A field of a reply beyond its first byte reads as it was put together. -/
theorem fieldAt_set_zero (bs : List Byte) (v : Byte) {off : Nat} (h : 0 < off) (n : Nat) : fieldAt (bs.set 0 v) off n = fieldAt bs off n := by
  rw [fieldAt, slice, List.drop_set_of_lt h]
  rfl

theorem fieldAt_first {b : Byte} {bs : List Byte} (h : bs ≠ []) : fieldAt (bs.set 0 b) 0 1 = b.toNat := by
  obtain ⟨a, r, rfl⟩ := List.exists_cons_of_ne_nil h
  simp [fieldAt, slice, leNat]

/-- STATE, STATUS, RPLEN, DCROAK and the payload of a reply. -/
theorem repliedSlot_reads {m : Slot} (hm : m.bytes.length = 256) (now : Nat) {status : Nat} {payload : List Byte}
    (hp : payload.length ≤ 224) (hst : status < 65536) :
    let t := repliedSlot m now status payload
    slotState t = 3 ∧ t.work = .idle ∧ hdr t.bytes 20 2 = status ∧ hdr t.bytes 22 2 = payload.length ∧
      hdr t.bytes 24 8 = now % 2 ^ 64 ∧ slice t.bytes 32 payload.length = payload := by
  have htake : (m.bytes.take 20).length = 20 := by simp [hm]
  have hne : replyBytes m now status payload ≠ [] := fun h => by
    have hlen := congrArg List.length h
    simp [replyBytes] at hlen
  refine ⟨fieldAt_first hne, rfl, ?_, ?_, ?_, ?_⟩
  · rw [hdr, repliedSlot, fieldAt_set_zero _ _ (by decide),
      fieldAt_leBytes (p := m.bytes.take 20) (by simp only [replyBytes]; rfl) htake, Nat.mod_eq_of_lt (by omega)]
  · rw [hdr, repliedSlot, fieldAt_set_zero _ _ (by decide),
      fieldAt_leBytes (p := m.bytes.take 20 ++ leBytes 2 status) (by simp only [replyBytes, List.append_assoc]; rfl)
        (by simp [htake]), Nat.mod_eq_of_lt (by omega)]
  · rw [hdr, repliedSlot, fieldAt_set_zero _ _ (by decide),
      fieldAt_leBytes (p := m.bytes.take 20 ++ leBytes 2 status ++ leBytes 2 payload.length)
        (by simp only [replyBytes, List.append_assoc]; rfl) (by simp [htake])]
  · have hdrop : (replyBytes m now status payload).drop 32 = slice payload 0 224 := by
      rw [replyBytes, ← List.append_assoc, ← List.append_assoc, ← List.append_assoc]
      exact List.drop_left' (by simp [htake])
    have hpad : slice payload 0 224 = payload ++ List.replicate (224 - payload.length) 0 := rp_of_length hp
    rw [repliedSlot, slice, List.drop_set_of_lt (by decide), hdrop, hpad]
    simp

theorem cmdOcc_code (i code chk : Nat) (s : State) : (cmdOcc i code chk s).code = code := by
  unfold cmdOcc
  dsimp only
  split <;> rfl

theorem lt_of_definedCode {c : Nat} (h : definedCode c = true) : c < 65536 := by
  by_contra hge
  obtain ⟨k, hk⟩ : ∃ k, c / 256 = k + 15 := ⟨c / 256 - 15, by omega⟩
  simp [definedCode, hk] at h

/-- Settles O26: a reply writes its slot and counts it, and the vector leaves both; a failing command raises its code first. -/
theorem replyWrites : Obligations.ReplyWrites := by
  unfold Obligations.ReplyWrites
  refine ⟨fun i status payload s hwf hp hst => ?_, fun i code s hwf hup hd => ?_⟩
  · have hslots := hwf.sound.slots
    obtain ⟨hstate, hwork, hstatus, hlen, hcroak, hpay⟩ := repliedSlot_reads (bytes_mslot i hwf.sound) (croak s) hp hst
    intro t
    have hmine : mslot t i = _ := mslot_reply hslots i status payload
    obtain ⟨o, p, hframe⟩ := reply_frame i status payload s
    refine ⟨by rw [hmine]; exact hstate, by rw [hmine]; exact hwork, by rw [hmine]; exact hstatus, by rw [hmine]; exact hlen,
      by rw [hmine]; exact hcroak, by rw [hmine]; exact hpay, fun k hk => mslot_reply_other hslots hk status payload, ?_, ?_, ?_⟩
    all_goals
      rw [show t = _ from hframe]
      rfl
  · have hraised := raise_lasting (cmdOcc i code 0 s) s
    have hsound : (raise (cmdOcc i code 0 s) s).Sound := raise_sound hwf.sound
    obtain ⟨hstate, hwork, hstatus, hlen, -, -⟩ := repliedSlot_reads (bytes_mslot i hsound)
      (croak (raise (cmdOcc i code 0 s) s)) (payload := []) (by decide) (lt_of_definedCode hd)
    have hfail : cmdFail i code s = reply i code [] (raise (cmdOcc i code 0 s) s) := by
      rw [cmdFail, cmdFailWith, cmdOcc_code]
    intro t
    have hmine : mslot t i = _ := (congrArg (mslot · i) hfail).trans (mslot_reply hsound.slots i code [])
    refine ⟨by rw [hmine]; exact hstate, by rw [hmine]; exact hwork, by rw [hmine]; exact hstatus, by rw [hmine]; exact hlen, ?_,
      fun k hk => ?_⟩
    · have hras : t.ras = (raise (cmdOcc i code 0 s) s).ras := (congrArg State.ras hfail).trans (reply_ras ..)
      rw [rasRec_of_ras hras]
      exact rasRec_raise_code code (cmdOcc_code ..) hup hd
    · rw [← mslot_of_lasting hraised k, ← mslot_reply_other hsound.slots hk code [], ← hfail]

end Sys2Proof.Machine

end

section

/-! ## The event ring, the completion rings (O25) and the registers of the host interface (O24) -/

namespace Sys2Proof.Machine

-- One thread for the section's proofs, as in the section on O5.
set_option Elab.async false

theorem up_of_eventRoom {s : State} (h : eventRoom s = true) : up s = true := by
  simp only [eventRoom, Bool.and_eq_true] at h
  obtain ⟨⟨⟨⟨⟨hfw, -⟩, -⟩, -⟩, -⟩, -⟩ := h
  exact up_of_fwRuns hfw

theorem up_of_recordRoom {j : Nat} {s : State} (h : recordRoom j s = true) : up s = true := by
  simp only [recordRoom, Bool.and_eq_true] at h
  obtain ⟨⟨⟨⟨⟨hfw, -⟩, -⟩, -⟩, -⟩, -⟩ := h
  exact up_of_fwRuns hfw

theorem eventRoom_of_empty {s : State} (h : s.hif.held = []) : eventRoom s = false := by
  simp [eventRoom, h]

theorem recordRoom_of_empty {j : Nat} {s : State} (h : (job s j).held = []) : recordRoom j s = false := by
  simp [recordRoom, h]

theorem eventBytes_length (e : EventItem) : (eventBytes e).length = 32 := by
  simp [eventBytes, length_slice, zeros]

/-- The chip when its oldest held event is in the ring, before vector 448. -/
def eventWritten (e : EventItem) (r : List EventItem) (s : State) : State :=
  { s with
    hostMem := memWrite s.hostMem (64 * s.hif.evBase + 32 * (s.hif.evWr % 2 ^ s.hif.evLog2)) (eventBytes e)
    hif := { s.hif with held := r, evWr := (s.hif.evWr + 1) % 65536 } }

theorem eventWrite_of_room {e : EventItem} {r : List EventItem} {s : State} (h : eventRoom s = true) (hh : s.hif.held = e :: r) :
    eventWrite s = vector 448 (eventWritten e r s) := by
  simp only [eventWrite, h, hh, Bool.not_true, Bool.false_eq_true, if_false]
  rfl

theorem eventWrite_of_none {s : State} (h : eventRoom s = false) : eventWrite s = s := by
  simp [eventWrite, h]

/-- The record as it is written: with the croak count in its bytes 8 to 15 (R146). -/
def stamped (b : List Byte) (now : Nat) : List Byte := slice b 0 8 ++ leBytes 8 now ++ b.drop 16

/-- The chip when the oldest held record of job slot `j` is in its ring, before the job's vector. -/
def recordWritten (j : Nat) (b : List Byte) (r : List (List Byte × Bool)) (s : State) : State :=
  setJob j { job s j with held := r, wr := ((job s j).wr + 1) % 2 ^ 32 }
    (hostWrite ((job s j).cring + 64 * ((job s j).wr % 2 ^ (job s j).clog2)) (stamped b (croak s)) s)

theorem recordWrite_of_room {j : Nat} {b : List Byte} {irq : Bool} {r : List (List Byte × Bool)} {s : State}
    (h : recordRoom j s = true) (hh : (job s j).held = (b, irq) :: r) : recordWrite j s =
      memberNotes b (if irq = true ∧ (job s j).vec ≠ 0xFF then vector (320 + (job s j).vec) (recordWritten j b r s)
        else recordWritten j b r s) := by
  simp only [recordWrite, h, hh, Bool.not_true, Bool.false_eq_true, if_false, recordWritten, stamped]
  simp

theorem recordWrite_of_none {j : Nat} {s : State} (h : recordRoom j s = false) : recordWrite j s = s := by
  simp [recordWrite, h]

/-! The notes to the members (R130, R145). -/

/-- What a collective's member `m` is sent once the record `b` is written: COMPLETE, or ABORT with the cause. -/
def memberNote (b : List Byte) (m : Nat × Nat) : String × Nat × List Nat :=
  if fieldAt b 3 1 = 0 then ("COMPLETE", m.1, collVals 9 (fieldAt b 0 3) 0 0xFFFFFFFF [])
  else ("ABORT", m.1, collVals 10 (fieldAt b 0 3) (fieldAt b 4 2) 0xFFFFFFFF [])

theorem memberNotes_eq (b : List Byte) (s : State) : memberNotes b s = (coll s (fieldAt b 0 3)).members.foldl
    (fun t m => mgmt (memberNote b m).1 (memberNote b m).2.1 (memberNote b m).2.2 t) s := by
  unfold memberNotes
  dsimp only
  congr 1
  funext t m
  unfold memberNote collMsg rankNone
  split <;> rfl

theorem foldl_mgmt_sent (f : Nat × Nat → String × Nat × List Nat) (l : List (Nat × Nat)) {s : State} (h : drains s 4 = false) :
    l.foldl (fun t m => mgmt (f m).1 (f m).2.1 (f m).2.2 t) s =
      { s with out := s.out ++ l.map (fun m => .mgmt (f m).1 (f m).2.1 (f m).2.2) } := by
  induction l generalizing s with
  | nil => simp
  | cons a r ih =>
    have hone : mgmt (f a).1 (f a).2.1 (f a).2.2 s = { s with out := s.out ++ [.mgmt (f a).1 (f a).2.1 (f a).2.2] } := by
      rw [mgmt, h]
      rfl
    rw [List.foldl_cons, hone, ih (by exact h)]
    simp

theorem foldl_mgmt_held (f : Nat × Nat → String × Nat × List Nat) (l : List (Nat × Nat)) {s : State} (h : drains s 4 = true) :
    l.foldl (fun t m => mgmt (f m).1 (f m).2.1 (f m).2.2 t) s =
      { s with rte := { s.rte with mgmtHeld := s.rte.mgmtHeld ++ l.map f } } := by
  induction l generalizing s with
  | nil => simp
  | cons a r ih =>
    have hone : mgmt (f a).1 (f a).2.1 (f a).2.2 s = { s with rte := { s.rte with mgmtHeld := s.rte.mgmtHeld ++ [f a] } } := by
      rw [mgmt, h]
      rfl
    rw [List.foldl_cons, hone, ih (by exact h)]
    simp

/-- Settles O25: each ring takes its oldest entry where it has room, and the notes go out or are held by one drain. -/
theorem ringEntriesWritten : Obligations.RingEntriesWritten := by
  unfold Obligations.RingEntriesWritten
  refine ⟨fun e r s hroom hheld => ?_, fun j b irq r s hroom hheld => ?_, fun b s => ⟨fun hno => ?_, fun hdrain => ?_⟩,
    fun s h => whenUp_of_fixed (eventWrite_of_none h), fun j s h => whenUp_of_fixed (recordWrite_of_none h)⟩
  · refine ⟨_, (whenUp_of_up eventWrite (up_of_eventRoom hroom)).trans (congrArg _ (eventWrite_of_room hroom hheld)), fun hwf a => ?_⟩
    rw [memByte_memWrite (sorted_of_memWf hwf.sound.hostMem), eventBytes_length]
  · refine ⟨recordWritten j.val b r s, (whenUp_of_up (recordWrite j.val) (up_of_recordRoom hroom)).trans
      (congrArg _ (recordWrite_of_room hroom hheld)), rfl, fun hwf => ⟨job_setJob _ _ _ hwf.sound.jobs,
        fun k hk => job_setJob_other _ _ _ _ hwf.sound.jobs hk, fun a => memByte_memWrite (sorted_of_memWf hwf.sound.hostMem) _ _ a⟩⟩
  · rw [memberNotes_eq, foldl_mgmt_sent _ _ hno]
    rfl
  · rw [memberNotes_eq, foldl_mgmt_held _ _ hdrain]
    rfl

/-! Registers (R418, R423, R435, R436). -/

/-- From `s` to `t` entries have been written to the event ring. -/
structure EventsWritten (s t : State) : Prop where
  log2 : t.hif.evLog2 = s.hif.evLog2
  base : t.hif.evBase = s.hif.evBase
  rd : t.hif.evRd = s.hif.evRd
  jobs : t.jobs = s.jobs
  ras : t.ras = s.ras
  lov : t.lov = s.lov

theorem eventWrite_writes {e : EventItem} {r : List EventItem} {s : State} (h : eventRoom s = true) (hh : s.hif.held = e :: r) :
    EventsWritten s (eventWrite s) ∧ (eventWrite s).hif.held = r := by
  rw [eventWrite_of_room h hh, vector_frame]
  exact ⟨⟨rfl, rfl, rfl, rfl, rfl, rfl⟩, rfl⟩

theorem EventsWritten.refl (s : State) : EventsWritten s s := ⟨rfl, rfl, rfl, rfl, rfl, rfl⟩

theorem EventsWritten.trans {s t u : State} (h : EventsWritten s t) (g : EventsWritten t u) : EventsWritten s u :=
  ⟨g.log2.trans h.log2, g.base.trans h.base, g.rd.trans h.rd, g.jobs.trans h.jobs, g.ras.trans h.ras, g.lov.trans h.lov⟩

/-- The pump writes until the ring has no room, or nothing is held. -/
theorem eventPump_writes (n : Nat) {s : State} (hn : s.hif.held.length ≤ n) :
    EventsWritten s (eventPump n s) ∧ eventRoom (eventPump n s) = false := by
  induction n generalizing s with
  | zero => exact ⟨.refl s, eventRoom_of_empty (List.length_eq_zero_iff.mp (Nat.le_zero.mp hn))⟩
  | succ n ih =>
    unfold eventPump
    split
    next hroom =>
      cases hh : s.hif.held with
      | nil => exact absurd hroom (by rw [eventRoom_of_empty hh]; exact Bool.false_ne_true)
      | cons e r =>
        obtain ⟨hone, hheld⟩ := eventWrite_writes hroom hh
        obtain ⟨hrest, hfull⟩ := ih (s := eventWrite s) (by
          rw [hh, List.length_cons] at hn
          rw [hheld]
          omega)
        exact ⟨hone.trans hrest, hfull⟩
    next hroom => exact ⟨.refl s, by simpa using hroom⟩

/-- From `s` to `t` records have been written to the completion ring of job slot `j`. -/
structure RecordsWritten (j : Nat) (s t : State) : Prop where
  sorted : tsorted t.jobs
  rd : (job t j).rd = (job s j).rd
  other : ∀ k, k ≠ j → job t k = job s k
  ras : t.ras = s.ras
  lov : t.lov = s.lov

theorem RecordsWritten.refl (j : Nat) {s : State} (hs : tsorted s.jobs) : RecordsWritten j s s := ⟨hs, rfl, fun _ _ => rfl, rfl, rfl⟩

theorem RecordsWritten.trans {j : Nat} {s t u : State} (h : RecordsWritten j s t) (g : RecordsWritten j t u) : RecordsWritten j s u :=
  ⟨g.sorted, g.rd.trans h.rd, fun k hk => (g.other k hk).trans (h.other k hk), g.ras.trans h.ras, g.lov.trans h.lov⟩

/-- Notes change what goes out and what a drain holds. -/
theorem memberNotes_frame (b : List Byte) (s : State) :
    memberNotes b s = { s with out := (memberNotes b s).out, rte := (memberNotes b s).rte } := by
  rw [memberNotes_eq]
  cases hd : drains s 4 with
  | false =>
    rw [foldl_mgmt_sent _ _ hd]
  | true =>
    rw [foldl_mgmt_held _ _ hd]

theorem recordWrite_writes {j : Nat} {b : List Byte} {irq : Bool} {r : List (List Byte × Bool)} {s : State} (hs : tsorted s.jobs)
    (h : recordRoom j s = true) (hh : (job s j).held = (b, irq) :: r) :
    RecordsWritten j s (recordWrite j s) ∧ (job (recordWrite j s) j).held = r := by
  have hraised (c : Prop) [Decidable c] (v : Nat) : ∃ o h, (if c then vector v (recordWritten j b r s) else recordWritten j b r s) =
      { recordWritten j b r s with out := o, hif := h } := by
    split
    · exact ⟨_, _, vector_frame v _⟩
    · exact ⟨_, _, rfl⟩
  obtain ⟨o, f, heq⟩ := hraised (irq = true ∧ (job s j).vec ≠ 0xFF) (320 + (job s j).vec)
  have hmine : job (recordWritten j b r s) j = _ := job_setJob j _ _ hs
  have hwritten : RecordsWritten j s (recordWritten j b r s) :=
    ⟨tsorted_tset _ hs _ _, by rw [hmine], fun k hk => job_setJob_other _ _ _ _ hs hk, rfl, rfl⟩
  rw [recordWrite_of_room h hh, heq, memberNotes_frame]
  exact ⟨{ hwritten with }, congrArg Job.held hmine⟩

/-- The pump writes until the ring has no room, or nothing is held. -/
theorem recordPump_writes (n j : Nat) {s : State} (hs : tsorted s.jobs) (hn : (job s j).held.length ≤ n) :
    RecordsWritten j s (recordPump n j s) ∧ recordRoom j (recordPump n j s) = false := by
  induction n generalizing s with
  | zero => exact ⟨.refl j hs, recordRoom_of_empty (List.length_eq_zero_iff.mp (Nat.le_zero.mp hn))⟩
  | succ n ih =>
    unfold recordPump
    split
    next hroom =>
      cases hh : (job s j).held with
      | nil => exact absurd hroom (by rw [recordRoom_of_empty hh]; exact Bool.false_ne_true)
      | cons e r =>
        obtain ⟨hone, hheld⟩ := recordWrite_writes hs hroom hh
        obtain ⟨hrest, hfull⟩ := ih (s := recordWrite j s) hone.sorted (by
          rw [hh, List.length_cons] at hn
          rw [hheld]
          omega)
        exact ⟨hone.trans hrest, hfull⟩
    next hroom => exact ⟨.refl j hs, by simpa using hroom⟩

/-- The chip when a ring is written to HIF_EVRING: one written in ORPHAN is not yet given (R439). -/
def ringGiven (w : Nat) (s : State) : State :=
  modHif (fun h => { h with evLog2 := bits w 3 0, evBase := bits w 63 6, evGiven := h.evGiven || h.state != .orphan }) s

/-- The chip when RD of the event ring is written. -/
def eventRingRead (rd : Nat) (s : State) : State := modHif (fun h => { h with evRd := rd % 65536 }) s

/-- The chip when RD of the completion ring of job slot `j` is written. -/
def jobRingRead (j rd : Nat) (s : State) : State := modJob j (fun v => { v with rd := rd % 2 ^ 32 }) s

/-- Settles O24: each write stores its field; where entries waited, the pump writes them until the ring has no room. -/
theorem hostRegisterWrites : Obligations.HostRegisterWrites := by
  unfold Obligations.HostRegisterWrites
  refine ⟨fun w s hup => whenUp_of_up (heartbeatWrite w.toNat) hup,
    fun w s hup => ⟨fun hw => ?_, fun hw => ?_⟩, fun w s hup hheld => ⟨fun hw => ?_, fun hb hl => ?_⟩, fun w s hup hb hl => ?_,
    fun rd s hup => ?_, fun j rd s hwf hup => ?_⟩
  · exact (whenUp_of_up (hdmNextWrite w.toNat) hup).trans (congrArg _ (if_neg (Nat.not_lt.mpr hw)))
  · exact (whenUp_of_up (hdmNextWrite w.toNat) hup).trans (congrArg _ (if_pos hw))
  · have hgood : ¬(bits w.toNat 63 6 ≠ 0 ∧ bits w.toNat 3 0 < 4) := by omega
    refine (whenUp_of_up (evRingWrite w.toNat) hup).trans (congrArg _ ((if_neg hgood).trans ?_))
    simp only [modHif, hheld]
    rfl
  · exact (whenUp_of_up (evRingWrite w.toNat) hup).trans (congrArg _ (if_pos ⟨hb, hl⟩))
  · obtain ⟨hwrites, hfull⟩ := eventPump_writes _ (Nat.le_refl (ringGiven w.toNat s).hif.held.length)
    exact ⟨_, (whenUp_of_up (evRingWrite w.toNat) hup).trans (congrArg _ (if_neg (by omega))), hwrites.log2, hwrites.base, hfull,
      hwrites.jobs, hwrites.ras, hwrites.lov⟩
  · obtain ⟨hwrites, hfull⟩ := eventPump_writes _ (Nat.le_refl (eventRingRead rd s).hif.held.length)
    exact ⟨_, whenUp_of_up (evRdWrite rd) hup, hwrites.rd, hfull, hwrites.jobs, hwrites.ras, hwrites.lov⟩
  · have hset := hwf.sound.jobs
    have hmine : job (jobRingRead j.val rd s) j.val = _ := job_setJob _ _ _ hset
    obtain ⟨hwrites, hfull⟩ := recordPump_writes _ j.val (s := jobRingRead j.val rd s) (tsorted_tset _ hset _ _) (Nat.le_refl _)
    exact ⟨_, whenUp_of_up (jobRdWrite j.val rd) hup, hwrites.rd.trans (congrArg Job.rd hmine), hfull,
      fun k hk => (hwrites.other k hk).trans (job_setJob_other _ _ _ _ hset hk), hwrites.ras, hwrites.lov⟩

end Sys2Proof.Machine

end

section

/-! ## HDM accesses (O21) -/

namespace Sys2Proof.Machine

-- One thread for the section's proofs, as in the section on O5.
set_option Elab.async false

/-- A block that CXL.mem reaches is a block of Lovor memory. -/
theorem hdmAddr_aligned {s : State} {off : Nat} (h : hdmOpen s off = true) : hdmAddr s off % 64 = 0 := by
  simp only [hdmOpen, Bool.and_eq_true, decide_eq_true_eq] at h
  obtain ⟨-, hoff, -⟩ := h
  unfold hdmAddr hdmSize
  dsimp only
  split <;> omega

theorem up_of_hdmOpen {s : State} {off : Nat} (h : hdmOpen s off = true) : up s = true := by
  simp only [hdmOpen, Bool.and_eq_true] at h
  obtain ⟨⟨⟨hup, -⟩, -⟩, -⟩ := h
  exact hup

/-- The chip once 64 bytes are stored at the Lovor address `a`, with or without poison. -/
def blockStored (a : Nat) (data : List Byte) (p : Bool) (s : State) : State :=
  let s1 := lovWrite a data s
  if p then { s1 with lov := { s1.lov with poison := insertNat s1.lov.poison (a / 64) } } else s1

theorem blockStored_mem (a : Nat) (data : List Byte) (p : Bool) (s : State) :
    (blockStored a data p s).lov.mem = memWrite s.lov.mem a data := by
  cases p <;> rfl

theorem blockStored_frame (a : Nat) (data : List Byte) (p : Bool) (s : State) : blockStored a data p s =
    { s with lov := { s.lov with mem := (blockStored a data p s).lov.mem, poison := (blockStored a data p s).lov.poison } } := by
  cases p <;> rfl

/-- A block is poisoned after the store when it was before, but for the block that is stored. -/
theorem mem_blockStored_poison {a : Nat} (ha : a % 64 = 0) {data : List Byte} (hd : data.length = 64) (p : Bool) (s : State) (b : Nat) :
    b ∈ (blockStored a data p s).lov.poison ↔ if b = a / 64 then p = true else b ∈ s.lov.poison := by
  have hkept : b ∈ (lovWrite a data s).lov.poison ↔ b ∈ s.lov.poison ∧ b ≠ a / 64 := by
    simp only [lovWrite, List.mem_filter, decide_eq_true_eq, hd]
    exact and_congr_right fun _ => by omega
  cases p with
  | false =>
    simp only [blockStored, Bool.false_eq_true, if_false, hkept]
    split <;> simp_all
  | true =>
    simp only [blockStored, if_true, mem_insertNat, hkept]
    split <;> simp_all

theorem hdmWrite_of_open {off : Nat} {data : List Byte} {p : Bool} {s : State} (ho : hdmOpen s off = true)
    (hk : padKept 255 (hdmAddr s off) s = false) (hd : data.length = 64) :
    hdmWrite off data p s = blockStored (hdmAddr s off) data p s := by
  have hall : slice data 0 64 = data := by simp [slice, List.take_of_length_le, hd]
  simp only [hdmWrite, ho, hk, hall]
  simp only [Bool.not_true, Bool.false_eq_true, or_self, if_false]
  rfl

theorem hdmRead_of_open {off : Nat} {s : State} (ho : hdmOpen s off = true) (hk : padKept 255 (hdmAddr s off) s = false) :
    hdmRead off s = emit (.hdm (lovRead s (hdmAddr s off) 64) (poisoned s (hdmAddr s off) 64))
      (if poisoned s (hdmAddr s off) 64 then stkUe (hdmAddr s off) s else readDrawn (hdmAddr s off) s) := by
  simp only [hdmRead, ho, hk]
  simp

theorem hdmRead_of_clean {off : Nat} {s : State} (ho : hdmOpen s off = true) (hk : padKept 255 (hdmAddr s off) s = false)
    (hp : poisoned s (hdmAddr s off) 64 = false) :
    hdmRead off s = emit (.hdm (lovRead s (hdmAddr s off) 64) false) (readDrawn (hdmAddr s off) s) := by
  rw [hdmRead_of_open ho hk, hp]
  rfl

theorem hdmRead_of_poisoned {off : Nat} {s : State} (ho : hdmOpen s off = true) (hk : padKept 255 (hdmAddr s off) s = false)
    (hp : poisoned s (hdmAddr s off) 64 = true) :
    hdmRead off s = emit (.hdm (lovRead s (hdmAddr s off) 64) true) (stkUe (hdmAddr s off) s) := by
  rw [hdmRead_of_open ho hk, hp]
  rfl

/-- A block is read poisoned when it is listed. -/
theorem poisoned_block {a : Nat} (ha : a % 64 = 0) (s : State) : poisoned s a 64 = true ↔ a / 64 ∈ s.lov.poison := by
  simp only [poisoned, List.any_eq_true, decide_eq_true_eq]
  refine ⟨?_, fun h => ⟨_, h, by omega⟩⟩
  rintro ⟨b, hb, h1, h2⟩
  rwa [show a / 64 = b by omega]

/-- The bytes of a clean write are read back (R387). -/
theorem hdmRead_of_stored {off : Nat} {data : List Byte} {s : State} (hmem : memWf s.lov.mem = true) (ho : hdmOpen s off = true)
    (hk : padKept 255 (hdmAddr s off) s = false) (hd : data.length = 64) :
    hdmRead off (blockStored (hdmAddr s off) data false s) =
      emit (.hdm data false) (readDrawn (hdmAddr s off) (blockStored (hdmAddr s off) data false s)) := by
  have ha := hdmAddr_aligned ho
  have hclean : poisoned (blockStored (hdmAddr s off) data false s) (hdmAddr s off) 64 = false := by
    rw [Bool.eq_false_iff, Ne, poisoned_block ha, mem_blockStored_poison ha hd]
    simp
  have hbytes : lovRead (blockStored (hdmAddr s off) data false s) (hdmAddr s off) 64 = data := by
    rw [lovRead, blockStored_mem, ← hd]
    exact memRead_memWrite hmem _ data
  have hread := hdmRead_of_clean (s := blockStored (hdmAddr s off) data false s) ho hk hclean
  exact hread.trans (congrArg (fun bs => emit (.hdm bs false) (readDrawn (hdmAddr s off) _)) hbytes)

/-- Settles O21: a write stores one block, and a read answers the block, by whether it stands poisoned. -/
theorem hdmAccess : Obligations.HdmAccess := by
  unfold Obligations.HdmAccess
  refine ⟨fun off data p s hwf ho hk hd => ?_, fun off s ho hk => ⟨fun hp => ?_, fun hp => ?_⟩, fun a s => ?_,
    fun off data p s h => ?_⟩
  · have ha := hdmAddr_aligned ho
    have hmem := hwf.sound.mem
    have hpoison := mem_blockStored_poison ha hd p s
    refine ⟨blockStored (hdmAddr s off) data p s, congrArg _ (hdmWrite_of_open ho hk hd), fun i hi => ?_, fun a hout => ?_,
      by simp [hpoison], fun b hb => by simp [hpoison, hb], blockStored_frame _ _ _ s, fun hp => ?_⟩
    · rw [blockStored_mem, memByte_memWrite_in (sorted_of_memWf hmem) _ _ _ (by omega) (by omega), Nat.add_sub_cancel_left]
    · rw [blockStored_mem, memByte_memWrite_out (sorted_of_memWf hmem) _ _ _ (by omega)]
    · subst hp
      exact ⟨_, rfl, congrArg Host.Outcome.next (hdmRead_of_stored hmem ho hk hd)⟩
  · exact ⟨_, rfl, congrArg Host.Outcome.next (hdmRead_of_clean ho hk hp)⟩
  · exact ⟨_, congrArg Host.Outcome.next (hdmRead_of_poisoned ho hk hp), rfl, stkUe_raises _ (up_of_hdmOpen ho)⟩
  · unfold readDrawn
    split
    · exact .inr rfl
    · exact .inl rfl
  · have hshut : (!hdmOpen s off) = true ∨ padKept 255 (hdmAddr s off) s = true := by simpa using h
    exact ⟨congrArg _ (if_pos hshut), congrArg _ (if_pos hshut)⟩

end Sys2Proof.Machine

end

section

/-! ## The statement about mailbox slots (O27) fails, and how a scan takes commands (O28) -/

namespace Sys2Proof.Machine

-- One thread for the section's proofs, as in the section on O5.
set_option Elab.async false

/-- A chip that does not run records no error, so that a misaligned read of a slot leaves no record (R475). -/
theorem slotRead_misaligned_off {off width : Nat} {s : State} (hup : up s = false) (h : off % width ≠ 0) :
    slotRead off width s = (s, 0) := by
  rw [slotRead.eq_def]
  refine (if_pos (.inr h)).trans ?_
  rw [raise, if_neg (by simp [hup])]

/-- Refutes O27: its last clause asks for the record of a misaligned read without asking for a chip that runs. The reset
state is well formed and does not run; a read of 8 bytes at offset 9 of its slot 0 answers zero and records nothing. -/
theorem not_mailboxSlotWrites : ¬ Obligations.MailboxSlotWrites := by
  unfold Obligations.MailboxSlotWrites
  rintro ⟨-, -, -, -, -, -, hread⟩
  obtain ⟨t, ht, -, hrec⟩ := hread 0 9 8 State.reset (by decide) (by decide) (.inr (by decide))
  have hsame : t = State.reset :=
    (congrArg Prod.fst (ht.symm.trans (slotRead_misaligned_off (by decide) (by decide))))
  rw [hsame] at hrec
  exact absurd hrec (by decide)

/-! Taking a command (R426 to R428). -/

/-- The slot of a command that is taken. -/
def takenSlot (m : Slot) (n : Nat) : Slot :=
  { m with bytes := m.bytes.set 0 2, work := .ready, scratch := [], buffer := [], unruled := false, order := n }

/-- The chip when the command of slot `i` is taken, before it is logged. -/
def slotTaken (i : Nat) (s : State) : State := setMslot i (takenSlot (mslot s i) (nextOrder s)) s

theorem mslot_slotTaken (i : Nat) (s : State) : mslot (slotTaken i s) i = takenSlot (mslot s i) (nextOrder s) := by
  refine tget_tset_ne_default _ _ _ _ fun h => ?_
  have hwork : SlotWork.ready = .idle := congrArg Slot.work h
  exact absurd hwork (by decide)

/-- The header of a taken command beyond STATE is the host's. -/
theorem hdr_takenSlot (m : Slot) (n : Nat) {off : Nat} (h : 0 < off) (k : Nat) : hdr (takenSlot m n).bytes off k = hdr m.bytes off k :=
  fieldAt_set_zero _ _ h k

theorem slotCmd_takenSlot (m : Slot) (n : Nat) : slotCmd (takenSlot m n) = slotCmd m := hdr_takenSlot m n (by decide) 2

theorem preop_takenSlot (m : Slot) (n : Nat) : preop (takenSlot m n) = preop m :=
  congrArg (bits · 2 1) (hdr_takenSlot m n (by decide) 1)

theorem stateRule_takenSlot {s t : State} (h : t.hif = s.hif) (m : Slot) (n : Nat) : stateRule t (takenSlot m n) = stateRule s m := by
  simp only [stateRule, h, slotCmd_takenSlot, hdr_takenSlot m n (show 0 < 8 by decide)]

/-- The chip when the command of slot `i` is taken and logged (R468, log 62). -/
def slotLogged (i : Nat) (s : State) : State := logOpen 3 (slotCmd (mslot s i)) (slotTaken i s)

theorem slotLogged_hif (i : Nat) (s : State) : (slotLogged i s).hif = (slotTaken i s).hif := logOpen_hif 3 _ _

theorem mslot_slotLogged (i : Nat) (s : State) : mslot (slotLogged i s) i = takenSlot (mslot s i) (nextOrder s) := by
  rw [mslot, slotLogged_hif]
  exact mslot_slotTaken i s

theorem adoptAhead_slotLogged (i : Nat) (s : State) : adoptAhead (slotLogged i s) i = adoptAhead (slotTaken i s) i := by
  unfold adoptAhead mslot
  rw [slotLogged_hif]

theorem stateRule_slotLogged (i : Nat) (s : State) :
    stateRule (slotLogged i s) (mslot (slotLogged i s) i) = stateRule s (mslot s i) := by
  have hrule := stateRule_takenSlot (slotLogged_hif i s) (mslot s i) (nextOrder s)
  rw [mslot_slotLogged, hrule]
  rfl

theorem slotRule_of_refused {i code : Nat} {s : State} (h : stateRule s (mslot s i) = some code) : slotRule i s = cmdFail i code s := by
  simp only [slotRule, h]

theorem slotRule_of_plain {i : Nat} {s : State} (h : stateRule s (mslot s i) = none) (hp : preop (mslot s i) = 0) :
    slotRule i s = s := by
  simp only [slotRule, h]
  exact if_pos hp

section Take

variable {i : Nat} {s : State}

theorem slotTake_of_malformed (h : headerGood (mslot s i) = false ∨ requestGood (mslot s i) = false) :
    slotTake i s = cmdFail i 0x0102 (slotLogged i s) := if_pos (by simpa using h)

variable (hhead : headerGood (mslot s i) = true) (hreq : requestGood (mslot s i) = true)

include hhead hreq

theorem slotTake_of_good : slotTake i s =
    if adoptAhead (slotTaken i s) i then modMslot i (fun m => { m with unruled := true }) (slotLogged i s)
    else slotRule i (slotLogged i s) := by
  rw [← adoptAhead_slotLogged]
  exact if_neg (by simp [hhead, hreq])

theorem slotTake_of_adoptAhead (ha : adoptAhead (slotTaken i s) i = true) :
    slotTake i s = modMslot i (fun m => { m with unruled := true }) (slotLogged i s) :=
  (slotTake_of_good hhead hreq).trans (if_pos ha)

theorem slotTake_of_ruled (ha : adoptAhead (slotTaken i s) i = false) : slotTake i s = slotRule i (slotLogged i s) :=
  (slotTake_of_good hhead hreq).trans (if_neg (by simp [ha]))

theorem slotTake_of_refused {code : Nat} (ha : adoptAhead (slotTaken i s) i = false) (hr : stateRule s (mslot s i) = some code) :
    slotTake i s = cmdFail i code (slotLogged i s) := by
  rw [slotTake_of_ruled hhead hreq ha, slotRule_of_refused ((stateRule_slotLogged i s).trans hr)]

theorem slotTake_of_plain (ha : adoptAhead (slotTaken i s) i = false) (hr : stateRule s (mslot s i) = none)
    (hp : preop (mslot s i) = 0) : slotTake i s = slotLogged i s := by
  have hplain : preop (mslot (slotLogged i s) i) = 0 := by rw [mslot_slotLogged, preop_takenSlot, hp]
  rw [slotTake_of_ruled hhead hreq ha, slotRule_of_plain ((stateRule_slotLogged i s).trans hr) hplain]

end Take

/-! The timeout of a command (R428). -/

/-- The command of slot `i` waits for one taken earlier. -/
def slotHeld (s : State) (i : Nat) : Bool := (mslot s i).unruled || s.hif.slots.any (heldBy s i)

section Timeout

variable {i : Nat} {s : State}

theorem cmdTimeout_of_waiting (h : (mslot s i).work = .waiting) : cmdTimeout i s = cmdFail i 0x0107 (cmdCancel i s) := by
  simp [cmdTimeout, h]

theorem cmdTimeout_of_preop (h : (mslot s i).work = .preop) : cmdTimeout i s = waitTimeout (preObj (mslot s i)) (agentSlot i) s := by
  simp [cmdTimeout, h]

theorem cmdTimeout_of_held (h : (mslot s i).work = .ready) (hh : slotHeld s i = true) :
    cmdTimeout i s = adoptOver (cmdFail i 0x0107 s) := by
  simp only [slotHeld] at hh
  simp [cmdTimeout, h, hh]

theorem cmdTimeout_of_running (hw : (mslot s i).work ≠ .waiting) (hp : (mslot s i).work ≠ .preop)
    (hh : (mslot s i).work ≠ .ready ∨ slotHeld s i = false) : cmdTimeout i s = s := by
  simp only [slotHeld] at hh
  rw [cmdTimeout.eq_def]
  refine (if_neg hp).trans ((if_neg hw).trans (if_neg ?_))
  rcases hh with hh | hh <;> simp [hh]

end Timeout

/-- Settles O28: a taken command by its header and request, by an ADOPT ahead of it and by the state's rules, and a timeout by
where the command stands. -/
theorem mailboxScanTakes : Obligations.MailboxScanTakes := by
  unfold Obligations.MailboxScanTakes
  refine ⟨fun s hfw => ?_, fun i s _ hhead hreq ha hr hp => slotTake_of_plain hhead hreq ha hr hp,
    fun i s hhead hreq ha => slotTake_of_adoptAhead hhead hreq ha,
    fun i s h => ⟨slotLogged i s, slotTake_of_malformed h, congrArg Hif.slots (slotLogged_hif i s)⟩,
    fun i code s hhead hreq ha hr => ⟨slotLogged i s, slotTake_of_refused hhead hreq ha hr, ?_, ?_⟩,
    fun i s hup => ⟨fun hw => ?_, fun hw => ?_, fun hw hh => ?_, fun hw hp hh => ?_⟩⟩
  · exact (whenUp_of_up scan (up_of_fwRuns hfw)).trans (congrArg _ (if_pos hfw))
  · rw [slotLogged_hif]
    rfl
  · exact logOpen_jobs 3 _ _
  · exact (whenUp_of_up (cmdTimeout i.val) hup).trans (congrArg _ (cmdTimeout_of_waiting hw))
  · exact (whenUp_of_up (cmdTimeout i.val) hup).trans (congrArg _ (cmdTimeout_of_preop hw))
  · exact (whenUp_of_up (cmdTimeout i.val) hup).trans (congrArg _ (cmdTimeout_of_held hw hh))
  · exact whenUp_of_fixed (cmdTimeout_of_running hw hp hh)

end Sys2Proof.Machine

end

section

/-! ## IDENTIFY, CAL_READ, RUN_RECORD and LOG_SNAPSHOT (O29) -/

namespace Sys2Proof.Machine

-- One thread for the section's proofs, as in the section on O5.
set_option Elab.async false

/-! A digest has the length asked for (R36). -/

theorem kChi_length (a : List Word) : (kChi a).length = 25 := by simp [kChi]

theorem keccakF_length {a : List Word} (h : a.length = 25) : (keccakF a).length = 25 := by
  have hfold (l : List Word) {b : List Word} (hb : b.length = 25) : (l.foldl kStep b).length = 25 := by
    induction l generalizing b with
    | nil => exact hb
    | cons c l ih => exact ih ((List.length_set ..).trans (kChi_length _))
  exact hfold kRound h

theorem kAbsorb_length (r : Nat) (a : List Word) (block : List Byte) : (kAbsorb r a block).length = 25 :=
  keccakF_length (by simp)

theorem kAbsorbAll_length (r fuel : Nat) {a : List Word} (h : a.length = 25) (m : List Byte) :
    (kAbsorbAll r fuel a m).length = 25 := by
  induction fuel generalizing a m with
  | zero => exact h
  | succ fuel ih =>
    unfold kAbsorbAll
    split
    · exact kAbsorb_length _ _ _
    · exact ih (kAbsorb_length _ _ _) _

theorem length_flatMap_wordBytes (a : List Word) : (a.flatMap wordBytes).length = 8 * a.length := by
  induction a with
  | nil => rfl
  | cons w r ih =>
    simp only [List.flatMap_cons, List.length_append, ih, wordBytes, leBytes_length, List.length_cons]
    omega

/-- SHAKE256 fills a digest of 32 bytes from its first block. -/
theorem shake256_length (m : List Byte) : (shake256 m 32).length = 32 := by
  have hlanes : (kAbsorbAll 136 (m.length / 136 + 1) (List.replicate 25 0) m).length = 25 :=
    kAbsorbAll_length _ _ List.length_replicate m
  have hblock := length_flatMap_wordBytes ((kAbsorbAll 136 (m.length / 136 + 1) (List.replicate 25 0) m).take 17)
  rw [List.length_take, hlanes] at hblock
  exact List.length_take_of_le (hblock ▸ by decide)

/-! The reply of IDENTIFY (Table 13-5). -/

/-- What lies beyond a row's first part lies in the rest of it. -/
theorem slice_skip {a : List Byte} (b : List Byte) {off : Nat} (h : a.length ≤ off) (n : Nat) :
    slice (a ++ b) off n = slice b (off - a.length) n := by
  rw [slice, List.drop_append, List.drop_eq_nil_of_le h, List.nil_append]
  rfl

theorem fieldAt_skip {a : List Byte} (b : List Byte) {off : Nat} (h : a.length ≤ off) (n : Nat) :
    fieldAt (a ++ b) off n = fieldAt b (off - a.length) n := congrArg leNat (slice_skip b h n)

theorem slice_head {a : List Byte} {n : Nat} (h : a.length = n) (r : List Byte) : slice (a ++ r) 0 n = a := by
  subst h
  simp [slice]

theorem fieldAt_head (n v : Nat) (r : List Byte) : fieldAt (leBytes n v ++ r) 0 n = v % 2 ^ (8 * n) :=
  fieldAt_leBytes (p := []) rfl rfl

theorem length_activeFp (s : State) : (activeFp s).length = 32 := by
  unfold activeFp
  split
  · exact length_slice _ _ _
  · exact List.length_replicate

theorem length_keyDigest : keyDigest.length = 32 := shake256_length _

/-- The 112 bytes of the reply, part by part. -/
theorem rp_identifyReply (s : State) : rp 112 (identifyReply s) =
    leBytes 8 identWord ++ (leBytes 8 Config.serial.toNat ++ (leBytes 8 s.fw.ver.toNat ++ (leBytes 1 s.fw.slot ++
      (leBytes 1 (hifNum s.hif.state) ++ (leBytes 1 (if s.hif.cxlIoOnly then 0 else s.hif.hdm) ++ (leBytes 1 0x10 ++
      (leBytes 2 (mapCount s 0 2048) ++ (leBytes 2 (if s.lay.startupDone then s.rte.coord else 0xFFFF) ++
      (activeFp s ++ (keyDigest ++ (leBytes 4 s.hif.epoch ++ zeros 12))))))))))) := by
  have hlen : (identifyReply s).length = 100 := by
    simp [identifyReply, wordBytes, fwverBytes, length_activeFp, length_keyDigest]
  rw [rp_of_length (by omega), hlen]
  simp only [identifyReply, wordBytes, fwverBytes, List.append_assoc]
  rfl

theorem identify_fields (s : State) : let p := rp 112 (identifyReply s)
    fieldAt p 0 8 = 0x02A148301D4F ∧ fieldAt p 16 8 = s.fw.ver.toNat ∧ fieldAt p 24 1 = s.fw.slot % 256 ∧
    fieldAt p 25 1 = hifNum s.hif.state ∧ fieldAt p 27 1 = 0x10 ∧
    fieldAt p 30 2 = (if s.lay.startupDone then s.rte.coord % 65536 else 0xFFFF) ∧ slice p 32 32 = activeFp s ∧
    fieldAt p 96 4 = s.hif.epoch % 2 ^ 32 := by
  have hstate : hifNum s.hif.state < 256 := by cases s.hif.state <;> decide
  have hcoord : (if s.lay.startupDone then s.rte.coord else 0xFFFF) % 65536 =
      if s.lay.startupDone then s.rte.coord % 65536 else 0xFFFF := by split <;> rfl
  have hver := s.fw.ver.isLt
  intro p
  rw [show p = _ from rp_identifyReply s]
  refine ⟨?_, ?_, ?_, ?_, ?_, ?_, ?_, ?_⟩
  all_goals
    simp (disch := simp [length_activeFp, length_keyDigest]) only [fieldAt_skip, slice_skip, fieldAt_head, leBytes_length,
      length_activeFp, length_keyDigest, Nat.reduceSub, Nat.reduceMul]
  · decide
  · exact Nat.mod_eq_of_lt hver
  · rfl
  · exact Nat.mod_eq_of_lt hstate
  · rfl
  · exact hcoord
  · exact slice_head (length_activeFp s) _

/-! Copies to host memory begin (R430). -/

section Begin

variable {i : Nat} {s : State}

/-- An address that is not a multiple of 64 fails the command, whatever it copies. -/
theorem aligned64_of_misaligned {a : Nat} (f : State → State) (h : a % 64 ≠ 0) : aligned64 i a f s = cmdFail i 0x010F s := if_pos h

theorem calRead_of_aligned {m : Slot} (h : req m 0 8 % 64 = 0) : calRead i m s =
    if !s.cal.valid then cmdFail i 0x0C0B s
    else if req m 8 8 < s.cal.set.length then cmdFail i 0x0114 s else copyOut i s.cal.set [] s := aligned64_of_mod _ _ _ h

theorem recordBegin_of_known {m : Slot} {j : Nat} (hj : jobOf (req m 0 8) s = some j) : recordBegin i m s =
    if (job s j).state ≠ .ended then cmdFail i 0x0117 s
    else aligned64 i (req m 8 8) (fun s =>
      if req m 16 4 < (job s j).record.length then cmdFail i 0x0114 s else copyOut i (job s j).record [j] s) s := by
  simp only [recordBegin, hj]

theorem recordBegin_of_aligned {m : Slot} {j : Nat} (hj : jobOf (req m 0 8) s = some j) (he : (job s j).state = .ended)
    (h : req m 8 8 % 64 = 0) : recordBegin i m s =
    if req m 16 4 < (job s j).record.length then cmdFail i 0x0114 s else copyOut i (job s j).record [j] s :=
  (recordBegin_of_known hj).trans ((if_neg (not_not_intro he)).trans (aligned64_of_mod _ _ _ h))

/-- A snapshot begins at max(0, HEAD − 65,536), and takes the entries up to HEAD. -/
theorem snapBegin_of_aligned {m : Slot} (h : req m 0 8 % 64 = 0) : snapBegin i m s =
    let n := min s.log.head 65536
    if req m 8 8 < 64 * n then cmdFail i 0x0114 s
    else { copyOut i (logBytes s (s.log.head - n) n) [s.log.head - n, n] s with
      log := { s.log with snap := true, snapEarly := none } } := by
  have hn : s.log.head - snapFirst s = min s.log.head 65536 := by
    unfold snapFirst
    omega
  rw [snapBegin, aligned64_of_mod _ _ _ h]
  simp only [hn]
  rfl

end Begin

/-- Settles O29: the fields of IDENTIFY from the parts of its reply; each copy by its checks in their order. -/
theorem readCommands : Obligations.ReadCommands := by
  unfold Obligations.ReadCommands
  refine ⟨fun i s hrun => ⟨_, exec_onSlot _ hrun, length_slice _ _ _, identify_fields s⟩, fun i s hrun => ?_, fun i s hrun hj => ?_,
    fun i j s hrun hj => ?_, fun i s hrun => ?_⟩
  · have hexec : exec (.calRead i) s = .next (calRead i.val (mslot s i.val) s) := exec_onSlot _ hrun
    rw [hexec]
    refine ⟨fun h => congrArg _ (aligned64_of_misaligned _ h), fun h hv => congrArg _ ?_, fun h hv hlen => congrArg _ ?_,
      fun h hv hlen => congrArg _ ?_⟩
    · rw [calRead_of_aligned h, if_pos (by simp [hv])]
    · rw [calRead_of_aligned h, if_neg (by simp [hv]), if_pos hlen]
    · rw [calRead_of_aligned h, if_neg (by simp [hv]), if_neg (Nat.not_lt.mpr hlen)]
      rfl
  · refine (exec_onSlot _ hrun).trans (congrArg _ ?_)
    simp only [recordBegin, hj]
  · have hexec : exec (.runRecord i) s = .next (recordBegin i.val (mslot s i.val) s) := exec_onSlot _ hrun
    rw [hexec]
    refine ⟨fun hne => congrArg _ ?_, fun he h => congrArg _ ?_, fun he h hlen => congrArg _ ?_, fun he h hlen => congrArg _ ?_⟩
    · rw [recordBegin_of_known hj, if_pos hne]
    · rw [recordBegin_of_known hj, if_neg (not_not_intro he), aligned64_of_misaligned _ h]
    · rw [recordBegin_of_aligned hj he h, if_pos hlen]
    · rw [recordBegin_of_aligned hj he h, if_neg (Nat.not_lt.mpr hlen)]
      rfl
  · have hexec : exec (.logSnapshot i) s = .next (snapBegin i.val (mslot s i.val) s) := exec_onSlot _ hrun
    rw [hexec]
    refine ⟨fun h => congrArg _ (aligned64_of_misaligned _ h), fun h hlen => congrArg _ ?_,
      fun h hlen => ⟨_, congrArg _ ?_, rfl⟩⟩
    · rw [snapBegin_of_aligned h]
      exact if_pos hlen
    · rw [snapBegin_of_aligned h]
      exact if_neg (Nat.not_lt.mpr hlen)

end Sys2Proof.Machine

end

section

/-! ## The end of a host-memory access or a flash write (O34) -/

namespace Sys2Proof.Machine

-- One thread for the section's proofs, as in the section on O5.
set_option Elab.async false

theorem exec_cxlIoTransferDone {i : Fin 256} (ok : Bool) (data : List Byte) {s : State} (hfw : fwRuns s = true) :
    exec (.cxlIoTransferDone i ok data) s = .next (transferDone i.val ok data s) :=
  whenUp_of_up (transferDone i.val ok data) (up_of_fwRuns hfw)

theorem exec_flashWriteDone {i : Fin 256} (ok : Bool) {s : State} (hfw : fwRuns s = true) :
    exec (.flashWriteDone i ok) s = .next (flashDone i.val ok s) := whenUp_of_up (flashDone i.val ok) (up_of_fwRuns hfw)

/-! The command that a transfer ends (R430). -/

/-- A read that brings the bytes asked for, or fails, ends its transfer. -/
theorem transfer_whole {ok : Bool} {data : List Byte} {m : Slot} (hlen : ok = true → data.length = req m 8 8) :
    (!ok || data.length == transferLen m) = true := by
  cases ok with
  | false => rfl
  | true => simp [transferLen, hlen rfl]

section Transfer

variable {i : Nat} {s : State} (hfw : fwRuns s = true) (hw : (mslot s i).work = .transfer) (ok : Bool) (data : List Byte)

include hfw hw

theorem transferDone_loadLayout (hc : slotCmd (mslot s i) = 0x10) (hlen : ok = true → data.length = req (mslot s i) 8 8) :
    transferDone i ok data s = loadRead i ok data (mslot s i) s := by
  simp [transferDone, hfw, hw, hc, transfer_whole hlen]

theorem transferDone_fwStage (hc : slotCmd (mslot s i) = 0x50) (hlen : ok = true → data.length = req (mslot s i) 8 8) :
    transferDone i ok data s = stageRead i ok data s := by
  simp [transferDone, hfw, hw, hc, transfer_whole hlen]

theorem transferDone_calWrite (hc : slotCmd (mslot s i) = 0x71) (hlen : ok = true → data.length = req (mslot s i) 8 8) :
    transferDone i ok data s = calWriteRead i ok data (mslot s i) s := by
  simp [transferDone, hfw, hw, hc, transfer_whole hlen]

theorem transferDone_calRead (hc : slotCmd (mslot s i) = 0x70) :
    transferDone i ok data s = calReadDone i ok (mslot s i) s := by
  simp [transferDone, hfw, hw, hc]

theorem transferDone_runRecord (hc : slotCmd (mslot s i) = 0x80) :
    transferDone i ok data s = recordDone i ok (mslot s i) s := by
  simp [transferDone, hfw, hw, hc]

theorem transferDone_logSnapshot (hc : slotCmd (mslot s i) = 0xA0) :
    transferDone i ok data s = snapDone i ok (mslot s i) s := by
  simp [transferDone, hfw, hw, hc]

/-- A failed access fails the commands that it was all the work of. -/
theorem transferDone_failed (hc : slotCmd (mslot s i) ∈ [0x50, 0x70, 0x71, 0x80]) :
    transferDone i false data s = cmdFail i 0x0110 s := by
  simp only [List.mem_cons, List.not_mem_nil, or_false] at hc
  rcases hc with hc | hc | hc | hc
  · exact transferDone_fwStage hfw hw false data hc (by simp)
  · exact transferDone_calRead hfw hw false data hc
  · exact transferDone_calWrite hfw hw false data hc (by simp)
  · exact transferDone_runRecord hfw hw false data hc

end Transfer

section Flash

variable {i : Nat} {s : State} (hfw : fwRuns s = true) (hw : (mslot s i).work = .flash) (ok : Bool)

include hfw hw

theorem flashDone_loadLayout (hc : slotCmd (mslot s i) = 0x10) : flashDone i ok s = loadKept i ok (mslot s i) s := by
  simp [flashDone, hfw, hw, hc]

theorem flashDone_fwStage (hc : slotCmd (mslot s i) = 0x50) : flashDone i ok s = stageDone i ok (mslot s i) s := by
  simp [flashDone, hfw, hw, hc]

theorem flashDone_calWrite (hc : slotCmd (mslot s i) = 0x71) : flashDone i ok s = calWriteDone i ok (mslot s i) s := by
  simp [flashDone, hfw, hw, hc]

/-- A failed flash write fails the commands that it was all the work of. -/
theorem flashDone_failed (hc : slotCmd (mslot s i) ∈ [0x50, 0x71]) : flashDone i false s = cmdFail i (flashCode s) (drawn s) := by
  simp only [List.mem_cons, List.not_mem_nil, or_false] at hc
  rcases hc with hc | hc
  · exact flashDone_fwStage hfw hw false hc
  · exact flashDone_calWrite hfw hw false hc

end Flash

/-- The code of a failed flash write is one of Table 15-3. -/
theorem definedCode_flashCode (s : State) : definedCode (flashCode s) = true := by
  have hsome : 0x0101 ∈ definedCodes := List.mem_filter.mpr ⟨List.mem_range.mpr (by decide), by decide⟩
  have hlt : (freeW s).toNat % definedCodes.length < definedCodes.length := Nat.mod_lt _ (List.length_pos_of_mem hsome)
  have hmem : flashCode s ∈ definedCodes := by
    rw [flashCode, List.getD_eq_getElem _ _ hlt]
    exact List.getElem_mem hlt
  exact (List.mem_filter.mp hmem).2

/-! The copy of the log (R469). -/

/-- The chip when the last copy of the log is over: the staged entries are in the ring. -/
def snapOver (s : State) : State := logUnstage { s with log := { s.log with snap := false, snapEarly := none } }

theorem snapOver_log (s : State) : (snapOver s).log.staging = [] ∧ (snapOver s).log.snap = false := by
  have hfold (l : List LogItem) (t : State) : (l.foldl (fun t e => logRing e t) t).log.staging = t.log.staging ∧
      (l.foldl (fun t e => logRing e t) t).log.snap = t.log.snap := by
    induction l generalizing t with
    | nil => exact ⟨rfl, rfl⟩
    | cons e r ih => exact ih _
  exact hfold _ _

/-- The chip when the copy of slot `i` is over: with no other copy the snapshot is over, and nothing of it is left. -/
def snapLeft (i : Nat) (s : State) : State :=
  let s1 := snapEnd i s
  if s1.log.snap then s1 else { s1 with log := { s1.log with snapEarly := none } }

theorem snapDone_failed (i : Nat) (m : Slot) (s : State) : snapDone i false m s = cmdFail i 0x0110 (snapLeft i s) := rfl

theorem snapDone_copied (i : Nat) {m : Slot} {s : State} (h : s.log.snapEarly = none) : snapDone i true m s =
    cmdDone i (rp 16 (leBytes 8 (64 * m.scratch.getD 1 0) ++ leBytes 8 (m.scratch.getD 0 0)))
      (hostWrite (req m 0 8) (m.buffer.take (64 * m.scratch.getD 1 0)) (snapLeft i s)) := by
  have hcount : snapCount m s = m.scratch.getD 1 0 := by rw [snapCount, h]
  rw [snapDone.eq_def, hcount]
  rfl

/-- The end of a copy writes the log's ring. -/
theorem snapLeft_frame (i : Nat) (s : State) :
    (snapLeft i s).hostMem = s.hostMem ∧ (snapLeft i s).hif = s.hif ∧ (snapLeft i s).jobs = s.jobs ∧
      (snapLeft i s).newts = s.newts := by
  have hend : (snapEnd i s).hostMem = s.hostMem ∧ (snapEnd i s).hif = s.hif ∧ (snapEnd i s).jobs = s.jobs ∧
      (snapEnd i s).newts = s.newts := by
    unfold snapEnd
    split
    · simp
    · exact ⟨rfl, rfl, rfl, rfl⟩
  unfold snapLeft
  dsimp only
  split
  · exact hend
  · exact hend

theorem snapLeft_last {i : Nat} {s : State} (hsnap : s.log.snap = true)
    (hlast : ∀ e ∈ s.hif.slots, e.1 ≠ i → e.2.work ≠ .transfer) :
    (snapLeft i s).log.snap = false ∧ (snapLeft i s).log.staging = [] := by
  have hnone : s.hif.slots.any (fun e => e.1 != i && e.2.work == .transfer && slotCmd e.2 == 0xA0) = false := by
    simp only [List.any_eq_false, Bool.and_eq_true, bne_iff_ne, beq_iff_eq, not_and]
    exact fun e he hother => absurd hother.2 (hlast e he hother.1)
  have hend : snapEnd i s = snapOver s := by
    rw [snapEnd, hsnap, hnone]
    rfl
  obtain ⟨hstaging, hover⟩ := snapOver_log s
  rw [snapLeft, hend, hover]
  exact ⟨hover, hstaging⟩

/-! Images and sets that are read and written (R242, R243, R447, R466). -/

theorem stickyBit_lay {c : Nat} (h : c / 256 ≠ 12) (s : State) : (stickyBit c s).lay = s.lay := by
  unfold stickyBit
  dsimp only
  split
  case h_8 h12 => exact absurd h12 h
  all_goals (repeat' split) <;> rfl

/-- Only the codes of the layout change the layout's state. -/
theorem raise_lay {o : Occ} (h : o.code / 256 ≠ 12) (s : State) : (raise o s).lay = s.lay := by
  unfold raise
  split
  · simp [stickyBit_lay h]
  · rfl

theorem lovStore_lay (a : Nat) (bs : List Byte) (s : State) : (lovStore a bs s).lay = s.lay :=
  foldl_field State.lay _ (fun t _ => raise_lay (show 0x0D01 / 256 ≠ 12 by decide) (modStack _ _ t)) _ _

theorem layFail_eq (i code chk : Nat) (s : State) :
    layFail i code chk s = cmdFailAt i code chk { s with lay := { s.lay with lastErr := code } } := rfl

theorem storeOther_of_stores {s t : State} (hA : t.lay.storeA = s.lay.storeA) (hB : t.lay.storeB = s.lay.storeB) :
    storeOther t = storeOther s := by
  unfold storeOther storeANewer
  rw [hA, hB]

theorem storePut_frame (v : LaySlot) (s : State) :
    storePut v s = { s with lay := { s.lay with storeA := (storePut v s).lay.storeA, storeB := (storePut v s).lay.storeB } } := by
  unfold storePut
  split <;> rfl

/-- The store slot that does not hold the newer image is the one that is replaced. -/
theorem storePut_stores (v : LaySlot) (s : State) :
    if storeANewer s then (storePut v s).lay.storeA = s.lay.storeA ∧ (storePut v s).lay.storeB = v
    else (storePut v s).lay.storeA = v ∧ (storePut v s).lay.storeB = s.lay.storeB := by
  unfold storePut
  split
  · exact ⟨rfl, rfl⟩
  · exact ⟨rfl, rfl⟩

/-- A complete image of a later generation is the newer one. -/
theorem storeOther_storePut {v : LaySlot} {s : State} (hv : v.complete = true) (hgen : v.gen = (storeOther s).gen + 1) :
    storeOther (storePut v s) = v := by
  by_cases h : storeANewer s = true
  · have hnew : storeANewer { s with lay := { s.lay with storeB := v } } = false := by
      have hge : s.lay.storeA.gen < v.gen := by rw [hgen, storeOther, if_pos h]; omega
      simp [storeANewer, hv, Nat.le_of_lt hge]
    rw [storePut, if_pos h, modLay, storeOther, hnew]
    rfl
  · have hnew : storeANewer { s with lay := { s.lay with storeA := v } } = true := by
      have hge : s.lay.storeB.gen < v.gen := by rw [hgen, storeOther, if_neg h]; omega
      simp [storeANewer, hv, hge]
    rw [storePut, if_neg h, modLay, storeOther, hnew]
    rfl

theorem modFwSlot_frame (k : Nat) (f : FwSlot → FwSlot) (s : State) :
    modFwSlot k f s = { s with fw := (modFwSlot k f s).fw } ∧ fwSlot (modFwSlot k f s) k = f (fwSlot s k) := by
  unfold modFwSlot fwSlot
  split
  · exact ⟨rfl, rfl⟩
  · exact ⟨rfl, rfl⟩

theorem fiCheck_modFwSlot (k : Nat) (g : FwSlot → FwSlot) (s : State) (f : List Byte) : fiCheck (modFwSlot k g s) f = fiCheck s f := by
  rw [(modFwSlot_frame k g s).1]
  rfl

/-- What a check of Table 7-10 leaves of the layout: nothing in progress, and the code of the refusal. -/
def loadRefused (c : Nat) (s : State) : State := { s with lay := { s.lay with busy := false, lastErr := c } }

section Load

variable {i : Nat} {f : List Byte} {m : Slot} {s : State}

theorem loadRead_refused {c : Nat} (h : loadCheck s f (req m 8 8) (loadCoord m) (loadKeep m) = some c) :
    loadRead i true f m s = cmdFailAt i c (loadChkNum s f c) (loadRefused c s) := by
  simp only [loadRead, h]
  rfl

theorem loadRead_passed (h : loadCheck s f (req m 8 8) (loadCoord m) (loadKeep m) = none) : loadRead i true f m s =
    if loadKeep m then modMslot i (fun m => { m with work := .flash, buffer := f }) (storePut {} s) else loadStage i f m s := by
  simp only [loadRead, h]
  rfl

end Load

section Check

variable {i : Nat} {m : Slot} {s : State}

theorem calWriteRead_refused {b : List Byte} {c : Nat} (h : calCheck s m b = some c) : calWriteRead i true b m s = cmdFail i c s := by
  simp only [calWriteRead, h]
  rfl

theorem calWriteRead_passed {b : List Byte} (h : calCheck s m b = none) : calWriteRead i true b m s =
    modMslot i (fun m => { m with work := .flash, buffer := b.set 10 1 }) s := by
  simp only [calWriteRead, h]
  rfl

/-- The chip when a firmware image is in the standby slot. -/
def imageWritten (m : Slot) (s : State) : State := modFwSlot (standbySlot s) (fun v => { v with image := m.buffer }) s

theorem imageWritten_frame (m : Slot) (s : State) : imageWritten m s = { s with fw := (imageWritten m s).fw } ∧
    (fwSlot (imageWritten m s) (standbySlot s)).image = m.buffer := by
  obtain ⟨hframe, hslot⟩ := modFwSlot_frame (standbySlot s) (fun v => { v with image := m.buffer }) s
  exact ⟨hframe, congrArg FwSlot.image hslot⟩

theorem stageDone_refused {c : Nat} (h : fiCheck s m.buffer = some c) :
    stageDone i true m s = cmdFailAt i c (fiCheckNum m.buffer c) (imageWritten m s) := by
  have hchk : fiCheck (imageWritten m s) m.buffer = some c := (fiCheck_modFwSlot _ _ s _).trans h
  rw [imageWritten] at hchk ⊢
  simp only [stageDone, hchk]
  rfl

theorem stageDone_passed (h : fiCheck s m.buffer = none) : stageDone i true m s = cmdDone i
    (rp 48 (leBytes 1 (standbySlot s) ++ zeros 7 ++ leBytes 8 (fiVer m.buffer) ++ shake256 m.buffer 32))
    (modFw (fun w => { w with staged := some (standbySlot s) }) (imageWritten m s)) := by
  have hchk : fiCheck (imageWritten m s) m.buffer = none := (fiCheck_modFwSlot _ _ s _).trans h
  rw [imageWritten] at hchk ⊢
  simp only [stageDone, hchk]
  rfl

end Check

/-- The calibration store when the set `b` is in flash: its copy is the one in use, and the other is erased (R466). -/
def calStored (b : List Byte) (c : Calib) : Calib :=
  let v : CalCopy := { set := b, digest := shake256 b 32 }
  { c with
    copy0 := if c.inUse = 0 then none else some v
    copy1 := if c.inUse = 0 then some v else none
    inUse := if c.inUse = 0 then 1 else 0
    set := b, valid := true, sensorOff := calOffsets b }

/-- The chip when the set `b` is in flash, and logged. -/
def calLogged (b : List Byte) (s : State) : State := logOpen 1 0xA { s with cal := calStored b s.cal }

theorem calLogged_parts (b : List Byte) (s : State) : (calLogged b s).cal = calStored b s.cal ∧ (calLogged b s).quads = s.quads ∧
    (calLogged b s).jobs = s.jobs := ⟨logOpen_cal 1 0xA _, logOpen_quads 1 0xA _, logOpen_jobs 1 0xA _⟩

theorem calWriteDone_stored (i : Nat) (m : Slot) (s : State) : calWriteDone i true m s =
    cmdDone i (rp 8 (leBytes 1 1)) (calLogged m.buffer s) := by
  have hcal : modCal (fun c => { c with set := m.buffer, valid := true, sensorOff := calOffsets m.buffer })
      (if s.cal.inUse = 0 then modCal (fun c => { c with copy0 := none, copy1 := some ⟨m.buffer, shake256 m.buffer 32⟩, inUse := 1 }) s
        else modCal (fun c => { c with copy0 := some ⟨m.buffer, shake256 m.buffer 32⟩, copy1 := none, inUse := 0 }) s) =
      { s with cal := calStored m.buffer s.cal } := by
    unfold calStored
    split <;> rfl
  exact congrArg (fun t => cmdDone i (rp 8 (leBytes 1 1)) (logOpen 1 0xA t)) hcal

/-- The image of the store slot that a kept file goes to (R243). -/
def keptImage (m : Slot) (s : State) : LaySlot :=
  { complete := true, gen := (storeOther s).gen + 1, coord := loadCoord m, fp := imFp m.buffer, digest := shake256 m.buffer 32
    file := m.buffer }

/-- The chip when the file `f` is staged. -/
def imageStaged (f : List Byte) (m : Slot) (s : State) : State :=
  modLay (fun l => { l with
    staged := some (keptFile f (loadCoord m)), stagedCoord := loadCoord m, stagedKind := imKind f, busy := false, lastErr := 0
    stagedSigned := decide (imSig f ≠ 0) && s.fuse.custkey.isSome }) (lovStore 0 (keptFile f (loadCoord m)) s)

theorem imageStaged_stores (f : List Byte) (m : Slot) (s : State) :
    (imageStaged f m s).lay.storeA = s.lay.storeA ∧ (imageStaged f m s).lay.storeB = s.lay.storeB := by
  have hA := congrArg Layout.storeA (lovStore_lay 0 (keptFile f (loadCoord m)) s)
  have hB := congrArg Layout.storeB (lovStore_lay 0 (keptFile f (loadCoord m)) s)
  exact ⟨hA, hB⟩

theorem imageStaged_jobs (f : List Byte) (m : Slot) (s : State) : (imageStaged f m s).jobs = s.jobs :=
  (lovStore_still 0 (keptFile f (loadCoord m)) s).parts.1

theorem loadKept_staged (i : Nat) (m : Slot) (s : State) : loadKept i true m s =
    cmdDone i (rp 40 (imFp m.buffer ++ leBytes 1 (imKind m.buffer))) (imageStaged m.buffer m (storePut (keptImage m s) s)) := rfl

/-- A file that is kept is the newer image of the store once it is staged. -/
theorem keptImage_stored (m : Slot) (s : State) : let t := imageStaged m.buffer m (storePut (keptImage m s) s)
    (storeOther t).complete = true ∧
      if storeANewer s then t.lay.storeB.file = m.buffer else t.lay.storeA.file = m.buffer := by
  intro t
  obtain ⟨hA, hB⟩ := imageStaged_stores m.buffer m (storePut (keptImage m s) s)
  have hother : storeOther t = storeOther (storePut (keptImage m s) s) := storeOther_of_stores hA hB
  have hput := storePut_stores (keptImage m s) s
  refine ⟨by rw [hother, storeOther_storePut rfl rfl]; rfl, ?_⟩
  split
  next h =>
    rw [if_pos h] at hput
    rw [hB, hput.2]
    rfl
  next h =>
    rw [if_neg h] at hput
    rw [hA, hput.1]
    rfl

/-- Settles O34: the command that waits is looked up, and each end of its access by the equation of its case. -/
theorem transfersEnd : Obligations.TransfersEnd := by
  unfold Obligations.TransfersEnd
  refine ⟨fun i data s hfw hw hc => ?_, fun i data s hfw hw hc => ?_, fun i data s hfw hw hc => ?_, fun i data s hfw hw => ?_,
    fun i s hfw hw => ?_⟩
  · rw [exec_cxlIoTransferDone false data hfw, transferDone_failed hfw hw data hc]
  · rw [exec_cxlIoTransferDone false data hfw, transferDone_loadLayout hfw hw false data hc (by simp)]
    rfl
  · obtain ⟨hmem, hhif, hjobs, -⟩ := snapLeft_frame i.val s
    refine ⟨snapLeft i.val s, ?_, hmem, congrArg Hif.slots hhif, hjobs⟩
    rw [exec_cxlIoTransferDone false data hfw, transferDone_logSnapshot hfw hw false data hc, snapDone_failed]
  · rw [exec_cxlIoTransferDone true data hfw]
    refine ⟨fun hc => ?_, fun hc => ?_, fun hc hsnap hearly hlast => ?_, fun hc hlen => ?_, fun hc hlen => ⟨fun c h => ?_, fun h => ?_⟩,
      fun hc hlen => ⟨fun c h => ?_, fun h hkeep => ?_, fun h hkeep => ?_⟩⟩
    · rw [transferDone_calRead hfw hw true data hc]
      rfl
    · rw [transferDone_runRecord hfw hw true data hc]
      rfl
    · obtain ⟨hhost, -, hjobs, hnewts⟩ := snapLeft_frame i.val s
      obtain ⟨hsnap', hstaging⟩ := snapLeft_last hsnap hlast
      have hmem := congrArg (memWrite · (req (mslot s i.val) 0 8) ((mslot s i.val).buffer.take
        (64 * (mslot s i.val).scratch.getD 1 0))) hhost
      refine ⟨hostWrite _ _ (snapLeft i.val s), ?_, hmem, hsnap', hstaging, hjobs, hnewts⟩
      rw [transferDone_logSnapshot hfw hw true data hc, snapDone_copied i.val hearly]
    · rw [transferDone_fwStage hfw hw true data hc fun _ => hlen]
      rfl
    · rw [transferDone_calWrite hfw hw true data hc fun _ => hlen, calWriteRead_refused h]
    · rw [transferDone_calWrite hfw hw true data hc fun _ => hlen, calWriteRead_passed h]
      rfl
    · rw [transferDone_loadLayout hfw hw true data hc fun _ => hlen, loadRead_refused h]
      rfl
    · rw [transferDone_loadLayout hfw hw true data hc fun _ => hlen, loadRead_passed h, if_neg (by simp [hkeep])]
      rfl
    · refine ⟨storePut {} s, ?_, storePut_frame {} s, storePut_stores {} s⟩
      rw [transferDone_loadLayout hfw hw true data hc fun _ => hlen, loadRead_passed h, if_pos hkeep]
  · rw [exec_flashWriteDone true hfw, exec_flashWriteDone false hfw]
    refine ⟨fun hc c h => ?_, fun hc h => ?_, fun hc => ?_, fun hc => ?_, fun hc => ?_, fun hc => ?_, definedCode_flashCode s⟩
    · rw [flashDone_fwStage hfw hw true hc, stageDone_refused h]
      rfl
    · obtain ⟨hframe, himage⟩ := imageWritten_frame (mslot s i.val) s
      refine ⟨modFw (fun w => { w with staged := some (standbySlot s) }) (imageWritten (mslot s i.val) s), ?_, rfl, himage, ?_⟩
      · rw [flashDone_fwStage hfw hw true hc, stageDone_passed h]
      · rw [hframe]
        rfl
    · obtain ⟨hcal, hquads, hjobs⟩ := calLogged_parts (mslot s i.val).buffer s
      refine ⟨calLogged (mslot s i.val).buffer s, ?_, ?_, ?_, ?_, fun h => ?_, fun h => ?_, hquads, hjobs⟩
      · rw [flashDone_calWrite hfw hw true hc, calWriteDone_stored]
      all_goals
        rw [hcal]
      · rfl
      · rfl
      · rfl
      · simp [calStored, h]
      · simp [calStored, h]
    · obtain ⟨hcomplete, hfile⟩ := keptImage_stored (mslot s i.val) s
      refine ⟨imageStaged (mslot s i.val).buffer (mslot s i.val) (storePut (keptImage (mslot s i.val) s) s), ?_, rfl, rfl, hcomplete,
        hfile, ?_⟩
      · rw [flashDone_loadLayout hfw hw true hc, loadKept_staged]
      · rw [imageStaged_jobs, storePut_frame]
    · rw [flashDone_failed hfw hw hc]
      rfl
    · rw [flashDone_loadLayout hfw hw false hc]
      rfl

end Sys2Proof.Machine

end

section

/-! ## The entry into ORPHAN (O22) -/

namespace Sys2Proof.Machine

-- One thread for the section's proofs, as in the section on O5.
set_option Elab.async false

/-- A chip beside its tables: the host interface but its slots, whether a molt pause runs, the pins, fuses, calibration and queue. -/
structure Aside where
  hif : Hif
  paused : Bool
  pins : Pins
  fuse : Fuses
  cal : Calib
  pending : List Instr

def State.aside (s : State) : Aside where
  hif := { s.hif.lasting with slots := [] }
  paused := decide (s.fw.molt = .paused)
  pins := s.pins
  fuse := s.fuse
  cal := s.cal
  pending := s.pending

theorem stickyBit_molt (c : Nat) (s : State) : (stickyBit c s).fw.molt = s.fw.molt := by
  unfold stickyBit
  dsimp only
  (repeat' split) <;> rfl

theorem raise_molt (o : Occ) (s : State) : (raise o s).fw.molt = s.fw.molt := by
  unfold raise
  split
  · rw [rasRecord_fw, freshMark_fw, stickyBit_molt]
  · rfl

theorem pushEvent_pba (typ : Nat) (data : List Byte) (s : State) : (pushEvent typ data s).hif.pba = s.hif.pba := by
  unfold pushEvent
  dsimp only
  split <;> rfl

theorem eventAmend_pba (c : Nat) (s : State) : (eventAmend c s).hif.pba = s.hif.pba := by
  unfold eventAmend
  dsimp only
  split <;> rfl

theorem rasFirst_pba_of_orphan (c : Nat) {s : State} (h : s.hif.state = .orphan) : (rasFirst c s).hif.pba = s.hif.pba := by
  have hev : (rasEvent c s).hif.pba = s.hif.pba := by
    unfold rasEvent
    split
    · exact pushEvent_pba 3 _ s
    · rfl
  have hstate : (rasEvent c s).hif.state = .orphan := by
    unfold rasEvent
    split
    · exact (congrArg Hif.state (pushEvent_lasting 3 _ s)).trans h
    · exact h
  have hirq (t : State) (ht : t.hif.state = .orphan) : rasIrq c t = t := by simp [rasIrq, ht]
  unfold rasFirst
  dsimp only
  split <;> split <;> simp only [hirq, hev, hstate, h]

/-- An error pends no vector in ORPHAN (R437). -/
theorem raise_pba_of_orphan (o : Occ) {s : State} (h : s.hif.state = .orphan) : (raise o s).hif.pba = s.hif.pba := by
  have hbit : (stickyBit o.code s).hif.pba = s.hif.pba ∧ (stickyBit o.code s).hif.state = s.hif.state := by
    unfold stickyBit
    dsimp only
    (repeat' split) <;> exact ⟨rfl, rfl⟩
  have hlogs (t : State) : (if rasWrites o.code t then rasLog o t else t).hif = t.hif := by
    split
    · exact rasLog_hif o t
    · rfl
  have hamend (t u : State) : (if rasWrites o.code t then eventAmend o.code u else u).hif.pba = u.hif.pba := by
    split
    · exact eventAmend_pba o.code u
    · rfl
  have hrec (t : State) (ht : t.hif.state = .orphan) : (rasRecord o t).hif.pba = t.hif.pba := by
    unfold rasRecord
    dsimp only
    split
    · split
      · rw [hamend, hlogs]
        rfl
      · rw [rasFirst_pba_of_orphan _ (by rw [hlogs]; exact ht), hlogs]
        rfl
    · rfl
  unfold raise
  split
  · rw [hrec _ (by rw [freshMark_hif, hbit.2, h]), freshMark_hif, hbit.1]
  · rfl

theorem raise_aside (o : Occ) (s : State) : (raise o s).aside = s.aside := by
  simp only [State.aside, raise_lasting, raise_molt, raise_pins, raise_fuse, raise_cal, raise_pending]

/-- What a free of a buffer, an uncorrectable read and an error that a unit raises leave alone. -/
structure ErrorsLeave (s t : State) : Prop where
  aside : t.aside = s.aside
  slots : t.hif.slots = s.hif.slots
  pba : s.hif.state = .orphan → t.hif.pba = s.hif.pba
  quads : t.quads = s.quads
  still : Still s t

theorem state_of_aside {s t : State} (h : t.aside = s.aside) : t.hif.state = s.hif.state :=
  congrArg (fun a : Aside => a.hif.state) h

theorem up_of_aside {s t : State} (h : t.aside = s.aside) : up t = up s := by
  have hpins := congrArg Aside.pins h
  exact up_of_pins hpins

theorem ErrorsLeave.trans {s t u : State} (h : ErrorsLeave s t) (g : ErrorsLeave t u) : ErrorsLeave s u where
  aside := g.aside.trans h.aside
  slots := g.slots.trans h.slots
  pba hs := (g.pba ((state_of_aside h.aside).trans hs)).trans (h.pba hs)
  quads := g.quads.trans h.quads
  still := h.still.trans g.still

/-- A step that keeps the interface and all of the firmware leaves these things alone. -/
theorem ErrorsLeave.of_parts {s t : State} (hhif : t.hif = s.hif) (hfw : t.fw = s.fw)
    (hside : (t.pins, t.fuse, t.cal, t.pending, t.quads) = (s.pins, s.fuse, s.cal, s.pending, s.quads)) (hstill : Still s t) :
    ErrorsLeave s t := by
  simp only [Prod.mk.injEq] at hside
  obtain ⟨hpins, hfuse, hcal, hpending, hquads⟩ := hside
  exact ⟨by simp only [State.aside, hhif, hfw, hpins, hfuse, hcal, hpending], by rw [hhif], fun _ => by rw [hhif], hquads, hstill⟩

theorem ErrorsLeave.refl (s : State) : ErrorsLeave s s := .of_parts rfl rfl rfl rfl

theorem ErrorsLeave.ite {c : Prop} [Decidable c] {s a b : State} (ha : ErrorsLeave s a) (hb : ErrorsLeave s b) :
    ErrorsLeave s (if c then a else b) := by
  split
  · exact ha
  · exact hb

theorem ErrorsLeave.foldl {α : Type} {f : State → α → State} (h : ∀ s a, ErrorsLeave s (f s a)) (l : List α) (s : State) :
    ErrorsLeave s (l.foldl f s) := by
  induction l generalizing s with
  | nil => exact .refl s
  | cons a r ih => exact (h s a).trans (ih _)

theorem raise_errorsLeave {o : Occ} (h : o.code / 256 ≠ 11) (s : State) : ErrorsLeave s (raise o s) where
  aside := raise_aside o s
  slots := slots_of_lasting (raise_lasting o s)
  pba := raise_pba_of_orphan o
  quads := raise_quads o s
  still := raise_still h s

theorem stkUe_errorsLeave (a : Nat) (s : State) : ErrorsLeave s (stkUe a s) := by
  have hcount (f : Stack → Stack) : ErrorsLeave s (modStack (a / 2 ^ 36 % 4) f s) := .of_parts rfl rfl rfl rfl
  exact (hcount _).trans (raise_errorsLeave (by simp) _)

theorem lovStore_errorsLeave (a : Nat) (bs : List Byte) (s : State) : ErrorsLeave s (lovStore a bs s) := by
  have hwrite : ErrorsLeave s (lovWrite a bs s) := .of_parts rfl rfl rfl rfl
  exact hwrite.trans (.foldl (fun t b => stkUe_errorsLeave (64 * b) t) _ _)

theorem bufFree_errorsLeave (b : Buf) (s : State) : ErrorsLeave s (bufFree b s) := by
  rw [bufFree.eq_def]
  extract_lets pool1 s1 next s2 pool2
  have h1 : ErrorsLeave s s1 := .of_parts rfl rfl rfl rfl
  have h2 : ErrorsLeave s s2 := h1.trans (lovStore_errorsLeave _ _ s1)
  have hpush (o : Table (List Nat)) : ErrorsLeave s2 { s2 with pool := { s2.pool with order := o } } := .of_parts rfl rfl rfl rfl
  exact .ite (h2.trans (hpush _)) h1

theorem poolFree'_errorsLeave (a : Nat) (may : Nat → Bool) (party : Nat) (s : State) :
    ErrorsLeave s (poolFree' a may party s).1 := by
  have hrefused : ErrorsLeave s (raise (freeOcc a party s) s) := raise_errorsLeave (by rw [freeOcc_code]; decide) s
  unfold poolFree'
  split
  · split
    · exact bufFree_errorsLeave _ s
    · exact hrefused
  · exact hrefused

theorem abandonOp_errorsLeave (ch : Nat) (status : Bool) (s : State) : ErrorsLeave s (abandonOp ch status s) := by
  by_cases h : (chan s ch).count = 0
  · rw [abandonOp_of_none h]
    exact .of_parts rfl rfl rfl rfl
  · have hleft : ErrorsLeave s (leftDescriptor ch status s) := by
      have hfreed : ErrorsLeave s (if (chan s ch).alloc ≠ 0 then (poolFree' (chan s ch).alloc (· == ch) ch s).1 else s) :=
        .ite (poolFree'_errorsLeave _ _ _ s) (.refl s)
      exact .ite (hfreed.trans (.of_parts rfl rfl rfl rfl)) hfreed
    rw [abandonOp_of_some h]
    exact hleft.trans (.of_parts rfl rfl rfl rfl)

theorem dmaOrphan_errorsLeave (s : State) : ErrorsLeave s (dmaOrphan s) := by
  rw [dmaOrphan_eq]
  refine .foldl (fun t ch => ?_) _ s
  have hidle (u : State) : ErrorsLeave u (modChan ch (fun c => { c with state := .idle, count := 0 }) u) := .of_parts rfl rfl rfl rfl
  exact .ite ((abandonOp_errorsLeave ch false t).trans (hidle _)) (.refl t)

theorem logOpen_errorsLeave (typ id : Nat) (s : State) : ErrorsLeave s (logOpen typ id s) :=
  .of_parts (logOpen_hif ..) (logOpen_fw ..)
    (by simp only [logOpen_pins, logOpen_fuse, logOpen_cal, logOpen_pending, logOpen_quads]) (by simp [Still])

/-- A job when its host is gone: its ring is withdrawn, and it is marked where it runs. -/
def Job.orphan (v : Job) : Job := { v with ringGiven := false, orphaned := v.orphaned || v.state == .running }

/-- The chip at its entry into ORPHAN, before its stopped DMA channels go IDLE (R423, R437). -/
def orphaned (s : State) : State :=
  { s with
    hif := { s.hif with state := .orphan, orphanAt := croak s, evGiven := false, pba := [] }
    jobs := s.jobs.map (fun e => (e.1, e.2.orphan)) }

section Entry

variable {s : State} (code : Nat)

theorem enterOrphan_of_not_owned (h : s.hif.state ≠ .owned) : enterOrphan code s = s := if_pos h

theorem enterOrphan_of_paused (h : s.hif.state = .owned) (hp : s.fw.molt = .paused) :
    enterOrphan code s = { s with fw := { s.fw with orphanDue := code } } := (if_neg (not_not.mpr h)).trans (if_pos hp)

theorem enterOrphan_of_owned (h : s.hif.state = .owned) (hp : s.fw.molt ≠ .paused) :
    enterOrphan code s = raise { code := code } (logOpen 1 5 (dmaOrphan (orphaned s))) :=
  (if_neg (not_not.mpr h)).trans (if_neg hp)

theorem orphaned_errorsLeave (hc : code / 256 ≠ 11) (s : State) :
    ErrorsLeave (orphaned s) (raise { code := code } (logOpen 1 5 (dmaOrphan (orphaned s)))) :=
  ((dmaOrphan_errorsLeave _).trans (logOpen_errorsLeave ..)).trans (raise_errorsLeave hc _)

/-- What an OWNED interface has become at its entry, with the record of its cause. -/
theorem enterOrphan_enters (hup : up s = true) (hc : code / 256 ≠ 11) (hd : definedCode code = true) (h : s.hif.state = .owned)
    (hp : s.fw.molt ≠ .paused) : ErrorsLeave (orphaned s) (enterOrphan code s) ∧ (enterOrphan code s).hif.pba = [] ∧
      (rasRec (enterOrphan code s) code).set = true := by
  have hleft := orphaned_errorsLeave code hc s
  have hbefore := (dmaOrphan_errorsLeave (orphaned s)).trans (logOpen_errorsLeave 1 5 _)
  have hset := rasRec_raise_set (o := { code := code }) ((up_of_aside hbefore.aside).trans hup) hd
  rw [enterOrphan_of_owned code h hp]
  exact ⟨hleft, hleft.pba rfl, hset⟩

end Entry

/-- The commands that can end the host's ownership, each as an entry into ORPHAN with its cause. -/
theorem exec_hostGone {c : Instr} {s : State} (hup : up s = true) (hc : c = .cxlLinkDown ∨ c = .cxlRefclkLoss ∨ c = .heartbeatLoss) :
    exec c s = .next (enterOrphan (if c = .heartbeatLoss then 0x0106 else 0x0116)
      { s with hif := { s.hif with cxlUp := if c = .heartbeatLoss then s.hif.cxlUp else false } }) := by
  rcases hc with rfl | rfl | rfl
  · exact whenUp_of_up linkDown hup
  · exact whenUp_of_up linkDown hup
  · exact whenUp_of_up (enterOrphan 0x0106) hup

/-- Settles O22: an entry into ORPHAN marks the interface and the jobs, and what its errors leave is the rest. -/
theorem hostLinkUpDown : Obligations.HostLinkUpDown := by
  unfold Obligations.HostLinkUpDown
  refine ⟨fun x8 gt32 flit68 s hup => whenUp_of_up _ hup, fun c s hup hc => ?_⟩
  rw [exec_hostGone hup hc]
  refine ⟨fun ho hp => ?_, fun ho hp => congrArg _ (enterOrphan_of_paused _ ho hp),
    fun ho => congrArg _ (enterOrphan_of_not_owned _ ho)⟩
  have hcode : definedCode (if c = .heartbeatLoss then 0x0106 else 0x0116) = true ∧
      (if c = .heartbeatLoss then 0x0106 else 0x0116) / 256 ≠ 11 := by
    split <;> decide
  obtain ⟨hleft, hpba, hset⟩ := enterOrphan_enters
    (s := { s with hif := { s.hif with cxlUp := if c = .heartbeatLoss then s.hif.cxlUp else false } })
    _ hup hcode.2 hcode.1 ho hp
  obtain ⟨hjobs, hnewts, -, hsch⟩ := hleft.still.parts
  have hhif := congrArg Aside.hif hleft.aside
  have hepoch := congrArg Hif.epoch hhif
  have hpending := congrArg Aside.pending hleft.aside
  refine ⟨_, rfl, congrArg Hif.state hhif, congrArg Hif.orphanAt hhif, congrArg Hif.evGiven hhif, hpba, hset,
    fun hne => (congrArg Hif.cxlUp hhif).trans (if_neg hne), hjobs, hpending, hnewts, hleft.quads, hleft.slots, hepoch, hsch⟩

end Sys2Proof.Machine

end

section

/-! ## The function-level reset (O23) -/

namespace Sys2Proof.Machine

-- One thread for the section's proofs, as in the section on O5.
set_option Elab.async false

/-- Waits that end are changes of sync objects and releases of agents: what holds of both holds of the end of an agent's waits. -/
theorem unwaitAll_induction {R : State → State → Prop} (refl : ∀ s, R s s) (trans : ∀ {s t u}, R s t → R t u → R s u)
    (obj : ∀ o v s, R s (setObj o v s)) (release : ∀ agent s, R s (releaseAgent agent s)) (agent : Nat) (s : State) :
    R s (unwaitAll agent s) := by
  have hserve (fuel o : Nat) (t : State) : R t (serveN fuel o t) := by
    induction fuel generalizing t with
    | zero => exact refl t
    | succ fuel ih =>
      unfold serveN
      dsimp only
      split
      · exact refl t
      · split
        · exact trans (trans (obj ..) (release ..)) (ih _)
        · exact refl t
  unfold unwaitAll
  generalize s.sync.objs.filter _ = l
  induction l generalizing s with
  | nil => exact refl s
  | cons e r ih => exact trans (trans (obj ..) (hserve ..)) (ih _)

/-! Slots that stay free. -/

/-- A slot is FREE with no work in it. -/
def SlotFreed (s : State) (k : Nat) : Prop := slotState (mslot s k) = 0 ∧ (mslot s k).work = .idle

/-- No SELFTEST holds back a write of MAINT: its scratch holds its units and no quad. -/
def TestsQuiet (s : State) : Prop := ∀ k, slotCmd (mslot s k) = 0x60 → (mslot s k).scratch.length ≤ 3

/-- From `s` to `t` the free slots stay free, and what is beside the tables stands. -/
structure SlotsStayFree (s t : State) : Prop where
  aside : t.aside = s.aside
  sorted : tsorted s.hif.slots → tsorted t.hif.slots
  freed : tsorted s.hif.slots → ∀ k, SlotFreed s k → SlotFreed t k

theorem SlotsStayFree.of_slots {s t : State} (ha : t.aside = s.aside) (h : t.hif.slots = s.hif.slots) : SlotsStayFree s t where
  aside := ha
  sorted hs := by rwa [h]
  freed _ k hk := by rwa [SlotFreed, mslot, h]

theorem SlotsStayFree.trans {s t u : State} (h : SlotsStayFree s t) (g : SlotsStayFree t u) : SlotsStayFree s u where
  aside := g.aside.trans h.aside
  sorted hs := g.sorted (h.sorted hs)
  freed hs k hk := g.freed (h.sorted hs) k (h.freed hs k hk)

theorem SlotsStayFree.foldl {α : Type} {f : State → α → State} (h : ∀ s a, SlotsStayFree s (f s a)) (l : List α) (s : State) :
    SlotsStayFree s (l.foldl f s) := by
  induction l generalizing s with
  | nil => exact .of_slots rfl rfl
  | cons a r ih => exact (h s a).trans (ih _)

/-- A change of one slot that leaves it free where it was. -/
theorem setMslot_staysFree {i : Nat} {v : Slot} {s : State} (h : SlotFreed s i → slotState v = 0 ∧ v.work = .idle) :
    SlotsStayFree s (setMslot i v s) where
  aside := rfl
  sorted hs := tsorted_tset _ hs _ _
  freed hs k hk := by
    rcases eq_or_ne k i with rfl | hki
    · rw [SlotFreed, mslot_setMslot _ _ _ hs]
      exact h hk
    · rwa [SlotFreed, mslot_setMslot_other _ _ _ _ hs hki]

/-- The same of a step of the reset that cancels no test which holds a quad: the quads stand too. -/
structure FlrKept (s t : State) : Prop extends SlotsStayFree s t where
  quiet : tsorted s.hif.slots → TestsQuiet s → TestsQuiet t ∧ t.quads = s.quads

theorem FlrKept.of_slots {s t : State} (ha : t.aside = s.aside) (h : t.hif.slots = s.hif.slots) (hq : t.quads = s.quads) :
    FlrKept s t where
  toSlotsStayFree := .of_slots ha h
  quiet _ hs := ⟨fun k => by rw [mslot, h]; exact hs k, hq⟩

theorem FlrKept.refl (s : State) : FlrKept s s := .of_slots rfl rfl rfl

theorem FlrKept.trans {s t u : State} (h : FlrKept s t) (g : FlrKept t u) : FlrKept s u where
  toSlotsStayFree := h.toSlotsStayFree.trans g.toSlotsStayFree
  quiet hs hq := by
    obtain ⟨ht, htq⟩ := h.quiet hs hq
    obtain ⟨hu, huq⟩ := g.quiet (h.sorted hs) ht
    exact ⟨hu, huq.trans htq⟩

theorem FlrKept.ite {c : Prop} [Decidable c] {s a b : State} (ha : FlrKept s a) (hb : FlrKept s b) :
    FlrKept s (if c then a else b) := by
  split
  · exact ha
  · exact hb

theorem FlrKept.foldl {α : Type} {f : State → α → State} (h : ∀ s a, FlrKept s (f s a)) (l : List α) (s : State) :
    FlrKept s (l.foldl f s) := by
  induction l generalizing s with
  | nil => exact .refl s
  | cons a r ih => exact (h s a).trans (ih _)

theorem ErrorsLeave.flrKept {s t : State} (h : ErrorsLeave s t) : FlrKept s t := .of_slots h.aside h.slots h.quads

theorem setMslot_flrKept {i : Nat} {v : Slot} {s : State} (h : SlotFreed s i → slotState v = 0 ∧ v.work = .idle)
    (hq : TestsQuiet s → slotCmd v = 0x60 → v.scratch.length ≤ 3) : FlrKept s (setMslot i v s) where
  toSlotsStayFree := setMslot_staysFree h
  quiet hs hquiet := by
    refine ⟨fun k => ?_, rfl⟩
    rcases eq_or_ne k i with rfl | hki
    · rw [mslot_setMslot _ _ _ hs]
      exact hq hquiet
    · rw [mslot_setMslot_other _ _ _ _ hs hki]
      exact hquiet k

theorem releaseAgent_flrKept (agent : Nat) (s : State) : FlrKept s (releaseAgent agent s) := by
  unfold releaseAgent
  split
  · exact .of_slots rfl rfl rfl
  · split
    · exact .of_slots rfl rfl rfl
    · refine setMslot_flrKept (fun hk => ?_) fun hq => ?_
      · dsimp only
        rw [if_neg (by rw [hk.2]; decide)]
        exact hk
      · dsimp only
        split
        · exact hq _
        · exact hq _

theorem unwaitAll_flrKept (agent : Nat) (s : State) : FlrKept s (unwaitAll agent s) :=
  unwaitAll_induction .refl .trans (fun _ _ _ => .of_slots rfl rfl rfl) releaseAgent_flrKept agent s

/-! Slots that the reset frees. -/

theorem qctlWrite_staysFree (q : Nat) (s : State) : SlotsStayFree s (qctlWrite q 0 s) := by
  have htrain (t : State) : SlotsStayFree t (trainBegin q t) := by
    unfold trainBegin
    dsimp only
    split
    · exact .of_slots rfl rfl
    · exact .of_slots rfl rfl
  have hmaint (f : Quad → Quad) : SlotsStayFree s (modQuad q f s) := .of_slots rfl rfl
  have hzero (n : Nat) : bitOf 0 n = false := by simp [bitOf]
  simp only [qctlWrite, hzero, Bool.or_self, Bool.false_and, Bool.false_eq_true, if_false, Bool.not_false, Bool.true_and]
  split
  · exact setMslot_staysFree id
  · split
    · exact (hmaint _).trans (htrain _)
    · exact .of_slots rfl rfl

theorem unreserve_flrKept (m : Slot) (s : State) : FlrKept s (unreserve m s) := by
  refine .foldl (fun t n => ?_) _ s
  dsimp only
  split <;> exact .of_slots rfl rfl rfl

theorem testCancel_flrKept {i : Nat} {s : State} (hc : slotCmd (mslot s i) = 0x60) : FlrKept s (testCancel i s) := by
  have hidle : FlrKept s (modMslot i (fun m => { m with work := .idle, scratch := [] }) (unreserve (mslot s i) s)) :=
    (unreserve_flrKept _ s).trans (setMslot_flrKept (fun hk => ⟨hk.1, rfl⟩) fun _ _ => Nat.zero_le 3)
  refine ⟨hidle.toSlotsStayFree.trans (.foldl (fun t q => qctlWrite_staysFree q t) _ _), fun hs hq => ?_⟩
  rw [testCancel, List.drop_eq_nil_of_le (hq i hc)]
  exact hidle.quiet hs hq

theorem snapEnd_flrKept (i : Nat) (s : State) : FlrKept s (snapEnd i s) := by
  refine .ite (.of_slots ?_ ?_ ?_) (.refl s)
  · simp only [State.aside, logUnstage_hif, logUnstage_fw, logUnstage_pins, logUnstage_fuse, logUnstage_cal, logUnstage_pending]
  · rw [logUnstage_hif]
  · rw [logUnstage_quads]

theorem cmdCancel_flrKept {i : Nat} {s : State} (h : slotCmd (mslot s i) ≠ 0x40) : FlrKept s (cmdCancel i s) := by
  unfold cmdCancel
  dsimp only
  split
  · exact .of_slots rfl rfl rfl
  · exact .of_slots rfl rfl rfl
  · exact .of_slots rfl rfl rfl
  next hc => exact absurd hc h
  · split
    next hw => exact .of_slots (by simp only [State.aside, hw, reduceCtorEq, decide_false]) rfl rfl
    · exact .refl s
  next hc => exact testCancel_flrKept hc
  · exact snapEnd_flrKept i s
  · exact .refl s

/-- The chip when what slot `i` has begun is withdrawn. -/
def slotCancelled (i : Nat) (s : State) : State :=
  if (mslot s i).work = .idle ∨ (mslot s i).work = .ready then s
  else if (mslot s i).work = .preop then unwaitAll (agentSlot i) s
  else if slotCmd (mslot s i) = 0x40 then s
  else cmdCancel i s

theorem slotFree_eq (i : Nat) (s : State) :
    slotFree i s = setMslot i { bytes := (mslot s i).bytes.set 0 0 } (slotCancelled i s) := rfl

theorem slotCancelled_flrKept (i : Nat) (s : State) : FlrKept s (slotCancelled i s) := by
  refine .ite (.refl s) (.ite (unwaitAll_flrKept _ s) ?_)
  split
  · exact .refl s
  next hc => exact cmdCancel_flrKept hc

theorem slotState_set_zero (bs : List Byte) : slotState { bytes := bs.set 0 0 } = 0 := by
  cases bs <;> rfl

theorem slotFree_flrKept (i : Nat) (s : State) : FlrKept s (slotFree i s) :=
  (slotCancelled_flrKept i s).trans (setMslot_flrKept (fun _ => ⟨slotState_set_zero _, rfl⟩) fun _ _ => Nat.zero_le 3)

theorem slotFree_freed {i : Nat} {s : State} (hs : tsorted s.hif.slots) : SlotFreed (slotFree i s) i := by
  rw [SlotFreed, slotFree_eq, mslot_setMslot _ _ _ ((slotCancelled_flrKept i s).sorted hs)]
  exact ⟨slotState_set_zero _, rfl⟩

theorem foldl_slotFree_freed (l : List Nat) {s : State} (hs : tsorted s.hif.slots) {k : Nat} (hk : k ∈ l ∨ SlotFreed s k) :
    SlotFreed (l.foldl (fun t i => slotFree i t) s) k := by
  induction l generalizing s with
  | nil => exact hk.resolve_left List.not_mem_nil
  | cons a r ih =>
    have hkept := slotFree_flrKept a s
    refine ih (hkept.sorted hs) ?_
    rcases hk with hk | hk
    · rcases List.mem_cons.mp hk with rfl | hk
      · exact .inr (slotFree_freed hs)
      · exact .inl hk
    · exact .inr (hkept.freed hs k hk)

/-- The chip when every slot has returned to FREE. -/
def slotsFreed (s : State) : State := (s.hif.slots.map (·.1)).foldl (fun t i => slotFree i t) s

theorem slotsFreed_freed {s : State} (hs : tsorted s.hif.slots) (k : Nat) : SlotFreed (slotsFreed s) k := by
  refine foldl_slotFree_freed _ hs ?_
  rcases tget_eq_or_mem {} s.hif.slots k with h | h
  · right
    rw [SlotFreed, mslot, h]
    exact ⟨by decide, rfl⟩
  · exact .inl (List.mem_map_of_mem h)

theorem slotsFreed_flrKept (s : State) : FlrKept s (slotsFreed s) := .foldl (fun t i => slotFree_flrKept i t) _ s

/-! The DMA channels under the reset: those that were busy go IDLE with nothing to do, one after the other. -/

/-- A channel `c` is `d` now, IDLE where it was, and with the descriptors that it had. -/
def SameBusy (c d : DmaCh) : Prop := (d.state = .idle ↔ c.state = .idle) ∧ d.count = c.count

theorem SameBusy.refl (c : DmaCh) : SameBusy c c := ⟨Iff.rfl, rfl⟩

/-- From `s` to `t` no channel has gone IDLE or come out of it. -/
structure ChansBusy (s t : State) : Prop where
  sorted : tsorted s.dma.chans → tsorted t.dma.chans
  same : tsorted s.dma.chans → ∀ k, SameBusy (chan s k) (chan t k)

theorem ChansBusy.of_dma {s t : State} (h : t.dma = s.dma) : ChansBusy s t where
  sorted hs := by rwa [h]
  same _ k := by
    rw [chan_of_dma h]
    exact .refl _

theorem ChansBusy.trans {s t u : State} (h : ChansBusy s t) (g : ChansBusy t u) : ChansBusy s u where
  sorted hs := g.sorted (h.sorted hs)
  same hs k := by
    obtain ⟨hst, hsc⟩ := h.same hs k
    obtain ⟨htu, htc⟩ := g.same (h.sorted hs) k
    exact ⟨htu.trans hst, htc.trans hsc⟩

theorem ChansBusy.ite {c : Prop} [Decidable c] {s a b : State} (ha : ChansBusy s a) (hb : ChansBusy s b) :
    ChansBusy s (if c then a else b) := by
  split
  · exact ha
  · exact hb

theorem ChansBusy.foldl {α : Type} {f : State → α → State} (h : ∀ s a, ChansBusy s (f s a)) (l : List α) (s : State) :
    ChansBusy s (l.foldl f s) := by
  induction l generalizing s with
  | nil => exact .of_dma rfl
  | cons a r ih => exact (h s a).trans (ih _)

/-- A change of one channel that leaves it IDLE or busy, as it was. -/
theorem setChan_chansBusy {ch : Nat} {v : DmaCh} {s : State} (h : SameBusy (chan s ch) v) : ChansBusy s (setChan ch v s) where
  sorted hs := tsorted_tset _ hs _ _
  same hs k := by
    rcases eq_or_ne k ch with rfl | hk
    · rwa [chan_setChan _ _ _ hs]
    · rw [chan_setChan_other _ _ _ _ hs hk]
      exact .refl _

theorem releaseAgent_chansBusy (agent : Nat) (s : State) : ChansBusy s (releaseAgent agent s) := by
  unfold releaseAgent
  split
  · exact .of_dma rfl
  · split
    · refine setChan_chansBusy ⟨?_, rfl⟩
      dsimp only
      split
      next hw => simp [hw]
      · exact Iff.rfl
    · exact .of_dma rfl

theorem unwaitAll_chansBusy (agent : Nat) (s : State) : ChansBusy s (unwaitAll agent s) :=
  unwaitAll_induction (fun _ => .of_dma rfl) .trans (fun _ _ _ => .of_dma rfl) releaseAgent_chansBusy agent s

theorem qctlWrite_dma (q : Nat) (s : State) : (qctlWrite q 0 s).dma = s.dma := by
  have htrain (t : State) : (trainBegin q t).dma = t.dma := by
    unfold trainBegin
    dsimp only
    split <;> rfl
  have hzero (n : Nat) : bitOf 0 n = false := by simp [bitOf]
  simp only [qctlWrite, hzero, Bool.or_self, Bool.false_and, Bool.false_eq_true, if_false, Bool.not_false, Bool.true_and]
  split
  · rfl
  · split
    · exact htrain _
    · rfl

theorem testCancel_dma (i : Nat) (s : State) : (testCancel i s).dma = s.dma := by
  have hunits : (unreserve (mslot s i) s).dma = s.dma := by
    refine foldl_field State.dma _ (fun t n => ?_) _ s
    dsimp only
    split <;> rfl
  exact (foldl_field State.dma _ (fun t q => qctlWrite_dma q t) _ _).trans hunits

theorem cmdCancel_dma {i : Nat} {s : State} (h : slotCmd (mslot s i) ≠ 0x40) : (cmdCancel i s).dma = s.dma := by
  unfold cmdCancel
  dsimp only
  split
  · rfl
  · rfl
  · rfl
  next hc => exact absurd hc h
  · split <;> rfl
  · exact testCancel_dma i s
  · unfold snapEnd
    split
    · exact logUnstage_dma _
    · rfl
  · rfl

theorem slotFree_chansBusy (i : Nat) (s : State) : ChansBusy s (slotFree i s) := by
  have hcancel : ChansBusy s (slotCancelled i s) := by
    refine .ite (.of_dma rfl) (.ite (unwaitAll_chansBusy _ s) ?_)
    split
    · exact .of_dma rfl
    next hc => exact .of_dma (cmdCancel_dma hc)
  exact hcancel.trans (.of_dma rfl)

theorem slotsFreed_chansBusy (s : State) : ChansBusy s (slotsFreed s) := .foldl (fun t i => slotFree_chansBusy i t) _ s

/-- A busy channel's copy ends where it is (R424). -/
def interruptedChan (t : State) (ch : Nat) : State :=
  if (chan t ch).state = .run ∨ (chan t ch).state = .wait then busStop ch t else t

/-- One channel under the reset. -/
def flrChan (t : State) (ch : Nat) : State :=
  if (chan t ch).state = .idle then t
  else modChan ch (fun c => { c with state := .idle, count := 0 }) (abandonOp ch false (interruptedChan t ch))

theorem dmaFlr_eq (s : State) : dmaFlr s = (List.range 64).foldl flrChan s := rfl

theorem smudge_errorsLeave (c : DmaCh) (s : State) : ErrorsLeave s (smudge c s) := by
  have hdrawn : ErrorsLeave s (drawn s) := .of_parts rfl rfl rfl rfl
  unfold smudge
  split
  · exact .refl s
  · exact .ite (hdrawn.trans (lovStore_errorsLeave ..)) (.ite (.of_parts rfl rfl rfl rfl) (.refl s))

theorem interruptedChan_flrKept (ch : Nat) (s : State) : FlrKept s (interruptedChan s ch) := by
  refine .ite ?_ (.refl s)
  exact ((smudge_errorsLeave _ s).flrKept.trans (unwaitAll_flrKept _ _)).trans (.of_slots rfl rfl rfl)

theorem flrChan_flrKept (ch : Nat) (s : State) : FlrKept s (flrChan s ch) := by
  refine .ite (.refl s) (((interruptedChan_flrKept ch s).trans (abandonOp_errorsLeave ..).flrKept).trans (.of_slots rfl rfl rfl))

theorem dmaFlr_flrKept (s : State) : FlrKept s (dmaFlr s) := by
  rw [dmaFlr_eq]
  exact .foldl (fun t ch => flrChan_flrKept ch t) _ s

theorem smudge_jobs (c : DmaCh) (s : State) : (smudge c s).jobs = s.jobs := (smudge_errorsLeave c s).still.parts.1

theorem unwaitAll_jobs (agent : Nat) (s : State) : (unwaitAll agent s).jobs = s.jobs := by
  rw [(unwaitAll_waitsOnly agent s).frame]

theorem flrChan_jobs (s : State) (ch : Nat) : (flrChan s ch).jobs = s.jobs := by
  have hstop : (interruptedChan s ch).jobs = s.jobs := by
    unfold interruptedChan
    split
    · exact (unwaitAll_jobs _ _).trans (smudge_jobs _ s)
    · rfl
  unfold flrChan
  split
  · rfl
  · exact (abandonOp_errorsLeave ch false _).still.parts.1.trans hstop

theorem dmaFlr_jobs (s : State) : (dmaFlr s).jobs = s.jobs := foldl_field State.jobs _ flrChan_jobs _ s

section Channels

variable {s : State} (hs : tsorted s.dma.chans)

include hs

theorem interruptedChan_sorted (ch : Nat) : tsorted (interruptedChan s ch).dma.chans := by
  unfold interruptedChan
  split
  · exact busStop_chans_sorted hs ch
  · exact hs

theorem interruptedChan_other {ch k : Nat} (hk : k ≠ ch) : SameBusy (chan s k) (chan (interruptedChan s ch) k) := by
  have hgo := (ChansBusy.of_dma (smudge_dma (chan s ch) s)).trans (unwaitAll_chansBusy (agentDma ch) _)
  unfold interruptedChan
  split
  · rw [busStop, chan_setChan_other _ _ _ _ (hgo.sorted hs) hk]
    exact hgo.same hs k
  · exact .refl _

theorem flrChan_sorted (ch : Nat) : tsorted (flrChan s ch).dma.chans := by
  unfold flrChan
  split
  · exact hs
  · exact tsorted_tset _ (abandonOp_chans_sorted (interruptedChan_sorted hs ch) ch false) _ _

theorem chan_flrChan_other {ch k : Nat} (hk : k ≠ ch) : SameBusy (chan s k) (chan (flrChan s ch) k) := by
  have hstop := interruptedChan_sorted hs ch
  unfold flrChan
  split
  · exact .refl _
  · rw [modChan, chan_setChan_other _ _ _ _ (abandonOp_chans_sorted hstop ch false) hk, chan_abandonOp_other hstop hk]
    exact interruptedChan_other hs hk

theorem chan_flrChan_same {ch : Nat} (h : (chan s ch).state ≠ .idle) : IdleEmpty (chan (flrChan s ch) ch) := by
  rw [flrChan, if_neg h, modChan, chan_setChan _ _ _ (abandonOp_chans_sorted (interruptedChan_sorted hs ch) ch false)]
  exact ⟨rfl, rfl⟩

/-- A channel that is IDLE is left as it is. -/
theorem chan_flrChan_idle (ch : Nat) {k : Nat} (h : (chan s k).state = .idle) : SameBusy (chan s k) (chan (flrChan s ch) k) := by
  rcases eq_or_ne k ch with rfl | hk
  · rw [flrChan, if_pos h]
    exact .refl _
  · exact chan_flrChan_other hs hk

end Channels

theorem foldl_flrChan_idle (l : List Nat) {s : State} (hs : tsorted s.dma.chans) {k : Nat} (h : (chan s k).state = .idle) :
    SameBusy (chan s k) (chan (l.foldl flrChan s) k) := by
  induction l generalizing s with
  | nil => exact .refl _
  | cons a r ih =>
    obtain ⟨hstate, hcount⟩ := chan_flrChan_idle hs a h
    obtain ⟨hrest, hrestCount⟩ := ih (flrChan_sorted hs a) (hstate.mpr h)
    exact ⟨hrest.trans hstate, hrestCount.trans hcount⟩

theorem foldl_flrChan_busy (l : List Nat) {s : State} (hs : tsorted s.dma.chans) {k : Nat} (hk : k ∈ l)
    (h : (chan s k).state ≠ .idle) : IdleEmpty (chan (l.foldl flrChan s) k) := by
  induction l generalizing s with
  | nil => exact absurd hk List.not_mem_nil
  | cons a r ih =>
    have hsort := flrChan_sorted hs a
    rcases eq_or_ne k a with rfl | hka
    · obtain ⟨hidle, hempty⟩ := chan_flrChan_same hs h
      obtain ⟨hstate, hcount⟩ := foldl_flrChan_idle r hsort hidle
      exact ⟨hstate.mpr hidle, hcount.trans hempty⟩
    · exact ih hsort ((List.mem_cons.mp hk).resolve_left hka) (mt (chan_flrChan_other hs hka).1.mp h)

theorem dmaFlr_chans {s : State} (hs : tsorted s.dma.chans) {k : Nat} (hk : k < 64) :
    (chan (dmaFlr s) k).state = .idle ∧ ((chan s k).state ≠ .idle → (chan (dmaFlr s) k).count = 0) := by
  rw [dmaFlr_eq]
  by_cases h : (chan s k).state = .idle
  · exact ⟨(foldl_flrChan_idle _ hs h).1.mpr h, fun hne => absurd h hne⟩
  · obtain ⟨hidle, hempty⟩ := foldl_flrChan_busy _ hs (List.mem_range.mpr hk) h
    exact ⟨hidle, fun _ => hempty⟩

/-! The entry into ORPHAN that ends the reset. -/

theorem dmaOrphan_of_idle {s : State} (h : ∀ k, k < 64 → (chan s k).state = .idle) : dmaOrphan s = s := by
  rw [dmaOrphan_eq]
  have hfix : ∀ l : List Nat, (∀ k ∈ l, k < 64) → l.foldl orphanChan s = s := fun l hl => by
    induction l with
    | nil => rfl
    | cons a r ih =>
      have hone : orphanChan s a = s := if_neg (by rw [h a (hl a List.mem_cons_self)]; decide)
      rw [List.foldl_cons, hone]
      exact ih fun k hk => hl k (List.mem_cons_of_mem _ hk)
  exact hfix _ fun k hk => List.mem_range.mp hk

/-- What an entry into ORPHAN keeps of the chip that a reset leaves. -/
structure EntryKept (s t : State) : Prop where
  chan : ∀ k, chan t k = chan s k
  slot : ∀ k, mslot t k = mslot s k
  ring : ∀ j, (job t j).wr = (job s j).wr ∧ (job t j).rd = (job s j).rd
  table : (t.hif.msix, t.hif.evBase, t.hif.evLog2, t.hif.epoch) = (s.hif.msix, s.hif.evBase, s.hif.evLog2, s.hif.epoch)
  rest : (t.quads, t.fuse, t.cal, t.pending) = (s.quads, s.fuse, s.cal, s.pending)

theorem tget_map_field {α β : Type} (d : α) (f : α → α) (g : α → β) (h : ∀ v, g (f v) = g v) (t : Table α) (k : Nat) :
    g (tget d (t.map (fun e => (e.1, f e.2))) k) = g (tget d t k) := by
  induction t with
  | nil => rfl
  | cons e r ih =>
    rw [List.map_cons, tget_cons, show e = (e.1, e.2) from rfl, tget_cons]
    split
    · exact h e.2
    · exact ih

theorem orphaned_entryKept (s : State) : EntryKept s (orphaned s) where
  chan _ := rfl
  slot _ := rfl
  ring j := ⟨tget_map_field ({} : Job) Job.orphan Job.wr (fun _ => rfl) s.jobs j,
    tget_map_field ({} : Job) Job.orphan Job.rd (fun _ => rfl) s.jobs j⟩
  table := rfl
  rest := rfl

theorem enterOrphan_entryKept {s : State} (hup : up s = true) (h : ∀ k, k < 64 → (chan s k).state = .idle) :
    EntryKept s (enterOrphan 0x0106 s) := by
  by_cases ho : s.hif.state = .owned
  · by_cases hp : s.fw.molt = .paused
    · rw [enterOrphan_of_paused _ ho hp]
      exact ⟨fun _ => rfl, fun _ => rfl, fun _ => ⟨rfl, rfl⟩, rfl, rfl⟩
    · obtain ⟨hleft, -, -⟩ := enterOrphan_enters 0x0106 hup (by decide) (by decide) ho hp
      obtain ⟨hchan, hslot, hring, htable, hrest⟩ := orphaned_entryKept s
      have hidle : dmaOrphan (orphaned s) = orphaned s := dmaOrphan_of_idle h
      have hdma : (enterOrphan 0x0106 s).dma = s.dma := by
        rw [enterOrphan_of_owned _ ho hp, raise_dma (by decide), logOpen_dma, hidle]
        rfl
      obtain ⟨hjobs, -⟩ := hleft.still.parts
      refine ⟨fun k => chan_of_dma hdma k, fun k => ?_, fun j => ?_, ?_, ?_⟩
      · rw [mslot, hleft.slots]
        rfl
      · rw [job, hjobs]
        exact hring j
      · have hhif := congrArg Aside.hif hleft.aside
        have hregs := congrArg (fun v : Hif => (v.msix, v.evBase, v.evLog2, v.epoch)) hhif
        exact hregs
      · have hside := congrArg (fun a : Aside => (a.fuse, a.cal, a.pending)) hleft.aside
        exact Prod.ext hleft.quads hside
  · rw [enterOrphan_of_not_owned _ ho]
    exact ⟨fun _ => rfl, fun _ => rfl, fun _ => ⟨rfl, rfl⟩, rfl, rfl⟩

/-- A job whose ring starts again at its first entry. -/
def Job.ringCleared (v : Job) : Job := { v with wr := 0, rd := 0 }

/-- The chip when the reset has cleared the MSI-X table, the event ring register and the places of every job's ring. -/
def ringsCleared (s : State) : State :=
  { s with
    hif := { s.hif with msix := [], pba := [], evLog2 := 0, evBase := 0 }
    jobs := s.jobs.map (fun e => (e.1, e.2.ringCleared)) }

theorem job_ringsCleared (s : State) (j : Nat) : job (ringsCleared s) j = (job s j).ringCleared :=
  tget_map_value ({} : Job) Job.ringCleared rfl s.jobs j

theorem testsQuiet_of_scratch {s : State} (h : ∀ e ∈ s.hif.slots, slotCmd e.2 = 0x60 → e.2.scratch.length ≤ 3) : TestsQuiet s := by
  intro k
  rcases tget_eq_or_mem {} s.hif.slots k with hk | hk
  · rw [mslot, hk]
    exact fun _ => Nat.zero_le 3
  · exact h _ hk

/-- The same beside the tables. -/
def Aside.ringsCleared (a : Aside) : Aside := { a with hif := { a.hif with msix := [], evLog2 := 0, evBase := 0 } }

/-- The chip after a reset, before its entry into ORPHAN. -/
def resetDone (s : State) : State := dmaFlr (ringsCleared (slotsFreed s))

theorem flr_eq (s : State) : flr s = enterOrphan 0x0106 (resetDone s) := rfl

theorem resetDone_aside (s : State) : (resetDone s).aside = s.aside.ringsCleared := by
  rw [resetDone, (dmaFlr_flrKept _).aside, ← (slotsFreed_flrKept s).aside]
  rfl

section ResetAside

variable {s u : State} (h : u.aside = s.aside.ringsCleared)

include h

theorem tables_of_ringsCleared : u.hif.msix = [] ∧ u.hif.evBase = 0 ∧ u.hif.evLog2 = 0 ∧ u.hif.epoch = s.hif.epoch :=
  have hhif := congrArg Aside.hif h
  have hepoch := congrArg Hif.epoch hhif
  ⟨congrArg Hif.msix hhif, congrArg Hif.evBase hhif, congrArg Hif.evLog2 hhif, hepoch⟩

theorem rest_of_ringsCleared : u.fuse = s.fuse ∧ u.cal = s.cal ∧ u.pending = s.pending :=
  ⟨congrArg Aside.fuse h, congrArg Aside.cal h, congrArg Aside.pending h⟩

theorem up_of_ringsCleared : up u = up s := up_of_pins (congrArg Aside.pins h)

theorem state_of_ringsCleared : u.hif.state = s.hif.state := congrArg (fun a : Aside => a.hif.state) h

theorem paused_of_ringsCleared : u.fw.molt = .paused ↔ s.fw.molt = .paused := decide_eq_decide.mp (congrArg Aside.paused h)

end ResetAside

theorem job_resetDone (s : State) (j : Nat) : job (resetDone s) j = (job (slotsFreed s) j).ringCleared := by
  rw [resetDone, job, dmaFlr_jobs]
  exact job_ringsCleared _ j

section ResetDone

variable {s : State} (hs : s.Sound)

include hs

theorem resetDone_freed (k : Nat) : SlotFreed (resetDone s) k :=
  have hsort : tsorted (slotsFreed s).hif.slots := (slotsFreed_flrKept s).sorted hs.slots
  (dmaFlr_flrKept (ringsCleared (slotsFreed s))).freed hsort k (slotsFreed_freed hs.slots k)

theorem resetDone_quads (hq : TestsQuiet s) : (resetDone s).quads = s.quads := by
  obtain ⟨hquiet, hfreed⟩ := (slotsFreed_flrKept s).quiet hs.slots hq
  have hsort : tsorted (slotsFreed s).hif.slots := (slotsFreed_flrKept s).sorted hs.slots
  have hdma := dmaFlr_flrKept (ringsCleared (slotsFreed s))
  exact (hdma.quiet hsort hquiet).2.trans hfreed

theorem resetDone_chans {k : Nat} (hk : k < 64) :
    (chan (resetDone s) k).state = .idle ∧ ((chan s k).state ≠ .idle → (chan (resetDone s) k).count = 0) := by
  have hbusy := slotsFreed_chansBusy s
  obtain ⟨hidle, hempty⟩ := dmaFlr_chans (s := ringsCleared (slotsFreed s)) (hbusy.sorted hs.chans) hk
  exact ⟨hidle, fun hne => hempty (mt (hbusy.same hs.chans k).1.mp hne)⟩

end ResetDone

/-- Settles O23: the slots are freed one by one, then the channels, and the entry into ORPHAN keeps both. -/
theorem functionLevelReset : Obligations.FunctionLevelReset := by
  unfold Obligations.FunctionLevelReset
  intro s hwf hup
  have hsound := hwf.sound
  have haside := resetDone_aside s
  obtain ⟨hmsix, hbase, hlog2, hepoch⟩ := tables_of_ringsCleared haside
  obtain ⟨hfuse, hcal, hpending⟩ := rest_of_ringsCleared haside
  have hup' : up (resetDone s) = true := (up_of_ringsCleared haside).trans hup
  obtain ⟨hchan, hslot, hring, htable, hrest⟩ := enterOrphan_entryKept hup' fun k hk => (resetDone_chans hsound hk).1
  rw [hmsix, hbase, hlog2, hepoch] at htable
  rw [hfuse, hcal, hpending] at hrest
  simp only [Prod.mk.injEq] at htable hrest
  obtain ⟨htmsix, htbase, htlog2, htepoch⟩ := htable
  obtain ⟨htquads, htfuse, htcal, htpending⟩ := hrest
  refine ⟨enterOrphan 0x0106 (resetDone s), whenUp_of_up flr hup, fun i => ?_, htmsix, htbase, htlog2, fun j => ?_, fun c hc => ?_, fun ho hp => ?_,
    fun hq => htquads.trans (resetDone_quads hsound (testsQuiet_of_scratch hq)), htfuse, htcal, htpending, htepoch⟩
  · rw [hslot]
    exact resetDone_freed hsound i
  · rw [(hring j).1, (hring j).2, job_resetDone]
    exact ⟨rfl, rfl⟩
  · rw [hchan]
    exact resetDone_chans hsound hc
  · have howned := (state_of_ringsCleared haside).trans ho
    have hruns := mt (paused_of_ringsCleared haside).mp hp
    obtain ⟨hleft, hpba, hset⟩ := enterOrphan_enters 0x0106 hup' (by decide) (by decide) howned hruns
    exact ⟨state_of_aside hleft.aside, hpba, hset⟩

end Sys2Proof.Machine

end
